-- ==== Sys2Proof/Word.lean ====
section
/-! DEFINITION. The word types of the Adeov and their plainest arithmetic (R27, R48, R86). -/

namespace Sys2Proof

/-- One byte. -/
abbrev Byte := BitVec 8

/-- A 16-bit half. -/
abbrev Half := BitVec 16

/-- One lane's 32-bit register value (R27). -/
abbrev Word := BitVec 32

/-- A 64-bit value: a register pair, an address as a program holds it, a lease-clock time (R27, R7). -/
abbrev DWord := BitVec 64

/-- The two halves of a register pair, low half first (R27). -/
def pairOf (lo hi : Word) : DWord := hi ++ lo

/-- The low half of a 64-bit value, held in vN (R27). -/
def loHalf (x : DWord) : Word := x.setWidth 32

/-- The high half of a 64-bit value, held in vN+1 (R27). -/
def hiHalf (x : DWord) : Word := (x >>> 32).setWidth 32

/-- What a compare writes: all ones for true, 0 for false (R27). -/
def boolWord (b : Bool) : Word := if b then BitVec.allOnes 32 else 0

end Sys2Proof
end

