-- ==== Sys2Proof/Syntax.lean ====
section
/-! DEFINITION. The instructions and events of the Adeov: one constructor of `Instr` for each row of the
opcode table (R179 to R191, and the steps the table lists beside the instructions). -/

namespace Sys2Proof

/-- A 16-bit operand field: register, pattern and k (R32, R180). Where an entry makes the field a number
(R184), the three parts are its bits. -/
structure Operand where
  reg : BitVec 8
  pat : BitVec 3
  k   : BitVec 5
  deriving DecidableEq, Repr

/-- The field that is all zeros. -/
def Operand.zero : Operand := ⟨0, 0, 0⟩

/-- The field as the 16 bits of the word: k, pattern, register from the high bit down (R180). -/
def Operand.bits (o : Operand) : BitVec 16 := o.k ++ o.pat ++ o.reg

/-- The field that 16 bits spell. -/
def Operand.ofBits (b : BitVec 16) : Operand :=
  ⟨b.extractLsb' 0 8, b.extractLsb' 8 3, b.extractLsb' 11 5⟩

/-- The fields of an instruction word of any of the three lengths (R179, R180). A field that the word's
length does not have is zero: `ext` is SPARE of the 96-bit word and EXT of the 128-bit word. -/
structure Fields where
  mod   : BitVec 6
  gr    : BitVec 8
  gs    : Bool
  ge    : Bool
  stall : BitVec 4
  d     : BitVec 8
  a     : Operand
  b     : Operand
  c     : Operand
  ext   : BitVec 8
  imm   : Word
  deriving DecidableEq, Repr

/-- The three instruction lengths (R179). -/
inductive Len
  | l64 | l96 | l128
  deriving DecidableEq, Repr

/-- The assigned opcodes of Table 2 of R191, by mnemonic. -/
inductive Op
  | iadd | isub | iadd3 | imul | imulh | imad | imadw | iabs | imin | imax | icmp | sel | shl
  | shr | sar | shf | and_ | or_ | xor_ | bfn3 | bfx | bfi | popc | clz | brev | prmb | mov | movi
  | lea | add64 | cmp64 | movx | movxw | fadd | fsub | fmul | ffma | fmin | fmax | fcmp | fclass
  | frcp | frsq | fsqrt | fexp2 | flog2 | fsin | fcos | ftanh | fsigm | fdot2 | fdot4 | fscale
  | frnd | cvtf | cvtfi | cvtif | pack16 | qnt | dqnt | mxscale | shfl | vote | matchL | flane
  | wred | wscan | cmpx | rebal | compact | bra | brx | call | ret | fcall | fsync | if_ | else_
  | endif | loop | break_ | cont_ | endloop | regang | bar | bara | barw | pba | pbw | ivl | yield
  | nop | exit_ | ld | st | lds | sts | lde | ste | ldc | pref | discard | amo | red | amos
  | txopen | txseal | txdrop | fence | waitc | trywait | qsp | gpreq | gpwait | dfree | palloc
  | pfree | gather | scatter | copy | copyr | mcfg | mlds | mswap | mloop | mzero | mrd | mst
  | macc | mfence | mwait | mmeta | tapbind | fgath | tapgo | tapwait | fev | frewr | frel | adpq
  | emit | launch | sigadd | ndone | cred | cgath | cbcst | ca2a | cwait | viewrd | vjoin | vack
  | trap | eret | ctlr | ctlw | halt | tlbinv | cacheop | ctxsv | ctxld | qend | sigr | rasw
  deriving DecidableEq, Repr

/-- A datum that an uncorrectable error can mark (R340). -/
inductive PoisonAt
  | mem (sector : Nat)                  -- a 32-byte sector of memory, by address / 32
  | spad (block word : Nat)             -- a 4-byte word of a block's scratchpad, by address / 4
  | reg (warp reg lane : Nat)           -- one lane of a register of a warp
  | acc (core cell : Nat)               -- an accumulator of a core's matrix unit
  deriving DecidableEq, Repr

/-- An access of another package to memory homed here, as REQ and ATOM messages bring it (R89, R302): a fill of a
32-byte sector with a lease class, a store of bytes, or an atomic operation (kind, width, operands). -/
structure FarAccess where
  package : Nat
  addr    : Nat
  lc      : Nat
  bytes   : List Byte
  amo     : Option (Nat × Bool × DWord × DWord)
  deriving DecidableEq, Repr

/-- Where an access that reaches a home comes from: a flight of this package, or another package. -/
inductive Origin
  | flight (f : Nat)
  | far (x : FarAccess)
  deriving DecidableEq, Repr

/-- A COLL message: a contribution tagged with its view, communicator, operation and sending rank
(R305). `parms` are the parameters of R271 as the sender issued them, `bad` the elements that are poisoned. -/
structure CollMsg where
  view  : Nat
  cid   : Nat
  op    : Nat
  rank  : Nat
  parms : List Nat
  data  : List Byte
  bad   : List Nat := []
  ack   : Bool := false              -- the receiver of rank `rank` acknowledges a contribution of this package (R306)
  deriving DecidableEq, Repr

/-- What the driver hands over to register a queue: the registering function (0 the PF, n + 1 for VF n),
the descriptor's address and the root of the queue's page table (R115, R86). -/
structure QueueReg where
  func : Nat
  desc : Nat
  root : Nat
  abi  : Nat × Nat := (1, 1)   -- the driver ABI and packet format versions that the driver offers (R303)
  fmt  : Nat × Nat := (1, 1)
  deriving DecidableEq, Repr

/-- A RESET message (R368). -/
structure ResetMsg where
  target : BitVec 16
  sender : BitVec 16
  view   : BitVec 32
  level  : BitVec 8
  time   : DWord
  tag    : BitVec 256
  deriving DecidableEq, Repr

/-- A PROPOSE or COMMIT: the fields of the new view (R370). `past` carries the bitmaps of the views since
the joiner's last, newest last (R376); `links` names each package's direct neighbours, as the rank map gives them
(R367). -/
structure ViewMsg where
  src    : Nat
  view   : Nat
  bitmap : List Nat
  leader : Nat
  ranks  : List Nat
  links  : List (Nat × List Nat)
  past   : List (Nat × List Nat)
  deriving DecidableEq, Repr

/-- A first-stage copy as the ROM finds it in flash (R307). -/
structure BootCopy where
  image    : List Byte
  deriving DecidableEq, Repr

/-- A firmware image as it was fetched (R307, R308). -/
structure FirmwareImage where
  url      : List Byte
  image    : List Byte
  started  : Bool            -- the firmware cores start
  number   : Nat             -- the package's number in the load-store domain (R71)
  parts    : List (Nat × Nat × List Nat × Nat × Nat)  -- partitioned mode: number, die, core clusters, memory base and end; empty: unified
  svc      : List (Nat × Word)   -- the service-class configuration: SVC_CFG_n and its value
  deriving DecidableEq, Repr

/-- The health figures (R313). -/
structure Health where
  eol   : List Word
  hbm   : List Word
  eye   : List Half
  power : Word
  deriving DecidableEq, Repr

/-- The registers that REGISTER_WRITE stores (R3): those with no behaviour of their own, and the fields
that may be written while a unit is off. -/
inductive Reg
  | fmtWinView (die n : Nat) | fmtWinStore (die n : Nat) | fmtWinScale (die n : Nat) | fmtWinCtl (die n : Nat)
  | svcCfg (die n : Nat) | leaseCls (die n : Nat)
  | poolCfg (die n : Nat) | poolStat (die n : Nat) | poolQref (die n : Nat)
  | mxGov (die : Nat) | wdogCfg (die : Nat) | raceCtl (die : Nat)
  | rasBase (die : Nat) | rasCtl (die : Nat) | rasTail (die : Nat)
  | zincKey (n : Nat) | zincJview | hostwin
  deriving DecidableEq, Repr

/-- One constructor per row of the opcode table. Those of the instructions hold the word's fields; those
of the events hold what the event is about. -/
inductive Instr
  /-- IADD: Adds two 32-bit operands per lane, wrapping or saturating as MOD selects (R200). -/
  | iadd (w : Fields)
  /-- ISUB: Subtracts two 32-bit operands per lane, with the same clamps as IADD (R200). -/
  | isub (w : Fields)
  /-- IADD3: Adds three 32-bit operands per lane modulo 2^32 (R200). -/
  | iadd3 (w : Fields)
  /-- IMUL: Multiplies two operands per lane modulo 2^32 (R200). -/
  | imul (w : Fields)
  /-- IMULH: Writes bits 63:32 of the signed or unsigned 64-bit product (R200). -/
  | imulh (w : Fields)
  /-- IMAD: Computes a times b plus c modulo 2^32 per lane (R200). -/
  | imad (w : Fields)
  /-- IMADW: Computes a widened product plus a 64-bit addend into a register pair (R200). -/
  | imadw (w : Fields)
  /-- IABS: Writes the absolute value of a, optionally saturating (R200). -/
  | iabs (w : Fields)
  /-- IMIN: Writes the signed or unsigned smaller operand (R200). -/
  | imin (w : Fields)
  /-- IMAX: Writes the signed or unsigned larger operand (R200). -/
  | imax (w : Fields)
  /-- ICMP: Compares two integers under the MOD condition and writes all-ones or zero (R199). -/
  | icmp (w : Fields)
  /-- SEL: Selects a where c is non-zero, and b otherwise (R200). -/
  | sel (w : Fields)
  /-- SHL: Shifts left, giving 0 for counts of 32 or more (R200). -/
  | shl (w : Fields)
  /-- SHR: Shifts right with zero fill (R200). -/
  | shr (w : Fields)
  /-- SAR: Shifts right with sign fill (R200). -/
  | sar (w : Fields)
  /-- SHF: Funnel-shifts the 64-bit concatenation of c and a left or right (R200). -/
  | shf (w : Fields)
  /-- AND: Bitwise AND per lane (R200). -/
  | and_ (w : Fields)
  /-- OR: Bitwise OR per lane (R200). -/
  | or_ (w : Fields)
  /-- XOR: Bitwise XOR per lane (R200). -/
  | xor_ (w : Fields)
  /-- BFN3: Applies an 8-entry truth table bitwise to three operands (R200). -/
  | bfn3 (w : Fields)
  /-- BFX: Extracts a bit field, zero- or sign-extended (R200). -/
  | bfx (w : Fields)
  /-- BFI: Inserts the low bits of a into a bit field of c (R200). -/
  | bfi (w : Fields)
  /-- POPC: Counts the one bits of a (R200). -/
  | popc (w : Fields)
  /-- CLZ: Counts the leading zero bits of a (R200). -/
  | clz (w : Fields)
  /-- BREV: Reverses the bits of a (R200). -/
  | brev (w : Fields)
  /-- PRMB: Permutes bytes of a 64-bit pair under a selector, with optional sign replication (R200). -/
  | prmb (w : Fields)
  /-- MOV: Copies an operand, through its crossbar pattern, to the destination (R200). -/
  | mov (w : Fields)
  /-- MOVI: Writes a 32-bit immediate to the destination (R200). -/
  | movi (w : Fields)
  /-- LEA: Writes the instruction's address plus a signed offset to a register pair (R200). -/
  | lea (w : Fields)
  /-- ADD64: Adds two 64-bit values modulo 2^64 (R200). -/
  | add64 (w : Fields)
  /-- CMP64: Compares two 64-bit values under the MOD condition (R199). -/
  | cmp64 (w : Fields)
  /-- MOVX: Reads the register whose number each lane computes, trapping on an index at or above the declared count (R201). -/
  | movx (w : Fields)
  /-- MOVXW: Writes the register whose number each lane computes, trapping on an index at or above the declared count (R201). -/
  | movxw (w : Fields)
  /-- FADD: Adds floats in FP32 or packed halves, rounded in the MOD mode (R202). -/
  | fadd (w : Fields)
  /-- FSUB: Subtracts floats, rounded in the MOD mode (R202). -/
  | fsub (w : Fields)
  /-- FMUL: Multiplies floats, rounded in the MOD mode (R202). -/
  | fmul (w : Fields)
  /-- FFMA: Computes a times b plus c with a single rounding (R202). -/
  | ffma (w : Fields)
  /-- FMIN: Returns the IEEE minimumNumber of two operands (R203). -/
  | fmin (w : Fields)
  /-- FMAX: Returns the IEEE maximumNumber of two operands (R203). -/
  | fmax (w : Fields)
  /-- FCMP: Compares floats under the MOD condition, quiet or signalling (R203). -/
  | fcmp (w : Fields)
  /-- FCLASS: Writes a one-hot class code of the float operand (R204). -/
  | fclass (w : Fields)
  /-- FRCP: Computes an approximate or exact reciprocal (R205). -/
  | frcp (w : Fields)
  /-- FRSQ: Computes an approximate or exact reciprocal square root (R205). -/
  | frsq (w : Fields)
  /-- FSQRT: Computes the correctly rounded square root (R205). -/
  | fsqrt (w : Fields)
  /-- FEXP2: Computes an approximate or exact base-2 exponential (R205). -/
  | fexp2 (w : Fields)
  /-- FLOG2: Computes an approximate or exact base-2 logarithm (R205). -/
  | flog2 (w : Fields)
  /-- FSIN: Computes an approximate or exact sine (R205). -/
  | fsin (w : Fields)
  /-- FCOS: Computes an approximate or exact cosine (R205). -/
  | fcos (w : Fields)
  /-- FTANH: Computes an approximate or exact hyperbolic tangent (R205). -/
  | ftanh (w : Fields)
  /-- FSIGM: Computes an approximate or exact logistic sigmoid (R205). -/
  | fsigm (w : Fields)
  /-- FDOT2: Computes a two-element 16-bit dot product plus an FP32 addend with one rounding (R202). -/
  | fdot2 (w : Fields)
  /-- FDOT4: Computes a four-element 8-bit float dot product plus an FP32 addend with one rounding (R202). -/
  | fdot4 (w : Fields)
  /-- FSCALE: Multiplies a by 2 to the integer power b with one rounding (R202). -/
  | fscale (w : Fields)
  /-- FRND: Rounds an FP32 value to an integral value in the MOD mode (R202). -/
  | frnd (w : Fields)
  /-- CVTF: Converts between FP32, FP16 and BF16 (R207). -/
  | cvtf (w : Fields)
  /-- CVTFI: Converts FP32 to a saturated signed or unsigned integer (R207). -/
  | cvtfi (w : Fields)
  /-- CVTIF: Converts a signed or unsigned integer to FP32 (R207). -/
  | cvtif (w : Fields)
  /-- PACK16: Rounds two values to FP16 or BF16 and packs them into one register (R202). -/
  | pack16 (w : Fields)
  /-- QNT: Quantises four 16-bit elements per lane under a scale code to E4M3, E5M2, E2M1 or K4X (R208). -/
  | qnt (w : Fields)
  /-- DQNT: Dequantises four narrow elements per lane under a scale code to FP16 or BF16 (R209). -/
  | dqnt (w : Fields)
  /-- MXSCALE: Chooses one scale code for the active lanes' elements as a block and writes it to every active lane (R210). -/
  | mxscale (w : Fields)
  /-- SHFL: Moves values between lanes within segments, with a fill value outside the segment (R212). -/
  | shfl (w : Fields)
  /-- VOTE: Summarises a predicate across active lanes as a mask, count, rank or test (R213). -/
  | vote (w : Fields)
  /-- MATCH: Finds active lanes holding equal values as leader, mask or rank (R213). -/
  | matchL (w : Fields)
  /-- FLANE: Finds the lowest or highest set lane (R213). -/
  | flane (w : Fields)
  /-- WRED: Reduces the warp's values by the fixed tree and writes the result to every active lane (R214). -/
  | wred (w : Fields)
  /-- WSCAN: Writes each lane's inclusive or exclusive scan by the fixed tree (R214). -/
  | wscan (w : Fields)
  /-- CMPX: Performs one compare-exchange step of a sorting network with a partner lane (R215). -/
  | cmpx (w : Fields)
  /-- REBAL: Computes a stable partition index per active lane (R216). -/
  | rebal (w : Fields)
  /-- COMPACT: Gathers the values of selected lanes into rank order (R216). -/
  | compact (w : Fields)
  /-- BRA: Branches per slice to a relative target (R217). -/
  | bra (w : Fields)
  /-- BRX: Branches per slice to the address held in the slice's lowest active lane (R217). -/
  | brx (w : Fields)
  /-- CALL: Writes the link and branches per slice to a relative target (R217). -/
  | call (w : Fields)
  /-- RET: Returns per slice to the address in a register pair (R217). -/
  | ret (w : Fields)
  /-- FCALL: Forks a twin to run the callee while the caller continues speculatively with predicted return values, or acts as CALL (R226). -/
  | fcall (w : Fields)
  /-- FSYNC: Waits for the verdict of every open FCALL of the issuing slices (R227). -/
  | fsync (w : Fields)
  /-- IF: Opens a structured conditional, changing nesting counters (R218). -/
  | if_ (w : Fields)
  /-- ELSE: Switches the arms of a structured conditional (R218). -/
  | else_ (w : Fields)
  /-- ENDIF: Closes a structured conditional (R218). -/
  | endif (w : Fields)
  /-- LOOP: Opens a structured loop, adding two to inactive counters (R218). -/
  | loop (w : Fields)
  /-- BREAK: Takes lanes out of the innermost loop where the condition holds (R218). -/
  | break_ (w : Fields)
  /-- CONT: Skips lanes to the next pass of the innermost loop where the condition holds (R218). -/
  | cont_ (w : Fields)
  /-- ENDLOOP: Rejoins continued lanes and either branches back or leaves the loop (R20). -/
  | endloop (w : Fields)
  /-- REGANG: Makes named parted slices wait for one another and continue with one program counter (R24). -/
  | regang (w : Fields)
  /-- BAR: Arrives at a block barrier, expecting every warp, and waits (R220). -/
  | bar (w : Fields)
  /-- BARA: Arrives at a barrier with an expected count and does not wait (R220). -/
  | bara (w : Fields)
  /-- BARW: Arrives at a barrier with an expected count and waits (R220). -/
  | barw (w : Fields)
  /-- PBA: Releases and atomically counts arrivals on a scratchpad phase-bit barrier, flipping PHASE when the count is reached (R223). -/
  | pba (w : Fields)
  /-- PBW: Waits until a phase-bit barrier's PHASE differs from a given bit, then acquires (R223). -/
  | pbw (w : Fields)
  /-- IVL: Opens an interval and prefetches its working set into the fast file (R224). -/
  | ivl (w : Fields)
  /-- YIELD: Resets the warp's AGE and makes it ineligible for the next cycle (R225). -/
  | yield (w : Fields)
  /-- NOP: Does nothing but hold its stall count, or acts as a fetch filler (R225). -/
  | nop (len : Len) (w : Fields)
  /-- EXIT: Ends slices, and the warp when all have ended, passing a quiescent point (R225). -/
  | exit_ (w : Fields)
  /-- LD: Loads from global memory per lane through the L1 under leases (R234). -/
  | ld (w : Fields)
  /-- ST: Stores to global memory per lane, writing through to the home (R234). -/
  | st (w : Fields)
  /-- LDS: Loads from the block's scratchpad per lane (R234). -/
  | lds (w : Fields)
  /-- STS: Stores to the block's scratchpad per lane (R234). -/
  | sts (w : Fields)
  /-- LDE: Loads one 4-bit element per lane, decoding K4X or E2M1 or returning the raw nibble (R237). -/
  | lde (w : Fields)
  /-- STE: Stores one 4-bit element per lane as a masked read-modify-write at the home slice (R238). -/
  | ste (w : Fields)
  /-- LDC: Loads from the launch's argument block at a bounded offset (R236). -/
  | ldc (w : Fields)
  /-- PREF: Prefetches a line into the L1 or the home L2 or RDC, dropping it silently on any fault (R239). -/
  | pref (w : Fields)
  /-- DISCARD: Drops a 128-byte line at its home without write-back, as a store of no value (R240). -/
  | discard (w : Fields)
  /-- AMO: Performs an atomic read-modify-write on a global word and returns the old value (R242). -/
  | amo (w : Fields)
  /-- RED: Performs an atomic read-modify-write on a global word without a return (R242). -/
  | red (w : Fields)
  /-- AMOS: Performs an atomic read-modify-write on a scratchpad word and returns the old value (R242). -/
  | amos (w : Fields)
  /-- TXOPEN: Starts a transaction in each active guarded lane and reports its consecutive abort count (R244). -/
  | txopen (w : Fields)
  /-- TXSEAL: Waits for all transaction slices, resolves conflicts, validates and commits, and writes each lane's status (R103). -/
  | txseal (w : Fields)
  /-- TXDROP: Aborts each active guarded transaction lane with cause 4 and a code (R244). -/
  | txdrop (w : Fields)
  /-- FENCE: Acquires, releases or both at a scope, stalling the issuing slices (R245). -/
  | fence (w : Fields)
  /-- WAITC: Waits until an engine class counter is at or below n (R246). -/
  | waitc (w : Fields)
  /-- TRYWAIT: Tests words at their home slices and suspends the warp until one differs, a store arrives or the hint elapses (R247). -/
  | trywait (w : Fields)
  /-- QSP: Passes a quiescent point (R248). -/
  | qsp (w : Fields)
  /-- GPREQ: Returns a grace number, starting a grace period if none is in progress (R107). -/
  | gpreq (w : Fields)
  /-- GPWAIT: Passes a quiescent point and waits until GP_DONE reaches the grace number or the highest number handed out (R248). -/
  | gpwait (w : Fields)
  /-- DFREE: Queues per-lane blocks on the die's deferred-free queue to be freed after a grace period (R108). -/
  | dfree (w : Fields)
  /-- PALLOC: Pops one block per lane from a pool's free list, or returns 0 (R250). -/
  | palloc (w : Fields)
  /-- PFREE: Pushes per-lane blocks onto a pool's free list at once (R250). -/
  | pfree (w : Fields)
  /-- GATHER: Sends per-lane element reads to their home slices and packs them into scratchpad (R252). -/
  | gather (w : Fields)
  /-- SCATTER: Sends per-lane elements from scratchpad to their home slices (R252). -/
  | scatter (w : Fields)
  /-- COPY: Moves a tile between global memory and scratchpad through a layout word (R253). -/
  | copy (w : Fields)
  /-- COPYR: Copies between two non-overlapping global ranges (R254). -/
  | copyr (w : Fields)
  /-- MCFG: Binds a weight layout record, sets the unit dense and takes ownership of the matrix unit (R167). -/
  | mcfg (w : Fields)
  /-- MLDS: Fetches a plane and its scales into the shadow plane (R167). -/
  | mlds (w : Fields)
  /-- MSWAP: Exchanges the active and shadow planes (R167). -/
  | mswap (w : Fields)
  /-- MLOOP: Streams activation rows past stationary planes into accumulators, with hold, row-mask and adapter options (R169). -/
  | mloop (w : Fields)
  /-- MZERO: Writes +0 to every element of an accumulator tile (R167). -/
  | mzero (w : Fields)
  /-- MRD: Reads one accumulator row of a tile into lanes (R167). -/
  | mrd (w : Fields)
  /-- MST: Stores accumulator rows to scratchpad in a chosen format (R259). -/
  | mst (w : Fields)
  /-- MACC: Adds FP32 words from scratchpad into accumulator rows (R259). -/
  | macc (w : Fields)
  /-- MFENCE: Closes the warp's outstanding matrix operations into a numbered batch (R176). -/
  | mfence (w : Fields)
  /-- MWAIT: Waits until a named batch has completed (R176). -/
  | mwait (w : Fields)
  /-- MMETA: Binds a sparsity side array and empties the metadata cache (R173). -/
  | mmeta (w : Fields)
  /-- TAPBIND: Names a tap record, layout words and row table for the core's tap unit (R143). -/
  | tapbind (w : Fields)
  /-- FGATH: Forms the union of rule features and gathers group 0 into the stationary plane (R144). -/
  | fgath (w : Fields)
  /-- TAPGO: Streams rule rows through the matrix unit, applies rules and writes output rows (R145). -/
  | tapgo (w : Fields)
  /-- TAPWAIT: Delivers the next undelivered event as a feature trap, or completes with the count of held rows (R151). -/
  | tapwait (w : Fields)
  /-- FEV: Makes the next undelivered event current, or writes 0 (R153). -/
  | fev (w : Fields)
  /-- FREWR: Rewrites the current event's output row by beta times the decoder column (R154). -/
  | frewr (w : Fields)
  /-- FREL: Releases the current event's row and marks its remaining events delivered (R154). -/
  | frel (w : Fields)
  /-- ADPQ: Looks up adapters per lane, returning block, parked or no-adapter, and starts loads by CAS and append (R159). -/
  | adpq (w : Fields)
  /-- EMIT: Appends per-lane records to a stream node's queue or overflow area, or returns failure (R264). -/
  | emit (w : Fields)
  /-- LAUNCH: Releases and offers one child launch to the partition's child queue (R266). -/
  | launch (w : Fields)
  /-- SIGADD: Releases at SYSTEM scope and atomically adds to signal VALUEs (R267). -/
  | sigadd (w : Fields)
  /-- NDONE: Frees the record places taken by the warp's stream-launched cluster (R268). -/
  | ndone (w : Fields)
  /-- CRED: Starts a collective reduction over the communicator's members by a fixed rank tree (R272). -/
  | cred (w : Fields)
  /-- CGATH: Starts a collective gather of every rank's source (R271). -/
  | cgath (w : Fields)
  /-- CBCST: Starts a collective broadcast of the root's source (R271). -/
  | cbcst (w : Fields)
  /-- CA2A: Starts a collective all-to-all exchange (R271). -/
  | ca2a (w : Fields)
  /-- CWAIT: Waits for a collective ticket to complete and writes its status (R273). -/
  | cwait (w : Fields)
  /-- VIEWRD: Reads the current view number, leader, members or membership (R276). -/
  | viewrd (w : Fields)
  /-- VJOIN: Asks for the package to be admitted at the next view and sends JOIN (R277). -/
  | vjoin (w : Fields)
  /-- VACK: Acknowledges the current view for a communicator and resets its operation numbering (R277). -/
  | vack (w : Fields)
  /-- TRAP: Raises the software trap with a code (R281). -/
  | trap (w : Fields)
  /-- ERET: Restores v0-v3, program counters and counters, clears TMODE and reloads the working set (R46). -/
  | eret (w : Fields)
  /-- CTLR: Reads a control word into every active lane (R280). -/
  | ctlr (w : Fields)
  /-- CTLW: Writes the leader's value into a writable control word (R280). -/
  | ctlw (w : Fields)
  /-- HALT: Kills the issuing warp (R281). -/
  | halt (w : Fields)
  /-- TLBINV: Releases and removes matching translations from every TLB of the package (R282). -/
  | tlbinv (w : Fields)
  /-- CACHEOP: Invalidates instruction cache, L1 or RDC lines, or writes back or invalidates L2 lines over a range (R283). -/
  | cacheop (w : Fields)
  /-- CTXSV: Saves a block's context to a save area and frees its resources (R284). -/
  | ctxsv (w : Fields)
  /-- CTXLD: Restores a block's context onto a core that has room (R284). -/
  | ctxld (w : Fields)
  /-- QEND: Performs a packet's completion actions: signal decrement and RPTR advance (R285). -/
  | qend (w : Fields)
  /-- SIGR: Reads a signal VALUE from its home slice and acts as an acquire (R285). -/
  | sigr (w : Fields)
  /-- RASW: Hands a 64-byte record to the die's RAS engine (R285). -/
  | rasw (w : Fields)
  /-- REGANG_RELEASE: the slices of warp w waiting at the REGANG at addr go on (R24). -/
  | regangRelease (w : Nat) (addr : DWord)
  /-- BARRIER_PHASE_COMPLETE: barrier bar of block b completes its phase (R220, R221). -/
  | barrierPhaseComplete (b bar : Nat)
  /-- INTERVAL_PREFETCH_DONE: the working set of warp w is in the fast file (R29, R31). -/
  | intervalPrefetchDone (w : Nat)
  /-- FENCE_RELEASE_DONE: a fence of warp w has nothing left to wait for (R95). -/
  | fenceReleaseDone (w : Nat)
  /-- TRYWAIT_WAKE: a store reached the home of a word that warp w waits on (R100). -/
  | trywaitWake (w : Nat)
  /-- TRYWAIT_HINT_EXPIRY: the hint of warp w's TRYWAIT has elapsed (R100). -/
  | trywaitHintExpiry (w : Nat)
  /-- GRACE_PERIOD_COMPLETE: the grace period in progress in partition p completes (R106). -/
  | gracePeriodComplete (p : Nat)
  /-- CP_COMPLETE: a copy operation performs its moves and completes (R97, R253, R254). -/
  | cpComplete (op : Nat)
  /-- GS_COMPLETE: a gather or scatter performs its moves and completes (R84, R85, R97). -/
  | gsComplete (op : Nat)
  /-- ENGINE_WPROT: an engine operation meets an RDO page and stops there (R346). -/
  | engineWprot (op : Nat)
  /-- MATRIX_OP_EXECUTE: the matrix unit of a core runs the head of its queue (R162). -/
  | matrixOpExecute (core : Nat)
  /-- MX_BATCH_COMPLETE: the oldest closed batch of warp w completes (R176). -/
  | mxBatchComplete (w : Nat)
  /-- TAPBIND_BEGIN: the tap unit of a core accepts its next waiting instruction (R143). -/
  | tapbindBegin (core : Nat)
  /-- FGATH_COMPLETE: group 0 is in the plane (R144). -/
  | fgathComplete (core : Nat)
  /-- TAPGO_COMPLETE: the tap unit runs its tile to the end (R145). -/
  | tapgoComplete (core : Nat)
  /-- EVENT_RING_ADVANCE: the oldest written ring record's completion time has passed (R148). -/
  | eventRingAdvance (core : Nat)
  /-- COLL_MESSAGE_RECEIVE: a contribution reaches this package (R305). -/
  | collMessageReceive (m : CollMsg)
  /-- COLL_OP_COMPLETE: a collective operation completes at this package (R306). -/
  | collOpComplete (op : Nat)
  /-- ISSUE_CYCLE: slot selects an eligible warp and a gang; dt nanoseconds of the lease clock pass (R132, R8). -/
  | issueCycle (slot dt : Nat)
  /-- WARP_START: warp i of block b is admitted and starts (R15, R28). -/
  | warpStart (b i : Nat)
  /-- LOAD_RETURN: a variable result lands in its registers (R37). -/
  | loadReturn (f : Nat)
  /-- HOME_WRITE_ARRIVAL: access k of a store-class flight, or an access of another package, reaches its home (R92, R302). -/
  | homeWriteArrival (f : Origin) (k : Nat)
  /-- STORE_ACK: the acknowledgement of a store-class flight reaches its warp (R92). -/
  | storeAck (f : Nat)
  /-- LINE_FILL: access k of a load-class flight, or a fill of another package's cache, is served by its home and granted a
  lease (R80, R89). -/
  | lineFill (f k : Nat) (far : Option FarAccess)
  /-- LEASE_EXPIRY: the k-th cached copy lapses (R89). -/
  | leaseExpiry (k : Nat)
  /-- TLB_WALK_COMPLETE: the k-th outstanding page-table walk ends (R87, R88). -/
  | tlbWalkComplete (k : Nat)
  /-- PAGE_FAULT_RESOLVED: the firmware resolves the k-th page fault or declares it unresolvable (R345). -/
  | pageFaultResolved (k : Nat) (resolved : Bool)
  /-- ECC_UNCORRECTABLE: an uncorrectable error marks a datum as poisoned (R340). -/
  | eccUncorrectable (at_ : PoisonAt)
  /-- WATCHDOG: the watchdog of warp w expires (R338). -/
  | watchdog (w : Nat)
  /-- QUANTUM_END: the quantum of warp w ends (R111). -/
  | quantumEnd (w : Nat)
  /-- ROUND_COMMIT: the round of launch l commits (R112). -/
  | roundCommit (l : Nat)
  /-- ROUND_START: the next round of launch l starts (R112). -/
  | roundStart (l : Nat)
  /-- ROUND_STUCK_TIMEOUT: a round of launch l has not ended 1 s after it began (R361). -/
  | roundStuckTimeout (l : Nat)
  /-- QUEUE_REGISTER: the driver registers a queue descriptor (R115). -/
  | queueRegister (r : QueueReg)
  /-- QDB: a function writes a queue number to QDB (R299, R300). -/
  | qdb (func q : Nat)
  /-- QKILL: a function writes a queue number to QKILL (R357). -/
  | qkill (func q : Nat)
  /-- WPTR_POLL: the firmware reads the WPTR of every registered queue (R300). -/
  | wptrPoll
  /-- LAUNCH_PACKET: the next packet of queue q, a LAUNCH, starts (R121). -/
  | launchPacket (q : Nat)
  /-- COPY_PACKET: the next packet of queue q, a COPY, starts (R117). -/
  | copyPacket (q : Nat)
  /-- SIGNAL_PACKET: the next packet of queue q, a SIGNAL, is applied (R118). -/
  | signalPacket (q : Nat)
  /-- WAITSIG_PACKET: the next packet of queue q, a WAITSIG, starts (R118). -/
  | waitsigPacket (q : Nat)
  /-- WAITSIG_COMPLETE: the WAITSIG that holds queue q finds its limits met (R118). -/
  | waitsigComplete (q : Nat)
  /-- GANG_PACKET: the next packet of queue q, a GANG, reserves partitions (R123). -/
  | gangPacket (q : Nat)
  /-- GANG_COMMIT: the gang of queue q commits (R123). -/
  | gangCommit (q : Nat)
  /-- GANG_RESERVE_TIMEOUT: the gang of queue q rolls its reservations back (R358). -/
  | gangReserveTimeout (q : Nat)
  /-- GRAPH_PACKET: the next packet of queue q, a GRAPH, is handed to the walker (R130). -/
  | graphPacket (q : Nat)
  /-- GRAPH_NODE_START: node n of graph g runs (R130). -/
  | graphNodeStart (g n : Nat)
  /-- GRAPH_NODE_COMPLETE: node n of graph g completes (R130). -/
  | graphNodeComplete (g n : Nat)
  /-- STREAM_CLUSTER_LAUNCH: the walker launches a cluster of stream node n (R131). -/
  | streamClusterLaunch (g n : Nat)
  /-- CHILD_LAUNCH_START: the oldest child launch of partition p starts (R266). -/
  | childLaunchStart (p : Nat)
  /-- CLUSTER_START: the next cluster of launch l is placed on core cluster cl (R126). -/
  | clusterStart (l cl : Nat)
  /-- CLUSTER_RETIRE: the next exited cluster of launch l retires (R126). -/
  | clusterRetire (l : Nat)
  /-- PACKET_COMPLETE: packet idx of queue q completes (R118). -/
  | packetComplete (q idx : Nat)
  /-- PREEMPTION: queue q is pre-empted (R134). -/
  | preemption (q : Nat)
  /-- PREEMPT_DRAIN_TIMEOUT: the pre-emption of queue q is abandoned (R351). -/
  | preemptDrainTimeout (q : Nat)
  /-- POOL_ENABLE: POOL_CFG_n is written with EN = 1 (R109). -/
  | poolEnable (die n : Nat) (v : DWord)
  /-- POOL_LINK_DONE: the linking of a pool ends (R250). -/
  | poolLinkDone (die n : Nat)
  /-- POOL_DISABLE: POOL_CFG_n is written with EN = 0 (R109). -/
  | poolDisable (die n : Nat)
  /-- FMT_WIN_ENABLE: FMT_WIN_CTL_n is written with EN = 1 (R77). -/
  | fmtWinEnable (die n : Nat) (v : Word)
  /-- FMT_WIN_DISABLE: FMT_WIN_CTL_n is written with EN = 0 (R77). -/
  | fmtWinDisable (die n : Nat)
  /-- FMT_WIN_DISABLE_DONE: the lines of a window are written back and EN reads 0 (R77). -/
  | fmtWinDisableDone (die n : Nat)
  /-- FMT_WIN_FLAG_CLEAR: ones are written to SAT or NAN (R73). -/
  | fmtWinFlagClear (die n : Nat) (sat nan : Bool)
  /-- RAS_OVF_CLEAR: a one is written to OVF (R365). -/
  | rasOvfClear (die : Nat)
  /-- REGISTER_WRITE: a register with no behaviour of its own is written (R3). -/
  | registerWrite (r : Reg) (v : DWord)
  /-- RAS_APPEND: the RAS engine of a die takes its next record (R365). -/
  | rasAppend (die : Nat)
  /-- RAS_HEAD_ADVANCE: RAS_HEAD advances past a written record (R365). -/
  | rasHeadAdvance (die : Nat)
  /-- TIN_POLL: Tin visits its next queue (R369). -/
  | tinPoll (die : Nat)
  /-- HOST_BAR2_ACCESS: the host reads or writes device memory (R301). -/
  | hostBar2Access (func : Nat) (addr : Nat) (data : Option (List Byte)) (len : Nat)
  /-- LINK_BRINGUP: a port negotiates its version with package `peer` at the other end (R303). -/
  | linkBringup (port peer lo hi : Nat)
  /-- BEAT_SEND: a die sends a BEAT on each of its links (R367). -/
  | beatSend (die : Nat)
  /-- BEAT_WINDOW_END: a 50 microsecond window of neighbour p ends (R367, R380). -/
  | beatWindowEnd (p : Nat) (beat live : Bool)
  /-- SUSPECT: a SUSPECT(p) from package src arrives, or src's withdrawal of it (R367, R380). -/
  | suspect (src p : Nat) (holds : Bool)
  /-- RESET: a RESET reaches the active island (R368). -/
  | reset (m : ResetMsg)
  /-- RESET_ESCALATE_TIMEOUT: 300 ms have passed since level 1 was sent to package p (R368). -/
  | resetEscalateTimeout (p : Nat)
  /-- PROPOSE: a PROPOSE reaches this package (R370). -/
  | propose (m : ViewMsg)
  /-- ACK: an ACK reaches the proposer (R370). -/
  | ack (src view : Nat)
  /-- ACK_TIMEOUT: 10 microseconds have passed since this package's PROPOSE (R370). -/
  | ackTimeout
  /-- COMMIT: a COMMIT reaches this package (R371, R372). -/
  | commit (m : ViewMsg)
  /-- JOIN: a JOIN of package src reaches this package (R376). -/
  | join (src jview : Nat)
  /-- ISLAND_HEARTBEAT: a heartbeat of the active island is due (R310). -/
  | islandHeartbeat (arrives : Bool)
  /-- ISLAND_TAKEOVER: the standby island takes over (R310). -/
  | islandTakeover
  /-- BOOT: power is applied and the ROM runs (R307); `flashLost`: the signature count in flash is lost (R311). -/
  | boot (a b : BootCopy) (flashLost : Bool)
  /-- BOOT_FETCH_RETRY: a fetch of the firmware image failed and is tried again (R307). -/
  | bootFetchRetry
  /-- FIRMWARE_FETCH_DONE: the firmware image has been fetched (R307, R308). -/
  | firmwareFetchDone (m : FirmwareImage)
  /-- MREG_EXTEND: the firmware extends a measurement register (R309). -/
  | mregExtend (j : Nat) (v : List Byte)
  /-- GET_VERSION: the responder answers GET_VERSION (R312). -/
  | getVersion
  /-- GET_CAPABILITIES: the responder answers GET_CAPABILITIES (R312). -/
  | getCapabilities
  /-- NEGOTIATE_ALGORITHMS: the responder answers NEGOTIATE_ALGORITHMS (R312). -/
  | negotiateAlgorithms
  /-- GET_DIGESTS: the responder answers GET_DIGESTS (R312). -/
  | getDigests
  /-- GET_CERTIFICATE: the responder answers GET_CERTIFICATE (R312). -/
  | getCertificate (slot off len : Nat)
  /-- GET_MEASUREMENTS: the responder answers GET_MEASUREMENTS (R312). -/
  | getMeasurements (index : Nat) (sign : Bool) (nonce : List Byte)
  /-- HEALTH_UPDATE: the firmware rewrites the health figures (R313). -/
  | healthUpdate (h : Health)
  /-- POWER_BUDGET_ADJUST: the firmware sets BUDGET of a die (R314). -/
  | powerBudgetAdjust (die : Nat) (budget : BitVec 6)
  /-- FIRMWARE_RETURN: the firmware core of a die returns from reset (R369). -/
  | firmwareReturn (die : Nat)
  /-- LINK_DOWN: a port that was up goes down (R366). -/
  | linkDown (port : Nat)
  /-- VACK_ARRIVAL: another member's acknowledgement reaches the Zinc unit (R277). -/
  | vackArrival (src : Nat) (cid view : Nat)
  deriving DecidableEq, Repr

/-- An instruction's opcode, length and fields; none for an event. -/
def Instr.word : Instr → Option (Op × Len × Fields)
  | .iadd w => some (.iadd, .l96, w)
  | .isub w => some (.isub, .l96, w)
  | .iadd3 w => some (.iadd3, .l96, w)
  | .imul w => some (.imul, .l96, w)
  | .imulh w => some (.imulh, .l96, w)
  | .imad w => some (.imad, .l96, w)
  | .imadw w => some (.imadw, .l96, w)
  | .iabs w => some (.iabs, .l64, w)
  | .imin w => some (.imin, .l96, w)
  | .imax w => some (.imax, .l96, w)
  | .icmp w => some (.icmp, .l96, w)
  | .sel w => some (.sel, .l96, w)
  | .shl w => some (.shl, .l96, w)
  | .shr w => some (.shr, .l96, w)
  | .sar w => some (.sar, .l96, w)
  | .shf w => some (.shf, .l96, w)
  | .and_ w => some (.and_, .l96, w)
  | .or_ w => some (.or_, .l96, w)
  | .xor_ w => some (.xor_, .l96, w)
  | .bfn3 w => some (.bfn3, .l96, w)
  | .bfx w => some (.bfx, .l96, w)
  | .bfi w => some (.bfi, .l96, w)
  | .popc w => some (.popc, .l64, w)
  | .clz w => some (.clz, .l64, w)
  | .brev w => some (.brev, .l64, w)
  | .prmb w => some (.prmb, .l96, w)
  | .mov w => some (.mov, .l64, w)
  | .movi w => some (.movi, .l128, w)
  | .lea w => some (.lea, .l128, w)
  | .add64 w => some (.add64, .l96, w)
  | .cmp64 w => some (.cmp64, .l96, w)
  | .movx w => some (.movx, .l64, w)
  | .movxw w => some (.movxw, .l64, w)
  | .fadd w => some (.fadd, .l96, w)
  | .fsub w => some (.fsub, .l96, w)
  | .fmul w => some (.fmul, .l96, w)
  | .ffma w => some (.ffma, .l96, w)
  | .fmin w => some (.fmin, .l96, w)
  | .fmax w => some (.fmax, .l96, w)
  | .fcmp w => some (.fcmp, .l96, w)
  | .fclass w => some (.fclass, .l64, w)
  | .frcp w => some (.frcp, .l64, w)
  | .frsq w => some (.frsq, .l64, w)
  | .fsqrt w => some (.fsqrt, .l64, w)
  | .fexp2 w => some (.fexp2, .l64, w)
  | .flog2 w => some (.flog2, .l64, w)
  | .fsin w => some (.fsin, .l64, w)
  | .fcos w => some (.fcos, .l64, w)
  | .ftanh w => some (.ftanh, .l64, w)
  | .fsigm w => some (.fsigm, .l64, w)
  | .fdot2 w => some (.fdot2, .l96, w)
  | .fdot4 w => some (.fdot4, .l96, w)
  | .fscale w => some (.fscale, .l96, w)
  | .frnd w => some (.frnd, .l64, w)
  | .cvtf w => some (.cvtf, .l64, w)
  | .cvtfi w => some (.cvtfi, .l64, w)
  | .cvtif w => some (.cvtif, .l64, w)
  | .pack16 w => some (.pack16, .l96, w)
  | .qnt w => some (.qnt, .l96, w)
  | .dqnt w => some (.dqnt, .l96, w)
  | .mxscale w => some (.mxscale, .l64, w)
  | .shfl w => some (.shfl, .l96, w)
  | .vote w => some (.vote, .l64, w)
  | .matchL w => some (.matchL, .l64, w)
  | .flane w => some (.flane, .l64, w)
  | .wred w => some (.wred, .l64, w)
  | .wscan w => some (.wscan, .l64, w)
  | .cmpx w => some (.cmpx, .l96, w)
  | .rebal w => some (.rebal, .l96, w)
  | .compact w => some (.compact, .l96, w)
  | .bra w => some (.bra, .l128, w)
  | .brx w => some (.brx, .l64, w)
  | .call w => some (.call, .l128, w)
  | .ret w => some (.ret, .l64, w)
  | .fcall w => some (.fcall, .l128, w)
  | .fsync w => some (.fsync, .l64, w)
  | .if_ w => some (.if_, .l128, w)
  | .else_ w => some (.else_, .l128, w)
  | .endif w => some (.endif, .l64, w)
  | .loop w => some (.loop, .l64, w)
  | .break_ w => some (.break_, .l128, w)
  | .cont_ w => some (.cont_, .l128, w)
  | .endloop w => some (.endloop, .l128, w)
  | .regang w => some (.regang, .l64, w)
  | .bar w => some (.bar, .l64, w)
  | .bara w => some (.bara, .l64, w)
  | .barw w => some (.barw, .l64, w)
  | .pba w => some (.pba, .l64, w)
  | .pbw w => some (.pbw, .l64, w)
  | .ivl w => some (.ivl, .l128, w)
  | .yield w => some (.yield, .l64, w)
  | .nop len w => some (.nop, len, w)
  | .exit_ w => some (.exit_, .l64, w)
  | .ld w => some (.ld, .l96, w)
  | .st w => some (.st, .l96, w)
  | .lds w => some (.lds, .l96, w)
  | .sts w => some (.sts, .l96, w)
  | .lde w => some (.lde, .l96, w)
  | .ste w => some (.ste, .l96, w)
  | .ldc w => some (.ldc, .l96, w)
  | .pref w => some (.pref, .l64, w)
  | .discard w => some (.discard, .l64, w)
  | .amo w => some (.amo, .l96, w)
  | .red w => some (.red, .l96, w)
  | .amos w => some (.amos, .l96, w)
  | .txopen w => some (.txopen, .l64, w)
  | .txseal w => some (.txseal, .l64, w)
  | .txdrop w => some (.txdrop, .l64, w)
  | .fence w => some (.fence, .l64, w)
  | .waitc w => some (.waitc, .l64, w)
  | .trywait w => some (.trywait, .l96, w)
  | .qsp w => some (.qsp, .l64, w)
  | .gpreq w => some (.gpreq, .l64, w)
  | .gpwait w => some (.gpwait, .l64, w)
  | .dfree w => some (.dfree, .l96, w)
  | .palloc w => some (.palloc, .l64, w)
  | .pfree w => some (.pfree, .l64, w)
  | .gather w => some (.gather, .l128, w)
  | .scatter w => some (.scatter, .l128, w)
  | .copy w => some (.copy, .l128, w)
  | .copyr w => some (.copyr, .l128, w)
  | .mcfg w => some (.mcfg, .l64, w)
  | .mlds w => some (.mlds, .l64, w)
  | .mswap w => some (.mswap, .l64, w)
  | .mloop w => some (.mloop, .l96, w)
  | .mzero w => some (.mzero, .l64, w)
  | .mrd w => some (.mrd, .l64, w)
  | .mst w => some (.mst, .l96, w)
  | .macc w => some (.macc, .l96, w)
  | .mfence w => some (.mfence, .l64, w)
  | .mwait w => some (.mwait, .l64, w)
  | .mmeta w => some (.mmeta, .l64, w)
  | .tapbind w => some (.tapbind, .l96, w)
  | .fgath w => some (.fgath, .l64, w)
  | .tapgo w => some (.tapgo, .l64, w)
  | .tapwait w => some (.tapwait, .l64, w)
  | .fev w => some (.fev, .l64, w)
  | .frewr w => some (.frewr, .l64, w)
  | .frel w => some (.frel, .l64, w)
  | .adpq w => some (.adpq, .l96, w)
  | .emit w => some (.emit, .l96, w)
  | .launch w => some (.launch, .l96, w)
  | .sigadd w => some (.sigadd, .l96, w)
  | .ndone w => some (.ndone, .l64, w)
  | .cred w => some (.cred, .l128, w)
  | .cgath w => some (.cgath, .l128, w)
  | .cbcst w => some (.cbcst, .l128, w)
  | .ca2a w => some (.ca2a, .l128, w)
  | .cwait w => some (.cwait, .l64, w)
  | .viewrd w => some (.viewrd, .l64, w)
  | .vjoin w => some (.vjoin, .l64, w)
  | .vack w => some (.vack, .l64, w)
  | .trap w => some (.trap, .l64, w)
  | .eret w => some (.eret, .l64, w)
  | .ctlr w => some (.ctlr, .l64, w)
  | .ctlw w => some (.ctlw, .l64, w)
  | .halt w => some (.halt, .l64, w)
  | .tlbinv w => some (.tlbinv, .l96, w)
  | .cacheop w => some (.cacheop, .l96, w)
  | .ctxsv w => some (.ctxsv, .l96, w)
  | .ctxld w => some (.ctxld, .l96, w)
  | .qend w => some (.qend, .l64, w)
  | .sigr w => some (.sigr, .l64, w)
  | .rasw w => some (.rasw, .l96, w)
  | .regangRelease _ _ => none
  | .barrierPhaseComplete _ _ => none
  | .intervalPrefetchDone _ => none
  | .fenceReleaseDone _ => none
  | .trywaitWake _ => none
  | .trywaitHintExpiry _ => none
  | .gracePeriodComplete _ => none
  | .cpComplete _ => none
  | .gsComplete _ => none
  | .engineWprot _ => none
  | .matrixOpExecute _ => none
  | .mxBatchComplete _ => none
  | .tapbindBegin _ => none
  | .fgathComplete _ => none
  | .tapgoComplete _ => none
  | .eventRingAdvance _ => none
  | .collMessageReceive _ => none
  | .collOpComplete _ => none
  | .issueCycle _ _ => none
  | .warpStart _ _ => none
  | .loadReturn _ => none
  | .homeWriteArrival _ _ => none
  | .storeAck _ => none
  | .lineFill _ _ _ => none
  | .leaseExpiry _ => none
  | .tlbWalkComplete _ => none
  | .pageFaultResolved _ _ => none
  | .eccUncorrectable _ => none
  | .watchdog _ => none
  | .quantumEnd _ => none
  | .roundCommit _ => none
  | .roundStart _ => none
  | .roundStuckTimeout _ => none
  | .queueRegister _ => none
  | .qdb _ _ => none
  | .qkill _ _ => none
  | .wptrPoll => none
  | .launchPacket _ => none
  | .copyPacket _ => none
  | .signalPacket _ => none
  | .waitsigPacket _ => none
  | .waitsigComplete _ => none
  | .gangPacket _ => none
  | .gangCommit _ => none
  | .gangReserveTimeout _ => none
  | .graphPacket _ => none
  | .graphNodeStart _ _ => none
  | .graphNodeComplete _ _ => none
  | .streamClusterLaunch _ _ => none
  | .childLaunchStart _ => none
  | .clusterStart _ _ => none
  | .clusterRetire _ => none
  | .packetComplete _ _ => none
  | .preemption _ => none
  | .preemptDrainTimeout _ => none
  | .poolEnable _ _ _ => none
  | .poolLinkDone _ _ => none
  | .poolDisable _ _ => none
  | .fmtWinEnable _ _ _ => none
  | .fmtWinDisable _ _ => none
  | .fmtWinDisableDone _ _ => none
  | .fmtWinFlagClear _ _ _ _ => none
  | .rasOvfClear _ => none
  | .registerWrite _ _ => none
  | .rasAppend _ => none
  | .rasHeadAdvance _ => none
  | .hostBar2Access _ _ _ _ => none
  | .linkBringup _ _ _ _ => none
  | .beatSend _ => none
  | .beatWindowEnd _ _ _ => none
  | .suspect _ _ _ => none
  | .reset _ => none
  | .resetEscalateTimeout _ => none
  | .propose _ => none
  | .ack _ _ => none
  | .ackTimeout => none
  | .commit _ => none
  | .join _ _ => none
  | .islandHeartbeat _ => none
  | .islandTakeover => none
  | .boot _ _ _ => none
  | .bootFetchRetry => none
  | .firmwareFetchDone _ => none
  | .mregExtend _ _ => none
  | .getVersion => none
  | .getCapabilities => none
  | .negotiateAlgorithms => none
  | .getDigests => none
  | .getCertificate _ _ _ => none
  | .getMeasurements _ _ _ => none
  | .healthUpdate _ => none
  | .powerBudgetAdjust _ _ => none
  | .tinPoll _ => none
  | .firmwareReturn _ => none
  | .linkDown _ => none
  | .vackArrival _ _ _ => none

/-- The instruction that an opcode and its fields make; the length matters only to NOP (R181). -/
def Instr.ofWord (o : Op) (len : Len) (w : Fields) : Instr :=
  match o with
  | .iadd => .iadd w
  | .isub => .isub w
  | .iadd3 => .iadd3 w
  | .imul => .imul w
  | .imulh => .imulh w
  | .imad => .imad w
  | .imadw => .imadw w
  | .iabs => .iabs w
  | .imin => .imin w
  | .imax => .imax w
  | .icmp => .icmp w
  | .sel => .sel w
  | .shl => .shl w
  | .shr => .shr w
  | .sar => .sar w
  | .shf => .shf w
  | .and_ => .and_ w
  | .or_ => .or_ w
  | .xor_ => .xor_ w
  | .bfn3 => .bfn3 w
  | .bfx => .bfx w
  | .bfi => .bfi w
  | .popc => .popc w
  | .clz => .clz w
  | .brev => .brev w
  | .prmb => .prmb w
  | .mov => .mov w
  | .movi => .movi w
  | .lea => .lea w
  | .add64 => .add64 w
  | .cmp64 => .cmp64 w
  | .movx => .movx w
  | .movxw => .movxw w
  | .fadd => .fadd w
  | .fsub => .fsub w
  | .fmul => .fmul w
  | .ffma => .ffma w
  | .fmin => .fmin w
  | .fmax => .fmax w
  | .fcmp => .fcmp w
  | .fclass => .fclass w
  | .frcp => .frcp w
  | .frsq => .frsq w
  | .fsqrt => .fsqrt w
  | .fexp2 => .fexp2 w
  | .flog2 => .flog2 w
  | .fsin => .fsin w
  | .fcos => .fcos w
  | .ftanh => .ftanh w
  | .fsigm => .fsigm w
  | .fdot2 => .fdot2 w
  | .fdot4 => .fdot4 w
  | .fscale => .fscale w
  | .frnd => .frnd w
  | .cvtf => .cvtf w
  | .cvtfi => .cvtfi w
  | .cvtif => .cvtif w
  | .pack16 => .pack16 w
  | .qnt => .qnt w
  | .dqnt => .dqnt w
  | .mxscale => .mxscale w
  | .shfl => .shfl w
  | .vote => .vote w
  | .matchL => .matchL w
  | .flane => .flane w
  | .wred => .wred w
  | .wscan => .wscan w
  | .cmpx => .cmpx w
  | .rebal => .rebal w
  | .compact => .compact w
  | .bra => .bra w
  | .brx => .brx w
  | .call => .call w
  | .ret => .ret w
  | .fcall => .fcall w
  | .fsync => .fsync w
  | .if_ => .if_ w
  | .else_ => .else_ w
  | .endif => .endif w
  | .loop => .loop w
  | .break_ => .break_ w
  | .cont_ => .cont_ w
  | .endloop => .endloop w
  | .regang => .regang w
  | .bar => .bar w
  | .bara => .bara w
  | .barw => .barw w
  | .pba => .pba w
  | .pbw => .pbw w
  | .ivl => .ivl w
  | .yield => .yield w
  | .nop => .nop len w
  | .exit_ => .exit_ w
  | .ld => .ld w
  | .st => .st w
  | .lds => .lds w
  | .sts => .sts w
  | .lde => .lde w
  | .ste => .ste w
  | .ldc => .ldc w
  | .pref => .pref w
  | .discard => .discard w
  | .amo => .amo w
  | .red => .red w
  | .amos => .amos w
  | .txopen => .txopen w
  | .txseal => .txseal w
  | .txdrop => .txdrop w
  | .fence => .fence w
  | .waitc => .waitc w
  | .trywait => .trywait w
  | .qsp => .qsp w
  | .gpreq => .gpreq w
  | .gpwait => .gpwait w
  | .dfree => .dfree w
  | .palloc => .palloc w
  | .pfree => .pfree w
  | .gather => .gather w
  | .scatter => .scatter w
  | .copy => .copy w
  | .copyr => .copyr w
  | .mcfg => .mcfg w
  | .mlds => .mlds w
  | .mswap => .mswap w
  | .mloop => .mloop w
  | .mzero => .mzero w
  | .mrd => .mrd w
  | .mst => .mst w
  | .macc => .macc w
  | .mfence => .mfence w
  | .mwait => .mwait w
  | .mmeta => .mmeta w
  | .tapbind => .tapbind w
  | .fgath => .fgath w
  | .tapgo => .tapgo w
  | .tapwait => .tapwait w
  | .fev => .fev w
  | .frewr => .frewr w
  | .frel => .frel w
  | .adpq => .adpq w
  | .emit => .emit w
  | .launch => .launch w
  | .sigadd => .sigadd w
  | .ndone => .ndone w
  | .cred => .cred w
  | .cgath => .cgath w
  | .cbcst => .cbcst w
  | .ca2a => .ca2a w
  | .cwait => .cwait w
  | .viewrd => .viewrd w
  | .vjoin => .vjoin w
  | .vack => .vack w
  | .trap => .trap w
  | .eret => .eret w
  | .ctlr => .ctlr w
  | .ctlw => .ctlw w
  | .halt => .halt w
  | .tlbinv => .tlbinv w
  | .cacheop => .cacheop w
  | .ctxsv => .ctxsv w
  | .ctxld => .ctxld w
  | .qend => .qend w
  | .sigr => .sigr w
  | .rasw => .rasw w

end Sys2Proof
end

