-- ==== Sys2Proof/Machine/Shape.lean ====
section
/-! DEFINITION. What each opcode's word looks like: its number and length (R191), the role of every field
(R184), the MOD values it lists (R182), the patterns its entry reserves (R186 reason 5), its latency class
(R36) and its ordering class (R197). -/

namespace Sys2Proof

/-- The opcode's number (R191 Table 2). -/
def Op.code : Op → BitVec 10
  | .iadd => 0x000
  | .isub => 0x001
  | .iadd3 => 0x002
  | .imul => 0x003
  | .imulh => 0x004
  | .imad => 0x005
  | .imadw => 0x006
  | .iabs => 0x007
  | .imin => 0x008
  | .imax => 0x009
  | .icmp => 0x00A
  | .sel => 0x00B
  | .shl => 0x00C
  | .shr => 0x00D
  | .sar => 0x00E
  | .shf => 0x00F
  | .and_ => 0x010
  | .or_ => 0x011
  | .xor_ => 0x012
  | .bfn3 => 0x013
  | .bfx => 0x014
  | .bfi => 0x015
  | .popc => 0x016
  | .clz => 0x017
  | .brev => 0x018
  | .prmb => 0x019
  | .mov => 0x01A
  | .movi => 0x01B
  | .lea => 0x01C
  | .add64 => 0x01D
  | .cmp64 => 0x01E
  | .movx => 0x01F
  | .movxw => 0x020
  | .fadd => 0x080
  | .fsub => 0x081
  | .fmul => 0x082
  | .ffma => 0x083
  | .fmin => 0x084
  | .fmax => 0x085
  | .fcmp => 0x086
  | .fclass => 0x087
  | .frcp => 0x088
  | .frsq => 0x089
  | .fsqrt => 0x08A
  | .fexp2 => 0x08B
  | .flog2 => 0x08C
  | .fsin => 0x08D
  | .fcos => 0x08E
  | .ftanh => 0x08F
  | .fsigm => 0x090
  | .fdot2 => 0x091
  | .fdot4 => 0x092
  | .fscale => 0x093
  | .frnd => 0x094
  | .cvtf => 0x095
  | .cvtfi => 0x096
  | .cvtif => 0x097
  | .pack16 => 0x098
  | .qnt => 0x099
  | .dqnt => 0x09A
  | .mxscale => 0x09B
  | .shfl => 0x100
  | .vote => 0x101
  | .matchL => 0x102
  | .flane => 0x103
  | .wred => 0x104
  | .wscan => 0x105
  | .cmpx => 0x106
  | .rebal => 0x107
  | .compact => 0x108
  | .bra => 0x140
  | .brx => 0x141
  | .call => 0x142
  | .ret => 0x143
  | .fcall => 0x144
  | .fsync => 0x145
  | .if_ => 0x146
  | .else_ => 0x147
  | .endif => 0x148
  | .loop => 0x149
  | .break_ => 0x14A
  | .cont_ => 0x14B
  | .endloop => 0x14C
  | .regang => 0x14D
  | .bar => 0x14E
  | .bara => 0x14F
  | .barw => 0x150
  | .pba => 0x151
  | .pbw => 0x152
  | .ivl => 0x153
  | .yield => 0x154
  | .nop => 0x155
  | .exit_ => 0x156
  | .ld => 0x180
  | .st => 0x181
  | .lds => 0x182
  | .sts => 0x183
  | .lde => 0x184
  | .ste => 0x185
  | .ldc => 0x186
  | .pref => 0x187
  | .discard => 0x188
  | .amo => 0x200
  | .red => 0x201
  | .amos => 0x202
  | .txopen => 0x203
  | .txseal => 0x204
  | .txdrop => 0x205
  | .fence => 0x206
  | .waitc => 0x207
  | .trywait => 0x208
  | .qsp => 0x209
  | .gpreq => 0x20A
  | .gpwait => 0x20B
  | .dfree => 0x20C
  | .palloc => 0x20D
  | .pfree => 0x20E
  | .gather => 0x240
  | .scatter => 0x241
  | .copy => 0x242
  | .copyr => 0x243
  | .mcfg => 0x280
  | .mlds => 0x281
  | .mswap => 0x282
  | .mloop => 0x283
  | .mzero => 0x284
  | .mrd => 0x285
  | .mst => 0x286
  | .macc => 0x287
  | .mfence => 0x288
  | .mwait => 0x289
  | .mmeta => 0x28A
  | .tapbind => 0x2C0
  | .fgath => 0x2C1
  | .tapgo => 0x2C2
  | .tapwait => 0x2C3
  | .fev => 0x2C4
  | .frewr => 0x2C5
  | .frel => 0x2C6
  | .adpq => 0x2C7
  | .emit => 0x2E0
  | .launch => 0x2E1
  | .sigadd => 0x2E2
  | .ndone => 0x2E3
  | .cred => 0x300
  | .cgath => 0x301
  | .cbcst => 0x302
  | .ca2a => 0x303
  | .cwait => 0x304
  | .viewrd => 0x305
  | .vjoin => 0x306
  | .vack => 0x307
  | .trap => 0x320
  | .eret => 0x321
  | .ctlr => 0x322
  | .ctlw => 0x323
  | .halt => 0x324
  | .tlbinv => 0x325
  | .cacheop => 0x326
  | .ctxsv => 0x327
  | .ctxld => 0x328
  | .qend => 0x329
  | .sigr => 0x32A
  | .rasw => 0x32B

/-- Every assigned opcode. -/
def Op.all : List Op :=
  [.iadd, .isub, .iadd3, .imul, .imulh, .imad, .imadw, .iabs, .imin, .imax, .icmp, .sel, .shl, 
   .shr, .sar, .shf, .and_, .or_, .xor_, .bfn3, .bfx, .bfi, .popc, .clz, .brev, .prmb, .mov, 
   .movi, .lea, .add64, .cmp64, .movx, .movxw, .fadd, .fsub, .fmul, .ffma, .fmin, .fmax, .fcmp, 
   .fclass, .frcp, .frsq, .fsqrt, .fexp2, .flog2, .fsin, .fcos, .ftanh, .fsigm, .fdot2, .fdot4, 
   .fscale, .frnd, .cvtf, .cvtfi, .cvtif, .pack16, .qnt, .dqnt, .mxscale, .shfl, .vote, .matchL, 
   .flane, .wred, .wscan, .cmpx, .rebal, .compact, .bra, .brx, .call, .ret, .fcall, .fsync, .if_, 
   .else_, .endif, .loop, .break_, .cont_, .endloop, .regang, .bar, .bara, .barw, .pba, .pbw, 
   .ivl, .yield, .nop, .exit_, .ld, .st, .lds, .sts, .lde, .ste, .ldc, .pref, .discard, .amo, 
   .red, .amos, .txopen, .txseal, .txdrop, .fence, .waitc, .trywait, .qsp, .gpreq, .gpwait, 
   .dfree, .palloc, .pfree, .gather, .scatter, .copy, .copyr, .mcfg, .mlds, .mswap, .mloop, 
   .mzero, .mrd, .mst, .macc, .mfence, .mwait, .mmeta, .tapbind, .fgath, .tapgo, .tapwait, .fev, 
   .frewr, .frel, .adpq, .emit, .launch, .sigadd, .ndone, .cred, .cgath, .cbcst, .ca2a, .cwait, 
   .viewrd, .vjoin, .vack, .trap, .eret, .ctlr, .ctlw, .halt, .tlbinv, .cacheop, .ctxsv, .ctxld, 
   .qend, .sigr, .rasw]

/-- The opcode a number names, if it is assigned (R191 Table 3). -/
def Op.ofCode (c : BitVec 10) : Option Op := Op.all.find? (fun o => o.code == c)

/-- Whether an opcode takes this length: exactly one, but for NOP (R181). -/
def Op.takes (o : Op) (len : Len) : Bool :=
  match o with
  | .nop => true
  | .iabs | .popc | .clz | .brev | .mov | .movx | .movxw | .fclass | .frcp | .frsq | .fsqrt | .fexp2 |
    .flog2 | .fsin | .fcos | .ftanh | .fsigm | .frnd | .cvtf | .cvtfi | .cvtif | .mxscale | .vote |
    .matchL | .flane | .wred | .wscan | .brx | .ret | .fsync | .endif | .loop | .regang | .bar |
    .bara | .barw | .pba | .pbw | .yield | .exit_ | .pref | .discard | .txopen | .txseal | .txdrop |
    .fence | .waitc | .qsp | .gpreq | .gpwait | .palloc | .pfree | .mcfg | .mlds | .mswap | .mzero |
    .mrd | .mfence | .mwait | .mmeta | .fgath | .tapgo | .tapwait | .fev | .frewr | .frel | .ndone |
    .cwait | .viewrd | .vjoin | .vack | .trap | .eret | .ctlr | .ctlw | .halt | .qend |
    .sigr => len == .l64
  | .iadd | .isub | .iadd3 | .imul | .imulh | .imad | .imadw | .imin | .imax | .icmp | .sel | .shl |
    .shr | .sar | .shf | .and_ | .or_ | .xor_ | .bfn3 | .bfx | .bfi | .prmb | .add64 | .cmp64 | .fadd |
    .fsub | .fmul | .ffma | .fmin | .fmax | .fcmp | .fdot2 | .fdot4 | .fscale | .pack16 | .qnt |
    .dqnt | .shfl | .cmpx | .rebal | .compact | .ld | .st | .lds | .sts | .lde | .ste | .ldc | .amo |
    .red | .amos | .trywait | .dfree | .mloop | .mst | .macc | .tapbind | .adpq | .emit | .launch |
    .sigadd | .tlbinv | .cacheop | .ctxsv | .ctxld | .rasw => len == .l96
  | .movi | .lea | .bra | .call | .fcall | .if_ | .else_ | .break_ | .cont_ | .endloop | .ivl |
    .gather | .scatter | .copy | .copyr | .cred | .cgath | .cbcst | .ca2a => len == .l128

/-- The role a field plays (R184): unused, a plain number, a destination of n registers at a multiple of
al, D as a source, or a register operand that may be a short immediate (`imm`) and may be a single value
read from the leader lane (`uni`, R25). -/
inductive Role
  | no
  | num
  | dst (n al : Nat)
  | srcD (n al : Nat) (uni : Bool)
  | src (n al : Nat) (imm uni : Bool)
  deriving DecidableEq, Repr

/-- The roles of an instruction's fields; `ext` and `imm` say whether the entry assigns SPARE or EXT and
IMM, `guard` whether GE, GS and GR may be set. -/
structure Roles where
  d : Role
  a : Role
  b : Role
  c : Role
  ext : Bool
  imm : Bool
  guard : Bool
  deriving DecidableEq, Repr

namespace Shape

/-- A single destination. -/
abbrev d1 : Role := .dst 1 1
/-- An even destination pair. -/
abbrev d2 : Role := .dst 2 2
/-- D as one source register, per lane. -/
abbrev s1 : Role := .srcD 1 1 false
/-- D as a single value from the leader. -/
abbrev su1 : Role := .srcD 1 1 true
/-- D as a pair from the leader. -/
abbrev su2 : Role := .srcD 2 2 true
/-- D as a layout word from the leader (R68). -/
abbrev su3 : Role := .srcD 3 1 true
/-- A register operand or short immediate, per lane. -/
abbrev r : Role := .src 1 1 true false
/-- A register operand that may not be a short immediate, per lane. -/
abbrev n : Role := .src 1 1 false false
/-- An even pair, per lane. -/
abbrev p : Role := .src 2 2 false false
/-- An even pair or a short immediate, per lane (ADD64, R242). -/
abbrev pi : Role := .src 2 2 true false
/-- A single value from the leader. -/
abbrev u : Role := .src 1 1 true true
/-- A bare register as a single value from the leader. -/
abbrev un : Role := .src 1 1 false true
/-- A pair from the leader. -/
abbrev up : Role := .src 2 2 false true
/-- A layout word from the leader: a run of three (R68, R256). -/
abbrev lay : Role := .src 3 1 false true

/-- Registers of a load or store operand of a size code (R231 Table 1). -/
def sizeRegs (m : BitVec 6) : Nat :=
  match (m.extractLsb' 0 3).toNat with
  | 3 => 2
  | 4 => 4
  | _ => 1

/-- A load's destination (R231). -/
def dsize (w : Fields) : Role := .dst (sizeRegs w.mod) (sizeRegs w.mod)
/-- A store's data (R231, R234). -/
def ssize (w : Fields) : Role := .srcD (sizeRegs w.mod) (sizeRegs w.mod) false
/-- An atomic's destination under its width (R242). -/
def aDst (w : Fields) : Role := if w.mod.getLsbD 4 then d2 else d1
/-- An atomic's operand under its width (R242). -/
def aSrc (w : Fields) : Role := if w.mod.getLsbD 4 then pi else r
/-- An atomic's compare value: used by `.cas` only (R242). -/
def aCmp (w : Fields) : Role :=
  if w.mod.extractLsb' 0 4 = 9 then aSrc w else .no

/-- The control words of R279 Table 8: number, width in registers, and whether CTLW may write them. -/
def ctlWord (num : Nat) : Option (Nat × Bool) :=
  if num ≤ 0x07 then some (1, false)
  else if num ≤ 0x09 then some (1, true)
  else if num ≤ 0x10 then some (1, false)
  else if num = 0x20 then some (2, true)
  else if 0x21 ≤ num ∧ num ≤ 0x26 then some (2, false)
  else none

/-- Registers of the word CTLR names; 1 where it names none. -/
def ctlRegs (w : Fields) : Nat := ((ctlWord w.a.bits.toNat).map (·.1)).getD 1
/-- Registers of the word CTLW names; 1 where it names none. -/
def ctlwRegs (w : Fields) : Nat := ((ctlWord w.b.bits.toNat).map (·.1)).getD 1

end Shape

open Shape in
/-- The roles of an opcode's fields, from the syntax and field columns of the reference (R198 to R285). -/
def Op.roles (o : Op) (w : Fields) : Roles :=
  match o with
  | .iadd | .isub | .imul | .imulh | .imin | .imax | .icmp | .shl | .shr | .sar | .and_ | .or_ |
    .xor_ | .fadd | .fsub | .fmul | .fmin | .fmax | .fcmp | .fscale | .pack16 | .cmpx |
    .compact => ⟨d1, r, r, .no, false, false, true⟩
  | .iadd3 | .imad | .sel | .shf | .bfx | .bfi | .prmb | .ffma | .fdot2 |
    .fdot4 => ⟨d1, r, r, r, false, false, true⟩
  | .imadw => ⟨d2, r, r, p, false, false, true⟩
  | .iabs | .popc | .clz | .brev | .mov | .movx | .fclass | .frcp | .frsq | .fsqrt | .fexp2 | .flog2 |
    .fsin | .fcos | .ftanh | .fsigm | .frnd | .cvtf | .cvtfi | .cvtif | .flane | .wred |
    .wscan => ⟨d1, r, .no, .no, false, false, true⟩
  | .bfn3 => ⟨d1, r, r, r, true, false, true⟩
  | .movi => ⟨d1, .no, .no, .no, false, true, true⟩
  | .lea | .call => ⟨d2, .no, .no, .no, false, true, true⟩
  | .add64 => ⟨d2, p, pi, .no, false, false, true⟩
  | .cmp64 => ⟨d1, p, p, .no, false, false, true⟩
  | .movxw => ⟨.no, r, n, .no, false, false, true⟩
  | .qnt | .lde | .dfree => ⟨d1, p, r, .no, false, false, true⟩
  | .dqnt => ⟨d2, r, r, .no, false, false, true⟩
  | .mxscale => ⟨d1, p, .no, .no, false, false, true⟩
  | .shfl => ⟨d1, n, r, r, false, false, true⟩
  | .vote => ⟨(if w.mod = 0 then d2 else d1), r, .no, .no, false, false, true⟩
  | .matchL => ⟨(if w.mod = 1 then d2 else d1), r, .no, .no, false, false, true⟩
  | .rebal => ⟨d1, r, u, .no, false, false, true⟩
  | .bra => ⟨.no, .no, .no, .no, false, true, true⟩
  | .brx | .ret | .pref | .discard => ⟨.no, p, .no, .no, false, false, true⟩
  | .fcall => ⟨d2, .num, .no, .no, false, true, false⟩
  | .fsync | .yield | .nop | .exit_ | .mswap | .fgath | .tapgo | .frel | .ndone | .eret |
    .halt => ⟨.no, .no, .no, .no, false, false, true⟩
  | .if_ => ⟨.no, r, .no, .no, false, true, false⟩
  | .else_ | .endloop => ⟨.no, .no, .no, .no, false, true, false⟩
  | .endif | .loop | .fence | .qsp => ⟨.no, .no, .no, .no, false, false, false⟩
  | .break_ | .cont_ => ⟨.no, r, .no, .no, true, true, false⟩
  | .regang | .mlds | .mzero | .mwait | .frewr => ⟨.no, u, .no, .no, false, false, true⟩
  | .bar | .mrd | .cwait => ⟨d1, u, .no, .no, false, false, true⟩
  | .bara | .pba | .pbw | .qend => ⟨.no, u, un, .no, false, false, true⟩
  | .barw => ⟨d1, u, un, .no, false, false, true⟩
  | .ivl => ⟨.no, .num, .num, .no, false, true, true⟩
  | .ld => ⟨(dsize w), p, r, .no, false, false, true⟩
  | .st => ⟨(ssize w), p, r, .no, false, false, true⟩
  | .lds | .ldc => ⟨(dsize w), r, r, .no, false, false, true⟩
  | .sts => ⟨(ssize w), r, r, .no, false, false, true⟩
  | .ste => ⟨s1, p, r, .no, false, false, true⟩
  | .amo => ⟨(aDst w), p, (aSrc w), (aCmp w), false, false, true⟩
  | .red => ⟨.no, p, (aSrc w), .no, false, false, true⟩
  | .amos => ⟨(aDst w), r, (aSrc w), (aCmp w), false, false, true⟩
  | .txopen | .mfence | .tapwait | .fev | .vjoin => ⟨d1, .no, .no, .no, false, false, true⟩
  | .txseal => ⟨d1, .no, .no, .no, false, false, false⟩
  | .txdrop => ⟨.no, r, .no, .no, false, false, true⟩
  | .waitc => ⟨.no, .num, .no, .no, false, false, false⟩
  | .trywait => ⟨d1, p, r, u, false, false, true⟩
  | .gpreq => ⟨d2, .no, .no, .no, false, false, false⟩
  | .gpwait => ⟨.no, up, .no, .no, false, false, false⟩
  | .palloc => ⟨d2, r, .no, .no, false, false, true⟩
  | .pfree => ⟨.no, p, n, .no, false, false, true⟩
  | .gather | .scatter => ⟨su1, up, r, .no, false, true, true⟩
  | .copy => ⟨su3, up, u, u, false, false, true⟩
  | .copyr => ⟨.no, up, up, u, false, false, true⟩
  | .mcfg | .vack => ⟨.no, up, un, .no, false, false, true⟩
  |
    .mloop => ⟨(.dst 4 4), lay, u, (if w.mod.getLsbD 2 then .src 2 1 false true else u), false, false, true⟩
  | .mst | .macc => ⟨.no, lay, u, .no, false, false, true⟩
  | .mmeta | .rasw => ⟨.no, up, .no, .no, false, false, true⟩
  | .tapbind => ⟨su2, lay, lay, u, false, false, true⟩
  | .adpq => ⟨d2, up, r, .no, false, false, true⟩
  | .emit => ⟨d1, up, r, .no, false, false, true⟩
  | .launch => ⟨d1, up, up, .no, false, false, true⟩
  | .sigadd => ⟨.no, p, pi, .no, false, false, true⟩
  | .cred | .cbcst => ⟨d1, up, up, up, true, true, true⟩
  | .cgath | .ca2a => ⟨d1, up, up, up, false, true, true⟩
  | .viewrd => ⟨d1, .num, .no, .no, false, false, true⟩
  | .trap => ⟨.no, .num, .no, .no, false, false, true⟩
  | .ctlr => ⟨(.dst (ctlRegs w) (ctlRegs w)), .num, .no, .no, false, false, true⟩
  |
    .ctlw => ⟨.no, (.src (ctlwRegs w) (ctlwRegs w) (ctlwRegs w == 1) true), .num, .no, false, false, true⟩
  | .tlbinv => ⟨.no, up, u, u, false, false, true⟩
  | .cacheop => ⟨.no, up, u, .no, false, false, true⟩
  | .ctxsv | .ctxld => ⟨d1, up, u, .no, false, false, true⟩
  | .sigr => ⟨d2, p, .no, .no, false, false, true⟩

/-- The MOD values an entry lists (R182). -/
def Op.modOk (o : Op) (m : BitVec 6) : Bool :=
  match o with
  | .iadd | .isub | .matchL | .lde | .ste | .tlbinv => m < 3
  | .iadd3 | .imul | .imad | .sel | .shl | .shr | .sar | .and_ | .or_ | .xor_ | .bfn3 | .bfi | .popc |
    .clz | .brev | .prmb | .mov | .movi | .lea | .add64 | .movx | .movxw | .fclass | .rebal |
    .compact | .bra | .brx | .call | .ret | .fcall | .fsync | .if_ | .else_ | .endif | .loop |
    .break_ | .cont_ | .endloop | .regang | .bar | .bara | .barw | .pba | .pbw | .ivl | .yield | .nop |
    .exit_ | .discard | .txopen | .txseal | .txdrop | .trywait | .qsp | .gpreq | .gpwait | .dfree |
    .palloc | .pfree | .copyr | .mcfg | .mlds | .mswap | .mzero | .mrd | .macc | .mfence | .mwait |
    .mmeta | .tapbind | .fgath | .tapgo | .tapwait | .fev | .frewr | .frel | .adpq | .emit | .launch |
    .sigadd | .ndone | .cwait | .viewrd | .vjoin | .vack | .trap | .eret | .ctlr | .ctlw | .halt |
    .ctxsv | .ctxld | .qend | .sigr | .rasw => m == 0
  | .imulh | .imadw | .iabs | .imin | .imax | .shf | .bfx | .flane | .pref | .copy => m < 2
  | .icmp | .cmp64 => m < 16 && m.extractLsb' 0 3 < 6
  | .fadd | .fsub | .fmul | .ffma | .fdot4 => m < 12
  | .fmin | .fmax => m == 0 || m == 4 || m == 8
  | .fcmp | .lds | .ldc | .waitc => m < 7
  | .frcp | .frsq | .fexp2 | .flog2 | .fsin | .fcos | .ftanh | .fsigm => m == 0 || (4 ≤ m && m < 8)
  | .fsqrt | .fscale | .frnd | .mst | .cgath | .cbcst | .ca2a | .cacheop => m < 4
  | .fdot2 | .cvtfi | .cvtif | .pack16 | .wred | .gather | .scatter | .mloop => m < 8
  | .cvtf => m.extractLsb' 2 2 != 3 && m.extractLsb' 4 2 != 3
  | .qnt | .dqnt | .mxscale => m < 16 && m.extractLsb' 0 3 < 4
  | .shfl => m < 32 && m.extractLsb' 2 3 != 7
  | .vote => m < 6
  | .wscan => m < 16
  | .cmpx => m < 8 && m.extractLsb' 0 2 != 3
  | .ld => m < 24 && m.extractLsb' 0 3 != 7
  | .st | .sts => m < 5
  | .amo | .red | .amos => m < 32
  | .fence => m < 32 && m.extractLsb' 0 2 != 0 && m.extractLsb' 2 3 != 7
  | .cred => true

/-- The ordering classes of R197 Table 7. -/
inductive OrdClass
  | reg | ld | st | cp | mx | gs | cl | tp | sync | ctrl
  deriving DecidableEq, Repr

/-- The ordering class an entry names (R197). -/
def Op.cls (o : Op) : OrdClass :=
  match o with
  | .iadd | .isub | .iadd3 | .imul | .imulh | .imad | .imadw | .iabs | .imin | .imax | .icmp | .sel |
    .shl | .shr | .sar | .shf | .and_ | .or_ | .xor_ | .bfn3 | .bfx | .bfi | .popc | .clz | .brev |
    .prmb | .mov | .movi | .lea | .add64 | .cmp64 | .movx | .movxw | .fadd | .fsub | .fmul | .ffma |
    .fmin | .fmax | .fcmp | .fclass | .frcp | .frsq | .fsqrt | .fexp2 | .flog2 | .fsin | .fcos |
    .ftanh | .fsigm | .fdot2 | .fdot4 | .fscale | .frnd | .cvtf | .cvtfi | .cvtif | .pack16 | .qnt |
    .dqnt | .mxscale | .shfl | .vote | .matchL | .flane | .wred | .wscan | .cmpx | .rebal | .compact |
    .ivl | .mrd | .fev | .viewrd | .ctlr | .ctlw => .reg
  | .ld | .lds | .lde | .ldc | .pref | .adpq | .sigr => .ld
  | .st | .sts | .ste | .discard | .red | .pfree | .emit | .sigadd | .vjoin | .vack | .qend |
    .rasw => .st
  | .copy | .copyr => .cp
  | .mcfg | .mlds | .mswap | .mloop | .mzero | .mst | .macc | .mfence | .mmeta => .mx
  | .gather | .scatter => .gs
  | .cred | .cgath | .cbcst | .ca2a => .cl
  | .tapbind | .fgath | .tapgo | .frewr | .frel => .tp
  | .fsync | .regang | .bar | .bara | .barw | .pba | .pbw | .amo | .amos | .txseal | .fence | .waitc |
    .trywait | .qsp | .gpreq | .gpwait | .dfree | .palloc | .mwait | .tapwait | .launch | .ndone |
    .cwait | .tlbinv | .cacheop | .ctxsv | .ctxld => .sync
  | .bra | .brx | .call | .ret | .fcall | .if_ | .else_ | .endif | .loop | .break_ | .cont_ |
    .endloop | .yield | .nop | .exit_ | .txopen | .txdrop | .trap | .eret | .halt => .ctrl

/-- The fixed latency L of R36 Table 4; none where the result is variable or there is none. -/
def Op.latency (o : Op) : Option Nat :=
  match o with
  | .iadd | .isub | .iadd3 | .imul | .imulh | .imad | .imadw | .iabs | .imin | .imax | .icmp | .sel |
    .shl | .shr | .sar | .shf | .and_ | .or_ | .xor_ | .bfn3 | .bfx | .bfi | .popc | .clz | .brev |
    .prmb | .mov | .movi | .lea | .add64 | .cmp64 | .call | .fcall | .txopen | .mfence | .viewrd |
    .ctlr => some 4
  | .fadd | .fsub | .fmul | .ffma | .fmin | .fmax | .fcmp | .fclass | .fdot2 | .fdot4 | .fscale |
    .frnd | .cvtf | .cvtfi | .cvtif | .pack16 => some 6
  | .qnt | .dqnt | .mxscale | .shfl | .vote | .matchL | .flane | .wred | .wscan | .cmpx | .rebal |
    .compact => some 8
  | .frcp | .frsq | .fsqrt | .fexp2 | .flog2 | .fsin | .fcos | .ftanh | .fsigm => some 14
  | .movx | .movxw | .bra | .brx | .ret | .fsync | .if_ | .else_ | .endif | .loop | .break_ | .cont_ |
    .endloop | .regang | .bar | .bara | .barw | .pba | .pbw | .ivl | .yield | .nop | .exit_ | .ld |
    .st | .lds | .sts | .lde | .ste | .ldc | .pref | .discard | .amo | .red | .amos | .txseal |
    .txdrop | .fence | .waitc | .trywait | .qsp | .gpreq | .gpwait | .dfree | .palloc | .pfree |
    .gather | .scatter | .copy | .copyr | .mcfg | .mlds | .mswap | .mloop | .mzero | .mrd | .mst |
    .macc | .mwait | .mmeta | .tapbind | .fgath | .tapgo | .tapwait | .fev | .frewr | .frel | .adpq |
    .emit | .launch | .sigadd | .ndone | .cred | .cgath | .cbcst | .ca2a | .cwait | .vjoin | .vack |
    .trap | .eret | .ctlw | .halt | .tlbinv | .cacheop | .ctxsv | .ctxld | .qend | .sigr | .rasw => none

namespace Shape

/-- The ranges of an IVL's working set: start and length (R224). -/
def ivlRanges (w : Fields) : List (Nat × Nat) :=
  let a := w.a.bits
  let b := w.b.bits
  [((w.imm.extractLsb' 0 8).toNat, (a.extractLsb' 0 7).toNat),
   ((w.imm.extractLsb' 8 8).toNat, (a.extractLsb' 8 7).toNat),
   ((w.imm.extractLsb' 16 8).toNat, (b.extractLsb' 0 7).toNat),
   ((w.imm.extractLsb' 24 8).toNat, (b.extractLsb' 8 7).toNat)]

/-- No range of a list overlaps a later one. -/
def disjointRanges : List (Nat × Nat) → Bool
  | [] => true
  | x :: xs => xs.all (fun y => x.2 == 0 || y.2 == 0 || x.1 + x.2 ≤ y.1 || y.1 + y.2 ≤ x.1) &&
      disjointRanges xs

/-- What R29 and R224 ask of an IVL beside the declared count. -/
def ivlOk (w : Fields) : Bool :=
  let rs := ivlRanges w
  !w.a.bits.getLsbD 7 && !w.a.bits.getLsbD 15 && !w.b.bits.getLsbD 7 && !w.b.bits.getLsbD 15 &&
  rs.all (fun x => x.2 != 0 || x.1 == 0) && (rs.map (·.2)).sum ≤ 64 && disjointRanges rs

/-- Offsets of structured control: multiples of 4, forward but for ENDLOOP (R218). -/
def fwdOffset (w : Fields) : Bool := w.imm.extractLsb' 0 2 = 0 && (0#32).slt w.imm
/-- ENDLOOP's offset is negative (R218). -/
def backOffset (w : Fields) : Bool := w.imm.extractLsb' 0 2 = 0 && w.imm.slt 0#32

/-- The selectors of VIEWRD (R276). -/
def viewSelOk (sel : Nat) : Bool := sel ≤ 4 || (8 ≤ sel && sel ≤ 15)

/-- The combinations of R241 Table 4 that `.b64` and RED allow. -/
def atomOk (red : Bool) (m : BitVec 6) : Bool :=
  let op := (m.extractLsb' 0 4).toNat
  op ≤ 14 && (!m.getLsbD 4 || op ≤ 9) && (!red || (op != 8 && op != 9))

end Shape

open Shape in
/-- The patterns an entry reserves beyond the roles of its fields: decode fault reason 5 (R186). -/
def Op.extraOk (o : Op) (w : Fields) : Bool :=
  match o with
  | .shfl => w.a.pat == 0 && w.a.k == 0                                   -- R212
  | .fcall => w.a.bits.extractLsb' 10 6 = 0                               -- R226
  | .if_ | .else_ => fwdOffset w                                          -- R218
  | .break_ | .cont_ => fwdOffset w && w.ext < 14                         -- R218: d is 0 to 13
  | .endloop => backOffset w                                              -- R218
  | .ivl => ivlOk w                                                       -- R29, R224
  | .amo | .amos => atomOk false w.mod                                    -- R241
  | .red => atomOk true w.mod                                             -- R241
  | .waitc => w.a.bits.extractLsb' 8 8 = 0                                -- R246
  | .cred => !(w.mod.extractLsb' 0 2 = 1 && w.mod.extractLsb' 2 2 = 3) && -- R270: .mean.s32
      (!w.mod.getLsbD 5 || w.mod.extractLsb' 0 2 = 1) &&                  -- .rw without .mean
      (w.mod.getLsbD 4 || w.ext = 0)                                      -- a root only under .root
  | .viewrd => viewSelOk w.a.bits.toNat                                   -- R276
  | .ctlr => (ctlWord w.a.bits.toNat).isSome                              -- R279
  | .ctlw => ((ctlWord w.b.bits.toNat).map (·.2)).getD false              -- R279: a word CTLW may write
  | _ => true

end Sys2Proof
end

