-- ==== Sys2Proof/WellFormed.lean ====
section
/-! DEFINITION. Well-formed instruction words: what R180 to R184 and R186 reasons 3 to 5 ask of the word
alone. -/

namespace Sys2Proof

/-- The k a pattern allows (R32 Table 3); pattern 111 is reserved. -/
def Operand.patOk (o : Operand) : Bool :=
  match o.pat.toNat with
  | 0 => o.k == 0
  | 4 => 1 ≤ o.k.toNat && o.k.toNat ≤ 6
  | 5 => o.k.toNat ≤ 3
  | 7 => false
  | _ => true

/-- Whether a field is a short immediate (R32). -/
def Operand.isImm (o : Operand) : Bool := o.pat == 6

/-- An operand field fits its role (R184). -/
def Role.fieldOk : Role → Operand → Bool
  | .no, o => o == Operand.zero
  | .num, _ => true
  | .src _ al imm _, o => o.patOk && (if o.isImm then imm else o.reg.toNat % al == 0)
  | .dst _ _, _ | .srcD _ _ _, _ => false

/-- The D field fits its role (R184). -/
def Role.dOk : Role → BitVec 8 → Bool
  | .no, d => d == 0
  | .dst _ al, d | .srcD _ al _, d => d.toNat % al == 0
  | .num, _ | .src _ _ _ _, _ => false

/-- The fields that a length does not have are zero (R180). -/
def Fields.fits (w : Fields) : Len → Bool
  | .l64 => w.b.pat == 0 && w.b.k == 0 && w.c == Operand.zero && w.ext == 0 && w.imm == 0
  | .l96 => w.imm == 0
  | .l128 => true

/-- GS and GR are zero without GE, and GE is zero where the entry allows no guard (R183, R22). -/
def Fields.guardOk (w : Fields) (allowed : Bool) : Bool :=
  if w.ge then allowed else !w.gs && w.gr == 0

/-- Every field fits its role and nothing else is reserved: no decode fault of reason 5 (R186). -/
def Op.fieldsOk (o : Op) (w : Fields) : Bool :=
  let r := o.roles w
  w.guardOk r.guard && r.d.dOk w.d && r.a.fieldOk w.a && r.b.fieldOk w.b && r.c.fieldOk w.c &&
  (r.ext || w.ext == 0) && (r.imm || w.imm == 0) && o.extraOk w

/-- A well-formed instruction: its word raises no decode fault of reasons 1 to 5. An event has no word
and is well formed as it stands. -/
def Instr.wf (i : Instr) : Bool :=
  match i.word with
  | none => true
  | some (o, len, w) => o.takes len && o.modOk w.mod && o.fieldsOk w && w.fits len

/-- The first register and the number of registers of a role's operand, if it names any. -/
def Role.fieldRegs : Role → Operand → List (Nat × Nat)
  | .src n _ _ _, o => if o.isImm then [] else [(o.reg.toNat, n)]
  | _, _ => []

/-- The registers D names as a destination. -/
def Role.dstRegs : Role → BitVec 8 → List (Nat × Nat)
  | .dst n _, d => [(d.toNat, n)]
  | _, _ => []

/-- The registers D names as a source. -/
def Role.srcDRegs : Role → BitVec 8 → List (Nat × Nat)
  | .srcD n _ _, d => [(d.toNat, n)]
  | _, _ => []

/-- FCALL's return registers vF to vF+n−1, which it writes (R226). -/
def Op.moreDst (o : Op) (w : Fields) : List (Nat × Nat) :=
  match o with
  | .fcall => [((w.a.bits.extractLsb' 0 8).toNat, (w.a.bits.extractLsb' 8 2).toNat + 1)]
  | _ => []

/-- The ranges of registers an instruction writes. -/
def Op.dstRanges (o : Op) (w : Fields) : List (Nat × Nat) :=
  (o.roles w).d.dstRegs w.d ++ o.moreDst w

/-- The ranges of registers an instruction reads, its guard included; MLOOP under `.rm` reads its mask
(R257). -/
def Op.srcRanges (o : Op) (w : Fields) : List (Nat × Nat) :=
  let r := o.roles w
  (if w.ge then [(w.gr.toNat, 1)] else []) ++ r.d.srcDRegs w.d ++
  (if o == .mloop && w.mod.getLsbD 0 then [(w.d.toNat, 4)] else []) ++
  r.a.fieldRegs w.a ++ r.b.fieldRegs w.b ++ r.c.fieldRegs w.c

/-- Every static register number, IVL's ranges included, lies below the declared count: no decode fault
of reason 6, and of reason 5 for IVL (R28, R29, R186). -/
def Op.regsBelow (o : Op) (w : Fields) (count : Nat) : Bool :=
  (o.dstRanges w ++ o.srcRanges w).all (fun x => x.1 + x.2 ≤ count)

/-! ### Words that cross their fetch block (R186, R187; log entry 1)

Only the first `avail` bytes of such a word are fetched: D and A lie below byte 7, B, C and EXT below byte 12. -/

/-- No field that lies in the fetched bytes shows a decode fault of reason 5. -/
def Op.seenOk (o : Op) (w : Fields) (avail count : Nat) : Bool :=
  let r := o.roles w
  let mid := decide (8 ≤ avail)
  let far := decide (12 ≤ avail)
  w.guardOk r.guard && (!mid || (r.d.dOk w.d && r.a.fieldOk w.a)) &&
  (!far || (r.b.fieldOk w.b && r.c.fieldOk w.c && (r.ext || w.ext == 0))) &&
  (match o with
   | .amo | .amos | .red => o.extraOk w
   | .cred => o.extraOk { w with ext := 0 }
   | .shfl | .fcall | .viewrd | .ctlr | .waitc => !mid || o.extraOk w
   | .ctlw => !far || o.extraOk w
   | .break_ | .cont_ => !far || decide (w.ext < 14)
   | .ivl =>
     let v : Fields := { w with imm := 0, a := if mid then w.a else .zero, b := if far then w.b else .zero }
     let lens : List Nat := (Shape.ivlRanges v).map (·.2)
     !v.a.bits.getLsbD 7 && !v.a.bits.getLsbD 15 && !v.b.bits.getLsbD 7 && !v.b.bits.getLsbD 15 && decide (lens.sum ≤ 64) &&
       lens.all (· ≤ count)
   | _ => true)

/-- Every static register number in the fetched bytes lies below the declared count. -/
def Op.seenBelow (o : Op) (w : Fields) (avail count : Nat) : Bool :=
  let r := o.roles w
  let guard : List (Nat × Nat) := if w.ge then [(w.gr.toNat, 1)] else []
  let mask : List (Nat × Nat) := if o == .mloop && w.mod.getLsbD 0 then [(w.d.toNat, 4)] else []
  let mid : List (Nat × Nat) := if 8 ≤ avail then o.dstRanges w ++ r.d.srcDRegs w.d ++ mask ++ r.a.fieldRegs w.a else []
  let far : List (Nat × Nat) := if 12 ≤ avail then r.b.fieldRegs w.b ++ r.c.fieldRegs w.c else []
  (guard ++ mid ++ far).all (fun x => x.1 + x.2 ≤ count)

end Sys2Proof
end

