-- ==== Sys2Proof/Decode.lean ====
section
/-! DEFINITION. The decoder, total on any bytes, and the encoder (R179 to R188). -/

namespace Sys2Proof

/-- The little-endian number that bytes spell (R48). -/
def leNat : List Byte → Nat
  | [] => 0
  | b :: bs => b.toNat + 256 * leNat bs

/-- The n bytes of a number, least significant first (R48). -/
def leBytes : Nat → Nat → List Byte
  | 0, _ => []
  | n + 1, x => BitVec.ofNat 8 x :: leBytes n (x / 256)

/-- The bits of an instruction's word, bit 0 the header's bit 0, with zeros above its length. -/
abbrev InstrBits := BitVec 128

/-- LEN of the header (R179). -/
def lenOfBits (v : InstrBits) : Option Len :=
  match (v.extractLsb' 0 2).toNat with
  | 0 => some .l64
  | 1 => some .l96
  | 2 => some .l128
  | _ => none

/-- LEN's code (R179). -/
def Len.code : Len → BitVec 2
  | .l64 => 0
  | .l96 => 1
  | .l128 => 2

/-- Bytes of a length. -/
def Len.bytes : Len → Nat
  | .l64 => 8
  | .l96 => 12
  | .l128 => 16

/-- The fields of a word of a given length (R179, R180). -/
def fieldsOfBits (v : InstrBits) (len : Len) : Fields where
  mod   := v.extractLsb' 26 6
  gr    := v.extractLsb' 18 8
  gs    := v.getLsbD 17
  ge    := v.getLsbD 16
  stall := v.extractLsb' 12 4
  d     := v.extractLsb' 32 8
  a     := Operand.ofBits (v.extractLsb' 40 16)
  b     := match len with
           | .l64 => ⟨v.extractLsb' 56 8, 0, 0⟩
           | _ => Operand.ofBits (v.extractLsb' 56 16)
  c     := match len with
           | .l64 => Operand.zero
           | _ => Operand.ofBits (v.extractLsb' 72 16)
  ext   := match len with
           | .l64 => 0
           | _ => v.extractLsb' 88 8
  imm   := match len with
           | .l128 => v.extractLsb' 96 32
           | _ => 0

/-- The header word of a set of fields (R179). -/
def headerBits (o : Op) (len : Len) (w : Fields) : BitVec 32 :=
  w.mod ++ w.gr ++ BitVec.ofBool w.gs ++ BitVec.ofBool w.ge ++ w.stall ++ o.code ++ len.code

/-- The word of a set of fields, zero above its length (R180). -/
def fieldsToBits (o : Op) (len : Len) (w : Fields) : InstrBits :=
  match len with
  | .l64 => (0 : BitVec 64) ++ w.b.reg ++ w.a.bits ++ w.d ++ headerBits o len w
  | .l96 => (0 : BitVec 32) ++ w.ext ++ w.c.bits ++ w.b.bits ++ w.a.bits ++ w.d ++ headerBits o len w
  | .l128 => w.imm ++ w.ext ++ w.c.bits ++ w.b.bits ++ w.a.bits ++ w.d ++ headerBits o len w

/-- Decode a word of which `avail` bytes lie in its fetch block, below a declared register count. An error
is the lowest reason of R186 that holds. The fields beyond the fetch block are not fetched, so of a word that
crosses, reasons 5 and 6 are judged on the fields that lie within it (log entry 1). -/
def decodeBits (avail : Nat) (count : Nat) (v : InstrBits) : Except Nat Instr :=
  match lenOfBits v with
  | none => .error 1
  | some len =>
    match Op.ofCode (v.extractLsb' 2 10) with
    | none => .error 2
    | some o =>
      let w := fieldsOfBits v len
      if !o.takes len then .error 3
      else if !o.modOk w.mod then .error 4
      else if avail < len.bytes then
        .error (if !o.seenOk w avail count then 5 else if !o.seenBelow w avail count then 6 else 7)
      else if !o.fieldsOk w then .error 5
      else if o == .ivl && !((Shape.ivlRanges w).all (fun x => x.2 == 0 || x.1 + x.2 ≤ count)) then .error 5
      else if !o.regsBelow w count then .error 6
      else .ok (Instr.ofWord o len w)

/-- Decode from the bytes at an instruction's address up to the end of its fetch block. -/
def decode (bs : List Byte) (count : Nat) : Except Nat Instr :=
  decodeBits bs.length count (BitVec.ofNat 128 (leNat (bs.take 16)))

/-- The word of an instruction with its length in bytes; none for an event. -/
def encode (i : Instr) : Option (InstrBits × Nat) :=
  i.word.map (fun x => (fieldsToBits x.1 x.2.1 x.2.2, x.2.1.bytes))

/-- The bytes of an instruction as they stand in memory (R48, R179). -/
def encodeBytes (i : Instr) : List Byte :=
  match encode i with
  | none => []
  | some (v, n) => leBytes n v.toNat

/-- The filler of R187: it stands at offset 28 of a fetch block. -/
def fillerWord : Nat := 0x00000554

/-- What the decoder reads from an instruction whose bits are w, as the opcode table numbers them: bit 0 is
the least significant bit of the first word. Every register number is below 256, so the declared count is
taken as 256. -/
def decodeTableWord (_nbits w : Nat) : Option Instr :=
  match decode (leBytes 16 w) 256 with
  | .ok i => some i
  | .error _ => none

end Sys2Proof
end

