-- ==== Sys2Proof/Config.lean ====
section
/-! DEFINITION. What an implementation of the Adeov fixes and the manual does not: the free values. None has
a body, so that a claim about one holds whatever it is. Beside them stand the figures the manual gives. -/

namespace Sys2Proof.Config

/-- The bound ε on the lease clocks, in nanoseconds (R8). -/
def epsilon : Nat := 10

/-- The candidate a part computes for an approximate form (opcode number, input); the manual fixes only
its error bound, its special values and its flags (R61, R205). Log entry 3. -/
opaque approx : Nat → Word → Word

/-- A value the manual leaves undefined, drawn with a fresh number each time. Log entry 4. -/
opaque freeWord : Nat → Word

/-- An undefined byte: the number of the occasion and the address. Log entry 4. -/
opaque freeByte : Nat → Nat → Byte

/-- Which of the entries that could make room is replaced, drawn with a fresh number each time, where the manual does not
say. Log entry 70. -/
opaque freeChoice : Nat → Nat

/-- Whether FFMA of 0 times infinity plus a quiet NaN raises NV: IEEE 754-2019 leaves it to the part.
Log entry 5. -/
opaque fmaZeroInfNan : Bool

/-- The lease a home in another package grants (package, lease class), in nanoseconds: its tables are not
part of this machine. Log entry 14. -/
opaque remoteLease : Nat → Nat → BitVec 20

/-- The publisher's LMS public key, whose digest is fused in OTP (R308). Log entry 61. -/
opaque publisherKey : List Byte

/-- Whether a 64-byte image header bears the right MAGIC (R308). Log entry 61. -/
opaque imageMagic : List Byte → Bool

/-- The security version number in an image header (R308). Log entry 61. -/
opaque imageSvn : List Byte → Nat

/-- The body length in an image header (R308). Log entry 61. -/
opaque imageLength : List Byte → Nat

/-- The signature's offset in an image header (R308). Log entry 61. -/
opaque imageSigOff : List Byte → Nat

/-- The bytes of a partition and service-class configuration (R307). Log entry 61. -/
opaque configBytes : List (Nat × Nat × List Nat × Nat × Nat) → List (Nat × Word) → List Byte

/-- The entry that names HSS under Fyari's vendor identifier as an extended asymmetric algorithm (R312). Log entry 62. -/
opaque hssAlgorithm : Word

/-- The fields of an SPDM request that its event does not name, from what the requester chose at a fresh value: offered versions,
capabilities and algorithms, and the requester's context (R312). Log entry 62. -/
opaque spdmFields : Nat → List Byte

/-- The responder's sizes and timing among the capabilities it answers with (R312). Log entry 62. -/
opaque spdmLimits : List Byte

/-- The identity key's signature over a transcript, by signature number (R311, R312). Log entry 61. -/
opaque hssSignature : Nat → List Byte → List Byte

/-- The package's certificate chain (R312). Log entry 61. -/
opaque certificate : List Byte

/-- The minimum security version number fused in OTP (R308). Log entry 61. -/
opaque minSvn : Nat

/-- The ROM's own digest, fixed in silicon (R307). Log entry 61. -/
opaque romDigest : List Byte

end Sys2Proof.Config
end

