-- ==== Sys2Proof/Machine/Map.lean ====
section
/-! DEFINITION. Sparse maps from numbers to plain data, held as one list sorted by key with no repeats. A map
with a default lists no entry equal to it, so that equal maps are equal lists. -/

namespace Sys2Proof

/-- A sparse map. -/
abbrev NMap (α : Type) := List (Nat × α)

/-- The entry of a key. -/
def mfind {α : Type} : NMap α → Nat → Option α
  | [], _ => none
  | (k, v) :: m, q => if q = k then some v else mfind m q

/-- Set the entry of a key. -/
def minsert {α : Type} : NMap α → Nat → α → NMap α
  | [], q, x => [(q, x)]
  | (k, v) :: m, q, x =>
    if q < k then (q, x) :: (k, v) :: m
    else if q = k then (k, x) :: m
    else (k, v) :: minsert m q x

/-- Remove the entry of a key. -/
def merase {α : Type} : NMap α → Nat → NMap α
  | [], _ => []
  | (k, v) :: m, q => if q = k then merase m q else (k, v) :: merase m q

/-- What a key holds, `d` where nothing is listed. -/
def mget {α : Type} (d : α) (m : NMap α) (q : Nat) : α := (mfind m q).getD d

/-- Write a key, keeping the canonical form: the default is never listed. -/
def mput {α : Type} [DecidableEq α] (d : α) (m : NMap α) (q : Nat) (x : α) : NMap α :=
  if x = d then merase m q else minsert m q x

/-- Apply a function to the entry of a key, if it is listed. -/
def mupdate {α : Type} (m : NMap α) (q : Nat) (f : α → α) : NMap α :=
  match mfind m q with
  | some v => minsert m q (f v)
  | none => m

/-- The keys rise strictly. -/
def msorted {α : Type} : NMap α → Bool
  | [] => true
  | [_] => true
  | (k, _) :: (k', v') :: m => k < k' && msorted ((k', v') :: m)

/-- The canonical form of a map with a default. -/
def mwf {α : Type} [DecidableEq α] (d : α) (m : NMap α) : Bool :=
  msorted m && m.all (fun e => decide (e.2 ≠ d))

end Sys2Proof
end

