-- ==== Sys2Proof/Machine/Float.lean ====
section
/-! DEFINITION. The floating formats to the bit, exact arithmetic on their values, and the one rounding of
R61. A finite value is an integer times a power of two; every operation is exact until it rounds. -/

namespace Sys2Proof

/-- A floating format (R49 Table 1): field widths, bias, whether it has infinities, whether it has NaNs. -/
structure Fmt where
  ebits : Nat
  fbits : Nat
  bias  : Nat
  inf   : Bool
  nan   : Bool
  canon : Nat
  deriving DecidableEq, Repr

namespace Fmt
/-- FP32 (R49, R51). -/
def fp32 : Fmt := ⟨8, 23, 127, true, true, 0x7FC00000⟩
/-- FP16 (R49, R51). -/
def fp16 : Fmt := ⟨5, 10, 15, true, true, 0x7E00⟩
/-- BF16 (R49, R51). -/
def bf16 : Fmt := ⟨8, 7, 127, true, true, 0x7FC0⟩
/-- E4M3 (R49, R51). -/
def e4m3 : Fmt := ⟨4, 3, 7, false, true, 0x7F⟩
/-- E5M2 (R49, R51). -/
def e5m2 : Fmt := ⟨5, 2, 15, true, true, 0x7E⟩
/-- E2M1 (R49); it has no NaN, and a NaN converted to it is 0 (R61). -/
def e2m1 : Fmt := ⟨2, 1, 1, false, false, 0⟩
/-- Width in bits. -/
def width (F : Fmt) : Nat := 1 + F.ebits + F.fbits
/-- The all-ones exponent. -/
def emax (F : Fmt) : Nat := 2 ^ F.ebits - 1
/-- Largest biased exponent and fraction of a finite value: formats without infinities use the all-ones
exponent, less the NaN code (R49). -/
def maxFinite (F : Fmt) : Nat :=
  if F.inf then (F.emax - 1) * 2 ^ F.fbits + (2 ^ F.fbits - 1)
  else if F.nan then F.emax * 2 ^ F.fbits + (2 ^ F.fbits - 2)
  else F.emax * 2 ^ F.fbits + (2 ^ F.fbits - 1)
/-- The code of +infinity, for formats that have one. -/
def infCode (F : Fmt) : Nat := F.emax * 2 ^ F.fbits
/-- The sign bit's weight. -/
def signBit (F : Fmt) : Nat := 2 ^ (F.ebits + F.fbits)
end Fmt

/-- A rounding mode (R61). -/
inductive RMode
  | rne | rz | rdn | rup
  deriving DecidableEq, Repr

/-- MOD[1:0] as a rounding mode (R61). -/
def RMode.ofMod (m : BitVec 6) : RMode :=
  match (m.extractLsb' 0 2).toNat with
  | 0 => .rne
  | 1 => .rz
  | 2 => .rdn
  | _ => .rup

/-- The exception flags of R62 Table 3. -/
structure FlagSet where
  nv : Bool := false
  dz : Bool := false
  of : Bool := false
  uf : Bool := false
  nx : Bool := false
  deriving DecidableEq, Repr

namespace FlagSet
/-- No flag. -/
def none : FlagSet := {}
/-- Flags of two events together (R62). -/
def or (a b : FlagSet) : FlagSet := ⟨a.nv || b.nv, a.dz || b.dz, a.of || b.of, a.uf || b.uf, a.nx || b.nx⟩
/-- The bits of `k.fflags` (R62 Table 3). -/
def bits (f : FlagSet) : Word :=
  (if f.nv then 16 else 0) ||| (if f.dz then 8 else 0) ||| (if f.of then 4 else 0) |||
  (if f.uf then 2 else 0) ||| (if f.nx then 1 else 0)
/-- Only NV. -/
def invalid : FlagSet := { nv := true }
/-- Flags of a list of events. -/
def all (l : List FlagSet) : FlagSet := l.foldl or none
end FlagSet

/-- A floating value: NaN (signalling or not), infinity, or ± m × 2^e with the sign of a zero kept. -/
inductive FVal
  | nan (neg signalling : Bool) (frac : Nat)
  | inf (neg : Bool)
  | fin (neg : Bool) (m : Nat) (e : Int)
  deriving DecidableEq, Repr

namespace FVal
def isNan : FVal → Bool
  | nan _ _ _ => true
  | _ => false
def isSnan : FVal → Bool
  | nan _ s _ => s
  | _ => false
def isInf : FVal → Bool
  | inf _ => true
  | _ => false
def isZero : FVal → Bool
  | fin _ m _ => m == 0
  | _ => false
def isNeg : FVal → Bool
  | nan n _ _ => n
  | inf n => n
  | fin n _ _ => n
/-- The value with the other sign. -/
def negate : FVal → FVal
  | nan n s f => nan n s f
  | inf n => inf (!n)
  | fin n m e => fin (!n) m e
/-- +0. -/
def zero : FVal := fin false 0 0
/-- The mantissa with its sign. -/
def sm : FVal → Int
  | fin n m _ => if n then - (m : Int) else m
  | _ => 0
/-- The exponent of the unit. -/
def ex : FVal → Int
  | fin _ _ e => e
  | _ => 0
/-- From a signed mantissa; an exact zero has the sign given. -/
def ofInt (zneg : Bool) (m : Int) (e : Int) : FVal :=
  if m = 0 then fin zneg 0 0 else fin (m < 0) m.natAbs e
end FVal

/-- The value a code stands for (R49). A NaN whose top fraction bit is clear is signalling (IEEE 754-2019);
E4M3 has one NaN code for each sign, which is quiet. -/
def Fmt.decode (F : Fmt) (bits : Nat) : FVal :=
  let f := bits % 2 ^ F.fbits
  let e := bits / 2 ^ F.fbits % 2 ^ F.ebits
  let neg := bits / F.signBit % 2 = 1
  if F.inf && e == F.emax then
    if f = 0 then .inf neg else .nan neg (f < 2 ^ (F.fbits - 1)) f
  else if !F.inf && F.nan && e == F.emax && f == 2 ^ F.fbits - 1 then .nan neg false f
  else if e = 0 then .fin neg f (1 - (F.bias : Int) - F.fbits)
  else .fin neg (f + 2 ^ F.fbits) ((e : Int) - F.bias - F.fbits)

/-- Bits of a number: 0 for 0, else ⌊log2⌋ + 1. -/
def bitLen (m : Nat) : Nat := if m = 0 then 0 else Nat.log2 m + 1

/-- m × 2^s rounded down, and whether the rest is zero, below, at or above half: 0, 1, 2 or 3. -/
def shiftRest (m : Nat) (s : Int) : Nat × Nat :=
  if 0 ≤ s then (m <<< s.toNat, 0)
  else
    let k := (-s).toNat
    let q := m >>> k
    let r := m - (q <<< k)
    let h := 1 <<< (k - 1)
    (q, if r = 0 then 0 else if r < h then 1 else if r = h then 2 else 3)

/-- Whether a magnitude with this rest is rounded up (R61). -/
def RMode.up (mode : RMode) (neg : Bool) (q rest : Nat) : Bool :=
  match mode with
  | .rne => rest = 3 || (rest = 2 && q % 2 = 1)
  | .rz => false
  | .rdn => neg && rest ≠ 0
  | .rup => !neg && rest ≠ 0

/-- m × 2^s rounded to an integer, and whether it was inexact. -/
def roundInt (mode : RMode) (neg : Bool) (m : Nat) (s : Int) : Nat × Bool :=
  let (q, rest) := shiftRest m s
  (if mode.up neg q rest then q + 1 else q, rest ≠ 0)

/-- An overflow's code and flags: IEEE 754-2019, or saturation to the largest finite magnitude (R61). -/
def Fmt.overflow (F : Fmt) (mode : RMode) (sat : Bool) (neg : Bool) : Nat × FlagSet :=
  let toInf := match mode with
    | .rne => true
    | .rz => false
    | .rdn => neg
    | .rup => !neg
  let code := if sat || !F.inf || !toInf then F.maxFinite else F.infCode
  (code + (if neg then F.signBit else 0), { of := true, nx := true })

/-- The exact value ± m × 2^e rounded once to a format (R61), with the flags it raises. Underflow is tiny and
inexact, tininess detected after rounding (R62). -/
def Fmt.roundFin (F : Fmt) (mode : RMode) (sat : Bool) (neg : Bool) (m : Nat) (e : Int) : Nat × FlagSet :=
  let s := if neg then F.signBit else 0
  if m = 0 then (s, FlagSet.none)
  else
    let top : Int := e + (bitLen m : Int) - 1
    let emin : Int := 1 - F.bias
    let quantum : Int := max (top - F.fbits) (emin - F.fbits)
    let (n, nx) := roundInt mode neg m (e - quantum)
    let (n', _) := roundInt mode neg m (e - (top - F.fbits))
    let tiny := top < emin && !(top = emin - 1 && n' = 2 ^ (F.fbits + 1))
    let code : Nat := ((quantum + F.fbits - emin).toNat) * 2 ^ F.fbits + n
    if code > F.maxFinite then F.overflow mode sat neg
    else (code + s, { uf := tiny && nx, nx := nx })

/-- The canonical NaN with the invalid flag (R51). -/
def Fmt.nanInvalid (F : Fmt) : Nat × FlagSet := (F.canon, FlagSet.invalid)

/-- A value rounded to a format. A NaN becomes the canonical NaN; an infinity stays one, or saturates where
the conversion does (R51, R61). -/
def Fmt.round (F : Fmt) (mode : RMode) (sat : Bool) : FVal → Nat × FlagSet
  | .nan _ s _ => (F.canon, { nv := s || !F.nan })
  | .inf n =>
    if sat || !F.inf then (F.maxFinite + (if n then F.signBit else 0), { of := true, nx := true })
    else (F.infCode + (if n then F.signBit else 0), FlagSet.none)
  | .fin n m e => F.roundFin mode sat n m e

/-- A value of a narrower format converted to a wider one: a NaN keeps its sign and high fraction bits and becomes
quiet; a signalling one raises NV (R51, R207). -/
def Fmt.convert (F G : Fmt) (x : FVal) : Nat × FlagSet :=
  match x with
  | .nan n s f =>
    let f' := (f * 2 ^ (G.fbits - F.fbits)) ||| 2 ^ (G.fbits - 1)
    (G.infCode + f' + (if n then G.signBit else 0), { nv := s })
  | v => G.round .rne false v

/-- A widening conversion of a code, exact for a number (R51, R207). -/
def Fmt.widen (F G : Fmt) (bits : Nat) : Nat × FlagSet := F.convert G (F.decode bits)

/-- The exact sum of two finite values; an exact zero is −0 only under `.rdn` or of two −0s (R61). -/
def FVal.addFin (mode : RMode) (a b : FVal) : FVal :=
  let e := min a.ex b.ex
  let sum := a.sm * 2 ^ (a.ex - e).toNat + b.sm * 2 ^ (b.ex - e).toNat
  let zneg := (a.isZero && b.isZero && a.isNeg && b.isNeg) ||
    (mode == .rdn && !(a.isZero && b.isZero && !a.isNeg && !b.isNeg))
  FVal.ofInt zneg sum e

/-- The exact product of two finite values. -/
def FVal.mulFin (a b : FVal) : FVal :=
  .fin (a.isNeg != b.isNeg) (a.sm * b.sm).natAbs (a.ex + b.ex)

/-- What NaN operands do: the canonical NaN, NV if one is signalling (R51). -/
def nanFlags (l : List FVal) : FlagSet := { nv := l.any FVal.isSnan }

/-- a + b before rounding; the flag is NV for infinities of opposite sign (R61). -/
def FVal.add (mode : RMode) (a b : FVal) : FVal × FlagSet :=
  if a.isNan || b.isNan then (.nan false false 0, nanFlags [a, b])
  else match a, b with
    | .inf x, .inf y => if x = y then (.inf x, FlagSet.none) else (.nan false false 0, FlagSet.invalid)
    | .inf x, _ => (.inf x, FlagSet.none)
    | _, .inf y => (.inf y, FlagSet.none)
    | _, _ => (FVal.addFin mode a b, FlagSet.none)

/-- a × b before rounding; NV for zero times infinity. -/
def FVal.mul (a b : FVal) : FVal × FlagSet :=
  if a.isNan || b.isNan then (.nan false false 0, nanFlags [a, b])
  else if a.isInf || b.isInf then
    if a.isZero || b.isZero then (.nan false false 0, FlagSet.invalid)
    else (.inf (a.isNeg != b.isNeg), FlagSet.none)
  else (FVal.mulFin a b, FlagSet.none)

/-- a × b + c before its one rounding (R61). -/
def FVal.fma (mode : RMode) (a b c : FVal) : FVal × FlagSet :=
  let (p, f) := FVal.mul a b
  if c.isNan && !a.isNan && !b.isNan && f.nv then
    (.nan false false 0, { nv := c.isSnan || Config.fmaZeroInfNan })
  else
    let (s, g) := FVal.add mode p c
    (s, f.or g)

/-- Round the outcome of an operation and join the flags. -/
def Fmt.finish (F : Fmt) (mode : RMode) (x : FVal × FlagSet) : Nat × FlagSet :=
  let (c, f) := F.round mode false x.1
  (c, x.2.or f)

/-- FADD in a format (R202). -/
def Fmt.fadd (F : Fmt) (mode : RMode) (a b : Nat) : Nat × FlagSet :=
  F.finish mode (FVal.add mode (F.decode a) (F.decode b))
/-- FSUB in a format (R202). -/
def Fmt.fsub (F : Fmt) (mode : RMode) (a b : Nat) : Nat × FlagSet :=
  F.finish mode (FVal.add mode (F.decode a) (F.decode b).negate)
/-- FMUL in a format (R202). -/
def Fmt.fmul (F : Fmt) (mode : RMode) (a b : Nat) : Nat × FlagSet :=
  F.finish mode (FVal.mul (F.decode a) (F.decode b))
/-- FFMA in a format (R202). -/
def Fmt.ffma (F : Fmt) (mode : RMode) (a b c : Nat) : Nat × FlagSet :=
  F.finish mode (FVal.fma mode (F.decode a) (F.decode b) (F.decode c))

/-- a < b for values that are not NaN; zeros of either sign are equal. -/
def FVal.lt (a b : FVal) : Bool :=
  match a, b with
  | .inf x, .inf y => x && !y
  | .inf x, _ => x
  | _, .inf y => !y
  | _, _ =>
    let e := min a.ex b.ex
    a.sm * 2 ^ (a.ex - e).toNat < b.sm * 2 ^ (b.ex - e).toNat

/-- a = b for values that are not NaN. -/
def FVal.eq (a b : FVal) : Bool := !a.lt b && !b.lt a

/-- FMIN and FMAX in a format: minimumNumber and maximumNumber, −0 below +0 (R203). -/
def Fmt.minmax (F : Fmt) (isMax : Bool) (a b : Nat) : Nat × FlagSet :=
  let x := F.decode a
  let y := F.decode b
  let fl := nanFlags [x, y]
  if x.isNan && y.isNan then (F.canon, fl)
  else if x.isNan then (b, fl)
  else if y.isNan then (a, fl)
  else
    let less := x.lt y || (x.eq y && x.isNeg && !y.isNeg)
    (if less != isMax then a else b, fl)

/-- FCLASS's bit (R204). -/
def Fmt.classBit (F : Fmt) (bits : Nat) : Nat :=
  match F.decode bits with
  | .nan _ s _ => if s then 8 else 9
  | .inf n => if n then 0 else 7
  | .fin n m _ =>
    if m = 0 then (if n then 3 else 4)
    else if m < 2 ^ F.fbits then (if n then 2 else 5)
    else (if n then 1 else 6)

/-- FSCALE: round(a × 2^b) (R202). -/
def Fmt.fscale (F : Fmt) (mode : RMode) (a : Nat) (b : Int) : Nat × FlagSet :=
  match F.decode a with
  | .fin n m e => F.roundFin mode false n m (e + b)
  | v => F.round mode false v

/-- FRND: a rounded to an integral value, raising no NX (R202). -/
def Fmt.frnd (F : Fmt) (mode : RMode) (a : Nat) : Nat × FlagSet :=
  match F.decode a with
  | .fin n m e =>
    if 0 ≤ e then (a, FlagSet.none)
    else ((F.roundFin mode false n (roundInt mode n m e).1 0).1, FlagSet.none)
  | v => F.round mode false v

/-- CVTFI: FP32 to an integer, saturating with NV; a NaN gives 0 and NV (R207). -/
def cvtfi (mode : RMode) (uns : Bool) (a : Word) : Word × FlagSet :=
  let lo : Int := if uns then 0 else -(2 ^ 31)
  let hi : Int := if uns then 2 ^ 32 - 1 else 2 ^ 31 - 1
  match Fmt.fp32.decode a.toNat with
  | .nan _ _ _ => (0, FlagSet.invalid)
  | .inf n => (BitVec.ofInt 32 (if n then lo else hi), FlagSet.invalid)
  | .fin n m e =>
    let (q, nx) := roundInt mode n m e
    let v : Int := if n then - (q : Int) else q
    if v < lo then (BitVec.ofInt 32 lo, FlagSet.invalid)
    else if hi < v then (BitVec.ofInt 32 hi, FlagSet.invalid)
    else (BitVec.ofInt 32 v, { nx := nx })

/-- CVTIF: an integer to FP32 (R207). -/
def cvtif (mode : RMode) (uns : Bool) (a : Word) : Word × FlagSet :=
  let v : Int := if uns then a.toNat else a.toInt
  let (c, f) := Fmt.fp32.roundFin mode false (v < 0) v.natAbs 0
  (BitVec.ofNat 32 c, f)

/-- The exact sum of finite values, as one value: +0 when it is zero. -/
def sumFin (l : List FVal) : FVal :=
  l.foldl (FVal.addFin .rne) FVal.zero

/-- FDOT2 and FDOT4: the exact sum of the products and the addend, rounded once (R202, R63). A NaN among the
operands, zero times infinity or infinities of opposite sign give the canonical NaN; a NaN element raises NV whether
it signals or not (R63), a NaN addend where it signals (R51). An exact zero is +0 (R63). -/
def fdot (mode : RMode) (ps : List (FVal × FVal)) (c : FVal) : Word × FlagSet :=
  let bad := ps.any (fun p => p.1.isNan || p.2.isNan)
  let prods := ps.map (fun p => FVal.mul p.1 p.2)
  let terms := prods.map (·.1) ++ [c]
  let fl := FlagSet.all ({ nv := bad || c.isSnan } :: prods.map (·.2))
  if terms.any FVal.isNan then (BitVec.ofNat 32 Fmt.fp32.canon, fl)
  else
    let infs := terms.filter FVal.isInf
    if infs.any FVal.isNeg && infs.any (fun v => !v.isNeg) then
      (BitVec.ofNat 32 Fmt.fp32.canon, fl.or FlagSet.invalid)
    else if infs ≠ [] then (BitVec.ofNat 32 (Fmt.fp32.infCode + (if infs.any FVal.isNeg then Fmt.fp32.signBit else 0)), fl)
    else
      let (x, f) := Fmt.fp32.round mode false (sumFin terms)
      (BitVec.ofNat 32 x, fl.or f)

/-- The integer square root, bit by bit from 2^k down. -/
def isqrtGo (n : Nat) : Nat → Nat → Nat
  | 0, r => r
  | k + 1, r =>
    let t := r + 2 ^ k
    isqrtGo n k (if t * t ≤ n then t else r)

/-- ⌊√n⌋. -/
def isqrt (n : Nat) : Nat := isqrtGo n (bitLen n / 2 + 1) 0

/-- A positive quotient or root known to be q + δ in units of 2^e with 0 ≤ δ < 1, rounded: the δ only matters
as non-zero, and q holds more bits than any format. -/
def Fmt.roundSticky (F : Fmt) (mode : RMode) (neg : Bool) (q : Nat) (e : Int) (inexact : Bool) : Nat × FlagSet :=
  F.roundFin mode false neg (4 * q + (if inexact then 1 else 0)) (e - 2)

/-- FSQRT of a finite positive value (R205). -/
def Fmt.sqrtFin (F : Fmt) (mode : RMode) (m : Nat) (e : Int) : Nat × FlagSet :=
  let m' := if e % 2 = 0 then m else 2 * m
  let e' := if e % 2 = 0 then e else e - 1
  let big := m' * 2 ^ 128
  let r := isqrt big
  F.roundSticky mode false r (e' / 2 - 64) (r * r ≠ big)

/-- The exact quotient n / (m × 2^e), rounded. -/
def Fmt.divFin (F : Fmt) (mode : RMode) (neg : Bool) (n m : Nat) (e : Int) : Nat × FlagSet :=
  let big := n * 2 ^ 320
  let q := big / m
  F.roundSticky mode neg q (-e - 320) (q * m ≠ big)

/-- 1 / √(m × 2^e), rounded. -/
def Fmt.rsqrtFin (F : Fmt) (mode : RMode) (m : Nat) (e : Int) : Nat × FlagSet :=
  let m' := if e % 2 = 0 then m else 2 * m
  let e' := if e % 2 = 0 then e else e - 1
  let big := 2 ^ 320 / m'
  let r := isqrt big
  F.roundSticky mode false r (-(e' / 2) - 160) (r * r * m' ≠ 2 ^ 320)

end Sys2Proof
end

