-- ==== Sys2Proof/Machine/State.lean ====
section
/-! DEFINITION. The state of one Adeov package: everything the manual gives it, as plain data, and the state
after power-on. What the outside world and the timing of the part decide stands in `State.agenda`. -/

namespace Sys2Proof.Machine

/-- Why the machine stops. -/
inductive Fault
  /-- Raised by the meaning of an instruction word when no gang has been issued (`State.issue` is none): the
  machine executes an instruction only for a gang that a slot has formed (R16). `step` never raises it. Safe. -/
  | noGang
  deriving DecidableEq, Repr

/-- Why an instruction has no meaning here. -/
inductive Refusal
  /-- Raised by `exec` for an instruction whose meaning is not written yet. Safe. -/
  | notModelled (mnemonic : String)
  deriving DecidableEq, Repr

/-- The mode of a warp (R278). -/
inductive Mode
  | user | firmware
  deriving DecidableEq, Repr

/-- What a slice stopped at an instruction waits for. `upto` numbers the operation issued last before the
instruction. -/
inductive Cond
  | regs (rs : List Nat)                  -- variable results still pending (R37)
  | counter (cls n : Nat)                 -- the counter of an engine class is n or less (R97, R98)
  | fence (rel : Option Nat) (acq : Bool) (upto : Nat)  -- a release at a scope, an acquire, or both (R95)
  | pages (vas : List Nat)                -- translations, by one virtual address of each page (R88)
  | prefetch                              -- the working set (R29)
  | regang (addr : DWord) (mask : BitVec 16)  -- REGANG (R24)
  | barrier (bar : Nat)                   -- a barrier's phase (R220)
  | phaseBit (addr : Nat) (last : Bool)   -- PBW (R223)
  | verdict                               -- every open FCALL of the slices (R227)
  | verdicts                              -- every open FCALL of the warp (R227)
  | txseal                                -- the other slices with transaction lanes (R103)
  | words (tests : List (Nat × DWord × Nat × Word)) (until_ : Option DWord) (since dst : Nat) (next : DWord)  -- TRYWAIT (R100): lane,
                                          -- address, home word and expected value; its destination and the next instruction
  | grace (g : Nat)                       -- GPWAIT (R248)
  | batch (b : Nat)                       -- MWAIT (R176)
  | ticket (t : Nat)                      -- CWAIT (R273)
  | moved (view : Nat)                    -- CWAIT that waited under this view when the view changed (R378)
  | matrix                                -- the matrix unit to be free (R161)
  | mread (row tile : Nat) (ops : List Nat) (vals : Option (List Word))  -- MRD at D1 and above (R177)
  | tap                                   -- TAPWAIT (R151)
  | pool (n : Nat)                        -- the linking of a pool (R250)
  | walks (upto : Nat)                    -- TLBINV: the walks begun before it (R282)
  | drain (b : Nat)                       -- CTXSV: a block's operations and continuations (R134)
  | held (sectors : List Nat)             -- sectors an escalated lane holds (R104)
  deriving DecidableEq, Repr

/-- A slice (R13): one program counter. -/
structure Slice where
  pc      : DWord
  exited  : Bool := false
  wait    : Option Cond := none
  woken   : Bool := false     -- what it waited for has come
  retired : Nat := 0          -- instructions retired since the last quantum end (R111)
  deriving DecidableEq, Repr

/-- A fixed-latency result on its way to the register file (R36, R38). -/
structure Pending where
  due  : Nat                  -- the warp's cycle at which it lands
  reg  : Nat
  vals : List (Nat × Word)    -- lane and value
  deriving DecidableEq, Repr

/-- What one lane's access does at its home. -/
inductive AccOp
  | read                                    -- n bytes
  | write (bytes : List Byte)
  | rmw (kind : Nat) (wide : Bool) (b c : DWord)   -- Table 4 of R241
  | ste (fmt : Nat) (hi : Bool) (val : Word)       -- R238
  | discard                                 -- R240
  | push (pool die : Nat)                   -- PFREE (R250)
  | adpq (id : Word)                        -- R159
  | note                                    -- a store-class operation whose effect is at its issue
  deriving DecidableEq, Repr

/-- One access of a flight. -/
structure Access where
  lane  : Nat
  va    : DWord
  pa    : Nat
  n     : Nat
  op    : AccOp
  lc    : Nat := 0            -- lease class (R87)
  uc    : Bool := false
  keep  : Nat := 0            -- 0 allocate, 1 no copy, 2 home slice only, 3 RDC only, 4 as the first to go (R235, R239, R100)
  done  : Bool := false
  value : List Byte := []
  committing : Bool := false  -- of a transaction's commit, which crosses the fabric in class ATOM (R302)
  bad   : Bool := false       -- it returned poison (R340)
  mine  : List Host.Cell := []  -- the warp's own buffered bytes that the read sees (R101, R227)
  gwct  : DWord := 0
  gwctd : DWord := 0
  flags : Word := 0
  deriving DecidableEq, Repr

/-- How the values of a flight become register values. -/
inductive Landing
  | none
  | ext (size : Nat)          -- R231 size code
  | elem (fmt : Nat)          -- LDE (R237)
  | words (n : Nat)           -- n registers as they stand
  deriving DecidableEq, Repr

/-- Operations a warp has issued whose results or acknowledgements are outstanding. -/
structure Flight where
  warp  : Nat
  cls   : Nat                 -- engine class of R97: 0 LD, 1 ST, 2 CP, 3 MX, 4 GS, 5 CL, 6 TP; 7 none
  accs  : List Access
  dst   : Nat := 0
  land  : Landing := .none
  ready : Bool := true        -- false: its values are still to be supplied
  vals  : List (Nat × Nat × Word) := []   -- register, lane, value supplied at issue or by an engine
  regs  : List Nat := []      -- registers that wait for it (R37)
  elemHi : List (Nat × Bool) := []        -- for LDE: lanes whose element is the high nibble
  round : Bool := false       -- it lands only at a round start (D1 and above)
  inOrder : Bool := false     -- its lanes act in ascending order (R250, R267)
  reads : Bool := false       -- a TRYWAIT or an AMOS: a read that has been made and whose data has not returned (R95, R292)
  held  : Bool := false       -- at D1 and above: its effect waits for the round commit
  place : Option Nat := none  -- the FCALL at which it stands in its warp's program order (R227); none: where it was issued
  deriving DecidableEq, Repr

/-- A latched fault (R331). -/
structure TrapRec where
  slice : Nat
  lane  : Nat
  cause : Nat
  taddr : DWord := 0
  info0 : Word := 0
  info1 : Word := 0
  info2 : Word := 0
  info3 : Word := 0
  pc    : DWord := 0
  whole : Bool := false       -- latched for the warp as a whole: `mask` names the issuing slices
  mask  : BitVec 16 := 0
  op    : Nat := 0            -- the engine operation that met it (R347)
  deriving DecidableEq, Repr

/-- A transaction lane (R101 to R104). -/
structure TxLane where
  cause  : Nat := 0           -- 0 alive
  code   : Nat := 0
  tries  : Nat := 0
  esc    : Bool := false
  since  : DWord := 0         -- when it escalated
  reads  : List (Nat × List Byte) := []   -- sectors read and the values read
  writes : List Host.Cell := []           -- buffered bytes, in canonical order
  foot   : List Nat := []                 -- sectors touched
  drops  : List Nat := []                 -- lines its DISCARDs name
  flags  : Word := 0                      -- flags of its STEs, for its commit (R238)
  deriving DecidableEq, Repr

/-- A warp's open transaction (R101). -/
structure Tx where
  addr  : DWord               -- of the TXOPEN
  since : Nat := 0            -- the next operation's number then
  lanes : NMap TxLane
  cnt   : NMap Nat            -- the saved nesting counters
  deriving DecidableEq, Repr

/-- What a squash restores (R228). -/
structure Fork where
  twin    : Nat
  site    : DWord
  link    : DWord
  gang    : BitVec 16
  lanes   : List Nat          -- active at the FCALL
  dst     : Nat               -- first return register
  n       : Nat
  linkReg : Nat
  predicted : List Word
  regs    : NMap Word
  cnt     : NMap Nat
  fflags  : Word
  slices  : List Slice
  reads   : List Nat := []            -- sectors recorded
  stores  : List (List Access) := []  -- buffered global stores, oldest first
  spad    : List (List Host.Cell) := []  -- buffered scratchpad writes
  stopped : List TrapRec := []        -- a trap or poison held for the verdict
  fatal   : Option (Nat × DWord × Option Nat) := none  -- poison held for the verdict: lane and addresses (R342)
  since   : Nat := 0                  -- the next operation's number at the FCALL
  raised  : Word := 0                 -- flags raised since the FCALL in its slices
  beside  : Word := 0                 -- flags raised since the FCALL in other slices
  before  : Option Word := some 0     -- what the continuation around it had raised at the FCALL; none: it had set `k.fflags`
  base    : List Nat := []            -- retired counts that a squash restores (R228, R382)
  flagsSet : Bool := false            -- a CTLW has written `k.fflags` since the FCALL
  poison  : NMap Bool := []
  deriving DecidableEq, Repr

/-- An operation of the matrix unit's queue (R162, R296). -/
inductive MxOp
  | mcfg (addr : DWord) (afmt : Nat)
  | mmeta (addr : DWord)
  | mlds (p : Nat)
  | mswap
  | mzero (tile : Nat)
  | mloop (mods : BitVec 6) (layout : BitVec 96) (stepw incw adpw : Word) (mask : BitVec 128)
  | macc (layout : BitVec 96) (stepw : Word)
  | mst (layout : BitVec 96) (stepw : Word) (ofmt : Nat)
  | mrd (row tile : Nat)
  | fgath
  | tapgo
  deriving DecidableEq, Repr

/-- A queued matrix operation: its number, the warp and the block that issued it, and for MLOOP and MRD the
flight whose registers wait and the lanes. -/
structure MxEntry where
  op    : MxOp
  id    : Nat
  warp  : Nat
  block : Nat
  flight : Nat := 0
  lanes : List Nat := []
  asked : List Nat := []             -- pages whose walks it has asked for (R346)
  deriving DecidableEq, Repr

/-- An operation of the tap unit's queue (R143). -/
inductive TapOp
  | bind (tap : DWord) (inp out : BitVec 96) (table : Nat)
  | fgath
  | tapgo
  | frewr (beta : Word) (row feature : Nat)
  | frel (row : Nat)
  deriving DecidableEq, Repr

structure TapEntry where
  op    : TapOp
  id    : Nat
  warp  : Nat
  block : Nat
  deriving DecidableEq, Repr

/-- One deferred effect of a warp at D1 and above (R112), in program order. -/
inductive Deferred
  | flight (f : Nat)                          -- a store, AMO, RED, ...: the flight's accesses
  | spad (writes : List (Nat × List Byte))
  | loads (spad : Bool) (accs : List (Nat × DWord × Nat × Nat))  -- reads that the race detector checks (R353)
  | amos (warp dst : Nat) (kind : Nat) (wide : Bool) (lanes : List (Nat × Nat × DWord × DWord)) (f : Nat)
  | pba (addr n : Nat)
  | dfree (f : Nat) (entries : List (Nat × DWord × Nat))
  | palloc (f : Nat) (lanes : List (Nat × Nat))
  | emit (f : Nat) (node : DWord) (recs : List (Nat × Nat))
  | launch (f : Nat) (lanes : List Nat) (record signal : DWord)
  | gpreq (f : Nat) (lanes : List Nat)
  | qsp (warp : Nat)
  | ndone
  | txseal (warp d : Nat)
  | engine (op : Nat)                         -- an engine operation reaches its engine
  | mx (core : Nat) (e : MxEntry)             -- a matrix operation reaches the unit
  | tap (core : Nat) (e : TapEntry)
  | vack (cid view : Nat) (mask : List Nat)
  | vjoin
  | qend (q idx : Nat)
  | rasw (va : DWord) (user : Bool)
  deriving DecidableEq, Repr

/-- Issue class, register budget and duties of a role (R133). -/
inductive Role0
  | plain | copy | matrix | epilogue | tapHandler
  deriving DecidableEq, Repr

/-- A warp (R13). -/
structure Warp where
  queue    : Nat
  pkt      : Nat
  launch   : Nat
  block    : Nat
  core     : Nat                 -- 0 to 767 in the package
  slot     : Nat
  wid      : Word
  bid      : Word
  width    : Nat
  mode     : Mode := .user
  role     : Role0 := .plain
  detlvl   : Nat := 0
  svc      : Nat := 0
  regCount : Nat                 -- the declared count (R28, R133)
  alloc    : Nat                 -- the allocation
  handlerCount : Nat := 0        -- the handler's declared count while TMODE is set (R336)
  regs     : NMap Word := []     -- reg × 64 + lane
  poison   : NMap Bool := []     -- poisoned lanes of registers (R340)
  pend     : List Pending := []  -- fixed-latency results, by issue
  clk      : Nat := 0            -- the warp's own cycle count: STALLs of its issues (R37)
  stall    : Nat := 0            -- cycles of its slot before its next issue (R37, R132)
  slices   : List Slice
  cnt      : NMap Nat := []      -- nesting counters (R19)
  wctl     : Word := 0
  fflags   : Word := 0
  tcause   : Word := 0
  tslice   : Word := 0
  tlane    : Word := 0
  tinfo0   : Word := 0
  tinfo1   : Word := 0
  tinfo2   : Word := 0
  tinfo3   : Word := 0
  tpc      : DWord := 0
  tpcSet   : Bool := false       -- the handler has written `k.tpc` (R338)
  taddr    : DWord := 0
  gwct     : DWord := 0
  gwctd    : DWord := 0
  args     : DWord := 0
  nin      : DWord := 0
  ncnt     : Word := 0
  -- the trap save area (R45)
  savePc   : List Slice := []
  saveCnt  : NMap Nat := []
  shadow   : NMap Word := []     -- v0 to v3: reg × 64 + lane
  shadowPoison : NMap Bool := [] -- their poisoned lanes
  saveTx   : Option Tx := none   -- the transaction that the trap fell into
  saveWorking : List (Nat × Nat) := []  -- the interval that was open
  latched  : List TrapRec := []  -- still to be delivered (R331)
  current  : Option TrapRec := none  -- the one being handled
  held     : List TrapRec := []  -- engine faults found, delivered at a wait (R347): slice is the class, lane the ticket
  watchdog : Nat := 0
  working  : List (Nat × Nat) := []  -- the open interval (R29)
  fast     : Bool := true        -- the working set is in the fast file (R31)
  lastIssue : Nat := 0           -- when it last issued, for R31
  fresh    : Bool := false       -- prefetched, nothing issued from it yet (R31)
  age      : Nat := 0
  yielded  : Bool := false
  lastGroup : Nat := 0
  outs     : List (Nat × Nat × Bool) := []   -- class, operation, completed: in issue order (R97)
  openOps  : List Nat := []      -- matrix operations since the last MFENCE (R176)
  batches  : List (Nat × List Nat × Nat) := []  -- closed batches not completed: number, operations, out id
  batchNo  : Nat := 0
  ticket   : Nat := 0            -- collectives issued (R273)
  tickets  : List (Nat × Nat) := []  -- ticket and operation, newest first: at most 15 back, and those abandoned or held (R374)
  tx       : Option Tx := none
  txAddr   : NMap DWord := []    -- per lane: TXOPEN address of the abort count (R104)
  txTries  : NMap Nat := []
  txSince  : NMap Nat := []      -- when a lane escalated
  twinOf   : Option Nat := none
  twinLink : DWord := 0
  twinDepth : Nat := 0
  wrote    : List Nat := []      -- sectors written, for a twin (R228)
  forks    : List Fork := []     -- open FCALLs, oldest first
  buf      : List Deferred := [] -- D1 and above (R111, R112)
  qdone    : Bool := false       -- its quantum has ended
  qwait    : Bool := false       -- its quantum ends with the verdicts of its FCALLs (R111, R382)
  release  : List Nat := []      -- releases performed, counted by scope: seven numbers (R352)
  quiet    : Nat := 0            -- the grace number of its last quiescent point (R134)
  quietDue : List Nat := []      -- quiescent points of QSP and EXIT that wait for the reads issued up to these numbers (R292)
  ended    : Bool := false
  killed   : Bool := false
  swapped  : Bool := false       -- pre-empted: it issues nothing
  stream   : Option (Nat × Nat) := none  -- the stream node's graph and node that launched its cluster
  ndone    : Bool := false       -- it has executed NDONE (R268)
  doomed   : Bool := false       -- a warp of a redundant block that has met a kill cause (R363)
  started  : Bool := true        -- it has been admitted to its slot (R15, R28)
  rank     : Nat := 0            -- a child launch's place among its packet's (R266)
  deriving DecidableEq, Repr

/-- A barrier of a block (R220). -/
structure Barrier where
  arrived : List Nat := []       -- warps, in order of arrival
  here    : List (Nat × BitVec 16) := []  -- slices that have executed it, for warps not all arrived
  expect  : Nat := 0             -- 0: BAR; else the count
  used    : Bool := false
  deriving DecidableEq, Repr

/-- A plane of the matrix unit (R165): its index and its bytes. What is undefined is free (log entry 4). -/
structure Plane where
  idx    : Option Nat := none    -- none: undefined
  data   : List Byte := []       -- 8,192 bytes once loaded
  scales : List Byte := []       -- the scale of each square it touches
  known  : Bool := false         -- false: its bytes are undefined
  seed   : Nat := 0              -- names its undefined bytes
  deriving DecidableEq, Repr

/-- A weight layout record as MCFG read it (R164): absolute addresses. -/
structure WRec where
  addr  : DWord
  woff  : DWord
  soff  : DWord
  kdim  : Nat
  ndim  : Nat
  wfmt  : Nat
  deriving DecidableEq, Repr

/-- A matrix unit (R161 to R178). -/
structure MxUnit where
  owner   : Option Nat := none
  record  : Option WRec := none
  afmt    : Nat := 0
  side    : Option DWord := none     -- the sparsity side array
  metaCache : NMap (List Byte) := []   -- metadata cache, by plane
  sideAs  : NMap (List Byte) := []   -- the side array as its MMETA found it, by plane (R175)
  active  : Plane := {}
  shadow  : Plane := {}
  acc     : NMap Word := []          -- (bank × 128 + row) × 128 + column
  accPoison : List Nat := []
  queue   : List MxEntry := []
  err     : Option (Nat × DWord) := none  -- error state: reason and record address (R326)
  errShown : Option (Nat × DWord) := none  -- the error state as the round found it, which its instructions see at D1 and above (R177)
  mxstall : Word := 0
  recent : List Nat := []            -- operations run since the last round start (R177)
  order  : List Nat := []            -- operations whose scratchpad writes are held, in the order they ran (R296)
  deriving DecidableEq, Repr

/-- A hold-table entry (R150). -/
structure Hold where
  pos   : Word := 0
  req   : BitVec 16 := 0
  first : BitVec 8 := 0
  nev   : BitVec 7 := 0
  ndel  : BitVec 7 := 0
  lost  : Bool := false
  state : BitVec 2 := 0              -- 0 FREE, 1 HELD, 2 OPEN
  deriving DecidableEq, Repr

/-- A tap record as FGATH read it (R137): absolute addresses. -/
structure TapRecord where
  ofmt : Nat
  dfmt : Nat
  layer : Nat
  id : Nat
  nfeat : Nat
  dmodel : Nat
  dirn : Nat
  enc : DWord
  dec : DWord
  bias : DWord
  theta : DWord
  escale : DWord
  dscale : DWord
  dir : DWord
  tracen : Option DWord
  tracebuf : DWord
  traceslots : Nat
  deriving DecidableEq, Repr

/-- A rule (R141). -/
structure TapRule where
  op      : Nat
  feature : Nat
  value   : Word
  deriving DecidableEq, Repr

/-- A valid row of a tile: its request, its token position, the reason for which its rules are not used, or 0, its
rules and the event ring of its request. -/
structure RowPlan where
  row   : Nat
  req   : Nat
  pos   : Word
  bad   : Nat := 0
  rules : List TapRule := []
  ring  : Option DWord := none
  deriving DecidableEq, Repr

/-- A feature of the dictionary as gathered (R138): its encoder row, decoder column, square scales, bias and
threshold. -/
structure Feature where
  f     : Nat
  enc   : List Byte
  dec   : List Byte
  esc   : List Nat
  dsc   : List Nat
  bias  : Word
  theta : Word
  deriving DecidableEq, Repr

/-- What the tap unit sends to memory besides its rows: a ring record, or a trace of a row. -/
inductive TapOut
  | ring (ring : DWord) (words : List Word)
  | trace (data : List Byte) (w0 w1 : Word)
  deriving DecidableEq, Repr

/-- A binding (R143). -/
structure Binding where
  block : Nat
  warp  : Nat
  tap   : DWord
  inp   : BitVec 96
  out   : BitVec 96
  table : Nat
  gathered : Bool := false
  started : Bool := false
  done  : Bool := false
  undelivered : List (Nat × List Word) := []  -- row and event words, in order
  current : Option (Nat × List Word) := none
  rd    : Option TapRecord := none
  bad   : Nat := 0                   -- TAPREC reason 4 or 5, else 0
  plan  : List RowPlan := []         -- the valid rows
  seed  : Nat := 0                   -- names the plane that FGATH left
  group0 : List Feature := []        -- what FGATH has gathered
  reported : Bool := false           -- its report has gone to the block (R327)
  deriving DecidableEq, Repr

/-- What a TAPGO at D1 and above leaves for the commit (R157): what it sends to memory, its binding, its events, the holds of
its rows and its report. -/
structure TileOut where
  outs    : List TapOut
  binding : Binding
  undelivered : List (Nat × List Word)
  holds   : NMap Hold
  report  : Option (Nat × Nat × Nat)
  deriving DecidableEq, Repr

/-- A core's tap hardware (R143 to R157). -/
structure TapUnit where
  binding : Option Binding := none
  queue   : List TapEntry := []
  hold    : NMap Hold := []
  traceCount : Nat := 0
  ringWait : List (DWord × Nat × DWord) := []  -- a ring's physical address, record number, completion time (R148)
  outbox  : NMap TileOut := []       -- by operation
  seq     : NMap Nat := []           -- per block: what of a binding it has issued (R261)
  deriving DecidableEq, Repr

/-- The order of a block's scratchpad writes at D0 (R163, R255): a barrier or phase-bit barrier releases what a warp has written,
and orders what has been released before a warp that it lets go on. -/
structure SpadOrder where
  tick     : Nat := 0                -- releases so far
  released : NMap Nat := []          -- by warp: its last release
  seen     : NMap (NMap Nat) := []   -- by warp: the releases of each other that are ordered before it
  before   : NMap (List (Nat × Nat × Byte)) := []  -- by byte: who wrote it, the releases until then, and the byte before; the latest first
  deriving DecidableEq, Repr

/-- A block (R13). -/
structure Block where
  launch  : Nat
  cluster : Nat                  -- cluster index c of the launch
  core    : Nat
  slot    : Nat                  -- block slot
  warps   : List Nat
  nwarps  : Nat                  -- WARPS
  size    : Nat                  -- scratchpad allocation
  spad    : List Host.Cell := [] -- unlisted bytes read zero (R66)
  spadPoison : List Nat := []    -- poisoned words, by address / 4
  spadShadow : NMap (Nat × Nat) := []  -- race detector: writer and interval number
  bars    : NMap Barrier := []
  order   : SpadOrder := {}       -- which writes of the scratchpad barriers have ordered, at D0
  abandoned : Bool := false      -- a warp was killed (R344)
  handler : Option Nat := none   -- the tap-handler warp
  tapReports : List (DWord × Nat × Nat × Nat) := []  -- TAPRECs to be delivered: tap record, reason, request, count (R146)
  alive   : Bool := true
  resident : Bool := true        -- false: its context is saved and its resources are free (R134)
  twinBlock : Option Nat := none -- the redundant copy (R136)
  primary : Bool := true
  reruns  : Nat := 0
  quantum : Nat := 0
  saved   : List (Nat × Warp) := []   -- the checkpoint of a redundant block's warps (R363)
  barsSaved : NMap Barrier := []
  unitsSaved : Option (MxUnit × TapUnit) := none
  mark    : Nat := 0             -- the next operation's number at the checkpoint
  agreed  : Bool := false        -- the copies have agreed on the quantum that is about to commit
  deriving DecidableEq, Repr

/-- A core (R6). -/
structure Core where
  mx    : MxUnit := {}
  tap   : TapUnit := {}
  pred  : NMap (List Word) := []     -- FCALL predictor: entry, four values (R226)
  icache : NMap (List Byte) := []    -- fetch blocks held, by physical address / 32
  deriving DecidableEq, Repr

/-- A RAS record (R366) before the engine fills SEQ, DIE and TIME. -/
structure RasRec where
  type  : Nat
  sub   : Nat := 0
  sw    : Bool := false
  pv    : Bool := false
  pkt   : Word := 0
  cause : Nat := 0
  part  : Nat := 0
  queue : Nat := 0
  bid   : Word := 0
  wid   : Word := 0
  va    : DWord := 0
  pa    : DWord := 0
  info0 : Word := 0
  info1 : Word := 0
  info2 : Word := 0
  info3 : Word := 0
  raw   : List Byte := []            -- RASW: bytes 0x10 to 0x3F as written
  core  : Nat := 0                   -- of a record that a core makes: the core
  tick  : DWord × Nat := (0, 0)      -- when it reached its engine: the time and the cycle (R365)
  deriving DecidableEq, Repr

/-- A die's registers and engines. -/
structure Die where
  skew     : BitVec 4 := 0           -- how far its clock runs ahead of the slowest, in ns (R8)
  winView  : NMap DWord := []
  winStore : NMap DWord := []
  winScale : NMap DWord := []
  winCtl   : NMap Word := []
  winClosing : List Nat := []        -- windows being disabled (R77)
  svcCfg   : NMap Word := []         -- unlisted: 0xFFFF1010 (R79)
  lease    : NMap DWord := []        -- unlisted: Table 2 of R89
  poolCfg  : NMap DWord := []
  poolStat : NMap DWord := []
  poolQref : NMap Word := []
  poolHead : NMap DWord := []        -- head of each free list (R250)
  poolOff  : List Nat := []          -- a disable that waits for the linking (R109)
  dfree    : List (DWord × Nat × Nat × Nat × Nat) := []  -- address, pool, the grace period that covers it or 0, the issuing
                                     -- warp's partition and service class (R79, R108)
  mxGov    : Word := 32
  wdogCfg  : Word := 0x80000020
  raceCtl  : Word := 0
  raceShadow : NMap (Nat × Nat × Nat) := []  -- sector: writer, interval number, scope (R352)
  rasBase  : DWord := 0
  rasCtl   : Word := 6
  rasHead  : Word := 0
  rasTail  : Word := 0
  rasDrops : Word := 0
  rasQueue : List RasRec := []       -- records the engine has not taken
  rasWritten : List DWord := []      -- completion times of records written and not counted (R365)
  firmware : Bool := false           -- its firmware core runs (R307, R368)
  tin      : Option Nat := none      -- Tin's last queue while the firmware is in reset (R369)
  deriving DecidableEq, Repr

/-- A partition (R10, R106, R266). -/
structure Partition where
  dies     : List Nat
  clusters : List Nat                -- core clusters, die × 12 + cluster
  base     : Nat := 0                -- partitioned mode: its memory range
  top      : Nat := 0
  gpDone   : Nat := 0
  gpNow    : Option Nat := none      -- the grace period in progress
  gpWait   : List Nat := []          -- warps it still waits for
  gpMax    : Nat := 0                -- the highest number handed out
  gpNext   : Bool := false           -- one is to start when the current one completes
  children : List (Nat × DWord × DWord × Nat) := []  -- parent warp, record and signal addresses, place among its packet's (R266)
  deriving DecidableEq, Repr

/-- A registered queue (R114, R115). -/
structure Queue where
  func     : Nat
  desc     : Nat                     -- virtual address of the descriptor
  root     : Nat
  ring     : DWord
  log2n    : Nat
  quant    : Nat
  part     : Nat
  preempt  : Bool
  qdet     : Nat
  qsvc     : Nat
  qpri     : Nat
  handlers : DWord
  save     : DWord
  wptr     : DWord := 0              -- as the firmware last read it
  rptr     : DWord := 0
  next     : DWord := 0              -- index of the next packet to start
  done     : List DWord := []        -- completed packets above RPTR
  open_    : List Nat := []          -- indices of started packets not completed
  stopped  : Bool := false
  waiting  : Option (List (DWord × Word)) := none  -- a WAITSIG in progress
  gang     : Option (Nat × DWord × Nat) := none    -- a GANG being reserved: PMASK, table, tries
  gangAt   : DWord := 0              -- when the attempt began
  gangHeld : List Nat := []          -- partitions reserved in this attempt
  served   : Nat := 0                -- when it was last served
  draining : Option DWord := none    -- its pre-emption began then and still drains (R134, R351)
  swapped  : Bool := false           -- pre-empted
  spared   : List (Nat × DWord) := []  -- the packets, by queue and index, for which its pre-emption has been abandoned (R351)
  sigs     : NMap DWord := []        -- completion signal of each open packet
  abi      : Nat := 1                -- the driver ABI and packet format versions agreed with its driver (R303)
  fmt      : Nat := 1
  deriving DecidableEq, Repr

/-- A launch: one LAUNCH packet, gang part, child or stream node (R121). -/
structure Launch where
  queue   : Nat
  pkt     : Nat
  part    : Nat
  record  : DWord
  code    : DWord
  args    : DWord
  entry   : DWord
  spad    : Nat
  width   : Nat
  warps   : Nat
  blocks  : Nat
  redund  : Bool
  wave    : Nat
  roles   : Nat                      -- 128 bits
  budget  : List Nat
  regs    : Nat
  levels  : Nat := 0                 -- LVLN
  n       : Nat                      -- clusters
  next    : Nat := 0                 -- clusters started, in launch order
  retired : Nat := 0
  exits   : List Nat := []           -- clusters exited, not retired
  dets    : Nat := 0
  round   : Nat := 0
  began   : DWord := 0               -- lease clock at the round's start
  committed : Bool := false          -- the round has committed, the next has not started
  gwct    : DWord := 0               -- largest gwct of the round's writes
  parent  : Option Nat := none       -- launch of the parent, for a child
  rank    : Nat := 0                 -- a child's place among its packet's, in the order of the commits (R266)
  aborted : Bool := false            -- no more of its clusters start (R357)
  signal  : DWord := 0
  graph   : Option (Nat × Nat) := none
  stream  : Option (Nat × Nat × Nat × Nat) := none  -- graph, node, and the queue and overflow places its cluster holds
  kills   : Bool := false
  failed  : Bool := false
  exitRound : Nat := 0               -- the round in which a warp last exited (R127)
  nin     : DWord := 0               -- a stream cluster: its first record and their number (R131)
  ncnt    : Nat := 0
  places  : List DWord := []         -- where the records it took lie
  children : Nat := 0
  done    : Bool := false
  ready   : DWord := 0               -- not before this time (gangs)
  stuck   : Bool := false            -- the round has been reported as stuck (R361)
  deriving DecidableEq, Repr

/-- A packet or node in progress that is no launch. -/
inductive Work
  | copy (src dst : DWord) (len : Nat)
  deriving DecidableEq, Repr

/-- A node of a running graph (R129 to R131). -/
structure Node where
  ntype : Nat
  succ  : List Nat
  live  : Nat
  work  : DWord
  addr  : DWord
  inq   : DWord
  ovf   : DWord
  rsz   : Nat
  cap   : Nat
  ocap  : Nat
  coal  : Nat
  state : Nat := 0                   -- 0 waiting, 1 running, 2 complete
  nq    : Nat := 0                   -- records ever appended to the queue
  no    : Nat := 0
  useQ  : Nat := 0                   -- places in use
  useO  : Nat := 0
  recs  : List (Bool × Nat × DWord × Nat) := []   -- unclaimed records in each area's order: overflow?, index, gwct, flight
  launches : List Nat := []
  deriving DecidableEq, Repr

structure Graph where
  queue : Nat
  pkt   : Nat
  nodes : List Node
  failed : Bool := false
  deriving DecidableEq, Repr

/-- Kinds of engine operation (R252 to R254, R271). -/
inductive EngOp
  | gather (base : DWord) (size dst : Nat) (elems : List (Nat × DWord))
  | scatter (base : DWord) (size src : Nat) (elems : List (Nat × DWord))
  | copyG2s (layout : BitVec 96) (base : DWord) (l rows pitch : Nat)
  | copyS2g (layout : BitVec 96) (base : DWord) (l rows pitch : Nat)
  | copyr (dst src : DWord) (len : Nat)
  | packetCopy (queue : Nat) (dst src : DWord) (len : Nat)
  | coll (kind : Nat) (mods : BitVec 6) (comm src dst : DWord) (count root cid num rank n view ticket : Nat)
      (members : List Nat)
  | batch (ops : List Nat)           -- matrix operations closed by an MFENCE (R176)
  | unit                             -- one operation of the matrix or the tap unit
  | tap                              -- FGATH or TAPGO
  deriving DecidableEq, Repr

structure Engine where
  op     : EngOp
  warp   : Nat
  block  : Nat
  cls    : Nat
  stage  : Nat := 0                  -- 0 not at its engine yet (D1), 1 at its engine, 2 complete
  wprot  : Option (DWord × Nat) := none   -- first unit not written and its size (R346)
  made   : Nat := 0                  -- moves made so far
  asked  : List Nat := []            -- a collective: pages whose walks it has asked for (R346)
  held   : List (Nat × List Byte) := []   -- held writes (R128), by physical address
  heldSpad : List (Nat × List Byte) := []
  flags  : Word := 0
  gwct   : DWord := 0
  gwctd  : DWord := 0
  status : Word := 0                 -- CWAIT's word
  sent   : Bool := false             -- a collective: its contribution has been sent
  reweigh : Bool := false            -- held for re-weighting (R373)
  renewed : Bool := false            -- a VACK has numbered it again (R373)
  rel    : List Nat := []            -- the warp's releases when it was issued (R352)
  lead   : Nat := 0                  -- the leader lane at issue
  ran    : Bool := false             -- its moves have been made, or held
  heldBad : List Nat := []           -- sectors that its held writes poison
  mirror  : Option Nat := none       -- the redundant copy's operation that takes this one's result (R136)
  flight  : Nat := 0                 -- of an operation of the matrix unit: the flight that it supplies
  deriving DecidableEq, Repr

/-- A cached translation (R88): the queue it belongs to and its page. -/
structure Trans where
  queue : Nat
  vpage : Nat                        -- VA / page size
  size  : Nat                        -- SIZE code
  frame : Nat                        -- physical base
  lc    : Nat
  uc    : Bool
  xn    : Bool
  rdo   : Bool
  deriving DecidableEq, Repr

/-- A page-table walk (R88), by queue and virtual 4 KiB page: the cores whose misses wait for it, the first of which
names the die that walks. -/
structure Walk where
  queue : Nat
  vpn   : Nat
  id    : Nat
  cores : List Nat
  deriving DecidableEq, Repr

/-- A page fault with the firmware (R345): the level at which the walk stopped. -/
structure PageFault where
  queue : Nat
  vpn   : Nat
  level : Nat
  pool  : Option (Nat × Nat × DWord) := none   -- a deferred push: die, pool, block (R110)
  cores : List Nat := []             -- the cores whose misses wait for it
  deriving DecidableEq, Repr

/-- A leased copy of a 32-byte sector (R89). In an RDC the sectors of a line stand in one way (R79). -/
structure Copy where
  data   : List Byte
  expiry : DWord
  bad    : Bool := false
  way    : Nat := 0
  used   : Nat := 0                  -- when it was last used, by `State.uses`
  shadow : Option (Nat × Nat × Nat) := none  -- in an RDC: the race detector's writer, interval number and scope (R352)
  deriving DecidableEq, Repr

/-- A line in the L2 (R72, R75): its bytes, what was written since the fill, the window it was filled through (R77)
and its way (R80). -/
structure Line where
  data   : List Byte                 -- 128 bytes
  dirty  : BitVec 4                  -- sectors written since the fill
  window : Option Nat := none        -- die × 32 + window it was filled through
  way    : Nat := 0
  used   : Nat := 0                  -- when it was last used, by `State.uses`
  deriving DecidableEq, Repr

/-- The expiry stamps of a line (R91): four dies and any other package. -/
structure Stamps where
  dies  : List DWord
  other : DWord
  deriving DecidableEq, Repr

/-- What the part sends to the world outside it. -/
inductive Sent
  | msix (func vector : Nat)
  | coll (dst : Nat) (m : CollMsg)
  | collAck (cid op rank : Nat)               -- to the package of a rank (R306)
  | req (dst addr n : Nat) (data : Option (List Byte))  -- a remote load or fill, or a store (R302)
  | atom (dst addr : Nat)                     -- a lease or an atomic operation of another package's memory (R302)
  | rsp (dst : Nat) (data : List Byte) (gwct : DWord)  -- data, or an acknowledgement with its write completion time (R302)
  | beat (die : Nat) (live : Bool)
  | suspect (p dst : Nat)
  | reset (m : ResetMsg)
  | propose (m : ViewMsg)
  | ack (dst view : Nat)
  | commit (m : ViewMsg)
  | withdraw (p dst : Nat)
  | join (dst src jview : Nat)
  | vack (cid view : Nat)
  | read (func : Nat) (data : List Byte)      -- BAR2 read data
  | spdm (code : Nat) (body : List Byte)      -- an answer: its code, and from its first parameter on (R312)
  | linkUp (port version : Nat)
  | heartbeat
  deriving DecidableEq, Repr

/-- The message classes of the Ilutre Link (R302 Table 2). -/
inductive MsgClass
  | req | rsp | atom | coll | view | beat
  deriving DecidableEq, Repr

/-- The class of what is sent on a link; none for what goes over no link. -/
def Sent.cls : Sent → Option MsgClass
  | .coll _ _ => some .coll
  | .collAck _ _ _ | .rsp _ _ _ => some .rsp
  | .req _ _ _ _ => some .req
  | .atom _ _ => some .atom
  | .beat _ _ | .suspect _ _ | .withdraw _ _ | .reset _ => some .beat
  | .propose _ | .ack _ _ | .commit _ | .join _ _ _ | .vack _ _ => some .view
  | .msix _ _ | .read _ _ | .spdm _ _ | .linkUp _ _ | .heartbeat => none

/-- The virtual channel of a class on the package's network (R82, R302 Table 2). -/
def MsgClass.vc : MsgClass → Nat
  | .req => 0
  | .rsp => 1
  | .atom => 2
  | .coll | .view | .beat => 3

/-- The package to which a message goes, where it goes to one that it names. -/
def Sent.dst : Sent → Option Nat
  | .coll p _ | .req p _ _ _ | .atom p _ | .rsp p _ _ | .suspect _ p | .withdraw _ p | .ack p _ | .join p _ _ => some p
  | .reset m => some m.target.toNat
  | _ => none

/-- A message with the ports on which it may go out and the versions of their links, in which it is written (R303; log entry
67). -/
structure Msg where
  what  : Sent
  links : List (Nat × Nat)
  deriving DecidableEq, Repr

/-- A saved block context (R134), by the physical address of its save area: its block, whose warps are swapped out,
with the matrix unit and the tap hardware it owned. -/
structure Context where
  block : Nat
  mx    : Option MxUnit
  tap   : Option TapUnit
  deriving DecidableEq, Repr

/-- The view unit (R269, R371, R379). -/
structure Zinc where
  self     : Nat := 0                -- the package's number
  view     : Nat := 0
  bitmap   : List Nat := []          -- members
  leader   : Nat := 0
  ranks    : List Nat := []
  member   : Bool := false
  jview    : Word := 0
  key      : NMap Word := []
  oldKey   : NMap Word := []         -- the key before the last install (R368)
  joining  : Bool := false
  acked    : NMap (List Nat) := []   -- per view × 64 + communicator: members that have acknowledged it
  nextOp   : NMap Nat := []          -- per communicator: operation numbers handed out
  expect   : NMap Nat := []          -- per communicator: the next operation number to run
  suspects : List (Nat × Nat) := []  -- suspected package and the package that suspects it
  misses   : NMap Nat := []          -- consecutive missed windows of a neighbour
  joins    : List (Nat × Nat) := []  -- JOINs received: package and JVIEW
  neighbours : List (Nat × List Nat) := []   -- direct neighbours of each package, from the rank map
  proposal : Option ViewMsg := none  -- this package's own
  acks     : List Nat := []
  ackedTo  : Option (Nat × Nat) := none      -- view and lowest-numbered proposer heard
  resetTime : NMap DWord := []       -- per sender: time of the last RESET accepted (R368)
  resetsActed : List (Nat × Nat) := []   -- view and level acted on
  resetSent : NMap DWord := []       -- per package: when level 1 was sent
  history  : List (Nat × List Nat) := [] -- views and bitmaps installed
  since    : DWord := 0              -- when the view was installed
  proposedAt : DWord := 0            -- when the PROPOSE under way was sent (R370)
  island   : Option (Nat × NMap Word) := none  -- after a level-2 RESET: the view and key by which the island still judges RESETs (R368)
  inbox    : List CollMsg := []      -- contributions received or read here, of operations not completed here
  deriving DecidableEq, Repr

/-- What the island's slice executes (R307): the ROM, or a first-stage image. -/
inductive BootCode
  | rom
  | firstStage (image : List Byte)
  deriving DecidableEq, Repr

/-- Boot, identity and health (R307 to R313). -/
structure Island where
  state     : BitVec 4 := 0
  err       : BitVec 4 := 0
  slice     : Option BootCode := some .rom  -- the active island's slice, which runs steps 1 to 3 (R307)
  active    : Nat := 0               -- die of the active island (R12)
  missed    : Nat := 0               -- heartbeats missed (R310)
  mreg      : NMap (List Byte) := [] -- unlisted: 32 zero bytes (R309)
  flashCount : Nat := 0              -- low 20 bits of the signature counter (R311)
  fuses     : Nat := 0
  fetchWait : Nat := 1               -- seconds before the next retry (R307)
  spdm      : Nat := 0               -- how far the requester has come
  transcript : List Byte := []       -- measurement messages since the last signature
  vca       : List Byte := []        -- the messages of version, capabilities and algorithms (R312)
  health    : Health := ⟨List.replicate 4 0xFFFFFFFF, List.replicate 12 0, List.replicate 64 0, 0⟩
  hostwin   : DWord := 0
  ports     : NMap Nat := []         -- ports up and their versions (R303)
  peers     : NMap Nat := []         -- the package at the other end of each port that is up
  liveness  : NMap DWord := []       -- per die: when the firmware core last refreshed its liveness word
  deriving DecidableEq, Repr

/-- A gang formed by a slot (R16): the slices of a warp that issue its next instruction. -/
structure Issue where
  warp : Nat
  mask : BitVec 16
  pc   : DWord
  deriving DecidableEq, Repr

/-- The machine: one package, and beside it the choices that its timing and the outside world make. -/
structure State where
  issue   : Option Issue
  agenda  : List Instr               -- events that happen next, in this order (the model's own)
  fresh   : Nat                      -- numbers for free values (the model's own)
  nextId  : Nat                      -- numbers for warps, blocks and operations (the model's own)
  cycle   : Nat                      -- issues so far
  turn    : Nat                      -- whose turn it is where the agenda is empty (the model's own)
  time    : DWord                    -- the lease clock (R8)
  warps   : NMap Warp
  blocks  : NMap Block
  cores   : NMap Core                -- unlisted: a core after reset
  launches : NMap Launch
  queues  : NMap Queue
  graphs  : NMap Graph
  parts   : NMap Partition
  partitioned : Bool
  engines : NMap Engine
  flights : NMap Flight
  dies    : NMap Die                 -- unlisted: a die after reset
  tlbs    : NMap (List Trans)        -- a core's L1 TLB, 768 + core cluster, 816 + die (R88); oldest first
  walks   : List Walk
  faults  : List PageFault
  mem     : List Host.Cell           -- HBM, by physical address
  host    : List Host.Cell           -- host memory, by host bus address (R301)
  epoch   : Nat                      -- level-2 resets so far: what unlisted bytes read as
  l2      : NMap Line
  uses    : Nat                      -- uses of L2 and RDC lines so far, which order them (R80; the model's own)
  badSectors : List Nat              -- sectors that read as poisoned at their homes (R340)
  badHbm  : List Nat                 -- sectors that HBM itself holds poisoned
  retiredFrames : List Nat           -- 4 KiB frames retired (R341)
  copies  : NMap Copy                -- cache × 2^43 + sector: cache is the core, or 768 + die for an RDC
  stamps  : NMap Stamps
  holds   : NMap (Nat × Nat × Nat)   -- sectors held by an escalated lane: warp, lane, the next operation's number then (R104)
  contexts : NMap Context
  zinc    : Zinc
  island  : Island
  kept    : NMap (List Host.Cell × List Host.Cell)  -- by operation: bytes of memory that commits have changed since it reached
                                     -- its engine (R128), and of scratchpad since it was issued or reached it (R128, R163)
  sent    : List Msg                -- what has been sent, newest first (the model's own)
  deriving DecidableEq, Repr

/-- The machine at power-on (R307, R309): nothing registered, nothing runs, the ROM has not yet acted. The
values the manual does not give stand in log entries 6 and 7. -/
def State.reset : State where
  issue := none
  agenda := []
  fresh := 0
  nextId := 1
  cycle := 0
  turn := 0
  time := 0
  warps := []
  blocks := []
  cores := []
  launches := []
  queues := []
  graphs := []
  parts := []
  partitioned := false
  engines := []
  flights := []
  dies := []
  tlbs := []
  walks := []
  faults := []
  mem := []
  host := []
  epoch := 0
  l2 := []
  uses := 0
  badSectors := []
  badHbm := []
  retiredFrames := []
  copies := []
  stamps := []
  holds := []
  contexts := []
  zinc := {}
  island := {}
  kept := []
  sent := []

end Sys2Proof.Machine
end

