-- ==== Sys2Proof/Machine/Operands.lean ====
section
/-! DEFINITION. Registers, operand forms, active lanes and leaders (R14, R19, R25, R27, R32 to R38, R184, R185). -/

namespace Sys2Proof

/-- The source lane of a pattern (R32 Table 3). -/
def Operand.lane (o : Operand) (width i : Nat) : Nat :=
  let k := o.k.toNat
  match o.pat.toNat with
  | 1 => (i + k) % width
  | 2 => k % width
  | 3 => i ^^^ (k % width)
  | 4 => i ^^^ (2 ^ (min k (Nat.log2 width)) - 1)
  | 5 => 4 * (i / 4) + k
  | _ => i

/-- A short immediate as a number (R32). -/
def Operand.immInt (o : Operand) : Int := (o.k ++ o.reg : BitVec 13).toInt

/-- A short immediate in a float position: the number rounded to nearest even, saturating, no flag (R34,
R202). -/
def Operand.immFloat (o : Operand) (F : Fmt) : Nat :=
  (F.roundFin .rne true (o.immInt < 0) o.immInt.natAbs 0).1

/-- Whether a role is a single value. -/
def Role.isUni : Role → Bool
  | .src _ _ _ u | .srcD _ _ u => u
  | _ => false

end Sys2Proof

namespace Sys2Proof.Machine

/-- Bit i of a slice mask. -/
def inMask (m : BitVec 16) (i : Nat) : Bool := m.getLsbD i

/-- The mask of one slice. -/
def sliceBit (i : Nat) : BitVec 16 := 1 <<< i

/-- The slices of a mask, ascending. -/
def maskSlices (m : BitVec 16) : List Nat := (List.range 16).filter (fun i => m.getLsbD i)

/-- A mask from its slices. -/
def maskOf (l : List Nat) : BitVec 16 := l.foldl (fun m i => m ||| sliceBit i) 0

/-- The lanes of the slices of a mask in a warp, ascending (R14). -/
def lanesIn (m : BitVec 16) (width : Nat) : List Nat :=
  (List.range width).filter (fun i => m.getLsbD (i / 4))

/-- Put lane values into a register file. -/
def putLanes (regs : NMap Word) (r : Nat) (vals : List (Nat × Word)) : NMap Word :=
  vals.foldl (fun m v => mput 0 m (r * 64 + v.1) v.2) regs

/-- The value of one lane of a register as it stands (R27). -/
def Warp.reg (W : Warp) (r lane : Nat) : Word := mget 0 W.regs (r * 64 + lane)

/-- Write one register in the lanes given; a write over poison clears it (R340). -/
def Warp.setReg (W : Warp) (r : Nat) (vals : List (Nat × Word)) : Warp :=
  { W with
    regs := putLanes W.regs r vals
    poison := vals.foldl (fun m v => merase m (r * 64 + v.1)) W.poison }

/-- Land the fixed-latency results that are due, in order of landing (R38). -/
def Warp.landDue (W : Warp) (clk : Nat) : Warp :=
  let due := W.pend.takeWhile (fun p => p.due ≤ clk)
  { (due.foldl (fun V p => V.setReg p.reg p.vals) W) with pend := W.pend.dropWhile (fun p => p.due ≤ clk) }

/-- Land every fixed-latency result. -/
def Warp.landAll (W : Warp) : Warp :=
  { (W.pend.foldl (fun V p => V.setReg p.reg p.vals) W) with pend := [] }

/-- What a register lane reads once every fixed-latency result has landed. -/
def Warp.settled (W : Warp) (r lane : Nat) : Word := W.landAll.reg r lane

/-- Enter a result in order of landing: among equal times the later issue lands last (R38). -/
def pendInsert : List Pending → Pending → List Pending
  | [], p => [p]
  | q :: l, p => if p.due < q.due then p :: q :: l else q :: pendInsert l p

/-- Issue a fixed-latency result of latency `lat` (R36). -/
def Warp.result (W : Warp) (lat r : Nat) (vals : List (Nat × Word)) : Warp :=
  if vals = [] then W else { W with pend := pendInsert W.pend ⟨W.clk + lat, r, vals⟩ }

/-- pattern(f, i) in an integer position (R196). -/
def Warp.opInt (W : Warp) (o : Operand) (i : Nat) : Word :=
  if o.isImm then BitVec.ofInt 32 o.immInt else W.reg o.reg.toNat (o.lane W.width i)

/-- pattern(f, i) in an FP32 position. -/
def Warp.opF32 (W : Warp) (o : Operand) (i : Nat) : Word :=
  if o.isImm then BitVec.ofNat 32 (o.immFloat Fmt.fp32) else W.reg o.reg.toNat (o.lane W.width i)

/-- pattern(f, i) in a position that is an FP32 one under some values of MOD and an integer one under the others (log
entry 30). -/
def Warp.opNum (W : Warp) (real : Bool) (o : Operand) (i : Nat) : Word := if real then W.opF32 o i else W.opInt o i

/-- pattern(f, i) in a position of packed elements: an immediate fills every element (R202). -/
def Warp.opPacked (W : Warp) (F : Fmt) (n : Nat) (o : Operand) (i : Nat) : Word :=
  if o.isImm then
    BitVec.ofNat 32 ((List.range n).foldl (fun acc j => acc + o.immFloat F * 2 ^ (F.width * j)) 0)
  else W.reg o.reg.toNat (o.lane W.width i)

/-- A register run at the lane of a pattern: its j-th register. -/
def Warp.opRun (W : Warp) (o : Operand) (i j : Nat) : Word :=
  W.reg (o.reg.toNat + j) (o.lane W.width i)

/-- A 64-bit operand: a pair, or a short immediate extended to 64 bits (R184). -/
def Warp.op64 (W : Warp) (o : Operand) (i : Nat) : DWord :=
  if o.isImm then BitVec.ofInt 64 o.immInt else pairOf (W.opRun o i 0) (W.opRun o i 1)

/-- An operand of 32 or 64 bits, the former zero-extended. -/
def Warp.opWide (W : Warp) (wide : Bool) (o : Operand) (i : Nat) : DWord :=
  if wide then W.op64 o i else (W.opInt o i).setWidth 64

/-- A layout word (R68). -/
def Warp.opLayout (W : Warp) (o : Operand) (i : Nat) : BitVec 96 :=
  W.opRun o i 2 ++ W.opRun o i 1 ++ W.opRun o i 0

/-- D as a source pair or run: its j-th register (R184). -/
def Warp.dReg (W : Warp) (w : Fields) (i j : Nat) : Word := W.reg (w.d.toNat + j) i

/-- The nesting counter of a lane (R19). -/
def Warp.count (W : Warp) (i : Nat) : Nat := mget 0 W.cnt i

/-- TMODE of `k.wctl` (R38 Table 5). -/
def Warp.tmode (W : Warp) : Bool := W.wctl.getLsbD 3
/-- UCHK. -/
def Warp.uchk (W : Warp) : Bool := W.wctl.getLsbD 2
/-- SBCHK. -/
def Warp.sbchk (W : Warp) : Bool := W.wctl.getLsbD 1

/-- The declared register count that bounds static and computed numbers (R28, R336). -/
def Warp.bound (W : Warp) : Nat := if W.tmode then W.handlerCount else W.regCount

/-- A transaction lane that has aborted does nothing more until TXSEAL (R102). -/
def Warp.txDead (W : Warp) (i : Nat) : Bool :=
  match W.tx with
  | none => false
  | some t => match mfind t.lanes i with
    | some l => l.cause != 0
    | none => false

/-- Whether a lane holds an open transaction that is alive. -/
def Warp.txLive (W : Warp) (i : Nat) : Bool :=
  match W.tx with
  | none => false
  | some t => match mfind t.lanes i with
    | some l => l.cause == 0
    | none => false

/-- The guard of a word in a lane (R183). -/
def Warp.guardHolds (W : Warp) (w : Fields) (i : Nat) : Bool :=
  !w.ge || ((W.reg w.gr.toNat i != 0) != w.gs)

/-- A lane is active when its counter is zero (R19). -/
def Warp.active (W : Warp) (i : Nat) : Bool := W.count i == 0 && !W.txDead i

/-- active(i) of R196. -/
def Warp.acts (W : Warp) (w : Fields) (i : Nat) : Bool := W.active i && W.guardHolds w i

/-- The acting lanes of the slices of a mask, ascending. -/
def Warp.actLanes (W : Warp) (w : Fields) (m : BitVec 16) : List Nat :=
  (lanesIn m W.width).filter (W.acts w)

/-- The leader lane (R25). -/
def Warp.leader (W : Warp) (w : Fields) (m : BitVec 16) : Option Nat := (W.actLanes w m).head?

/-- The value compared by the uniformity check at one field, as a number (R335). -/
def Warp.uniValue (W : Warp) (r : Role) (o : Operand) (i : Nat) : Nat :=
  match r with
  | .src n _ _ _ =>
    if o.isImm then 0 else (List.range n).foldl (fun acc j => acc + (W.opRun o i j).toNat * 2 ^ (32 * j)) 0
  | _ => 0

/-- The same for D as a source. -/
def Warp.uniValueD (W : Warp) (r : Role) (d : BitVec 8) (i : Nat) : Nat :=
  match r with
  | .srcD n _ _ => (List.range n).foldl (fun acc j => acc + (W.reg (d.toNat + j) i).toNat * 2 ^ (32 * j)) 0
  | _ => 0

/-- The fields that fail the uniformity check, lowest first: field code and the leader's first register
(R25, R315). MLOOP's mask under `.rm` is a single value too (R257). -/
def Warp.nonUniform (W : Warp) (o : Op) (w : Fields) (m : BitVec 16) : Option (Nat × Word) :=
  match W.actLanes w m with
  | [] => none
  | l :: ls =>
    let r := o.roles w
    let differs (f : Nat → Nat) : Bool := ls.any (fun i => f i != f l)
    let mask (i : Nat) : Nat := (List.range 4).foldl (fun acc j => acc + (W.reg (w.d.toNat + j) i).toNat * 2 ^ (32 * j)) 0
    if (r.d.isUni && differs (W.uniValueD r.d w.d)) || (o == .mloop && w.mod.getLsbD 0 && differs mask)
    then some (0, W.reg w.d.toNat l)
    else if r.a.isUni && differs (W.uniValue r.a w.a) then some (1, W.opRun w.a l 0)
    else if r.b.isUni && differs (W.uniValue r.b w.b) then some (2, W.opRun w.b l 0)
    else if r.c.isUni && differs (W.uniValue r.c w.c) then some (3, W.opRun w.c l 0)
    else none

/-- The registers of a list of ranges. -/
def rangeRegs (l : List (Nat × Nat)) : List Nat :=
  l.foldr (fun x acc => (List.range x.2).map (fun j => x.1 + j) ++ acc) []

/-- A source register whose fixed-latency result has not landed (R38). -/
def Warp.early (W : Warp) (o : Op) (w : Fields) : Option Nat :=
  (rangeRegs (o.srcRanges w)).find? (fun r => W.pend.any (fun p => p.reg == r && W.clk < p.due))

/-- The lanes of a source operand that a lane reads: the identity for guard and D. -/
def Warp.poisonedRead (W : Warp) (o : Op) (w : Fields) (m : BitVec 16) : Option Nat :=
  if W.poison = [] then none
  else
    let bad (r i : Nat) : Bool := (mfind W.poison (r * 64 + i)).isSome
    let r := o.roles w
    let viaField (x : Operand) (ro : Role) (i : Nat) : Bool :=
      (ro.fieldRegs x).any (fun rg => (List.range rg.2).any (fun j => bad (rg.1 + j) (x.lane W.width i)))
    let viaD (i : Nat) : Bool :=
      (r.d.srcDRegs w.d).any (fun rg => (List.range rg.2).any (fun j => bad (rg.1 + j) i))
    match (lanesIn m W.width).find? (fun i => w.ge && W.active i && bad w.gr.toNat i) with
    | some i => some i
    | none => (W.actLanes w m).find? (fun i =>
        viaD i || viaField w.a r.a i || viaField w.b r.b i || viaField w.c r.c i)

end Sys2Proof.Machine
end

