-- ==== Sys2Proof/Machine/Flags.lean ====
section
/-! DEFINITION. The sticky exception flags of a warp (R62) and the running maxima of the write completion times
(R92). -/

namespace Sys2Proof.Machine

/-- The flag bits of `k.fflags` (R62 Table 3). -/
def flagMask : Word := 0x1F

/-- OR flags that the slices of a mask raise into `k.fflags` (R62). Open FCALLs note them for their verdicts: those of the
slices they forked in, and those of others (R229). -/
def Warp.raise (W : Warp) (f : Word) (m : BitVec 16 := 0xFFFF) : Warp :=
  { W with
    fflags := W.fflags ||| (f &&& flagMask)
    forks := W.forks.map (fun x => { x with
      raised := if x.gang &&& m = 0 then x.raised else x.raised ||| (f &&& flagMask)
      beside := if m &&& ~~~x.gang = 0 then x.beside else x.beside ||| (f &&& flagMask) }) }

/-- The later of two lease-clock times, compared unsigned (R196). -/
def gwctMax (a b : DWord) : DWord := if a.toNat < b.toNat then b else a

/-- Raise `k.gwct` and `k.gwctd` (R92). -/
def Warp.completion (W : Warp) (g gd : DWord) : Warp :=
  { W with gwct := gwctMax W.gwct g, gwctd := gwctMax W.gwctd gd }

/-- The flags of a list of lanes' operations. -/
def laneFlags (l : List FlagSet) : Word := (FlagSet.all l).bits

end Sys2Proof.Machine
end

