-- ==== Sys2Proof/Machine/Narrow.lean ====
section
/-! DEFINITION. The narrow formats and their scales: K4X and K8O (R52 to R56), N4 (R57), block scales (R58 to
R60), QNT, DQNT and MXSCALE on one lane (R208 to R210), and the format windows' blocks (R74, R75). -/

namespace Sys2Proof

/-- x × 2^k. -/
def FVal.scale (x : FVal) (k : Int) : FVal :=
  match x with
  | .fin n m e => .fin n m (e + k)
  | v => v

/-- The magnitude of a value. -/
def FVal.mag (x : FVal) : FVal :=
  match x with
  | .fin _ m e => .fin false m e
  | .inf _ => .inf false
  | v => v

/-- −0 as +0 (R59). -/
def FVal.plusZero (x : FVal) : FVal := if x.isZero then FVal.zero else x

/-- The value of an integer. -/
def FVal.int (z : Int) : FVal := FVal.ofInt false z 0

/-- ⌊log2⌋ of a positive finite value. -/
def FVal.log2 (x : FVal) : Int :=
  match x with
  | .fin _ m e => (bitLen m : Int) - 1 + e
  | _ => 0

/-- The scale 2^(c − 127) of a UE8M0 code (R50), as an exponent. -/
def ue8 (c : Nat) : Int := (c : Int) - 127

/-- K8O magnitudes in grid units, by payload bits 2:0 (R53 Table 2). -/
def k8oMag (p : Nat) : Nat := (2 + p % 2) * 2 ^ (2 + p / 2 % 4)

/-- The value of a K8O payload (R53). -/
def k8oVal (p : Nat) : Int := if p / 8 % 2 = 1 then -(k8oMag (p % 8) : Int) else k8oMag (p % 8)

/-- A nibble as a signed number (R52). -/
def nibSigned (n : Nat) : Int := if n < 8 then n else (n : Int) - 16

/-- R55: the low and the high element of a byte of K4X, in grid units. -/
def k4xDecode (b : Byte) : Int × Int :=
  let lo := b.toNat % 16
  let hi := b.toNat / 16
  if lo = 8 then (k8oVal hi, 0)
  else if hi = 8 then (0, k8oVal lo)
  else (nibSigned lo, nibSigned hi)

/-- t rounded to an integer, ties to even; an infinity counts as far beyond the range. -/
def roundUnit (t : FVal) : Int :=
  match t with
  | .fin n m e =>
    let q := (roundInt .rne n m e).1
    if n then -(q : Int) else q
  | .inf n => if n then -1000 else 1000
  | .nan _ _ _ => 0

/-- The payload of an outlier: the nearest magnitude of Table 2, ties to m = 0, above 96 becomes 96 (R56). -/
def k8oPayload (t : FVal) : Nat :=
  let a := t.mag
  let mids : List (Nat × Nat) := [(10, 0), (14, 1), (20, 2), (28, 3), (40, 4), (56, 5), (80, 6)]
  let above (x : Nat × Nat) : Bool :=
    let mid := FVal.int x.1
    mid.lt a || (mid.eq a && x.2 % 2 = 1)
  let j := (mids.filter above).length
  j + (if t.isNeg then 8 else 0)

/-- Whether a writer's code differs from the exact value. -/
def differs (t : FVal) (q : Int) : Bool := !(t.eq (FVal.int q))

/-- What the flags of R56, R58 and R61 say of one element: NX where the stored value differs, OF where the magnitude
passes 96, UF where a value that is not zero rounds to zero. -/
def k4xFlags (t : FVal) (q : Int) : FlagSet :=
  { nx := differs t q, of := (FVal.int 96).lt t.mag, uf := roundUnit t = 0 && !t.isZero }

/-- Four bits of a plain element. -/
def nib (q : Int) : Nat := (q % 16).toNat

/-- R56: encode a pair from its scaled values. A NaN has become 0 before. -/
def k4xEncode (tl th : FVal) : Byte × FlagSet :=
  let ql := roundUnit tl
  let qh := roundUnit th
  if ql.natAbs ≤ 7 ∧ qh.natAbs ≤ 7 then
    (BitVec.ofNat 8 (nib ql + 16 * nib qh), (k4xFlags tl ql).or (k4xFlags th qh))
  else if th.mag.lt tl.mag || th.mag.eq tl.mag then
    let p := k8oPayload tl
    (BitVec.ofNat 8 (8 + 16 * p), (k4xFlags tl (k8oVal p)).or (k4xFlags th 0))
  else
    let p := k8oPayload th
    if p = 8 then
      let s : Int := max (-7) (min 7 ql)
      (BitVec.ofNat 8 (nib s + 16 * nib (-7)), (k4xFlags tl s).or (k4xFlags th (-7)))
    else (BitVec.ofNat 8 (p + 16 * 8), (k4xFlags th (k8oVal p)).or (k4xFlags tl 0))

/-- The nibble position of a logical element of a chunk (R54). -/
def k4xPos (k : Nat) : Nat := 16 * (k % 8) + k / 8

/-- Logical element k of a chunk (R54, R55). -/
def k4xElem (chunk : List Byte) (k : Nat) : Int :=
  let p := k4xPos (k % 128)
  let (l, h) := k4xDecode (chunk.getD (p / 2) 0)
  if p % 2 = 0 then l else h

/-- An element format of R58. -/
inductive Elem
  | e4m3 | e5m2 | e2m1 | k4x
  deriving DecidableEq, Repr

/-- MOD[2:0] as an element format (R208). -/
def Elem.ofCode (n : Nat) : Elem :=
  match n with
  | 0 => .e4m3
  | 1 => .e5m2
  | 2 => .e2m1
  | _ => .k4x

/-- emax_elem (R58). -/
def Elem.emax : Elem → Int
  | .e4m3 => 8
  | .e5m2 => 15
  | .e2m1 => 2
  | .k4x => 5

/-- The floating format of an element format; K4X has none of its own. -/
def Elem.fmt : Elem → Fmt
  | .e4m3 => Fmt.e4m3
  | .e5m2 => Fmt.e5m2
  | .e2m1 | .k4x => Fmt.e2m1

/-- The scale code of a block and its flags (R58, R59). -/
def blockScale (E : Elem) (xs : List FVal) : Nat × FlagSet :=
  if xs.any (fun x => x.isNan || x.isInf) then (0xFF, FlagSet.invalid)
  else
    let m := xs.foldl (fun a x => if a.lt x.mag then x.mag else a) FVal.zero
    if m.isZero then (0, FlagSet.none)
    else ((max (-127) (min 127 (m.log2 - E.emax)) + 127).toNat, FlagSet.none)

/-- One element converted to a floating element format with round_rne and saturation; −0 is stored as +0, and
underflow is an inexact subnormal or zero (R58, R59, R61). -/
def quantFloat (F : Fmt) (t : FVal) : Nat × FlagSet :=
  let (c, f) := F.round .rne true t.plusZero
  let c' := if c = F.signBit then 0 else c
  (c', { f with uf := f.nx && !f.of && (c % F.signBit) / 2 ^ F.fbits = 0 })

/-- A NaN as a K4X or E2M1 element: 0 and NV (R61). -/
def k4xIn (x : FVal) : FVal × FlagSet :=
  if x.isNan then (FVal.zero, FlagSet.invalid) else (x.plusZero, FlagSet.none)

/-- The two pairs of QNT.k4x (R208). -/
def quantPair (a b : FVal) : Byte × FlagSet :=
  let (x, f) := k4xIn a
  let (y, g) := k4xIn b
  let (c, h) := k4xEncode x y
  (c, f.or (g.or h))

/-- QNT on one lane: four source values under a scale code (R208). -/
def qnt (E : Elem) (code : Nat) (xs : List FVal) : Word × FlagSet :=
  if code = 0xFF then (0, FlagSet.invalid)
  else
    let ts := xs.map (fun x => x.scale (-(ue8 code)))
    match E with
    | .k4x =>
      let (a, f) := quantPair (ts.getD 0 FVal.zero) (ts.getD 1 FVal.zero)
      let (b, g) := quantPair (ts.getD 2 FVal.zero) (ts.getD 3 FVal.zero)
      (BitVec.ofNat 32 (a.toNat + 256 * b.toNat), f.or g)
    | _ =>
      let rs := ts.map (quantFloat E.fmt)
      (BitVec.ofNat 32 (rs.foldr (fun r acc => r.1 + 2 ^ E.fmt.width * acc) 0), FlagSet.all (rs.map (·.2)))

/-- The four elements of a lane in the placement of QNT (R209). -/
def unqnt (E : Elem) (a : Word) : List FVal :=
  match E with
  | .k4x =>
    let p := k4xDecode (a.extractLsb' 0 8)
    let q := k4xDecode (a.extractLsb' 8 8)
    [FVal.int p.1, FVal.int p.2, FVal.int q.1, FVal.int q.2]
  | _ => (List.range 4).map (fun j => E.fmt.decode (a.toNat / 2 ^ (E.fmt.width * j) % 2 ^ E.fmt.width))

/-- DQNT on one lane: four destination codes (R209); it is a conversion to a wider format, so an element that is a NaN
keeps its sign and high fraction bits (R51; log entry 69). -/
def dqnt (E : Elem) (G : Fmt) (code : Nat) (a : Word) : List Nat × FlagSet :=
  if code = 0xFF then (List.replicate 4 G.canon, FlagSet.none)
  else
    let rs := (unqnt E a).map (fun x => E.fmt.convert G (x.scale (ue8 code)))
    (rs.map (·.1), FlagSet.all (rs.map (·.2)))

/-- The four 16-bit elements of a pair (R48). -/
def halves (x : DWord) : List Nat := (List.range 4).map (fun j => (x.extractLsb' (16 * j) 16).toNat)

/-- 16-bit codes as bytes. -/
def halvesBytes (l : List Nat) : List Byte := l.foldr (fun h acc => leBytes2 h ++ acc) []
where
  leBytes2 (h : Nat) : List Byte := [BitVec.ofNat 8 h, BitVec.ofNat 8 (h / 256)]

/-- 16-bit codes from bytes. -/
def bytesHalves : List Byte → List Nat
  | a :: b :: l => (a.toNat + 256 * b.toNat) :: bytesHalves l
  | _ => []

/-- 4-bit codes from bytes, lower first (R48). -/
def bytesNibbles (l : List Byte) : List Nat := l.foldr (fun b acc => b.toNat % 16 :: b.toNat / 16 :: acc) []

/-- 4-bit codes as bytes. -/
def nibblesBytes : List Nat → List Byte
  | a :: b :: l => BitVec.ofNat 8 (a % 16 + 16 * (b % 16)) :: nibblesBytes l
  | _ => []

/-- A value as BF16 with round_rne, an overflow going to infinity; no flag (R75). -/
def toBf16 (x : FVal) : Nat := (Fmt.bf16.round .rne false x).1

/-- An N4 block of 10 bytes as 16 BF16 codes (R57). -/
def n4Decode (b : List Byte) : List Nat :=
  let e := (b.getD 8 0).toNat
  let mu := (b.getD 9 0).toNat
  if e = 0xFF then List.replicate 16 Fmt.bf16.canon
  else (bytesNibbles (b.take 8)).zipIdx.map (fun p =>
    toBf16 ((Fmt.e2m1.decode p.1).scale ((e : Int) - 127 - (mu / 2 ^ (p.2 / 2) % 2 : Nat))))

/-- Whether a value is an E2M1 value. -/
def e2m1Exact (x : FVal) : Bool :=
  let (_, f) := Fmt.e2m1.round .rne true x
  !f.nx && !f.of

/-- An N4 block from 16 BF16 codes, with whether it saturated and whether it met a NaN or infinity (R57, R75). MU is
set wherever halving the scale keeps both elements exact, so for every pair of a block of zeros (R57, R59); that the MU of
a NaN block is 0 is the model's choice (log entry 69). -/
def n4Encode (cs : List Nat) : List Byte × Bool × Bool :=
  let xs := cs.map Fmt.bf16.decode
  let (code, f) := blockScale .e2m1 xs
  if f.nv then (List.replicate 8 0 ++ [0xFF, 0], false, true)
  else if xs.all FVal.isZero then (List.replicate 9 0 ++ [0xFF], false, false)
  else
    let s := ue8 code
    let half (j : Nat) : Bool :=
      e2m1Exact ((xs.getD (2 * j) FVal.zero).scale (1 - s)) && e2m1Exact ((xs.getD (2 * j + 1) FVal.zero).scale (1 - s))
    let mu := (List.range 8).foldl (fun acc j => acc + (if half j then 2 ^ j else 0)) 0
    let rs := xs.zipIdx.map (fun p => quantFloat Fmt.e2m1 (p.1.scale (-(s - (if half (p.2 / 2) then 1 else 0)))))
    (nibblesBytes (rs.map (·.1)) ++ [BitVec.ofNat 8 code, BitVec.ofNat 8 mu], rs.any (fun r => r.2.of), false)

/-- An OCP block as BF16 codes (R74); a NaN element keeps its sign and high fraction bits (R51; log entry 69). An
element too small for BF16 is rounded to nearest even, DESIGN CHOICE (log entry 87). -/
def mxDecode (E : Elem) (code : Nat) (b : List Byte) : List Nat :=
  if code = 0xFF then List.replicate 32 Fmt.bf16.canon
  else
    let cs := if E = .e2m1 then bytesNibbles b else b.map BitVec.toNat
    cs.map (fun c => (E.fmt.convert Fmt.bf16 ((E.fmt.decode c).scale (ue8 code))).1)

/-- An OCP block from BF16 codes: bytes, scale code, saturated, NaN or infinity (R75). -/
def mxEncode (E : Elem) (cs : List Nat) : List Byte × Nat × Bool × Bool :=
  let xs := cs.map Fmt.bf16.decode
  let n := if E = .e2m1 then 16 else 32
  let (code, f) := blockScale E xs
  if f.nv then (List.replicate n 0, 0xFF, false, true)
  else if xs.all FVal.isZero then (List.replicate n 0, 0, false, false)
  else
    let rs := xs.map (fun x => quantFloat E.fmt (x.scale (-(ue8 code))))
    let bs := if E = .e2m1 then nibblesBytes (rs.map (·.1)) else rs.map (fun r => BitVec.ofNat 8 r.1)
    (bs, code, rs.any (fun r => r.2.of), false)

/-- A stored window format (R74 Table 3): view block, stored block and scale bytes, and element format. -/
structure WinFmt where
  view   : Nat
  stored : Nat
  elem   : Option Elem       -- none: N4
  deriving DecidableEq, Repr

/-- The decoded formats (R74 Table 3). -/
def winFmt (fmt : Nat) : Option WinFmt :=
  match fmt with
  | 4 => some ⟨32, 10, none⟩
  | 5 => some ⟨64, 32, some .e4m3⟩
  | 6 => some ⟨64, 32, some .e5m2⟩
  | 7 => some ⟨64, 16, some .e2m1⟩
  | _ => none

/-- Stored bytes and scale byte to view bytes. -/
def WinFmt.decode (F : WinFmt) (code : Nat) (b : List Byte) : List Byte :=
  halvesBytes (match F.elem with
    | none => n4Decode b
    | some E => mxDecode E code b)

/-- View bytes to stored bytes, scale byte, and the SAT and NAN events. -/
def WinFmt.encode (F : WinFmt) (v : List Byte) : List Byte × Nat × Bool × Bool :=
  match F.elem with
  | none =>
    let (b, s, n) := n4Encode (bytesHalves v)
    (b, 0, s, n)
  | some E => mxEncode E (bytesHalves v)

end Sys2Proof
end

