-- ==== Sys2Proof/Machine/Memory.lean ====
section
/-! DEFINITION. Memory: HBM in canonical form, homes, L2 lines and format windows, leases and completion times,
scratchpad, translation (R65 to R93). -/

namespace Sys2Proof.Machine

/-- A byte of a canonical byte map whose unlisted bytes read as `d` says. -/
def cellGet (d : Nat → Byte) (m : List Host.Cell) (a : Nat) : Byte := (mfind m a).getD (d a)

/-- Write one byte, keeping the canonical form. -/
def cellPut (d : Nat → Byte) (m : List Host.Cell) (a : Nat) (v : Byte) : List Host.Cell :=
  if v = d a then merase m a else minsert m a v

/-- Write consecutive bytes. -/
def cellsPut (d : Nat → Byte) : List Host.Cell → Nat → List Byte → List Host.Cell
  | m, _, [] => m
  | m, a, b :: bs => cellsPut d (cellPut d m a b) (a + 1) bs

/-- Read consecutive bytes. -/
def cellsGet (d : Nat → Byte) (m : List Host.Cell) (a n : Nat) : List Byte :=
  (List.range n).map (fun j => cellGet d m (a + j))

/-- The canonical form: addresses rise strictly and no byte equals what an unlisted one reads as. -/
def cellsWf (d : Nat → Byte) (m : List Host.Cell) : Bool := msorted m && m.all (fun c => c.2 != d c.1)

/-- What a byte of HBM that nothing has written reads as: zero after power-on (log entry 8), a free value after
a level-2 reset (R368). -/
def unwritten (epoch : Nat) (a : Nat) : Byte := if epoch = 0 then 0 else Config.freeByte epoch a

/-- The canonical form of the machine's memory: HBM, and host memory, whose unlisted bytes read zero (log entry 8). -/
def Memory.wf (s : State) : Bool := cellsWf (unwritten s.epoch) s.mem && cellsWf (fun _ => 0) s.host

/-- The package of a physical address (R71). -/
def packageOf (a : Nat) : Nat := a / 2 ^ 40 % 256

/-- The host window of a package (R301). -/
def inHostWindow (a : Nat) : Bool := 0xC000000000 ≤ a % 2 ^ 40

/-- Whether an address lies in this package's own host window: its accesses go over the host link (R301). -/
def State.overHost (s : State) (a : Nat) : Bool := inHostWindow a && a / 2 ^ 40 == s.zinc.self

/-- The host bus address that a host-window address names (R301). -/
def State.busAddr (s : State) (a : Nat) : Nat := (s.island.hostwin.toNat + (a % 2 ^ 40 - 0xC000000000)) % 2 ^ 64

/-! ### Messages (R302, R303) -/

/-- The ports on which a message may go out: a die's own for its beats; those of the links to the package it goes to, or where
no link joins the two and where it goes to several, every port that is up. -/
def State.linksFor (s : State) (x : Sent) : List (Nat × Nat) :=
  match x, x.cls with
  | _, none => []
  | .beat die _, _ => s.island.ports.filter (fun p => p.1 / 16 == die)
  | _, _ =>
    match s.island.ports.filter (fun p => x.dst.isSome && mfind s.island.peers p.1 == x.dst) with
    | [] => s.island.ports
    | l => l

/-- Send a message (R302, R303). -/
def State.send (s : State) (x : Sent) : State := { s with sent := ⟨x, s.linksFor x⟩ :: s.sent }

/-- An access of another package's memory goes out as a message to that package (R302). -/
def State.askFar (s : State) (pa : Nat) (x : Nat → Sent) : State :=
  if packageOf pa = s.zinc.self || inHostWindow pa then s else s.send (x (packageOf pa))

/-- Send messages in order. -/
def State.sendAll (s : State) (l : List Sent) : State := l.foldl State.send s

/-! ### Homes (R65, R71) -/

/-- The partition whose memory range holds an address (R71). -/
def State.rangeOf (s : State) (a : Nat) : Option (Nat × Partition) :=
  s.parts.find? (fun p => p.2.base ≤ a % 2 ^ 40 && a % 2 ^ 40 < p.2.top)

/-- Whether an address lies in memory of the package's own stacks that is in no partition's range: it is homed nowhere, and no
access reaches it (R71). -/
def State.homeless (s : State) (a : Nat) : Bool :=
  s.partitioned && packageOf a == s.zinc.self && !inHostWindow a && (s.rangeOf a).isNone

/-- A byte as the memory behind all caches holds it: HBM, or the host's memory; what no access reaches reads as a free value
(log entry 80). -/
def State.hbm (s : State) (a : Nat) : Byte :=
  if s.homeless a then Config.freeByte (2 ^ 40) a
  else if s.overHost a then cellGet (fun _ => 0) s.host (s.busAddr a) else cellGet (unwritten s.epoch) s.mem a

/-- Consecutive bytes as the memory behind all caches holds them. -/
def State.hbmBytes (s : State) (a n : Nat) : List Byte := (List.range n).map (fun j => s.hbm (a + j))

/-- Write HBM. -/
def State.hbmPut (s : State) (a : Nat) (bs : List Byte) : State :=
  { s with mem := cellsPut (unwritten s.epoch) s.mem a bs }

/-- Write host memory over the host link. -/
def State.hostPut (s : State) (a : Nat) (bs : List Byte) : State :=
  { s with host := bs.zipIdx.foldl (fun m b => cellPut (fun _ => 0) m (s.busAddr (a + b.2)) b.1) s.host }

/-- A die's registers; after reset where nothing is listed. -/
def State.die (s : State) (d : Nat) : Die := (mfind s.dies d).getD {}

/-- Change a die. -/
def State.modDie (s : State) (d : Nat) (f : Die → Die) : State :=
  { s with dies := minsert s.dies d (f (s.die d)) }

/-- The home die of an address within its package (R71). Host-window addresses go to the host link on die 0. -/
def State.homeDie (s : State) (a : Nat) : Nat :=
  if inHostWindow a then 0
  else if s.partitioned && packageOf a == s.zinc.self then
    match s.rangeOf a with
    | some (_, p) => p.dies.headD 0
    | none => 0
  else (a / 2 ^ 12 % 4) ^^^ (a / 2 ^ 22 % 4) ^^^ (a / 2 ^ 32 % 4)

/-- The stack of its home die on which the 4 KiB page of an address lies (R71). -/
def stackOf (a : Nat) : Nat := a % 2 ^ 40 / 2 ^ 12 % 3

/-- The L2 slice of an address (R72). -/
def sliceOf (a : Nat) : Nat :=
  (a / 2 ^ 8 % 64) ^^^ (a / 2 ^ 14 % 64) ^^^ (a / 2 ^ 20 % 64) ^^^ (a / 2 ^ 26 % 64) ^^^ (a / 2 ^ 32 % 64) ^^^
    (a / 2 ^ 38 % 64) ^^^ (a / 2 ^ 44 % 16)

/-- The set within the slice (R72). -/
def setOf (a : Nat) : Nat := a / 2 ^ 14 % 512 * 2 + a / 2 ^ 7 % 2

/-- Whether the L2 holds lines of an address: those homed on the package's own dies, and no other (R65, R71). -/
def State.inL2 (s : State) (a : Nat) : Bool := packageOf a == s.zinc.self && !inHostWindow a && !s.homeless a

/-- The RDC slice of a line (R70). -/
def rdcSliceOf (a : Nat) : Nat := (sliceOf a % 16) ^^^ (sliceOf a / 16 % 4)

/-- The lease clock of a die (R8): within ε of every other. -/
def State.dieTime (s : State) (d : Nat) : DWord :=
  s.time + BitVec.ofNat 64 (min (s.die d).skew.toNat Config.epsilon)

/-- Whether the lease clock of a die reads t or later. -/
def State.past (s : State) (d : Nat) (t : DWord) : Bool := t.toNat ≤ (s.dieTime d).toNat

/-- Whether every die's lease clock reads t or later. -/
def State.pastAll (s : State) (t : DWord) : Bool := (List.range 4).all (fun d => s.past d t)

/-! ### Format windows -/

/-- EN of FMT_WIN_CTL_n (R73). -/
def winEn (c : Word) : Bool := c.getLsbD 31
/-- FMT of FMT_WIN_CTL_n. -/
def winFmtOf (c : Word) : Nat := (c.extractLsb' 0 4).toNat
/-- The view's length in bytes. -/
def winLen (c : Word) : Nat := ((c.extractLsb' 4 20).toNat + 1) * 4096

/-- The lowest-numbered enabled window of the home die whose view holds an address (R73, R77): die × 32 + n. -/
def State.windowAt (s : State) (a : Nat) : Option Nat :=
  let d := s.homeDie a
  let D := s.die d
  if !s.inL2 a then none
  else
    ((List.range 32).find? (fun n =>
      let c := mget 0 D.winCtl n
      let v := (mget 0 D.winView n).toNat
      winEn c && v ≤ a && a < v + winLen c)).map (fun n => d * 32 + n)

/-- FMT of a window. -/
def State.winFmtAt (s : State) (w : Nat) : Nat := winFmtOf (mget 0 (s.die (w / 32)).winCtl (w % 32))

/-- The window of a decoded format whose view holds an address (R323 kind 6). -/
def State.decodedView (s : State) (a : Nat) : Option Nat :=
  match s.windowAt a with
  | none => none
  | some w => if 4 ≤ s.winFmtAt w then some w else none

/-- Whether an address lies in an enabled K4X window (R76, R78). -/
def State.inK4x (s : State) (a : Nat) : Bool :=
  match s.windowAt a with
  | none => false
  | some w => s.winFmtAt w == 1

/-- A byte as the home holds it, leaving decoded views aside. -/
def State.plainByte (s : State) (a : Nat) : Byte :=
  match mfind s.l2 (a / 128) with
  | some l => l.data.getD (a % 128) 0
  | none => s.hbm a

/-- Consecutive bytes of plain memory. -/
def State.plainBytes (s : State) (a n : Nat) : List Byte := (List.range n).map (fun j => s.plainByte (a + j))

/-- Block i of a window's view, decoded from its stored bytes (R74, R75). -/
def State.viewBlock (s : State) (w i : Nat) : List Byte :=
  let D := s.die (w / 32)
  match winFmt (s.winFmtAt w) with
  | none => []
  | some F =>
    F.decode (s.plainByte ((mget 0 D.winScale (w % 32)).toNat + i)).toNat
      (s.plainBytes ((mget 0 D.winStore (w % 32)).toNat + F.stored * i) F.stored)

/-- The 128 bytes of a view line, decoded (R75). -/
def State.viewLine (s : State) (w line : Nat) : List Byte :=
  match winFmt (s.winFmtAt w) with
  | none => []
  | some F =>
    let off := line * 128 - (mget 0 (s.die (w / 32)).winView (w % 32)).toNat
    (List.range (128 / F.view)).foldr (fun j acc => s.viewBlock w (off / F.view + j) ++ acc) []

/-- A line as the memory behind the L2 gives it: a view line is decoded anew. -/
def State.freshLine (s : State) (line : Nat) : List Byte :=
  match s.decodedView (line * 128) with
  | some w => s.viewLine w line
  | none => s.hbmBytes (line * 128) 128

/-- A line as its home would return it. -/
def State.lineBytes (s : State) (line : Nat) : List Byte :=
  match mfind s.l2 line with
  | some l => l.data
  | none => s.freshLine line

/-- One byte as its home returns it: the coherent value of an address. -/
def State.byteAt (s : State) (a : Nat) : Byte :=
  match mfind s.l2 (a / 128) with
  | some l => l.data.getD (a % 128) 0
  | none =>
    match s.decodedView a with
    | some w => (s.viewLine w (a / 128)).getD (a % 128) 0
    | none => s.hbm a

/-- Consecutive bytes at their homes. -/
def State.bytesAt (s : State) (a n : Nat) : List Byte := (List.range n).map (fun j => s.byteAt (a + j))

/-- A store over a whole poisoned sector clears the poison (R340). -/
def State.clearPoison (s : State) (a n : Nat) : State :=
  if s.badSectors = [] then s
  else { s with badSectors := s.badSectors.filter (fun k => !(a ≤ 32 * k && 32 * k + 32 ≤ a + n)) }

/-- Sectors wholly covered by byte ranges that one operation writes lose their poison (R340). -/
def State.coverPoison (s : State) (l : List (Nat × Nat)) : State :=
  if s.badSectors = [] then s
  else
    let bytes := (l.foldr (fun r acc => (List.range r.2).map (r.1 + ·) ++ acc) []).dedup
    let full := (bytes.map (· / 32)).dedup.filter (fun k => (List.range 32).all (fun j => bytes.contains (32 * k + j)))
    full.foldl (fun s k => s.clearPoison (32 * k) 32) s

/-- Whether a byte range touches a sector marked as poisoned. -/
def State.markedAt (s : State) (a n : Nat) : Bool := s.badSectors.any (fun k => a < 32 * k + 32 && 32 * k < a + n)

/-- Poison a sector as its home returns it. -/
def State.addPoison (s : State) (k : Nat) : State :=
  if s.badSectors.contains k then s else { s with badSectors := k :: s.badSectors }

/-- The stored ranges behind one block of a decoded view: its bytes and its scale. -/
def State.storedOf (s : State) (w i : Nat) : List (Nat × Nat) :=
  let D := s.die (w / 32)
  match winFmt (s.winFmtAt w) with
  | none => []
  | some F =>
    ((mget 0 D.winStore (w % 32)).toNat + F.stored * i, F.stored) ::
      (if F.elem = none then [] else [((mget 0 D.winScale (w % 32)).toNat + i, 1)])

/-- The sectors of a view line whose stored blocks are poisoned. -/
def State.viewBad (s : State) (w line : Nat) : List Nat :=
  if s.badSectors = [] then []
  else
    match winFmt (s.winFmtAt w) with
    | none => []
    | some F =>
      let off := line * 128 - (mget 0 (s.die (w / 32)).winView (w % 32)).toNat
      (List.range (128 / F.view)).foldr (fun j acc =>
        if (s.storedOf w (off / F.view + j)).any (fun r => s.markedAt r.1 r.2)
        then ((List.range (F.view / 32)).map (fun q => line * 4 + (F.view * j) / 32 + q)) ++ acc else acc) []

/-- Whether a byte range reads as poisoned at its home; a view line that is not in the L2 takes the poison of its
stored blocks. -/
def State.poisonedAt (s : State) (a n : Nat) : Bool :=
  if s.badSectors = [] then false
  else
    s.markedAt a n ||
      (match mfind s.l2 (a / 128), s.decodedView a with
       | none, some w => (s.viewBad w (a / 128)).any (fun k => a < 32 * k + 32 && 32 * k < a + n)
       | _, _ => false)

/-- A line leaves the L2 unwritten: its sectors are poisoned as HBM holds them. -/
def State.syncPoison (s : State) (line : Nat) : State :=
  if s.badSectors = [] && s.badHbm = [] then s
  else { s with badSectors := s.badHbm.filter (fun k => k / 4 == line) ++ s.badSectors.filter (fun k => k / 4 != line) }

/-- A line is written to HBM with its poison. -/
def State.settlePoison (s : State) (line : Nat) : State :=
  if s.badSectors = [] && s.badHbm = [] then s
  else { s with badHbm := s.badSectors.filter (fun k => k / 4 == line) ++ s.badHbm.filter (fun k => k / 4 != line) }

/-- Overwrite bytes of a list from an offset; a list that ends before it is filled with zeros. -/
def spliceBytes (l : List Byte) (off : Nat) (bs : List Byte) : List Byte :=
  l.take off ++ List.replicate (off - l.length) 0 ++ bs ++ l.drop (off + bs.length)

/-- The sectors of a line that a byte range touches. -/
def dirtyMask (off n : Nat) : BitVec 4 :=
  (List.range 4).foldl (fun m j => if off < 32 * j + 32 && 32 * j < off + n then m ||| ((1 : BitVec 4) <<< j) else m) 0

/-! ### What an engine operation reads (R128) -/

/-- A warp that stands for a number no warp has. -/
def Warp.nobody : Warp :=
  { queue := 0, pkt := 0, launch := 0, block := 0, core := 0, slot := 0, wid := 0, bid := 0, width := 0,
    regCount := 0, alloc := 0, slices := [] }

/-- A warp by number. -/
def State.warp (s : State) (k : Nat) : Warp := (mfind s.warps k).getD Warp.nobody

/-- Whether a warp's stores and engine operations wait for a commit: D1 and above, and redundant blocks
(R111, R136). -/
def State.buffered (s : State) (W : Warp) : Bool :=
  decide (1 ≤ W.detlvl) || (match mfind s.launches W.launch with
    | some L => L.redund
    | none => false)

/-- The operations that have reached an engine at a commit and have not read yet. -/
def State.unread (s : State) : List Nat :=
  ((s.engines.filter (fun e => e.2.stage == 1 && !e.2.ran && !e.2.sent && (e.2.cls == 2 || e.2.cls == 4 || e.2.cls == 5) &&
      s.buffered (s.warp e.2.warp))).map (·.1)) ++
    s.cores.foldr (fun C acc =>
      ((C.2.mx.queue.filter (fun e => s.buffered (s.warp e.warp))).map (·.id)) ++
      ((C.2.tap.queue.filter (fun e => s.buffered (s.warp e.warp))).map (·.id)) ++ acc) []

/-- Operations that reached their engines at a commit and have not read keep the bytes that a write is about to change: they read
memory as that commit left it (R128). -/
def State.keepMem (s : State) (a n : Nat) : State :=
  match s.unread with
  | [] => s
  | os => { s with kept := os.foldl (fun k o =>
      let x := mget ([], []) k o
      minsert k o ((List.range n).foldl (fun m j => if (mfind m (a + j)).isSome then m else minsert m (a + j) (s.byteAt (a + j))) x.1, x.2)) s.kept }

/-- Operations that see a write, since its operation lies ahead of them in their engine's queue, keep none of its bytes (R128,
R296). -/
def State.keepNone (s : State) (sees : Nat → Bool) (a n : Nat) : State :=
  { s with kept := (s.unread.filter sees).foldl (fun k o =>
      let x := mget ([], []) k o
      minsert k o ((List.range n).foldl (fun m j => merase m (a + j)) x.1, x.2)) s.kept }

/-- Write bytes within one line past the caches: to the L2's copy of the line if it holds one, else to the memory behind. -/
def State.underPutLine (s : State) (a : Nat) (bs : List Byte) : State :=
  let s := s.keepMem a bs.length
  match mfind s.l2 (a / 128) with
  | some l =>
    let l' : Line := { l with data := spliceBytes l.data (a % 128) bs, dirty := l.dirty ||| dirtyMask (a % 128) bs.length }
    { s with l2 := minsert s.l2 (a / 128) l' }
  | none => if s.homeless a then s else if s.overHost a then s.hostPut a bs else s.hbmPut a bs

/-- Write at most 128 bytes past the caches: no line is filled. -/
def State.underPut (s : State) (a : Nat) (bs : List Byte) : State :=
  let n := 128 - a % 128
  let s1 := if bs = [] then s else s.underPutLine a (bs.take n)
  if bs.length ≤ n then s1 else s1.underPutLine (a + n) (bs.drop n)

/-- The decoded format in which a line is written back, and the window it was filled through (R75, R77). -/
def State.lineFmt (s : State) (l : Line) : Option (Nat × WinFmt) :=
  l.window.bind (fun w => (winFmt (s.winFmtAt w)).map (fun F => (w, F)))

/-- Write back one line, re-encoding the blocks of a view line that were written (R75), and set SAT and NAN. The stored
bytes go to the L2 line that holds them or to HBM, and fill no line (log entry 70). -/
def State.writeBack (s : State) (line : Nat) : State :=
  match mfind s.l2 line with
  | none => s
  | some l =>
    match s.lineFmt l with
    | none => if l.dirty = 0 then s else (s.hbmPut (line * 128) l.data).settlePoison line
    | some (w, F) =>
      let D := s.die (w / 32)
      let off := line * 128 - (mget 0 D.winView (w % 32)).toNat
      (List.range (128 / F.view)).foldl (fun s j =>
        if (dirtyMask (F.view * j) F.view &&& l.dirty) = 0 then s
        else
          let i := off / F.view + j
          let (b, c, sat, nan) := F.encode ((l.data.drop (F.view * j)).take F.view)
          let s := s.underPut ((mget 0 D.winStore (w % 32)).toNat + F.stored * i) b
          let s := if F.elem = none then s else s.underPut ((mget 0 D.winScale (w % 32)).toNat + i) [BitVec.ofNat 8 c]
          let s := if s.markedAt (line * 128 + F.view * j) F.view
            then (s.storedOf w i).foldl (fun s r => s.addPoison (r.1 / 32)) s else s
          let bits : Word := (if sat then 0x20000000 else 0) ||| (if nan then 0x10000000 else 0)
          if sat || nan then
            s.modDie (w / 32) (fun D => { D with winCtl := mupdate D.winCtl (w % 32) (fun c => c ||| bits) })
          else s) s

/-- Write a line back and keep it clean. -/
def State.cleanLine (s : State) (line : Nat) : State :=
  let s := s.writeBack line
  { s with l2 := mupdate s.l2 line (fun l => { l with dirty := 0 }) }

/-- Write a line back and drop it: an eviction (R80). The race detector's entries of the line are lost (R352). -/
def State.evictLine (s : State) (line : Nat) : State :=
  let s := s.writeBack line
  let s := State.syncPoison { s with l2 := merase s.l2 line } line
  s.modDie (s.homeDie (line * 128)) (fun D =>
    { D with raceShadow := D.raceShadow.filter (fun e => e.1 / 4 != line) })

/-- DISCARD at the home slice: the line is dropped as it stands (R240, R348). Poison goes with it only when HBM's
copy is clean (R340). -/
def State.discardLine (s : State) (line : Nat) : State :=
  match mfind s.l2 line with
  | none => s
  | some _ => State.syncPoison { (s.keepMem (line * 128) 128) with l2 := merase s.l2 line } line

/-! ### Fills (R72, R79, R80) -/

/-- The class of what no warp causes: it may allocate in every way (log entry 70). -/
def noClass : Nat := 16

/-- The ways in which a class may allocate on a die (R79). -/
def State.ways (s : State) (die svc : Nat) : Word := (mget 0xFFFF1010 (s.die die).svcCfg svc) >>> 16

/-- The entry used longest ago. -/
def oldest : List (Nat × Nat × Nat) → Option (Nat × Nat × Nat)
  | [] => none
  | x :: l =>
    match oldest l with
    | none => some x
    | some y => if y.2.2 < x.2.2 then some y else some x

/-- The way that a fill of a set of 16 takes, and the line it displaces: a free way of the mask, else that of the mask's
least recently used line; none where the mask is empty (R80). The lines of the set come with their ways and last uses. -/
def pickWay (mask : Word) (lines : List (Nat × Nat × Nat)) : Option (Nat × Option Nat) :=
  match (List.range 16).find? (fun w => mask.getLsbD w && !lines.any (fun e => e.2.1 == w)) with
  | some w => some (w, none)
  | none => (oldest (lines.filter (fun e => mask.getLsbD e.2.1))).map (fun e => (e.2.1, some e.1))

/-- The lines in the L2 set of a line, with their ways and last uses (R72). -/
def State.l2Set (s : State) (line : Nat) : List (Nat × Nat × Nat) :=
  let a := line * 128
  (s.l2.filter (fun e => setOf (e.1 * 128) == setOf a && sliceOf (e.1 * 128) == sliceOf a && s.homeDie (e.1 * 128) == s.homeDie a)).map
    (fun e => (e.1, e.2.way, e.2.used))

/-- A line enters the L2 in a way (R75: a view line is decoded, and takes the poison of its stored blocks). -/
def State.enterLine (s : State) (line way : Nat) : State :=
  let s : State := match s.decodedView (line * 128) with
    | some w => (s.viewBad w line).foldl State.addPoison s
    | none => s
  { s with uses := s.uses + 1, l2 := minsert s.l2 line ⟨s.lineBytes line, 0, s.windowAt (line * 128), way, s.uses⟩ }

/-- A fill for a class: the line is brought into the L2, if it is not there, in a way of the class's ways, and the line it
displaces is evicted; with no way it is not brought in (R79, R80). A line that is there has been used. -/
def State.fillFor (s : State) (svc line : Nat) : State :=
  match mfind s.l2 line with
  | some l => { s with uses := s.uses + 1, l2 := minsert s.l2 line { l with used := s.uses } }
  | none =>
    if !s.inL2 (line * 128) then s
    else
      match pickWay (s.ways (s.homeDie (line * 128)) svc) (s.l2Set line) with
      | none => s
      | some (w, none) => s.enterLine line w
      | some (w, some v) => (s.evictLine v).enterLine line w

/-- Write bytes within one line at its home for a class: the L2 holds them until they are written back. A line that may
not be brought in is changed on its way through (R80); what is not homed here is written where it lies. -/
def State.homePutLineFor (s : State) (svc a : Nat) (bs : List Byte) : State :=
  let s := s.fillFor svc (a / 128)
  if s.inL2 a && (mfind s.l2 (a / 128)).isNone then ((s.enterLine (a / 128) 16).underPutLine a bs).evictLine (a / 128)
  else s.underPutLine a bs

/-- Write bytes at their home for a class, line by line. -/
def State.homePutFor (s : State) (svc a : Nat) (bs : List Byte) : State :=
  let n := 128 - a % 128
  let s1 := if bs = [] then s else s.homePutLineFor svc a (bs.take n)
  if bs.length ≤ n then s1 else s1.homePutLineFor svc (a + n) (bs.drop n)

/-- Write bytes at their home for what no warp causes. -/
def State.homePut (s : State) (a : Nat) (bs : List Byte) : State := s.homePutFor noClass a bs

/-- Write a long run of bytes at its home, at most 128 bytes at a time. -/
def State.homePutRun (s : State) (a : Nat) (bs : List Byte) : State :=
  (List.range (bs.length / 64 + 1)).foldl (fun s j => s.homePut (a + 64 * j) ((bs.drop (64 * j)).take 64)) s

/-! ### Leases -/

/-- Reset value of LEASE_CLS_n (R89 Table 2). -/
def leaseReset (n : Nat) : DWord :=
  match n with
  | 1 => 2000#64 <<< 40 ||| 1000#64 <<< 20 ||| 100
  | 2 => 32000#64 <<< 40 ||| 16000#64 <<< 20 ||| 2000
  | 3 => 0
  | _ => 8000#64 <<< 40 ||| 4000#64 <<< 20 ||| 500

/-- LEASE_CLS_n of a die. -/
def Die.leaseCls (D : Die) (n : Nat) : DWord := (mfind D.lease n).getD (leaseReset n)

/-- The key of a cached sector: the cache is a core's L1, or 768 + die for an RDC. -/
def copyKey (cache sector : Nat) : Nat := cache * 2 ^ 43 + sector

/-- The lease that the home of an address grants to a cache on a die (R89), in nanoseconds. -/
def State.leaseFor (s : State) (a die lc : Nat) : Nat :=
  if packageOf a ≠ s.zinc.self then (Config.remoteLease (packageOf a) lc).toNat
  else
    let c := (s.die (s.homeDie a)).leaseCls lc
    if s.homeDie a = die then (c.extractLsb' 0 20).toNat else (c.extractLsb' 20 20).toNat

/-- The stamps of a line; none granted yet. A home reports them as they are, never later (log entry 71). -/
def State.stampsOf (s : State) (line : Nat) : Stamps := (mfind s.stamps line).getD ⟨[0, 0, 0, 0], 0⟩

/-- The later of two times. -/
def later (a b : DWord) : DWord := if a.toNat < b.toNat then b else a

/-- The lease that the home of an address here grants to a cache in another package (R89), in nanoseconds. -/
def State.leaseFar (s : State) (a lc : Nat) : Nat := (((s.die (s.homeDie a)).leaseCls lc).extractLsb' 40 20).toNat

/-- Record the expiry of a lease granted to a cache in another package (R91). -/
def State.stampFar (s : State) (a : Nat) (e : DWord) : State :=
  let st := s.stampsOf (a / 128)
  { s with stamps := minsert s.stamps (a / 128) { st with other := later st.other e } }

/-- Record the expiry of a lease granted to a cache on a die (R91). -/
def State.stamp (s : State) (a die : Nat) (e : DWord) : State :=
  let st := s.stampsOf (a / 128)
  let st := if packageOf a ≠ s.zinc.self then { st with other := later st.other e }
    else { st with dies := List.set st.dies die (later (st.dies.getD die 0) e) }
  { s with stamps := minsert s.stamps (a / 128) st }

/-- The write completion times `gwctd` and `gwct` of a write that arrives now (R92). A write in the host window
completes at its arrival time + ε (R301). -/
def State.completionTimes (s : State) (a die : Nat) : DWord × DWord :=
  let ta := s.dieTime (s.homeDie a)
  let eps := BitVec.ofNat 64 Config.epsilon
  if inHostWindow a then (ta + eps, ta + eps)
  else
    let st := s.stampsOf (a / 128)
    let mine := if packageOf a ≠ s.zinc.self then st.other else st.dies.getD die 0
    (later ta mine + eps, (st.dies.foldl later (later ta st.other)) + eps)

/-- The live copy of a sector in a cache (R89). -/
def State.copyAt (s : State) (cache die sector : Nat) : Option Copy :=
  match mfind s.copies (copyKey cache sector) with
  | some c => if (s.dieTime die).toNat < c.expiry.toNat then some c else none
  | none => none

/-- Drop a sector from a cache. -/
def State.dropCopy (s : State) (cache sector : Nat) : State :=
  { s with copies := merase s.copies (copyKey cache sector) }

/-- Update a sector's copy in place, keeping its lease (R69, R70); a store over the whole sector clears its poison (R340). -/
def State.updateCopy (s : State) (cache a : Nat) (bs : List Byte) : State :=
  { s with copies := mupdate s.copies (copyKey cache (a / 32)) (fun c =>
      { c with data := spliceBytes c.data (a % 32) bs, bad := c.bad && !(a % 32 == 0 && decide (32 ≤ bs.length)) }) }

/-- The copies that a core and its die's RDC hold of a sector lose their poison, where they hold what its clean home does (R340). -/
def State.cleanCopies (s : State) (core sector : Nat) : State :=
  if s.poisonedAt (32 * sector) 32 then s
  else [core, 768 + core / 192].foldl (fun (s : State) cache => { s with copies := mupdate s.copies (copyKey cache sector) (fun c =>
    { c with bad := c.bad && c.data != s.bytesAt (32 * sector) 32 }) }) s

/-- Drop every copy that a cache holds. -/
def State.emptyCache (s : State) (cache : Nat) : State :=
  { s with copies := s.copies.filter (fun e => e.1 / 2 ^ 43 != cache) }

/-- The copies that a cache holds. -/
def State.held (s : State) (cache : Nat) : List (Nat × Copy) :=
  (s.copies.filter (fun e => e.1 / 2 ^ 43 == cache)).map (fun e => (e.1 % 2 ^ 43, e.2))

/-- Drop every sector of a line from a cache. -/
def State.dropLine (s : State) (cache line : Nat) : State :=
  (List.range 4).foldl (fun s j => s.dropCopy cache (line * 4 + j)) s

/-- The next free value will be another one. -/
def State.freshNow (s : State) : State := { s with fresh := s.fresh + 1 }

/-- A sector enters a core's L1: 128 sets of 8 lines (R69). Which set a line takes is the model's choice, and which line makes
room is free (log entry 70), but for a line that a `.ev` load brought in, which goes first (R235): `way` 1 marks it. -/
def State.enterL1 (s : State) (core sector : Nat) (first : Bool) (c : Copy) : State :=
  let held := (s.held core).filter (fun e => e.1 / 4 % 128 == sector / 4 % 128)
  let lines := (held.map (·.1 / 4)).dedup
  let s : State := if lines.contains (sector / 4) || lines.length < 8 then s
    else
      match held.find? (fun e => e.2.way == 1) with
      | some e => s.dropLine core (e.1 / 4)
      | none => State.freshNow (s.dropLine core (lines.getD (Config.freeChoice s.fresh % 8) 0))
  { s with copies := minsert s.copies (copyKey core sector) { c with way := if first then 1 else 0, used := 0 } }

/-- A load that is no `.ev` uses an L1's copy of a sector: its line is no longer the first to go (R235). -/
def State.useL1 (s : State) (core sector : Nat) (first : Bool) : State :=
  if first then s
  else { s with copies := s.copies.map (fun e =>
    if e.1 / 2 ^ 43 == core && e.1 % 2 ^ 43 / 4 == sector / 4 && e.2.way == 1 then (e.1, { e.2 with way := 0 }) else e) }

/-- The lines in the RDC set of a line, with their ways and last uses: 16 slices (R70) of 1,024 sets of 16 ways. The set is
chosen as in the L2 (log entry 70). -/
def State.rdcSet (s : State) (die line : Nat) : List (Nat × Nat × Nat) :=
  let l := (s.held (768 + die)).filter (fun e =>
    setOf (e.1 / 4 * 128) == setOf (line * 128) && rdcSliceOf (e.1 / 4 * 128) == rdcSliceOf (line * 128))
  ((l.map (·.1 / 4)).dedup).map (fun n =>
    let q := l.filter (fun e => e.1 / 4 == n)
    (n, (q.map (·.2.way)).headD 0, q.foldl (fun m e => max m e.2.used) 0))

/-- A sector enters the RDC of a die for a class: beside the line's other sectors, or in a way of the class's ways (R70, R79,
R80). A `.ev` load enters it as the least recently used (R235). -/
def State.enterRdc (s : State) (die svc sector : Nat) (first : Bool) (c : Copy) : State :=
  let put (s : State) (w : Nat) : State :=
    let c : Copy := { c with way := w, used := if first then 0 else s.uses }
    { s with uses := s.uses + 1, copies := minsert s.copies (copyKey (768 + die) sector) c }
  let lines := s.rdcSet die (sector / 4)
  match lines.find? (fun e => e.1 == sector / 4) with
  | some e => put s e.2.1
  | none =>
    match pickWay (s.ways die svc) lines with
    | none => s
    | some (w, none) => put s w
    | some (w, some v) => put (s.dropLine (768 + die) v) w

/-- The RDC's live copy of a sector has been used (R80). -/
def State.useRdc (s : State) (die sector : Nat) : State :=
  { s with uses := s.uses + 1, copies := mupdate s.copies (copyKey (768 + die) sector) (fun c => { c with used := s.uses }) }

/-- Whether an access goes past the L1 and the RDC: a UC page, the host window, a read that names the home slice (R70,
R100, R301). -/
def Access.bypass (a : Access) : Bool := a.uc || inHostWindow a.pa || a.keep == 2

/-- One load access within a sector is served for a warp of a class: from the L1, from the RDC, or by the home with a lease
(R69, R70, R89, R235). The answer is the bytes and whether they are poisoned. A load that goes past the caches drops
their copies of the sector (log entry 71), and one of a UC page that misses in the L2 fills no line of it, DESIGN CHOICE (log
entry 79). -/
def State.serveRead (s : State) (core svc : Nat) (a : Access) : State × List Byte × Bool :=
  let die := core / 192
  let sec := a.pa / 32
  let off := a.pa % 32
  let part (l : List Byte) : List Byte := (l.drop off).take a.n
  let home := s.bytesAt a.pa a.n
  let bad := s.poisonedAt a.pa a.n
  let ask (s : State) : State := s.askFar a.pa (fun p => .req p a.pa a.n none)
  if a.bypass then (ask ((s.dropCopy core sec).dropCopy (768 + die) sec), home, bad)
  else
    let first := a.keep == 4
    match s.copyAt core die sec with
    | some c => (s.useL1 core sec first, part c.data, c.bad)
    | none =>
      let remote := packageOf a.pa != s.zinc.self || s.homeDie a.pa != die
      match (if remote then s.copyAt (768 + die) die sec else none) with
      | some c =>
        let s := if first then s else s.useRdc die sec
        (if a.keep % 2 = 1 then s else s.enterL1 core sec first c, part c.data, c.bad)
      | none =>
        let s := ask (s.fillFor svc (a.pa / 128))
        let dur := s.leaseFor a.pa die a.lc
        if a.keep = 1 || dur = 0 then (s, home, bad)
        else
          let s := s.askFar a.pa (fun p => .atom p a.pa)
          let e := s.dieTime (s.homeDie a.pa) + BitVec.ofNat 64 dur
          let c : Copy := { data := s.bytesAt (sec * 32) 32, expiry := e, bad := s.poisonedAt (sec * 32) 32 }
          let s := s.stamp a.pa die e
          let s := if remote then s.enterRdc die svc sec first c else s
          (if a.keep = 3 then s else s.enterL1 core sec first c, home, bad)

/-- What a store does to the caches of its own cluster and die: the storing core's L1 and the die's RDC are
updated, the other L1s of the cluster drop the sector (R69, R70, R93). -/
def State.storeSnoop (s : State) (core a : Nat) (bs : List Byte) : State :=
  let cl := core / 16
  let s := (List.range 16).foldl (fun s j =>
    if cl * 16 + j = core then s else s.dropCopy (cl * 16 + j) (a / 32)) s
  (s.updateCopy core a bs).updateCopy (768 + core / 192) a bs

/-! ### Scratchpad -/

/-- A scratchpad byte; unlisted bytes read zero (R66). -/
def spadByte (m : List Host.Cell) (a : Nat) : Byte := cellGet (fun _ => 0) m a

/-- Consecutive scratchpad bytes. -/
def spadBytes (m : List Host.Cell) (a n : Nat) : List Byte := cellsGet (fun _ => 0) m a n

/-- Write scratchpad bytes. -/
def spadPut (m : List Host.Cell) (a : Nat) (bs : List Byte) : List Host.Cell := cellsPut (fun _ => 0) m a bs

/-- A block; none of that number holds nothing. -/
def State.block? (s : State) (b : Nat) : Option Block := mfind s.blocks b

/-- A block's scratchpad size. -/
def State.spadSize (s : State) (b : Nat) : Nat := ((mfind s.blocks b).map (·.size)).getD 0

/-- A block's scratchpad. -/
def State.spad (s : State) (b : Nat) : List Host.Cell := ((mfind s.blocks b).map (·.spad)).getD []

/-- Change a block. -/
def State.modBlock (s : State) (b : Nat) (f : Block → Block) : State := { s with blocks := mupdate s.blocks b f }

/-- Whether a block is the second copy of a redundant one: what is performed once is performed for the other (R136). -/
def State.shadow (s : State) (b : Nat) : Bool := (s.block? b).any (fun B => B.twinBlock.isSome && !B.primary)

/-- The redundant copy of a warp: the warp of the same place in the other block (R136). -/
def State.pairOf (s : State) (k : Nat) : Option Nat :=
  match s.block? (s.warp k).block with
  | none => none
  | some B => B.twinBlock.bind (fun t => (s.block? t).bind (fun T => T.warps[B.warps.findIdx (· == k)]?))

/-- The operations that engines have taken for a block and that have not read its scratchpad yet. -/
def State.spadReaders (s : State) (b : Nat) : List Nat :=
  ((s.engines.filter (fun e => e.2.block == b && e.2.stage == 1 && !e.2.ran && (e.2.cls == 2 || e.2.cls == 4))).map (·.1)) ++
    s.cores.foldr (fun C acc => ((C.2.mx.queue.filter (fun e => e.block == b)).map (·.id)) ++
      ((C.2.tap.queue.filter (fun e => e.block == b)).map (·.id)) ++ acc) []

/-- Operations keep bytes that a write is about to change: what they read is the scratchpad as it stood when they were issued,
or at D1 and above as the commit at which they reached their engine left it (R128, R163); those that see the write keep none of
its bytes. What they do not see of what stood there at their issue is kept from then on (`State.hideUnseen`). A write of the issuing warp after the issue counts among those kept away, DESIGN CHOICE (R255; log entry 74). -/
def State.keepSpad (s : State) (b a : Nat) (bs : List Byte) (sees : Nat → Bool) : State :=
  match s.spadReaders b with
  | [] => s
  | ids =>
    let m := s.spad b
    { s with kept := ids.foldl (fun k o =>
      let x := mget ([], []) k o
      minsert k o (x.1, (List.range bs.length).foldl (fun l j =>
        if sees o then merase l (a + j)
        else if (mfind l (a + j)).isSome then l else minsert l (a + j) (spadByte m (a + j))) x.2)) s.kept }

/-- The warp at the root of a family of twins. -/
def State.rootOf (s : State) : Nat → Nat → Nat
  | 0, k => k
  | n + 1, k => match (s.warp k).twinOf with
    | some p => s.rootOf n p
    | none => k

/-- A warp releases what it has written. -/
def SpadOrder.release (O : SpadOrder) (k : Nat) : SpadOrder :=
  { O with tick := O.tick + 1, released := minsert O.released k (O.tick + 1) }

/-- What has been released is ordered before what a warp does next. -/
def SpadOrder.acquire (O : SpadOrder) (k : Nat) : SpadOrder := { O with seen := minsert O.seen k O.released }

/-- Whether a write is a warp's own or ordered before it. -/
def SpadOrder.sees (O : SpadOrder) (k : Nat) (x : Nat × Nat × Byte) : Bool :=
  x.1 == k || decide (x.2.1 < mget 0 (mget [] O.seen k) x.1)

/-- A warp k of the warps ks of a block writes a byte over an old one: what all of them see needs no keeping, and a second write
between releases changes nothing. -/
def SpadOrder.write (O : SpadOrder) (ks : List Nat) (k a : Nat) (old : Byte) : SpadOrder :=
  let l := mget [] O.before a
  let l := if l.head?.any (fun x => ks.all (fun j => O.sees j x)) then [] else l
  let again := l.head?.any (fun x => x.1 == k && decide (mget 0 O.released k ≤ x.2.1))
  { O with before := minsert O.before a (if again then l else (k, O.tick, old) :: l) }

/-- The byte that a warp sees in place of the latest one, of which it does not see the latest writes. -/
def SpadOrder.hidden (O : SpadOrder) (k : Nat) : List (Nat × Nat × Byte) → Option Byte
  | [] => none
  | x :: l => if O.sees k x then none else some ((O.hidden k l).getD x.2.2)

/-- A block's order after a write by a warp, which matters where the warp is not alone in its block and its writes do not wait for a
commit: at D1 and above R128 governs what operations see. -/
def State.orderAfter (s : State) (B : Block) (k a n : Nat) : SpadOrder :=
  if B.warps.length ≤ 1 || s.buffered (s.warp k) then B.order
  else (List.range n).foldl (fun O j => O.write B.warps (s.rootOf 4 k) (a + j) (spadByte B.spad (a + j))) B.order

/-- A barrier or phase-bit barrier releases a warp's writes (R163, R255). -/
def State.releaseSpad (s : State) (k : Nat) : State :=
  s.modBlock (s.warp k).block (fun B => { B with order := B.order.release (s.rootOf 4 k) })

/-- A barrier or phase-bit barrier lets some warps of a block go on (R163, R255). -/
def State.acquireSpad (s : State) (b : Nat) (ks : List Nat) : State :=
  s.modBlock b (fun B => { B with order := ks.foldl (fun O k => O.acquire (s.rootOf 4 k)) B.order })

/-- An operation that a warp issues at D0 sees another warp's writes of the scratchpad only where a barrier or phase-bit barrier
has ordered them before it: the other bytes are kept for it as they were (R163, R255). -/
def State.hideUnseen (s : State) (k op : Nat) : State :=
  match mfind s.blocks (s.warp k).block with
  | none => s
  | some B =>
    match B.order.before.filterMap (fun x => (B.order.hidden (s.rootOf 4 k) x.2).map (fun v => (x.1, v))) with
    | [] => s
    | l => { s with kept := minsert s.kept op ([], l) }

/-- A warp, or an operation of its, writes scratchpad bytes of a block, where some operations see the write; a written word loses
its poison. -/
def State.spadWriteFor (s : State) (k b a : Nat) (bs : List Byte) (sees : Nat → Bool) : State :=
  (s.keepSpad b a bs sees).modBlock b (fun B => { B with
    order := s.orderAfter B k a bs.length
    spad := spadPut B.spad a bs
    spadPoison := if B.spadPoison = [] then [] else B.spadPoison.filter (fun k => !(a ≤ 4 * k && 4 * k + 4 ≤ a + bs.length)) })

/-- A warp, or an operation of its, writes scratchpad bytes of a block. -/
def State.spadWrite (s : State) (k b a : Nat) (bs : List Byte) : State := s.spadWriteFor k b a bs (fun _ => false)

/-- Read scratchpad bytes of a block. -/
def State.spadRead (s : State) (b a n : Nat) : List Byte := spadBytes (s.spad b) a n

/-- Whether a scratchpad range holds a poisoned word. -/
def State.spadBad (s : State) (b a n : Nat) : Bool :=
  match mfind s.blocks b with
  | some B => B.spadPoison.any (fun k => a < 4 * k + 4 && 4 * k < a + n)
  | none => false

/-! ### The layout word (R68) -/

/-- A field of a layout word. -/
def layField (l : BitVec 96) (lo n : Nat) : Nat := (l.extractLsb' lo n).toNat

/-- BPM and reserved bits: 0 sound, 1 BPM, 2 reserved bit (R68, R315). -/
def layoutBad (l : BitVec 96) : Nat :=
  if 4 ≤ layField l 80 4 then 1 else if layField l 84 12 ≠ 0 then 2 else 0

/-- The byte address at coordinates (d0, d1, d2) plus `extra` bytes, added before the permutation (R68, R145). -/
def layoutAddr (l : BitVec 96) (d0 d1 d2 extra : Nat) : Nat :=
  let o := (d0 * layField l 20 20 + d1 * layField l 40 20 + d2 * layField l 60 20 + extra) % 2 ^ 32
  let x := match layField l 80 4 with
    | 1 => o / 2 ^ 7 % 32
    | 2 => o / 2 ^ 8 % 32
    | 3 => o / 2 ^ 9 % 32
    | _ => 0
  layField l 0 20 + (o ^^^ (x * 4))

/-! ### Translation -/

/-- Bytes of a page (R86 Table 6). -/
def pageSize (size : Nat) : Nat :=
  match size with
  | 0 => 2 ^ 12
  | 1 => 2 ^ 14
  | 2 => 2 ^ 16
  | 3 => 2 ^ 18
  | 4 => 2 ^ 21
  | 5 => 2 ^ 25
  | 6 => 2 ^ 29
  | _ => 2 ^ 34

/-- The leaf level of a page size (R86 Table 6). -/
def leafLevel (size : Nat) : Nat := if size < 4 then 0 else if size < 7 then 1 else 2

/-- The physical address of a virtual one through a translation. -/
def Trans.phys (t : Trans) (va : Nat) : Nat := t.frame + va % pageSize t.size

/-- The TLBs that a core's accesses look in, in order: its own, its core cluster's and its die's (R88). -/
def tlbsOf (core : Nat) : List Nat := [core, 768 + core / 16, 816 + core / 192]

/-- How many translations a TLB holds (R4, R6, R88). -/
def tlbSize (place : Nat) : Nat := if place < 768 then 64 else 2048

/-- Whether a physical address lies in a 4 KiB frame that is retired: no page maps it any more, a larger page that covers it keeping
its other frames, DEDUCED (R341; log entry 81). -/
def State.retired (s : State) (pa : Nat) : Bool := s.retiredFrames.contains (pa / 4096)

/-- The translation of a virtual address that one TLB holds. -/
def State.tlbAt (s : State) (place queue va : Nat) : Option Trans :=
  (mget [] s.tlbs place).find? (fun t => t.queue == queue && va / pageSize t.size == t.vpage && !s.retired (t.phys va))

/-- The cached translation of a virtual address for a core (R88). -/
def State.cached (s : State) (core queue va : Nat) : Option Trans :=
  (tlbsOf core).findSome? (fun p => s.tlbAt p queue va)

/-- A translation enters a TLB; in a full one it replaces a translation that is free (R88, log entry 70). -/
def State.enterTlb (s : State) (place : Nat) (t : Trans) : State :=
  let l := mget [] s.tlbs place
  if l.contains t then s
  else if l.length < tlbSize place then { s with tlbs := minsert s.tlbs place (l ++ [t]) }
  else { s with tlbs := minsert s.tlbs place (l.eraseIdx (Config.freeChoice s.fresh % tlbSize place) ++ [t]), fresh := s.fresh + 1 }

/-- A translation enters the TLBs that a core's accesses look in. -/
def State.addTrans (s : State) (core : Nat) (t : Trans) : State := (tlbsOf core).foldl (fun s p => s.enterTlb p t) s

/-- What firmware mode uses: virtual addresses are physical (log entry 9). -/
def identityTrans (va : Nat) : Trans := ⟨4096, va / 2 ^ 12, 0, va / 2 ^ 12 * 2 ^ 12, 0, false, false, false⟩

/-- Whether a page walk of a partition may use a physical address (R71, R87). -/
def State.reachable (s : State) (part a : Nat) : Bool :=
  if s.partitioned && packageOf a == s.zinc.self && !inHostWindow a then
    match mfind s.parts part with
    | some p => p.base ≤ a % 2 ^ 40 && a % 2 ^ 40 < p.top
    | none => false
  else true

/-- The partition of a queue. -/
def State.partOf (s : State) (queue : Nat) : Nat := ((mfind s.queues queue).map (·.part)).getD 0

/-- The entry of a table at the index of a level (R86). -/
def State.pte (s : State) (va table level : Nat) : DWord :=
  BitVec.ofNat 64 (leNat (s.bytesAt (table + 8 * (va / 2 ^ (12 + 9 * level) % 512)) 8))

/-- Whether a page walk of a partition may use a page frame: its first and its last byte lie in the partition's range (R71,
R87). -/
def State.frameOk (s : State) (part frame size : Nat) : Bool :=
  s.reachable part frame && s.reachable part (frame + pageSize size - 1)

/-- A leaf entry met at a level: a translation, or the level at which the walk stops (R86, R87). -/
def State.leafEntry (s : State) (queue va level : Nat) (e : DWord) : Except Nat Trans :=
  let size := (e.extractLsb' 9 3).toNat
  let frame := (e.extractLsb' 12 36).toNat * 4096 / pageSize size * pageSize size
  if e.extractLsb' 0 2 ≠ 2 || e.extractLsb' 8 1 ≠ 0 || e.extractLsb' 48 16 ≠ 0 || leafLevel size ≠ level ||
      !s.frameOk (s.partOf queue) frame size || s.retired (frame + va % pageSize size) then .error level
  else .ok ⟨queue, va / pageSize size, size, frame, (e.extractLsb' 5 3).toNat, e.getLsbD 4, e.getLsbD 3, e.getLsbD 2⟩

/-- Walk from a table of a level down (R86, R87). A table entry whose SIZE is not 0 raises the fault (log entry 71). -/
def State.walkFrom (s : State) (queue va : Nat) : Nat → Nat → Except Nat Trans
  | 0, table => s.leafEntry queue va 0 (s.pte va table 0)
  | k + 1, table =>
    let e := s.pte va table (k + 1)
    if e.extractLsb' 0 2 = 1 then
      if e.extractLsb' 8 1 ≠ 0 || e.extractLsb' 9 3 ≠ 0 || e.extractLsb' 48 16 ≠ 0 ||
          !s.reachable (s.partOf queue) ((e.extractLsb' 12 36).toNat * 4096) then .error (k + 1)
      else s.walkFrom queue va k ((e.extractLsb' 12 36).toNat * 4096)
    else s.leafEntry queue va (k + 1) e

/-- The whole walk of a queue's page table for a virtual address (R86). -/
def State.walk (s : State) (queue va : Nat) : Except Nat Trans :=
  match mfind s.queues queue with
  | none => .error 4
  | some Q =>
    if 2 ^ 48 ≤ va then .error 3
    else if s.reachable Q.part Q.root then s.walkFrom queue va 3 Q.root else .error 4

/-- The die whose firmware core serves a partition: its first (R10, R11). -/
def State.partDie (s : State) (part : Nat) : Nat := ((mfind s.parts part).map (·.dies.headD 0)).getD 0

/-- The firmware core that looks after a queue's work. -/
def State.queueCore (s : State) (queue : Nat) : Nat := s.partDie (s.partOf queue) * 192

/-- Whether a virtual page is being walked for, or is a page fault with the firmware. -/
def State.walking (s : State) (queue vpn : Nat) : Bool :=
  s.walks.any (fun x => x.queue == queue && x.vpn == vpn) || s.faults.any (fun x => x.queue == queue && x.vpn == vpn && x.pool.isNone)

/-- The translation of an address as a core finds it at once: cached in the TLBs in which it looks, or walked (R88). -/
def State.lookFor (s : State) (core queue va : Nat) : Option Trans :=
  match s.cached core queue va with
  | some t => some t
  | none => (s.walk queue va).toOption

/-- The translation of an address as the firmware core that looks after the queue finds it at once (R88). -/
def State.look (s : State) (queue va : Nat) : Option Trans := s.lookFor (s.queueCore queue) queue va

/-- Read bytes through a queue's page table at once, as the firmware core does: none where a page does not
translate. -/
def State.virtBytes (s : State) (queue va n : Nat) : Option (List Byte) :=
  (List.range n).foldr (fun j acc =>
    match acc, s.look queue (va + j) with
    | some l, some t => some (s.byteAt (t.phys (va + j)) :: l)
    | _, _ => none) (some [])

/-- A little-endian number read through a queue's page table. -/
def State.virtNat (s : State) (queue va n : Nat) : Option Nat := (s.virtBytes queue va n).map leNat

/-- Write bytes through a queue's page table at once. -/
def State.virtPut (s : State) (queue va : Nat) (bs : List Byte) : State :=
  bs.zipIdx.foldl (fun s b =>
    match s.look queue (va + b.2) with
    | some t => s.homePut (t.phys (va + b.2)) [b.1]
    | none => s) s

end Sys2Proof.Machine
end

