-- ==== Sys2Proof/Machine/Ops.lean ====
section
/-! DEFINITION. The operations every instruction shares: warps and their outstanding operations, quiescent
points, kills, taking a trap and returning from one, and the course of one issue from its checks to its
retirement (R44 to R47, R97, R105, R317 to R319, R331 to R343). -/

namespace Sys2Proof.Machine

/-! ### Warps -/

/-- Store a warp. -/
def State.setWarp (s : State) (k : Nat) (W : Warp) : State := { s with warps := minsert s.warps k W }

/-- Change a warp that exists. -/
def State.modWarp (s : State) (k : Nat) (f : Warp → Warp) : State := { s with warps := mupdate s.warps k f }

/-- The tie rule of two equal k.wid (R122, R266): the lower queue number goes first, then the earlier packet, then the packet's own
launches, then its children in the order of their commits. -/
def Warp.before (V W : Warp) : Bool :=
  let key (W : Warp) : List Nat := [W.wid.toNat, W.queue, W.pkt, W.rank, W.launch]
  decide (key V < key W)

/-- A core; after reset where nothing is listed. -/
def State.core (s : State) (k : Nat) : Core := (mfind s.cores k).getD {}

/-- Change a core. -/
def State.modCore (s : State) (k : Nat) (f : Core → Core) : State := { s with cores := minsert s.cores k (f (s.core k)) }

/-- Change a core's matrix unit. -/
def State.modMx (s : State) (k : Nat) (f : MxUnit → MxUnit) : State := s.modCore k (fun C => { C with mx := f C.mx })

/-- Change a core's tap unit. -/
def State.modTap (s : State) (k : Nat) (f : TapUnit → TapUnit) : State := s.modCore k (fun C => { C with tap := f C.tap })

/-- Change a launch. -/
def State.modLaunch (s : State) (k : Nat) (f : Launch → Launch) : State := { s with launches := mupdate s.launches k f }

/-- Change a partition. -/
def State.modPart (s : State) (k : Nat) (f : Partition → Partition) : State := { s with parts := mupdate s.parts k f }

/-- The partition a warp runs in. -/
def State.partOfWarp (s : State) (W : Warp) : Nat :=
  match mfind s.launches W.launch with
  | some L => L.part
  | none => s.partOf W.queue

/-- Change the slices of a mask. -/
def mapSlices (l : List Slice) (m : BitVec 16) (f : Slice → Slice) : List Slice :=
  l.zipIdx.map (fun x => if inMask m x.2 then f x.1 else x.1)

/-- Change the slices of a warp that a mask names. -/
def Warp.onSlices (W : Warp) (m : BitVec 16) (f : Slice → Slice) : Warp := { W with slices := mapSlices W.slices m f }

/-- The slices that have not exited. -/
def Warp.alive (W : Warp) : BitVec 16 :=
  maskOf ((W.slices.zipIdx.filter (fun x => !x.1.exited)).map (·.2))

/-- A slice by number. -/
def Warp.slice (W : Warp) (i : Nat) : Slice := W.slices.getD i { pc := 0, exited := true }

/-! ### Outstanding operations (R97) -/

/-- The counter of an engine class. -/
def Warp.counter (W : Warp) (cls : Nat) : Nat := (W.outs.filter (fun o => o.1 == cls)).length

/-- The limits of Table 4 of R97. -/
def classLimit (cls : Nat) : Nat :=
  match cls with
  | 0 | 1 => 255
  | 2 | 4 => 63
  | _ => 15

/-- Drop what has completed, oldest first within each class: completions are counted in issue order (R97). -/
def settleOuts : List (Nat × Nat × Bool) → List Nat → List (Nat × Nat × Bool)
  | [], _ => []
  | (c, o, d) :: l, stuck =>
    if d && !stuck.contains c then settleOuts l stuck else (c, o, d) :: settleOuts l (c :: stuck)

/-- Count what has completed. -/
def Warp.settle (W : Warp) : Warp := { W with outs := settleOuts W.outs [] }

/-- Enter an operation in a class's counter. -/
def Warp.count1 (W : Warp) (cls op : Nat) : Warp := if cls < 7 then { W with outs := W.outs ++ [(cls, op, false)] } else W

/-- The running maxima of write completion times and the flags that an operation's completion brings (R62, R98);
an engine's fault is ready for delivery once the completion is visible (R347). A collective's record stays for
CWAIT. -/
def State.opVisible (s : State) (k op : Nat) : State :=
  match mfind s.engines op with
  | none => s
  | some e =>
    let s := s.modWarp k (fun W => { (W.completion e.gwct e.gwctd).raise e.flags with
      held := W.held.map (fun h => if h.lane = op then { h with whole := true } else h) })
    if e.cls = 5 then s else { s with engines := merase s.engines op }

/-- Count what has completed: the completions that are now visible take effect (R97, R98). -/
def State.settleWarp (s : State) (k : Nat) : State :=
  let before := ((s.warp k).outs).map (fun o => o.2.1)
  let W := (s.warp k).settle
  let s := s.modWarp k (fun _ => W)
  (before.filter (fun o => !W.outs.any (fun x => x.2.1 == o))).foldl (fun s o => s.opVisible k o) s

/-- An operation completes. At D1 and above the counter falls at the next round start (R97). -/
def State.completeOp (s : State) (k op : Nat) : State :=
  let s := s.modWarp k (fun W => { W with outs := W.outs.map (fun o => if o.2.1 = op then (o.1, o.2.1, true) else o) })
  if s.buffered (s.warp k) then s else s.settleWarp k

/-- A fresh number. -/
def State.bump (s : State) : State := { s with nextId := s.nextId + 1 }

/-- Send a flight off; its number is `s.nextId`. -/
def State.launchFlight (s : State) (f : Flight) : State :=
  ({ s with flights := minsert s.flights s.nextId f }.bump).modWarp f.warp (fun W => W.count1 f.cls s.nextId)

/-- The registers of a warp that wait for a variable result (R37). -/
def State.pendingRegs (s : State) (k : Nat) : List Nat :=
  s.flights.foldr (fun f acc => if f.2.warp = k then f.2.regs ++ acc else acc) []

/-- Whether a flight brings data that a warp reads (R95): a RED and a PREF bring none. -/
def Flight.brings (f : Flight) : Bool :=
  f.reads || (f.regs != [] && (f.cls == 0 || f.accs.any (fun a => match a.op with
    | .read | .rmw _ _ _ _ | .adpq _ => true
    | _ => false)))

/-- Whether a slice is suspended in a TRYWAIT issued up to a number. -/
def Slice.testing (x : Slice) (upto : Nat) : Bool :=
  match x.wait with
  | some (.words _ _ n _ _) => !x.exited && decide (n ≤ upto)
  | _ => false

/-- Reads of a warp issued up to a number that have not returned, those that wait for a commit included (R95, R292). -/
def State.readsOut (s : State) (k upto : Nat) : Bool :=
  s.flights.any (fun f => f.2.warp == k && decide (f.1 ≤ upto) && f.2.brings) ||
    ((mfind s.warps k).map (fun W => W.slices.any (fun x => x.testing upto))).getD false

/-- Store-class operations of a warp issued up to a number that are not acknowledged, those that wait for a commit
included (R95). -/
def State.storesOut (s : State) (k upto : Nat) : Bool :=
  s.flights.any (fun f => f.2.warp == k && decide (f.1 ≤ upto) &&
    (f.2.cls == 1 || f.2.accs.any (fun a => match a.op with
      | .write _ | .rmw _ _ _ _ | .ste _ _ _ | .discard | .push _ _ | .adpq _ | .note => true
      | .read => false)))

/-- Whether a release at a scope has nothing left to wait for (R95 Table 3). -/
def State.released (s : State) (k upto scope : Nat) : Bool :=
  let W := s.warp k
  !s.storesOut k upto &&
    (if scope ≤ 2 then true
     else if scope = 3 then s.past (W.core / 192) W.gwctd
     else s.past (W.core / 192) W.gwct)

/-- Count a release at a scope for the race detector (R352): a warp's number at scope s counts the releases at s
or wider. -/
def Warp.countRelease (W : Warp) (scope : Nat) : Warp :=
  { W with release := (List.range 7).map (fun j => W.release.getD j 0 + (if j ≤ scope then 1 else 0)) }

/-! ### The RAS engine's queue (R365) -/

/-- The source of a record among those of one cycle: the cores in their order, then the firmware core, then the island (R365). -/
def RasRec.source (r : RasRec) : Nat :=
  if r.raw != [] then r.core
  else if r.type = 9 || r.type = 10 then 1025
  else if r.type = 3 || r.type = 4 || r.type = 8 || r.type = 11 || r.type = 12 then 1024
  else r.core

/-- A record joins the records that wait for the engine: after those that came before it, and among those of its cycle by its source
(R365). -/
def rasInsert (r : RasRec) : List RasRec → List RasRec
  | [] => [r]
  | x :: l => if x.tick = r.tick ∧ r.source < x.source then r :: x :: l else x :: rasInsert r l

/-- Hand a record to a die's RAS engine. -/
def State.ras (s : State) (die : Nat) (r : RasRec) : State :=
  s.modDie die (fun D => { D with rasQueue := rasInsert { r with tick := (s.time, s.cycle) } D.rasQueue })

/-- Whether the firmware core that serves a queue runs. -/
def State.served (s : State) (q : Nat) : Bool := (s.die (s.partDie (s.partOf q))).firmware

/-- A PACKET record (R355, R356). -/
def State.rasPacket (s : State) (queue pkt sub reason : Nat) : State :=
  let part := s.partOf queue
  s.ras (if (mfind s.queues queue).isSome then s.partDie part else 0)
    { type := 3, sub := sub, queue := queue, part := part, pkt := BitVec.ofNat 32 pkt, info0 := BitVec.ofNat 32 reason }

/-- Fields that name a warp in a record. -/
def State.warpRec (s : State) (W : Warp) (type sub cause : Nat) : RasRec :=
  { type := type, sub := sub, cause := cause, part := s.partOfWarp W, queue := W.queue, pkt := BitVec.ofNat 32 W.pkt,
    bid := W.bid, wid := W.wid, core := W.core }

/-! ### Grace periods (R105 to R108, R293) -/

/-- The warps of a partition that a grace period waits for when it starts: every warp that exists. -/
def State.graceWarps (s : State) (p : Nat) : List Nat :=
  (s.warps.filter (fun x => !x.2.ended && s.partOfWarp x.2 == p)).map (·.1)

/-- Start the grace period after the last one completed (R107). It covers the deferred entries queued before it
(R108). -/
def State.graceStart (s : State) (p : Nat) : State :=
  match mfind s.parts p with
  | none => s
  | some P =>
    let g := P.gpDone + 1
    let s := s.modPart p (fun P => { P with gpNow := some g, gpWait := s.graceWarps p, gpNext := false })
    P.dies.foldl (fun s d => s.modDie d (fun D => { D with dfree := D.dfree.map (fun e =>
      if e.2.2.1 = 0 && e.2.2.2.1 == p then (e.1, e.2.1, g, e.2.2.2) else e) })) s

/-- A warp passes a quiescent point (R105). -/
def State.quiescent (s : State) (k : Nat) : State :=
  let W := s.warp k
  let p := s.partOfWarp W
  match mfind s.parts p with
  | none => s.modWarp k (fun W => { W with watchdog := 0 })
  | some P =>
    (s.modPart p (fun P => { P with gpWait := P.gpWait.filter (· != k) })).modWarp k
      (fun W => { W with watchdog := 0, quiet := P.gpNow.getD P.gpDone })

/-- The quiescent points of a warp whose earlier reads have all returned are passed (R292). -/
def State.quietCheck (s : State) (k : Nat) : State :=
  let W := s.warp k
  let due := W.quietDue.filter (fun n => s.readsOut k n)
  if due = W.quietDue then s else (s.modWarp k (fun W => { W with quietDue := due })).quiescent k

/-- A warp comes to the quiescent point of QSP or EXIT: it passes it once its earlier reads have returned (R105, R292). -/
def State.quietPoint (s : State) (k : Nat) : State :=
  (s.modWarp k (fun W => { W with quietDue := s.nextId :: W.quietDue })).quietCheck k

/-- A free value (log entry 4). -/
def State.freeWord (s : State) : Word := Config.freeWord s.fresh

/-- The next free value will be another one. -/
def State.freshen (s : State) : State := { s with fresh := s.fresh + 1 }

/-! ### The places of a stream cluster (R131, R268) -/

/-- A physical address through a queue's page table, found at once. -/
def State.physOf (s : State) (queue va : Nat) : Option Nat := (s.look queue va).map (fun t => t.phys va)

/-- The translation of an address for a warp, found at once. -/
def State.warpLook (s : State) (k va : Nat) : Option Trans :=
  if (s.warp k).mode = .firmware then some (identityTrans va) else s.lookFor (s.warp k).core (s.warp k).queue va

/-- Change a graph. -/
def State.modGraph (s : State) (g : Nat) (f : Graph → Graph) : State := { s with graphs := mupdate s.graphs g f }

/-- Change a node of a graph. -/
def State.modNode (s : State) (g n : Nat) (f : Node → Node) : State :=
  s.modGraph g (fun G => { G with nodes := G.nodes.zipIdx.map (fun x => if x.2 = n then f x.1 else x.1) })

/-- A node of a graph. -/
def State.node? (s : State) (g n : Nat) : Option Node := (mfind s.graphs g).bind (fun G => G.nodes[n]?)

/-- The places that a stream cluster holds become free (R131, R268); what they hold is undefined from then on. -/
def State.freePlaces (s : State) (l : Nat) : State :=
  match mfind s.launches l with
  | none => s
  | some L =>
    match L.stream with
    | none => s
    | some (g, n, q, o) =>
      let x := s.node? g n
      let queue := ((mfind s.graphs g).map (·.queue)).getD 0
      let rsz := (x.map (·.rsz)).getD 0
      let s := (s.modNode g n (fun x => { x with useQ := x.useQ - q, useO := x.useO - o })).modLaunch l
        (fun L => { L with stream := some (g, n, 0, 0) })
      if q + o = 0 then s
      else
        let bytes := L.places.flatMap (fun p => (List.range rsz).filterMap (fun j => s.physOf queue (p.toNat + j)))
        (bytes.zipIdx.foldl (fun s x => s.homePut x.1 [Config.freeByte s.fresh x.2]) s).freshen

/-- The places of a cluster are freed once each of its warps has executed NDONE or exited (R268). -/
def State.ndoneOver (s : State) (l : Nat) : State :=
  if s.warps.all (fun x => x.2.launch != l || x.2.ended || x.2.ndone || x.2.twinOf.isSome) then s.freePlaces l else s

/-! ### Ends of warps and blocks -/

/-- Change the binding that the tap unit holds. -/
def TapUnit.modBinding (T : TapUnit) (f : Binding → Binding) : TapUnit := { T with binding := T.binding.map f }

/-- A hold row of an ended tap-handler warp becomes FREE as written (R150 Table 4). -/
def freeHolds (T : TapUnit) : TapUnit :=
  { T with
    hold := T.hold.map (fun h => (h.1, { h.2 with state := 0 }))
    binding := T.binding.map (fun b => { b with undelivered := [], current := none }) }

/-- Whether an entry of the unit's queue is a pass of the tap unit. -/
def MxOp.ofTap (o : MxOp) : Bool := o == .fgath || o == .tapgo

/-- Whether a block may take or keep the matrix unit: it owns the unit, or no block does and no operation of an earlier owner is
left in the queue (R161, R168). -/
def MxUnit.freeFor (U : MxUnit) (b : Nat) : Bool :=
  match U.owner with
  | some x => x == b
  | none => !U.queue.any (fun e => e.block != b && !e.op.ofTap)

/-- A unit that no block owns any more, its error state ended (R161, R326). -/
def MxUnit.giveUp (U : MxUnit) : MxUnit := { U with owner := none, err := none, errShown := none }

/-- A block ends when its last warp has: it gives up the matrix unit and its tap binding (R161, R343). -/
def State.endBlock (s : State) (b : Nat) : State :=
  match mfind s.blocks b with
  | none => s
  | some B =>
    if B.alive && s.warps.all (fun x => x.2.block != b || x.2.ended) then
      let s := s.modBlock b (fun B => { B with alive := false })
      let s := s.modMx B.core (fun U => if U.owner = some b then U.giveUp else U)
      let keep (x : Binding) : Bool := x.block != b || !x.done
      let s := s.modTap B.core (fun T => { T with binding := T.binding.filter keep, seq := merase T.seq b })
      let live := s.blocks.any (fun x => x.2.alive && x.2.launch == B.launch && x.2.cluster == B.cluster)
      if live then s
      else s.modLaunch B.launch (fun L => { L with exits := L.exits ++ [B.cluster] })
    else s

/-- A warp ends: it arrives nowhere any more, passes a quiescent point once its reads have returned (R292), and
its block may end; a redundant block ends once its copies have agreed. -/
def State.endWarp (s : State) (k : Nat) : State :=
  let W := s.warp k
  let s := s.modWarp k (fun W => { W with ended := true, slices := W.slices.map (fun x => { x with exited := true, wait := none }) })
  let s := s.quietPoint k
  let s := s.modLaunch W.launch (fun L => { L with exitRound := L.round })
  let s := if (s.block? W.block).any (fun B => B.handler == some k) then s.modTap W.core (fun T =>
      if T.binding.any (fun b => b.block == W.block) then freeHolds T else T) else s
  let s := if s.buffered W then s else s.ndoneOver W.launch
  let redund := ((mfind s.launches W.launch).map (·.redund)).getD false
  if W.twinOf.isSome || (redund && !W.killed) then s else s.endBlock W.block

/-- The warps of a family: a caller and every twin below it. -/
def State.family (s : State) (k : Nat) : List Nat :=
  let r := s.rootOf 4 k
  (s.warps.filter (fun x => !x.2.ended && s.rootOf 4 x.1 == r)).map (·.1)

/-- Whether a deferred effect is an engine operation, which a kill leaves to run (R343 step 5). -/
def Deferred.engines (d : Deferred) : Bool :=
  match d with
  | .engine _ | .mx _ _ => true
  | .tap _ e => (match e.op with
    | .frewr _ _ _ | .frel _ => false
    | _ => true)
  | _ => false

/-- Kill one warp of a family (R343 steps 1 to 6): its buffered writes are dropped, its engine operations run. -/
def State.killOne (s : State) (k : Nat) : State :=
  let W := s.warp k
  let s := { s with
    holds := s.holds.filter (fun h => h.2.1 != k)
    flights := s.flights.filter (fun f => !(f.2.warp == k && f.2.held)) }
  let s := s.modWarp k (fun W => { W with
    killed := true, tx := none, saveTx := none, forks := [], buf := W.buf.filter Deferred.engines, latched := [], qdone := true })
  let s := s.modBlock W.block (fun B => { B with abandoned := true })
  let s := s.modLaunch W.launch (fun L => { L with kills := true })
  s.endWarp k

/-- Whether a kill cause of a redundant block waits for the comparison of its copies (R332, R363). -/
def State.redundant (s : State) (k cause : Nat) : Bool :=
  [0x101, 0x102, 0x104, 0x105, 0x106].contains cause && ((mfind s.launches (s.warp k).launch).map (·.redund)).getD false

/-- A warp of a redundant block meets a kill cause: its quantum ends, and its copies disagree (R363). -/
def State.doom (s : State) (k : Nat) : State :=
  (s.family k).foldl (fun s j => s.modWarp j (fun W => { W with doomed := true, qdone := true })) s

/-- Kill a warp, with its record (R343): the cause, the lane and slice, the virtual and physical addresses, and INFO_2. -/
def State.kill (s : State) (k cause lane : Nat) (va : DWord) (pa : Option Nat) (info2 : Nat := 0) : State :=
  if s.redundant k cause then s.doom k
  else
  let W := s.warp k
  let r := s.warpRec W 1 0 cause
  let r := { r with va := va, pv := pa.isSome, pa := BitVec.ofNat 64 (pa.getD 0) }
  let r := { r with info0 := BitVec.ofNat 32 lane, info1 := BitVec.ofNat 32 (lane / 4), info2 := BitVec.ofNat 32 info2 }
  (((s.family k).foldl State.killOne s).endBlock W.block).ras (W.core / 192) r

/-- A warp is killed for a translation that cannot be resolved (R345): the record's INFO_2 holds the level at which the
walk stopped. -/
def State.killTrans (s : State) (k lane : Nat) (va : DWord) (level : Nat) : State :=
  if (s.warp k).ended then s else s.kill k 0x101 lane va none level

/-- Poisoned memory was consumed: the warp is killed and the frame retired (R341). -/
def State.killPoison (s : State) (k lane : Nat) (va : DWord) (pa : Option Nat) : State :=
  let W := s.warp k
  let s := s.kill k 0x0102 lane va pa
  match (if (s.warp k).killed then pa else none) with
  | none => s
  | some a =>
    ({ s with retiredFrames := if s.retiredFrames.contains (a / 4096) then s.retiredFrames else (a / 4096) :: s.retiredFrames }).ras
      (W.core / 192) { s.warpRec W 2 0 0x0102 with pv := true, pa := BitVec.ofNat 64 (a / 4096 * 4096) }

/-! ### Transactions (R101 to R104) -/

/-- Abort a transaction lane: it keeps no buffered write, gives up the sectors it holds, and its count of aborts
rises (R102, R104). -/
def State.txAbort (s : State) (k lane cause code : Nat) : State :=
  match (s.warp k).tx with
  | none => s
  | some t =>
    match mfind t.lanes lane with
    | none => s
    | some l =>
      if l.cause ≠ 0 then s
      else
        let s := { s with holds := s.holds.filter (fun h => h.2.1 != k || h.2.2.1 != lane) }
        s.modWarp k (fun W => { W with
          tx := some { t with lanes := minsert t.lanes lane { l with cause := cause, code := code, reads := [], writes := [] } }
          txAddr := minsert W.txAddr lane t.addr
          txTries := minsert W.txTries lane (min 8 (l.tries + 1)) })

/-- Abort every open transaction lane of a warp. -/
def State.txAbortAll (s : State) (k cause : Nat) : State :=
  match (s.warp k).tx with
  | none => s
  | some t => (t.lanes.map (·.1)).foldl (fun s i => s.txAbort k i cause 0) s

/-! ### Taking a trap (R44 to R47, R331 to R333) -/

/-- A level descriptor is sound (R39, R40 Table 7). -/
def levelOk (e : DWord) : Bool :=
  e.extractLsb' 32 32 == 0 && e.extractLsb' 11 5 == 0 && e.extractLsb' 3 5 == 0 && e.extractLsb' 16 16 != 0 &&
  2 ≤ (e.extractLsb' 0 3).toNat && (e.extractLsb' 8 3).toNat ≠ 7 &&
  ([0, 1, 2, 3, 3, 4, 5, 5].getD (e.extractLsb' 0 3).toNat 7) ≤ (e.extractLsb' 8 3).toNat

/-- Up the levels neither code decreases (R39). -/
def levelsRise : List DWord → Bool
  | a :: b :: l => a.extractLsb' 0 3 ≤ b.extractLsb' 0 3 && a.extractLsb' 8 3 ≤ b.extractLsb' 8 3 && levelsRise (b :: l)
  | _ => true

/-- Eight descriptors of which the first n are used (R40). -/
def levelsOk (n : Nat) (l : List DWord) : Bool :=
  decide (n ≤ 8) && (l.take n).all levelOk && levelsRise (l.take n) && (l.drop n).all (· == 0)

/-- What a code object's header says (R194). -/
structure CodeHead where
  entry   : Nat
  len     : Nat
  warps   : Nat
  width   : Nat
  regs    : Nat
  quantum : Nat
  lvln    : Nat
  roles   : Nat
  levels  : List DWord
  deriving DecidableEq, Repr

/-- A field of a byte list, little-endian. -/
def fieldAt (b : List Byte) (off n : Nat) : Nat := leNat ((b.drop off).take n)

/-- Eight descriptors at an offset. -/
def levelsAt (b : List Byte) (off : Nat) : List DWord := (List.range 8).map (fun j => BitVec.ofNat 64 (fieldAt b (off + 8 * j) 8))

/-- Role codes 5 to 15 name no role (R133). -/
def rolesOk (roles : Nat) : Bool := (List.range 32).all (fun w => roles / 16 ^ w % 16 < 5)

/-- The header of a code object, if it meets Table 5 of R194. -/
def codeHead (b : List Byte) : Option CodeHead :=
  let h : CodeHead := ⟨fieldAt b 8 4, fieldAt b 12 4, fieldAt b 0x13 1, fieldAt b 0x12 1, fieldAt b 0x10 2 % 512,
    fieldAt b 0x14 4, fieldAt b 0x18 1, fieldAt b 0x20 16, levelsAt b 0x40⟩
  let ok := fieldAt b 0 4 == 0x314F5A4B && fieldAt b 4 4 == 0x0100 && h.entry % 32 == 0 && h.len % 32 == 0 &&
    h.warps ≤ 32 && [0, 8, 16, 32, 64].contains h.width && fieldAt b 0x10 2 / 512 == 0 && 1 ≤ h.regs && h.regs ≤ 256 &&
    (h.quantum == 0 || (256 ≤ h.quantum && h.quantum ≤ 65536)) && fieldAt b 0x19 3 == 0 && fieldAt b 0x1C 4 == 0 &&
    fieldAt b 0x30 16 == 0 && rolesOk h.roles && levelsOk h.lvln h.levels
  if b.length = 128 && ok then some h else none

/-- Causes that a user handler takes (R315). -/
def userCause (c : Nat) : Bool := c < 0x100

/-- What a trap does next: kill with a cause, or enter a handler at an address with its register count (R47). An entry of the
handler table that cannot be read names no handler, and a code object that cannot be read is refused (log entry 55). -/
def State.handlerFor (s : State) (W : Warp) (cause : Nat) : Except Nat (DWord × Nat) :=
  if W.tmode then .error 0x0105
  else
    match mfind s.queues W.queue with
    | none => .error 0x0104
    | some Q =>
      match s.virtNat W.queue (Q.handlers.toNat + 8 * cause) 8 with
      | none => .error 0x0104
      | some 0 => .error 0x0104
      | some h =>
        match (s.virtBytes W.queue h 128).bind codeHead with
        | none => .error 0x0106
        | some H => if W.regCount < H.regs then .error 0x0106 else .ok (BitVec.ofNat 64 (h + H.entry), H.regs)

/-- The tests that a slice suspended in a TRYWAIT makes on waking: lane, home word and expected value, the destination and the
next instruction (R100). -/
def Slice.tests (x : Slice) : Option (List (Nat × DWord × Nat × Word) × Nat × DWord) :=
  match x.wait with
  | some (.words l _ _ d next) => if x.exited then none else some (l, d, next)
  | _ => none

/-- A word at its home. -/
def State.wordAt (s : State) (a : Nat) : Word := BitVec.ofNat 32 (leNat (s.bytesAt a 4))

/-- The values that a TRYWAIT writes in one slice (R100). -/
def State.testVals (s : State) (i d : Nat) (l : List (Nat × DWord × Nat × Word)) : List (Nat × Nat × Word) :=
  (l.filter (fun x => x.1 / 4 == i)).map (fun x => (d, x.1, boolWord (s.wordAt x.2.2.1 != x.2.2.2)))

/-- Values land in registers (R37). -/
def Warp.landVals (W : Warp) (vals : List (Nat × Nat × Word)) : Warp :=
  vals.foldl (fun W v => W.setReg v.1 [(v.2.1, v.2.2)]) W

/-- A trap or a pre-emption ends the suspension of a warp's TRYWAITs (R100): each reads its words at their homes, writes its
results and stands at the next instruction. -/
def State.endTests (s : State) (k : Nat) : State :=
  let W := s.warp k
  if W.slices.all (fun x => x.tests.isNone) then s
  else
    let core := W.core
    let l := W.slices.zipIdx.filterMap (fun x => x.1.tests.map (fun t => (x.2, t)))
    let s := l.foldl (fun s x => x.2.1.foldl (fun s y =>
      (s.dropCopy core (y.2.2.1 / 32)).dropCopy (768 + core / 192) (y.2.2.1 / 32)) s) s
    s.modWarp k (fun W =>
      let W := l.foldl (fun W x => W.landVals (s.testVals x.1 x.2.2.1 x.2.1)) W
      { W with slices := W.slices.map (fun x => match x.tests with
          | some (_, _, next) => { x with pc := next, wait := none, woken := false, retired := if W.twinOf.isSome then x.retired else x.retired + 1 }
          | none => x) })

/-- The poisoned word that a warp's TRYWAITs would read on waking: lane, address and home word (R340). -/
def State.testsBad (s : State) (k : Nat) : Option (Nat × DWord × Nat) :=
  ((s.warp k).slices.zipIdx.flatMap (fun x => match x.1.tests with
    | some (l, _, _) => (l.filter (fun t => t.1 / 4 == x.2 && s.poisonedAt t.2.2.1 4)).map (fun t => (t.1, t.2.1, t.2.2.1))
    | none => [])).head?

/-- R45: the trap entry of a warp, in the manual's order, into a handler at `entry`. -/
def Warp.enter (W : Warp) (r : TrapRec) (rest : List TrapRec) (entry : DWord) (regs : Nat) : Warp :=
  let W := W.landAll
  { W with
    savePc := W.slices
    saveCnt := W.cnt
    saveWorking := W.working
    working := []
    fast := true
    fresh := false
    shadow := W.regs.filter (fun e => e.1 < 256)
    shadowPoison := W.poison.filter (fun e => e.1 < 256)
    saveTx := W.tx
    tx := none
    tcause := BitVec.ofNat 32 r.cause
    tpc := r.pc
    tpcSet := false
    tslice := BitVec.ofNat 32 r.slice
    tlane := BitVec.ofNat 32 r.lane
    taddr := r.taddr
    tinfo0 := r.info0
    tinfo1 := r.info1
    tinfo2 := r.info2
    tinfo3 := r.info3
    wctl := W.wctl ||| 8
    handlerCount := regs
    slices := W.slices.map (fun x => if x.exited then x else { x with pc := entry, wait := none, woken := false })
    cnt := []
    latched := rest
    current := some r
    watchdog := 0 }

/-- The kill cause that a fault is: a cause that no user handler takes, or one that finds no handler (R47, R332). -/
def State.killCause (s : State) (k : Nat) (r : TrapRec) : Option Nat :=
  if userCause r.cause then
    (match s.handlerFor (s.warp k) r.cause with
     | .error c => some c
     | .ok _ => none)
  else some r.cause

/-- The first fault of a list that kills its warp, with the cause of its record (R331 step 1, R332). -/
def State.deadly (s : State) (k : Nat) (rs : List TrapRec) : Option (TrapRec × Nat) :=
  rs.findSome? (fun r => (s.killCause k r).map (fun c => (r, c)))

/-- Take the traps of a list, the first at once and the others after it (R331, R333). Open transaction lanes
abort with cause 6 (R102, R349). A trap with no handler, in TMODE or into a refused handler kills (R47). A TRYWAIT of another
slice is over first, and kills where it reads poison (R100, R340). -/
def State.trap (s : State) (k : Nat) (rs : List TrapRec) : State :=
  match s.deadly k rs, rs with
  | some (r, c), _ => if c = 0x101 then s.killTrans k r.lane r.taddr r.info2.toNat else s.kill k c r.lane r.taddr none
  | none, [] => s
  | none, r :: rest =>
    match s.handlerFor (s.warp k) r.cause with
    | .error _ => s
    | .ok (entry, regs) =>
      match s.testsBad k with
      | some (lane, va, pa) => s.killPoison k lane va (some pa)
      | none => ((s.txAbortAll k 6).endTests k).modWarp k (fun W => W.enter r rest entry regs)

/-- R46: what ERET restores, and where the slices of the trap go on. A transaction that the handler has left open is over
(log entry 72). A `k.tpc` that is no multiple of 4 is where they go on, DESIGN CHOICE (log entry 78). -/
def Warp.leave (W : Warp) : Warp :=
  let W := W.landAll
  let moved (i : Nat) : Bool := match W.current with
    | some r => W.tpcSet && (if r.whole then inMask r.mask i else i == r.slice)
    | none => false
  { W with
    regs := W.shadow.foldl (fun m e => mput 0 m e.1 e.2) (W.regs.filter (fun e => 256 ≤ e.1))
    poison := W.shadowPoison.foldl (fun m e => minsert m e.1 e.2) (W.poison.filter (fun e => 256 ≤ e.1))
    tx := W.saveTx
    saveTx := none
    slices := W.slices.zipIdx.map (fun x =>
      if x.1.exited then x.1
      else
        let sv := W.savePc.getD x.2 x.1
        if moved x.2 then { sv with pc := W.tpc, wait := none, woken := false, retired := x.1.retired }
        else { sv with retired := x.1.retired })
    cnt := W.saveCnt
    wctl := W.wctl &&& ~~~(8 : Word)
    working := W.saveWorking
    fast := W.saveWorking.isEmpty
    current := none
    watchdog := 0 }

/-- ERET's return, and the next latched slice's trap at once (R333). -/
def State.eret (s : State) (k : Nat) : State :=
  let W := s.warp k
  let s : State := { s with holds := s.holds.filter (fun h => h.2.1 != k) }
  let s := s.modWarp k (fun W => { W.leave with latched := [] })
  s.trap k W.latched

/-! ### One issue -/

/-- An instruction as a gang issues it: the warp as it stands with its due results landed, and the word. -/
structure Ctx where
  s    : State
  k    : Nat
  W    : Warp
  m    : BitVec 16          -- the slices in which it acts
  full : BitVec 16          -- the slices that issued it: its leader is theirs (R25, R331)
  pc   : DWord
  op   : Op
  len  : Len
  w    : Fields
  wake : Option Cond        -- what the leader slice has been waiting for here

/-- The acting lanes. -/
def Ctx.lanes (c : Ctx) : List Nat := c.W.actLanes c.w c.m

/-- The leader lane, 0 where there is none. -/
def Ctx.lead (c : Ctx) : Nat := (c.W.actLanes c.w c.full).headD 0

/-- Whether the instruction acts somewhere. -/
def Ctx.acts (c : Ctx) : Bool := c.lanes != []

/-- The address of the next instruction. -/
def Ctx.next (c : Ctx) : DWord := c.pc + BitVec.ofNat 64 c.len.bytes

/-- A fault of one lane. -/
def Ctx.flt (c : Ctx) (lane cause : Nat) : TrapRec := { slice := lane / 4, lane := lane, cause := cause, pc := c.pc }

/-- The lane that a check of the word alone names (R317). -/
def Ctx.wordLane (c : Ctx) : Nat :=
  ((lanesIn (sliceBit ((maskSlices c.m).headD 0)) c.W.width).find? c.W.active).getD 0

/-- A fault of the word alone, latched once for the warp (R317, R331). -/
def Ctx.recWord (c : Ctx) (cause : Nat) : TrapRec :=
  { slice := (maskSlices c.m).headD 0, lane := c.wordLane, cause := cause, pc := c.pc, whole := true, mask := c.m }

/-- A fault of a single value or of a warp-level instruction, named by its leader (R317, R331). -/
def Ctx.recLead (c : Ctx) (cause : Nat) : TrapRec :=
  { slice := c.lead / 4, lane := c.lead, cause := cause, pc := c.pc, whole := true, mask := c.m }

/-- How an instruction behaves, in the places where instructions differ. -/
structure Kit where
  word  : Ctx → List TrapRec := fun _ => []     -- checks of the word alone, in order (R318, R319)
  hold  : Ctx → Option Cond := fun _ => none    -- waits at issue before any check
  check : Ctx → List TrapRec := fun _ => []     -- value checks, in order, lanes ascending
  first : Ctx → List Nat := fun _ => []         -- virtual addresses whose translations its value checks need
  pages : Ctx → List Nat := fun _ => []         -- virtual addresses it will access
  wprot : Ctx → List TrapRec := fun _ => []     -- checks after translation
  bad   : Ctx → Option (Nat × DWord × Option Nat) := fun _ => none  -- poison consumed at issue
  spoilt : Ctx → State := fun c => c.s          -- what it still does where it consumes poison (R341)
  wait  : Ctx → State × Option Cond := fun c => (c.s, none)  -- its own wait, once it has passed its checks
  late  : Ctx → Option (State × List TrapRec) := fun _ => none  -- a trap in place of its effect, after its wait
  eff   : Ctx → State                           -- its effect in the slices of `c.m`
  jumps : Bool := false                         -- it sets the program counters itself
  tx    : Bool := true                          -- allowed in a transaction lane (R102)
  fork  : Bool := true                          -- runs in an unconfirmed continuation (R227)

/-- The open FCALL that the issuing slices continue unconfirmed, newest. -/
def Ctx.fork? (c : Ctx) : Option Fork := c.W.forks.reverse.find? (fun f => (f.gang &&& c.m) != 0)

/-- Whether an instruction that waits for a condition has not issued yet: its operands or its translations are to come. -/
def Cond.early (c : Cond) : Bool :=
  match c with
  | .regs _ | .pages _ => true
  | _ => false

/-- Stop the issuing slices until a condition holds. An instruction that waits past its operands has issued from the working set
(R31). -/
def Ctx.stop (c : Ctx) (s : State) (why : Cond) : State :=
  s.modWarp c.k (fun W => { (W.onSlices c.m (fun x => { x with wait := some why, woken := false })) with
    fresh := W.fresh && why.early })

/-- Registers an instruction names that still wait for a variable result (R37). -/
def Ctx.interlock (c : Ctx) : List Nat :=
  let pend := c.s.pendingRegs c.k
  if pend = [] then []
  else (rangeRegs (c.op.dstRanges c.w ++ c.op.srcRanges c.w)).filter pend.contains

/-- The first latched fault of each slice, or the one fault of the warp as a whole (R318, R331). -/
def latch (rs : List TrapRec) : List TrapRec :=
  match rs with
  | [] => []
  | r :: _ =>
    if r.whole then [r]
    else (List.range 16).foldr (fun i acc => match rs.find? (fun x => x.slice == i) with
      | some x => x :: acc
      | none => acc) []

/-- The slices that faults stop. -/
def faultMask (c : Ctx) (rs : List TrapRec) : BitVec 16 :=
  match rs with
  | [] => 0
  | r :: _ => if r.whole then c.m else maskOf (rs.map (·.slice))

/-- Whether watchdogs count on a warp's die (R337). -/
def State.wdogOn (s : State) (W : Warp) : Bool := (s.die (W.core / 192)).wdogCfg.getLsbD 31

/-- The instruction leaves the issuing slices: program counters, stall count, watchdog and retired count (R37,
R111, R337). A twin's instructions count toward no quantum (R382). -/
def Ctx.retire (c : Ctx) (jumps : Bool) (s : State) : State :=
  s.modWarp c.k (fun W =>
    let n := (maskSlices c.m).length
    { (W.onSlices c.m (fun x => { x with
        pc := if jumps then x.pc else c.next
        wait := if jumps && x.wait.isSome then x.wait else none
        woken := jumps && x.wait.isSome && x.woken
        retired := if W.twinOf.isSome then x.retired else x.retired + 1 })) with
      clk := W.clk + c.w.stall.toNat
      stall := c.w.stall.toNat
      watchdog := W.watchdog + (if c.s.wdogOn c.W then (n + 7) / 8 else 0)
      fresh := false })

/-- An engine's fault that is being delivered is held no longer (R347). -/
def Warp.dropHeld (W : Warp) (rs : List TrapRec) : Warp :=
  { W with held := W.held.filter (fun h => !rs.any (fun r => r.op != 0 && r.op == h.lane)) }

/-- Faults of an instruction: in an unconfirmed continuation they are held for the verdict (R227), else they are
taken, and what the instruction waited for is forgotten: after ERET it executes anew (R44). -/
def Ctx.fault (c : Ctx) (s : State) (rs : List TrapRec) : State :=
  match c.fork? with
  | some _ =>
    (c.stop s .verdict).modWarp c.k (fun W => { W with forks := W.forks.map (fun f =>
      if (f.gang &&& c.m) != 0 then { f with stopped := f.stopped ++ rs } else f) })
  | none =>
    (s.modWarp c.k (fun W =>
      (if W.held = [] then W else W.dropHeld rs).onSlices c.m (fun x => { x with wait := none, woken := false }))).trap c.k rs

/-- Poison consumed: held for the verdict in a continuation (R342), else the warp is killed. -/
def Ctx.poisoned (c : Ctx) (lane : Nat) (va : DWord) (pa : Option Nat) : State :=
  match c.fork? with
  | some _ =>
    (c.stop c.s .verdict).modWarp c.k (fun W => { W with forks := W.forks.map (fun f =>
      if (f.gang &&& c.m) != 0 then { f with fatal := some (lane, va, pa) } else f) })
  | none => c.s.killPoison c.k lane va pa

/-- The first address of each virtual page (4 KiB) among some. -/
def onePerPage (vas : List Nat) : List Nat :=
  (vas.foldl (fun acc a => if acc.any (fun b => b / 4096 == a / 4096) then acc else acc ++ [a]) [])

/-- The addresses among some for which no translation is cached, one for each virtual page, canonical addresses only. -/
def Ctx.missing (c : Ctx) (vas : List Nat) : List Nat :=
  if c.W.mode = .firmware then []
  else onePerPage (vas.filter (fun a => a < 2 ^ 48 && (c.s.cached c.W.core c.W.queue a).isNone))

/-- Whether two virtual 4 KiB pages lie on one page, as a walk finds it. -/
def State.samePage (s : State) (queue p q : Nat) : Bool :=
  p == q || (match s.walk queue (p * 4096) with
    | .ok t => q * 4096 / pageSize t.size == t.vpage
    | .error _ => false)

/-- A core waits for a page: it joins the walk of its die for that page, or the page's fault, or begins a walk (R88). -/
def State.startWalk (s : State) (core queue p : Nat) : State :=
  let joins (w : Walk) : Bool := w.queue == queue && w.cores.headD 0 / 192 == core / 192 && s.samePage queue p w.vpn
  let lost (f : PageFault) : Bool := f.queue == queue && f.vpn == p && f.pool.isNone
  let more (l : List Nat) : List Nat := if l.contains core then l else l ++ [core]
  if s.walks.any joins then
    { s with walks := s.walks.map (fun w => if joins w then { w with cores := more w.cores } else w) }
  else if s.faults.any lost then
    { s with faults := s.faults.map (fun f => if lost f then { f with cores := more f.cores } else f) }
  else State.bump { s with walks := s.walks ++ [(⟨queue, p, s.nextId, [core]⟩ : Walk)] }

/-- Begin walks for the pages that a core's accesses miss. -/
def State.startWalks (s : State) (core queue : Nat) (ps : List Nat) : State := ps.foldl (fun s p => s.startWalk core queue p) s

/-- A core's accesses wait for the pages of some addresses. -/
def State.startWalksAt (s : State) (core queue : Nat) (vas : List Nat) : State := s.startWalks core queue (vas.map (· / 4096))

/-- The effect in the slices that do not fault, then the faults of the others (R44, R331). -/
def Ctx.finish (c : Ctx) (K : Kit) (rs : List TrapRec) : State :=
  let fm := faultMask c rs
  let good := c.m &&& ~~~fm
  let c' := { c with m := good }
  let s := if good = 0 then c.s else c'.retire K.jumps (K.eff c')
  if rs = [] then s else { c with m := fm }.fault s rs

/-- The translation of an access: none where a page is still missing. -/
def Ctx.trans (c : Ctx) (va : Nat) : Option Trans :=
  if c.W.mode = .firmware then some (identityTrans va) else c.s.cached c.W.core c.W.queue va

/-- The uniformity check (R25, R335). -/
def Ctx.uniFaults (c : Ctx) : List TrapRec :=
  if c.W.uchk then
    (match c.W.nonUniform c.op c.w c.m with
     | some (f, v) => [{ c.recLead 4 with info0 := BitVec.ofNat 32 f, info1 := v }]
     | none => [])
  else []

/-- The slices of an instruction some of whose translations are still missing. -/
def Ctx.lostSlices (c : Ctx) (K : Kit) : BitVec 16 :=
  maskOf ((maskSlices c.m).filter (fun i => c.missing (K.first { c with m := sliceBit i } ++ K.pages { c with m := sliceBit i }) != []))

/-- From the value checks on (R318 steps 6 to 13). Of the slices that have their translations each takes its cause, and one that
kills, or poison that an acting lane consumes, does so before any page is resolved and any trap is taken (R331, R332, R341);
slices that fault wait with the others for what those wait for, and trap once these complete (R44). -/
def Ctx.perform (c : Ctx) (K : Kit) : State :=
  let pre := latch (c.uniFaults ++ K.check c)
  let c' := { c with m := c.m &&& ~~~(faultMask c pre) }
  let lost := c.missing (K.first c ++ (if c'.m = 0 then [] else K.pages c'))
  let on := if lost = [] then c'.m else c'.m &&& ~~~(c'.lostSlices K)
  let all := latch (pre ++ (if on = 0 then [] else K.wprot { c' with m := on }))
  if (c.s.deadly c.k all).isSome then c.fault c.s all
  else
  let c'' := { c with m := c.m &&& ~~~(faultMask c all) }
  match K.bad c'' with
  | some (lane, va, pa) => { c with s := K.spoilt c'' }.poisoned lane va pa
  | none =>
    match lost with
    | a :: as => c.stop (c.s.startWalksAt c.W.core c.W.queue (a :: as)) (.pages (a :: as))
    | [] =>
      match K.wait c'' with
      | (s, some why) => if c''.m = 0 then c.finish K all else c.stop s why
      | (s, none) =>
        match (if c''.m = 0 then none else K.late { c'' with s := s, W := s.warp c.k }) with
        | some (s, rs) => c.fault s rs
        | none => { c with s := s, W := s.warp c.k }.finish K all

/-- The address of the TXSEAL that follows in address order (R101), found by decoding forward. -/
def State.sealFrom (s : State) (W : Warp) : Nat → DWord → Option DWord
  | 0, _ => none
  | n + 1, pc =>
    let off := pc.toNat % 32
    match s.virtBytes W.queue pc.toNat (32 - off) with
    | none => none
    | some bs =>
      if off = 28 then s.sealFrom W n (pc + 4)
      else
        match decode bs 256 with
        | .ok i => match i.word with
          | some (o, l, _) => if o = .txseal then some pc else s.sealFrom W n (pc + BitVec.ofNat 64 l.bytes)
          | none => none
        | .error _ => s.sealFrom W n (pc + 4)

/-- Slices all of whose transaction lanes have aborted go on at TXSEAL with their saved counters (R102). -/
def State.txSkip (s : State) (k : Nat) (m : BitVec 16) : State × BitVec 16 :=
  let W := s.warp k
  match W.tx with
  | none => (s, 0)
  | some t =>
      let out := (maskSlices m).filter (fun i =>
        let ls := t.lanes.filter (fun l => l.1 / 4 == i)
        ls != [] && ls.all (fun l => l.2.cause != 0))
      match out with
      | [] => (s, 0)
      | i :: _ =>
        match s.sealFrom W 4096 (W.slice i).pc with
        | none => (s, 0)
        | some a =>
          if a = (W.slice i).pc then (s, 0)
          else
            (s.modWarp k (fun W => { (W.onSlices (maskOf out) (fun x => { x with pc := a, wait := none, woken := false })) with
              cnt := (lanesIn (maskOf out) W.width).foldl (fun m i => mput 0 m i (mget 0 t.cnt i)) W.cnt }), maskOf out)

/-- Leave the slices that go on at TXSEAL out of an issue. -/
def Ctx.skip (c : Ctx) : Ctx :=
  match c.W.tx with
  | none => c
  | some _ =>
    let (s, gone) := c.s.txSkip c.k c.m
    { c with s := s, W := s.warp c.k, m := c.m &&& ~~~gone, full := c.full &&& ~~~gone }

/-- An instruction that no transaction lane may run aborts the transaction lanes in which it acts with cause 5
(R102). -/
def Ctx.disallow (c : Ctx) (K : Kit) : Ctx :=
  if K.tx then c
  else
    match c.lanes.filter c.W.txLive with
    | [] => c
    | ls =>
      let s := ls.foldl (fun s i => s.txAbort c.k i 5 0) c.s
      Ctx.skip { c with s := s, W := s.warp c.k }

/-- One issue of an instruction, from the interlock to its retirement. -/
def Ctx.issue (c : Ctx) (K : Kit) : State :=
  let c := c.skip
  if c.m = 0 then c.s
  else
  match c.interlock with
  | r :: rs => c.stop c.s (.regs (r :: rs))
  | [] =>
    match (if c.W.sbchk then c.W.early c.op c.w else none) with
    | some r => c.fault c.s [{ c.recWord 5 with info0 := BitVec.ofNat 32 r }]
    | none =>
      match K.word c with
      | r :: _ => c.fault c.s [r]
      | [] =>
        if !K.fork && c.fork?.isSome && c.acts then c.stop c.s .verdict
        else
          match K.hold c with
          | some why => c.stop c.s why
          | none =>
            match c.W.poisonedRead c.op c.w c.m with
            | some lane => c.poisoned lane 0 none
            | none =>
              let c := c.disallow K
              if c.m = 0 then c.s else c.perform K

/-- Whether an instruction that has waited for a condition issues afterwards as if it had not waited. -/
def Cond.anew (c : Cond) : Bool :=
  match c with
  | .regs _ | .counter _ _ | .pages _ | .prefetch | .verdict | .verdicts | .matrix | .pool _ | .drain _ | .held _ => true
  | _ => false

/-- What a slice has been waiting for at its instruction, where the instruction goes on from there. -/
def Slice.kept (x : Slice) : Option Cond := x.wait.filter (fun c => !c.anew)

/-- The meaning of an instruction word: issue it for the gang that a slot has formed. -/
def run (o : Op) (len : Len) (w : Fields) (K : Kit) (s : State) : Host.Outcome State Fault Refusal :=
  match s.issue with
  | none => .fault .noGang
  | some g =>
    let W := (s.warp g.warp).landDue (s.warp g.warp).clk
    let s := { s with issue := none }.modWarp g.warp (fun _ => W)
    let x := W.slice ((maskSlices g.mask).headD 0)
    .next (Ctx.issue ⟨s, g.warp, W, g.mask, g.mask, g.pc, o, len, w, x.kept⟩ K)

/-! ### Operands of an issue -/

/-- pattern(A, i), integer. -/
def Ctx.a (c : Ctx) (i : Nat) : Word := c.W.opInt c.w.a i
/-- pattern(B, i), integer. -/
def Ctx.b (c : Ctx) (i : Nat) : Word := c.W.opInt c.w.b i
/-- pattern(C, i), integer. -/
def Ctx.c (c : Ctx) (i : Nat) : Word := c.W.opInt c.w.c i
/-- a64. -/
def Ctx.a64 (c : Ctx) (i : Nat) : DWord := c.W.op64 c.w.a i
/-- b64. -/
def Ctx.b64 (c : Ctx) (i : Nat) : DWord := c.W.op64 c.w.b i
/-- c64. -/
def Ctx.c64 (c : Ctx) (i : Nat) : DWord := c.W.op64 c.w.c i
/-- D as a source in lane i. -/
def Ctx.d (c : Ctx) (i : Nat) : Word := c.W.dReg c.w i 0
/-- MOD as a number. -/
def Ctx.mod (c : Ctx) : Nat := c.w.mod.toNat

/-! ### Results -/

/-- Write a fixed-latency result of the opcode's class in the lanes given. -/
def Ctx.put (c : Ctx) (s : State) (r : Nat) (vals : List (Nat × Word)) : State :=
  s.modWarp c.k (fun W => W.result (c.op.latency.getD 0) r vals)

/-- A per-lane result in every acting lane. -/
def Ctx.each (c : Ctx) (f : Nat → Word) : State := c.put c.s c.w.d.toNat (c.lanes.map (fun i => (i, f i)))

/-- A 64-bit per-lane result in D's pair. -/
def Ctx.each64 (c : Ctx) (f : Nat → DWord) : State :=
  let s := c.put c.s c.w.d.toNat (c.lanes.map (fun i => (i, loHalf (f i))))
  c.put s (c.w.d.toNat + 1) (c.lanes.map (fun i => (i, hiHalf (f i))))

/-- A per-lane float result with its flags (R62). -/
def Ctx.eachF (c : Ctx) (f : Nat → Word × FlagSet) : State :=
  (c.each (fun i => (f i).1)).modWarp c.k (fun W => W.raise (laneFlags (c.lanes.map (fun i => (f i).2))) c.m)

/-- A variable result supplied at once: it lands with the next LOAD_RETURN of its flight (R36, R37). -/
def Ctx.later (c : Ctx) (s : State) (cls : Nat) (vals : List (Nat × Nat × Word)) (regs : List Nat) : State :=
  s.launchFlight { warp := c.k, cls := cls, accs := [], vals := vals, regs := regs }

/-- A variable 32-bit result in D in every acting lane. -/
def Ctx.laterEach (c : Ctx) (s : State) (cls : Nat) (f : Nat → Word) : State :=
  c.later s cls (c.lanes.map (fun i => (c.w.d.toNat, i, f i))) [c.w.d.toNat]

/-- Pair values for a variable result. -/
def pairVals (r : Nat) (l : List (Nat × DWord)) : List (Nat × Nat × Word) :=
  l.foldr (fun x acc => (r, x.1, loHalf x.2) :: (r + 1, x.1, hiHalf x.2) :: acc) []

/-- The warp's quantum ends, with the verdicts of its FCALLs where it has some open (R111); a twin's ends the round of the warp
at the root of its family (R382). -/
def State.endQuantum (s : State) (k : Nat) : State :=
  let r := s.rootOf 4 k
  s.modWarp r (fun W => if r = k && W.forks != [] then { W with qwait := true } else { W with qdone := true, watchdog := 0 })

/-- A quantum end that has waited for the verdicts of a warp's FCALLs. -/
def State.settleQuantum (s : State) (k : Nat) : State :=
  s.modWarp k (fun W => if W.qwait && W.forks == [] then { W with qwait := false, qdone := true, watchdog := 0 } else W)

/-- A deferred effect joins the buffer of the warp, or of the root of its family (R111, R112, R382). -/
def State.defer (s : State) (k : Nat) (d : Deferred) : State :=
  s.modWarp (s.rootOf 4 k) (fun W => { W with buf := W.buf ++ [d] })

/-- Slices whose wait meets a condition on it have what they wait for, those saved by a trap included (R338). -/
def State.wake (s : State) (k : Nat) (p : Cond → Bool) : State :=
  let f (x : Slice) : Slice := match x.wait with
    | some c => if p c then { x with woken := true } else x
    | none => x
  s.modWarp k (fun W => { W with slices := W.slices.map f, savePc := W.savePc.map f })

/-- A progress event for the watchdog (R337). -/
def State.progress (s : State) (k : Nat) : State := s.modWarp k (fun W => { W with watchdog := 0 })

end Sys2Proof.Machine
end

