-- ==== Sys2Proof/Machine/Integer.lean ====
section
/-! DEFINITION. Integer and logic instructions, 0x000 to 0x020 (R199 to R201). -/

namespace Sys2Proof.Machine

/-- Clamp an exact sum to the signed range (R200). -/
def clampS (x : Int) : Word := BitVec.ofInt 32 (max (-(2 ^ 31)) (min (2 ^ 31 - 1) x))

/-- Clamp an exact sum to the unsigned range (R200). -/
def clampU (x : Int) : Word := BitVec.ofInt 32 (max 0 (min (2 ^ 32 - 1) x))

/-- IADD under its MOD (R200). -/
def iaddVal (m : Nat) (a b : Word) : Word :=
  match m with
  | 0 => a + b
  | 1 => clampS (a.toInt + b.toInt)
  | _ => clampU (a.toNat + b.toNat)

/-- ISUB under its MOD (R200). -/
def isubVal (m : Nat) (a b : Word) : Word :=
  match m with
  | 0 => a - b
  | 1 => clampS (a.toInt - b.toInt)
  | _ => clampU ((a.toNat : Int) - b.toNat)

/-- Bits 63:32 of the product (R200). -/
def imulhVal (uns : Bool) (a b : Word) : Word :=
  if uns then BitVec.ofNat 32 (a.toNat * b.toNat / 2 ^ 32) else BitVec.ofInt 32 (a.toInt * b.toInt / 2 ^ 32)

/-- The wide multiply-add (R200). -/
def imadwVal (uns : Bool) (a b : Word) (c : DWord) : DWord :=
  (if uns then BitVec.ofNat 64 (a.toNat * b.toNat) else BitVec.ofInt 64 (a.toInt * b.toInt)) + c

/-- IABS (R200). -/
def iabsVal (sat : Bool) (a : Word) : Word :=
  if a.toInt = -(2 ^ 31) then (if sat then 0x7FFFFFFF else 0x80000000) else BitVec.ofInt 32 a.toInt.natAbs

/-- The smaller of two words, signed or unsigned. -/
def minVal (uns : Bool) (a b : Word) : Word :=
  if uns then (if b.toNat < a.toNat then b else a) else (if b.toInt < a.toInt then b else a)

/-- The larger of two words, signed or unsigned. -/
def maxVal (uns : Bool) (a b : Word) : Word :=
  if uns then (if a.toNat < b.toNat then b else a) else (if a.toInt < b.toInt then b else a)

/-- A condition of R199 on an order: `lt a b`, `a = b`. -/
def condHolds (m : Nat) (lt eq gt : Bool) : Bool :=
  match m % 8 with
  | 0 => eq
  | 1 => !eq
  | 2 => lt
  | 3 => lt || eq
  | 4 => gt
  | _ => gt || eq

/-- ICMP and CMP64 on numbers of one width (R199): MOD[3] is `.u`. -/
def cmpVal {n : Nat} (m : Nat) (a b : BitVec n) : Bool :=
  if 8 ≤ m then condHolds m (decide (a.toNat < b.toNat)) (a == b) (decide (b.toNat < a.toNat))
  else condHolds m (decide (a.toInt < b.toInt)) (a == b) (decide (b.toInt < a.toInt))

/-- SHL (R200). -/
def shlVal (a n : Word) : Word := if 32 ≤ n.toNat then 0 else a <<< n.toNat
/-- SHR (R200). -/
def shrVal (a n : Word) : Word := if 32 ≤ n.toNat then 0 else a >>> n.toNat
/-- SAR (R200). -/
def sarVal (a n : Word) : Word := a.sshiftRight (min n.toNat 32)

/-- SHF: the funnel shift of c·2^32 + a by b mod 64 (R200). -/
def shfVal (left : Bool) (a b c : Word) : Word :=
  let x := pairOf a c
  let m := b.toNat % 64
  if left then hiHalf (x <<< m) else loHalf (x >>> m)

/-- BFN3: bit j of the result is the table's bit a_j + 2 b_j + 4 c_j (R200). -/
def bfn3Val (fn : BitVec 8) (a b c : Word) : Word :=
  (List.range 32).foldl (fun acc j =>
    if fn.getLsbD ((a.getLsbD j).toNat + 2 * (b.getLsbD j).toNat + 4 * (c.getLsbD j).toNat)
    then acc ||| ((1 : Word) <<< j) else acc) 0

/-- BFX (R200). -/
def bfxVal (signed : Bool) (a b c : Word) : Word :=
  let p := min b.toNat 32
  let l := min c.toNat (32 - p)
  let v := a.toNat / 2 ^ p % 2 ^ l
  if l = 0 then 0
  else if signed && v / 2 ^ (l - 1) % 2 = 1 then BitVec.ofInt 32 ((v : Int) - 2 ^ l)
  else BitVec.ofNat 32 v

/-- BFI (R200). -/
def bfiVal (a b c : Word) : Word :=
  let p := min (b.toNat % 256) 32
  let l := min (b.toNat / 256 % 256) (32 - p)
  let mask : Word := BitVec.ofNat 32 ((2 ^ l - 1) * 2 ^ p)
  (c &&& ~~~mask) ||| (BitVec.ofNat 32 (a.toNat % 2 ^ l * 2 ^ p) &&& mask)

/-- Number of one bits. -/
def popcount (a : Word) : Nat := ((List.range 32).filter a.getLsbD).length

/-- Leading zero bits (R200). -/
def clzVal (a : Word) : Nat := 32 - bitLen a.toNat

/-- BREV (R200). -/
def brevVal (a : Word) : Word :=
  (List.range 32).foldl (fun acc j => if a.getLsbD (31 - j) then acc ||| ((1 : Word) <<< j) else acc) 0

/-- PRMB (R200). -/
def prmbVal (a b c : Word) : Word :=
  let x := pairOf a b
  (List.range 4).foldr (fun j acc =>
    let y := x.extractLsb' (8 * (c.extractLsb' (4 * j) 3).toNat) 8
    let z : BitVec 8 := if c.getLsbD (4 * j + 3) then (if y.getLsbD 7 then 0xFF else 0) else y
    acc ||| (z.setWidth 32 <<< (8 * j))) 0

/-- The behaviour of `execIadd`. -/
def kitIadd : Kit :=
  { eff := fun c => c.each (fun i => iaddVal c.mod (c.a i) (c.b i)) }

/-- 0x000. -/
def execIadd (w : Fields) (s : State) : Host.Outcome State Fault Refusal := run .iadd .l96 w kitIadd s
/-- The behaviour of `execIsub`. -/
def kitIsub : Kit :=
  { eff := fun c => c.each (fun i => isubVal c.mod (c.a i) (c.b i)) }

/-- 0x001. -/
def execIsub (w : Fields) (s : State) : Host.Outcome State Fault Refusal := run .isub .l96 w kitIsub s
/-- The behaviour of `execIadd3`. -/
def kitIadd3 : Kit :=
  { eff := fun c => c.each (fun i => c.a i + c.b i + c.c i) }

/-- 0x002. -/
def execIadd3 (w : Fields) (s : State) : Host.Outcome State Fault Refusal := run .iadd3 .l96 w kitIadd3 s
/-- The behaviour of `execImul`. -/
def kitImul : Kit :=
  { eff := fun c => c.each (fun i => c.a i * c.b i) }

/-- 0x003. -/
def execImul (w : Fields) (s : State) : Host.Outcome State Fault Refusal := run .imul .l96 w kitImul s
/-- The behaviour of `execImulh`. -/
def kitImulh : Kit :=
  { eff := fun c => c.each (fun i => imulhVal (c.mod == 1) (c.a i) (c.b i)) }

/-- 0x004. -/
def execImulh (w : Fields) (s : State) : Host.Outcome State Fault Refusal := run .imulh .l96 w kitImulh s
/-- The behaviour of `execImad`. -/
def kitImad : Kit :=
  { eff := fun c => c.each (fun i => c.a i * c.b i + c.c i) }

/-- 0x005. -/
def execImad (w : Fields) (s : State) : Host.Outcome State Fault Refusal := run .imad .l96 w kitImad s
/-- The behaviour of `execImadw`. -/
def kitImadw : Kit :=
  { eff := fun c => c.each64 (fun i => imadwVal (c.mod == 1) (c.a i) (c.b i) (c.c64 i)) }

/-- 0x006. -/
def execImadw (w : Fields) (s : State) : Host.Outcome State Fault Refusal := run .imadw .l96 w kitImadw s
/-- The behaviour of `execIabs`. -/
def kitIabs : Kit :=
  { eff := fun c => c.each (fun i => iabsVal (c.mod == 1) (c.a i)) }

/-- 0x007. -/
def execIabs (w : Fields) (s : State) : Host.Outcome State Fault Refusal := run .iabs .l64 w kitIabs s
/-- The behaviour of `execImin`. -/
def kitImin : Kit :=
  { eff := fun c => c.each (fun i => minVal (c.mod == 1) (c.a i) (c.b i)) }

/-- 0x008. -/
def execImin (w : Fields) (s : State) : Host.Outcome State Fault Refusal := run .imin .l96 w kitImin s
/-- The behaviour of `execImax`. -/
def kitImax : Kit :=
  { eff := fun c => c.each (fun i => maxVal (c.mod == 1) (c.a i) (c.b i)) }

/-- 0x009. -/
def execImax (w : Fields) (s : State) : Host.Outcome State Fault Refusal := run .imax .l96 w kitImax s
/-- The behaviour of `execIcmp`. -/
def kitIcmp : Kit :=
  { eff := fun c => c.each (fun i => boolWord (cmpVal c.mod (c.a i) (c.b i))) }

/-- 0x00A. -/
def execIcmp (w : Fields) (s : State) : Host.Outcome State Fault Refusal := run .icmp .l96 w kitIcmp s
/-- The behaviour of `execSel`. -/
def kitSel : Kit :=
  { eff := fun c => c.each (fun i => if c.c i ≠ 0 then c.a i else c.b i) }

/-- 0x00B. -/
def execSel (w : Fields) (s : State) : Host.Outcome State Fault Refusal := run .sel .l96 w kitSel s
/-- The behaviour of `execShl`. -/
def kitShl : Kit :=
  { eff := fun c => c.each (fun i => shlVal (c.a i) (c.b i)) }

/-- 0x00C. -/
def execShl (w : Fields) (s : State) : Host.Outcome State Fault Refusal := run .shl .l96 w kitShl s
/-- The behaviour of `execShr`. -/
def kitShr : Kit :=
  { eff := fun c => c.each (fun i => shrVal (c.a i) (c.b i)) }

/-- 0x00D. -/
def execShr (w : Fields) (s : State) : Host.Outcome State Fault Refusal := run .shr .l96 w kitShr s
/-- The behaviour of `execSar`. -/
def kitSar : Kit :=
  { eff := fun c => c.each (fun i => sarVal (c.a i) (c.b i)) }

/-- 0x00E. -/
def execSar (w : Fields) (s : State) : Host.Outcome State Fault Refusal := run .sar .l96 w kitSar s
/-- The behaviour of `execShf`. -/
def kitShf : Kit :=
  { eff := fun c => c.each (fun i => shfVal (c.mod == 1) (c.a i) (c.b i) (c.c i)) }

/-- 0x00F. -/
def execShf (w : Fields) (s : State) : Host.Outcome State Fault Refusal := run .shf .l96 w kitShf s
/-- The behaviour of `execAnd`. -/
def kitAnd : Kit :=
  { eff := fun c => c.each (fun i => c.a i &&& c.b i) }

/-- 0x010. -/
def execAnd (w : Fields) (s : State) : Host.Outcome State Fault Refusal := run .and_ .l96 w kitAnd s
/-- The behaviour of `execOr`. -/
def kitOr : Kit :=
  { eff := fun c => c.each (fun i => c.a i ||| c.b i) }

/-- 0x011. -/
def execOr (w : Fields) (s : State) : Host.Outcome State Fault Refusal := run .or_ .l96 w kitOr s
/-- The behaviour of `execXor`. -/
def kitXor : Kit :=
  { eff := fun c => c.each (fun i => c.a i ^^^ c.b i) }

/-- 0x012. -/
def execXor (w : Fields) (s : State) : Host.Outcome State Fault Refusal := run .xor_ .l96 w kitXor s
/-- The behaviour of `execBfn3`. -/
def kitBfn3 : Kit :=
  { eff := fun c => c.each (fun i => bfn3Val c.w.ext (c.a i) (c.b i) (c.c i)) }

/-- 0x013. -/
def execBfn3 (w : Fields) (s : State) : Host.Outcome State Fault Refusal := run .bfn3 .l96 w kitBfn3 s
/-- The behaviour of `execBfx`. -/
def kitBfx : Kit :=
  { eff := fun c => c.each (fun i => bfxVal (c.mod == 1) (c.a i) (c.b i) (c.c i)) }

/-- 0x014. -/
def execBfx (w : Fields) (s : State) : Host.Outcome State Fault Refusal := run .bfx .l96 w kitBfx s
/-- The behaviour of `execBfi`. -/
def kitBfi : Kit :=
  { eff := fun c => c.each (fun i => bfiVal (c.a i) (c.b i) (c.c i)) }

/-- 0x015. -/
def execBfi (w : Fields) (s : State) : Host.Outcome State Fault Refusal := run .bfi .l96 w kitBfi s
/-- The behaviour of `execPopc`. -/
def kitPopc : Kit :=
  { eff := fun c => c.each (fun i => BitVec.ofNat 32 (popcount (c.a i))) }

/-- 0x016. -/
def execPopc (w : Fields) (s : State) : Host.Outcome State Fault Refusal := run .popc .l64 w kitPopc s
/-- The behaviour of `execClz`. -/
def kitClz : Kit :=
  { eff := fun c => c.each (fun i => BitVec.ofNat 32 (clzVal (c.a i))) }

/-- 0x017. -/
def execClz (w : Fields) (s : State) : Host.Outcome State Fault Refusal := run .clz .l64 w kitClz s
/-- The behaviour of `execBrev`. -/
def kitBrev : Kit :=
  { eff := fun c => c.each (fun i => brevVal (c.a i)) }

/-- 0x018. -/
def execBrev (w : Fields) (s : State) : Host.Outcome State Fault Refusal := run .brev .l64 w kitBrev s
/-- The behaviour of `execPrmb`. -/
def kitPrmb : Kit :=
  { eff := fun c => c.each (fun i => prmbVal (c.a i) (c.b i) (c.c i)) }

/-- 0x019. -/
def execPrmb (w : Fields) (s : State) : Host.Outcome State Fault Refusal := run .prmb .l96 w kitPrmb s
/-- The behaviour of `execMov`. -/
def kitMov : Kit :=
  { eff := fun c => c.each c.a }

/-- 0x01A. -/
def execMov (w : Fields) (s : State) : Host.Outcome State Fault Refusal := run .mov .l64 w kitMov s
/-- The behaviour of `execMovi`. -/
def kitMovi : Kit :=
  { eff := fun c => c.each (fun _ => c.w.imm) }

/-- 0x01B. -/
def execMovi (w : Fields) (s : State) : Host.Outcome State Fault Refusal := run .movi .l128 w kitMovi s
/-- The behaviour of `execLea`. -/
def kitLea : Kit :=
  { eff := fun c => c.each64 (fun _ => c.pc + c.w.imm.signExtend 64) }

/-- 0x01C. -/
def execLea (w : Fields) (s : State) : Host.Outcome State Fault Refusal := run .lea .l128 w kitLea s
/-- The behaviour of `execAdd64`. -/
def kitAdd64 : Kit :=
  { eff := fun c => c.each64 (fun i => c.a64 i + c.b64 i) }

/-- 0x01D. -/
def execAdd64 (w : Fields) (s : State) : Host.Outcome State Fault Refusal := run .add64 .l96 w kitAdd64 s
/-- The behaviour of `execCmp64`. -/
def kitCmp64 : Kit :=
  { eff := fun c => c.each (fun i => boolWord (cmpVal c.mod (c.a64 i) (c.b64 i))) }

/-- 0x01E. -/
def execCmp64 (w : Fields) (s : State) : Host.Outcome State Fault Refusal := run .cmp64 .l96 w kitCmp64 s

/-- A computed register number at or above the declared count (R201, R336): latched once, no lane writes. -/
def Ctx.regidx (c : Ctx) : List TrapRec :=
  match c.lanes.find? (fun i => c.W.bound ≤ (c.a i).toNat) with
  | some i => [{ c.flt i 3 with info0 := c.a i, whole := true, mask := c.m }]
  | none => []

/-- Registers named by computed numbers whose variable results are pending (R37). -/
def Ctx.computedWait (c : Ctx) : Option Cond :=
  match (c.lanes.map (fun i => (c.a i).toNat)).filter (c.s.pendingRegs c.k).contains with
  | [] => none
  | l => some (.regs l)

/-- A poisoned register read through a computed number (R340). -/
def Ctx.computedBad (c : Ctx) : Option (Nat × DWord × Option Nat) :=
  (c.lanes.find? (fun i => (mfind c.W.poison ((c.a i).toNat * 64 + i)).isSome)).map (fun i => (i, 0, none))

/-- The behaviour of `execMovx`. -/
def kitMovx : Kit :=
  { hold := Ctx.computedWait
    check := Ctx.regidx
    bad := Ctx.computedBad
    eff := fun c => c.s.modWarp c.k (fun W =>
      W.setReg c.w.d.toNat (c.lanes.map (fun i => (i, c.W.reg (c.a i).toNat i)))) }

/-- 0x01F: MOVX (R201). The warp issues nothing further until every lane's access has completed, so the access
completes with the issue. -/
def execMovx (w : Fields) (s : State) : Host.Outcome State Fault Refusal := run .movx .l64 w kitMovx s

/-- The behaviour of `execMovxw`. -/
def kitMovxw : Kit :=
  { hold := Ctx.computedWait
    check := Ctx.regidx
    eff := fun c => c.s.modWarp c.k (fun W =>
      c.lanes.foldl (fun W i => W.setReg (c.a i).toNat [(i, c.b i)]) W) }

/-- 0x020: MOVXW (R201). -/
def execMovxw (w : Fields) (s : State) : Host.Outcome State Fault Refusal := run .movxw .l64 w kitMovxw s

end Sys2Proof.Machine
end

