-- ==== Sys2Proof/Machine/Real.lean ====
section
/-! DEFINITION. The elementary functions of R205 and R206: the correctly rounded forms from fixed-point series far
below any rounding boundary of FP32, and the approximate forms, whose value is free within the bound of R205
Table 4. -/

namespace Sys2Proof

/-- A positive real known to lie between q × 2^e and (q + 1) × 2^e. -/
structure Near where
  q : Nat
  e : Int
  deriving DecidableEq, Repr

namespace Real0

/-- Bits of the fixed point. -/
abbrev bits : Nat := 700

/-- The fixed-point one. -/
def one : Nat := 2 ^ bits

/-- Σ z^(2k+1)/(2k+1) for k < n, with z² given: the series of atanh, in fixed point. -/
def atanhGo (z2 : Nat) : Nat → Nat → Nat → Nat
  | 0, _, _ => 0
  | n + 1, p, d => p / d + atanhGo z2 n (p * z2 / one) (d + 2)

/-- ln 2 = 2 atanh(1/3). -/
def ln2 : Nat := 2 * atanhGo (one / 9) 230 (one / 3) 1

/-- Σ (−1)^k / ((2k+1) m^(2k+1)): atan(1/m) in fixed point. -/
def atanInv (m : Nat) : Nat → Nat → Nat → Int
  | 0, _, _ => 0
  | n + 1, p, d => (p / d : Nat) - atanInv m n (p / (m * m)) (d + 2)

/-- π, by Machin's formula. -/
def pi : Nat := (16 * atanInv 5 160 (one / 5) 1 - 4 * atanInv 239 50 (one / 239) 1).toNat

/-- Σ y^k / k! in fixed point. -/
def expGo (y : Nat) : Nat → Nat → Nat → Nat
  | 0, _, _ => 0
  | n + 1, t, k => t + expGo y n (t * y / one / k) (k + 1)

/-- e^y for 0 ≤ y < 1. -/
def exp (y : Nat) : Nat := expGo y 150 one 1

/-- e^(−t) for t ≥ 0. -/
def expNeg (t : Nat) : Nat :=
  let n := t / ln2 + 1
  exp (n * ln2 - t) / 2 ^ n

/-- Alternating sum t − t r²/((k+1)(k+2)) + …: the series of sine (k = 1) and cosine (k = 0). -/
def trigGo (r2 : Nat) : Nat → Nat → Nat → Int
  | 0, _, _ => 0
  | n + 1, t, k => (t : Int) - trigGo r2 n (t * r2 / one / ((k + 1) * (k + 2))) (k + 2)

/-- sin r for 0 ≤ r < 2. -/
def sin (r : Nat) : Nat := (trigGo (r * r / one) 100 r 1).toNat

/-- cos r for 0 ≤ r < π/2. -/
def cos (r : Nat) : Nat := (trigGo (r * r / one) 100 one 0).toNat

/-- A magnitude m × 2^e in fixed point. -/
def fix (m : Nat) (e : Int) : Nat := (shiftRest m (e + bits)).1

/-- A fixed-point value as a Near, lowered by more than its error. -/
def near (v : Nat) : Near := ⟨v - 1024, -(bits : Int)⟩

/-- sin x or cos x of a positive finite x = m × 2^e, the argument reduced exactly: sign and magnitude. -/
def trig (isCos : Bool) (m : Nat) (e : Int) : Bool × Nat :=
  let x := fix m e
  let h := pi / 2
  let k := x / h
  let r := x - k * h
  match (if isCos then k + 1 else k) % 4 with
  | 0 => (false, sin r)
  | 1 => (false, cos r)
  | 2 => (true, sin r)
  | _ => (true, cos r)

end Real0

/-- The elementary functions. -/
inductive Elementary
  | rcp | rsq | sqrt | exp2 | log2 | sin | cos | tanh | sigm
  deriving DecidableEq, Repr

/-- What a function does with an input: a special result with its flags (R206), an exact finite value, or a real
known closely, with its sign. -/
inductive Eval
  | special (code : Nat) (f : FlagSet)
  | exact (v : FVal)
  | real (neg : Bool) (x : Near)
  deriving DecidableEq, Repr

/-- FP32 codes used below. -/
def infCode (neg : Bool) : Nat := Fmt.fp32.infCode + (if neg then Fmt.fp32.signBit else 0)

/-- The special values of R206 Table 5, and the functions elsewhere. -/
def Elementary.eval (f : Elementary) (x : FVal) : Eval :=
  let nan : Eval := .special Fmt.fp32.canon FlagSet.invalid
  let zero (n : Bool) : Eval := .special (if n then Fmt.fp32.signBit else 0) FlagSet.none
  let oneE : Eval := .special 0x3F800000 FlagSet.none
  match x with
  | .nan _ s _ => .special Fmt.fp32.canon { nv := s }
  | .inf n =>
    match f with
    | .rcp => zero n
    | .rsq => if n then nan else zero false
    | .sqrt => if n then nan else .special (infCode false) FlagSet.none
    | .exp2 => if n then zero false else .special (infCode false) FlagSet.none
    | .log2 => if n then nan else .special (infCode false) FlagSet.none
    | .sin | .cos => nan
    | .tanh => .special (if n then 0xBF800000 else 0x3F800000) FlagSet.none
    | .sigm => if n then zero false else oneE
  | .fin n m e =>
    if m = 0 then
      match f with
      | .rcp | .rsq => .special (infCode n) { dz := true }
      | .sqrt => zero n
      | .exp2 | .cos => oneE
      | .log2 => .special (infCode true) { dz := true }
      | .sin | .tanh => zero n
      | .sigm => .special 0x3F000000 FlagSet.none
    else
      let top : Int := e + (bitLen m : Int) - 1
      match f with
      | .rcp =>
        let q := 2 ^ 320 / m
        if q * m = 2 ^ 320 then .exact (.fin n q (-e - 320)) else .real n ⟨q, -e - 320⟩
      | .rsq =>
        if n then nan
        else
          let m' := if e % 2 = 0 then m else 2 * m
          let e' := if e % 2 = 0 then e else e - 1
          let r := isqrt (2 ^ 320 / m')
          if r * r * m' = 2 ^ 320 then .exact (.fin false r (-(e' / 2) - 160)) else .real false ⟨r, -(e' / 2) - 160⟩
      | .sqrt =>
        if n then nan
        else
          let m' := if e % 2 = 0 then m else 2 * m
          let e' := if e % 2 = 0 then e else e - 1
          let r := isqrt (m' * 2 ^ 128)
          if r * r = m' * 2 ^ 128 then .exact (.fin false r (e' / 2 - 64)) else .real false ⟨r, e' / 2 - 64⟩
      | .exp2 =>
        if 8 ≤ top then (if n then .real false ⟨1, -400⟩ else .exact (.fin false 1 1000))
        else
          let x := Real0.fix m e
          let k : Int := if n then -(((x + Real0.one - 1) / Real0.one : Nat) : Int) else (x / Real0.one : Nat)
          let fr : Nat := if n then ((-k).toNat * Real0.one - x) else x - k.toNat * Real0.one
          if fr = 0 then .exact (.fin false 1 k)
          else
            let r := Real0.near (Real0.exp (fr * Real0.ln2 / Real0.one))
            .real false ⟨r.q, r.e + k⟩
      | .log2 =>
        if n then nan
        else if m = 1 then (if top = 0 then zero false else .exact (FVal.ofInt false top 0))
        else if m = 2 ^ (bitLen m - 1) then (if top = 0 then zero false else .exact (FVal.ofInt false top 0))
        else
          let g := Real0.fix m (e - top)
          let z := (g - Real0.one) * Real0.one / (g + Real0.one)
          let l := 2 * Real0.atanhGo (z * z / Real0.one) 230 z 1
          let v : Int := top * Real0.one + (l * Real0.one / Real0.ln2 : Nat)
          if v < 0 then .real true ⟨v.natAbs - 1024, -(Real0.bits : Int)⟩ else .real false ⟨v.natAbs - 1024, -(Real0.bits : Int)⟩
      | .sin =>
        let (s, v) := Real0.trig false m e
        .real (s != n) (Real0.near v)
      | .cos =>
        let (s, v) := Real0.trig true m e
        .real s (Real0.near v)
      | .tanh =>
        if 7 ≤ top then .real n ⟨Real0.one - 1, -(Real0.bits : Int)⟩
        else
          let t := Real0.expNeg (2 * Real0.fix m e)
          .real n (Real0.near ((Real0.one - t) * Real0.one / (Real0.one + t)))
      | .sigm =>
        if 8 ≤ top then (if n then .real false ⟨1, -400⟩ else .real false ⟨Real0.one - 1, -(Real0.bits : Int)⟩)
        else
          let t := Real0.expNeg (Real0.fix m e)
          let num := if n then t else Real0.one
          .real false (Real0.near (num * Real0.one / (Real0.one + t)))

/-- The correctly rounded form, with the flags of IEEE 754-2019 (R205). -/
def Elementary.exactForm (f : Elementary) (mode : RMode) (a : Word) : Word × FlagSet :=
  match f.eval (Fmt.fp32.decode a.toNat) with
  | .special c fl => (BitVec.ofNat 32 c, fl)
  | .exact v =>
    let (c, fl) := Fmt.fp32.round mode false v
    (BitVec.ofNat 32 c, fl)
  | .real n x =>
    let (c, fl) := Fmt.fp32.roundSticky mode n x.q x.e true
    (BitVec.ofNat 32 c, fl)

/-- The bound of R205 Table 4 for a result of this magnitude, as a power of two times a count. FLOG2's absolute bound
is taken in place of the 2 ulp where it is the wider one, for 0.5 ≤ x ≤ 2, so that a result which meets either reading
of the table is covered (DEDUCED, log entry 3). -/
def Elementary.bound (f : Elementary) (x : FVal) (y : Near) : Nat × Int :=
  let top : Int := y.e + (bitLen y.q : Int) - 1
  let ulp : Int := max top (-126) - 23
  match f with
  | .rcp | .rsq | .sqrt => (1, ulp)
  | .exp2 => (2, ulp)
  | .log2 => if (FVal.ofInt false 1 (-1)).lt x || (FVal.ofInt false 1 (-1)).eq x then
      (if (FVal.int2).lt x then (2, ulp) else if -22 < ulp + 1 then (2, ulp) else (1, -22)) else (2, ulp)
  | .sin | .cos => (1, -21)
  | .tanh => (1, -22)
  | .sigm => (1, -23)
where
  /-- The number 2. -/
  FVal.int2 : FVal := .fin false 1 1

/-- Whether a candidate code lies within the bound of the true value. -/
def Elementary.within (f : Elementary) (x : FVal) (neg : Bool) (y : Near) (cand : Word) : Bool :=
  match Fmt.fp32.decode cand.toNat with
  | .fin n m e =>
    let (k, b) := f.bound x y
    let low := min (min e y.e) b
    let c : Int := (if n then -(m : Int) else m) * 2 ^ (e - low).toNat
    let t : Int := (if neg then -(y.q : Int) else y.q) * 2 ^ (y.e - low).toNat
    (c - t).natAbs ≤ k * 2 ^ (b - low).toNat + 2 ^ (y.e - low).toNat
  | _ => false

/-- The approximate form (R61, R205): the part's own bits where they meet the bound, which is all that the
architecture says of them; the correctly rounded value in place of a candidate outside the bound. NX for every
input that Table 5 does not list, OF and UF as the result requires. -/
def Elementary.approxForm (f : Elementary) (code : Nat) (a : Word) : Word × FlagSet :=
  let x := Fmt.fp32.decode a.toNat
  let exact := (f.exactForm .rne a).1
  let flagsOf (r : Word) : FlagSet :=
    match Fmt.fp32.decode r.toNat with
    | .inf _ => { of := true, nx := true }
    | .fin _ m _ => { uf := decide (m < 2 ^ 23), nx := true }
    | .nan _ _ _ => { nx := true }
  match f.eval x with
  | .special c fl => (BitVec.ofNat 32 c, fl)
  | .exact v =>
    let y : Near := match v with
      | .fin _ m e => ⟨m, e⟩
      | _ => ⟨1, 1000⟩
    let cand := Config.approx code a
    let r := if f.within x v.isNeg y cand then cand else exact
    (r, flagsOf r)
  | .real n y =>
    let cand := Config.approx code a
    let r := if f.within x n y cand then cand else exact
    (r, flagsOf r)

end Sys2Proof
end

