-- ==== Sys2Proof/Machine/FloatOps.lean ====
section
/-! DEFINITION. Float instructions and conversions, 0x080 to 0x09B (R199, R202 to R210). -/

namespace Sys2Proof.Machine

/-- An operation on one format under the operand types of R202: FP32, two FP16 halves or two BF16 halves. -/
def packed (m : Nat) (f : Fmt → List Nat → Nat × FlagSet) (xs : List Word) : Word × FlagSet :=
  let two (F : Fmt) : Word × FlagSet :=
    let lo := f F (xs.map (fun x => (x.extractLsb' 0 16).toNat))
    let hi := f F (xs.map (fun x => (x.extractLsb' 16 16).toNat))
    (BitVec.ofNat 32 (lo.1 + 65536 * hi.1), lo.2.or hi.2)
  match m / 4 % 4 with
  | 0 =>
    let r := f Fmt.fp32 (xs.map (·.toNat))
    (BitVec.ofNat 32 r.1, r.2)
  | 1 => two Fmt.fp16
  | _ => two Fmt.bf16

/-- An operand of a form of R202 in lane i: a short immediate takes the form's format (R34, R202). -/
def Ctx.fop (c : Ctx) (o : Operand) (i : Nat) : Word :=
  match c.mod / 4 % 4 with
  | 0 => c.W.opF32 o i
  | 1 => c.W.opPacked Fmt.fp16 2 o i
  | _ => c.W.opPacked Fmt.bf16 2 o i

/-- The rounding mode in MOD[1:0]. -/
def Ctx.mode (c : Ctx) : RMode := RMode.ofMod c.w.mod

/-- The effect of a two-operand form of R202. -/
def Ctx.float2 (c : Ctx) (f : Fmt → Nat → Nat → Nat × FlagSet) : State :=
  c.eachF (fun i => packed c.mod (fun F l => f F (l.getD 0 0) (l.getD 1 0)) [c.fop c.w.a i, c.fop c.w.b i])

/-- The effect of FFMA. -/
def Ctx.float3 (c : Ctx) (f : Fmt → Nat → Nat → Nat → Nat × FlagSet) : State :=
  c.eachF (fun i => packed c.mod (fun F l => f F (l.getD 0 0) (l.getD 1 0) (l.getD 2 0))
    [c.fop c.w.a i, c.fop c.w.b i, c.fop c.w.c i])

/-- The behaviour of `execFadd`. -/
def kitFadd : Kit :=
  { eff := fun c => c.float2 (fun F => F.fadd c.mode) }

/-- 0x080. -/
def execFadd (w : Fields) (s : State) : Host.Outcome State Fault Refusal := run .fadd .l96 w kitFadd s
/-- The behaviour of `execFsub`. -/
def kitFsub : Kit :=
  { eff := fun c => c.float2 (fun F => F.fsub c.mode) }

/-- 0x081. -/
def execFsub (w : Fields) (s : State) : Host.Outcome State Fault Refusal := run .fsub .l96 w kitFsub s
/-- The behaviour of `execFmul`. -/
def kitFmul : Kit :=
  { eff := fun c => c.float2 (fun F => F.fmul c.mode) }

/-- 0x082. -/
def execFmul (w : Fields) (s : State) : Host.Outcome State Fault Refusal := run .fmul .l96 w kitFmul s
/-- The behaviour of `execFfma`. -/
def kitFfma : Kit :=
  { eff := fun c => c.float3 (fun F => F.ffma c.mode) }

/-- 0x083. -/
def execFfma (w : Fields) (s : State) : Host.Outcome State Fault Refusal := run .ffma .l96 w kitFfma s
/-- The behaviour of `execFmin`. -/
def kitFmin : Kit :=
  { eff := fun c => c.float2 (fun F => F.minmax false) }

/-- 0x084. -/
def execFmin (w : Fields) (s : State) : Host.Outcome State Fault Refusal := run .fmin .l96 w kitFmin s
/-- The behaviour of `execFmax`. -/
def kitFmax : Kit :=
  { eff := fun c => c.float2 (fun F => F.minmax true) }

/-- 0x085. -/
def execFmax (w : Fields) (s : State) : Host.Outcome State Fault Refusal := run .fmax .l96 w kitFmax s

/-- FCMP on two FP32 codes (R199, R203): the answer, and NV. -/
def fcmpVal (m : Nat) (a b : Word) : Word × FlagSet :=
  let x := Fmt.fp32.decode a.toNat
  let y := Fmt.fp32.decode b.toNat
  let un := x.isNan || y.isNan
  let snan := x.isSnan || y.isSnan
  let ordered := 2 ≤ m && m ≤ 5
  let holds := match m with
    | 1 => un || !x.eq y
    | 6 => un
    | _ => !un && condHolds m (x.lt y) (x.eq y) (y.lt x)
  (boolWord holds, { nv := snan || (ordered && un) })

/-- The behaviour of `execFcmp`. -/
def kitFcmp : Kit :=
  { eff := fun c => c.eachF (fun i => fcmpVal c.mod (c.W.opF32 c.w.a i) (c.W.opF32 c.w.b i)) }

/-- 0x086. -/
def execFcmp (w : Fields) (s : State) : Host.Outcome State Fault Refusal := run .fcmp .l96 w kitFcmp s
/-- The behaviour of `execFclass`. -/
def kitFclass : Kit :=
  { eff := fun c => c.each (fun i =>
    BitVec.ofNat 32 (2 ^ Fmt.fp32.classBit (c.W.opF32 c.w.a i).toNat)) }

/-- 0x087. -/
def execFclass (w : Fields) (s : State) : Host.Outcome State Fault Refusal := run .fclass .l64 w kitFclass s

/-- A determinism trap that the word alone raises (R125, R319). -/
def Ctx.determWord (c : Ctx) (reason : Nat) : List TrapRec :=
  [{ c.recWord 0x50 with info0 := BitVec.ofNat 32 reason, info1 := BitVec.ofNat 32 c.op.code.toNat }]

/-- The behaviour of a function of R205: approximate under MOD 0, correctly rounded under `.exact`. At D3 the
approximate form traps (R125). -/
def kitElementary (f : Elementary) : Kit :=
  { word := fun c => if c.mod = 0 && f != .sqrt && c.W.detlvl = 3 then c.determWord 3 else []
    eff := fun c => c.eachF (fun i =>
      let a := c.W.opF32 c.w.a i
      if c.mod = 0 && f != .sqrt then f.approxForm c.op.code.toNat a else f.exactForm c.mode a) }

/-- A function of R205. -/
def elementary (f : Elementary) (o : Op) (w : Fields) (s : State) : Host.Outcome State Fault Refusal :=
  run o .l64 w (kitElementary f) s

/-- 0x088. -/
def execFrcp (w : Fields) (s : State) : Host.Outcome State Fault Refusal := elementary .rcp .frcp w s
/-- 0x089. -/
def execFrsq (w : Fields) (s : State) : Host.Outcome State Fault Refusal := elementary .rsq .frsq w s
/-- 0x08A. -/
def execFsqrt (w : Fields) (s : State) : Host.Outcome State Fault Refusal := elementary .sqrt .fsqrt w s
/-- 0x08B. -/
def execFexp2 (w : Fields) (s : State) : Host.Outcome State Fault Refusal := elementary .exp2 .fexp2 w s
/-- 0x08C. -/
def execFlog2 (w : Fields) (s : State) : Host.Outcome State Fault Refusal := elementary .log2 .flog2 w s
/-- 0x08D. -/
def execFsin (w : Fields) (s : State) : Host.Outcome State Fault Refusal := elementary .sin .fsin w s
/-- 0x08E. -/
def execFcos (w : Fields) (s : State) : Host.Outcome State Fault Refusal := elementary .cos .fcos w s
/-- 0x08F. -/
def execFtanh (w : Fields) (s : State) : Host.Outcome State Fault Refusal := elementary .tanh .ftanh w s
/-- 0x090. -/
def execFsigm (w : Fields) (s : State) : Host.Outcome State Fault Refusal := elementary .sigm .fsigm w s

/-- The products of the elements of two words. -/
def elemPairs (F G : Fmt) (n : Nat) (a b : Word) : List (FVal × FVal) :=
  (List.range n).map (fun j =>
    (F.decode (a.extractLsb' (F.width * j) F.width).toNat, G.decode (b.extractLsb' (G.width * j) G.width).toNat))

/-- The behaviour of `execFdot2`. -/
def kitFdot2 : Kit :=
  { eff := fun c => (
    let F := if c.mod / 4 % 4 = 0 then Fmt.fp16 else Fmt.bf16
    c.eachF (fun i => fdot c.mode (elemPairs F F 2 (c.W.opPacked F 2 c.w.a i) (c.W.opPacked F 2 c.w.b i))
      (Fmt.fp32.decode (c.W.opF32 c.w.c i).toNat))) }

/-- 0x091. -/
def execFdot2 (w : Fields) (s : State) : Host.Outcome State Fault Refusal := run .fdot2 .l96 w kitFdot2 s
/-- The behaviour of `execFdot4`. -/
def kitFdot4 : Kit :=
  { eff := fun c => (
    let F := if c.mod / 4 % 4 = 1 then Fmt.e5m2 else Fmt.e4m3
    let G := if c.mod / 4 % 4 = 0 then Fmt.e4m3 else Fmt.e5m2
    c.eachF (fun i => fdot c.mode (elemPairs F G 4 (c.W.opPacked F 4 c.w.a i) (c.W.opPacked G 4 c.w.b i))
      (Fmt.fp32.decode (c.W.opF32 c.w.c i).toNat))) }

/-- 0x092. -/
def execFdot4 (w : Fields) (s : State) : Host.Outcome State Fault Refusal := run .fdot4 .l96 w kitFdot4 s

/-- A code with its flags as a register value. -/
def asWord (r : Nat × FlagSet) : Word × FlagSet := (BitVec.ofNat 32 r.1, r.2)

/-- The behaviour of `execFscale`. -/
def kitFscale : Kit :=
  { eff := fun c => c.eachF (fun i =>
    asWord (Fmt.fp32.fscale c.mode (c.W.opF32 c.w.a i).toNat (c.b i).toInt)) }

/-- 0x093. -/
def execFscale (w : Fields) (s : State) : Host.Outcome State Fault Refusal := run .fscale .l96 w kitFscale s
/-- The behaviour of `execFrnd`. -/
def kitFrnd : Kit :=
  { eff := fun c => c.eachF (fun i => asWord (Fmt.fp32.frnd c.mode (c.W.opF32 c.w.a i).toNat)) }

/-- 0x094. -/
def execFrnd (w : Fields) (s : State) : Host.Outcome State Fault Refusal := run .frnd .l64 w kitFrnd s

/-- A format code of CVTF (R207). -/
def cvtFmt (n : Nat) : Fmt :=
  match n with
  | 0 => Fmt.fp32
  | 1 => Fmt.fp16
  | _ => Fmt.bf16

/-- CVTF (R207): widening is exact and keeps a NaN's fraction; equal formats only make a NaN canonical. -/
def cvtfVal (src dst : Nat) (mode : RMode) (a : Word) : Word × FlagSet :=
  let F := cvtFmt src
  let G := cvtFmt dst
  let x := if src = 0 then a.toNat else (a.extractLsb' 0 16).toNat
  if dst = 0 && src ≠ 0 then asWord (F.widen G x)
  else
    let v := F.decode x
    let r := G.round mode false v
    asWord (r.1, r.2.or { nv := v.isSnan })

/-- The behaviour of `execCvtf`. -/
def kitCvtf : Kit :=
  { eff := fun c => c.eachF (fun i =>
    let src := c.mod / 4 % 4
    cvtfVal src (c.mod / 16 % 4) c.mode (if src = 0 then c.W.opF32 c.w.a i else c.W.opPacked (cvtFmt src) 1 c.w.a i)) }

/-- 0x095. The source is a register position of 16 or 32 bits; a short immediate there is converted to the source
format (R34). -/
def execCvtf (w : Fields) (s : State) : Host.Outcome State Fault Refusal := run .cvtf .l64 w kitCvtf s
/-- The behaviour of `execCvtfi`. -/
def kitCvtfi : Kit :=
  { eff := fun c => c.eachF (fun i => cvtfi c.mode (c.w.mod.getLsbD 2) (c.W.opF32 c.w.a i)) }

/-- 0x096. -/
def execCvtfi (w : Fields) (s : State) : Host.Outcome State Fault Refusal := run .cvtfi .l64 w kitCvtfi s
/-- The behaviour of `execCvtif`. -/
def kitCvtif : Kit :=
  { eff := fun c => c.eachF (fun i => cvtif c.mode (c.w.mod.getLsbD 2) (c.a i)) }

/-- 0x097. -/
def execCvtif (w : Fields) (s : State) : Host.Outcome State Fault Refusal := run .cvtif .l64 w kitCvtif s

/-- PACK16: two FP32 values rounded to 16 bits (R202). -/
def pack16Val (bf : Bool) (mode : RMode) (a b : Word) : Word × FlagSet :=
  let F := if bf then Fmt.bf16 else Fmt.fp16
  let one (x : Word) : Nat × FlagSet :=
    let v := Fmt.fp32.decode x.toNat
    let r := F.round mode false v
    (r.1, r.2.or { nv := v.isSnan })
  asWord ((one a).1 + 65536 * (one b).1, (one a).2.or (one b).2)

/-- The behaviour of `execPack16`. -/
def kitPack16 : Kit :=
  { eff := fun c => c.eachF (fun i =>
    pack16Val (c.w.mod.getLsbD 2) c.mode (c.W.opF32 c.w.a i) (c.W.opF32 c.w.b i)) }

/-- 0x098. -/
def execPack16 (w : Fields) (s : State) : Host.Outcome State Fault Refusal := run .pack16 .l96 w kitPack16 s

/-- The 16-bit format that MOD[3] chooses (R208). -/
def halfFmt (m : BitVec 6) : Fmt := if m.getLsbD 3 then Fmt.bf16 else Fmt.fp16

/-- The four source values of a lane's pair. -/
def Ctx.four (c : Ctx) (i : Nat) : List FVal := (halves (c.a64 i)).map (halfFmt c.w.mod).decode

/-- The behaviour of `execQnt`. -/
def kitQnt : Kit :=
  { eff := fun c => c.eachF (fun i =>
    qnt (Elem.ofCode (c.mod % 8)) ((c.b i).extractLsb' 0 8).toNat (c.four i)) }

/-- 0x099. -/
def execQnt (w : Fields) (s : State) : Host.Outcome State Fault Refusal := run .qnt .l96 w kitQnt s

/-- The behaviour of `execDqnt`. -/
def kitDqnt : Kit :=
  { eff := fun c =>
    let r (i : Nat) : List Nat × FlagSet :=
      dqnt (Elem.ofCode (c.mod % 8)) (halfFmt c.w.mod) ((c.b i).extractLsb' 0 8).toNat (c.a i)
    let val (i : Nat) : DWord := BitVec.ofNat 64 (leNat (halvesBytes (r i).1))
    (c.each64 val).modWarp c.k (fun W => W.raise (laneFlags (c.lanes.map (fun i => (r i).2))) c.m) }

/-- 0x09A. -/
def execDqnt (w : Fields) (s : State) : Host.Outcome State Fault Refusal := run .dqnt .l96 w kitDqnt s

/-- The behaviour of `execMxscale`. -/
def kitMxscale : Kit :=
  { eff := fun c =>
    if !c.acts then c.s
    else
      let r := blockScale (Elem.ofCode (c.mod % 8)) (c.lanes.foldr (fun i acc => c.four i ++ acc) [])
      (c.each (fun _ => BitVec.ofNat 32 r.1)).modWarp c.k (fun W => W.raise r.2.bits c.m) }

/-- 0x09B: the scale code of the active lanes' elements as one block (R210). -/
def execMxscale (w : Fields) (s : State) : Host.Outcome State Fault Refusal := run .mxscale .l64 w kitMxscale s

end Sys2Proof.Machine
end

