-- ==== Sys2Proof/Machine/Lanes.lean ====
section
/-! DEFINITION. Permute, vote and reduce, 0x100 to 0x108 (R64, R211 to R216). -/

namespace Sys2Proof.Machine

/-- The lane that SHFL reads for lane i, if it lies in the segment (R212). -/
def shflLane (m : BitVec 6) (width i : Nat) (b : Word) : Option Nat :=
  let seg := (m.extractLsb' 2 3).toNat
  let g := if seg = 0 then width else min width (2 ^ seg)
  let p := i % g
  let t : Int := match (m.extractLsb' 0 2).toNat with
    | 0 => b.toNat
    | 1 => (p : Int) - b.toNat
    | 2 => p + b.toNat
    | _ => ((p ^^^ b.toNat : Nat) : Int)
  if 0 ≤ t ∧ t < g then some (i - p + t.toNat) else none

/-- Whether a lane holds a poisoned register of A's field (R340). -/
def Ctx.badA (c : Ctx) (i : Nat) : Bool :=
  c.W.poison != [] && ((c.op.roles c.w).a.fieldRegs c.w.a).any (fun rg => (List.range rg.2).any (fun j =>
    (mfind c.W.poison ((rg.1 + j) * 64 + c.w.a.lane c.W.width i)).isSome))

/-- An acting lane that reads a poisoned register of another lane (R340). -/
def Ctx.badFrom (c : Ctx) (src : Nat → Option Nat) : Option (Nat × DWord × Option Nat) :=
  (c.lanes.find? (fun i => (src i).any c.badA)).map (fun i => (i, 0, none))

/-- The lane whose A SHFL reads for lane i (R212). -/
def Ctx.shflFrom (c : Ctx) (i : Nat) : Option Nat := shflLane c.w.mod c.W.width i (c.b i)

/-- The behaviour of `execShfl`. -/
def kitShfl : Kit :=
  { bad := fun c => c.badFrom c.shflFrom
    eff := fun c => c.each (fun i =>
    match c.shflFrom i with
    | some j => c.W.reg c.w.a.reg.toNat j
    | none => c.c i) }

/-- 0x100. -/
def execShfl (w : Fields) (s : State) : Host.Outcome State Fault Refusal := run .shfl .l96 w kitShfl s

/-- The set lanes: active with a ≠ 0 (R213). -/
def Ctx.setLanes (c : Ctx) : List Nat := c.lanes.filter (fun i => c.a i != 0)

/-- A mask of lanes. -/
def laneMask (l : List Nat) : DWord := l.foldl (fun m i => m ||| ((1 : DWord) <<< i)) 0

/-- A count as a word. -/
def countWord (l : List Nat) : Word := BitVec.ofNat 32 l.length

/-- The lanes of a list below lane i. -/
def below (l : List Nat) (i : Nat) : List Nat := l.filter (· < i)

/-- The behaviour of `execVote`. -/
def kitVote : Kit :=
  { eff := fun c =>
    match c.mod with
    | 0 => c.each64 (fun _ => laneMask c.setLanes)
    | 1 => c.each (fun _ => countWord c.setLanes)
    | 2 => c.each (fun i => countWord (below c.setLanes i))
    | 3 => c.each (fun _ => boolWord (c.setLanes == c.lanes))
    | 4 => c.each (fun _ => boolWord (c.setLanes != []))
    | _ => c.each (fun _ => boolWord (c.lanes.all (fun i => c.a i == c.a c.lead))) }

/-- 0x101. -/
def execVote (w : Fields) (s : State) : Host.Outcome State Fault Refusal := run .vote .l64 w kitVote s

/-- The active lanes whose value equals lane i's (R213). -/
def Ctx.sameLanes (c : Ctx) (i : Nat) : List Nat := c.lanes.filter (fun j => c.a j == c.a i)

/-- The behaviour of `execMatch`. -/
def kitMatch : Kit :=
  { eff := fun c =>
    match c.mod with
    | 0 => c.each (fun i => BitVec.ofNat 32 ((c.sameLanes i).headD 0))
    | 1 => c.each64 (fun i => laneMask (c.sameLanes i))
    | _ => c.each (fun i => countWord (below (c.sameLanes i) i)) }

/-- 0x102. -/
def execMatch (w : Fields) (s : State) : Host.Outcome State Fault Refusal := run .matchL .l64 w kitMatch s

/-- A lane number, or all ones where there is none. -/
def laneWord (o : Option Nat) : Word :=
  match o with
  | some i => BitVec.ofNat 32 i
  | none => 0xFFFFFFFF

/-- The behaviour of `execFlane`. -/
def kitFlane : Kit :=
  { eff := fun c => (
    c.each (fun _ => laneWord (if c.mod = 0 then c.setLanes.head? else c.setLanes.getLast?))) }

/-- 0x103. -/
def execFlane (w : Fields) (s : State) : Host.Outcome State Fault Refusal := run .flane .l64 w kitFlane s

/-- The identity of an op of R214. -/
def treeIdentity (op : Nat) : Word :=
  match op with
  | 0 => 0x80000000
  | 1 => 0x7F800000
  | 2 => 0xFF800000
  | 3 => 0
  | 4 => 0x7FFFFFFF
  | 5 => 0x80000000
  | 6 => 0xFFFFFFFF
  | _ => 0

/-- One step of a tree: the lower lane's value on the left (R64, R214). -/
def treeOp (op : Nat) (x y : Word) : Word × FlagSet :=
  match op with
  | 0 => asWord (Fmt.fp32.fadd .rne x.toNat y.toNat)
  | 1 => asWord (Fmt.fp32.minmax false x.toNat y.toNat)
  | 2 => asWord (Fmt.fp32.minmax true x.toNat y.toNat)
  | 3 => (x + y, FlagSet.none)
  | 4 => (minVal false x y, FlagSet.none)
  | 5 => (maxVal false x y, FlagSet.none)
  | 6 => (x &&& y, FlagSet.none)
  | _ => (x ||| y, FlagSet.none)

/-- One level of WRED's tree at distance d (R64). -/
def reduceStep (op d : Nat) (x : List Word × FlagSet) : List Word × FlagSet :=
  let r := x.1.zipIdx.map (fun e =>
    if e.2 % (2 * d) = 0 then treeOp op e.1 (x.1.getD (e.2 + d) 0) else (e.1, FlagSet.none))
  (r.map (·.1), x.2.or (FlagSet.all (r.map (·.2))))

/-- One level of WSCAN's tree at distance d (R64). -/
def scanStep (op d : Nat) (x : List Word × FlagSet) : List Word × FlagSet :=
  let r := x.1.zipIdx.map (fun e =>
    if d ≤ e.2 then treeOp op (x.1.getD (e.2 - d) 0) e.1 else (e.1, FlagSet.none))
  (r.map (·.1), x.2.or (FlagSet.all (r.map (·.2))))

/-- The levels of a tree over a warp: d = 1, 2, 4, …, W/2. -/
def treeLevels (width : Nat) : List Nat := (List.range (Nat.log2 width)).map (2 ^ ·)

/-- The values that enter a tree: the identity in every lane that does not act (R64). The operand of `.fadd`, `.fmin`
and `.fmax` stands in an FP32 position (R214). -/
def Ctx.leaves (c : Ctx) (op : Nat) : List Word :=
  (List.range c.W.width).map (fun i => if c.lanes.contains i then c.W.opNum (op % 8 ≤ 2) c.w.a i else treeIdentity op)

/-- Raise the flags of a tree. -/
def Ctx.raised (c : Ctx) (s : State) (f : FlagSet) : State := s.modWarp c.k (fun W => W.raise f.bits c.m)

/-- The behaviour of `execWred`. -/
def kitWred : Kit :=
  { eff := fun c => (
    let r := (treeLevels c.W.width).foldl (fun x d => reduceStep c.mod d x) (c.leaves c.mod, FlagSet.none)
    if !c.acts then c.s else c.raised (c.each (fun _ => r.1.getD 0 0)) r.2) }

/-- 0x104. -/
def execWred (w : Fields) (s : State) : Host.Outcome State Fault Refusal := run .wred .l64 w kitWred s

/-- The behaviour of `execWscan`. -/
def kitWscan : Kit :=
  { eff := fun c => (
    let op := c.mod % 8
    let r := (treeLevels c.W.width).foldl (fun x d => scanStep op d x) (c.leaves op, FlagSet.none)
    let val (i : Nat) : Word :=
      if 8 ≤ c.mod then (if i = 0 then treeIdentity op else r.1.getD (i - 1) 0) else r.1.getD i 0
    if !c.acts then c.s else c.raised (c.each val) r.2) }

/-- 0x105. -/
def execWscan (w : Fields) (s : State) : Host.Outcome State Fault Refusal := run .wscan .l64 w kitWscan s

/-- The place of an FP32 code in totalOrder (R215). -/
def totalKey (a : Word) : Int := if a.getLsbD 31 then -((a &&& 0x7FFFFFFF).toNat : Int) - 1 else a.toNat

/-- CMPX's order (R215). -/
def cmpxLt (m : Nat) (a b : Word) : Bool :=
  match m % 4 with
  | 0 => a.toInt < b.toInt
  | 1 => a.toNat < b.toNat
  | _ => totalKey a < totalKey b

/-- CMPX in lane i with partner p (R215). -/
def cmpxVal (m i p : Nat) (ai ap : Word) : Word :=
  let lo := if cmpxLt m ap ai then ap else ai
  let hi := if cmpxLt m ai ap then ap else ai
  if p = i then ai else if decide (i < p) != decide (4 ≤ m) then lo else hi

/-- The partner of lane i (R215). -/
def Ctx.partner (c : Ctx) (i : Nat) : Nat := i ^^^ ((c.b i).toNat % c.W.width)

/-- The behaviour of `execCmpx`. -/
def kitCmpx : Kit :=
  { bad := fun c => c.badFrom (fun i => some (c.partner i))
    eff := fun c => c.each (fun i =>
    let p := c.partner i
    let x (j : Nat) : Word := c.W.opNum (c.mod % 4 == 2) c.w.a j
    cmpxVal c.mod i p (x i) (x p)) }

/-- 0x106. -/
def execCmpx (w : Fields) (s : State) : Host.Outcome State Fault Refusal := run .cmpx .l96 w kitCmpx s

/-- The behaviour of `execRebal`. -/
def kitRebal : Kit :=
  { eff := fun c => (
    let yes := c.setLanes
    let no := c.lanes.filter (fun i => !yes.contains i)
    let base := c.b c.lead
    c.each (fun i =>
      if yes.contains i then base + countWord (below yes i)
      else base + countWord yes + countWord (below no i))) }

/-- 0x107. -/
def execRebal (w : Fields) (s : State) : Host.Outcome State Fault Refusal := run .rebal .l96 w kitRebal s

/-- The behaviour of `execCompact`. -/
def kitCompact : Kit :=
  { eff := fun c => (
    let src := c.lanes.filter (fun i => c.b i != 0)
    c.each (fun i => match src[(below c.lanes i).length]? with
      | some j => c.a j
      | none => 0)) }

/-- 0x108. -/
def execCompact (w : Fields) (s : State) : Host.Outcome State Fault Refusal := run .compact .l96 w kitCompact s

end Sys2Proof.Machine
end

