-- ==== Sys2Proof/Machine/Place.lean ====
section
/-! DEFINITION. Launch records and their checks, the launch order and its waves, the room for a cluster and what gangs have
reserved of it (R28, R39 to R43, R66, R121 to R123, R126, R127, R133, R136, R363). -/

namespace Sys2Proof.Machine

/-- Whether a warp's block is on its core: not saved in a context (R134). -/
def State.resident (s : State) (W : Warp) : Bool := ((s.block? W.block).map (·.resident)).getD true

/-- Bytes of the main register files of a core that its warps hold (R28). An ended warp holds its own until every
result it has pending has landed (R225). -/
def State.regsUsed (s : State) (core : Nat) : Nat :=
  s.warps.foldl (fun n x =>
    if x.2.core = core && s.resident x.2 && (!x.2.ended || s.pendingRegs x.1 != []) then n + 4 * x.2.alloc * x.2.width else n) 0

/-- Bytes of a core's main register file (R28). -/
def regFileBytes : Nat := 512 * 1024

/-! ### Room -/

/-- Block slots of a core: as many as CTXSV's selector can name (R284; log entry 22). -/
def blockSlots : Nat := 32

/-- Bytes of a core's scratchpad (R6). -/
def spadFile : Nat := 384 * 1024

/-- The blocks on a core: numbers and records. -/
def State.blocksOn (s : State) (core : Nat) : List (Nat × Block) :=
  s.blocks.filter (fun b => b.2.alive && b.2.resident && b.2.core == core)

/-- The slots that a core keeps free for child work: one for each level that any launch resident in its partition declares
(R41). -/
def State.reservedSlots (s : State) (core : Nat) : Nat :=
  s.launches.foldl (fun n x =>
    if !x.2.done && (mfind s.parts x.2.part).any (fun P => P.clusters.contains (core / 16)) then max n x.2.levels else n) 0

/-- Whether a core has room for a block: a slot, registers and scratchpad (R28, R135). Only child work takes a
reserved slot (R41). -/
def State.roomOn (s : State) (core regs spad levels : Nat) (child : Bool) : Bool :=
  let bs := s.blocksOn core
  let kept := if child then 0 else max (s.reservedSlots core) levels
  decide (bs.length + kept < blockSlots) && decide (s.regsUsed core + regs ≤ regFileBytes) &&
    decide (bs.foldl (fun n b => n + b.2.size) 0 + spad ≤ spadFile)

/-- The lowest free block slot of a core. -/
def State.freeSlot (s : State) (core : Nat) : Nat :=
  ((List.range blockSlots).find? (fun n => !(s.blocksOn core).any (fun b => b.2.slot == n))).getD 0

/-! ### Launch records (R121) -/

/-- A launch record (R121 Table 3). -/
structure LaunchRec where
  code   : DWord
  args   : DWord
  spad   : Nat
  width  : Nat
  warps  : Nat
  blocks : Nat
  redund : Bool
  wave   : Nat
  roles  : Nat
  budget : List Nat
  lvln   : Nat
  levels : List DWord
  deriving DecidableEq, Repr

/-- Read the fields of 256 bytes. -/
def parseLaunch (b : List Byte) : LaunchRec where
  code := BitVec.ofNat 64 (fieldAt b 0 8)
  args := BitVec.ofNat 64 (fieldAt b 8 8)
  spad := fieldAt b 0x10 4
  width := fieldAt b 0x14 1
  warps := fieldAt b 0x15 1
  blocks := fieldAt b 0x16 1
  redund := fieldAt b 0x17 1 % 2 == 1
  wave := fieldAt b 0x18 4
  roles := fieldAt b 0x20 16
  budget := (List.range 5).map (fun j => fieldAt b (0x30 + j) 1)
  lvln := fieldAt b 0x3F 1
  levels := levelsAt b 0x40

/-- N: the clusters launched (R40). -/
def LaunchRec.clusters (r : LaunchRec) : Nat :=
  (r.levels.take r.lvln).foldl (fun n d => n * (d.extractLsb' 16 16).toNat) 1

/-- The role code of a warp (R133). -/
def roleCode (roles w : Nat) : Nat := roles / 16 ^ w % 16

/-- The role a code names. -/
def roleOf (code : Nat) : Role0 :=
  match code with
  | 1 => .copy
  | 2 => .matrix
  | 3 => .epilogue
  | 4 => .tapHandler
  | _ => .plain

/-- The declared register count of a role: its budget, or the object's (R133). -/
def roleRegs (budget : List Nat) (regs code : Nat) : Nat :=
  if budget.getD code 0 = 0 then regs else 8 * budget.getD code 0

/-- The allocation of a count (R28). -/
def allocOf (regs : Nat) : Nat := (regs + 7) / 8 * 8

/-- Bytes of the register file that the warps of one block take (R28, R133). -/
def blockRegs (roles width warps regs : Nat) (budget : List Nat) : Nat :=
  (List.range warps).foldl (fun n w => n + 4 * allocOf (roleRegs budget regs (roleCode roles w)) * width) 0

/-- A scratchpad request rounded up (R66). -/
def spadRound (n : Nat) : Nat := (n + 255) / 256 * 256

/-- The conditions of Table 3 and of R39, R40, R126 and R133 on the record itself, at a determinism level. -/
def LaunchRec.ok (r : LaunchRec) (b : List Byte) (det : Nat) : Bool :=
  fieldAt b 0x17 1 / 2 == 0 && fieldAt b 0x1C 4 == 0 && fieldAt b 0x35 10 == 0 && fieldAt b 0x80 128 == 0 &&
  decide (r.spad ≤ spadFile) && [8, 16, 32, 64].contains r.width && decide (1 ≤ r.warps && r.warps ≤ 32) &&
  decide (1 ≤ r.blocks && r.blocks ≤ 16) && (r.wave != 0 || decide (det ≤ 1)) && rolesOk r.roles &&
  decide (((List.range r.warps).filter (fun w => roleCode r.roles w == 4)).length ≤ 1) && r.budget.all (· ≤ 32) &&
  levelsOk r.lvln r.levels && decide (r.clusters * r.blocks * r.warps ≤ 2 ^ 32)

/-- Whether a record agrees with its code object, and a core can admit one block of it (R121). -/
def LaunchRec.agrees (r : LaunchRec) (H : CodeHead) (det quant : Nat) : Bool :=
  r.width == H.width && r.warps == H.warps && r.roles == H.roles && r.lvln == H.lvln && r.levels == H.levels &&
  (H.quantum == 0 || det == 0 || H.quantum == quant) &&
  decide (blockRegs r.roles r.width r.warps H.regs r.budget ≤ regFileBytes)

/-- Read and check a launch record of a queue and its code object: the reason of R355 that makes it invalid, or
both. -/
def State.readLaunch (s : State) (q va : Nat) : Except Nat (LaunchRec × CodeHead) :=
  let det := ((mfind s.queues q).map (·.qdet)).getD 0
  let quant := ((mfind s.queues q).map (·.quant)).getD 4096
  if va % 256 ≠ 0 then .error 8
  else
    match s.virtBytes q va 256 with
    | none => .error 8
    | some b =>
      let r := parseLaunch b
      if !r.ok b det then .error 3
      else
        match (s.virtBytes q r.code.toNat 128).bind codeHead with
        | none => .error 4
        | some H => if r.agrees H det quant then .ok (r, H) else .error 3

/-! ### The launch order (R126) -/

/-- The smallest power of two whose square is at least N, from a starting power. -/
def curveSide (N : Nat) : Nat → Nat → Nat
  | 0, n => n
  | k + 1, n => if N ≤ n * n then n else curveSide N k (2 * n)

/-- The position along the Hilbert curve of R126. -/
def curvePos (n : Nat) : Nat → Nat → Nat → Nat → Nat
  | 0, _, _, _ => 0
  | k + 1, sz, x, y =>
    if sz = 0 then 0
    else
      let rx := x / sz % 2
      let ry := y / sz % 2
      let d := sz * sz * ((3 * rx) ^^^ ry)
      let p := if ry = 0 then (if rx = 1 then (n - 1 - y, n - 1 - x) else (y, x)) else (x, y)
      d + curvePos n k (sz / 2) p.1 p.2

/-- The position of cluster c of N. -/
def clusterPos (N c : Nat) : Nat :=
  let n := curveSide N 32 1
  curvePos n 33 (n / 2) (c % n) (c / n)

/-- Insert a cluster by its position. -/
def insertPos (x : Nat × Nat) : List (Nat × Nat) → List (Nat × Nat)
  | [] => [x]
  | y :: l => if x.2 < y.2 then x :: y :: l else y :: insertPos x l

/-- The clusters in curve order. -/
def curveOrder (N : Nat) : List Nat :=
  ((List.range N).foldl (fun acc c => insertPos (c, clusterPos N c) acc) []).map (·.1)

/-- The cluster at a place of the launch order: ascending index at D0, the curve at D1 and above. -/
def Launch.clusterAt (L : Launch) (i : Nat) : Nat := if L.dets = 0 then i else (curveOrder L.n).getD i i

/-- The user cores of a core cluster: the firmware core of a die is core 0 of its cluster 0 (R5, R11). -/
def userCores (cl : Nat) : List Nat := ((List.range 16).map (cl * 16 + ·)).filter (fun c => c % 192 != 0)

/-- The partition's capacity for a record: whole clusters on each core cluster when nothing else is resident (R126). A
cluster of redundant blocks takes its room twice. -/
def State.capacity (s : State) (part : Nat) (r : LaunchRec) (regs : Nat) : Nat :=
  let bytes := blockRegs r.roles r.width r.warps regs r.budget
  let spad := spadRound r.spad
  let perCore := min (blockSlots - r.lvln) (min (regFileBytes / max 1 bytes) (if spad = 0 then blockSlots else spadFile / spad))
  let whole := ((mfind s.parts part).map (fun P => P.clusters.foldl (fun n cl => n + (userCores cl).length * perCore / r.blocks) 0)).getD 0
  if r.redund then whole / 2 else whole

/-- The launch that a checked record makes. -/
def State.mkLaunch (s : State) (q pkt part : Nat) (record : DWord) (r : LaunchRec) (H : CodeHead) : Launch where
  queue := q
  pkt := pkt
  part := part
  record := record
  code := r.code
  args := r.args
  entry := r.code + BitVec.ofNat 64 H.entry
  spad := spadRound r.spad
  width := r.width
  warps := r.warps
  blocks := r.blocks
  redund := r.redund
  wave := max 1 (if r.wave = 0 then s.capacity part r H.regs else r.wave)
  roles := r.roles
  budget := r.budget
  regs := H.regs
  levels := r.lvln
  n := r.clusters
  dets := ((mfind s.queues q).map (·.qdet)).getD 0
  began := s.time

/-- Enter a launch; its number is `s.nextId`. -/
def State.addLaunch (s : State) (L : Launch) : State := State.bump { s with launches := minsert s.launches s.nextId L }

/-! ### Placing clusters -/

/-- A warp of a block as it starts (R15, R28, R122, R133). -/
def State.freshWarp (s : State) (l : Nat) (L : Launch) (block core c b w : Nat) : Warp where
  queue := L.queue
  pkt := L.pkt
  launch := l
  block := block
  core := core
  slot := w % 4
  wid := BitVec.ofNat 32 ((c * L.blocks + b) * L.warps + w)
  bid := BitVec.ofNat 32 (c * L.blocks + b)
  width := L.width
  role := roleOf (roleCode L.roles w)
  detlvl := L.dets
  svc := ((mfind s.queues L.queue).map (·.qsvc)).getD 0
  regCount := roleRegs L.budget L.regs (roleCode L.roles w)
  alloc := allocOf (roleRegs L.budget L.regs (roleCode L.roles w))
  slices := List.replicate (L.width / 4) { pc := L.entry }
  args := L.args
  nin := L.nin
  ncnt := BitVec.ofNat 32 L.ncnt
  release := List.replicate 7 0
  quiet := ((mfind s.parts L.part).map (fun P => P.gpNow.getD P.gpDone)).getD 0
  stream := L.stream.map (fun x => (x.1, x.2.1))
  rank := L.rank
  started := false

/-- Block b of cluster c of a launch comes to a core: the state and the block's number. -/
def State.addBlock (s : State) (l : Nat) (L : Launch) (c b core : Nat) : State × Nat :=
  let id := s.nextId
  let ks := (List.range L.warps).map (fun w => id + 1 + w)
  let ws := (List.range L.warps).map (fun w => (id + 1 + w, s.freshWarp l L id core c b w))
  let B : Block := { launch := l, cluster := c, core := core, slot := s.freeSlot core, warps := ks, nwarps := L.warps, size := L.spad }
  let B := { B with handler := ((List.range L.warps).find? (fun w => roleCode L.roles w == 4)).map (fun w => id + 1 + w) }
  ({ s with
    blocks := minsert s.blocks id B
    warps := ws.foldl (fun m x => minsert m x.1 x.2) s.warps
    nextId := id + 1 + L.warps }, id)

/-- The blocks of cluster c come to the user cores of a core cluster, if it has room for all of them (R42). -/
def State.placeCluster (s : State) (l : Nat) (L : Launch) (c cl : Nat) : Option (State × List Nat) :=
  let regs := blockRegs L.roles L.width L.warps L.regs L.budget
  (List.range L.blocks).foldl (fun acc b =>
    match acc with
    | none => none
    | some (s, ids) =>
      match (userCores cl).find? (fun k => s.roomOn k regs L.spad L.levels L.parent.isSome) with
      | none => none
      | some k =>
        let r := s.addBlock l L c b k
        some (r.1, ids ++ [r.2])) (some (s, []))

/-- A copy keeps its checkpoint: the state of its warps, barriers and units at the start of a quantum (R363). -/
def State.checkpoint (s : State) (b : Nat) : State :=
  let n := s.nextId
  s.modBlock b (fun B => { B with
    saved := s.warps.filter (fun x => x.2.block == b && !x.2.ended)
    barsSaved := B.bars
    unitsSaved := some ((s.core B.core).mx, (s.core B.core).tap)
    mark := n
    agreed := false })

/-- A copy starts its next quantum; quanta count from 0 (R363). -/
def State.nextQuantum (s : State) (b : Nat) : State :=
  (s.modBlock b (fun B => { B with quantum := B.quantum + 1 })).checkpoint b

/-- Tie the blocks of a cluster to their redundant copies: the copy on the lower core cluster is the primary (R136). -/
def State.tieCopies (s : State) (ps ts : List Nat) : State :=
  (ps.zip ts).foldl (fun s x =>
    ((s.modBlock x.1 (fun B => { B with twinBlock := some x.2 })).modBlock x.2 (fun B =>
      { B with twinBlock := some x.1, primary := false })).checkpoint x.1 |>.checkpoint x.2) s

/-- The core clusters on which the next cluster of a launch may stand: at D1 and above those of the die that its place
in its wave gives (R126). -/
def State.clustersFor (s : State) (L : Launch) : List Nat :=
  match mfind s.parts L.part with
  | none => []
  | some P =>
    if L.dets = 0 then P.clusters
    else
      let i := L.next % L.wave
      let size := min L.wave (L.n - (L.next - i))
      let run := max 1 ((size + P.dies.length - 1) / max 1 P.dies.length)
      P.clusters.filter (fun cl => cl / 12 == P.dies.getD (i / run) 0)

/-- Place cluster c on a core cluster, and the copies of a redundant launch on another on which the cluster may stand
(R126, R136). -/
def State.placeAll (s : State) (l : Nat) (L : Launch) (c cl : Nat) : Option State :=
  match s.placeCluster l L c cl with
  | none => none
  | some (s1, ids) =>
    if !L.redund then some s1
    else
      ((s.clustersFor L).filter (· != cl)).findSome? (fun o => (s1.placeCluster l L c o).map (fun x =>
        if cl < o then x.1.tieCopies ids x.2 else x.1.tieCopies x.2 ids))

/-- The next cluster of a launch placed on the first core cluster that has room for it. -/
def State.placeNext (s : State) (l : Nat) (L : Launch) : Option State :=
  (s.clustersFor L).findSome? (fun cl => s.placeAll l L (L.clusterAt L.next) cl)

/-- The partitions that a GANG's mask names. -/
def maskParts (mask : Nat) : List Nat := (List.range 16).filter (fun p => mask / 2 ^ p % 2 == 1)

/-- The launches that the parts of a gang make, as far as their records are sound: partition and launch (R123). -/
def State.gangParts (s : State) (q : Nat) (mask : Nat) (table : DWord) : List (Nat × Launch) :=
  (maskParts mask).filterMap (fun p =>
    match s.virtNat q (table.toNat + 8 * p) 8 with
    | none => none
    | some a =>
      match s.readLaunch q a with
      | .error _ => none
      | .ok (r, H) => some (p, s.mkLaunch q 0 p (BitVec.ofNat 64 a) r H))

/-- The parts that gangs have reserved room for, those of one queue apart (R123). -/
def State.reserved (s : State) (q : Nat) : List Launch :=
  s.queues.foldr (fun x acc =>
    if x.1 = q then acc
    else
      match x.2.gang with
      | none => acc
      | some (mask, table, _) => ((s.gangParts x.1 mask table).filter (fun p => x.2.gangHeld.contains p.1)).map (·.2) ++ acc) []

/-- The state with the first cluster of every reserved part in its place, those of one queue apart; none where they do not
all fit at once (R123; log entry 76). -/
def State.withReserved (s : State) (q : Nat) : Option State :=
  (s.reserved q).foldl (fun acc L => acc.bind (fun s => s.placeNext 0 L)) (some s)

/-- Whether everything that the gangs of other queues have reserved still fits (R123). -/
def State.keepsGangs (s : State) (q : Nat) : Bool := (s.withReserved q).isSome

/-- The next cluster of a launch placed on the first core cluster where what the gangs of other queues have reserved still fits
beside it (R123). -/
def State.placeBeside (s : State) (l : Nat) (L : Launch) : Option State :=
  (s.clustersFor L).findSome? (fun cl => (s.placeAll l L (L.clusterAt L.next) cl).filter (fun t => t.keepsGangs L.queue))

/-- Whether the next cluster of a launch fits beside what the gangs of other queues have reserved. -/
def State.fits (s : State) (l : Nat) (L : Launch) : Bool := (s.placeBeside l L).isSome

/-- No queue has this number. -/
def noQueue : Nat := 4096

end Sys2Proof.Machine
end

