-- ==== Sys2Proof/Machine/Fork.lean ====
section
/-! DEFINITION. Forkable calls: the twin, the continuation's buffer and the verdict, and the race detector through which stores pass
(R226 to R229, R352 to R354, R382). -/

namespace Sys2Proof.Machine

/-- How many FCALLs are open around a warp's instruction (R226, R229). -/
def Warp.forkDepth (W : Warp) : Nat := W.twinDepth + W.forks.length

/-- Whether an FCALL forks (R226): the core has registers for the twin that no gang has reserved (R123). -/
def State.canFork (s : State) (W : Warp) : Bool :=
  W.forkDepth < 3 && s.regsUsed W.core + 4 * W.alloc * W.width ≤ regFileBytes &&
    ({ s with warps := minsert s.warps s.nextId W } : State).keepsGangs noQueue

/-- Consecutive bytes of a canonical list, cut at sector boundaries: address and bytes. -/
def runsOf (l : List Host.Cell) : List (Nat × List Byte) :=
  l.foldr (fun c acc => match acc with
    | (a, bs) :: r => if c.1 + 1 = a && a % 32 != 0 then (c.1, c.2 :: bs) :: r else (c.1, [c.2]) :: acc
    | [] => [(c.1, [c.2])]) []

/-- The sectors of a canonical list of bytes. -/
def sectorsOf (l : List Host.Cell) : List Nat := (l.map (fun c => c.1 / 32)).dedup

/-- Sectors written by the twins that a warp stands in, for their verdicts (R228). -/
def State.noteWrites (s : State) (k : Nat) (secs : List Nat) : State :=
  s.modWarp k (fun W => if W.twinOf.isSome then { W with wrote := (secs ++ W.wrote).dedup } else W)

/-- A scratchpad sector as a verdict compares it: apart from every memory sector. -/
def spadSector (a : Nat) : Nat := 2 ^ 60 + a / 32

/-- The buffer of a warp's family at D1 and above. -/
def State.bufOf (s : State) (k : Nat) : List Deferred := (s.warp (s.rootOf 4 k)).buf

/-- The bytes an access concerns at its home. -/
def Access.span (a : Access) : Nat × Nat :=
  match a.op with
  | .discard => (a.pa, 128)
  | .push _ _ => (a.pa, 8)
  | _ => (a.pa, a.n)

/-- The sectors an access touches. -/
def Access.sectors (a : Access) : List Nat :=
  (List.range ((a.span.1 + a.span.2 - 1) / 32 - a.span.1 / 32 + 1)).map (a.span.1 / 32 + ·)

/-- Sectors in a warp's write buffer (R111). -/
def State.bufSectors (s : State) (k : Nat) : Nat :=
  ((s.bufOf k).foldr (fun d acc => match d with
    | .flight f => (((mfind s.flights f).map (·.accs)).getD []).foldr (fun a acc => a.sectors ++ acc) acc
    | .spad l => l.map (fun r => spadSector r.1) ++ acc
    | .pba a _ => spadSector a :: acc
    | _ => acc) []).dedup.length

/-- The quantum ends when the write buffer reaches 512 sectors (R111). -/
def State.bufFull (s : State) (k : Nat) : State := if 512 ≤ s.bufSectors k then s.endQuantum k else s

/-! ### The race detector (R352 to R354) -/

/-- Whether the race detector watches a warp. -/
def State.watched (s : State) (k : Nat) : Bool :=
  let W := s.warp k
  let c := (s.die (W.core / 192)).raceCtl
  c.getLsbD 31 && c.getLsbD (s.partOfWarp W)

/-- The narrowest scope that covers a warp and the home of an address (R352). -/
def State.raceScope (s : State) (k a : Nat) : Nat :=
  if packageOf a ≠ s.zinc.self then 5 else if s.homeDie a = (s.warp k).core / 192 then 3 else 4

/-- The RACE record of a conflict: kind 0 load, 1 store (R354, R366). -/
def State.raceRecord (s : State) (k writer ivn kind : Nat) (va : DWord) (pa : Option Nat) : State :=
  let W := s.warp k
  let V := s.warp writer
  let r := s.warpRec W 6 kind 0
  let r := { r with va := va, pv := pa.isSome, pa := BitVec.ofNat 64 (pa.getD 0) }
  let r := { r with info0 := V.wid, info1 := BitVec.ofNat 32 V.queue, info2 := BitVec.ofNat 32 ivn }
  let s := s.ras (W.core / 192) r
  if (s.die (W.core / 192)).raceCtl.getLsbD 30 && !W.ended then s.kill k 0 0 va pa else s

/-- An access conflicts with a shadow entry (R353). -/
def State.conflicts (s : State) (k writer ivn scope : Nat) : Bool :=
  writer != k && !(s.warp writer).ended && (s.warp writer).release.getD scope 0 == ivn

/-- The shadow entry of a sector (R352): at its home slice, or for what is homed in another package in the RDC of a warp's die. -/
def State.shadowOf (s : State) (die sec : Nat) : Option (Nat × Nat × Nat) :=
  if packageOf (32 * sec) = s.zinc.self then mfind (s.die (s.homeDie (32 * sec))).raceShadow sec
  else (mfind s.copies (copyKey (768 + die) sec)).bind (·.shadow)

/-- A store's shadow entry is made at its home slice here and in the RDC of its die that holds the sector (R352). -/
def State.shadowPut (s : State) (die sec : Nat) (e : Nat × Nat × Nat) : State :=
  let s := if packageOf (32 * sec) = s.zinc.self then s.modDie (s.homeDie (32 * sec)) (fun D => { D with raceShadow := minsert D.raceShadow sec e })
    else s
  { s with copies := mupdate s.copies (copyKey (768 + die) sec) (fun c => { c with shadow := some e }) }

/-- Check one access that reaches its home with a warp's releases; a store replaces the entry (R353). -/
def State.raceCheckAs (s : State) (k : Nat) (rel : List Nat) (store : Bool) (va : DWord) (pa : Nat) : State :=
  if !s.watched k then s
  else
    let die := (s.warp k).core / 192
    let sec := pa / 32
    let s := match s.shadowOf die sec with
      | some (w, ivn, sc) =>
        if s.conflicts k w ivn sc then s.raceRecord k w ivn (if store then 1 else 0) va (some pa) else s
      | none => s
    if store && !(s.warp k).killed then
      let sc := s.raceScope k pa
      s.shadowPut die sec (k, rel.getD sc 0, sc)
    else s

/-- Check one access of a warp at a home slice. -/
def State.raceCheck (s : State) (k : Nat) (store : Bool) (va : DWord) (pa : Nat) : State :=
  s.raceCheckAs k (s.warp k).release store va pa

/-- Check one scratchpad access with a warp's releases. -/
def State.raceSpadAs (s : State) (k : Nat) (rel : List Nat) (store : Bool) (a : Nat) : State :=
  if !s.watched k then s
  else
    let b := (s.warp k).block
    let sec := a / 32
    let sh := ((s.block? b).map (·.spadShadow)).getD []
    let s := match mfind sh sec with
      | some (w, ivn) =>
        if s.conflicts k w ivn 1 then s.raceRecord k w ivn (if store then 1 else 0) (BitVec.ofNat 64 a) none else s
      | none => s
    if store && !(s.warp k).killed then
      s.modBlock b (fun B => { B with spadShadow := minsert B.spadShadow sec (k, rel.getD 1 0) })
    else s

/-- Check one scratchpad access of a warp. -/
def State.raceSpad (s : State) (k : Nat) (store : Bool) (a : Nat) : State := s.raceSpadAs k (s.warp k).release store a

/-! ### The store stream -/

/-- Stores enter a warp's store stream: into the buffer at D1 and above, else on their way to their homes. -/
def State.streamStores (s : State) (k : Nat) (place : Option Nat) (accs : List Access) : State :=
  let s := s.noteWrites k ((accs.foldr (fun a acc => a.sectors ++ acc) []).dedup)
  let late := s.buffered (s.warp k)
  let f := s.nextId
  let s := s.launchFlight { warp := k, cls := 1, accs := accs, round := late, held := late, place := place }
  if late then s.defer k (.flight f) else s

/-- Scratchpad bytes enter a warp's store stream. -/
def State.streamSpad (s : State) (k : Nat) (cells : List Host.Cell) : State :=
  let s := s.noteWrites k ((cells.map (fun c => spadSector c.1)).dedup)
  if s.buffered (s.warp k) then s.defer k (.spad (runsOf cells))
  else (runsOf cells).foldl (fun s r => s.spadWrite k (s.warp k).block r.1 r.2) s

/-- Scratchpad stores of a warp enter its store stream, at D0 past the race detector, which may kill the warp for them (R353,
R354). -/
def State.storeSpad (s : State) (k : Nat) (cells : List Host.Cell) : State :=
  let s := if s.buffered (s.warp k) then s else ((cells.map (fun c => c.1 / 32 * 32)).dedup).foldl (fun s a => s.raceSpad k true a) s
  if (s.warp k).killed then s else s.streamSpad k cells

/-- Whether an FCALL's slices overlap a mask. -/
def Fork.meets (f : Fork) (m : BitVec 16) : Bool := (f.gang &&& m) != 0

/-- FCALL forks in the slices of a mask (R226): the continuation goes on at the link, the twin at the callee. The twin starts
with its caller's `k.gwct` and `k.gwctd` (log entry 72). -/
def Ctx.forkCall (c : Ctx) (link callee : DWord) : State :=
  let n := (c.w.a.bits.extractLsb' 8 2).toNat + 1
  let vf := (c.w.a.bits.extractLsb' 0 8).toNat
  let lanes := c.lanes
  let settled := c.W.landAll
  let V := (settled.setReg c.w.d.toNat (lanes.map (fun i => (i, loHalf link)))).setReg (c.w.d.toNat + 1)
    (lanes.map (fun i => (i, hiHalf link)))
  let site := (c.pc.extractLsb' 2 10).toNat
  let values := (mfind (c.s.core c.W.core).pred site).getD [0, 0, 0, 0]
  let twin : Warp := { V with
    slices := V.slices.zipIdx.map (fun x =>
      if inMask c.m x.2 && !x.1.exited then { pc := callee } else { x.1 with exited := true, wait := none, woken := false })
    pend := []
    working := []
    fast := true
    outs := []
    openOps := []
    batches := []
    batchNo := 0
    ticket := 0
    tickets := []
    tx := none
    twinOf := some c.k
    twinLink := link
    twinDepth := c.W.forkDepth + 1
    wrote := []
    forks := []
    buf := []
    latched := []
    current := none
    held := []
    watchdog := 0
    age := 0
    yielded := false }
  let tid := c.s.nextId
  let f : Fork := {
    twin := tid
    site := c.pc
    link := link
    gang := c.m
    lanes := lanes
    dst := vf
    n := n
    linkReg := c.w.d.toNat
    predicted := values.take n
    regs := V.regs
    cnt := c.W.cnt
    fflags := c.W.fflags
    slices := c.W.slices
    since := tid
    poison := V.poison
    before := (match c.fork? with
      | some g => if g.flagsSet then none else some g.raised
      | none => some 0)
    base := c.W.slices.map (fun x => x.retired + 1) }
  let s := State.bump { c.s with warps := minsert c.s.warps tid twin }
  let s := (List.range n).foldl (fun s j => c.put s (vf + j) (lanes.map (fun i => (i, values.getD j 0)))) s
  let s := c.put s c.w.d.toNat (lanes.map (fun i => (i, loHalf link)))
  let s := c.put s (c.w.d.toNat + 1) (lanes.map (fun i => (i, hiHalf link)))
  s.modWarp c.k (fun W => { W.onSlices c.m (fun x => { x with pc := link }) with forks := W.forks ++ [f] })

/-- Operations that a squash drops: those of the continuation that bring results. -/
def Fork.dropsFlight (f : Fork) (k : Nat) (x : Nat × Flight) : Bool :=
  x.2.warp == k && f.since ≤ x.1 && x.2.cls != 1 && x.2.accs.all (fun a => a.op == .read) &&
    ((x.2.accs.any (fun a => inMask f.gang (a.lane / 4))) || x.2.vals.any (fun v => inMask f.gang (v.2.1 / 4)))

/-- What a squash restores in the caller (R228). -/
def Fork.restore (f : Fork) (W : Warp) : Warp :=
  let inGang (key : Nat) : Bool := inMask f.gang (key % 64 / 4)
  let cntGang (i : Nat) : Bool := inMask f.gang (i / 4)
  { W with
    regs := (f.regs.filter (fun e => inGang e.1)).foldl (fun m e => mput 0 m e.1 e.2) (W.regs.filter (fun e => !inGang e.1))
    poison := (f.poison.filter (fun e => inGang e.1)).foldl (fun m e => minsert m e.1 e.2) (W.poison.filter (fun e => !inGang e.1))
    pend := W.pend.map (fun p => { p with vals := p.vals.filter (fun v => !cntGang v.1) })
    cnt := (f.cnt.filter (fun e => cntGang e.1)).foldl (fun m e => mput 0 m e.1 e.2) (W.cnt.filter (fun e => !cntGang e.1))
    slices := W.slices.zipIdx.map (fun x =>
      if inMask f.gang x.2 then { x.1 with pc := f.link, wait := none, woken := false, retired := f.base.getD x.2 0 }
      else x.1) }

/-- Remove the forks inside a squashed one, with their twins, which have issued nothing. -/
def State.dropInner (s : State) (k : Nat) (f : Fork) : State :=
  let inner := ((s.warp k).forks.dropWhile (fun g => g.twin != f.twin)).drop 1 |>.filter (fun g => g.meets f.gang)
  inner.foldl (fun s g =>
    ((s.modWarp g.twin (fun W => { W with ended := true, slices := W.slices.map (fun x => { x with exited := true, wait := none }) })).modWarp k
      (fun W => { W with forks := W.forks.filter (fun h => h.twin != g.twin) })).quiescent g.twin) s

/-- Whether a verdict confirms (R228). -/
def Fork.confirms (f : Fork) (T : Warp) : Bool :=
  f.lanes.all (fun i => (List.range f.n).all (fun j => T.settled (f.dst + j) i == f.predicted.getD j 0)) &&
    !f.reads.any T.wrote.contains

/-- A twin ceases to exist: its stores, its engine operations and its write completion times are its caller's, its
loads land nowhere (R227, R229). -/
def State.inherit (s : State) (twin k : Nat) : State :=
  let T := s.warp twin
  let s : State := { s with
    flights := s.flights.map (fun x => if x.2.warp = twin then (x.1, { x.2 with warp := k, regs := [], vals := [], land := .none, place := some twin }) else x)
    engines := s.engines.map (fun x => if x.2.warp = twin then (x.1, { x.2 with warp := k }) else x) }
  let s := s.modMx T.core (fun U => { U with queue := U.queue.map (fun e => if e.warp = twin then { e with warp := k } else e) })
  let s := s.modTap T.core (fun V => { V with queue := V.queue.map (fun e => if e.warp = twin then { e with warp := k } else e) })
  let s := s.modWarp twin (fun W => { W with
    ended := true
    outs := []
    batches := []
    openOps := []
    held := []
    slices := W.slices.map (fun x => { x with exited := true, wait := none }) })
  let s := s.quiescent twin
  s.modWarp k (fun W => { W.completion T.gwct T.gwctd with
    outs := T.outs ++ W.outs
    batches := T.batches.map (fun b => (b.1 + 2 ^ 40, b.2)) ++ W.batches
    openOps := T.openOps ++ W.openOps
    held := T.held ++ W.held
    wrote := if W.twinOf.isSome then (T.wrote ++ W.wrote).dedup else W.wrote
    release := (List.range 7).map (fun j => max (W.release.getD j 0) (T.release.getD j 0)) })

/-- The flags with which the twin of a continuation's FCALL starts, once the FCALL around it is confirmed: those that its twin
left, those of the continuation up to the inner FCALL, and those that other slices have raised meanwhile (R229). The inner twin has not run yet. -/
def State.handFlags (s : State) (k : Nat) (f : Fork) (flags : Word) : State :=
  match (s.warp k).forks.find? (fun g => f.twin < g.twin && g.meets f.gang) with
  | none => s
  | some g => (match g.before with
    | none => s
    | some r => s.modWarp g.twin (fun T => { T with fflags := flags ||| r }))

/-- The verdict, when a twin has ended (R228). -/
def State.verdict (s : State) (twin : Nat) : State :=
  let T := s.warp twin
  match T.twinOf with
  | none => s
  | some k =>
    match (s.warp k).forks.find? (fun f => f.twin == twin) with
    | none => s
    | some f =>
      let true_ (j i : Nat) : Word := T.settled (f.dst + j) i
      let lead := f.lanes.headD 0
      let entry := (List.range 4).map (fun j => if j < f.n then true_ j lead
        else ((mfind (s.core T.core).pred ((f.site.extractLsb' 2 10).toNat)).getD [0, 0, 0, 0]).getD j 0)
      let ok := f.confirms T
      let s := s.modCore T.core (fun C => { C with pred := minsert C.pred (f.site.extractLsb' 2 10).toNat entry })
      let s := s.inherit twin k
      let s := if ok then s else s.dropInner k f
      let s := s.modWarp k (fun W => { W with forks := (W.forks.filter (fun g => g.twin != twin)).map (fun g =>
        if g.meets f.gang then g else { g with beside := g.beside ||| T.fflags ||| (if ok then f.raised else 0) }) })
      let others := (s.warp k).forks.any (fun g => g.meets f.gang)
      let s :=
        if ok then
          let s := s.handFlags k f (T.fflags ||| f.beside)
          let s := s.modWarp k (fun W => { W with fflags := if f.flagsSet then W.fflags else T.fflags ||| f.raised ||| f.beside })
          let s := f.stores.foldl (fun s c => s.streamStores k (some twin) c) s
          (f.spad.foldl (fun s c => s.storeSpad k c) s).bufFull k
        else
          let gone := s.flights.filter (f.dropsFlight k)
          let s : State := { s with flights := s.flights.filter (fun x => !f.dropsFlight k x) }
          let s := gone.foldl (fun s x => s.completeOp k x.1) s
          let s := s.modWarp k (fun W => { f.restore W with fflags := T.fflags ||| f.beside })
          (List.range f.n).foldl (fun s j => s.modWarp k (fun W =>
            W.setReg (f.dst + j) (f.lanes.map (fun i => (i, true_ j i))))) s
      let s := (s.settleQuantum k).wake k (fun c => c == .verdict || c == .verdicts)
      if !ok || others then s
      else
        match f.fatal with
        | some x => s.killPoison k x.1 x.2.1 x.2.2
        | none => s.trap k f.stopped

end Sys2Proof.Machine
end

