-- ==== Sys2Proof/Machine/View.lean ====
section
/-! DEFINITION. What a warp's own buffered writes add to what it reads (R101, R113, R227), and the barriers of a
block (R220 to R223, R344). -/

namespace Sys2Proof.Machine

/-- Bytes read at an address, with the bytes of a canonical list over them. -/
def overCells (a : Nat) (base : List Byte) (cells : List Host.Cell) : List Byte :=
  if cells = [] then base else base.zipIdx.map (fun b => (mfind cells (a + b.2)).getD b.1)

/-- Bytes read at an address, with a run of bytes over them. -/
def overRun (a : Nat) (base : List Byte) (r : Nat × List Byte) : List Byte :=
  base.zipIdx.map (fun b => if r.1 ≤ a + b.2 then r.2.getD (a + b.2 - r.1) b.1 else b.1)

/-- Scratchpad stores of the open continuations of slices, as one canonical list. -/
def Warp.forkSpad (W : Warp) (m : BitVec 16) : List Host.Cell :=
  (W.forks.filter (fun f => f.meets m)).foldl (fun acc f =>
    f.spad.foldl (fun acc c => c.foldl (fun acc x => minsert acc x.1 x.2) acc) acc) []

/-- PBA's update of a phase-bit word (R223). -/
def pbaVal (x : DWord) (n : Nat) : DWord :=
  let pending := (x.extractLsb' 0 16).toNat
  if n = 0 then x
  else if pending ≤ n then
    ((x ^^^ ((1 : DWord) <<< 32)) &&& ~~~(0xFFFF : DWord)) ||| (x.extractLsb' 16 16).setWidth 64
  else (x &&& ~~~(0xFFFF : DWord)) ||| BitVec.ofNat 64 (pending - n)

/-- A deferred scratchpad effect applied to a scratchpad. -/
def spadApply (m : List Host.Cell) (d : Deferred) : List Host.Cell :=
  match d with
  | .spad l => l.foldl (fun m r => spadPut m r.1 r.2) m
  | .pba a n => spadPut m a (leBytes 8 (pbaVal (BitVec.ofNat 64 (leNat (spadBytes m a 8))) n).toNat)
  | _ => m

/-- The scratchpad as a warp's slices see it (R113, R227). -/
def State.spadView (s : State) (k : Nat) (m : BitVec 16) : List Host.Cell :=
  let W := s.warp k
  let base := (s.bufOf k).foldl spadApply (s.spad W.block)
  (W.forkSpad m).foldl (fun acc x => cellPut (fun _ => 0) acc x.1 x.2) base

/-! ### Barriers -/

/-- A barrier of a block. -/
def Block.bar (B : Block) (n : Nat) : Barrier := (mfind B.bars n).getD {}

/-- A barrier by block and number. -/
def State.bar (s : State) (b n : Nat) : Barrier := ((s.block? b).map (fun B => B.bar n)).getD {}

/-- Change a barrier. -/
def State.modBar (s : State) (b n : Nat) (f : Barrier → Barrier) : State :=
  s.modBlock b (fun B => { B with bars := mput {} B.bars n (f (B.bar n)) })

/-- Whether a warp of the block was killed (R344). -/
def State.abandoned (s : State) (b : Nat) : Bool := ((s.block? b).map (·.abandoned)).getD false

/-- Whether a barrier's phase has its arrivals (R220). -/
def State.phaseFull (s : State) (b n : Nat) : Bool :=
  let x := s.bar b n
  x.used &&
    (if x.expect = 0 then
      ((s.block? b).map (fun B => B.warps.all (fun k => (s.warp k).ended || x.arrived.contains k))).getD false
     else x.expect ≤ x.arrived.length)

/-- Those of a block's warps that a completed phase of a barrier releases go on, each with its twins (R220). -/
def State.releaseBar (s : State) (b n : Nat) (there : Nat → Bool) : State :=
  let l := s.warps.filter (fun x => x.2.block == b && !x.2.ended && there (s.rootOf 4 x.1))
  let on := l.filter (fun x => (x.2.slices ++ x.2.savePc).any (fun y => y.wait == some (.barrier n)))
  (l.map (·.1)).foldl (fun s k => s.wake k (fun c => c == .barrier n)) (s.acquireSpad b (on.map (·.1)))

/-- Complete a barrier's phase: the warps that have arrived go on. The slices that have executed it of a warp that has not
arrived count for the next phase (R220). -/
def State.completePhase (s : State) (b n : Nat) : State :=
  let x := s.bar b n
  (s.releaseBar b n (fun k => x.expect == 0 || x.arrived.contains k)).modBar b n
    (fun x => if x.expect = 0 || x.here = [] then {} else { x with arrived := [] })

/-- Whether the arrivals of a block's warps wait for the round's end: there they count in ascending identifier (R127). -/
def State.barsLate (s : State) (b : Nat) : Bool := ((s.block? b).map (fun B => s.buffered (s.warp (B.warps.headD 0)))).getD false

/-- The barrier as the next arrival meets it: a full phase is over. -/
def State.barNow (s : State) (b n : Nat) : Barrier :=
  if s.phaseFull b n && !s.barsLate b then (s.completePhase b n).bar b n else s.bar b n

/-- A warp arrives once every slice of it that has not exited has executed the barrier (R220). At D1 and above
that ends its quantum (R111). -/
def State.settleBar (s : State) (b n r : Nat) : State :=
  let x := s.bar b n
  match x.here.find? (fun h => h.1 == r) with
  | none => s
  | some (_, m) =>
    let W := s.warp r
    if W.alive = 0 then s.modBar b n (fun x => { x with here := x.here.filter (fun h => h.1 != r) })
    else if W.alive &&& ~~~m = 0 then
      let s := s.modBar b n (fun x => { x with here := x.here.filter (fun h => h.1 != r), arrived := x.arrived ++ [r] })
      if s.buffered W then s.endQuantum r else s
    else s

/-- Slices of a warp execute a barrier instruction: the arrival counts for the root of a family of twins. -/
def State.arrive (s : State) (k n : Nat) (m : BitVec 16) (expect : Nat) : State :=
  let W := s.warp k
  let r := s.rootOf 4 k
  let b := W.block
  let s := if s.phaseFull b n && !s.barsLate b then s.completePhase b n else s
  let s := s.modBar b n (fun x =>
    let old := ((x.here.find? (fun h => h.1 == r)).map (·.2)).getD 0
    { x with
      used := true
      expect := expect
      here := x.here.filter (fun h => h.1 != r) ++ [(r, old ||| m)] })
  (((s.releaseSpad k).settleBar b n r).modWarp k (fun W => W.countRelease 1)).progress k

/-- An exit of slices may complete a warp's arrivals. -/
def State.settleBars (s : State) (k : Nat) : State :=
  let W := s.warp k
  (List.range 16).foldl (fun s n => s.settleBar W.block n (s.rootOf 4 k)) s

/-- A release at BLOCK scope before an arrival: what it still waits for (R221). At D1 and above no fence waits
(R113). -/
def Ctx.releaseWait (c : Ctx) : Option Cond :=
  match c.wake with
  | some (.fence (some _) _ _) => none
  | _ =>
    if 1 ≤ c.W.detlvl || c.s.released c.k c.s.nextId 1 then none
    else some (.fence (some 1) false c.s.nextId)

/-- An acquire: what it still waits for (R95). -/
def Ctx.acquireWait (c : Ctx) : Option Cond :=
  if 1 ≤ c.W.detlvl || !c.s.readsOut c.k c.s.nextId then none
  else some (.fence none true c.s.nextId)

/-- Whether the acquire that ends a wait has been made. -/
def Ctx.acquired (c : Ctx) : Bool :=
  match c.wake with
  | some (.fence none true _) => true
  | _ => false

end Sys2Proof.Machine
end

