-- ==== Sys2Proof/Machine/Control.lean ====
section
/-! DEFINITION. Control instructions, 0x140 to 0x156 (R19 to R24, R29, R217 to R229). -/

namespace Sys2Proof.Machine

/-! ### Branches -/

/-- The lowest active lane of a slice. -/
def Ctx.sliceLead (c : Ctx) (i : Nat) : Option Nat := (lanesIn (sliceBit i) c.W.width).find? c.W.active

/-- The slices that take a branch, each with its lowest active lane (R23). -/
def Ctx.takers (c : Ctx) : List (Nat × Nat) :=
  (maskSlices c.m).filterMap (fun i =>
    match c.sliceLead i with
    | some l => if c.W.guardHolds c.w l then some (i, l) else none
    | none => none)

/-- The mask of the slices that take a branch. -/
def Ctx.takerMask (c : Ctx) : BitVec 16 := maskOf (c.takers.map (·.1))

/-- Targets that are not multiples of 4 (R188). -/
def Ctx.targetFaults (c : Ctx) (target : Nat → DWord) : List TrapRec :=
  c.takers.filterMap (fun t =>
    if (target t.2).extractLsb' 0 2 = 0 then none else some { c.flt t.2 6 with taddr := target t.2 })

/-- Send the slices that take a branch to their targets and the others on (R23). -/
def Ctx.branch (c : Ctx) (s : State) (target : Nat → DWord) : State :=
  let ts := c.takers
  s.modWarp c.k (fun W => { W with slices := W.slices.zipIdx.map (fun x =>
    if inMask c.m x.2 then
      { x.1 with
        pc := match ts.find? (fun t => t.1 == x.2) with
          | some t => target t.2
          | none => c.next
        wait := none
        woken := false }
    else x.1) })

/-- The target of BRA, CALL and FCALL. -/
def Ctx.immTarget (c : Ctx) : DWord := c.pc + c.w.imm.signExtend 64

/-- The target of BRX and RET in a lane: bits 47:0 of the pair (R217). -/
def Ctx.regTarget (c : Ctx) (i : Nat) : DWord := c.a64 i &&& 0xFFFFFFFFFFFF

/-- The behaviour of `execBra`. -/
def kitBra : Kit :=
  { check := fun c => c.targetFaults (fun _ => c.immTarget)
    eff := fun c => c.branch c.s (fun _ => c.immTarget)
    jumps := true }

/-- 0x140. -/
def execBra (w : Fields) (s : State) : Host.Outcome State Fault Refusal := run .bra .l128 w kitBra s

/-- The behaviour of `execBrx`. -/
def kitBrx : Kit :=
  { check := fun c => c.targetFaults c.regTarget
    eff := fun c => c.branch c.s c.regTarget
    jumps := true }

/-- 0x141. -/
def execBrx (w : Fields) (s : State) : Host.Outcome State Fault Refusal := run .brx .l64 w kitBrx s

/-- The active lanes of the slices that take a call. -/
def Ctx.callLanes (c : Ctx) : List Nat := (lanesIn c.takerMask c.W.width).filter c.W.active

/-- Write a call's link (R217). -/
def Ctx.putLink (c : Ctx) (s : State) (link : DWord) : State :=
  let s := c.put s c.w.d.toNat (c.callLanes.map (fun i => (i, loHalf link)))
  c.put s (c.w.d.toNat + 1) (c.callLanes.map (fun i => (i, hiHalf link)))

/-- The behaviour of `execCall`. -/
def kitCall : Kit :=
  { check := fun c => c.targetFaults (fun _ => c.immTarget)
    eff := fun c => c.putLink (c.branch c.s (fun _ => c.immTarget)) c.next
    jumps := true }

/-- 0x142. -/
def execCall (w : Fields) (s : State) : Host.Outcome State Fault Refusal := run .call .l128 w kitCall s

/-- The slices of a twin that a RET to the link ends (R227). -/
def Ctx.endingSlices (c : Ctx) : BitVec 16 :=
  if c.W.twinOf.isNone then 0
  else maskOf ((c.takers.filter (fun t => c.regTarget t.2 == (c.W.twinLink &&& 0xFFFFFFFFFFFF))).map (·.1))

/-- The FCALL whose twin this warp is. -/
def Ctx.ownFork (c : Ctx) : Option Fork :=
  match c.W.twinOf with
  | none => none
  | some k => (c.s.warp k).forks.find? (fun f => f.twin == c.k)

/-- A RET that ends a twin waits for the twin's own verdicts and for its return registers (R227). -/
def Ctx.retWait (c : Ctx) : Option Cond :=
  if c.endingSlices = 0 then none
  else if c.W.forks ≠ [] then some .verdicts
  else
    match c.ownFork with
    | none => none
    | some f =>
      match (rangeRegs [(f.dst, f.n)]).filter (c.s.pendingRegs c.k).contains with
      | [] => none
      | l => some (.regs l)

/-- The behaviour of `execRet`. -/
def kitRet : Kit :=
  { check := fun c => c.targetFaults c.regTarget
    hold := Ctx.retWait
    eff := fun c => (
      let out := c.endingSlices
      let s := (c.branch c.s c.regTarget).modWarp c.k (fun W =>
        W.onSlices out (fun x => { x with exited := true, wait := none, woken := false }))
      if out ≠ 0 && (s.warp c.k).alive = 0 then s.verdict c.k else s)
    jumps := true }

/-- 0x143: RET; one to the link ends a twin's slices, and the last of them brings the verdict (R227, R228). -/
def execRet (w : Fields) (s : State) : Host.Outcome State Fault Refusal := run .ret .l64 w kitRet s

/-- The behaviour of `execFcall`. -/
def kitFcall : Kit :=
  { check := fun c => c.targetFaults (fun _ => c.immTarget)
    hold := fun c => if c.s.canFork c.W && c.takers != [] then
        (match c.s.pendingRegs c.k with
         | [] => none
         | l => some (.regs l))
      else none
    eff := fun c => (
      if c.takers != [] && c.s.canFork c.W then
        let c' := { c with s := c.branch c.s (fun _ => c.next), m := c.takerMask }
        c'.forkCall c.next c.immTarget
      else c.putLink (c.branch c.s (fun _ => c.immTarget)) c.next)
    jumps := true
    tx := false }

/-- 0x144: FCALL forks where the core can admit a twin, and is a CALL elsewhere (R226). Its twin takes a copy of
every register, so a fork waits for the results that are pending. -/
def execFcall (w : Fields) (s : State) : Host.Outcome State Fault Refusal := run .fcall .l128 w kitFcall s

/-- The behaviour of `execFsync`. -/
def kitFsync : Kit :=
  { hold := fun c => if c.fork?.isSome then some .verdict else none
    eff := fun c => c.s
    tx := false }

/-- 0x145: FSYNC waits for the verdict of every open FCALL of its slices (R227). -/
def execFsync (w : Fields) (s : State) : Host.Outcome State Fault Refusal := run .fsync .l64 w kitFsync s

/-! ### Structured control -/

/-- The lanes whose counters structured control changes. -/
def Ctx.gangLanes (c : Ctx) : List Nat := (lanesIn c.m c.W.width).filter (fun i => !c.W.txDead i)

/-- The lanes whose counter would pass 15: the nesting fault (R21). -/
def Ctx.nestFaults (c : Ctx) (f : Nat → Nat → Nat) : List TrapRec :=
  (c.gangLanes.filter (fun i => 15 < f i (c.W.count i))).map (fun i =>
    { c.flt i 2 with info0 := BitVec.ofNat 32 (c.W.count i) })

/-- Apply Table 2 of R19 to the counters of the gang. -/
def Ctx.counters (c : Ctx) (f : Nat → Nat → Nat) : State :=
  c.s.modWarp c.k (fun W => { W with
    cnt := c.gangLanes.foldl (fun m i => mput 0 m i (f i (c.W.count i))) W.cnt })

/-- Whether some lane of the gang is active now. -/
def Ctx.someActive (c : Ctx) (s : State) : Bool := c.gangLanes.any (fun i => (s.warp c.k).count i == 0)

/-- The gang goes on at an address. -/
def Ctx.goto (c : Ctx) (s : State) (a : DWord) : State :=
  s.modWarp c.k (fun W => W.onSlices c.m (fun x => { x with pc := a, wait := none, woken := false }))

/-- With no lane active the gang goes on at the offset (R21). BREAK and CONT at a depth above 0 go on at the next
instruction instead: the jump changes timing only, and past an ELSE or ENDIF it would change the counters (log entry
10). -/
def Ctx.structured (c : Ctx) (f : Nat → Nat → Nat) : State :=
  let s := c.counters f
  c.goto s (if c.someActive s || c.w.ext.extractLsb' 0 4 ≠ 0 then c.next else c.immTarget)

/-- IF (R19). -/
def Ctx.ifCnt (c : Ctx) (i n : Nat) : Nat := if n = 0 then (if c.a i ≠ 0 then 0 else 1) else n + 1
/-- ELSE. -/
def elseCnt (_i n : Nat) : Nat := if n = 0 then 1 else if n = 1 then 0 else n
/-- BREAK (extra 2) and CONT (extra 1) at depth d. -/
def Ctx.leaveCnt (c : Ctx) (extra i n : Nat) : Nat :=
  if n = 0 && c.a i ≠ 0 then (c.w.ext.extractLsb' 0 4).toNat + extra else n

/-- The behaviour of `execIf`. -/
def kitIf : Kit :=
  { check := fun c => c.nestFaults c.ifCnt, eff := fun c => c.structured c.ifCnt, jumps := true }

/-- 0x146. -/
def execIf (w : Fields) (s : State) : Host.Outcome State Fault Refusal := run .if_ .l128 w kitIf s
/-- The behaviour of `execElse`. -/
def kitElse : Kit :=
  { eff := fun c => c.structured elseCnt, jumps := true }

/-- 0x147. -/
def execElse (w : Fields) (s : State) : Host.Outcome State Fault Refusal := run .else_ .l128 w kitElse s
/-- The behaviour of `execEndif`. -/
def kitEndif : Kit :=
  { eff := fun c => c.counters (fun _ n => n - 1) }

/-- 0x148. -/
def execEndif (w : Fields) (s : State) : Host.Outcome State Fault Refusal := run .endif .l64 w kitEndif s
/-- The behaviour of `execLoop`. -/
def kitLoop : Kit :=
  let f : Nat → Nat → Nat := fun _ n => if n = 0 then 0 else n + 2
  { check := fun c => c.nestFaults f, eff := fun c => c.counters f }

/-- 0x149. -/
def execLoop (w : Fields) (s : State) : Host.Outcome State Fault Refusal := run .loop .l64 w kitLoop s
/-- The behaviour of `execBreak`. -/
def kitBreak : Kit :=
  { check := fun c => c.nestFaults (c.leaveCnt 2), eff := fun c => c.structured (c.leaveCnt 2), jumps := true }

/-- 0x14A. -/
def execBreak (w : Fields) (s : State) : Host.Outcome State Fault Refusal := run .break_ .l128 w kitBreak s
/-- The behaviour of `execCont`. -/
def kitCont : Kit :=
  { check := fun c => c.nestFaults (c.leaveCnt 1), eff := fun c => c.structured (c.leaveCnt 1), jumps := true }

/-- 0x14B. -/
def execCont (w : Fields) (s : State) : Host.Outcome State Fault Refusal := run .cont_ .l128 w kitCont s
/-- The behaviour of `execEndloop`. -/
def kitEndloop : Kit :=
  { eff := fun c => (
      let back := c.gangLanes.any (fun i => c.W.count i ≤ 1)
      let s := c.counters (fun _ n => if n ≤ 1 then 0 else if back then n else n - 2)
      c.goto s (if back then c.immTarget else c.next))
    jumps := true }

/-- 0x14C: the three steps of R20. -/
def execEndloop (w : Fields) (s : State) : Host.Outcome State Fault Refusal := run .endloop .l128 w kitEndloop s

/-- The behaviour of `execRegang`. -/
def kitRegang : Kit :=
  { wait := fun c => (
      match c.wake with
      | some (.regang _ _) => (c.s, none)
      | _ =>
        if c.acts then (c.s.progress c.k, some (.regang c.pc ((c.a c.lead).extractLsb' 0 16 ||| c.m)))
        else (c.s, none))
    eff := fun c => c.s
    fork := false }

/-- 0x14D: REGANG: the issuing slices wait for the named ones (R24, R219). -/
def execRegang (w : Fields) (s : State) : Host.Outcome State Fault Refusal := run .regang .l64 w kitRegang s

/-! ### Barriers -/

/-- The barrier fault with its reason (R322). -/
def Ctx.barFault (c : Ctx) (reason : Nat) : List TrapRec :=
  [{ c.recLead 0x18 with info0 := BitVec.ofNat 32 reason, info1 := c.a c.lead }]

/-- The checks of a barrier instruction; `expect` is 0 for BAR (R220, R322). They are made once, on arrival. -/
def Ctx.barCheck (c : Ctx) (counted : Bool) (expect : Nat) : List TrapRec :=
  let n := (c.a c.lead).toNat
  let x := c.s.barNow c.W.block n
  let warps := ((c.s.block? c.W.block).map (·.nwarps)).getD 0
  match c.wake with
  | some (.barrier _) | some (.fence none true _) => []
  | _ =>
    if !c.acts then []
    else if 15 < n then c.barFault 1
    else if counted && (expect = 0 || warps < expect) then c.barFault 2
    else if counted && x.used && x.expect ≠ 0 && x.expect ≠ expect then c.barFault 3
    else if x.used && decide (x.expect = 0) == counted then c.barFault 4
    else []

/-- The course of BAR and BARW: a release, the arrival, the wait, an acquire (R221). In an abandoned block nothing
is waited for but the fences (R344). -/
def Ctx.barWait (c : Ctx) (expect : Nat) : State × Option Cond :=
  if !c.acts || c.acquired then (c.s, none)
  else
    match c.wake with
    | some (.barrier _) => (c.s, c.acquireWait)
    | _ =>
      match c.releaseWait with
      | some why => (c.s, some why)
      | none =>
        let n := (c.a c.lead).toNat
        if c.s.abandoned c.W.block then ((c.s.modWarp c.k (fun W => W.countRelease 1)).progress c.k, c.acquireWait)
        else (c.s.arrive c.k n c.m expect, some (.barrier n))

/-- What BAR and BARW write: 1 in an abandoned block (R344). -/
def Ctx.barStatus (c : Ctx) : State :=
  c.laterEach c.s 7 (fun _ => if c.s.abandoned c.W.block then 1 else 0)

/-- The expected count of BARA and BARW. -/
def Ctx.barCount (c : Ctx) : Nat := (c.b c.lead).toNat

/-- The behaviour of `execBar`. -/
def kitBar : Kit :=
  { check := fun c => c.barCheck false 0
    wait := fun c => c.barWait 0
    eff := Ctx.barStatus
    tx := false
    fork := false }

/-- 0x14E. -/
def execBar (w : Fields) (s : State) : Host.Outcome State Fault Refusal := run .bar .l64 w kitBar s

/-- The behaviour of `execBara`. -/
def kitBara : Kit :=
  { check := fun c => c.barCheck true c.barCount
    wait := fun c => (
      if !c.acts then (c.s, none)
      else
        match c.releaseWait with
        | some why => (c.s, some why)
        | none => (c.s.arrive c.k (c.a c.lead).toNat c.m c.barCount, none))
    eff := fun c => c.s
    tx := false
    fork := false }

/-- 0x14F. -/
def execBara (w : Fields) (s : State) : Host.Outcome State Fault Refusal := run .bara .l64 w kitBara s

/-- The behaviour of `execBarw`. -/
def kitBarw : Kit :=
  { check := fun c => c.barCheck true c.barCount
    wait := fun c => c.barWait c.barCount
    eff := Ctx.barStatus
    tx := false
    fork := false }

/-- 0x150. -/
def execBarw (w : Fields) (s : State) : Host.Outcome State Fault Refusal := run .barw .l64 w kitBarw s

/-- The address fault of a scratchpad address: misaligned, or beyond the allocation (R66, R233). -/
def Ctx.spadFault (c : Ctx) (lane : Nat) (a : Nat) (n align : Nat) : Option TrapRec :=
  let r (kind : Nat) : TrapRec :=
    { c.flt lane 0x10 with taddr := BitVec.ofNat 64 a, info0 := BitVec.ofNat 32 kind, info1 := BitVec.ofNat 32 n }
  if a % align ≠ 0 then some (r 1)
  else if c.s.spadSize c.W.block < a + n then some (r 2)
  else none

/-- The word a phase-bit instruction names, checked (R223). -/
def Ctx.phaseFaults (c : Ctx) : List TrapRec :=
  if !c.acts then []
  else match c.spadFault c.lead (c.a c.lead).toNat 8 8 with
    | some r => [{ r with whole := true, mask := c.m }]
    | none => []

/-- Poison in the word (R340). -/
def Ctx.phaseBad (c : Ctx) : Option (Nat × DWord × Option Nat) :=
  if c.acts && c.s.spadBad c.W.block (c.a c.lead).toNat 8 then some (c.lead, (c.a c.lead).setWidth 64, none) else none

/-- The behaviour of `execPba`. A phase-bit barrier is not taken for the barrier that R102 forbids in a transaction lane, DESIGN CHOICE
(log entry 88). -/
def kitPba : Kit :=
  { check := Ctx.phaseFaults
    bad := Ctx.phaseBad
    wait := fun c => (c.s, if c.acts then c.releaseWait else none)
    eff := fun c => (
      if !c.acts then c.s
      else
        let a := (c.a c.lead).toNat
        let n := (c.b c.lead).toNat
        let s := (c.s.modWarp c.k (fun W => W.countRelease 1)).progress c.k
        let s := s.noteWrites c.k [spadSector a]
        if s.buffered c.W then (s.defer c.k (.pba a n)).bufFull c.k
        else (s.spadWrite c.k c.W.block a
          (leBytes 8 (pbaVal (BitVec.ofNat 64 (leNat (s.spadRead c.W.block a 8))) n).toNat)).releaseSpad c.k)
    fork := false }

/-- 0x151: PBA (R223); at D1 and above its update is a buffered scratchpad write. -/
def execPba (w : Fields) (s : State) : Host.Outcome State Fault Refusal := run .pba .l64 w kitPba s

/-- Whether the phase a PBW waits for has come: PHASE differs from the bit it names (R223). -/
def State.phaseCame (s : State) (k a : Nat) (last : Bool) : Bool :=
  let x := leNat (spadBytes (s.spadView k 0) a 8)
  (decide (x / 2 ^ 32 % 2 = 1) != last) || s.abandoned (s.warp k).block

/-- The behaviour of `execPbw`. -/
def kitPbw : Kit :=
  { check := Ctx.phaseFaults
    bad := Ctx.phaseBad
    wait := fun c => (
      let a := (c.a c.lead).toNat
      let last := (c.b c.lead).getLsbD 0
      if !c.acts || c.acquired then (c.s, none)
      else if c.s.phaseCame c.k a last then (c.s, c.acquireWait)
      else (if c.s.buffered c.W then c.s.endQuantum c.k else c.s, some (.phaseBit a last)))
    eff := fun c => if c.acts then c.s.acquireSpad c.W.block [c.k] else c.s
    fork := false }

/-- 0x152: PBW (R223). At D1 and above a phase that has not flipped ends the quantum. -/
def execPbw (w : Fields) (s : State) : Host.Outcome State Fault Refusal := run .pbw .l64 w kitPbw s

/-- The behaviour of `execIvl`. -/
def kitIvl : Kit :=
  { eff := fun c => (
    let rs := (Shape.ivlRanges c.w).filter (fun r => r.2 != 0)
    c.s.modWarp c.k (fun W => { W with working := rs, fast := rs.isEmpty })) }

/-- 0x153: IVL opens an interval (R29, R224): the warp waits for its prefetch. -/
def execIvl (w : Fields) (s : State) : Host.Outcome State Fault Refusal := run .ivl .l128 w kitIvl s

/-- The behaviour of `execYield`. -/
def kitYield : Kit :=
  { eff := fun c => c.s.modWarp c.k (fun W => { W with age := 0, yielded := true }) }

/-- 0x154: YIELD (R225). -/
def execYield (w : Fields) (s : State) : Host.Outcome State Fault Refusal := run .yield .l64 w kitYield s

/-- The behaviour of `execNop`. -/
def kitNop : Kit :=
  { eff := fun c => c.s }

/-- 0x155: NOP (R225). -/
def execNop (len : Len) (w : Fields) (s : State) : Host.Outcome State Fault Refusal := run .nop len w kitNop s

/-- The transaction lanes of slices that exit are gone, without a status (R322). -/
def Warp.dropTx (W : Warp) (m : BitVec 16) : Warp :=
  match W.tx with
  | none => W
  | some t =>
    let keep := t.lanes.filter (fun l => !inMask m (l.1 / 4))
    { W with tx := if keep = [] then none else some { t with lanes := keep } }

/-- The behaviour of `execExit`. -/
def kitExit : Kit :=
  { check := fun c => if c.W.twinOf.isSome then c.takers.map (fun t => c.flt t.2 8) else []
    eff := fun c => (
      let out := c.takerMask
      let open_ : List Nat := match c.W.tx with
        | none => []
        | some t => (t.lanes.filter (fun l => inMask out (l.1 / 4) || c.lanes.contains l.1)).map (·.1)
      let s := open_.foldl (fun s i => s.txAbort c.k i 5 0) c.s
      let s := (c.goto s c.next).modWarp c.k (fun W =>
        (W.onSlices out (fun x => { x with pc := c.pc, exited := true, wait := none, woken := false })).dropTx out)
      if (s.warp c.k).alive ≠ 0 then (if out = 0 then s else s.settleBars c.k)
      else
        match c.W.held with
        | r :: _ => s.kill c.k 0x11 c.lead r.taddr none
        | [] => s.endWarp c.k)
    jumps := true
    fork := false }

/-- 0x156: EXIT ends the slices in which its guard holds (R225). In a twin it is a fault (R227); with an engine's
fault undelivered it kills (R347). -/
def execExit (w : Fields) (s : State) : Host.Outcome State Fault Refusal := run .exit_ .l64 w kitExit s

end Sys2Proof.Machine
end

