-- ==== Sys2Proof/Machine/Access.lean ====
section
/-! DEFINITION. Memory accesses of a warp: their addresses and checks, what they touch in transactions and
continuations, what an access does at its home, and how values land (R67, R94, R101 to R104, R113, R227, R230 to
R243, R340, R341). -/

namespace Sys2Proof.Machine

/-! ### Atomic operations (R241) -/

/-- The new word of an atomic operation and its flags (R241 Table 4); narrow operations use the low words. -/
def amoNew (kind : Nat) (wide : Bool) (m b c : DWord) : DWord × FlagSet :=
  let narrow (x : Word) : DWord := x.setWidth 64
  let m' := loHalf m
  let b' := loHalf b
  let fl (r : Nat × FlagSet) : DWord × FlagSet := (BitVec.ofNat 64 r.1, r.2)
  let slt := if wide then b.slt m else b'.slt m'
  let ult := if wide then b.ult m else b'.ult m'
  match kind with
  | 0 => (if wide then m + b else narrow (m' + b'), FlagSet.none)
  | 1 => (if slt then b else m, FlagSet.none)
  | 2 => (if slt then m else b, FlagSet.none)
  | 3 => (if ult then b else m, FlagSet.none)
  | 4 => (if ult then m else b, FlagSet.none)
  | 5 => (m &&& b, FlagSet.none)
  | 6 => (m ||| b, FlagSet.none)
  | 7 => (m ^^^ b, FlagSet.none)
  | 8 => (b, FlagSet.none)
  | 9 => (if m = c then b else m, FlagSet.none)
  | 10 => fl (Fmt.fp32.fadd .rne m'.toNat b'.toNat)
  | 11 => fl (Fmt.fp32.minmax false m'.toNat b'.toNat)
  | 12 => fl (Fmt.fp32.minmax true m'.toNat b'.toNat)
  | 13 => (if b'.toNat ≤ m'.toNat then 0 else narrow (m' + 1), FlagSet.none)
  | _ => (if m' = 0 || b'.toNat < m'.toNat then narrow b' else narrow (m' - 1), FlagSet.none)

/-! ### Element stores (R78, R238) -/

/-- Replace one nibble of a byte. -/
def putNibble (b : Byte) (hi : Bool) (n : Nat) : Byte :=
  BitVec.ofNat 8 (if hi then b.toNat % 16 + 16 * (n % 16) else b.toNat / 16 * 16 + n % 16)

/-- The byte that an STE leaves, and its flags (R238): format, high nibble, whether the byte lies in a K4X window. -/
def steByte (fmt : Nat) (hi window : Bool) (old : Byte) (d : Word) : Byte × FlagSet :=
  let v := Fmt.fp32.decode d.toNat
  match fmt with
  | 0 =>
    let (t, f0) := k4xIn v
    if window then
      let (lo, h) := k4xDecode old
      let (b, f) := if hi then k4xEncode (FVal.int lo) t else k4xEncode t (FVal.int h)
      (b, f0.or f)
    else
      let q := max (-7) (min 7 (roundUnit t))
      let sat := decide (7 < (roundUnit t).natAbs)
      (putNibble old hi (nib q), f0.or { nx := differs t q, of := sat })
  | 1 =>
    let r := quantFloat Fmt.e2m1 v
    (putNibble old hi r.1, r.2)
  | _ => (putNibble old hi d.toNat, FlagSet.none)

/-- Where element k lies: the byte's offset from the base, and whether it is the high nibble (R237). -/
def elemPlace (fmt k : Nat) : Nat × Bool :=
  if fmt = 0 then
    let p := k4xPos (k % 128)
    (64 * (k / 128) + p / 2, p % 2 == 1)
  else (k / 2, k % 2 == 1)

/-- The value LDE writes for a byte (R237). -/
def ldeVal (fmt : Nat) (hi : Bool) (b : Byte) : Word :=
  let n := if hi then b.toNat / 16 else b.toNat % 16
  match fmt with
  | 0 =>
    let (lo, h) := k4xDecode b
    BitVec.ofNat 32 (Fmt.fp32.round .rne false (FVal.int (if hi then h else lo))).1
  | 1 => BitVec.ofNat 32 (Fmt.fp32.round .rne false (Fmt.e2m1.decode n)).1
  | _ => BitVec.ofNat 32 n

/-! ### Values of loads (R231) -/

/-- Registers of a size code (R231). -/
def sizeRegs (size : Nat) : Nat := if size = 3 then 2 else if size = 4 then 4 else 1

/-- Bytes of a size code (R231). -/
def sizeBytes (size : Nat) : Nat :=
  match size with
  | 0 | 5 => 1
  | 1 | 6 => 2
  | 2 => 4
  | 3 => 8
  | _ => 16

/-- The registers that the bytes of a load fill, first register first (R231). -/
def extendVal (size : Nat) (bs : List Byte) : List Word :=
  match size with
  | 5 => [(BitVec.ofNat 8 (leNat bs)).signExtend 32]
  | 6 => [(BitVec.ofNat 16 (leNat bs)).signExtend 32]
  | _ => (List.range (sizeRegs size)).map (fun j => BitVec.ofNat 32 (leNat ((bs.drop (4 * j)).take 4)))

/-- The register values of one access of a flight. -/
def landWords (l : Landing) (hi : Bool) (bs : List Byte) : List Word :=
  match l with
  | .none => []
  | .ext size => extendVal size bs
  | .elem fmt => [ldeVal fmt hi (bs.headD 0)]
  | .words n => (List.range n).map (fun j => BitVec.ofNat 32 (leNat ((bs.drop (4 * j)).take 4)))

/-- Register, lane and value of everything a flight brings. -/
def Flight.values (f : Flight) : List (Nat × Nat × Word) :=
  f.vals ++ f.accs.foldr (fun a acc =>
    let hi := (f.elemHi.find? (fun e => e.1 == a.lane)).any (·.2)
    (landWords f.land hi a.value).zipIdx.map (fun x => (f.dst + x.2, a.lane, x.1)) ++ acc) []

/-! ### Addresses and their checks (R230, R233) -/

/-- The global address of a lane with the offset in B (R230). -/
def Ctx.globalB (c : Ctx) (i : Nat) : DWord := c.a64 i + (c.b i).signExtend 64

/-- The scratchpad address of a lane with the offset in B (R230). -/
def Ctx.spadAddr (c : Ctx) (i : Nat) : Nat := (c.a i + c.b i).toNat

/-- An address fault of a lane (R233). -/
def Ctx.addrFault (c : Ctx) (lane : Nat) (va : DWord) (kind n : Nat) : TrapRec :=
  { c.flt lane 0x10 with taddr := va, info0 := BitVec.ofNat 32 kind, info1 := BitVec.ofNat 32 n }

/-- The lowest kind that a global access of a lane fails (R233, R323): `strict` for the accesses that kind 6 bars. -/
def Ctx.globalFault (c : Ctx) (strict : Bool) (n align : Nat) (lane : Nat) (va : DWord) : Option TrapRec :=
  if va.toNat % align ≠ 0 then some (c.addrFault lane va 1 n)
  else if 2 ^ 48 ≤ va.toNat then some (c.addrFault lane va 5 n)
  else if strict || c.W.txLive lane then
    match c.trans va.toNat with
    | some t => if (c.s.decodedView (t.phys va.toNat)).isSome then some (c.addrFault lane va 6 n) else none
    | none => none
  else none

/-- The address faults of the acting lanes. -/
def Ctx.globalFaults (c : Ctx) (strict : Bool) (n align : Nat) (va : Nat → DWord) : List TrapRec :=
  c.lanes.filterMap (fun i => c.globalFault strict n align i (va i))

/-- Virtual addresses that a lane's kind-6 check needs before it can be made: acting lanes whose address is sound, below the
first lane of their slice that fails a check already (R318, R323); none where no decoded view is enabled. -/
def Ctx.viewAddrs (c : Ctx) (strict : Bool) (n align : Nat) (va : Nat → DWord) : List Nat :=
  if (List.range 4).all (fun d => (c.s.die d).winCtl = []) then []
  else
    (c.lanes.filter (fun i => (strict || c.W.txLive i) && (va i).toNat % align = 0 && decide ((va i).toNat < 2 ^ 48) &&
      !(c.lanes.any (fun j => j < i && j / 4 == i / 4 && (c.globalFault strict n align j (va j)).isSome)))).map (fun i => (va i).toNat)

/-- Lanes that would write to an RDO page (R233). -/
def Ctx.wprotFaults (c : Ctx) (n : Nat) (va : Nat → DWord) : List TrapRec :=
  c.lanes.filterMap (fun i =>
    match c.trans (va i).toNat with
    | some t => if t.rdo then some { c.flt i 0x11 with taddr := va i, info1 := BitVec.ofNat 32 n } else none
    | none => none)

/-- The addresses whose pages an instruction needs. -/
def Ctx.pageAddrs (c : Ctx) (va : Nat → DWord) : List Nat := c.lanes.map (fun i => (va i).toNat)

/-- Poison among the translated lanes of a vector read some of whose lanes have no translation yet, or some of whose slices
fault: it is consumed before any page goes to the firmware and any trap is taken (R331, R332, R341). A load reads where its access
would be served, an atomic operation and a buffered load at the home. -/
def Ctx.earlyPoison (c : Ctx) (atHome : Bool) (n : Nat) (va : Nat → DWord) : Option (Nat × DWord × Option Nat) :=
  if c.m = c.full && c.lanes.all (fun i => (c.trans (va i).toNat).isSome) then none
  else
    (c.lanes.filterMap (fun i =>
      match c.trans (va i).toNat with
      | some t =>
        let pa := t.phys (va i).toNat
        let bad := if atHome || c.s.buffered c.W then c.s.poisonedAt pa n
          else (c.s.serveRead c.W.core c.W.svc { lane := i, va := va i, pa := pa, n := n, op := .read, lc := t.lc, uc := t.uc }).2.2
        if bad then some (i, va i, some pa) else none
      | none => none)).head?

/-- One access for each acting lane. -/
def Ctx.accesses (c : Ctx) (n keep : Nat) (va : Nat → DWord) (op : Nat → AccOp) : List Access :=
  c.lanes.filterMap (fun i =>
    match c.trans (va i).toNat with
    | some t => some { lane := i, va := va i, pa := t.phys (va i).toNat, n := n, op := op i, lc := t.lc, uc := t.uc, keep := keep }
    | none => none)

/-! ### Transactions: what a lane touches (R102, R104) -/

/-- Whether an access is store-class: it takes a place in the total order of its bytes. -/
def Access.stores (a : Access) : Bool :=
  match a.op with
  | .read | .note => false
  | _ => true

/-- The sectors of the live transaction lanes of a warp. -/
def Tx.footprint (t : Tx) : List Nat := (t.lanes.foldr (fun l acc => if l.2.cause = 0 then l.2.foot ++ acc else acc) []).dedup

/-- Change a transaction lane. -/
def State.modTx (s : State) (k lane : Nat) (f : TxLane → TxLane) : State :=
  s.modWarp k (fun W => { W with tx := W.tx.map (fun t => { t with lanes := mupdate t.lanes lane f }) })

/-- Whether one escalated lane goes before another: the earlier time, then the warp that goes first (R104, R122). Of two lanes
of one warp with the same time the first, which holds the sector, wins (log entry 72). -/
def older (t1 : DWord) (V : Warp) (t2 : DWord) (W : Warp) : Bool := t1.toNat < t2.toNat || (t1 == t2 && !W.before V)

/-- An escalated lane takes a sector, or loses to an older escalated lane (R104). -/
def State.takeSector (s : State) (k lane sec : Nat) : State :=
  match (s.warp k).tx.bind (fun t => mfind t.lanes lane) with
  | none => s
  | some l =>
    if l.cause ≠ 0 || !l.esc || s.shadow (s.warp k).block then s
    else
      match mfind s.holds sec with
      | none => { s with holds := minsert s.holds sec (k, lane, s.nextId) }
      | some (k', lane', _) =>
        if (k', lane') = (k, lane) then s
        else
          let since := ((s.warp k').tx.bind (fun t => mfind t.lanes lane')).map (·.since)
          if older (since.getD 0) (s.warp k') l.since (s.warp k) then s.txAbort k lane 7 0
          else
            let s := s.txAbort k' lane' 7 0
            { s with holds := minsert s.holds sec (k, lane, s.nextId) }

/-- A transaction lane touches a sector: capacity and escalation (R102, R104). -/
def State.txTouch (s : State) (k lane sec : Nat) : State :=
  match (s.warp k).tx with
  | none => s
  | some t =>
    match mfind t.lanes lane with
    | none => s
    | some l =>
      if l.cause ≠ 0 then s
      else if l.foot.contains sec then s
      else if 64 ≤ l.foot.length || (!t.footprint.contains sec && 1024 ≤ t.footprint.length) then s.txAbort k lane 3 0
      else (s.modTx k lane (fun l => { l with foot := sec :: l.foot })).takeSector k lane sec

/-- Touch the sectors of accesses in their live transaction lanes. -/
def State.txTouchAll (s : State) (k : Nat) (accs : List Access) : State :=
  if (s.warp k).tx.isNone then s
  else accs.foldl (fun s a => a.sectors.foldl (fun s sec => if (s.warp k).txLive a.lane then s.txTouch k a.lane sec else s) s) s

/-- Whether a lane has aborted while its instruction ran. -/
def State.txGone (s : State) (k lane : Nat) : Bool := (s.warp k).txDead lane

/-- Whether an escalated lane of another warp, or another lane of the warp whose hold is older than an operation, holds a
sector of a range that a lane's operation stores to (R104). An operation issued before the hold goes first (R94). -/
def State.heldStore (s : State) (k lane op a n : Nat) : Bool :=
  s.holds.any (fun h => h.1 * 32 < a + n && a < h.1 * 32 + 32 && (h.2.1 != k || (h.2.2.1 != lane && h.2.2.2 ≤ op)))

/-- Whether another warp's escalated lane holds a sector of a range (R104). -/
def State.heldByOther (s : State) (k a n : Nat) : Bool :=
  !s.shadow (s.warp k).block && s.holds.any (fun h => h.1 * 32 < a + n && a < h.1 * 32 + 32 && h.2.1 != k)

/-- Record what a transaction lane read: the sector with the value that it read (R103). -/
def State.txSaw (s : State) (k lane sec : Nat) (seen : List Byte) : State :=
  s.modTx k lane (fun l => if l.cause ≠ 0 || l.reads.contains (sec, seen) then l else { l with reads := l.reads ++ [(sec, seen)] })

/-! ### The warp's own bytes (R101, R113, R227) -/

/-- Bytes over which a store-class access of the warp has passed. -/
def State.accOver (s : State) (a : Nat) (base : List Byte) (x : Access) : List Byte :=
  match x.op with
  | .write bs => overRun a base (x.pa, bs)
  | .ste fmt hi v => base.zipIdx.map (fun b =>
      if a + b.2 = x.pa then (steByte fmt hi (s.inK4x x.pa) b.1 v).1 else b.1)
  | .discard => overRun a base (x.pa, s.freshLine (x.pa / 128))
  | _ => base

/-- Global bytes that a warp reads now, its transaction's writes apart: memory, the family's buffer, its open continuations. -/
def State.warpBytes (s : State) (k : Nat) (m : BitVec 16) (a n : Nat) : List Byte :=
  let W := s.warp k
  let base := (s.bufOf k).foldl (fun acc d => match d with
    | .flight f => (((mfind s.flights f).map (·.accs)).getD []).foldl (s.accOver a) acc
    | _ => acc) (s.bytesAt a n)
  (W.forks.filter (fun f => f.meets m)).foldl (fun acc f =>
    f.stores.foldl (fun acc l => l.foldl (s.accOver a) acc) acc) base

/-- Record a transaction lane's read of a sector: what its warp finds there, the transaction's own writes apart (R103). -/
def State.txRecord (s : State) (k : Nat) (m : BitVec 16) (lane sec : Nat) : State := s.txSaw k lane sec (s.warpBytes k m (sec * 32) 32)

/-- Global bytes that a lane of a warp reads now, those that its transaction has written among them. -/
def State.ownBytes (s : State) (k : Nat) (m : BitVec 16) (lane a n : Nat) : List Byte :=
  let W := s.warp k
  let base := s.warpBytes k m a n
  match (if W.txLive lane then W.tx.bind (fun t => mfind t.lanes lane) else none) with
  | none => base
  | some l =>
    let base := l.drops.foldl (fun acc d => overRun a acc (d * 128, s.freshLine d)) base
    overCells a base l.writes

/-- The bytes of a range that the warp's own buffers supply, as a canonical list. -/
def State.ownCells (s : State) (k : Nat) (m : BitVec 16) (lane a n : Nat) : List Host.Cell :=
  let W := s.warp k
  if (W.forks.filter (fun f => f.meets m)) = [] && !W.txLive lane then []
  else
    let touches (x : Access) (b : Nat) : Bool := match x.op with
      | .write bs => x.pa ≤ b && b < x.pa + bs.length
      | .ste _ _ _ => b == x.pa
      | .discard => x.pa ≤ b && b < x.pa + 128
      | _ => false
    let forkHas (b : Nat) : Bool := W.forks.any (fun f => f.meets m && f.stores.any (fun l => l.any (fun x => touches x b)))
    let txHas (b : Nat) : Bool := W.txLive lane && (match W.tx.bind (fun t => mfind t.lanes lane) with
      | some l => l.drops.contains (b / 128) || (mfind l.writes b).isSome
      | none => false)
    let bs := s.ownBytes k m lane a n
    (bs.zipIdx.map (fun b => (a + b.2, b.1))).filter (fun c => forkHas c.1 || txHas c.1)

/-! ### Accesses at their homes -/

/-- Whether an access is an ADPQ's. -/
def Access.adpq (a : Access) : Bool :=
  match a.op with
  | .adpq _ => true
  | _ => false

/-- Whether two accesses touch a byte in common. What an ADPQ touches depends on what it reads: it is kept in order
with every access of its warp (log entry 20). -/
def Access.overlaps (a b : Access) : Bool :=
  a.adpq || b.adpq || (a.span.1 < b.span.1 + b.span.2 && b.span.1 < a.span.1 + a.span.2)

/-- The warps whose earlier operations lie before a warp's in one program order, each with the number below which they do: the
warp itself, and, for a twin, its caller up to the FCALL (R227). -/
def State.lineage (s : State) : Nat → Nat → Nat → List (Nat × Nat)
  | 0, k, n => [(k, n)]
  | fuel + 1, k, n =>
    match (s.warp k).twinOf with
    | none => [(k, n)]
    | some p => (k, n) :: s.lineage fuel p (min n k)

/-- Whether a flight lies before the operation numbered n of a warp in one program order. What a caller took over from an earlier
twin, or what entered its stream at that twin's verdict, lies where the twin's FCALL stands (R227). -/
def State.earlier (s : State) (k n : Nat) (g : Nat × Flight) : Bool :=
  (s.lineage 3 k n).any (fun w => g.2.warp == w.1 && decide ((if w.1 = k then g.1 else g.2.place.getD g.1) < w.2))

/-- Whether earlier accesses of the warp, or of its caller before the FCALL, to some ranges are still on their way: what reads or
writes them keeps its order behind those (R94, R227). -/
def State.onWay (s : State) (k : Nat) (l : List (Nat × Nat)) : Bool :=
  s.flights.any (fun f => s.earlier k s.nextId f && !f.2.held && f.2.accs.any (fun a =>
    !a.done && l.any (fun x => a.span.1 < x.1 + x.2 && x.1 < a.span.1 + a.span.2)))

/-- Whether two accesses of one warp keep their order (R94): they touch a byte in common, or they act on one free list or on
signals, which the lanes of an instruction do in ascending order (R250, R267). -/
def Access.ordered (a b : Access) : Bool :=
  match a.op, b.op with
  | .note, _ => false
  | _, .note => false
  | .push p d, .push q e => p == q && d == e
  | _, _ => a.overlaps b

/-- Whether an access must wait for an earlier one of its warp or its caller to the same bytes (R94, R227). In one instruction
the lanes' store-class accesses keep their order. -/
def State.behind (s : State) (f j : Nat) (a : Access) (k : Nat) : Bool :=
  s.flights.any (fun g => s.earlier k f g && !g.2.held && g.2.accs.any (fun b => !b.done && a.ordered b)) ||
    (((mfind s.flights f).map (fun g => (g.accs.take j).any (fun b =>
      !b.done && (a.stores || b.stores) && (g.inOrder || a.ordered b)))).getD false)

/-- A store-class access for a class reaches its home (R79, R92): its effect, its old value and its completion times. PFREE's
push and ADPQ have operations of their own. -/
def State.atHome (s : State) (core svc : Nat) (a : Access) : State × Access :=
  let die := core / 192
  let s := match a.op with
    | .rmw _ _ _ _ | .adpq _ =>
      ((s.dropCopy core (a.pa / 32)).dropCopy (768 + die) (a.pa / 32)).askFar a.pa (fun p => .atom p a.pa)
    | .write bs => s.askFar a.pa (fun p => if a.committing then .atom p a.pa else .req p a.pa bs.length (some bs))
    | .ste _ _ _ | .discard | .read => s.askFar a.pa (fun p => if a.committing then .atom p a.pa else .req p a.pa a.n none)
    | _ => s
  let times (s : State) (a : Access) : Access :=
    let t := s.completionTimes a.pa die
    { a with done := true, gwctd := t.1, gwct := t.2 }
  match a.op with
  | .write bs =>
    let s := (s.homePutFor svc a.pa bs).clearPoison a.pa bs.length
    (s.storeSnoop core a.pa bs, times s a)
  | .ste fmt hi v =>
    let r := steByte fmt hi (s.inK4x a.pa) (s.byteAt a.pa) v
    let s := s.homePutFor svc a.pa [r.1]
    (s.storeSnoop core a.pa [r.1], { times s a with flags := r.2.bits })
  | .rmw kind wide b c =>
    let n := if wide then 8 else 4
    let old := s.bytesAt a.pa n
    if s.poisonedAt a.pa n then (s, { times s a with value := old, bad := true })
    else
      let r := amoNew kind wide (BitVec.ofNat 64 (leNat old)) b c
      let new := leBytes n r.1.toNat
      let s := s.homePutFor svc a.pa new
      (s.storeSnoop core a.pa new, { times s a with value := old, flags := r.2.bits })
  | .discard =>
    let line := a.pa / 128
    let s := s.discardLine line
    let s := (List.range 16).foldl (fun s j => s.dropLine (core / 16 * 16 + j) line) s
    let s := s.dropLine (768 + die) line
    (s, times s a)
  | .read => (s, { a with done := true, value := s.bytesAt a.pa a.n, bad := s.poisonedAt a.pa a.n })
  | .note =>
    let t := s.dieTime die + BitVec.ofNat 64 Config.epsilon
    (s, { a with done := true, gwctd := t, gwct := t })
  | _ => (s, times s a)

/-! ### Issuing loads and stores -/

/-- Record the sectors that a continuation's load reads (R227). -/
def Ctx.noteReads (c : Ctx) (s : State) (secs : List Nat) : State :=
  s.modWarp c.k (fun W => { W with forks := W.forks.map (fun f =>
    if f.meets c.m then { f with reads := (secs ++ f.reads).dedup } else f) })

/-- A continuation's load past 64 recorded sectors waits for the verdict (R227). -/
def Ctx.readRoom (c : Ctx) (secs : List Nat) : Option Cond :=
  if c.W.forks.any (fun f => f.meets c.m && 64 < (secs ++ f.reads).dedup.length) then some .verdict else none

/-- Sectors of a continuation's buffer. -/
def Fork.storeSectors (f : Fork) : List Nat :=
  ((f.stores.foldr (fun (l : List Access) (acc : List Nat) => l.map (fun a => a.pa / 32) ++ acc) []) ++
    f.spad.foldr (fun (l : List Host.Cell) (acc : List Nat) => l.map (fun c => spadSector c.1) ++ acc) []).dedup

/-- A continuation's store past 64 buffered sectors waits for the verdict (R227). -/
def Ctx.writeRoom (c : Ctx) (secs : List Nat) : Option Cond :=
  match c.fork? with
  | some f => if 64 < (secs ++ f.storeSectors).dedup.length then some .verdict else none
  | none => none

/-- Issue global reads: they fly to their homes at D0; at D1 and above they read at once, and land as variable
results do (R113). -/
def Ctx.load (c : Ctx) (cls : Nat) (accs : List Access) (land : Landing) (regs : Nat) (elemHi : List (Nat × Bool)) : State :=
  let secs := (accs.map (fun a => a.pa / 32)).dedup
  let s := c.noteReads c.s secs
  let s := s.txTouchAll c.k accs
  let accs := accs.filter (fun a => !s.txGone c.k a.lane || c.W.txDead a.lane)
  let fl : Flight := { warp := c.k, cls := cls, accs := [], dst := c.w.d.toNat, land := land, elemHi := elemHi }
  let fl := { fl with regs := (List.range regs).map (fun j => c.w.d.toNat + j) }
  if s.buffered c.W then
    let s := accs.foldl (fun s a => if (s.warp c.k).txLive a.lane then s.txRecord c.k c.m a.lane (a.pa / 32) else s) s
    let s := if s.watched c.k then s.defer c.k (.loads false (accs.map (fun a => (a.lane, a.va, a.pa, a.n)))) else s
    s.launchFlight { fl with accs := accs.map (fun a =>
      { a with done := true, value := s.ownBytes c.k c.m a.lane a.pa a.n, bad := s.poisonedAt a.pa a.n }) }
  else s.launchFlight { fl with accs := accs.map (fun a => { a with mine := s.ownCells c.k c.m a.lane a.pa a.n }) }

/-- Buffer a store in its transaction lane (R101). An STE reads the byte it changes. -/
def State.txStore (s : State) (k : Nat) (m : BitVec 16) (a : Access) : State :=
  match a.op with
  | .write bs => s.modTx k a.lane (fun l => { l with
      writes := bs.zipIdx.foldl (fun acc b => minsert acc (a.pa + b.2) b.1) l.writes })
  | .ste fmt hi v =>
    let s := s.txRecord k m a.lane (a.pa / 32)
    let r := steByte fmt hi (s.inK4x a.pa) ((s.ownBytes k m a.lane a.pa 1).headD 0) v
    s.modTx k a.lane (fun l => { l with writes := minsert l.writes a.pa r.1, flags := l.flags ||| r.2.bits })
  | .discard => s.modTx k a.lane (fun l => { l with
      writes := l.writes.filter (fun c => c.1 / 128 != a.pa / 128)
      drops := (a.pa / 128 :: l.drops).dedup })
  | _ => s

/-- Issue global stores: into transactions, into a continuation's buffer, into the round's buffer, or on their way
to their homes (R101, R111, R227, R234). -/
def Ctx.store (c : Ctx) (accs : List Access) : State :=
  let tx := accs.filter (fun a => c.W.txLive a.lane)
  let plain := accs.filter (fun a => !c.W.txLive a.lane)
  let s := c.s.txTouchAll c.k tx
  let s := tx.foldl (fun s a => if (s.warp c.k).txLive a.lane then s.txStore c.k c.m a else s) s
  if plain = [] && tx != [] then s
  else
    match c.fork? with
    | some f => s.modWarp c.k (fun (W : Warp) => { W with forks := W.forks.map (fun g =>
        if g.twin = f.twin then { g with stores := g.stores ++ [plain] } else g) })
    | none => (s.streamStores c.k none plain).bufFull c.k

/-- A store-class instruction that writes no memory of its own is counted, and acknowledged with the write completion times of a
line that nobody has leased (R97, R197, log entry 58); at D1 and above at the commit. -/
def Ctx.storeNote (c : Ctx) (s : State) : State :=
  let late := s.buffered c.W
  let f := s.nextId
  let a : Access := { lane := c.lead, va := 0, pa := 0, n := 0, op := .note }
  let fl : Flight := { warp := c.k, cls := 1, accs := [if late then a else (s.atHome c.W.core c.W.svc a).2], round := late, held := late }
  let s := s.launchFlight fl
  if late then s.defer c.k (.flight f) else s

/-- The low n bytes of D's registers in a lane. -/
def Ctx.dataBytes (c : Ctx) (n i : Nat) : List Byte :=
  (leBytes 16 ((List.range 4).foldl (fun acc j => acc + (if 4 * j < n then (c.W.dReg c.w i j).toNat * 2 ^ (32 * j) else 0)) 0)).take n

/-! ### Returns and acknowledgements -/

/-- Change a flight. -/
def State.modFlight (s : State) (f : Nat) (g : Flight → Flight) : State := { s with flights := mupdate s.flights f g }

/-- Change one access of a flight. -/
def State.setAccess (s : State) (f j : Nat) (a : Access) : State := s.modFlight f (fun F => { F with accs := F.accs.set j a })

/-- The newest open FCALL of a warp that an operation of a lane lies behind. -/
def Warp.forkOver (W : Warp) (op lane : Nat) : Option Fork :=
  W.forks.reverse.find? (fun g => decide (g.since ≤ op) && inMask g.gang (lane / 4))

/-- A continuation is stopped for its verdict (R227). -/
def State.stopFork (s : State) (k : Nat) (g : Fork) (f : Fork → Fork) : State :=
  s.modWarp k (fun W => { (W.onSlices g.gang (fun x => if x.exited then x else { x with wait := some .verdict, woken := false })) with
    forks := W.forks.map (fun h => if h.twin = g.twin then f h else h) })

/-- Poison returns to a warp: it is killed, or a continuation holds the kill (R341, R342). -/
def State.poisonReturns (s : State) (k f : Nat) (a : Access) : State :=
  let W := s.warp k
  if W.ended then s
  else
    match W.forkOver f a.lane with
    | some g => s.stopFork k g (fun h => { h with fatal := some (a.lane, a.va, some a.pa) })
    | none => s.killPoison k a.lane a.va (some a.pa)

/-- What a flight brings lands in its warp (R37, R92, R243): values, flags and write completion times. -/
def State.landFlight (s : State) (f : Nat) : State :=
  match mfind s.flights f with
  | none => s
  | some F =>
    let k := F.warp
    let s : State := { s with flights := merase s.flights f }
    let s := match (if F.land = .none then none else F.accs.find? (·.bad)) with
      | some a => s.poisonReturns k f a
      | none => s.modWarp k (fun W => F.accs.foldl (fun (W : Warp) (a : Access) => (W.completion a.gwct a.gwctd).raise a.flags (sliceBit (a.lane / 4))) (W.landVals F.values))
    (if F.cls < 7 then s.completeOp k f else s).quietCheck k

/-- Whether everything a flight waits for has come. -/
def Flight.complete (F : Flight) : Bool := F.ready && !F.held && F.accs.all (·.done)

end Sys2Proof.Machine
end

