-- ==== Sys2Proof/Machine/LoadStore.lean ====
section
/-! DEFINITION. Loads and stores, 0x180 to 0x188 (R230 to R240). -/

namespace Sys2Proof.Machine

/-- An operation of a class whose counter is at its limit waits; at D1 and above it ends the quantum (R97). -/
def Ctx.room (c : Ctx) (cls : Nat) : State × Option Cond :=
  if c.acts && classLimit cls ≤ c.W.counter cls then
    (if c.s.buffered c.W then c.s.endQuantum c.k else c.s, some (.counter cls (classLimit cls - 1)))
  else (c.s, none)

/-- One wait after another. -/
def thenWait (a : State × Option Cond) (b : Option Cond) : State × Option Cond :=
  match a.2 with
  | some _ => a
  | none => (a.1, b)

/-- The sectors that the acting lanes' addresses lie in. -/
def Ctx.sectors (c : Ctx) (va : Nat → DWord) : List Nat :=
  (c.lanes.filterMap (fun i => (c.trans (va i).toNat).map (fun t => t.phys (va i).toNat / 32))).dedup

/-- At D1 and above a transaction lane's load of a sector that another warp's escalated lane holds waits (R104); at D0 its access
does (`State.fillWaits`). -/
def Ctx.heldLoad (c : Ctx) (va : Nat → DWord) : Option Cond :=
  if c.W.tx.isNone || !c.s.buffered c.W then none
  else
    match ((c.lanes.filter c.W.txLive).filterMap (fun i => (c.trans (va i).toNat).map (fun t => t.phys (va i).toNat / 32))).filter
        (fun x => c.s.heldByOther c.k (32 * x) 1) with
    | [] => none
    | l => some (.held l)

/-- The parts that global loads share. -/
def globalLoad (va : Ctx → Nat → DWord) (n : Ctx → Nat) (check : Ctx → List TrapRec) (eff : Ctx → State) : Kit :=
  { check := check
    first := fun c => c.viewAddrs false (n c) (n c) (va c)
    pages := fun c => c.pageAddrs (va c)
    bad := fun c => c.earlyPoison false (n c) (va c)
    wait := fun c => thenWait (thenWait (c.room 0) (c.readRoom (c.sectors (va c)))) (c.heldLoad (va c))
    eff := fun c => if c.acts then eff c else c.s }

/-- The parts that global stores share. -/
def globalStore (va : Ctx → Nat → DWord) (n : Ctx → Nat) (check : Ctx → List TrapRec) (eff : Ctx → State) : Kit :=
  { check := check
    first := fun c => c.viewAddrs false (n c) (n c) (va c)
    pages := fun c => c.pageAddrs (va c)
    wprot := fun c => c.wprotFaults (n c) (va c)
    wait := fun c => thenWait (c.room 1) (c.writeRoom (c.sectors (va c)))
    eff := fun c => if c.acts then eff c else c.s }

/-- The size code in MOD[2:0]. -/
def Ctx.size (c : Ctx) : Nat := c.mod % 8

/-- Bytes of the access (R231). -/
def Ctx.bytes (c : Ctx) : Nat := sizeBytes c.size

/-- What LD's cache hint asks of the caches (R235). -/
def Ctx.keep (c : Ctx) : Nat :=
  match c.mod / 8 with
  | 1 => 1
  | 2 => 4
  | _ => 0

/-- The behaviour of `execLd`. -/
def kitLd : Kit :=
  globalLoad Ctx.globalB Ctx.bytes
    (fun c => c.globalFaults false c.bytes c.bytes c.globalB)
    (fun c => c.load 0 (c.accesses c.bytes c.keep c.globalB (fun _ => .read))
      (.ext c.size) (sizeRegs c.size) [])

/-- 0x180: LD (R234, R235). -/
def execLd (w : Fields) (s : State) : Host.Outcome State Fault Refusal := run .ld .l96 w kitLd s

/-- The behaviour of `execSt`. -/
def kitSt : Kit :=
  globalStore Ctx.globalB Ctx.bytes
    (fun c => c.globalFaults false c.bytes c.bytes c.globalB)
    (fun c => c.store (c.accesses c.bytes 0 c.globalB (fun i => .write (c.dataBytes c.bytes i))))

/-- 0x181: ST (R234). -/
def execSt (w : Fields) (s : State) : Host.Outcome State Fault Refusal := run .st .l96 w kitSt s

/-- The scratchpad faults of the acting lanes. -/
def Ctx.spadFaults (c : Ctx) (n : Nat) (a : Nat → Nat) : List TrapRec :=
  c.lanes.filterMap (fun i => c.spadFault i (a i) n n)

/-- Poisoned scratchpad words that an instruction reads (R340). -/
def Ctx.spadPoison (c : Ctx) (n : Nat) (a : Nat → Nat) : Option (Nat × DWord × Option Nat) :=
  (c.lanes.find? (fun i => c.s.spadBad c.W.block (a i) n)).map (fun i => (i, BitVec.ofNat 64 (a i), none))

/-- The behaviour of `execLds`. -/
def kitLds : Kit :=
  { check := fun c => c.spadFaults c.bytes c.spadAddr
    bad := fun c => c.spadPoison c.bytes c.spadAddr
    wait := fun c => thenWait (c.room 0) (c.readRoom ((c.lanes.map (fun i => spadSector (c.spadAddr i))).dedup))
    eff := fun c => (
      if !c.acts then c.s
      else
        let m := c.s.spadView c.k c.m
        let s := c.noteReads c.s ((c.lanes.map (fun i => spadSector (c.spadAddr i))).dedup)
        let s := if s.buffered c.W then
            (if s.watched c.k then s.defer c.k (.loads true (c.lanes.map (fun i => (i, 0, c.spadAddr i, c.bytes)))) else s)
          else c.lanes.foldl (fun s i => s.raceSpad c.k false (c.spadAddr i)) s
        let d := c.w.d.toNat
        c.later s 0 (c.lanes.foldr (fun i acc =>
            (extendVal c.size (spadBytes m (c.spadAddr i) c.bytes)).zipIdx.map (fun x => (d + x.2, i, x.1)) ++ acc) [])
          ((List.range (sizeRegs c.size)).map (fun j => d + j))) }

/-- 0x182: LDS (R234). At D1 and above it sees the previous round and the warp's own buffer (R113). -/
def execLds (w : Fields) (s : State) : Host.Outcome State Fault Refusal := run .lds .l96 w kitLds s

/-- Scratchpad bytes that the acting lanes write, the highest lane's where several name one byte (R67). -/
def Ctx.spadCells (c : Ctx) : List Host.Cell :=
  c.lanes.foldl (fun acc i =>
    (c.dataBytes c.bytes i).zipIdx.foldl (fun acc b => minsert acc (c.spadAddr i + b.2) b.1) acc) []

/-- The behaviour of `execSts`. -/
def kitSts : Kit :=
  { check := fun c => c.spadFaults c.bytes c.spadAddr
    wait := fun c => thenWait (c.room 1) (c.writeRoom ((c.lanes.map (fun i => spadSector (c.spadAddr i))).dedup))
    eff := fun c => (
      if !c.acts then c.s
      else
        match c.fork? with
        | some f => c.s.modWarp c.k (fun (W : Warp) => { W with forks := W.forks.map (fun g =>
            if g.twin = f.twin then { g with spad := g.spad ++ [c.spadCells] } else g) })
        | none =>
          let s := c.s.storeSpad c.k c.spadCells
          if (s.warp c.k).killed then s
          else (s.launchFlight { warp := c.k, cls := 1, accs := [], round := c.s.buffered c.W }).bufFull c.k)
    tx := false }

/-- 0x183: STS (R234). -/
def execSts (w : Fields) (s : State) : Host.Outcome State Fault Refusal := run .sts .l96 w kitSts s

/-- The address of a lane's element's byte. -/
def Ctx.elemAddr (c : Ctx) (i : Nat) : DWord := c.a64 i + BitVec.ofNat 64 (elemPlace c.mod (c.b i).toNat).1

/-- Whether a lane's element is the high nibble. -/
def Ctx.elemHi (c : Ctx) (i : Nat) : Bool := (elemPlace c.mod (c.b i).toNat).2

/-- The address faults of an element access: a `.k4x` base is a multiple of 64 (R237). -/
def Ctx.elemFaults (c : Ctx) : List TrapRec :=
  c.lanes.filterMap (fun i =>
    if c.mod = 0 && (c.a64 i).toNat % 64 ≠ 0 then some (c.addrFault i (c.elemAddr i) 1 1)
    else c.globalFault false 1 1 i (c.elemAddr i))

/-- The behaviour of `execLde`. -/
def kitLde : Kit :=
  globalLoad Ctx.elemAddr (fun _ => 1) Ctx.elemFaults
    (fun c => c.load 0 (c.accesses 1 0 c.elemAddr (fun _ => .read)) (.elem c.mod) 1 (c.lanes.map (fun i => (i, c.elemHi i))))

/-- 0x184: LDE (R237). -/
def execLde (w : Fields) (s : State) : Host.Outcome State Fault Refusal := run .lde .l96 w kitLde s

/-- The behaviour of `execSte`. -/
def kitSte : Kit :=
  globalStore Ctx.elemAddr (fun _ => 1) Ctx.elemFaults
    (fun c => c.store (c.accesses 1 0 c.elemAddr (fun i => .ste c.mod (c.elemHi i) (c.d i))))

/-- 0x185: STE (R238). -/
def execSte (w : Fields) (s : State) : Host.Outcome State Fault Refusal := run .ste .l96 w kitSte s

/-- The offset of an LDC lane and its address (R236). -/
def Ctx.argAddr (c : Ctx) (i : Nat) : DWord := c.W.args + BitVec.ofNat 64 (c.spadAddr i)

/-- The faults of LDC: kinds 1, 3 and 5 (R236). -/
def Ctx.argFaults (c : Ctx) : List TrapRec :=
  c.lanes.filterMap (fun i =>
    let va := c.argAddr i
    if va.toNat % c.bytes ≠ 0 then some (c.addrFault i va 1 c.bytes)
    else if 65536 < c.spadAddr i + c.bytes then some (c.addrFault i va 3 c.bytes)
    else c.globalFault false c.bytes 1 i va)

/-- The behaviour of `execLdc`. -/
def kitLdc : Kit :=
  globalLoad Ctx.argAddr Ctx.bytes Ctx.argFaults
    (fun c => c.load 0 (c.accesses c.bytes 0 c.argAddr (fun _ => .read)) (.ext c.size) (sizeRegs c.size) [])

/-- 0x186: LDC (R236). -/
def execLdc (w : Fields) (s : State) : Host.Outcome State Fault Refusal := run .ldc .l96 w kitLdc s

/-- The behaviour of `execPref`. -/
def kitPref : Kit :=
  { wait := fun c => c.room 0
    eff := fun c => (
      if !c.acts then c.s
      else
        let keep := if c.mod = 0 then 0 else 3
        let accs : List Access := c.lanes.foldr (fun i acc =>
          let va := c.a64 i
          if 2 ^ 48 ≤ va.toNat then acc
          else match (if c.W.mode = .firmware then some (identityTrans va.toNat) else c.s.lookFor c.W.core c.W.queue va.toNat) with
            | some t => (List.range 4).map (fun j => { lane := i, va := va, pa := t.phys va.toNat / 128 * 128 + 32 * j, n := 32, op := .read, lc := t.lc, uc := t.uc, keep := keep }) ++ acc
            | none => acc) []
        let late := c.s.buffered c.W
        c.s.launchFlight { warp := c.k, cls := 0, accs := accs, round := late }) }

/-- 0x187: PREF drops what does not translate, raises nothing and consumes nothing (R239, R340). -/
def execPref (w : Fields) (s : State) : Host.Outcome State Fault Refusal := run .pref .l64 w kitPref s

/-- The line a DISCARD lane names. -/
def Ctx.lineAddr (c : Ctx) (i : Nat) : DWord := c.a64 i &&& ~~~(127 : DWord)

/-- The behaviour of `execDiscard`. -/
def kitDiscard : Kit :=
  let K := globalStore Ctx.lineAddr (fun _ => 128) (fun c => c.globalFaults false 128 1 c.a64)
    (fun c => c.store ((c.accesses 128 0 c.lineAddr (fun _ => .discard)).foldl (fun (acc : List Access) a =>
      if acc.any (fun b => b.pa == a.pa && !c.W.txLive b.lane && !c.W.txLive a.lane) then acc else acc ++ [a]) []))
  { K with wprot := fun c => c.wprotFaults 128 c.a64, fork := false }

/-- 0x188: DISCARD; lanes that name one line discard it once (R240). -/
def execDiscard (w : Fields) (s : State) : Host.Outcome State Fault Refusal := run .discard .l64 w kitDiscard s

end Sys2Proof.Machine
end

