-- ==== Sys2Proof/Machine/Atomic.lean ====
section
/-! DEFINITION. Atomics and transactions, 0x200 to 0x205 (R99, R101 to R104, R241 to R244). -/

namespace Sys2Proof.Machine

/-- The operation of an atomic instruction, and whether it is `.b64`. -/
def Ctx.amoKind (c : Ctx) : Nat := c.mod % 16
/-- `.b64`. -/
def Ctx.amoWide (c : Ctx) : Bool := c.w.mod.getLsbD 4
/-- Bytes of the word. -/
def Ctx.amoBytes (c : Ctx) : Nat := if c.amoWide then 8 else 4

/-- The compare value; only `.cas` has one. -/
def Ctx.amoCmp (c : Ctx) (i : Nat) : DWord := if c.amoKind = 9 then c.W.opWide c.amoWide c.w.c i else 0

/-- The operand b; that of `.fadd`, `.fmin` and `.fmax` stands in an FP32 position (R241). -/
def Ctx.amoVal (c : Ctx) (i : Nat) : DWord :=
  if 10 ≤ c.amoKind && c.amoKind ≤ 12 then (c.W.opF32 c.w.b i).setWidth 64 else c.W.opWide c.amoWide c.w.b i

/-- The operation of one lane at its home. -/
def Ctx.amoOp (c : Ctx) (i : Nat) : AccOp := .rmw c.amoKind c.amoWide (c.amoVal i) (c.amoCmp i)

/-- The registers of an atomic result. -/
def Ctx.amoRegs (c : Ctx) : List Nat := if c.amoWide then [c.w.d.toNat, c.w.d.toNat + 1] else [c.w.d.toNat]

/-- The parts that AMO and RED share. -/
def atomic (cls : Nat) (eff : Ctx → State) : Kit :=
  { check := fun c => c.globalFaults true c.amoBytes c.amoBytes c.a64
    first := fun c => c.viewAddrs true c.amoBytes c.amoBytes c.a64
    pages := fun c => c.pageAddrs c.a64
    wprot := fun c => c.wprotFaults c.amoBytes c.a64
    wait := fun c => if cls < 7 then c.room cls else (c.s, none)
    eff := fun c => if c.acts then eff c else c.s
    tx := false
    fork := false }

/-- Send atomic operations off; at D1 and above they wait for the commit (R112, R243). -/
def Ctx.sendAtomic (c : Ctx) (fl : Flight) : State :=
  let accs := c.accesses c.amoBytes 0 c.a64 c.amoOp
  let s := c.s.noteWrites c.k ((accs.map (fun a => a.pa / 32)).dedup)
  let late := s.buffered c.W
  let f := s.nextId
  let s := s.launchFlight { fl with accs := accs, round := late, held := late }
  if late then s.defer c.k (.flight f) else s

/-- The behaviour of `execAmo`. Where a translated lane's word is poisoned while another lane cannot go on, the words of the
other translated lanes are still changed, unless they would wait for a commit (R341, R343). -/
def kitAmo : Kit :=
  { atomic 7 (fun c =>
      let fl : Flight := { warp := c.k, cls := 7, accs := [], dst := c.w.d.toNat, land := .words c.amoRegs.length, regs := c.amoRegs }
      let s := c.sendAtomic fl
      if s.buffered c.W then s.endQuantum c.k else s) with
    bad := fun c => c.earlyPoison true c.amoBytes c.a64
    spoilt := fun c => if c.s.buffered c.W then c.s else c.sendAtomic { warp := c.k, cls := 7, accs := [] } }

/-- 0x200: AMO (R241 to R243). -/
def execAmo (w : Fields) (s : State) : Host.Outcome State Fault Refusal := run .amo .l96 w kitAmo s

/-- The behaviour of `execRed`. -/
def kitRed : Kit :=
  atomic 1 (fun c => (c.sendAtomic { warp := c.k, cls := 1, accs := [] }).bufFull c.k)

/-- 0x201: RED (R241 to R243). -/
def execRed (w : Fields) (s : State) : Host.Outcome State Fault Refusal := run .red .l96 w kitRed s

/-- Apply scratchpad atomics lane by lane: the state, the old words, the flags, and the lanes whose word was
poisoned (R243, R341). -/
def State.amosGo (s : State) (k b kind : Nat) (wide : Bool) (lanes : List (Nat × Nat × DWord × DWord)) :
    State × List (Nat × DWord) × FlagSet × List Nat :=
  let n := if wide then 8 else 4
  lanes.foldl (fun acc l =>
    let (s, olds, fl, bad) := acc
    if s.spadBad b l.2.1 n then (s, olds, fl, bad ++ [l.1])
    else
      let old : DWord := BitVec.ofNat 64 (leNat (s.spadRead b l.2.1 n))
      let r := amoNew kind wide old l.2.2.1 l.2.2.2
      (s.spadWrite k b l.2.1 (leBytes n r.1.toNat), olds ++ [(l.1, old)], fl.or r.2, bad)) (s, [], FlagSet.none, [])

/-- Values of an atomic result. -/
def amoVals (dst : Nat) (wide : Bool) (olds : List (Nat × DWord)) : List (Nat × Nat × Word) :=
  if wide then pairVals dst olds else olds.map (fun o => (dst, o.1, loHalf o.2))

/-- The lanes of an AMOS: lane, address, operand and compare value. -/
def Ctx.amosLanes (c : Ctx) : List (Nat × Nat × DWord × DWord) :=
  c.lanes.map (fun i => (i, (c.a i).toNat, c.amoVal i, c.amoCmp i))

/-- The behaviour of `execAmos`. -/
def kitAmos : Kit :=
  { check := fun c => c.spadFaults c.amoBytes (fun i => (c.a i).toNat)
    eff := fun c => (
      if !c.acts then c.s
      else
        let s := c.s.noteWrites c.k ((c.lanes.map (fun i => spadSector (c.a i).toNat)).dedup)
        if s.buffered c.W then
          let f := s.nextId
          let s := s.launchFlight { warp := c.k, cls := 7, accs := [], dst := c.w.d.toNat, regs := c.amoRegs, reads := true, round := true, held := true, ready := false }
          (s.defer c.k (.amos c.k c.w.d.toNat c.amoKind c.amoWide c.amosLanes f)).endQuantum c.k
        else
          let r := s.amosGo c.k c.W.block c.amoKind c.amoWide c.amosLanes
          match r.2.2.2 with
          | i :: _ => r.1.killPoison c.k i ((c.a i).setWidth 64) none
          | [] => (r.1.launchFlight { warp := c.k, cls := 7, accs := [], reads := true, vals := amoVals c.w.d.toNat c.amoWide r.2.1, regs := c.amoRegs }).modWarp c.k (fun W => W.raise r.2.2.1.bits))
    tx := false
    fork := false }

/-- 0x202: AMOS (R242, R243). -/
def execAmos (w : Fields) (s : State) : Host.Outcome State Fault Refusal := run .amos .l96 w kitAmos s

/-! ### Transactions -/

/-- The aborts in a row of a lane at a TXOPEN address (R104). -/
def Warp.triesAt (W : Warp) (i : Nat) (pc : DWord) : Nat :=
  if mget 0 W.txAddr i = pc then mget 0 W.txTries i else 0

/-- The behaviour of `execTxopen`. -/
def kitTxopen : Kit :=
  { eff := fun c => (
      match c.W.tx with
      | some t => (t.lanes.map (·.1)).foldl (fun s i => s.txAbort c.k i 5 0) c.s
      | none =>
        if !c.acts then c.s
        else
          let now := c.s.dieTime (c.W.core / 192)
          let lane (i : Nat) : Nat × TxLane :=
            let n := c.W.triesAt i c.pc
            (i, { tries := n
                  esc := n == 8
                  since := if n = 8 then BitVec.ofNat 64 (mget now.toNat c.W.txSince i) else 0 })
          let s := c.s.modWarp c.k (fun W => { W with
            tx := some { addr := c.pc, since := c.s.nextId, lanes := c.lanes.map lane, cnt := W.cnt }
            txAddr := c.lanes.foldl (fun m i => minsert m i c.pc) W.txAddr
            txTries := c.lanes.foldl (fun m i => mput 0 m i (c.W.triesAt i c.pc)) W.txTries
            txSince := c.lanes.foldl (fun m i =>
              if c.W.triesAt i c.pc = 8 then (match mfind m i with
                | some _ => m
                | none => minsert m i now.toNat) else merase m i) W.txSince })
          c.put s c.w.d.toNat (c.lanes.map (fun i => (i, BitVec.ofNat 32 (c.W.triesAt i c.pc)))))
    fork := false }

/-- 0x203: TXOPEN (R101, R104, R244). -/
def execTxopen (w : Fields) (s : State) : Host.Outcome State Fault Refusal := run .txopen .l64 w kitTxopen s

/-- The sectors a lane writes. -/
def TxLane.written (l : TxLane) : List Nat :=
  ((sectorsOf l.writes) ++ l.drops.foldr (fun d acc => [4 * d, 4 * d + 1, 4 * d + 2, 4 * d + 3] ++ acc) []).dedup

/-- Whether two lanes conflict: a common sector that one of them writes (R103). -/
def TxLane.clash (a b : TxLane) : Bool :=
  a.written.any (fun x => b.foot.contains x || b.written.contains x) || b.written.any a.foot.contains

/-- Abort lanes with a cause. -/
def State.txAbortMany (s : State) (k cause : Nat) (l : List Nat) : State := l.foldl (fun s i => s.txAbort k i cause 0) s

/-- The live lanes of a warp's transaction, ascending. -/
def State.txAlive (s : State) (k : Nat) : List (Nat × TxLane) :=
  match (s.warp k).tx with
  | none => []
  | some t => t.lanes.filter (fun l => l.2.cause == 0)

/-- Step 1 of R103: of each pair of surviving lanes that conflict, the higher loses. -/
def State.txLanes (s : State) (k : Nat) : State :=
  let ls := s.txAlive k
  s.txAbortMany k 1 ((ls.filter (fun l => ls.any (fun x => x.1 < l.1 && x.2.clash l.2))).map (·.1))

/-- Step 2 of R103: every sector read still holds the value that was read. -/
def State.txValidate (s : State) (k : Nat) : State :=
  let stale (l : TxLane) : Bool := l.reads.any (fun r => s.bytesAt (r.1 * 32) 32 != r.2)
  let s := (s.txAlive k).foldl (fun s l => l.2.reads.foldl (fun s r => s.askFar (r.1 * 32) (fun p => .atom p (r.1 * 32))) s) s
  s.txAbortMany k 2 (((s.txAlive k).filter (fun l => stale l.2)).map (·.1))

/-- One lane's writes take effect at their homes (R103). -/
def State.txApply (s : State) (k : Nat) (l : TxLane) : State :=
  let W := s.warp k
  let one (s : State) (a : Access) : State :=
    let r := s.atHome W.core W.svc a
    r.1.modWarp k (fun W => W.completion r.2.gwct r.2.gwctd)
  let s := s.modWarp k (fun W => W.raise l.flags)
  let s := l.drops.foldl (fun s d => one s { lane := 0, va := 0, pa := d * 128, n := 128, op := .discard, committing := true }) s
  (runsOf l.writes).foldl (fun s r => one s { lane := 0, va := 0, pa := r.1, n := r.2.length, op := .write r.2, committing := true }) s

/-- The status of a lane (R103 Table 5). -/
def TxLane.status (l : TxLane) : Word :=
  BitVec.ofNat 32 (l.tries * 2 ^ 24 + (if l.esc then 2 ^ 16 else 0) + l.code % 256 * 256 + l.cause)

/-- TXSEAL's three steps and its statuses (R103, R104): the transaction is over. The saved counters return in the slices that
hold transaction lanes (log entry 72). -/
def State.txSeal (s : State) (k d : Nat) (late : Bool) : State :=
  let s := (s.txLanes k).txValidate k
  let live := s.txAlive k
  let s := live.foldl (fun s l => s.txApply k l.2) s
  let s := s.noteWrites k ((live.foldr (fun l acc => l.2.written ++ acc) []).dedup)
  match (s.warp k).tx with
  | none => s
  | some t =>
    let s : State := { s with holds := s.holds.filter (fun h => h.2.1 != k) }
    let ok := live.map (·.1)
    let s := s.modWarp k (fun W => { W with
      tx := none
      txAddr := ok.foldl (fun m i => merase m i) W.txAddr
      txTries := ok.foldl (fun m i => merase m i) W.txTries
      txSince := ok.foldl (fun m i => merase m i) W.txSince
      cnt := (lanesIn (maskOf ((t.lanes.map (fun l => l.1 / 4)))) W.width).foldl (fun m i => mput 0 m i (mget 0 t.cnt i)) W.cnt })
    s.launchFlight { warp := k, cls := 7, accs := [], vals := t.lanes.map (fun l => (d, l.1, l.2.status)), regs := [d], round := late }

/-- The slices that hold transaction lanes and have not exited. -/
def Warp.txSlices (W : Warp) : BitVec 16 :=
  match W.tx with
  | none => 0
  | some t => maskOf (t.lanes.map (fun l => l.1 / 4)) &&& W.alive

/-- The slices that wait at TXSEAL. -/
def Warp.atSeal (W : Warp) : BitVec 16 :=
  maskOf ((W.slices.zipIdx.filter (fun x => x.1.wait == some .txseal)).map (·.2))

/-- Sectors of the transaction that another warp's escalated lane holds (R104). -/
def State.txHeld (s : State) (k : Nat) : List Nat :=
  ((s.txAlive k).foldr (fun l acc => l.2.foot ++ acc) []).filter (fun x => s.heldByOther k (x * 32) 1)

/-- What the commit of a warp's transaction writes: addresses and lengths. -/
def State.txRanges (s : State) (k : Nat) : List (Nat × Nat) :=
  (s.txAlive k).foldr (fun l acc => (runsOf l.2.writes).map (fun r => (r.1, r.2.length)) ++ l.2.drops.map (fun d => (128 * d, 128)) ++ acc) []

/-- The course of TXSEAL: reads return and the warp's own earlier accesses to what it writes are made (R94), every slice of the transaction arrives, held sectors come free (R103,
R104); at D1 and above the commit is the round's (R244). -/
def Ctx.sealWait (c : Ctx) : State × Option Cond :=
  if c.W.tx.isNone then (c.s, none)
  else if !c.s.buffered c.W && (c.s.readsOut c.k c.s.nextId || c.s.onWay c.k (c.s.txRanges c.k)) then (c.s, some (.fence (some 0) true c.s.nextId))
  else if (c.W.txSlices &&& ~~~(c.W.atSeal ||| c.m)) ≠ 0 then (c.s, some .txseal)
  else if c.s.buffered c.W then ((c.s.defer c.k (.txseal c.k c.w.d.toNat)).endQuantum c.k, some .txseal)
  else
    match c.s.txHeld c.k with
    | [] => (c.s, none)
    | l => (c.s, some (.held l))

/-- The behaviour of `execTxseal`. -/
def kitTxseal : Kit :=
  { wait := Ctx.sealWait
    eff := fun c => if c.W.tx.isNone then c.s
      else (c.s.txSeal c.k c.w.d.toNat false).wake c.k (fun x => x == .txseal)
    fork := false }

/-- 0x204: TXSEAL (R103, R244). -/
def execTxseal (w : Fields) (s : State) : Host.Outcome State Fault Refusal := run .txseal .l64 w kitTxseal s

/-- The behaviour of `execTxdrop`. -/
def kitTxdrop : Kit :=
  { eff := fun c =>
    (c.lanes.filter c.W.txLive).foldl (fun s i => s.txAbort c.k i 4 ((c.a i).extractLsb' 0 8).toNat) c.s }

/-- 0x205: TXDROP (R102, R244). -/
def execTxdrop (w : Fields) (s : State) : Host.Outcome State Fault Refusal := run .txdrop .l64 w kitTxdrop s

end Sys2Proof.Machine
end

