-- ==== Sys2Proof/Machine/Sync.lean ====
section
/-! DEFINITION. Fences, waits, grace periods and pools, 0x206 to 0x20E (R95 to R100, R105 to R110, R245 to R251,
R292, R293). -/

namespace Sys2Proof.Machine

/-- Whether what a fence waits for has come (R95). -/
def State.fenceDone (s : State) (k : Nat) (rel : Option Nat) (acq : Bool) (upto : Nat) : Bool :=
  (match rel with
   | some sc => s.released k upto sc
   | none => true) && (!acq || !s.readsOut k upto)

/-- The behaviour of `execFence`. -/
def kitFence : Kit :=
  let scope (c : Ctx) : Nat := (c.w.mod.extractLsb' 2 3).toNat
  let rel (c : Ctx) : Option Nat := if c.w.mod.getLsbD 1 then some (scope c) else none
  let acq (c : Ctx) : Bool := c.w.mod.getLsbD 0
  { wait := fun c => (
      if !c.acts || 1 ≤ c.W.detlvl then (c.s, none)
      else
        match c.wake with
        | some (.fence _ _ _) => (c.s, none)
        | _ =>
          if c.s.fenceDone c.k (rel c) (acq c) c.s.nextId then (c.s, none)
          else (c.s, some (.fence (rel c) (acq c) c.s.nextId)))
    eff := fun c => if c.acts && (rel c).isSome then c.s.modWarp c.k (fun W => W.countRelease (scope c)) else c.s
    tx := false
    fork := false }

/-- 0x206: FENCE (R95, R245); at D1 and above it waits for nothing (R113). -/
def execFence (w : Fields) (s : State) : Host.Outcome State Fault Refusal := run .fence .l64 w kitFence s

/-- The block whose matrix operations are performed for a block: the first copy's for a redundant one (R136). -/
def State.mxBlock (s : State) (b : Nat) : Nat := if s.shadow b then ((s.block? b).bind (·.twinBlock)).getD b else b

/-- The core whose matrix unit runs a block's operations: a redundant copy's run in the unit of the block it copies (R136). -/
def State.mxCore (s : State) (W : Warp) : Nat := if s.shadow W.block then ((s.block? (s.mxBlock W.block)).map (·.core)).getD W.core else W.core

/-- The error state of the matrix unit that the warp's block owns: reason and record address (R326). At D1 and above it is that which
the round has found (R128, R177). -/
def Ctx.mxError (c : Ctx) : List TrapRec :=
  let U := (c.s.core (c.s.mxCore c.W)).mx
  match (if c.s.buffered c.W then U.errShown else U.err) with
  | some (reason, addr) =>
    if U.owner = some (c.s.mxBlock c.W.block) then [{ c.recLead 0x21 with taddr := addr, info0 := BitVec.ofNat 32 reason }] else []
  | none => []

/-- A fault that an engine of a class has met, ready for delivery outside TMODE (R347). -/
def Ctx.heldFault (c : Ctx) (cls : Nat) : Option TrapRec :=
  if c.W.tmode then none else c.W.held.find? (fun r => r.slice == cls && r.whole)

/-- Deliver a held fault at this instruction. -/
def Ctx.deliver (c : Ctx) (r : TrapRec) : TrapRec :=
  { c.recLead r.cause with taddr := r.taddr, info0 := r.info0, info1 := r.info1, op := r.lane }

/-- The count a WAITC waits for (R246). -/
def Ctx.waitCount (c : Ctx) : Nat := (c.w.a.bits.extractLsb' 0 8).toNat

/-- Whether a WAITC's counter is low enough (R98). -/
def Ctx.waitOver (c : Ctx) : Bool := !c.acts || c.W.counter c.mod ≤ c.waitCount || classLimit c.mod ≤ c.waitCount

/-- The behaviour of `execWaitc`. -/
def kitWaitc : Kit :=
  { check := fun c => (
      if !c.acts then []
      else if c.mod = 3 && c.mxError != [] then c.mxError
      else if c.waitOver then
        (match c.heldFault c.mod with
         | some r => [c.deliver r]
         | none => [])
      else [])
    wait := fun c => (
      if c.waitOver then (c.s, none)
      else (if c.s.buffered c.W then c.s.endQuantum c.k else c.s, some (.counter c.mod c.waitCount)))
    eff := fun c => c.s
    tx := false
    fork := false }

/-- 0x207: WAITC (R98, R246). An engine's fault is delivered at it once its counter has fallen (R347). -/
def execWaitc (w : Fields) (s : State) : Host.Outcome State Fault Refusal := run .waitc .l64 w kitWaitc s

/-- The words a TRYWAIT tests: lane, address, home word and expected value. -/
def Ctx.testWords (c : Ctx) : List (Nat × DWord × Nat × Word) :=
  c.lanes.filterMap (fun i => (c.trans (c.a64 i).toNat).map (fun t => (i, c.a64 i, t.phys (c.a64 i).toNat, c.b i)))

/-- Whether a word differs from what is expected. -/
def State.wordsDiffer (s : State) (l : List (Nat × DWord × Nat × Word)) : Bool := l.any (fun x => s.wordAt x.2.2.1 != x.2.2.2)

/-- The hint of a TRYWAIT. -/
def Ctx.hint (c : Ctx) : Word := c.c c.lead

/-- The behaviour of `execTrywait`. -/
def kitTrywait : Kit :=
  { word := fun c => (
      if c.acts && 1 ≤ c.W.detlvl && c.hint ≠ 0 then
        [{ c.recLead 0x50 with info0 := 2, info1 := BitVec.ofNat 32 c.op.code.toNat }]
      else [])
    check := fun c => c.globalFaults true 4 4 c.a64
    first := fun c => c.viewAddrs true 4 4 c.a64
    pages := fun c => c.pageAddrs c.a64
    bad := fun c =>
      (c.testWords.find? (fun x => c.s.poisonedAt x.2.2.1 4)).map (fun x => (x.1, x.2.1, some x.2.2.1))
    wait := fun c => (
      let l := c.testWords
      match c.wake with
      | some (.words _ _ _ _ _) => (c.s, none)
      | _ =>
        if !c.acts then (c.s, none)
        else if c.s.buffered c.W then (c.s.endQuantum c.k, some (.words l none c.s.nextId c.w.d.toNat c.next))
        else if c.s.onWay c.k (l.map (fun x => (x.2.2.1, 4))) then (c.s, some (.fence (some 0) true c.s.nextId))
        else if c.s.wordsDiffer l then (c.s, none)
        else
          let limit := if c.hint = 0 then none else some (c.s.dieTime (c.W.core / 192) + c.hint.setWidth 64)
          (c.s, some (.words l limit c.s.nextId c.w.d.toNat c.next)))
    eff := fun c => (
      if !c.acts then c.s
      else
        let l := c.testWords
        let s := l.foldl (fun s x => (s.dropCopy c.W.core (x.2.2.1 / 32)).dropCopy (768 + c.W.core / 192) (x.2.2.1 / 32)) c.s
        s.launchFlight {
          warp := c.k, cls := 7, accs := [], reads := true, regs := [c.w.d.toNat]
          vals := l.map (fun x => (c.w.d.toNat, x.1, boolWord (s.wordAt x.2.2.1 != x.2.2.2))) })
    tx := false
    fork := false }

/-- 0x208: TRYWAIT (R100, R247): its reads are made at the word's home. -/
def execTrywait (w : Fields) (s : State) : Host.Outcome State Fault Refusal := run .trywait .l96 w kitTrywait s

/-! ### Grace periods -/

/-- The wait for earlier reads before a quiescent point (R292). -/
def Ctx.quietWait (c : Ctx) : Option Cond :=
  match c.wake with
  | some (.fence none true _) => none
  | _ => c.acquireWait

/-- The behaviour of `execQsp`. -/
def kitQsp : Kit :=
  { wait := fun c => (c.s, if c.acts then c.quietWait else none)
    eff := fun c => if !c.acts then c.s
      else if c.s.buffered c.W then c.s.defer c.k (.qsp c.k) else c.s.quietPoint c.k
    tx := false
    fork := false }

/-- 0x209: QSP (R105, R248); at D1 and above it takes effect at the commit (R112). -/
def execQsp (w : Fields) (s : State) : Host.Outcome State Fault Refusal := run .qsp .l64 w kitQsp s

/-- GPREQ's request: the state and the grace number (R107). -/
def State.gpRequest (s : State) (p : Nat) : State × DWord :=
  match mfind s.parts p with
  | none => (s, 0)
  | some P =>
    match P.gpNow with
    | none => ((s.graceStart p).modPart p (fun P => { P with gpMax := max P.gpMax (P.gpDone + 1) }), BitVec.ofNat 64 (P.gpDone + 1))
    | some _ =>
      (s.modPart p (fun P => { P with gpNext := true, gpMax := max P.gpMax (P.gpDone + 2) }), BitVec.ofNat 64 (P.gpDone + 2))

/-- The behaviour of `execGpreq`. -/
def kitGpreq : Kit :=
  { eff := fun c => (
      let d := c.w.d.toNat
      if !c.acts then c.s
      else if c.s.buffered c.W then
        let f := c.s.nextId
        let s := c.s.launchFlight { warp := c.k, cls := 7, accs := [], dst := d, regs := [d, d + 1], round := true, held := true, ready := false }
        (s.defer c.k (.gpreq f c.lanes)).endQuantum c.k
      else
        let r := c.s.gpRequest (c.s.partOfWarp c.W)
        c.later r.1 7 (pairVals d (c.lanes.map (fun i => (i, r.2)))) [d, d + 1])
    tx := false
    fork := false }

/-- 0x20A: GPREQ (R107, R248). -/
def execGpreq (w : Fields) (s : State) : Host.Outcome State Fault Refusal := run .gpreq .l64 w kitGpreq s

/-- GP_DONE of a partition. -/
def State.gpDone (s : State) (p : Nat) : Nat := ((mfind s.parts p).map (·.gpDone)).getD 0

/-- The grace number a GPWAIT waits for: no higher than the highest handed out (R248). -/
def Ctx.graceNumber (c : Ctx) : Nat :=
  min (c.a64 c.lead).toNat (((mfind c.s.parts (c.s.partOfWarp c.W)).map (·.gpMax)).getD 0)

/-- The behaviour of `execGpwait`. -/
def kitGpwait : Kit :=
  { wait := fun c => (
      let p := c.s.partOfWarp c.W
      if !c.acts then (c.s, none)
      else
        match c.wake with
        | some (.grace _) => (c.s, none)
        | _ =>
          match c.quietWait with
          | some why => (c.s, some why)
          | none =>
            if c.s.buffered c.W then ((c.s.defer c.k (.qsp c.k)).endQuantum c.k, some (.grace c.graceNumber))
            else
              let s := c.s.quiescent c.k
              if c.graceNumber ≤ s.gpDone p then (s, none) else (s, some (.grace c.graceNumber)))
    eff := fun c => c.s
    tx := false
    fork := false }

/-- 0x20B: GPWAIT (R105, R107, R248). -/
def execGpwait (w : Fields) (s : State) : Host.Outcome State Fault Refusal := run .gpwait .l64 w kitGpwait s

/-! ### Pools -/

/-- EN of POOL_CFG_n (R109 Table 6). -/
def Die.poolEn (D : Die) (n : Nat) : Bool := (mget 0 D.poolCfg n).getLsbD 63
/-- BUSY. -/
def Die.poolBusy (D : Die) (n : Nat) : Bool := (mget 0 D.poolCfg n).getLsbD 62
/-- PART. -/
def Die.poolPart (D : Die) (n : Nat) : Nat := ((mget 0 D.poolCfg n).extractLsb' 56 4).toNat
/-- The block size. -/
def Die.poolBlock (D : Die) (n : Nat) : Nat := 2 ^ (((mget 0 D.poolCfg n).extractLsb' 52 4).toNat + 6)
/-- BASE. -/
def Die.poolBase (D : Die) (n : Nat) : Nat := ((mget 0 D.poolCfg n).extractLsb' 6 42).toNat * 64
/-- COUNT. -/
def Die.poolCount (D : Die) (n : Nat) : Nat := (hiHalf (mget 0 D.poolStat n)).toNat

/-- Change FREE of a pool. -/
def Die.setFree (D : Die) (n : Nat) (f : Nat → Nat) : Die :=
  let x := mget 0 D.poolStat n
  { D with poolStat := mput 0 D.poolStat n (pairOf (BitVec.ofNat 32 (f (loHalf x).toNat)) (hiHalf x)) }

/-- The pool fault of a lane, lowest reason first (R251, R315). -/
def Ctx.poolFault (c : Ctx) (lane pool : Nat) (va : Option DWord) : Option TrapRec :=
  let D := c.s.die (c.W.core / 192)
  let r (reason : Nat) : Option TrapRec :=
    some { c.flt lane 0x13 with taddr := va.getD 0, info0 := BitVec.ofNat 32 pool, info1 := BitVec.ofNat 32 reason }
  if !D.poolEn pool then r 1
  else if D.poolPart pool ≠ c.s.partOfWarp c.W then r 2
  else
    match va with
    | none => none
    | some a =>
      if a.toNat % D.poolBlock pool ≠ 0 then r 3
      else if a.toNat < D.poolBase pool || D.poolBase pool + D.poolCount pool * D.poolBlock pool ≤ a.toNat then r 4
      else none

/-- Push a block on a die's pool: its link is written into its first 8 bytes (R250). -/
def State.poolPush (s : State) (svc die pool : Nat) (va : DWord) (pa : Nat) : State :=
  let link := mget 0 (s.die die).poolHead pool
  (s.homePutFor svc pa (leBytes 8 link.toNat)).modDie die (fun D =>
    { D with poolHead := mput 0 D.poolHead pool va }.setFree pool (· + 1))

/-- Pop a block for a core's warp of a class: the state and its address, 0 where the list is empty (R79, R109, R250). The block's
first 8 bytes are undefined from then on (R109): they are free. -/
def State.poolPop (s : State) (core svc queue pool : Nat) : State × DWord :=
  let die := core / 192
  let head := mget 0 (s.die die).poolHead pool
  if head = 0 then (s, 0)
  else
    let t := s.lookFor core queue head.toNat
    let link := BitVec.ofNat 64 ((t.map (fun t => leNat (s.bytesAt (t.phys head.toNat) 8))).getD 0)
    let s := s.modDie die (fun D => { D with poolHead := mput 0 D.poolHead pool link }.setFree pool (· - 1))
    (match t with
     | some t => if t.rdo then s else (s.homePutFor svc (t.phys head.toNat) ((List.range 8).map (Config.freeByte s.fresh))).freshen
     | none => s, head)

/-- The blocks that lanes would pop, as far as their links can be read: their addresses (R110). -/
def State.poolChain (s : State) (core queue die : Nat) (pools : List Nat) : List Nat :=
  let go (acc : NMap DWord × List Nat) (n : Nat) : NMap DWord × List Nat :=
    let head := (mfind acc.1 n).getD (mget 0 (s.die die).poolHead n)
    if head = 0 then acc
    else
      match s.cached core queue head.toNat with
      | some t => (minsert acc.1 n (BitVec.ofNat 64 (leNat (s.bytesAt (t.phys head.toNat) 8))), acc.2 ++ [head.toNat])
      | none => (minsert acc.1 n 0, acc.2 ++ [head.toNat])
  (pools.foldl go ([], [])).2

/-- The pool number of a lane's operand. -/
def poolNo (x : Word) : Nat := (x.extractLsb' 0 4).toNat

/-- Capacity of a die's deferred-free queue (R108). -/
def dfreeLimit : Nat := 4096

/-- Queue deferred frees of a warp of a partition and a class: the state and each lane's answer (R108). -/
def State.dfreeGo (s : State) (die p svc : Nat) (l : List (Nat × DWord × Nat)) : State × List (Nat × Word) :=
  l.foldl (fun acc x =>
    if dfreeLimit ≤ (acc.1.die die).dfree.length then (acc.1, acc.2 ++ [(x.1, 0)])
    else (acc.1.modDie die (fun D => { D with dfree := D.dfree ++ [(x.2.1, x.2.2, 0, p, svc)] }), acc.2 ++ [(x.1, 0xFFFFFFFF)])) (s, [])

/-- The die starts a grace period for entries that none covers, if none is in progress (R108). -/
def State.dfreeStart (s : State) (die p : Nat) : State :=
  let D := s.die die
  if D.dfree.any (fun e => e.2.2.1 == 0 && e.2.2.2.1 == p) && (mfind s.parts p).any (fun P => P.gpNow.isNone)
  then s.graceStart p else s

/-- The entries of a DFREE. -/
def Ctx.dfreeEntries (c : Ctx) : List (Nat × DWord × Nat) := c.lanes.map (fun i => (i, c.a64 i, poolNo (c.b i)))

/-- The behaviour of `execDfree`. -/
def kitDfree : Kit :=
  { check := fun c => c.lanes.filterMap (fun i => c.poolFault i (poolNo (c.b i)) (some (c.a64 i)))
    pages := fun c => c.pageAddrs c.a64
    wprot := fun c => c.wprotFaults 8 c.a64
    eff := fun c => (
      let d := c.w.d.toNat
      if !c.acts then c.s
      else if c.s.buffered c.W then
        let f := c.s.nextId
        let s := c.s.launchFlight { warp := c.k, cls := 7, accs := [], dst := d, regs := [d], round := true, held := true, ready := false }
        (s.defer c.k (.dfree f c.dfreeEntries)).endQuantum c.k
      else
        let die := c.W.core / 192
        let p := c.s.partOfWarp c.W
        let r := c.s.dfreeGo die p c.W.svc c.dfreeEntries
        c.later (r.1.dfreeStart die p) 7 (r.2.map (fun x => (d, x.1, x.2))) [d])
    tx := false
    fork := false }

/-- 0x20C: DFREE (R108, R249). -/
def execDfree (w : Fields) (s : State) : Host.Outcome State Fault Refusal := run .dfree .l96 w kitDfree s

/-- Pop a block for each lane of a warp in turn: the state and the addresses (R250). -/
def State.pallocGo (s : State) (W : Warp) (l : List (Nat × Nat)) : State × List (Nat × DWord) :=
  l.foldl (fun acc x =>
    let r := acc.1.poolPop W.core W.svc W.queue x.2
    (r.1, acc.2 ++ [(x.1, r.2)])) (s, [])

/-- Lane and pool of a PALLOC. -/
def Ctx.pallocLanes (c : Ctx) : List (Nat × Nat) := c.lanes.map (fun i => (i, poolNo (c.a i)))

/-- The behaviour of `execPalloc`. -/
def kitPalloc : Kit :=
  { check := fun c => c.lanes.filterMap (fun i => c.poolFault i (poolNo (c.a i)) none)
    pages := fun c => if c.s.buffered c.W then [] else c.s.poolChain c.W.core c.W.queue (c.W.core / 192) (c.pallocLanes.map (·.2))
    wait := fun c => (
      let D := c.s.die (c.W.core / 192)
      match (c.pallocLanes.map (·.2)).find? D.poolBusy with
      | some n => (c.s, some (.pool n))
      | none =>
        if !c.acts || c.s.buffered c.W then (c.s, none)
        else if c.s.flights.any (fun f => f.2.warp == c.k && f.2.accs.any (fun a => match a.op with
            | .push _ _ => !a.done
            | _ => false)) then (c.s, some (.fence (some 0) false c.s.nextId))
        else (c.s, none))
    eff := fun c => (
      let d := c.w.d.toNat
      if !c.acts then c.s
      else if c.s.buffered c.W then
        let f := c.s.nextId
        let s := c.s.launchFlight { warp := c.k, cls := 7, accs := [], dst := d, regs := [d, d + 1], round := true, held := true, ready := false }
        (s.defer c.k (.palloc f c.pallocLanes)).endQuantum c.k
      else
        let r := c.s.pallocGo c.W c.pallocLanes
        c.later r.1 7 (pairVals d r.2) [d, d + 1])
    tx := false
    fork := false }

/-- 0x20D: PALLOC (R109, R250). It waits for the linking of its pool. -/
def execPalloc (w : Fields) (s : State) : Host.Outcome State Fault Refusal := run .palloc .l64 w kitPalloc s

/-- PFREE's pool: the 64-bit word's bare B register. -/
def Ctx.pfreePool (c : Ctx) (i : Nat) : Nat := poolNo (c.b i)

/-- The behaviour of `execPfree`. -/
def kitPfree : Kit :=
  { check := fun c => c.lanes.filterMap (fun i => c.poolFault i (c.pfreePool i) (some (c.a64 i)))
    pages := fun c => c.pageAddrs c.a64
    wprot := fun c => c.wprotFaults 8 c.a64
    wait := fun c => c.room 1
    eff := fun c => (
      if !c.acts then c.s
      else
        let accs := c.accesses 8 0 c.a64 (fun i => .push (c.pfreePool i) (c.W.core / 192))
        let s := c.s.noteWrites c.k ((accs.map (fun a => a.pa / 32)).dedup)
        let late := s.buffered c.W
        let f := s.nextId
        let s := s.launchFlight { warp := c.k, cls := 1, accs := accs, inOrder := true, round := late, held := late }
        if late then (s.defer c.k (.flight f)).bufFull c.k else s)
    tx := false
    fork := false }

/-- 0x20E: PFREE (R109, R250). -/
def execPfree (w : Fields) (s : State) : Host.Outcome State Fault Refusal := run .pfree .l64 w kitPfree s

end Sys2Proof.Machine
end

