-- ==== Sys2Proof/Machine/EngineOps.lean ====
section
/-! DEFINITION. The copy engine and the gather engine: GATHER, SCATTER, COPY and COPYR, 0x240 to 0x243, and the
events in which an engine makes its moves (R84, R85, R97, R98, R128, R252 to R255, R325, R340, R346, R347). -/

namespace Sys2Proof.Machine

/-! ### Units of a move -/

/-- One end of a unit that an engine moves: a virtual address, or the scratchpad addresses of its bytes. -/
inductive Place
  | glob (va : DWord)
  | spad (bytes : List Nat)
  deriving DecidableEq, Repr

/-- A unit that an engine moves. -/
structure Move where
  lane : Nat
  n    : Nat
  src  : Place
  dst  : Place
  deriving DecidableEq, Repr

/-- Consecutive scratchpad bytes. -/
def spadRun (a n : Nat) : List Nat := (List.range n).map (a + ·)

/-- A length cut at multiples of 8 from a starting address: offsets and lengths. -/
def cutEights (start len : Nat) : List (Nat × Nat) :=
  let head := min len ((8 - start % 8) % 8)
  let body := (len - head) / 8
  let rest := (len - head) % 8
  (if head = 0 then [] else [(0, head)]) ++ (List.range body).map (fun j => (head + 8 * j, 8)) ++
    (if rest = 0 then [] else [(head + 8 * body, rest)])

/-- The units of a copy between global ranges (R254). -/
def copyUnits (dst src : DWord) (len : Nat) : List Move :=
  (if dst.toNat % 8 = src.toNat % 8 then cutEights dst.toNat len else (List.range len).map (fun j => (j, 1))).map
    (fun u => ⟨0, u.2, .glob (src + BitVec.ofNat 64 u.1), .glob (dst + BitVec.ofNat 64 u.1)⟩)

/-- The words of a tile: their global addresses and scratchpad places (R253). -/
def tileUnits (layout : BitVec 96) (base : DWord) (l rows pitch : Nat) : List (DWord × List Nat) :=
  (List.range rows).foldr (fun r acc =>
    (List.range (l / 4)).map (fun j => (base + BitVec.ofNat 64 (r * pitch + 4 * j),
      (List.range 4).map (fun b => layoutAddr layout r 0 0 (4 * j + b)))) ++ acc) []

/-- What an engine operation moves, in order. -/
def EngOp.moves (o : EngOp) : List Move :=
  match o with
  | .gather _ size dst elems => elems.map (fun e => ⟨e.1, size, .glob e.2, .spad (spadRun (dst + e.1 * size) size)⟩)
  | .scatter _ size src elems => elems.map (fun e => ⟨e.1, size, .spad (spadRun (src + e.1 * size) size), .glob e.2⟩)
  | .copyG2s layout base l rows pitch => (tileUnits layout base l rows pitch).map (fun u => ⟨0, 4, .glob u.1, .spad u.2⟩)
  | .copyS2g layout base l rows pitch => (tileUnits layout base l rows pitch).map (fun u => ⟨0, 4, .spad u.2, .glob u.1⟩)
  | .copyr dst src len => copyUnits dst src len
  | .packetCopy _ dst src len => copyUnits dst src len
  | .coll _ _ _ _ _ _ _ _ _ _ _ _ _ _ => []
  | .batch _ => []
  | .unit => []
  | .tap => []

/-- The unit of write that a write-protection fault names (R347). -/
def EngOp.writeUnit (o : EngOp) : Nat :=
  match o with
  | .scatter _ size _ _ => size
  | .copyr dst src _ => if dst.toNat % 8 = src.toNat % 8 then 8 else 1
  | .packetCopy _ dst src _ => if dst.toNat % 8 = src.toNat % 8 then 8 else 1
  | _ => 4

/-- The queue whose page table an engine operation uses. -/
def State.engQueue (s : State) (e : Engine) : Nat :=
  match e.op with
  | .packetCopy q _ _ _ => q
  | _ => (s.warp e.warp).queue

/-- The core whose TLBs and caches an engine operation goes through; a packet's copy goes through the firmware core's. -/
def State.engCore (s : State) (e : Engine) : Nat :=
  match e.op with
  | .packetCopy q _ _ _ => s.queueCore q
  | _ => (s.warp e.warp).core

/-- The service class that an engine operation carries (R79). -/
def State.engSvc (s : State) (e : Engine) : Nat :=
  match e.op with
  | .packetCopy q _ _ _ => ((mfind s.queues q).map (·.qsvc)).getD 0
  | _ => (s.warp e.warp).svc

/-- The translation an engine uses. -/
def State.engTrans (s : State) (e : Engine) (va : Nat) : Option Trans :=
  if (s.warp e.warp).mode = .firmware then some (identityTrans va)
  else (s.cached (s.engCore e) (s.engQueue e) va).or
    (if e.asked.contains (va / 4096) && !s.walking (s.engQueue e) (va / 4096) then s.lookFor (s.engCore e) (s.engQueue e) va else none)

/-- The physical address of a place in memory. -/
def State.engPhys (s : State) (e : Engine) (p : Place) : Option Nat :=
  match p with
  | .glob va => (s.engTrans e va.toNat).map (fun t => t.phys va.toNat)
  | .spad _ => none

/-- Whether a move would write to an RDO page. -/
def State.moveWprot (s : State) (e : Engine) (m : Move) : Bool :=
  match m.dst with
  | .glob va => (s.engTrans e va.toNat).any (·.rdo)
  | .spad _ => false

/-- The addresses of a move for which an engine has no translation; one that would write to an RDO page is not made (R346). -/
def State.moveLacks (s : State) (e : Engine) (m : Move) : List Nat :=
  let one (p : Place) : List Nat := match p with
    | .glob va => if (s.engTrans e va.toNat).isNone then [va.toNat] else []
    | .spad _ => []
  if s.moveWprot e m then [] else one m.src ++ one m.dst

/-- The moves that an engine operation can make now: those that it has not made, up to the first that lacks a translation (R346). -/
def State.engBatch (s : State) (e : Engine) : List Move := (e.op.moves.drop e.made).takeWhile (fun m => s.moveLacks e m == [])

/-- The addresses whose translations an engine operation waits for: those of its first move that lacks one (R346). -/
def State.engMissing (s : State) (e : Engine) : List Nat :=
  (((e.op.moves.drop e.made).find? (fun m => s.moveLacks e m != [])).map (s.moveLacks e)).getD []

/-- Whether an access of the warp to a byte range, issued before an operation, is still on its way (R255). -/
def State.earlierOut (s : State) (k op a n : Nat) : Bool :=
  s.flights.any (fun g => g.2.warp == k && g.1 < op && !g.2.held && g.2.accs.any (fun b =>
    !b.done && (b.adpq || (b.span.1 < a + n && a < b.span.1 + b.span.2))))

/-- Whether an engine operation must still wait for accesses before it, or for a sector that an escalated
transaction holds (R104, R255). -/
def State.engBlocked (s : State) (op : Nat) (e : Engine) : Bool :=
  (s.engBatch e).any (fun m =>
    (match s.engPhys e m.src with
     | some a => s.earlierOut e.warp op a m.n || s.heldByOther e.warp a m.n
     | none => false) ||
    (match s.engPhys e m.dst with
     | some a => s.earlierOut e.warp op a m.n || s.heldStore e.warp 64 op a m.n
     | none => false))

/-- Whether an engine operation comes to a write to an RDO page (R346). -/
def State.engWprot (s : State) (e : Engine) : Bool := (s.engBatch e).any (s.moveWprot e)

/-! ### Making the moves -/

/-- Bytes that the held writes of older operations of the same engine queue supply (R128, R296). -/
def State.queueHeld (s : State) (op : Nat) (e : Engine) : List Host.Cell × List Host.Cell :=
  let put (m : List Host.Cell) (l : List (Nat × List Byte)) : List Host.Cell :=
    l.foldl (fun m r => r.2.zipIdx.foldl (fun m b => minsert m (r.1 + b.2) b.1) m) m
  let core := (s.warp e.warp).core
  s.engines.foldl (fun acc x =>
    if x.1 < op && x.2.cls == e.cls && (s.warp x.2.warp).core == core then
      (put acc.1 x.2.held, if x.2.block = e.block then put acc.2 x.2.heldSpad else acc.2)
    else acc) ([], [])

/-- Bytes read within a sector through the RDC of a die for a class (R70, R79, R84): the element of a gather from another
package, or weights of the matrix unit. UC pages and the host window go past it (R70, R301). -/
def State.rdcRead (s : State) (die svc pa n lc : Nat) (uc : Bool) : State × List Byte × Bool :=
  let sec := pa / 32
  let past := uc || inHostWindow pa
  match (if past then none else s.copyAt (768 + die) die sec) with
  | some c => (s.useRdc die sec, (c.data.drop (pa % 32)).take n, c.bad)
  | none =>
    let s := (if past then s else s.fillFor svc (pa / 128)).askFar pa (fun p => .req p pa n none)
    let home := (s.bytesAt pa n, s.poisonedAt pa n)
    let dur := s.leaseFor pa die lc
    if past || dur = 0 then (s, home)
    else
      let s := s.askFar pa (fun p => .atom p pa)
      let x := s.dieTime (s.homeDie pa) + BitVec.ofNat 64 dur
      let c : Copy := { data := s.bytesAt (sec * 32) 32, expiry := x, bad := s.poisonedAt (sec * 32) 32 }
      ((s.stamp pa die x).enterRdc die svc sec false c, home)

/-- Bytes read within a line at their home for a class: a line that misses is filled (R72, R79), one of a UC page is not, DESIGN
CHOICE (log entry 79). -/
def State.homeRead (s : State) (svc pa n : Nat) (uc : Bool) : State × List Byte × Bool :=
  let s := (if uc then s else s.fillFor svc (pa / 128)).askFar pa (fun p => .req p pa n none)
  (s, s.bytesAt pa n, s.poisonedAt pa n)

/-! ### What an operation reads at D1 and above (R128) -/

/-- Bytes of memory as the commit left them at which an operation reached its engine. -/
def State.asOf (s : State) (op a : Nat) (bs : List Byte) : List Byte := overCells a bs (mget ([], []) s.kept op).1

/-- A scratchpad byte as that commit left it. -/
def State.spadAsOf (s : State) (op a : Nat) (b : Byte) : Byte := (mfind (mget ([], []) s.kept op).2 a).getD b

/-- An engine reads a unit: the state, its bytes and whether they are poisoned. -/
def State.engRead (s : State) (op : Nat) (e : Engine) (own : List Host.Cell × List Host.Cell) (m : Move) : State × List Byte × Bool :=
  let core := s.engCore e
  match m.src with
  | .glob va =>
    match s.engTrans e va.toNat with
    | none => (s, [], false)
    | some t =>
      let pa := t.phys va.toNat
      let gather := match e.op with
        | .gather _ _ _ _ => true
        | _ => false
      let r := if gather && packageOf pa != s.zinc.self then s.rdcRead (core / 192) (s.engSvc e) pa m.n t.lc t.uc
        else s.homeRead (s.engSvc e) pa m.n t.uc
      (r.1.raceCheckAs e.warp e.rel false va pa, overCells pa (s.asOf op pa r.2.1) own.1, r.2.2)
  | .spad l =>
    (s.raceSpadAs e.warp e.rel false (l.headD 0), l.map (fun a => (mfind own.2 a).getD (s.spadAsOf op a (spadByte (s.spad e.block) a))),
      l.any (fun a => s.spadBad e.block a 1))

/-- An engine's store of a unit reaches its home now (R92, R98); poison goes with it (R340). A store for which the race detector
kills the warp does not take effect (R354). -/
def State.engStore (s : State) (e : Engine) (va : DWord) (pa : Nat) (bs : List Byte) (bad : Bool) : State × Engine :=
  let was := (s.warp e.warp).killed
  let s := s.raceCheckAs e.warp e.rel true va pa
  if !was && (s.warp e.warp).killed then (s, e)
  else
  let r := s.atHome (s.engCore e) (s.engSvc e) { lane := 0, va := va, pa := pa, n := bs.length, op := .write bs }
  (if bad then r.1.addPoison (pa / 32) else r.1,
    { e with gwct := gwctMax e.gwct r.2.gwct, gwctd := gwctMax e.gwctd r.2.gwctd })

/-- Write scratchpad bytes one by one, or at once where they are consecutive. -/
def State.spadPutAt (s : State) (k b : Nat) (l : List Nat) (bs : List Byte) : State :=
  if l = spadRun (l.headD 0) l.length then s.spadWrite k b (l.headD 0) bs
  else (l.zip bs).foldl (fun s x => s.spadWrite k b x.1 [x.2]) s

/-- An engine's scratchpad writes, where the race detector does not kill the warp for them (R353, R354). -/
def State.engSpad (s : State) (e : Engine) (a : Nat) (put : State → State) : State :=
  let was := (s.warp e.warp).killed
  let s := s.raceSpadAs e.warp e.rel true a
  if !was && (s.warp e.warp).killed then s else put s

/-- An engine makes one move. At D1 and above its writes are held (R128). The flag says that the operation is
over: it met an RDO page, or its warp has been killed. -/
def State.engMove (s : State) (op : Nat) (late : Bool) (own : List Host.Cell × List Host.Cell) (e : Engine) (stop : Bool)
    (m : Move) : State × Engine × Bool :=
  if stop then (s, e, true)
  else
    match m.dst with
    | .glob va =>
      match s.engTrans e va.toNat with
      | none => (s, e, true)
      | some t =>
        if t.rdo then
          let f : TrapRec := { slice := e.cls, lane := op, cause := 0x11, taddr := va, info1 := BitVec.ofNat 32 e.op.writeUnit }
          (s.modWarp e.warp (fun W => { W with held := W.held ++ [f] }), { e with wprot := some (va, e.op.writeUnit) }, true)
        else
          let (s, bs, bad) := s.engRead op e own m
          let pa := t.phys va.toNat
          if late then
            (s, { e with held := e.held ++ [(pa, bs)], heldBad := if bad then e.heldBad ++ [pa / 32] else e.heldBad }, false)
          else
            let r := s.engStore e va pa bs bad
            (r.1, r.2, false)
    | .spad l =>
      let (s, bs, bad) := s.engRead op e own m
      if bad then
        let lane := match e.op with
          | .gather _ _ _ _ => m.lane
          | _ => e.lead
        let va := match m.src with
          | .glob va => va
          | .spad _ => 0
        (if (s.warp e.warp).ended then s else s.killPoison e.warp lane va (s.engPhys e m.src), e, true)
      else if late then (s, { e with heldSpad := e.heldSpad ++ (l.zip bs).map (fun x => (x.1, [x.2])) }, false)
      else (s.engSpad e (l.headD 0) (fun s => s.spadPutAt e.warp e.block l bs), e, false)

/-- An engine makes its moves in order, as far as they have their translations (R84, R85, R253, R254, R346). -/
def State.engRun (s : State) (op : Nat) (late : Bool) : State :=
  match mfind s.engines op with
  | none => s
  | some e =>
    let ms := s.engBatch e
    let n := e.made + ms.length
    let made := ms.takeWhile (fun m => !s.moveWprot e m)
    let s := if late then s else s.coverPoison (made.filterMap (fun m => (s.engPhys e m.dst).map (fun a => (a, m.n))))
    let own := if late then s.queueHeld op e else ([], [])
    let (s, e, stop) := ms.foldl (fun acc m => acc.1.engMove op late own acc.2.1 acc.2.2 m) (s, e, false)
    let e : Engine := { e with made := n }
    if stop || e.op.moves.length ≤ n then { s with engines := minsert s.engines op { e with ran := true }, kept := merase s.kept op }
    else { s with engines := minsert s.engines op e }

/-- The operation of the redundant copy that takes the result of an operation (R136). -/
def State.mirrorOf (s : State) (e : Engine) : Option (Nat × Engine) :=
  e.mirror.bind (fun m => (mfind s.engines m).map (fun x => (m, x)))

/-- The redundant copy's operation completes with the one that was performed (R136). -/
def State.mirrorDone (s : State) (op : Nat) : State :=
  match mfind s.engines op with
  | none => s
  | some e =>
    match s.mirrorOf e with
    | none => s
    | some (m, x) =>
      let hs := ((s.warp e.warp).held.filter (fun h => h.lane == op)).map (fun h => { h with lane := m })
      let y : Engine := { x with stage := 2, status := e.status, flags := e.flags, gwct := e.gwct, gwctd := e.gwctd }
      let s : State := { s with engines := minsert s.engines m y }
      (s.modWarp x.warp (fun W => { W with held := W.held ++ hs })).completeOp x.warp m

/-- The write completion times of an MST's scratchpad writes: no cache holds scratchpad, so they are those of R92 for a line
that nobody has leased (log entry 58). -/
def State.stampSpad (s : State) (core : Nat) (e : Engine) : Engine :=
  let t := s.dieTime (core / 192) + BitVec.ofNat 64 Config.epsilon
  { e with gwct := gwctMax e.gwct t, gwctd := gwctMax e.gwctd t }

/-- The operations behind one in its engine's queue, which see its writes before they apply (R128, R296). -/
def State.queueBehind (s : State) (op : Nat) (e : Engine) (o : Nat) : Bool :=
  decide (op < o) && (match e.op with
    | .unit | .tap => s.cores.any (fun C => C.1 == (s.warp e.warp).core && C.2.mx.queue.any (fun x => x.id == o))
    | _ => (mfind s.engines o).any (fun x => x.cls == e.cls && (s.warp x.warp).core == (s.warp e.warp).core))

/-- The held writes of an operation apply at a commit (R112, R128), its scratchpad writes in the redundant copy too
(R136). -/
def State.engApply (s : State) (op : Nat) : State :=
  match mfind s.engines op with
  | none => s
  | some e =>
    let sees := s.queueBehind op e
    let s := s.coverPoison (e.held.map (fun r => (r.1, r.2.length)))
    let (s, e) := e.held.foldl (fun acc r => acc.1.engStore acc.2 0 r.1 r.2 (e.heldBad.contains (r.1 / 32))) (s, e)
    let s := e.held.foldl (fun (s : State) (r : Nat × List Byte) => s.keepNone sees r.1 r.2.length) s
    let s := e.heldSpad.foldl (fun (s : State) (r : Nat × List Byte) => s.engSpad e r.1 (fun s => s.spadWriteFor e.warp e.block r.1 r.2 sees)) s
    let s := match s.mirrorOf e with
      | some (_, x) => e.heldSpad.foldl (fun (s : State) (r : Nat × List Byte) => s.spadWrite x.warp x.block r.1 r.2) s
      | none => s
    let e := if e.op = .unit && e.heldSpad != [] then s.stampSpad (s.warp e.warp).core e else e
    let s := match s.mirrorOf e with
      | some (m, x) => { s with engines := minsert s.engines m { x with gwct := gwctMax x.gwct e.gwct, gwctd := gwctMax x.gwctd e.gwctd } }
      | none => s
    { s with engines := minsert s.engines op { e with held := [], heldSpad := [], heldBad := [] } }

/-- An operation reaches its engine at the commit of its round, and reads memory as that commit leaves it (R128). -/
def State.engReach (s : State) (op : Nat) : State :=
  match mfind s.engines op with
  | none => s
  | some e =>
    let s : State := { s with engines := minsert s.engines op { e with stage := 1 } }
    if s.engBatch e = [] && s.engMissing e != [] then s else s.engRun op true

/-- An engine operation of a class performs its moves if nothing keeps it from them, as far as their pages are there, and completes
once it has made all (R97, R346). A packet's copy has no warp. -/
def State.engFinish (s : State) (op : Nat) (cls : Nat) : State :=
  match mfind s.engines op with
  | none => s
  | some e =>
    if e.cls ≠ cls || e.stage ≠ 1 then s
    else
      let late := s.buffered (s.warp e.warp)
      let done (s : State) : State :=
        ({ s with engines := mupdate s.engines op (fun e => { e with stage := 2 }) }.completeOp e.warp op).mirrorDone op
      if e.ran then done s
      else
        if s.engBatch e = [] && s.engMissing e != [] then s.startWalksAt (s.engCore e) (s.engQueue e) (s.engMissing e)
        else if s.engWprot e || (!late && s.engBlocked op e) then s
        else
          let t := s.engRun op late
          if (mfind t.engines op).any (·.ran) then done t else t

/-- CP_COMPLETE: a copy operation performs its moves and completes (R97, R253, R254). -/
def execCpComplete (op : Nat) (s : State) : Host.Outcome State Fault Refusal := .next (s.engFinish op 2)

/-- GS_COMPLETE: a gather or scatter performs its moves and completes (R84, R85, R97). -/
def execGsComplete (op : Nat) (s : State) : Host.Outcome State Fault Refusal := .next (s.engFinish op 4)

/-- ENGINE_WPROT: an engine operation meets an RDO page: what lies before it is written, the unit is not, and the
rest is not performed (R346). -/
def execEngineWprot (op : Nat) (s : State) : Host.Outcome State Fault Refusal :=
  .next (match mfind s.engines op with
    | none => s
    | some e =>
      if e.stage ≠ 1 || e.ran || !s.engWprot e then s
      else
        let late := s.buffered (s.warp e.warp)
        if !late && s.engBlocked op e then s else s.engRun op late)

/-! ### Issue -/

/-- An operation whose class counter is at its limit waits, whatever its guard (R97). -/
def Ctx.roomAll (c : Ctx) (cls : Nat) : State × Option Cond :=
  if classLimit cls ≤ c.W.counter cls then
    (if c.s.buffered c.W then c.s.endQuantum c.k else c.s, some (.counter cls (classLimit cls - 1)))
  else (c.s, none)

/-- The sectors that an engine operation will write, for the verdict of the twin that issues it (R228). -/
def Ctx.noteEngine (c : Ctx) (op : EngOp) : State :=
  if c.W.twinOf.isNone then c.s
  else c.s.noteWrites c.k (op.moves.filterMap (fun m => match m.dst with
    | .glob va => (c.s.warpLook c.k va.toNat).map (fun t => t.phys va.toNat / 32)
    | .spad l => some (spadSector (l.headD 0)))).dedup

/-- Send an operation to its engine; at D1 and above it goes there at the commit (R128). -/
def Ctx.sendEngine (c : Ctx) (cls : Nat) (op : EngOp) : State :=
  let s := c.noteEngine op
  let id := s.nextId
  let late := s.buffered c.W
  let e : Engine := { op := op, warp := c.k, block := c.W.block, cls := cls, stage := if late then 0 else 1, rel := c.W.release, lead := c.lead }
  let s := (State.bump { s with engines := minsert s.engines id e }).modWarp c.k (fun W => W.count1 cls id)
  if late then s.defer c.k (.engine id) else s.hideUnseen c.k id

/-- The element size of GATHER and SCATTER (R252). -/
def Ctx.elemSize (c : Ctx) : Nat := 2 ^ (c.mod % 4)

/-- The address of element i (R252). -/
def Ctx.gatherAddr (c : Ctx) (i : Nat) : DWord :=
  let index : DWord := if c.w.mod.getLsbD 2 then (c.b i).signExtend 64 else (c.b i).setWidth 64
  c.a64 c.lead + c.w.imm.signExtend 64 + index * BitVec.ofNat 64 c.elemSize

/-- D at the leader: the scratchpad address of the elements. -/
def Ctx.elemBase (c : Ctx) : Nat := (c.d c.lead).toNat

/-- The check of element i at issue (R252). -/
def Ctx.gatherFault (c : Ctx) (i : Nat) : Option TrapRec :=
  let n := c.elemSize
  let e := c.gatherAddr i
  if e.toNat % n ≠ 0 || c.elemBase % n ≠ 0 then some (c.addrFault i e 1 n)
  else if c.s.spadSize c.W.block < c.elemBase + (i + 1) * n then some (c.addrFault i e 2 n)
  else if 2 ^ 48 ≤ e.toNat then some (c.addrFault i e 5 n)
  else none

/-- The parts that GATHER and SCATTER share. With no acting lane they complete in their turn (R325). -/
def gatherKit (op : DWord → Nat → Nat → List (Nat × DWord) → EngOp) : Kit :=
  { check := fun c => c.lanes.filterMap c.gatherFault
    wait := fun c => c.roomAll 4
    eff := fun c => c.sendEngine 4 (op (c.a64 c.lead) c.elemSize c.elemBase (c.lanes.map (fun i => (i, c.gatherAddr i))))
    tx := false
    fork := false }

/-- The behaviour of `execGather`. -/
def kitGather : Kit :=
  gatherKit .gather

/-- 0x240: GATHER (R84, R252). -/
def execGather (w : Fields) (s : State) : Host.Outcome State Fault Refusal := run .gather .l128 w kitGather s

/-- The behaviour of `execScatter`. -/
def kitScatter : Kit :=
  gatherKit .scatter

/-- 0x241: SCATTER (R85, R252). -/
def execScatter (w : Fields) (s : State) : Host.Outcome State Fault Refusal := run .scatter .l128 w kitScatter s

/-- The layout word in D's run of registers at the leader (R68). -/
def Ctx.dLayout (c : Ctx) : BitVec 96 :=
  c.W.dReg c.w c.lead 2 ++ c.W.dReg c.w c.lead 1 ++ c.W.dReg c.w c.lead 0

/-- A layout fault (R68, R315). -/
def Ctx.layoutFault (c : Ctx) (reason : Nat) (a : Nat) : TrapRec :=
  { c.recLead 0x12 with info0 := BitVec.ofNat 32 reason, info1 := BitVec.ofNat 32 a }

/-- The first byte of a tile that lies at or beyond the allocation. -/
def Ctx.layoutBeyond (c : Ctx) (l : BitVec 96) (rows bytes : Nat) : Option Nat :=
  let size := c.s.spadSize c.W.block
  (List.range rows).findSome? (fun r =>
    ((List.range bytes).map (layoutAddr l r 0 0)).find? (fun a => size ≤ a))

/-- The row length of a COPY (R253). -/
def Ctx.copyLen (c : Ctx) : Nat := ((c.b c.lead).extractLsb' 0 16).toNat
/-- The row count. -/
def Ctx.copyRows (c : Ctx) : Nat := ((c.b c.lead).extractLsb' 16 8).toNat + 1
/-- The row pitch. -/
def Ctx.copyPitch (c : Ctx) : Nat := (c.c c.lead).toNat

/-- An address fault named by the leader (R233). -/
def Ctx.addrLead (c : Ctx) (va : DWord) (kind n : Nat) : TrapRec :=
  { c.recLead 0x10 with taddr := va, info0 := BitVec.ofNat 32 kind, info1 := BitVec.ofNat 32 n }

/-- COPY's checks: the layout, then the addresses (R253, R318). -/
def Ctx.copyChecks (c : Ctx) : List TrapRec :=
  if !c.acts then []
  else
    let l := c.dLayout
    let base := c.a64 c.lead
    if layoutBad l ≠ 0 then [c.layoutFault (layoutBad l) 0]
    else
      match c.layoutBeyond l c.copyRows c.copyLen with
      | some a => [c.layoutFault 3 a]
      | none =>
        if base.toNat % 4 ≠ 0 || c.copyPitch % 4 ≠ 0 || c.copyLen % 4 ≠ 0 then [c.addrLead base 1 4]
        else
          match (tileUnits l base c.copyLen c.copyRows c.copyPitch).find? (fun u => 2 ^ 48 ≤ u.1.toNat) with
          | some u => [c.addrLead u.1 5 4]
          | none => []

/-- The behaviour of `execCopy`. -/
def kitCopy : Kit :=
  { check := fun c => c.copyChecks
    wait := fun c => c.room 2
    eff := fun c => (
      if !c.acts then c.s
      else
        let op := if c.w.mod.getLsbD 0 then EngOp.copyS2g else EngOp.copyG2s
        c.sendEngine 2 (op c.dLayout (c.a64 c.lead) c.copyLen c.copyRows c.copyPitch))
    tx := false
    fork := false }

/-- 0x242: COPY (R253). -/
def execCopy (w : Fields) (s : State) : Host.Outcome State Fault Refusal := run .copy .l128 w kitCopy s

/-- COPYR's checks (R254): the overlap, then the addresses. -/
def Ctx.copyrChecks (c : Ctx) : List TrapRec :=
  if !c.acts then []
  else
    let dst := c.a64 c.lead
    let src := c.b64 c.lead
    let n := (c.c c.lead).toNat
    let unit := (EngOp.copyr dst src n).writeUnit
    let beyond (a : DWord) : Bool := 2 ^ 48 < a.toNat + n
    if n = 0 then []
    else if dst.toNat < src.toNat + n && src.toNat < dst.toNat + n then [c.addrLead dst 4 unit]
    else if beyond dst then [c.addrLead dst 5 unit]
    else if beyond src then [c.addrLead src 5 unit]
    else []

/-- The behaviour of `execCopyr`. -/
def kitCopyr : Kit :=
  { check := fun c => c.copyrChecks
    wait := fun c => c.room 2
    eff := fun c => if c.acts then c.sendEngine 2 (.copyr (c.a64 c.lead) (c.b64 c.lead) (c.c c.lead).toNat) else c.s
    tx := false
    fork := false }

/-- 0x243: COPYR (R254). -/
def execCopyr (w : Fields) (s : State) : Host.Outcome State Fault Refusal := run .copyr .l128 w kitCopyr s

end Sys2Proof.Machine
end

