-- ==== Sys2Proof/Machine/MatrixUnit.lean ====
section
/-! DEFINITION. The matrix unit: weight records and planes, the sums of R63, and what each operation of its queue
does when the unit runs it (R63, R76, R161 to R178, R296, R326). -/

namespace Sys2Proof

/-! ### Sums (R63) -/

/-- 128 elements of a chunk: AFMT and WFMT codes 0 E4M3, 1 E5M2, 2 K4X, 3 BF16, 4 FP16. K4X elements are in grid
units, in logical order (R54, R55). -/
def chunkElem (fmt : Nat) (bytes : List Byte) (k : Nat) : FVal :=
  match fmt with
  | 0 => Fmt.e4m3.decode (bytes.getD k 0).toNat
  | 1 => Fmt.e5m2.decode (bytes.getD k 0).toNat
  | 2 => FVal.int (k4xElem bytes k)
  | 3 => Fmt.bf16.decode ((bytes.getD (2 * k) 0).toNat + 256 * (bytes.getD (2 * k + 1) 0).toNat)
  | _ => Fmt.fp16.decode ((bytes.getD (2 * k) 0).toNat + 256 * (bytes.getD (2 * k + 1) 0).toNat)

/-- Bytes of a chunk (R165). -/
def chunkBytes (fmt : Nat) : Nat := if fmt < 2 then 128 else if fmt = 2 then 64 else 256

/-- The exact sum of products, without rounding; NaN where the rule makes the contribution NaN (R63). -/
def chunkSum (ps : List (FVal × FVal)) : FVal :=
  let prods := ps.map (fun p => (FVal.mul p.1 p.2).1)
  if prods.any FVal.isNan then .nan false false 0
  else
    let infs := prods.filter FVal.isInf
    if infs.any FVal.isNeg && infs.any (fun v => !v.isNeg) then .nan false false 0
    else
      match infs with
      | v :: _ => v
      | [] => sumFin prods

/-- One rounding into an accumulator (R63): a NaN contribution raises NV. -/
def accAdd (acc : Word) (x : FVal) : Word × FlagSet :=
  if x.isNan then (BitVec.ofNat 32 Fmt.fp32.canon, FlagSet.invalid)
  else
    let (c, f) := Fmt.fp32.finish .rne (FVal.add .rne (Fmt.fp32.decode acc.toNat) x)
    (BitVec.ofNat 32 c, f)

/-- A scaled contribution; a scale code of 0xFF makes it NaN (R63). `none` is the scale 2^0. -/
def scaled (codes : List (Option Nat)) (x : FVal) : FVal :=
  if codes.any (· == some 0xFF) then .nan false false 0
  else x.scale (codes.foldl (fun a c => a + (match c with
    | some k => ue8 k
    | none => 0)) 0)

/-- Columns of a plane by WFMT (R165). -/
def planeCols (wfmt : Nat) : Nat := if wfmt < 2 then 64 else if wfmt = 2 then 128 else 32

/-- The combinations of AFMT and WFMT that the unit accepts (R167). -/
def pairs (a w : Nat) : Bool := (a < 3 && w < 3) || a == w

/-- Whether a tile fits in its bank (R168). -/
def tileOk (width tile : Nat) : Bool :=
  let c := tile % 4
  if width = 64 then c % 2 == 0 else if width = 128 then c == 0 else true

end Sys2Proof

namespace Sys2Proof.Machine

/-! ### Records, planes and fetches -/

/-- A weight layout record, if it meets Table 1 of R164, with its MOFF. A side array makes the tensor sparse for the
formats of up to 8 bits (R173). -/
def parseRecord (addr : DWord) (b : List Byte) : Option (WRec × DWord) :=
  let off (o : Nat) : DWord := BitVec.ofNat 64 (fieldAt b o 8)
  let k := fieldAt b 0x18 4
  let n := fieldAt b 0x1C 4
  let w := fieldAt b 0x20 4
  let moff := off 0x10
  let ok := w < 5 && fieldAt b 0x24 28 == 0 && k != 0 && k % (if moff = 0 || 3 ≤ w then 128 else 256) == 0 && n != 0 &&
    n % planeCols w == 0 && (addr + off 0).toNat % 64 == 0
  if ok then some ({ addr := addr, woff := addr + off 0, soff := addr + off 8, kdim := k, ndim := n, wfmt := w }, moff) else none

/-- K rows of a plane. -/
def planeRows (sparse : Bool) : Nat := if sparse then 256 else 128

/-- Planes of a tensor (R170). -/
def WRec.planes (r : WRec) (sparse : Bool) : Nat := r.kdim / planeRows sparse * (r.ndim / planeCols r.wfmt)

/-- The squares that a plane touches, in increasing K order (R165, R166). -/
def WRec.squares (r : WRec) (sparse : Bool) (p : Nat) : List Nat :=
  let per := r.kdim / planeRows sparse
  let kc := p % per
  let q := p / per * planeCols r.wfmt / 128
  if sparse then [q * (r.kdim / 128) + 2 * kc, q * (r.kdim / 128) + 2 * kc + 1] else [q * (r.kdim / 128) + kc]

/-- A fetch cut at sectors: addresses and lengths. -/
def cutSectors (va n : Nat) : List (Nat × Nat) :=
  if n = 0 then []
  else
    (List.range ((va % 32 + n + 31) / 32)).map (fun j =>
      let lo := max va (va / 32 * 32 + 32 * j)
      let hi := min (va + n) (va / 32 * 32 + 32 * (j + 1))
      (lo, hi - lo))

/-- The translation a warp's engine work uses. -/
def State.warpTrans (s : State) (k va : Nat) : Option Trans :=
  let W := s.warp k
  if W.mode = .firmware then some (identityTrans va) else s.cached W.core W.queue va

/-- The addresses at which the sectors of some ranges begin. -/
def sectorStarts (l : List (Nat × Nat)) : List Nat := l.flatMap (fun r => (cutSectors r.1 r.2).map (·.1))

/-- Whether a unit has the translation of an address that it works on: it is cached, or the walk that the operation asked for has
brought it (R86, R87). -/
def State.hasTrans (s : State) (k : Nat) (asked : List Nat) (a : Nat) : Bool :=
  (s.warpTrans k a).isSome ||
    (asked.contains (a / 4096) && !s.walking (s.warp k).queue (a / 4096) && (s.warpLook k a).isSome)

/-- The addresses at which the sectors of a fetch begin whose translations are still to come; `asked` are the pages that the operation has
asked for. -/
def State.fetchLacks (s : State) (k : Nat) (asked : List Nat) (l : List (Nat × Nat)) : List Nat :=
  (sectorStarts l).filter (fun a => !s.hasTrans k asked a)

/-- The addresses at which the sectors of a fetch begin that no table maps now. -/
def State.fetchUnmapped (s : State) (k : Nat) (l : List (Nat × Nat)) : List Nat :=
  (sectorStarts l).filter (fun a => (s.warpLook k a).isNone)

/-- An operation at the head of a unit's queue asks for the pages of addresses. -/
def State.askUnit (s : State) (core : Nat) (vas : List Nat) : State :=
  match (s.core core).mx.queue with
  | [] => s
  | e :: l => (s.startWalksAt (s.warp e.warp).core (s.warp e.warp).queue vas).modMx core (fun U => { U with
      queue := { e with asked := (vas.map (· / 4096) ++ e.asked).dedup } :: l })

/-- Bytes of one sector as a fetch finds them: the RDC's live copy of a remote line, else the home (R89, R163). -/
def State.fetchPiece (s : State) (die pa n : Nat) (uc : Bool) : List Byte × Bool :=
  let remote := packageOf pa != s.zinc.self || s.homeDie pa != die
  match (if remote && !uc && !inHostWindow pa then s.copyAt (768 + die) die (pa / 32) else none) with
  | some c => ((c.data.drop (pa % 32)).take n, c.bad)
  | none => (s.bytesAt pa n, s.poisonedAt pa n)

/-- What a fetch of an operation of a warp returns: bytes, and whether they hold poison. At D1 and above it reads memory as the
commit left it at which the operation reached its unit (R128). -/
def State.fetchBytes (s : State) (k op va n : Nat) : List Byte × Bool :=
  let die := (s.warp k).core / 192
  (cutSectors va n).foldr (fun r acc =>
    match s.warpLook k r.1 with
    | none => (List.replicate r.2 0 ++ acc.1, acc.2)
    | some t =>
      let p := s.fetchPiece die (t.phys r.1) r.2 t.uc
      (s.asOf op (t.phys r.1) p.1 ++ acc.1, p.2 || acc.2)) ([], false)

/-- What a fetch finds at the homes now: bytes, and whether they hold poison. -/
def State.homeFetch (s : State) (k va n : Nat) : List Byte × Bool :=
  (cutSectors va n).foldr (fun r acc =>
    match s.warpLook k r.1 with
    | none => (List.replicate r.2 0 ++ acc.1, acc.2)
    | some t => (s.bytesAt (t.phys r.1) r.2 ++ acc.1, s.poisonedAt (t.phys r.1) r.2 || acc.2)) ([], false)

/-- The first poisoned sector of some fetches: its virtual and physical addresses. -/
def State.fetchBad (s : State) (k : Nat) (rs : List (Nat × Nat)) : Option (Nat × Nat) :=
  rs.findSome? (fun r => (cutSectors r.1 r.2).findSome? (fun p =>
    match s.warpLook k p.1 with
    | none => none
    | some t => if (s.fetchPiece ((s.warp k).core / 192) (t.phys p.1) p.2 t.uc).2 then some (p.1, t.phys p.1) else none))

/-- The warp of an engine operation that met poison is killed (R341). -/
def State.killRead (s : State) (k lane : Nat) (at_ : Option (Nat × Nat)) : State :=
  if (s.warp k).ended then s
  else s.killPoison k lane (BitVec.ofNat 64 ((at_.map (·.1)).getD 0)) (at_.map (·.2))

/-- What a fetch leaves behind in the L2, in the RDC and in the stamps of the lines (R70, R72, R79, R89). -/
def State.fetchFill (s : State) (k va n : Nat) : State :=
  let die := (s.warp k).core / 192
  let svc := (s.warp k).svc
  (cutSectors va n).foldl (fun s r =>
    match s.warpLook k r.1 with
    | none => s
    | some t =>
      let pa := t.phys r.1
      if packageOf pa != s.zinc.self || s.homeDie pa != die then (s.rdcRead die svc pa r.2 t.lc t.uc).1 else (s.homeRead svc pa r.2 t.uc).1) s

/-- Whether stores that a warp issued before an operation to a fetch's bytes are still on their way (R163). -/
def State.fetchBehind (s : State) (k op : Nat) (l : List (Nat × Nat)) : Bool :=
  l.any (fun r => (cutSectors r.1 r.2).any (fun p =>
    match s.warpLook k p.1 with
    | some t => s.earlierOut k op (t.phys p.1) p.2
    | none => false))

/-- A plane whose contents are undefined. -/
def Plane.undefined (seed : Nat) (idx : Option Nat) : Plane := { idx := idx, seed := seed }

/-- A byte of a plane; an undefined one is free (log entry 4). -/
def Plane.byte (p : Plane) (j : Nat) : Byte := if p.known then p.data.getD j 0 else Config.freeByte p.seed j

/-- The scale of the j-th square of a plane. -/
def Plane.scale (p : Plane) (j : Nat) : Nat :=
  match p.scales[j]? with
  | some c => c.toNat
  | none => (Config.freeByte p.seed (8192 + j)).toNat

/-- The virtual address of the scale of a square: the SCALE register's array where the plane is fetched through an
enabled native window, else SOFF's (R76, R166). In a window the scales are at physical addresses. -/
def State.scalePlace (s : State) (k : Nat) (r : WRec) (p sq : Nat) : Except Nat Nat :=
  let va := (r.woff.toNat + 8192 * p) % 2 ^ 64
  let native : Option Nat := match s.warpLook k va with
    | none => none
    | some t => (s.windowAt (t.phys va)).bind (fun w => if s.winFmtAt w < 4 then some w else none)
  match native with
  | some w => .error ((mget 0 (s.die (w / 32)).winScale (w % 32)).toNat + sq)
  | none => .ok ((r.soff.toNat + sq) % 2 ^ 64)

/-- The virtual ranges that a plane's fetch reads. -/
def State.planeRanges (s : State) (k : Nat) (r : WRec) (sparse : Bool) (p : Nat) : List (Nat × Nat) :=
  if r.planes sparse ≤ p then []
  else
    ((r.woff.toNat + 8192 * p) % 2 ^ 64, 8192) ::
      (if r.wfmt < 3 then (r.squares sparse p).filterMap (fun q => match s.scalePlace k r p q with
        | .ok va => some (va, 1)
        | .error _ => none) else [])

/-- Fetch a plane: the plane, and whether it holds poison (R165, R166). -/
def State.fetchPlane (s : State) (k op : Nat) (r : WRec) (sparse : Bool) (p : Nat) : Plane × Bool :=
  if r.planes sparse ≤ p then (Plane.undefined s.fresh (some p), false)
  else
    let b := s.fetchBytes k op ((r.woff.toNat + 8192 * p) % 2 ^ 64) 8192
    let sc : List (List Byte × Bool) := if r.wfmt < 3 then (r.squares sparse p).map (fun q =>
        match s.scalePlace k r p q with
        | .ok va => s.fetchBytes k op va 1
        | .error pa => (s.asOf op pa [s.byteAt pa], s.poisonedAt pa 1)) else []
    ({ idx := some p, data := b.1, scales := sc.map (fun x => x.1.headD 0), known := true, seed := s.fresh },
      b.2 || sc.any (·.2))

/-- Two plane indices apart by a signed number of planes; one below 0 names no plane. -/
def planeStep (p : Option Nat) (d : Int) : Option Nat :=
  match p with
  | none => none
  | some n => if (n : Int) + d < 0 then none else some ((n : Int) + d).toNat

/-! ### Products of one plane -/

/-- Element k of column n of a plane as it lies. -/
def Plane.elem (p : Plane) (wfmt n k : Nat) : FVal :=
  let bytes := chunkBytes wfmt
  let at_ (j : Nat) : Byte := p.byte (n * bytes + j)
  match wfmt with
  | 2 => FVal.int (k4xElem ((List.range 64).map at_) k)
  | 0 | 1 => chunkElem wfmt [at_ k] 0
  | _ => chunkElem wfmt [at_ (2 * k), at_ (2 * k + 1)] 0

/-- The rows and weights of one chunk of a column: half 0 is the chunk of a dense plane; a sparse plane has two
(R174, R175). -/
def Plane.column (p : Plane) (wfmt n : Nat) (side : Option (List Byte)) (half : Nat) : List (Nat × FVal) :=
  match side with
  | none => (List.range 128).map (fun k => (k, p.elem wfmt n k))
  | some b => (List.range 32).foldr (fun j acc =>
      let g := 32 * half + j
      let x := (b.getD (32 * n + g / 2) 0).toNat
      let nb := if g % 2 = 0 then x % 16 else x / 16
      (4 * j + nb % 4, p.elem wfmt n (2 * g)) :: (4 * j + nb / 4, p.elem wfmt n (2 * g + 1)) :: acc) []

/-! ### The unit's view of scratchpad -/

/-- Scratchpad bytes as an operation of the unit sees them: the block's as they stood when it was issued or reached the unit, and
what the operations ahead of it in the queue have written, the writes held at D1 and above among them (R128, R163, R296, log
entry 74). -/
def State.unitSpad (s : State) (core op b : Nat) : List Host.Cell :=
  let base := (mget ([], []) s.kept op).2.foldl (fun m c => spadPut m c.1 [c.2]) (s.spad b)
  ((s.core core).mx.order).foldl (fun m o =>
    match mfind s.engines o with
    | some e => if e.block = b then e.heldSpad.foldl (fun m r => spadPut m r.1 r.2) m else m
    | none => m) base

/-- Check the scratchpad accesses of an engine operation, sector by sector (R353). -/
def State.raceSpadList (s : State) (k : Nat) (rel : List Nat) (store : Bool) (l : List Nat) : State :=
  if !s.watched k then s else ((l.map (· / 32)).dedup).foldl (fun s q => s.raceSpadAs k rel store (32 * q)) s

/-- An operation writes scratchpad bytes, or holds the writes at D1 and above (R128). -/
def State.unitWrite (s : State) (op : Nat) (late : Bool) (writes : List (Nat × List Byte)) : State :=
  match mfind s.engines op with
  | none => s
  | some e =>
    if late then { s with engines := minsert s.engines op { e with heldSpad := e.heldSpad ++ writes } }
    else
      let s := writes.foldl (fun s r => s.spadWriteFor e.warp e.block r.1 r.2 (s.queueBehind op e)) s
      s.raceSpadList e.warp e.rel true (writes.map (·.1))

/-- The flags an operation raises, kept until its completion is visible (R62). -/
def State.unitFlags (s : State) (op : Nat) (f : FlagSet) : State :=
  { s with engines := mupdate s.engines op (fun e => { e with flags := e.flags ||| f.bits }) }

/-! ### Accumulators -/

/-- The place of an accumulator: bank, row, column (R168). -/
def accCell (tile row col : Nat) : Nat := (tile / 4 * 128 + row) * 128 + 32 * (tile % 4) + col

/-- An accumulator. -/
def MxUnit.read (U : MxUnit) (cell : Nat) : Word := mget 0 U.acc cell

/-- Write an accumulator. -/
def MxUnit.write (U : MxUnit) (cell : Nat) (v : Word) : MxUnit := { U with acc := mput 0 U.acc cell v }

/-! ### MLOOP (R169 to R175) -/

/-- KSTEPS of a step word. -/
def stepK (w : Word) : Nat := (w.extractLsb' 0 12).toNat + 1
/-- M. -/
def stepM (w : Word) : Nat := (w.extractLsb' 12 8).toNat + 1
/-- TILE. -/
def stepTile (w : Word) : Nat := (w.extractLsb' 20 3).toNat
/-- AINC of an increment word. -/
def incA (w : Word) : Nat := (w.extractLsb' 0 16).toNat
/-- WINC. -/
def incW (w : Word) : Int := (w.extractLsb' 16 16).toInt
/-- The adapter row table of an adapter word. -/
def adpTable (w : Word) : Nat := (w.extractLsb' 0 20).toNat
/-- NOFF. -/
def adpOff (w : Word) : Nat := (w.extractLsb' 24 8).toNat

/-- One chunk of an activation row: its elements and its strip scale (R145, R169). -/
structure ARow where
  elems : List FVal
  code  : Option Nat
  deriving DecidableEq, Repr

/-- The scratchpad bytes of chunk c of row m. -/
def rowBytes (l : BitVec 96) (afmt m c : Nat) : List Nat := (List.range (chunkBytes afmt)).map (layoutAddr l m c 0)

/-- The strip scale's place, for the formats that have one (R60). -/
def rowScale (l : BitVec 96) (afmt m c : Nat) : List Nat := if afmt < 3 then [layoutAddr l 128 c 0 m] else []

/-- Chunk c of row m. -/
def readRow (sp : List Host.Cell) (l : BitVec 96) (afmt m c : Nat) : ARow :=
  let bytes := (rowBytes l afmt m c).map (spadByte sp)
  { elems := (List.range 128).map (chunkElem afmt bytes)
    code := ((rowScale l afmt m c).map (fun a => (spadByte sp a).toNat)).head? }

/-- One row's chunk against one column (R63). -/
def rowColumn (x : ARow) (col : List (Nat × FVal)) (wcode : Option Nat) (acc : Word) : Word × FlagSet :=
  accAdd acc (scaled [x.code, wcode] (chunkSum (col.map (fun e => (x.elems.getD e.1 FVal.zero, e.2)))))

/-- An adapter block as the epilogue reads it (R172). -/
structure Adapter where
  addr : Nat
  rank : Nat
  bf   : Bool
  sa   : Option Nat
  sb   : Option Nat
  deriving DecidableEq, Repr

/-- A block's header; a malformed one is no adapter. -/
def parseAdapter (addr : Nat) (h : List Byte) : Option Adapter :=
  let r := (h.getD 0 0).toNat
  let f := (h.getD 1 0).toNat
  if 63 < r || 1 < f || (h.drop 4).any (· != 0) then none
  else some ⟨addr, r + 1, f == 1, if f = 1 then none else some (h.getD 2 0).toNat, if f = 1 then none else some (h.getD 3 0).toNat⟩

/-- Bytes of a factor. -/
def Adapter.size (a : Adapter) : Nat := if a.bf then 2 else 1

/-- The format code of the factors. -/
def Adapter.fmt (a : Adapter) : Nat := if a.bf then 3 else 0

/-- Where column j of A begins at chunk c. -/
def Adapter.aAt (a : Adapter) (kdim j c : Nat) : Nat := a.addr + 512 + (j * kdim + 128 * c) * a.size

/-- Where row j of B begins at column offset NOFF. -/
def Adapter.bAt (a : Adapter) (kdim ndim j noff : Nat) : Nat :=
  a.addr + 512 + (a.rank * kdim + j * ndim + 32 * noff) * a.size

/-- What an entry of the adapter row table makes of a row (R172). -/
inductive RowUse
  | parked
  | plain (bad : Bool)
  | block (addr : Nat)
  deriving DecidableEq, Repr

/-- Read an entry. -/
def rowUse (v : Nat) : RowUse :=
  if v = 0 then .parked else if v % 512 = 0 then .block v else .plain (v != 2)

/-- The chunks that step s adds: c, and c + 1 when sparse (R169, R175). -/
def stepChunks (sparse : Bool) (inc : Word) (s : Nat) : List (Nat × Nat) :=
  if sparse then [(s * incA inc, 0), (s * incA inc + 1, 1)] else [(s * incA inc, 0)]

/-- What an MLOOP needs to know of the unit and the memory. -/
structure Loop where
  sp     : List Host.Cell          -- the unit's scratchpad view
  afmt   : Nat
  rd     : WRec
  side   : Option DWord
  layout : BitVec 96
  step   : Word
  inc    : Word
  adp    : Option Word
  inRows : BitVec 128
  deriving DecidableEq, Repr

/-- The entry of row m of the adapter row table. -/
def Loop.entry (L : Loop) (m : Nat) : RowUse :=
  match L.adp with
  | none => .plain false
  | some w => rowUse (leNat (spadBytes L.sp (adpTable w + 8 * m) 8))

/-- The rows of the mask below M. -/
def Loop.rows (L : Loop) : List Nat := (List.range (stepM L.step)).filter (fun m => L.inRows.getLsbD m)

/-- The adapter blocks that rows name. -/
def Loop.blocks (L : Loop) : List Nat :=
  (L.rows.filterMap (fun m => match L.entry m with
    | .block a => some a
    | _ => none)).dedup

/-- The chunks of all steps. -/
def Loop.chunks (L : Loop) : List Nat :=
  (List.range (stepK L.step)).foldr (fun s acc => (stepChunks L.side.isSome L.inc s).map (·.1) ++ acc) []

/-- The plane of step s, as an index. -/
def Loop.planeAt (L : Loop) (first : Option Nat) (s : Nat) : Option Nat := planeStep first ((s : Int) * incW L.inc)

/-- The columns of the tile. -/
def Loop.width (L : Loop) : Nat := planeCols L.rd.wfmt

/-- One row through all steps: its accumulators, its rank values and the flags (R63, R169, R172). -/
def Loop.runRow (L : Loop) (planes : List (Plane × Option (List Byte))) (ad : Option Adapter)
    (factor : Nat → Nat → List Byte) (m : Nat) (acc : List Word) : List Word × List Word × FlagSet :=
  let t0 : List Word := List.replicate (match ad with
    | some a => a.rank
    | none => 0) 0
  (planes.zipIdx).foldl (fun (st : List Word × List Word × FlagSet) ps =>
    (stepChunks L.side.isSome L.inc ps.2).foldl (fun (st : List Word × List Word × FlagSet) ch =>
      let x := readRow L.sp L.layout L.afmt m ch.1
      let P := ps.1.1
      let code := if L.rd.wfmt < 3 then some (P.scale ch.2) else none
      let cols := st.1.zipIdx.map (fun a => rowColumn x (P.column L.rd.wfmt a.2 ps.1.2 ch.2) code a.1)
      let ranks : List (Word × FlagSet) := match ad with
        | none => []
        | some a => st.2.1.zipIdx.map (fun (t : Word × Nat) =>
            let b := factor (a.aAt L.rd.kdim t.2 ch.1) (128 * a.size)
            rowColumn x ((List.range 128).map (fun k => (k, chunkElem a.fmt b k))) a.sa t.1)
      (cols.map (·.1), ranks.map (·.1), st.2.2.or ((FlagSet.all (cols.map (·.2))).or (FlagSet.all (ranks.map (·.2)))))) st)
    (acc, t0, FlagSet.none)

/-- The epilogue of a row with a block (R172). -/
def Loop.epilogue (L : Loop) (a : Adapter) (factor : Nat → Nat → List Byte) (noff : Nat) (acc t : List Word) :
    List Word × FlagSet :=
  let rows := (List.range a.rank).map (fun j => factor (a.bAt L.rd.kdim L.rd.ndim j noff) (L.width * a.size))
  let cols := acc.zipIdx.map (fun x =>
    let ps := rows.zipIdx.map (fun r => (Fmt.fp32.decode (t.getD r.2 0).toNat, chunkElem a.fmt (r.1.drop (x.2 * a.size)) 0))
    accAdd x.1 (scaled [a.sb] (chunkSum ps)))
  (cols.map (·.1), FlagSet.all (cols.map (·.2)))

/-- The mask a register run spells: bit m mod 32 of register ⌊m/32⌋. -/
def maskWords (m : BitVec 128) : List Word := (List.range 4).map (fun j => m.extractLsb' (32 * j) 32)

/-- A mask from its rows. -/
def rowMask (l : List Nat) : BitVec 128 := l.foldl (fun m i => m ||| ((1 : BitVec 128) <<< i)) 0

/-- The hold table as the unit has it: at D1 and above a TAPGO that has run has set it before its commit shows it (R157). -/
def TapUnit.holdsNow (T : TapUnit) : NMap Hold :=
  match T.outbox.getLast? with
  | some x => x.2.holds
  | none => T.hold

/-- Whether an entry of the hold table keeps a row from an MLOOP.hold of a block (R150, R171). -/
def State.rowHeld (s : State) (core b m : Nat) : Bool :=
  let T := (s.core core).tap
  (T.binding.any (fun x => x.block == b)) && (match mfind T.holdsNow m with
    | some h => h.state == 1 || h.state == 2
    | none => false)

/-- The parameters of an MLOOP as the unit finds them. -/
def State.loopOf (s : State) (core : Nat) (e : MxEntry) : Option (Loop × BitVec 6) :=
  let U := (s.core core).mx
  match e.op, U.record with
  | .mloop mods l sw iw aw mask, some r =>
    some ({ sp := s.unitSpad core e.id e.block, afmt := U.afmt, rd := r, side := U.side, layout := l, step := sw, inc := iw,
            adp := if mods.getLsbD 2 then some aw else none,
            inRows := if mods.getLsbD 0 then mask else BitVec.allOnes 128 }, mods)
  | _, _ => none

/-- A plane's metadata comes into the metadata cache, which holds 32 KiB: in a full cache one plane's makes room (R6; log entry
70). -/
def metaPut (seed : Nat) (c : NMap (List Byte)) (i : Nat) (b : List Byte) : NMap (List Byte) :=
  minsert (if c.length < 8 || (mfind c i).isSome then c else c.eraseIdx (Config.freeChoice seed % 8)) i b

/-- The metadata of a plane: the cache's, or the side array's (R174, R175). -/
def State.planeSide (s : State) (core k op : Nat) (side : Option DWord) (p : Nat) : Option (List Byte) × Bool :=
  match side with
  | none => (none, false)
  | some a =>
    match mfind (s.core core).mx.metaCache p with
    | some b => (some b, false)
    | none =>
      let b := s.fetchBytes k op ((a.toNat + 4096 * p) % 2 ^ 64) 4096
      (some ((mfind (s.core core).mx.sideAs p).getD b.1), b.2)

/-- The virtual ranges that an operation of the unit reads, as far as they are known. -/
def State.unitRanges (s : State) (core : Nat) (e : MxEntry) : List (Nat × Nat) :=
  let U := (s.core core).mx
  match e.op with
  | .mcfg a _ => [(a.toNat, 64)]
  | .mmeta a => [(a.toNat, 64)]
  | .mlds p => match U.record with
    | some r => s.planeRanges e.warp r U.side.isSome p
    | none => []
  | .mloop _ _ _ _ _ _ =>
    match s.loopOf core e with
    | none => []
    | some (L, _) =>
      let steps := List.range (stepK L.step)
      let planes := (steps.drop 1).filterMap (L.planeAt U.active.idx)
      let sides := match L.side with
        | none => []
        | some a => (steps.filterMap (L.planeAt U.active.idx)).filterMap (fun p =>
            if (mfind U.metaCache p).isSome then none else some ((a.toNat + 4096 * p) % 2 ^ 64, 4096))
      let blocks := L.blocks.foldr (fun a acc =>
        match (if s.fetchLacks e.warp e.asked [(a, 512)] = [] then parseAdapter a (s.fetchBytes e.warp e.id a 512).1 else none) with
        | none => (a, 512) :: acc
        | some d => (a, 512) :: ((List.range d.rank).foldr (fun j acc =>
            L.chunks.map (fun c => (d.aAt L.rd.kdim j c, 128 * d.size)) ++
              (d.bAt L.rd.kdim L.rd.ndim j (adpOff (L.adp.getD 0)), L.width * d.size) :: acc) acc)) []
      planes.foldr (fun p acc => s.planeRanges e.warp L.rd L.side.isSome p ++ acc) [] ++ sides ++ blocks
  | _ => []

/-- Row issues withheld under a budget below one a cycle: how many depends on timing alone, so the count is free
(log entry 4). -/
def State.withhold (s : State) (core rows : Nat) : State :=
  let b := ((s.die (core / 192)).mxGov.extractLsb' 0 6).toNat
  if b = 0 || 32 ≤ b || rows = 0 then s
  else
    let n := s.freeWord.toNat
    s.freshen.modMx core (fun U => { U with mxstall := BitVec.ofNat 32 (min (U.mxstall.toNat + n) 0xFFFFFFFF) })

/-- Run an MLOOP: the state, and whether it consumed poison. -/
def State.runLoop (s : State) (core : Nat) (e : MxEntry) (late : Bool) : State × Bool :=
  match s.loopOf core e with
  | none => (s, false)
  | some (L, mods) =>
    let U := (s.core core).mx
    let sparse := L.side.isSome
    let pact := U.active.idx
    let planes := (List.range (stepK L.step)).map (fun i =>
      if i = 0 then (U.active, false)
      else match L.planeAt pact i with
        | some p => s.fetchPlane e.warp e.id L.rd sparse p
        | none => (Plane.undefined (s.fresh + i) none, false))
    let sides := planes.map (fun p => match p.1.idx with
      | some i => s.planeSide core e.warp e.id L.side i
      | none => (if sparse then some ((List.range 4096).map (Config.freeByte (s.fresh + stepK L.step))) else none, false))
    let held (m : Nat) : Bool := mods.getLsbD 1 && s.rowHeld core e.block m
    let runs := L.rows.filter (fun m => !held m && L.entry m != .parked)
    let adOf (m : Nat) : Option Adapter := match L.entry m with
      | .block a => parseAdapter a (s.fetchBytes e.warp e.id a 512).1
      | _ => none
    let odd (m : Nat) : Bool := match L.entry m with
      | .plain b => b
      | .block a => (parseAdapter a (s.fetchBytes e.warp e.id a 512).1).isNone
      | .parked => false
    let factor (a n : Nat) : List Byte := (s.fetchBytes e.warp e.id (a % 2 ^ 64) n).1
    let tile := stepTile L.step
    let cells (m : Nat) : List Nat := (List.range L.width).map (accCell tile m)
    let used := runs.foldr (fun m acc => L.chunks.foldr (fun c acc =>
      rowBytes L.layout L.afmt m c ++ rowScale L.layout L.afmt m c ++ acc) acc) []
    let bad := planes.any (·.2) || sides.any (·.2) || used.any (fun a => s.spadBad e.block a 1) ||
      (s.unitRanges core e).any (fun r => (s.fetchBytes e.warp e.id r.1 r.2).2) ||
      runs.any (fun m => (cells m).any U.accPoison.contains)
    if bad then (s, true)
    else
      let seqs := (planes.zip sides).map (fun x => (x.1.1, x.2.1))
      let step (st : MxUnit × FlagSet) (m : Nat) : MxUnit × FlagSet :=
        let ad := adOf m
        let r := L.runRow seqs ad factor m ((cells m).map U.read)
        let fin := match ad with
          | some a => L.epilogue a factor (adpOff (L.adp.getD 0)) r.1 r.2.1
          | none => (r.1, FlagSet.none)
        let V := ((cells m).zip fin.1).foldl (fun (V : MxUnit) x => V.write x.1 x.2) st.1
        let V := match ad with
          | some _ => (List.range 64).foldl (fun (V : MxUnit) j => V.write ((128 + m) * 128 + 64 + j) (r.2.1.getD j 0)) V
          | none => V
        (V, st.2.or (r.2.2.or (fin.2.or { nv := odd m })))
      let (V, fl) := runs.foldl step (U, FlagSet.none)
      let cache := match L.side with
        | none => U.metaCache
        | some _ => (planes.zip sides).foldl (fun c x => match x.1.1.idx, x.2.1 with
            | some i, some b => metaPut (s.fresh + i) c i b
            | _, _ => c) U.metaCache
      let last := (planes.getLast?.map (·.1)).getD U.active
      let s := (s.unitRanges core e).foldl (fun s r => s.fetchFill e.warp r.1 r.2) s
      let s := s.modMx core (fun _ => { V with active := last, shadow := Plane.undefined (s.fresh + stepK L.step + 1) none, metaCache := cache })
      let s : State := { s with fresh := s.fresh + stepK L.step + 2 }
      let s := (s.unitFlags e.id fl).withhold core (runs.length * stepK L.step)
      let s := match mfind s.engines e.id with
        | some x => s.raceSpadList x.warp x.rel false used
        | none => s
      let out := rowMask (L.rows.filter (fun m => !runs.contains m))
      let vals := (maskWords out).zipIdx.foldr (fun w acc => e.lanes.foldr (fun i acc => (w.2, i, w.1) :: acc) acc) []
      ({ s with flights := mupdate s.flights e.flight (fun f =>
          { f with ready := true, round := late, vals := vals.map (fun v => (f.dst + v.1, v.2)) }) }, false)

/-! ### The other operations (R167) -/

/-- MST's rows: addresses and bytes, and the flags (R58, R167). -/
def MxUnit.storeRows (U : MxUnit) (l : BitVec 96) (sw : Word) (ofmt width : Nat) : List (Nat × List Byte) × FlagSet :=
  (List.range (stepM sw)).foldl (fun acc m =>
    let xs := (List.range width).map (fun n => U.read (accCell (stepTile sw) m n))
    let vals := xs.map (fun x => Fmt.fp32.decode x.toNat)
    let size := [4, 2, 2, 1].getD ofmt 4
    let code : Nat × FlagSet := if ofmt = 3 then blockScale .e4m3 vals else (0, FlagSet.none)
    let elem (i : Nat) : Nat × FlagSet :=
      let v := vals.getD i FVal.zero
      match ofmt with
      | 0 => ((xs.getD i 0).toNat, FlagSet.none)
      | 1 => Fmt.fp16.round .rne false v
      | 2 => Fmt.bf16.round .rne false v
      | _ => if code.1 = 0xFF then (0, FlagSet.none) else quantFloat Fmt.e4m3 (v.scale (-(ue8 code.1)))
    let rs := (List.range width).map elem
    let bytes := rs.foldr (fun r acc => leBytes size r.1 ++ acc) []
    let places := (List.range (width * size)).map (layoutAddr l m 0 0)
    let row := (places.zip bytes).map (fun x => (x.1, [x.2]))
    let scale := if ofmt = 3 then [(layoutAddr l 128 0 0 m, [BitVec.ofNat 8 code.1])] else []
    (acc.1 ++ row ++ scale, acc.2.or (code.2.or (FlagSet.all (rs.map (·.2)))))) ([], FlagSet.none)

/-- The scratchpad addresses of MACC's words of row m. -/
def maccAddrs (l : BitVec 96) (m width : Nat) : List Nat :=
  (List.range width).map (fun n => layoutAddr l m (n / 32) 0 (4 * (n % 32)))

/-- The side array that an MMETA binds: what its warp has stored there before it is part of what it finds (R163, R175). -/
def State.sideRanges (s : State) (core : Nat) (e : MxEntry) : List (Nat × Nat) :=
  match e.op, (s.core core).mx.record with
  | .mmeta a, some r =>
    (match parseRecord a (s.fetchBytes e.warp e.id a.toNat 64).1 with
     | some (_, moff) => if moff = 0 then [] else (List.range (r.planes true)).map (fun p => (((a + moff).toNat + 4096 * p) % 2 ^ 64, 4096))
     | none => [])
  | _, _ => []

/-- What an MMETA finds in its side array: writes made to the array afterwards are seen only after the next MMETA (R175). A part
without a translation holds nothing yet. -/
def State.sideNow (s : State) (e : MxEntry) (r : Option WRec) (a : DWord) : NMap (List Byte) :=
  match r with
  | none => []
  | some r => (List.range (r.planes true)).filterMap (fun p =>
      let va := (a.toNat + 4096 * p) % 2 ^ 64
      if (List.range 2).all (fun j => (s.warpLook e.warp (va + 4095 * j)).isSome) then
        some (p, (cutSectors va 4096).foldr (fun c acc =>
          (match s.warpLook e.warp c.1 with
           | some t => s.asOf e.id (t.phys c.1) (s.fetchPiece ((s.warp e.warp).core / 192) (t.phys c.1) c.2 t.uc).1
           | none => []) ++ acc) [])
      else none)

/-- Run the operation at the head of a unit's queue: the state, and whether it consumed poison. -/
def State.runMx (s : State) (core : Nat) (e : MxEntry) (late : Bool) : State × Bool :=
  let U := (s.core core).mx
  let width := match U.record with
    | some r => planeCols r.wfmt
    | none => 32
  match e.op with
  | .mcfg a afmt =>
    let b := s.fetchBytes e.warp e.id a.toNat 64
    if b.2 then (s, true)
    else
      ((s.fetchFill e.warp a.toNat 64).modMx core (fun U => match parseRecord a b.1 with
        | some (r, _) => { U with record := some r, afmt := afmt, side := none, metaCache := [], err := none }
        | none => { U with record := none, afmt := afmt, side := none, metaCache := [], err := some (8, a) }), false)
  | .mmeta a =>
    let b := s.fetchBytes e.warp e.id a.toNat 64
    if b.2 then (s, true)
    else
      let s := s.fetchFill e.warp a.toNat 64
      (s.modMx core (fun U => match parseRecord a b.1 with
        | none => { U with err := some (8, a) }
        | some (_, moff) =>
          if moff = 0 then { U with side := none, metaCache := [] }
          else if U.record.any (fun r => 3 ≤ r.wfmt) then { U with side := none, metaCache := [], err := some (7, a) }
          else { U with side := some (a + moff), metaCache := [], sideAs := s.sideNow e U.record (a + moff) }), false)
  | .mlds p =>
    match U.record with
    | none => (s, false)
    | some r =>
      let x := s.fetchPlane e.warp e.id r U.side.isSome p
      if x.2 then (s, true)
      else
        let s := (s.unitRanges core e).foldl (fun s r => s.fetchFill e.warp r.1 r.2) s
        (s.freshen.modMx core (fun U => { U with shadow := x.1 }), false)
  | .mswap => (s.modMx core (fun U => { U with active := U.shadow, shadow := U.active }), false)
  | .mzero t =>
    let cells := (List.range 128).foldr (fun m acc => (List.range width).map (accCell t m) ++ acc) []
    (s.modMx core (fun U => { (cells.foldl (fun (V : MxUnit) c => V.write c 0) U) with
      accPoison := U.accPoison.filter (fun c => !cells.contains c) }), false)
  | .mloop _ _ _ _ _ _ => s.runLoop core e late
  | .macc l sw =>
    let sp := s.unitSpad core e.id e.block
    let addrs := (List.range (stepM sw)).foldr (fun m acc => maccAddrs l m width ++ acc) []
    let cells := (List.range (stepM sw)).foldr (fun m acc => (List.range width).map (accCell (stepTile sw) m) ++ acc) []
    if addrs.any (fun a => s.spadBad e.block a 4) || cells.any U.accPoison.contains then (s, true)
    else
      let r := (cells.zip addrs).foldl (fun (st : MxUnit × FlagSet) x =>
        let v := Fmt.fp32.fadd .rne (U.read x.1).toNat (leNat (spadBytes sp x.2 4))
        (st.1.write x.1 (BitVec.ofNat 32 v.1), st.2.or v.2)) (U, FlagSet.none)
      let s := ((s.modMx core (fun _ => r.1)).unitFlags e.id r.2).withhold core (stepM sw)
      (match mfind s.engines e.id with
        | some x => s.raceSpadList x.warp x.rel false addrs
        | none => s, false)
  | .mst l sw ofmt =>
    let cells := (List.range (stepM sw)).foldr (fun m acc => (List.range width).map (accCell (stepTile sw) m) ++ acc) []
    if cells.any U.accPoison.contains then (s, true)
    else
      let r := U.storeRows l sw ofmt width
      let s := (s.unitWrite e.id late r.1).unitFlags e.id r.2
      let s : State := if late then s else { s with engines := mupdate s.engines e.id (s.stampSpad core) }
      (if late then s.modMx core (fun U => { U with order := U.order ++ [e.id] }) else s, false)
  | .mrd row t =>
    if U.err.isNone && e.lanes.any (fun i => i < width && U.accPoison.contains (accCell t row i)) then (s, true)
    else
      let v (i : Nat) : Word := if U.err.isSome || width ≤ i then 0 else U.read (accCell t row i)
      ({ s with flights := mupdate s.flights e.flight (fun f =>
          { f with ready := true, vals := e.lanes.map (fun i => (f.dst, i, v i)) }) }, false)
  | .fgath => (s, false)
  | .tapgo => (s, false)

/-- Whether the error state makes an operation do nothing (R326). -/
def MxUnit.skips (U : MxUnit) (e : MxEntry) : Bool :=
  U.err.isSome && (match e.op with
    | .mcfg _ _ | .mrd _ _ | .fgath | .tapgo => false
    | _ => true)

/-- Whether an entry of the tap unit's queue is a TAPBIND. -/
def TapEntry.isBind (e : TapEntry) : Bool :=
  match e.op with
  | .bind _ _ _ _ => true
  | _ => false

/-- Whether an MLOOP.hold must wait: for a TAPGO of its block's current binding that was issued before it, not for one of a TAPBIND of
the block that still waits, and for releases of rows that the tap unit is still to perform (R155, R171). -/
def State.holdWaits (s : State) (core : Nat) (e : MxEntry) : Bool :=
  let T := (s.core core).tap
  match e.op with
  | .mloop mods _ _ _ _ _ => mods.getLsbD 1 && T.binding.any (fun b => b.block == e.block) &&
      ((T.queue.takeWhile (fun x => !(x.block == e.block && x.isBind))).any (fun x =>
        x.block == e.block && x.op == .tapgo && decide (x.id < e.id)) ||
      T.queue.any (fun x => x.block == e.block && (match x.op with
        | .frel _ => true
        | _ => false)))
  | _ => false

/-- The redundant copy's operation takes over what an operation of the unit has brought (R136). -/
def State.mirrorUnit (s : State) (op : Nat) : State :=
  match mfind s.engines op with
  | none => s
  | some e =>
    match s.mirrorOf e with
    | none => s
    | some (m, x) =>
      let F := mfind s.flights e.flight
      { s with
        engines := minsert s.engines m { x with stage := 2, flags := e.flags }
        flights := mupdate s.flights x.flight (fun f => { f with
          ready := true
          round := (F.map (·.round)).getD f.round
          vals := (F.map (·.vals)).getD f.vals }) }

/-- The operation leaves the queue. A flight that it supplies nothing for is ready with nothing to land. -/
def State.leaveUnit (s : State) (core : Nat) (e : MxEntry) (late : Bool) : State :=
  let s := s.modMx core (fun U => { U with queue := U.queue.drop 1, recent := if late then U.recent ++ [e.id] else U.recent })
  let s := State.mirrorUnit { s with
    flights := mupdate s.flights e.flight (fun f => { f with ready := true })
    engines := mupdate s.engines e.id (fun x => { x with stage := 2 })
    kept := merase s.kept e.id } e.id
  match e.op with
  | .mrd _ _ => { s with engines := merase s.engines e.id }
  | _ => s

/-- MATRIX_OP_EXECUTE: the unit runs the operation at the head of its queue (R162). -/
def execMatrixOpExecute (core : Nat) (s : State) : Host.Outcome State Fault Refusal :=
  .next (match (s.core core).mx.queue with
    | [] => s
    | e :: _ =>
      match e.op with
      | .fgath | .tapgo => s
      | _ =>
        let late := s.buffered (s.warp e.warp)
        if (s.core core).mx.skips e then s.leaveUnit core e late
        else
          let rs := s.unitRanges core e
          match s.fetchLacks e.warp e.asked rs with
          | a :: as => s.askUnit core (a :: as)
          | [] =>
            if s.holdWaits core e || (!late && s.fetchBehind e.warp e.id (rs ++ s.sideRanges core e)) then s
            else
              let bad := s.fetchBad e.warp rs
              let r := s.runMx core e late
              let s := r.1.leaveUnit core e late
              if r.2 then s.killRead e.warp (e.lanes.headD 0) bad else s)

/-! ### Batches (R176) -/

/-- Whether an operation of a unit has not run yet: it is in the unit's queue, or on its way there. -/
def State.unitPending (s : State) (op : Nat) : Bool := ((mfind s.engines op).map (fun e => e.stage != 2)).getD false

/-- Whether an operation that an MRD waits for has not completed; one that still waits in the tap unit has not come to the unit's
queue (R162, R177). -/
def State.unitOwes (s : State) (core : Nat) (ops : List Nat) : Bool :=
  ops.any (fun o => s.unitPending o && !(s.core core).tap.queue.any (fun x => x.id == o))

/-- The oldest closed batch of a warp that has not completed. -/
def Warp.oldestBatch (W : Warp) : Option (Nat × List Nat × Nat) :=
  W.batches.find? (fun b => W.outs.any (fun o => o.2.1 == b.2.2 && !o.2.2))

/-- Whether a warp's oldest batch can complete; a redundant copy's completes with that of the block it copies (R136). -/
def State.batchReady (s : State) (k : Nat) : Bool :=
  match (s.warp k).oldestBatch with
  | none => false
  | some b => !s.shadow (s.warp k).block && b.2.1.all (fun o => !s.unitPending o)

/-- MX_BATCH_COMPLETE: the oldest closed batch of a warp completes (R176): its flags wait for its visibility. -/
def execMxBatchComplete (k : Nat) (s : State) : Host.Outcome State Fault Refusal :=
  .next (match (s.warp k).oldestBatch with
    | none => s
    | some b =>
      if !s.batchReady k then s
      else
        let ops := b.2.1.filterMap (mfind s.engines)
        let flags := ops.foldl (fun (f : Word) x => f ||| x.flags) 0
        let last (g : Engine → DWord) : DWord := ops.foldl (fun (a : DWord) x => gwctMax a (g x)) 0
        let late := s.buffered (s.warp k)
        let keep (o : Nat) : Bool := late && ((mfind s.engines o).map (fun e => e.heldSpad != [])).getD false
        let s : State := { s with engines := (b.2.1.filter (fun o => !keep o)).foldl merase s.engines }
        let s : State := { s with engines := mupdate s.engines b.2.2 (fun e => { e with
          flags := e.flags ||| flags, stage := 2, gwct := last (·.gwct), gwctd := last (·.gwctd) }) }
        s.completeOp k b.2.2)

end Sys2Proof.Machine
end

