-- ==== Sys2Proof/Machine/Matrix.lean ====
section
/-! DEFINITION. The matrix instructions, 0x280 to 0x28A: their checks at issue and their way into the unit's queue
(R161, R162, R167 to R177, R256 to R259, R326). -/

namespace Sys2Proof.Machine

/-! ### The unit as issue sees it -/

/-- The matrix unit of the warp's core. -/
def Ctx.mx (c : Ctx) : MxUnit := (c.s.core c.W.core).mx

/-- `k.bid` of a block; all ones for none (R315). -/
def State.bidOf (s : State) (b : Option Nat) : Word :=
  match b.bind s.block? with
  | none => 0xFFFFFFFF
  | some B => (s.warp (B.warps.headD 0)).bid

/-- The matrix-ownership fault (R161). -/
def Ctx.mxOwn (c : Ctx) : List TrapRec :=
  if !c.acts || c.mx.owner = some c.W.block then []
  else [{ c.recLead 0x20 with info0 := c.s.bidOf c.mx.owner }]

/-- A matrix operand fault: its reason and the failing value (R326). -/
def Ctx.mxOpnd (c : Ctx) (reason : Nat) (v : Word) : TrapRec :=
  { c.recLead 0x21 with info0 := BitVec.ofNat 32 reason, info1 := v }

/-- The first of a list of reasons that holds. -/
def firstOf (l : List (Bool × TrapRec)) : List TrapRec := ((l.find? (·.1)).map (fun x => [x.2])).getD []

/-- Bytes within one sector as the issuing warp could load them now: memory with the warp's own stores over it. -/
def Ctx.peekSector (c : Ctx) (va n : Nat) : Option (List Byte) :=
  (c.s.warpLook c.k va).map (fun t =>
    let pa := t.phys va
    c.s.flights.foldl (fun b f => if f.2.warp = c.k && !f.2.held
      then (f.2.accs.filter (fun x => !x.done)).foldl (c.s.accOver pa) b else b) (c.s.ownBytes c.k c.m c.lead pa n))

/-- Bytes as the issuing warp could load them now; none where a page does not translate. -/
def Ctx.peek (c : Ctx) (va n : Nat) : Option (List Byte) :=
  (cutSectors va n).foldr (fun r acc =>
    match acc, c.peekSector r.1 r.2 with
    | some l, some b => some (b ++ l)
    | _, _ => none) (some [])

/-- A weight record as the issuing warp could load it now (R163). -/
def Ctx.peekRecord (c : Ctx) (a : DWord) : Option (WRec × DWord) := (c.peek a.toNat 64).bind (parseRecord a)

/-- What issue knows of the unit: its configuration once the operations ahead of an instruction have run (R170, R326). -/
structure MxView where
  record : Option WRec := none
  afmt   : Nat := 0
  sparse : Bool := false
  active : Option Nat := none        -- the planes' indices
  shadow : Option Nat := none
  err    : Bool := false
  deriving DecidableEq, Repr

/-- The unit as it stands. -/
def MxUnit.view (U : MxUnit) : MxView := ⟨U.record, U.afmt, U.side.isSome, U.active.idx, U.shadow.idx, U.err.isSome⟩

/-- What an operation makes of it, with the records that MCFG and MMETA will read; in the error state only MCFG and the tap's
operations do anything (R167, R169, R173, R326). -/
def MxView.after (read : DWord → Option (WRec × DWord)) (v : MxView) (op : MxOp) : MxView :=
  match op with
  | .mcfg a afmt =>
    (match read a with
     | some (r, _) => { v with record := some r, afmt := afmt, sparse := false, err := false }
     | none => { v with record := none, afmt := afmt, sparse := false, err := true })
  | .fgath => { v with active := none }
  | .tapgo => { v with active := none, shadow := none }
  | .mmeta a =>
    if v.err then v
    else
      (match read a with
       | none => { v with err := true }
       | some (_, moff) =>
         if moff = 0 then { v with sparse := false }
         else if v.record.any (fun r => 3 ≤ r.wfmt) then { v with sparse := false, err := true }
         else { v with sparse := true })
  | .mlds p => if v.err then v else { v with shadow := some p }
  | .mswap => if v.err then v else { v with active := v.shadow, shadow := v.active }
  | .mloop _ _ step inc _ _ =>
    if v.err then v else { v with active := planeStep v.active (((stepK step : Int) - 1) * incW inc), shadow := none }
  | .mzero _ | .macc _ _ | .mst _ _ _ | .mrd _ _ => v

/-- The operations ahead of a matrix instruction: those in the unit's queue, and at D1 and above those that its warp has issued in
the round. -/
def Ctx.mxAhead (c : Ctx) : List MxOp :=
  (c.s.core (c.s.mxCore c.W)).mx.queue.map (·.op) ++ (c.s.bufOf c.k).filterMap (fun d => match d with
    | .mx _ e => some e.op
    | .tap _ e => (match e.op with
      | .fgath => some .fgath
      | .tapgo => some .tapgo
      | _ => none)
    | _ => none)

/-- The unit as issue checks against it. -/
def Ctx.mxv (c : Ctx) : MxView := c.mxAhead.foldl (MxView.after c.peekRecord) (c.s.core (c.s.mxCore c.W)).mx.view

/-- The records that the operations ahead of an instruction will read. -/
def Ctx.mxRecords (c : Ctx) : List Nat :=
  c.mxAhead.filterMap (fun o => match o with
    | .mcfg a _ => some a.toNat
    | .mmeta a => some a.toNat
    | _ => none)

/-- The width of tiles as issue knows it. -/
def Ctx.tileWidth (c : Ctx) : Nat :=
  match c.mxv.record with
  | some r => planeCols r.wfmt
  | none => 32

/-- Enter an operation in the unit's queue; at D1 and above at the commit (R128, R162). -/
def Ctx.sendMx (c : Ctx) (s : State) (op : MxOp) (flight : Nat) (counts : Bool) : State :=
  let id := s.nextId
  let e : MxEntry := { op := op, id := id, warp := c.k, block := c.W.block, flight := flight, lanes := c.lanes }
  let g : Engine := { op := .unit, warp := c.k, block := c.W.block, cls := 7, stage := 1, rel := c.W.release, lead := c.lead, flight := flight }
  let s := State.bump { s with engines := minsert s.engines id g }
  let s := if counts then s.modWarp c.k (fun W => { W with openOps := W.openOps ++ [id] }) else s
  if s.buffered c.W then s.defer c.k (.mx c.W.core e) else (s.hideUnseen c.k id).modMx c.W.core (fun U => { U with queue := U.queue ++ [e] })

/-- The parts that the matrix instructions share: the checks come after the ownership rule (R319, R326). -/
def mxKit (check : Ctx → List TrapRec) (eff : Ctx → State) : Kit :=
  { check := fun c => if !c.acts then [] else c.mxOwn ++ check c
    first := fun c => if c.acts && c.mxOwn == [] then c.mxRecords else []
    eff := fun c => if c.acts then eff c else c.s
    tx := false
    fork := false }

/-- A at the leader. -/
def Ctx.al (c : Ctx) : Word := c.a c.lead
/-- A's layout word at the leader. -/
def Ctx.aLayout (c : Ctx) : BitVec 96 := c.W.opLayout c.w.a c.lead

/-- Address faults of a record (R258). -/
def Ctx.recordFaults (c : Ctx) : List TrapRec :=
  let a := c.a64 c.lead
  firstOf [(a.toNat % 64 ≠ 0, c.addrLead a 1 64), (2 ^ 48 ≤ a.toNat, c.addrLead a 5 64)]

/-- A block takes ownership of a unit (R161): every accumulator reads +0, `k.mxstall` reads 0, and no value of an earlier owner is
left (R168); the planes are undefined, their contents named by two numbers from `seed` on. -/
def MxUnit.take (U : MxUnit) (b seed : Nat) : MxUnit :=
  { U with
    owner := some b
    acc := []
    accPoison := []
    mxstall := 0
    active := Plane.undefined seed none
    shadow := Plane.undefined (seed + 1) none
    err := none
    errShown := none }

/-- The behaviour of `execMcfg`. -/
def kitMcfg : Kit :=
  let cfg (c : Ctx) : Word := c.b c.lead
  { hold := fun c => if c.acts && !c.mx.freeFor c.W.block then some .matrix else none
    check := fun c => (
      if !c.acts then []
      else firstOf [(cfg c >>> 3 ≠ 0 || 5 ≤ (cfg c).toNat % 8, c.mxOpnd 4 (cfg c))] ++ c.recordFaults)
    eff := fun c => (
      if !c.acts then c.s
      else
        let s : State := if c.mx.owner.isSome then c.s
          else { c.s.modMx c.W.core (fun U => U.take c.W.block c.s.fresh) with fresh := c.s.fresh + 2 }
        c.sendMx s (.mcfg (c.a64 c.lead) ((cfg c).toNat % 8)) 0 true)
    tx := false
    fork := false }

/-- 0x280: MCFG (R161, R167, R170). From another block it waits at issue until the unit is free. -/
def execMcfg (w : Fields) (s : State) : Host.Outcome State Fault Refusal := run .mcfg .l64 w kitMcfg s

/-- The behaviour of `execMlds`. -/
def kitMlds : Kit :=
  mxKit
    (fun c => firstOf [((c.mxv.record.map (fun r => decide (r.planes c.mxv.sparse ≤ c.al.toNat))).getD false, c.mxOpnd 3 c.al)])
    (fun c => c.sendMx c.s (.mlds c.al.toNat) 0 true)

/-- 0x281: MLDS (R167, R170). -/
def execMlds (w : Fields) (s : State) : Host.Outcome State Fault Refusal := run .mlds .l64 w kitMlds s

/-- The behaviour of `execMswap`. -/
def kitMswap : Kit :=
  mxKit (fun _ => [])
    (fun c => c.sendMx c.s .mswap 0 true)

/-- 0x282: MSWAP (R167). -/
def execMswap (w : Fields) (s : State) : Host.Outcome State Fault Refusal := run .mswap .l64 w kitMswap s

/-- The step word of MLOOP, in B at the leader. -/
def Ctx.stepWord (c : Ctx) : Word := c.b c.lead

/-- Reserved bits of a step word, M above 128 among them (R169, R259): the low bits are reserved in MACC and MST. -/
def stepReserved (sw : Word) (low : Bool) : Bool :=
  sw >>> 23 ≠ 0 || 128 < stepM sw || (low && sw.extractLsb' 0 12 != 0)

/-- MLOOP's increment and adapter words: C, and the register after it under `.adp`. -/
def Ctx.incWord (c : Ctx) : Word := c.c c.lead
/-- The adapter word. -/
def Ctx.adpWord (c : Ctx) : Word := c.W.opRun c.w.c c.lead 1
/-- MLOOP's rows: the mask at the leader under `.rm`, else every row. -/
def Ctx.loopMask (c : Ctx) : BitVec 128 :=
  if c.w.mod.getLsbD 0 then
    c.W.dReg c.w c.lead 3 ++ c.W.dReg c.w c.lead 2 ++ c.W.dReg c.w c.lead 1 ++ c.W.dReg c.w c.lead 0
  else BitVec.allOnes 128

/-- The first plane index of an MLOOP that is out of range (R170). -/
def Ctx.badPlane (c : Ctx) : Option Int :=
  match c.mxv.record, c.mxv.active with
  | some r, some p =>
    let n : Int := r.planes c.mxv.sparse
    let last : Int := p + ((stepK c.stepWord : Int) - 1) * incW c.incWord
    if n ≤ p then some p
    else if last < 0 then some (p + (p / (-(incW c.incWord)).toNat + 1 : Nat) * incW c.incWord)
    else if n ≤ last then some (p + ((n - 1 - p).toNat / (incW c.incWord).toNat + 1 : Nat) * incW c.incWord)
    else none
  | _, _ => none

/-- The first scratchpad byte at or beyond the allocation that rows and chunks would form (R68, R170). -/
def Ctx.rowsBeyond (c : Ctx) (l : BitVec 96) (rows chunks : List Nat) (addrs : Nat → Nat → List Nat) : Option Nat :=
  let size := c.s.spadSize c.W.block
  rows.findSome? (fun m => chunks.findSome? (fun k => (addrs m k).find? (fun a => size ≤ a)))
    |>.filter (fun _ => layoutBad l == 0)

/-- The layout faults of an instruction: the word's own, then the extent. -/
def Ctx.layoutFaults (c : Ctx) (l : BitVec 96) (beyond : Option Nat) : List TrapRec :=
  if layoutBad l ≠ 0 then [c.layoutFault (layoutBad l) 0]
  else
    match beyond with
    | some a => [c.layoutFault 3 a]
    | none => []

/-- MLOOP's checks at issue (R170, R172). -/
def Ctx.loopFaults (c : Ctx) : List TrapRec :=
  let sw := c.stepWord
  let adp := c.w.mod.getLsbD 2
  let tile := stepTile sw
  let V := c.mxv
  let word (n : Int) : Word := BitVec.ofInt 32 n
  let opnd := firstOf [
    (!tileOk c.tileWidth tile && V.record.isSome, c.mxOpnd 1 (BitVec.ofNat 32 tile)),
    ((V.record.map (fun r => !pairs V.afmt r.wfmt)).getD false, c.mxOpnd 2 (BitVec.ofNat 32 V.afmt)),
    (c.badPlane.isSome, c.mxOpnd 3 (word (c.badPlane.getD 0))),
    (stepReserved sw false, c.mxOpnd 4 sw),
    (adp && (c.adpWord.extractLsb' 20 4 != 0), c.mxOpnd 4 c.adpWord),
    (adp && 4 ≤ tile, c.mxOpnd 5 (BitVec.ofNat 32 tile))]
  let l := c.aLayout
  let rows := (List.range (stepM sw)).filter (fun m => c.loopMask.getLsbD m)
  let chunks := (List.range (stepK sw)).foldr (fun k acc => (stepChunks V.sparse c.incWord k).map (·.1) ++ acc) []
  let lay := c.layoutFaults l (c.rowsBeyond l rows chunks (fun m k => rowBytes l V.afmt m k ++ rowScale l V.afmt m k))
  let tab := adpTable c.adpWord
  let addr := if !adp then [] else firstOf [
    (tab % 8 ≠ 0, c.addrLead (BitVec.ofNat 64 tab) 1 8),
    (decide (c.s.spadSize c.W.block < tab + 1024), c.addrLead (BitVec.ofNat 64 tab) 2 8)]
  opnd ++ lay ++ addr

/-- The behaviour of `execMloop`. -/
def kitMloop : Kit :=
  mxKit Ctx.loopFaults (fun c =>
    let d := c.w.d.toNat
    let late := c.s.buffered c.W
    let f := c.s.nextId
    let s := c.s.launchFlight { warp := c.k, cls := 7, accs := [], dst := d, regs := [d, d + 1, d + 2, d + 3], round := late, ready := false }
    c.sendMx s (.mloop c.w.mod c.aLayout c.stepWord c.incWord c.adpWord c.loopMask) f true)

/-- 0x283: MLOOP (R169 to R172, R257). Its mask output is a variable result. -/
def execMloop (w : Fields) (s : State) : Host.Outcome State Fault Refusal := run .mloop .l96 w kitMloop s

/-- The behaviour of `execMzero`. -/
def kitMzero : Kit :=
  mxKit
    (fun c => firstOf [
      (!tileOk c.tileWidth (c.al.toNat % 8) && c.mxv.record.isSome, c.mxOpnd 1 (BitVec.ofNat 32 (c.al.toNat % 8))),
      (c.al >>> 3 ≠ 0, c.mxOpnd 4 c.al)])
    (fun c => c.sendMx c.s (.mzero (c.al.toNat % 8)) 0 true)

/-- 0x284: MZERO (R167). -/
def execMzero (w : Fields) (s : State) : Host.Outcome State Fault Refusal := run .mzero .l64 w kitMzero s

/-- Row of MRD's word. -/
def mrdRow (x : Word) : Nat := x.toNat % 128
/-- TILE of MRD's word. -/
def mrdTile (x : Word) : Nat := (x.extractLsb' 8 3).toNat

/-- The values that MRD reads in some lanes. -/
def MxUnit.rowOf (U : MxUnit) (row tile : Nat) : List Word :=
  let width := match U.record with
    | some r => planeCols r.wfmt
    | none => 32
  (List.range 128).map (fun i => if U.err.isSome || width ≤ i then 0 else U.read (accCell tile row i))

/-- The operations that an MRD waits for at D1 and above: those before it that have not completed, and those that
complete within this round (R177). -/
def Ctx.mreadOps (c : Ctx) : List Nat :=
  let U := (c.s.core (c.s.mxCore c.W)).mx
  U.queue.map (·.id) ++ U.recent ++ (c.s.bufOf c.k).filterMap (fun d => match d with
    | .mx _ e => some e.id
    | .tap _ e => if e.op == .fgath || e.op == .tapgo then some e.id else none
    | _ => none)

/-- The lanes for which an MRD consumes poison at D1 and above (R340). -/
def Ctx.mrdPoison (c : Ctx) (row tile : Nat) : Option Nat :=
  let U := (c.s.core (c.s.mxCore c.W)).mx
  if U.err.isSome then none
  else c.lanes.find? (fun i => i < c.tileWidth && U.accPoison.contains (accCell tile row i))

/-- The behaviour of `execMrd`. -/
def kitMrd : Kit :=
  let row (c : Ctx) : Nat := mrdRow c.al
  let tile (c : Ctx) : Nat := mrdTile c.al
  { mxKit
    (fun c => firstOf [
      (!tileOk c.tileWidth (tile c) && c.mxv.record.isSome, c.mxOpnd 1 (BitVec.ofNat 32 (tile c))),
      (c.al &&& 0xFFFFF880 ≠ 0, c.mxOpnd 4 c.al)] ++ c.mxError)
    (fun c =>
      let d := c.w.d.toNat
      if c.s.buffered c.W then
        let vals := match c.wake with
          | some (.mread _ _ _ (some vs)) => vs
          | _ => (c.s.core (c.s.mxCore c.W)).mx.rowOf (row c) (tile c)
        let s := c.later c.s 7 (c.lanes.map (fun i => (d, i, vals.getD i 0))) [d]
        match c.mrdPoison (row c) (tile c) with
        | some i => s.killPoison c.k i 0 none
        | none => s
      else
        let f := c.s.nextId
        let s := c.s.launchFlight { warp := c.k, cls := 7, accs := [], dst := d, regs := [d], ready := false }
        c.sendMx s (.mrd (row c) (tile c)) f false) with
    wait := fun c => (
      if !c.acts || !c.s.buffered c.W then (c.s, none)
      else
        match c.wake with
        | some (.mread _ _ _ (some _)) => (c.s, none)
        | _ =>
          if c.mreadOps = [] then (c.s, none)
          else (c.s.endQuantum c.k, some (.mread (row c) (tile c) c.mreadOps none))) }

/-- 0x285: MRD (R167, R177, R326). -/
def execMrd (w : Fields) (s : State) : Host.Outcome State Fault Refusal := run .mrd .l64 w kitMrd s

/-- The rows of MST and MACC. -/
def Ctx.stepRows (c : Ctx) : List Nat := List.range (stepM c.stepWord)

/-- The behaviour of `execMst`. -/
def kitMst : Kit :=
  let size (c : Ctx) : Nat := [4, 2, 2, 1].getD (c.mod % 4) 4
  mxKit
    (fun c => firstOf [
      (!tileOk c.tileWidth (stepTile c.stepWord) && c.mxv.record.isSome, c.mxOpnd 1 (BitVec.ofNat 32 (stepTile c.stepWord))),
      (stepReserved c.stepWord true, c.mxOpnd 4 c.stepWord)] ++
      c.layoutFaults c.aLayout (c.rowsBeyond c.aLayout c.stepRows [0] (fun m _ =>
        (List.range (c.tileWidth * size c)).map (layoutAddr c.aLayout m 0 0) ++
          (if c.mod % 4 = 3 then [layoutAddr c.aLayout 128 0 0 m] else []))))
    (fun c => c.sendMx c.s (.mst c.aLayout c.stepWord (c.mod % 4)) 0 true)

/-- 0x286: MST (R167, R259). -/
def execMst (w : Fields) (s : State) : Host.Outcome State Fault Refusal := run .mst .l96 w kitMst s

/-- The behaviour of `execMacc`. -/
def kitMacc : Kit :=
  mxKit
    (fun c => firstOf [
      (!tileOk c.tileWidth (stepTile c.stepWord) && c.mxv.record.isSome, c.mxOpnd 1 (BitVec.ofNat 32 (stepTile c.stepWord))),
      ((c.mxv.record.map (fun r => !pairs c.mxv.afmt r.wfmt)).getD false, c.mxOpnd 2 (BitVec.ofNat 32 c.mxv.afmt)),
      (stepReserved c.stepWord true, c.mxOpnd 4 c.stepWord)] ++
      c.layoutFaults c.aLayout (c.rowsBeyond c.aLayout c.stepRows [0] (fun m _ =>
        (maccAddrs c.aLayout m c.tileWidth).foldr (fun a acc => spadRun a 4 ++ acc) [])))
    (fun c => c.sendMx c.s (.macc c.aLayout c.stepWord) 0 true)

/-- 0x287: MACC (R167, R259). -/
def execMacc (w : Fields) (s : State) : Host.Outcome State Fault Refusal := run .macc .l96 w kitMacc s

/-- The behaviour of `execMfence`. -/
def kitMfence : Kit :=
  { mxKit (fun _ => [])
    (fun c =>
      let id := c.s.nextId
      let n := c.W.batchNo + 1
      let g : Engine := { op := .batch c.W.openOps, warp := c.k, block := c.W.block, cls := 3, stage := 1, rel := c.W.release, lead := c.lead }
      let s := (State.bump { c.s with engines := minsert c.s.engines id g }).modWarp c.k (fun W => { W.count1 3 id with
        batches := ((W.batches ++ [(n, W.openOps, id)]).filter (fun b => (b.1 < 2 ^ 40 && n < b.1 + 16) || W.outs.any (fun o => o.2.1 == b.2.2)))
        batchNo := n
        openOps := [] })
      c.put s c.w.d.toNat (c.lanes.map (fun i => (i, BitVec.ofNat 32 (n % 2 ^ 16))))) with
    wait := fun c => c.room 3 }

/-- 0x288: MFENCE (R176, R258): its number lands with the latency of class A. -/
def execMfence (w : Fields) (s : State) : Host.Outcome State Fault Refusal := run .mfence .l64 w kitMfence s

/-- The closings that a batch number names: the newest is at most 15 closings back (R176). -/
def Ctx.batchOf (c : Ctx) : Option (Nat × List Nat × Nat) :=
  c.W.batches.find? (fun b => b.1 < 2 ^ 40 && c.W.batchNo < b.1 + 16 && b.1 % 2 ^ 16 == c.al.toNat % 2 ^ 16)

/-- Whether a batch's completion is visible to its warp. -/
def Warp.batchSeen (W : Warp) (b : Nat × List Nat × Nat) : Bool := !W.outs.any (fun o => o.2.1 == b.2.2)

/-- The behaviour of `execMwait`. -/
def kitMwait : Kit :=
  { mxKit
    (fun c => firstOf [(c.batchOf.isNone, c.mxOpnd 6 (c.al &&& 0xFFFF))] ++ c.mxError)
    (fun c => c.s) with
    wait := fun c => (
      match (if c.acts then c.batchOf else none) with
      | none => (c.s, none)
      | some b =>
        if c.W.batchSeen b then (c.s, none)
        else (if c.s.buffered c.W then c.s.endQuantum c.k else c.s, some (.batch b.2.2))) }

/-- 0x289: MWAIT (R176, R177, R326). -/
def execMwait (w : Fields) (s : State) : Host.Outcome State Fault Refusal := run .mwait .l64 w kitMwait s

/-- The behaviour of `execMmeta`. -/
def kitMmeta : Kit :=
  mxKit Ctx.recordFaults (fun c => c.sendMx c.s (.mmeta (c.a64 c.lead)) 0 true)

/-- 0x28A: MMETA (R167, R173). -/
def execMmeta (w : Fields) (s : State) : Host.Outcome State Fault Refusal := run .mmeta .l64 w kitMmeta s

end Sys2Proof.Machine
end

