-- ==== Sys2Proof/Machine/Graph.lean ====
section
/-! DEFINITION. Graph and launch instructions, 0x2E0 to 0x2E3: stream nodes and their records, child launches and
signal additions (R131, R263 to R268, R328). -/

namespace Sys2Proof.Machine

/-! ### Stream nodes -/

/-- Whether a node accepts records (R264). -/
def Node.accepts (x : Node) : Bool := 1 ≤ x.coal && x.state != 2 && x.live != 0

/-- The accepting stream node of a partition whose record lies at a physical address: its graph and number. -/
def State.nodeAt (s : State) (part pa : Nat) : Option (Nat × Nat) :=
  s.graphs.findSome? (fun g =>
    if g.2.failed || s.partOf g.2.queue != part then none
    else (g.2.nodes.zipIdx.find? (fun x => x.1.accepts && s.physOf g.2.queue x.1.addr.toNat == some pa)).map (fun x => (g.1, x.2)))

/-- Write bytes at virtual addresses of a queue as store-class writes of a core and of a service class; the latest completion times
(R79, R92). -/
def State.walkerPut (s : State) (queue svc core va : Nat) (bs : List Byte) : State × DWord × DWord :=
  (cutSectors va bs.length).foldl (fun acc r =>
    match acc.1.physOf queue r.1 with
    | none => acc
    | some pa =>
      let x := acc.1.atHome core svc { lane := 0, va := BitVec.ofNat 64 r.1, pa := pa, n := r.2, op := .write ((bs.drop (r.1 - va)).take r.2) }
      (x.1, gwctMax acc.2.1 x.2.gwct, gwctMax acc.2.2 x.2.gwctd)) (s, 0, 0)

/-- Append a record to a node's queue, else to its overflow area (R131, R264): 0 for failure, 1 or 2, with the
completion times of the write, which carries the service class of the warp that caused it (R79). `f` is the flight whose
acknowledgement raises the warp's times (R265). -/
def State.appendRecord (s : State) (node : Option (Nat × Nat)) (svc core f : Nat) (rec_ : List Byte) : State × Nat × DWord × DWord :=
  match node with
  | none => (s, 0, 0, 0)
  | some (g, n) =>
    match s.node? g n with
    | none => (s, 0, 0, 0)
    | some x =>
      let queue := ((mfind s.graphs g).map (·.queue)).getD 0
      if !x.accepts then (s, 0, 0, 0)
      else if x.useQ < x.cap then
        let w := s.walkerPut queue svc core (x.inq.toNat + x.rsz * (x.nq % x.cap)) rec_
        (w.1.modNode g n (fun x => { x with nq := x.nq + 1, useQ := x.useQ + 1, recs := x.recs ++ [(false, x.nq, w.2.1, f)] }), 1, w.2)
      else if x.useO < x.ocap then
        let w := s.walkerPut queue svc core (x.ovf.toNat + x.rsz * (x.no % x.ocap)) rec_
        (w.1.modNode g n (fun x => { x with no := x.no + 1, useO := x.useO + 1, recs := x.recs ++ [(true, x.no, w.2.1, f)] }), 2, w.2)
      else (s, 0, 0, 0)

/-- Whether the walker counts a record as present (R265). -/
def State.recPresent (s : State) (r : Bool × Nat × DWord × Nat) : Bool :=
  s.pastAll r.2.2.1 && (mfind s.flights r.2.2.2).isNone && (mfind s.engines r.2.2.2).isNone

/-- The records of a node that are present and unclaimed, queue records first (R131). -/
def State.presentRecs (s : State) (x : Node) : List (Bool × Nat × DWord × Nat) :=
  let l := x.recs.filter s.recPresent
  l.filter (fun r => !r.1) ++ l.filter (fun r => r.1)

/-- The address of a record. -/
def Node.recAddr (x : Node) (r : Bool × Nat × DWord × Nat) : DWord :=
  if r.1 then x.ovf + BitVec.ofNat 64 (x.rsz * (r.2.1 % x.ocap)) else x.inq + BitVec.ofNat 64 (x.rsz * (r.2.1 % x.cap))

/-! ### EMIT -/

/-- RSZ of the node record that an EMIT names, as the walker or memory holds it. -/
def Ctx.emitRsz (c : Ctx) : Option Nat :=
  (c.trans (c.a64 c.lead).toNat).map (fun t =>
    let pa := t.phys (c.a64 c.lead).toNat
    match (c.s.nodeAt (c.s.partOfWarp c.W) pa).bind (fun x => c.s.node? x.1 x.2) with
    | some x => x.rsz
    | none => leNat (c.s.bytesAt (pa + 0x20) 2))

/-- EMIT's checks (R264). -/
def Ctx.emitFaults (c : Ctx) : List TrapRec :=
  if !c.acts then []
  else
    let a := c.a64 c.lead
    let lead := firstOf [(a.toNat % 64 ≠ 0, c.addrLead a 1 64), (2 ^ 48 ≤ a.toNat, c.addrLead a 5 64)]
    if lead ≠ [] then lead
    else
      c.lanes.filterMap (fun i =>
        let p := (c.b i).toNat
        let n := c.emitRsz.getD 0
        if p % 16 ≠ 0 then some (c.addrFault i ((c.b i).setWidth 64) 1 16)
        else if c.s.spadSize c.W.block < p + n then some (c.addrFault i ((c.b i).setWidth 64) 2 n)
        else none)

/-- The address whose translation EMIT's checks need: RSZ stands in the node record, and decides where no lower lane has a misaligned
address already (R318). -/
def Ctx.emitFirst (c : Ctx) : List Nat :=
  let a := (c.a64 c.lead).toNat
  if !c.acts || a % 64 ≠ 0 || 2 ^ 48 ≤ a || c.lanes.head?.any (fun i => (c.b i).toNat % 16 ≠ 0) then [] else [a]

/-- The virtual addresses at which the next n records of a node come to lie, in order (R264). -/
def Node.nextPlaces (x : Node) (n : Nat) : List Nat :=
  let q := min n (x.cap - x.useQ)
  (List.range q).map (fun j => x.inq.toNat + x.rsz * ((x.nq + j) % x.cap)) ++
    (List.range (min (n - q) (x.ocap - x.useO))).map (fun j => x.ovf.toNat + x.rsz * ((x.no + j) % x.ocap))

/-- The sectors at which the next n records of a node come to lie, by virtual address and length. -/
def State.recordRanges (s : State) (node : Option (Nat × Nat)) (n : Nat) : List (Nat × Nat) :=
  match node.bind (fun x => s.node? x.1 x.2) with
  | some x => if x.accepts then (x.nextPlaces n).foldr (fun a acc => cutSectors a x.rsz ++ acc) [] else []
  | none => []

/-- The node that an EMIT names, by its graph and number. -/
def Ctx.emitNode (c : Ctx) : Option (Nat × Nat) :=
  (c.trans (c.a64 c.lead).toNat).bind (fun t => c.s.nodeAt (c.s.partOfWarp c.W) (t.phys (c.a64 c.lead).toNat))

/-- The places that an EMIT is about to write. -/
def Ctx.emitRanges (c : Ctx) : List (Nat × Nat) := if c.acts then c.s.recordRanges c.emitNode c.lanes.length else []

/-- The sectors among them that another warp's escalated lane holds (R104). -/
def Ctx.emitHeld (c : Ctx) : List Nat :=
  (c.emitRanges.filterMap (fun r => (c.trans r.1).map (fun t => t.phys r.1 / 32))).filter (fun x => c.s.heldByOther c.k (x * 32) 1)

/-- The records of an EMIT appended in lane order (R264): results, and the accesses whose acknowledgement is due. -/
def State.emitGo (s : State) (k f : Nat) (m : BitVec 16) (node : Nat) (recs : List (Nat × Nat)) : State × List (Nat × Nat) × List Access :=
  let W := s.warp k
  let at_ := s.nodeAt (s.partOfWarp W) node
  let rsz := ((at_.bind (fun x => s.node? x.1 x.2)).map (·.rsz)).getD 0
  let sp := s.spadView k m
  recs.foldl (fun acc r =>
    let s := acc.1
    let x := s.appendRecord (s.nodeAt (s.partOfWarp W) node) W.svc W.core f (spadBytes sp r.2 rsz)
    let a : Access := { lane := r.1, va := 0, pa := 0, n := 0, op := .note, done := true, gwct := x.2.2.1, gwctd := x.2.2.2 }
    (x.1, acc.2.1 ++ [(r.1, x.2.1)], if x.2.1 = 0 then acc.2.2 else acc.2.2 ++ [a])) (s, [], [])

/-- The behaviour of `execEmit`. -/
def kitEmit : Kit :=
  let node (c : Ctx) : Nat := ((c.trans (c.a64 c.lead).toNat).map (fun t => t.phys (c.a64 c.lead).toNat)).getD 0
  let recs (c : Ctx) : List (Nat × Nat) := c.lanes.map (fun i => (i, (c.b i).toNat))
  { first := Ctx.emitFirst
    check := Ctx.emitFaults
    pages := fun c => if c.acts then (c.a64 c.lead).toNat :: c.emitRanges.map (·.1) else []
    bad := fun c => c.spadPoison (c.emitRsz.getD 0) (fun i => (c.b i).toNat)
    wait := fun c => thenWait (c.room 1) (match (if c.s.buffered c.W then [] else c.emitHeld) with
      | [] => none
      | l => some (.held l))
    eff := fun c => (
      let d := c.w.d.toNat
      let f := c.s.nextId
      if !c.acts then c.s
      else if c.s.buffered c.W then
        let s := c.s.launchFlight { warp := c.k, cls := 1, accs := [], dst := d, regs := [d], round := true, held := true, ready := false }
        (s.defer c.k (.emit f (BitVec.ofNat 64 (node c)) (recs c))).endQuantum c.k
      else
        let r := c.s.emitGo c.k f c.m (node c) (recs c)
        r.1.launchFlight { warp := c.k, cls := 1, accs := r.2.2, vals := r.2.1.map (fun x => (d, x.1, BitVec.ofNat 32 x.2)), regs := [d] })
    fork := false }

/-- 0x2E0: EMIT (R131, R263 to R265). At D1 and above it applies at the commit and ends the quantum. -/
def execEmit (w : Fields) (s : State) : Host.Outcome State Fault Refusal := run .emit .l96 w kitEmit s

/-! ### LAUNCH -/

/-- Capacity of a partition's child queue (R266). -/
def childLimit : Nat := 64

/-- Offer a child launch: the state, and whether it was queued (R266). -/
def State.childOffer (s : State) (k : Nat) (record signal : DWord) : State × Bool :=
  let W := s.warp k
  let p := s.partOfWarp W
  match mfind s.parts p with
  | none => (s, false)
  | some P =>
    if childLimit ≤ P.children.length then (s, false)
    else
      ((s.modPart p (fun P => { P with children := P.children ++ [(k, record, signal, s.nextId)] })).modLaunch W.launch
        (fun L => { L with children := L.children + 1 }), true)

/-- LAUNCH's checks (R266). -/
def Ctx.launchFaults (c : Ctx) : List TrapRec :=
  let r := c.a64 c.lead
  let g := c.b64 c.lead
  if !c.acts then []
  else firstOf [
    (r.toNat % 256 ≠ 0, c.addrLead r 1 256),
    (g.toNat % 8 ≠ 0, c.addrLead g 1 8),
    (2 ^ 48 ≤ r.toNat, c.addrLead r 5 256),
    (2 ^ 48 ≤ g.toNat, c.addrLead g 5 8)]

/-- A release at a scope before an effect: what it still waits for (R95, R113). -/
def Ctx.releaseAt (c : Ctx) (scope : Nat) : Option Cond :=
  match c.wake with
  | some (.fence (some _) _ _) => none
  | _ =>
    if !c.acts || 1 ≤ c.W.detlvl || c.s.released c.k c.s.nextId scope then none
    else some (.fence (some scope) false c.s.nextId)

/-- The behaviour of `execLaunch`. -/
def kitLaunch : Kit :=
  { check := Ctx.launchFaults
    wait := fun c => (c.s, c.releaseAt 4)
    eff := fun c => (
      let d := c.w.d.toNat
      let f := c.s.nextId
      if !c.acts then c.s
      else
        let s := c.s.modWarp c.k (fun W => W.countRelease 4)
        if s.buffered c.W then
          let s := s.launchFlight { warp := c.k, cls := 7, accs := [], dst := d, regs := [d], round := true, held := true, ready := false }
          (s.defer c.k (.launch f c.lanes (c.a64 c.lead) (c.b64 c.lead))).endQuantum c.k
        else
          let r := s.childOffer c.k (c.a64 c.lead) (c.b64 c.lead)
          c.later r.1 7 (c.lanes.map (fun i => (d, i, boolWord r.2))) [d])
    fork := false }

/-- 0x2E1: LAUNCH (R266). -/
def execLaunch (w : Fields) (s : State) : Host.Outcome State Fault Refusal := run .launch .l96 w kitLaunch s

/-! ### SIGADD and NDONE -/

/-- The behaviour of `execSigadd`. -/
def kitSigadd : Kit :=
  { check := fun c => c.globalFaults false 8 8 c.a64
    pages := fun c => c.pageAddrs c.a64
    wprot := fun c => c.wprotFaults 8 c.a64
    wait := fun c => thenWait (c.room 1) (c.releaseAt 6)
    eff := fun c => (
      if !c.acts then c.s
      else
        let accs := c.accesses 8 0 c.a64 (fun i => .rmw 0 true (c.b64 i) 0)
        let s := c.s.modWarp c.k (fun W => W.countRelease 6)
        let s := s.noteWrites c.k ((accs.map (fun a => a.pa / 32)).dedup)
        let late := s.buffered c.W
        let f := s.nextId
        let s := s.launchFlight { warp := c.k, cls := 1, accs := accs, inOrder := true, round := late, held := late }
        if late then (s.defer c.k (.flight f)).bufFull c.k else s)
    fork := false }

/-- 0x2E2: SIGADD (R267): a release at SYSTEM scope, then one atomic addition for each lane in order. -/
def execSigadd (w : Fields) (s : State) : Host.Outcome State Fault Refusal := run .sigadd .l96 w kitSigadd s

/-- NDONE takes effect (R268). -/
def State.ndone (s : State) (k : Nat) : State :=
  (s.modWarp k (fun W => { W with ndone := true })).ndoneOver (s.warp k).launch

/-- The behaviour of `execNdone`. -/
def kitNdone : Kit :=
  { eff := fun c => (
      if !c.acts || c.W.stream.isNone then c.s
      else if c.s.buffered c.W then c.s.defer c.k .ndone else c.s.ndone c.k)
    fork := false }

/-- 0x2E3: NDONE (R268). -/
def execNdone (w : Fields) (s : State) : Host.Outcome State Fault Refusal := run .ndone .l64 w kitNdone s

end Sys2Proof.Machine
end

