-- ==== Sys2Proof/Machine/TapUnit.lean ====
section
/-! DEFINITION. The tap unit: tap records, rule lists, the treatment of a tile's rows, holds, events and their rings,
and the unit's events (R137 to R150, R154 to R157, R296, R327). -/

namespace Sys2Proof.Machine

/-! ### Reading what a tap names -/

/-- Through what the tap unit reads: the warp and the number of an operation, and the pages that it has asked for; or, at a commit, each
page as its table has it and each byte as its home has it (R112, R157). -/
structure Reader where
  warp  : Nat
  op    : Nat
  asked : List Nat := []
  home  : Bool := false
  deriving DecidableEq, Repr

/-- Why a read of the tap unit stops: no translation of an address is there, or the data is poisoned, in memory at the addresses
given. -/
inductive TapStop
  | page (va : Nat)
  | poison (found : Option (Nat × Nat))
  deriving DecidableEq, Repr

/-- Bytes that the tap unit reads for an operation of a warp. -/
def State.tapRead (s : State) (via : Reader) (va n : Nat) : Except TapStop (List Byte) :=
  let range := [(va % 2 ^ 64, n)]
  match (if via.home then s.fetchUnmapped via.warp range else s.fetchLacks via.warp via.asked range) with
  | a :: _ => .error (.page a)
  | [] =>
    let b := if via.home then s.homeFetch via.warp (va % 2 ^ 64) n else s.fetchBytes via.warp via.op (va % 2 ^ 64) n
    if b.2 then .error (.poison (s.fetchBad via.warp range)) else .ok b.1

/-- A signed 32-bit offset counted from the tap record (R137, R140, R141). -/
def tapOff (tap : DWord) (w : Nat) : DWord := tap + (BitVec.ofNat 32 w).signExtend 64

/-- A tap record, if it meets Table 1 of R137. -/
def parseTap (tap : DWord) (b : List Byte) : Option TapRecord :=
  let w (o : Nat) : Nat := fieldAt b o 4
  let h := w 0
  let dmodel := w 8
  let ok := h / 2 ^ 24 ≤ 2 && h / 2 ^ 16 % 256 ≤ 1 && 1 ≤ w 4 && w 4 ≤ 2 ^ 24 && dmodel % 128 == 0 && 128 ≤ dmodel &&
    dmodel ≤ 32768 && w 0xC / 32 == 0 && w 0xC % 32 ≤ 16 && fieldAt b 0x38 8 == 0
  if ok then some
    { ofmt := h / 2 ^ 24
      dfmt := h / 2 ^ 16 % 256
      layer := h / 2 ^ 8 % 256
      id := h % 256
      nfeat := w 4
      dmodel := dmodel
      dirn := w 0xC % 32
      enc := tapOff tap (w 0x10)
      dec := tapOff tap (w 0x14)
      bias := tapOff tap (w 0x18)
      theta := tapOff tap (w 0x1C)
      escale := tapOff tap (w 0x20)
      dscale := tapOff tap (w 0x24)
      dir := tapOff tap (w 0x28)
      tracen := if w 0x2C = 0 then none else some (tapOff tap (w 0x2C))
      tracebuf := tapOff tap (w 0x30)
      traceslots := w 0x34 }
  else none

/-- The activation format code of the dictionary and the input. -/
def TapRecord.fmt (T : TapRecord) : Nat := if T.dfmt = 0 then 0 else 2

/-- K chunks. -/
def TapRecord.strips (T : TapRecord) : Nat := T.dmodel / 128

/-- Features of a group (R144). -/
def TapRecord.group (T : TapRecord) : Nat := if T.dfmt = 0 then 64 else 128

/-- Bytes of an output element (R145). -/
def TapRecord.outSize (T : TapRecord) : Nat := if T.ofmt = 2 then 1 else 2

/-- Look a request up in the directory from an entry on (R140): none, or whether the entry is malformed and where
the rule list lies. -/
def State.dirLookup (s : State) (via : Reader) (tap : DWord) (T : TapRecord) (q : Nat) : Nat → Nat → Except TapStop (Option (Bool × DWord))
  | 0, _ => .ok none
  | n + 1, i =>
    match s.tapRead via (T.dir.toNat + 16 * (i % 2 ^ T.dirn)) 16 with
    | .error e => .error e
    | .ok b =>
      let w0 := fieldAt b 0 4
      if w0 / 2 ^ 16 % 2 = 0 then .ok none
      else if w0 % 2 ^ 16 = q then
        .ok (some (w0 / 2 ^ 17 != 0 || fieldAt b 4 4 != 0 || fieldAt b 12 4 != 0, tapOff tap (fieldAt b 8 4)))
      else s.dirLookup via tap T q n (i + 1)

/-- The rule at position r of a list's bytes, and the reason it makes the list malformed, or 0 (R141, R327). -/
def parseRule (T : TapRecord) (b : List Byte) : TapRule × Nat :=
  let w0 := fieldAt b 0 4
  let r : TapRule := ⟨w0 % 256, w0 / 256, BitVec.ofNat 32 (fieldAt b 4 4)⟩
  (r, if 7 ≤ r.op || fieldAt b 8 8 != 0 then 1 else if r.op ≠ 6 && T.nfeat ≤ r.feature then 2 else 0)

/-- A rule list: the reason for which it is malformed or 0, the rules and the event ring (R141, R146). One that is not aligned to 4
bytes is malformed for reason 1, DESIGN CHOICE (log entry 90). -/
def State.ruleList (s : State) (via : Reader) (tap : DWord) (T : TapRecord) (a : DWord) : Except TapStop (Nat × List TapRule × Option DWord) :=
  match s.tapRead via a.toNat 16 with
  | .error e => .error e
  | .ok h =>
    let w0 := fieldAt h 0 4
    let count := w0 % 128
    let ring := if fieldAt h 8 4 = 0 then none else some (tapOff tap (fieldAt h 8 4))
    let head := w0 / 128 != 0 || fieldAt h 4 4 != 0 || fieldAt h 12 4 != 0 || a.toNat % 4 != 0
    if 64 < count then .ok (if head then 1 else 3, [], ring)
    else
      match s.tapRead via (a.toNat + 16) (16 * count) with
      | .error e => .error e
      | .ok b =>
        let rs := (List.range count).map (fun r => parseRule T (b.drop (16 * r)))
        let bad (n : Nat) : Bool := rs.any (fun r => r.2 == n)
        .ok (if head || bad 1 then 1 else if bad 2 then 2 else 0, rs.map (·.1), ring)

/-- What becomes of a request: the reason it is malformed or 0, its rules and its ring; no rules where the directory
does not name it. -/
def State.requestRules (s : State) (via : Reader) (tap : DWord) (T : TapRecord) (q : Nat) : Except TapStop (Nat × List TapRule × Option DWord) :=
  match s.dirLookup via tap T q (2 ^ T.dirn) (q % 2 ^ T.dirn) with
  | .error e => .error e
  | .ok none => .ok (0, [], none)
  | .ok (some (odd, a)) =>
    match s.ruleList via tap T a with
    | .error e => .error e
    | .ok (r, rules, ring) => .ok (if odd then 1 else r, rules, ring)

/-- The rows of the row table (R142): row, request, position and whether a reserved bit is set; valid rows only. -/
def tableRows (sp : List Host.Cell) (table : Nat) : List (Nat × Nat × Word × Bool) :=
  (List.range 128).filterMap (fun m =>
    let b := spadBytes sp (table + 8 * m) 8
    let w0 := fieldAt b 0 4
    if w0 / 2 ^ 16 % 2 = 1 then some (m, w0 % 2 ^ 16, BitVec.ofNat 32 (fieldAt b 4 4), w0 / 2 ^ 17 != 0) else none)

/-- Plan the rows in order. -/
def State.planRows (s : State) (via : Reader) (tap : DWord) (T : TapRecord) : List (Nat × Nat × Word × Bool) → Except TapStop (List RowPlan)
  | [] => .ok []
  | (m, q, pos, odd) :: l =>
    match s.requestRules via tap T q with
    | .error e => .error e
    | .ok (r, rules, ring) =>
      match s.planRows via tap T l with
      | .error e => .error e
      | .ok ps => .ok ({ row := m, req := q, pos := pos, bad := if odd then 1 else r, rules := rules, ring := ring } :: ps)

/-- The features that a list of rules names. -/
def ruleFeatures (l : List TapRule) : List Nat := (l.filter (fun r => r.op != 6)).map (·.feature)

/-- Insert into an ascending list without repeats. -/
def insertNat (x : Nat) : List Nat → List Nat
  | [] => [x]
  | y :: l => if x < y then x :: y :: l else if x = y then y :: l else y :: insertNat x l

/-- A list of numbers, ascending and without repeats. -/
def ascending (l : List Nat) : List Nat := l.foldl (fun a x => insertNat x a) []

/-- A request one of whose rows is malformed has no rules in any row. -/
def badRequest (l : List RowPlan) (q : Nat) : Nat := ((l.filter (fun r => r.req == q && r.bad != 0)).map (·.bad)).foldl (fun a x => if a = 0 then x else min a x) 0

/-- The rules that a row is treated with. -/
def RowPlan.used (l : List RowPlan) (r : RowPlan) : List TapRule := if badRequest l r.req ≠ 0 then [] else r.rules

/-- The union of the features that rules name, ascending (R144). -/
def planFeatures (l : List RowPlan) : List Nat := ascending (l.foldr (fun r acc => ruleFeatures (r.used l) ++ acc) [])

/-- Read a feature (R138). -/
def State.readFeature (s : State) (via : Reader) (T : TapRecord) (f : Nat) : Except TapStop Feature := do
  let n := T.strips * chunkBytes T.fmt
  let enc ← s.tapRead via (T.enc.toNat + f * n) n
  let dec ← s.tapRead via (T.dec.toNat + f * n) n
  let esc ← s.tapRead via (T.escale.toNat + f / 128 * T.strips) T.strips
  let dsc ← s.tapRead via (T.dscale.toNat + f / 128 * T.strips) T.strips
  let bias ← s.tapRead via (T.bias.toNat + 4 * f) 4
  let theta ← s.tapRead via (T.theta.toNat + 4 * f) 4
  .ok ⟨f, enc, dec, esc.map (·.toNat), dsc.map (·.toNat), BitVec.ofNat 32 (leNat bias), BitVec.ofNat 32 (leNat theta)⟩

/-- Read features in order. -/
def State.readFeatures (s : State) (via : Reader) (T : TapRecord) : List Nat → Except TapStop (List Feature)
  | [] => .ok []
  | f :: l => do
    let x ← s.readFeature via T f
    let xs ← s.readFeatures via T l
    .ok (x :: xs)

/-- Whether a scratchpad address that the tap forms through a layout word for a row lies at or beyond the
allocation (R146). -/
def rowOutside (T : TapRecord) (inp out : BitVec 96) (size m : Nat) : Bool :=
  (List.range T.strips).any (fun c =>
    (rowBytes inp T.fmt m c ++ rowScale inp T.fmt m c ++ (List.range (128 * T.outSize)).map (layoutAddr out m c 0) ++
      (if T.ofmt = 2 then [layoutAddr out 128 c 0 m] else [])).any (fun a => size ≤ a))

/-- What FGATH learns of a binding: its record, its rows and group 0 (R144, R146). -/
def State.gather (s : State) (core : Nat) (e : MxEntry) (b : Binding) : Except TapStop Binding :=
  let via : Reader := { warp := b.warp, op := e.id, asked := e.asked }
  let sp := s.unitSpad core e.id b.block
  let rows := tableRows sp b.table
  if s.spadBad b.block b.table 1024 then .error (.poison none)
  else
    match s.tapRead via b.tap.toNat 64 with
    | .error e => .error e
    | .ok h =>
      let bare : List RowPlan := rows.map (fun r => { row := r.1, req := r.2.1, pos := r.2.2.1 })
      match parseTap b.tap h with
      | none => .ok { b with rd := none, bad := 4, plan := bare }
      | some T =>
        if rows.any (fun r => rowOutside T b.inp b.out (s.spadSize b.block) r.1) then .ok { b with rd := some T, bad := 5, plan := bare }
        else
          match s.planRows via b.tap T rows with
          | .error e => .error e
          | .ok plan =>
            match s.readFeatures via T ((planFeatures plan).take T.group) with
            | .error e => .error e
            | .ok g => .ok { b with rd := some T, bad := 0, plan := plan, group0 := g }

/-- The plane that FGATH leaves: a column for each feature of group 0, zeros in the others. -/
def gatheredPlane (T : Option TapRecord) (g : List Feature) (seed : Nat) : Plane :=
  match T with
  | none => Plane.undefined seed none
  | some T =>
    let n := chunkBytes T.fmt
    { idx := none
      data := (List.range T.group).foldr (fun j acc => (match g[j]? with
        | some x => x.enc.take n
        | none => List.replicate n 0) ++ acc) []
      known := true
      seed := seed }

/-! ### Treating a row (R145) -/

/-- Where a plan's events come from: feature, rule index, whether it intercepts, and the value seen. -/
structure Ev where
  feature : Nat
  rule    : Nat
  int     : Bool
  value   : Word
  deriving DecidableEq, Repr

/-- A value of a small table of features. -/
def featVal (l : List (Nat × Word)) (f : Nat) : Word := ((l.find? (fun x => x.1 == f)).map (·.2)).getD 0

/-- Change a value. -/
def featPut (l : List (Nat × Word)) (f : Nat) (v : Word) : List (Nat × Word) := l.map (fun x => if x.1 = f then (f, v) else x)

/-- FP32 comparison; false with a NaN (R141). -/
def fgt (a b : Word) : Bool :=
  let x := Fmt.fp32.decode a.toNat
  let y := Fmt.fp32.decode b.toNat
  !x.isNan && !y.isNan && y.lt x

/-- Whether two FP32 values differ as numbers. -/
def fne (a b : Word) : Bool :=
  let x := Fmt.fp32.decode a.toNat
  let y := Fmt.fp32.decode b.toNat
  x.isNan || y.isNan || !x.eq y

/-- Whether a word is a NaN. -/
def fnan (a : Word) : Bool := (Fmt.fp32.decode a.toNat).isNan

/-- The activation of a feature over a row (R63, R138). -/
def activation (x : List ARow) (F : Feature) (fmt : Nat) : Word × FlagSet :=
  let z := x.zipIdx.foldl (fun (st : Word × FlagSet) r =>
    let enc := (F.enc.drop (r.2 * chunkBytes fmt)).take (chunkBytes fmt)
    let a := rowColumn r.1 ((List.range 128).map (fun k => (k, chunkElem fmt enc k))) (some (F.esc.getD r.2 0)) st.1
    (a.1, st.2.or a.2)) (F.bias, FlagSet.none)
  (if fgt z.1 F.theta then z.1 else 0, z.2)

/-- Apply one rule (R141 Table 2): the values, the events and the flags. `watch` says whether an intercept rule
intercepts. -/
def applyRule (watch : Bool) (st : List (Nat × Word) × List Ev × FlagSet) (r : TapRule × Nat) : List (Nat × Word) × List Ev × FlagSet :=
  let v := featVal st.1 r.1.feature
  let set (n : Word) (f : FlagSet) := (featPut st.1 r.1.feature n, st.2.1, st.2.2.or (f.or { nv := fnan n }))
  match r.1.op with
  | 0 => if fgt v r.1.value then (st.1, st.2.1 ++ [⟨r.1.feature, r.2, false, v⟩], st.2.2) else st
  | 1 => if fgt v r.1.value then (st.1, st.2.1 ++ [⟨r.1.feature, r.2, watch, v⟩], st.2.2) else st
  | 2 => if fgt v r.1.value then (featPut st.1 r.1.feature r.1.value, st.2) else st
  | 3 => if fgt r.1.value v then (featPut st.1 r.1.feature r.1.value, st.2) else st
  | 4 =>
    let n := Fmt.fp32.fadd .rne v.toNat r.1.value.toNat
    set (BitVec.ofNat 32 n.1) n.2
  | 5 => set r.1.value FlagSet.none
  | _ => st

/-- Element j of a decoded row: exact, strip scale applied (R145). -/
def rowElem (x : List ARow) (j : Nat) : FVal :=
  match x[j / 128]? with
  | none => FVal.zero
  | some r => scaled [r.code] (r.elems.getD (j % 128) FVal.zero)

/-- Element j of a decoder column. -/
def decElem (F : Feature) (fmt j : Nat) : FVal :=
  let b := (F.dec.drop (j / 128 * chunkBytes fmt)).take (chunkBytes fmt)
  scaled [some (F.dsc.getD (j / 128) 0)] (chunkElem fmt b (j % 128))

/-- delta[j] after one more feature whose value moved (R145). -/
def deltaStep (F : Feature) (fmt : Nat) (v a : Word) (d : List Word) : List Word × FlagSet :=
  let diff := (FVal.add .rne (Fmt.fp32.decode v.toNat) (Fmt.fp32.decode a.toNat).negate).1
  let rs := d.zipIdx.map (fun x => accAdd x.1 (FVal.mul diff (decElem F fmt x.2)).1)
  (rs.map (·.1), FlagSet.all (rs.map (·.2)))

/-- A strip of output values in the output format: bytes, scale code and flags (R145). -/
def roundStrip (ofmt : Nat) (xs : List FVal) : List Byte × Option Nat × FlagSet :=
  match ofmt with
  | 0 =>
    let rs := xs.map (Fmt.fp16.round .rne false)
    (rs.foldr (fun r acc => leBytes 2 r.1 ++ acc) [], none, FlagSet.all (rs.map (·.2)))
  | 1 =>
    let rs := xs.map (Fmt.bf16.round .rne false)
    (rs.foldr (fun r acc => leBytes 2 r.1 ++ acc) [], none, FlagSet.all (rs.map (·.2)))
  | _ =>
    let c := blockScale .e4m3 xs
    if c.1 = 0xFF then (List.replicate xs.length 0, some 0xFF, c.2)
    else
      let rs := xs.map (fun x => quantFloat Fmt.e4m3 (x.scale (-(ue8 c.1))))
      (rs.map (fun r => BitVec.ofNat 8 r.1), some c.1, c.2.or (FlagSet.all (rs.map (·.2))))

/-- A row of output values at its places: writes and flags (R145). -/
def outRow (T : TapRecord) (out : BitVec 96) (m : Nat) (xs : List FVal) : List (Nat × List Byte) × FlagSet :=
  (List.range T.strips).foldl (fun acc c =>
    let r := roundStrip T.ofmt ((xs.drop (128 * c)).take 128)
    let places := (List.range (128 * T.outSize)).map (layoutAddr out m c 0)
    let scale := match r.2.1 with
      | some k => [(layoutAddr out 128 c 0 m, [BitVec.ofNat 8 k])]
      | none => []
    (acc.1 ++ (places.zip r.1).map (fun x => (x.1, [x.2])) ++ scale, acc.2.or r.2.2)) ([], FlagSet.none)

/-- A row with rules (R145): its output values, its events by feature and rule, and the flags, which are those of the row's own
features and of no other, DESIGN CHOICE (log entry 91). -/
def treatRow (T : TapRecord) (x : List ARow) (feats : List Feature) (rules : List TapRule) (watch : Bool) :
    List FVal × List Ev × FlagSet :=
  let names := ascending (ruleFeatures rules)
  let mine := feats.filter (fun F => names.contains F.f)
  let acts := mine.map (fun F => (F.f, activation x F T.fmt))
  let a := acts.map (fun p => (p.1, p.2.1))
  let st := rules.zipIdx.foldl (applyRule watch) (a, [], FlagSet.all (acts.map (fun p => p.2.2)))
  let moved := mine.filter (fun F => fne (featVal st.1 F.f) (featVal a F.f))
  let d := moved.foldl (fun (d : List Word × FlagSet) F =>
    let r := deltaStep F T.fmt (featVal st.1 F.f) (featVal a F.f) d.1
    (r.1, d.2.or r.2)) (List.replicate T.dmodel 0, FlagSet.none)
  let out := d.1.zipIdx.map (fun w => FVal.add .rne (rowElem x w.2) (Fmt.fp32.decode w.1.toNat))
  let evs := names.foldr (fun f acc => st.2.1.filter (fun e => e.feature == f) ++ acc) []
  (out.map (·.1), evs, st.2.2.or (d.2.or { nv := out.any (fun y => y.2.nv || y.1.isNan) }))

/-- The words of an event record (R147). -/
def evWords (T : TapRecord) (r : RowPlan) (e : Ev) : List Word :=
  [BitVec.ofNat 32 (r.req + 2 ^ 16 * T.id + 2 ^ 24 * T.layer), r.pos,
    BitVec.ofNat 32 (e.feature + 2 ^ 24 * e.rule + (if e.int then 2 ^ 30 else 0) + 2 ^ 31), e.value]

/-- Bytes of words. -/
def wordsBytes (l : List Word) : List Byte := l.foldr (fun w acc => leBytes 4 w.toNat ++ acc) []

/-- The bytes of a row's input, for a trace: its elements, its strip scales, and zeros up to a multiple of 128
(R149). -/
def traceBytes (sp : List Host.Cell) (T : TapRecord) (inp : BitVec 96) (m : Nat) : List Byte :=
  let e := (List.range T.strips).foldr (fun c acc => (rowBytes inp T.fmt m c).map (spadByte sp) ++ acc) []
  let k := (List.range T.strips).foldr (fun c acc => (rowScale inp T.fmt m c).map (spadByte sp) ++ acc) []
  let n := (e ++ k).length
  e ++ k ++ List.replicate ((128 - n % 128) % 128) 0

/-- What TAPGO has done so far. -/
structure Tile where
  writes : List (Nat × List Byte) := []
  outs   : List TapOut := []
  holds  : NMap Hold := []
  undelivered : List (Nat × List Word) := []
  area   : Nat := 0                  -- records in the event area
  flags  : FlagSet := FlagSet.none
  deriving DecidableEq, Repr

/-- Treat one valid row (R145 to R147, R149, R150, R156). -/
def Tile.row (t : Tile) (sp : List Host.Cell) (b : Binding) (T : TapRecord) (rules : RowPlan → List TapRule)
    (feats : List Feature) (watch : Bool) (r : RowPlan) : Tile :=
  let x := (List.range T.strips).map (readRow sp b.inp T.fmt r.row)
  let rs := rules r
  if rs = [] then
    let o := outRow T b.out r.row ((List.range T.dmodel).map (rowElem x))
    { t with writes := t.writes ++ o.1, flags := t.flags.or o.2 }
  else
    let y := treatRow T x feats rs watch
    let o := outRow T b.out r.row y.1
    let ints := y.2.1.filter (·.int)
    let room := ints.take (256 - t.area)
    let hold : Hold :=
      { pos := r.pos
        req := BitVec.ofNat 16 r.req
        first := BitVec.ofNat 8 t.area
        nev := BitVec.ofNat 7 room.length
        lost := room.length != ints.length
        state := 1 }
    let area := room.zipIdx.map (fun e => (b.table + 0x400 + 16 * (t.area + e.2), wordsBytes (evWords T r e.1)))
    let ring := match r.ring with
      | some a => y.2.1.map (fun e => TapOut.ring a (evWords T r e))
      | none => []
    let w0 := (evWords T r ⟨0, 0, false, 0⟩).getD 0 0
    let traces := (rs.filter (fun q => q.op == 6)).map (fun _ => TapOut.trace (traceBytes sp T b.inp r.row) w0 r.pos)
    { writes := t.writes ++ o.1 ++ area
      outs := t.outs ++ ring ++ traces
      holds := if ints = [] then t.holds else minsert t.holds r.row hold
      undelivered := t.undelivered ++ room.map (fun e => (r.row, evWords T r e))
      area := t.area + room.length
      flags := t.flags.or (y.2.2.or o.2) }

/-! ### Rings and traces (R148, R149) -/

/-- Whether the header of an event ring fails R148. -/
def ringBad (ring : DWord) (h : List Byte) : Bool :=
  let l := fieldAt h 8 4
  ring.toNat % 16 != 0 || l % 32 < 4 || 20 < l % 32 || l / 32 != 0

/-- Write an event record to a ring, or count a drop (R148). -/
def State.ringPut (s : State) (core queue svc : Nat) (ring : DWord) (words : List Word) : State × DWord :=
  match s.physOf queue ring.toNat with
  | none => (s, 0)
  | some pa =>
    let h := s.bytesAt pa 16
    let ahead := ((s.core core).tap.ringWait.filter (fun r => r.1.toNat == pa)).length
    let n := (fieldAt h 0 4 + ahead) % 2 ^ 32
    let size := 2 ^ (fieldAt h 8 4 % 32)
    if size ≤ (n + 2 ^ 32 - fieldAt h 4 4) % 2 ^ 32 then
      let w := s.walkerPut queue svc core (ring.toNat + 12) (leBytes 4 ((fieldAt h 12 4 + 1) % 2 ^ 32))
      (w.1, w.2.1)
    else
      let w := s.walkerPut queue svc core (ring.toNat + 16 + 16 * (n % size)) (wordsBytes words)
      (w.1.modTap core (fun T => { T with ringWait := T.ringWait ++ [(BitVec.ofNat 64 pa, n, w.2.1)] }), w.2.1)

/-- Write a trace and append its record to the stream node, or drop it (R149). It is dropped too where there is no slot to write and
where the node accepts nothing, DESIGN CHOICE (log entry 89). -/
def State.tracePut (s : State) (core op queue svc : Nat) (T : TapRecord) (data : List Byte) (w0 w1 : Word) : State × DWord :=
  let n := (s.core core).tap.traceCount
  match T.tracen.bind (fun a => s.physOf queue a.toNat) with
  | none => (s, 0)
  | some pa =>
    match s.nodeAt (s.partOf queue) pa with
    | none => (s, 0)
    | some (g, x) =>
      let full := match s.node? g x with
        | some N => N.cap ≤ N.useQ && N.ocap ≤ N.useO
        | none => true
      if full || T.traceslots = 0 then (s, 0)
      else
        let slot := n % T.traceslots
        let w := s.walkerPut queue svc core (T.tracebuf.toNat + slot * data.length) data
        let rec_ := wordsBytes [w0, w1, BitVec.ofNat 32 slot, BitVec.ofNat 32 n]
        let r := w.1.appendRecord (some (g, x)) svc core op rec_
        (r.1.modTap core (fun T => { T with traceCount := T.traceCount + 1 }), gwctMax w.2.1 r.2.2.1)

/-- Send what a tile sends to memory; the latest completion time. -/
def State.tapSend (s : State) (core op : Nat) (b : Binding) (l : List TapOut) : State × DWord :=
  let queue := (s.warp b.warp).queue
  let svc := (s.warp b.warp).svc
  l.foldl (fun acc o =>
    let r := match o, b.rd with
      | .ring a ws, _ => acc.1.ringPut core queue svc a ws
      | .trace d w0 w1, some T => acc.1.tracePut core op queue svc T d w0 w1
      | .trace _ _ _, none => (acc.1, 0)
    (r.1, gwctMax acc.2 r.2)) (s, 0)

/-! ### The unit's events -/

/-- Rows of the current binding that are held (R150). -/
def TapUnit.heldRows (T : TapUnit) : Nat := (T.hold.filter (fun h => h.2.state == 1 || h.2.state == 2)).length

/-- Whether the tap unit can accept an entry of its queue: bindings one at a time, in order of arrival; the
instructions of a block's binding in order; a warp's rewrites and releases in order (R143, R155). -/
def TapUnit.accepts (T : TapUnit) (ahead : List TapEntry) (e : TapEntry) : Bool :=
  let isRow (x : TapEntry) : Bool := match x.op with
    | .frewr _ _ _ => true
    | .frel _ => true
    | _ => false
  match e.op with
  | .bind _ _ _ _ => !ahead.any TapEntry.isBind && (match T.binding with
    | none => true
    | some b => b.done && T.heldRows == 0)
  | .fgath | .tapgo => !ahead.any (fun x => x.block == e.block && !isRow x) && T.binding.any (fun b => b.block == e.block)
  | .frewr _ _ _ | .frel _ => !ahead.any (fun x => x.warp == e.warp && isRow x)

/-- The first entry that the unit can accept. -/
def firstAccepted (T : TapUnit) (ahead : List TapEntry) : List TapEntry → Option TapEntry
  | [] => none
  | e :: l => if T.accepts ahead e then some e else firstAccepted T (ahead ++ [e]) l

/-- FREWR's new row (R154): reads the output row, adds β times the decoder column, rounds again. What is still queued on the
core sees the new row (R155). -/
def State.rewriteRow (s : State) (core : Nat) (via : Reader) (b : Binding) (beta : Word) (row feature : Nat) :
    Except TapStop (State × FlagSet) :=
  match b.rd with
  | none => .ok (s, FlagSet.none)
  | some T =>
    match s.readFeature via T feature with
    | .error e => .error e
    | .ok F =>
      let sp := s.unitSpad core via.op b.block
      let fmt := [4, 3, 0].getD T.ofmt 4
      let x := (List.range T.strips).map (fun c =>
        let bytes := ((List.range (128 * T.outSize)).map (layoutAddr b.out row c 0)).map (spadByte sp)
        ({ elems := (List.range 128).map (chunkElem fmt bytes)
           code := if T.ofmt = 2 then some (spadByte sp (layoutAddr b.out 128 c 0 row)).toNat else none } : ARow))
      let be := Fmt.fp32.decode beta.toNat
      let ys := (List.range T.dmodel).map (fun j =>
        let p := FVal.mul be (decElem F T.fmt j)
        let y := FVal.add .rne (rowElem x j) p.1
        (y.1, { nv := p.2.nv || y.2.nv || y.1.isNan : FlagSet }))
      let o := outRow T b.out row (ys.map (·.1))
      let queued (o : Nat) : Bool := (s.core core).mx.queue.any (fun x => x.id == o) || (s.core core).tap.queue.any (fun x => x.id == o)
      let s := o.1.foldl (fun s r => s.spadWriteFor via.warp b.block r.1 r.2 queued) s
      .ok (s, o.2.or (FlagSet.all (ys.map (·.2))))

/-- FREL frees the row (R150 Table 4). -/
def TapUnit.free (T : TapUnit) (row : Nat) : TapUnit := { T with hold := mupdate T.hold row (fun h => { h with state := 0 }) }

/-- The tap unit performs a rewrite or a release; `home` says that a commit applies it (R157). -/
def State.rowOp (s : State) (core : Nat) (e : TapEntry) (home : Bool) : Except TapStop State :=
  match e.op, (s.core core).tap.binding with
  | .frewr beta row feature, some b =>
    match s.rewriteRow core { warp := e.warp, op := e.id, home := home } b beta row feature with
    | .error x => .error x
    | .ok (s, f) => .ok (s.modWarp e.warp (fun W => W.raise f.bits))
  | .frel row, _ => .ok (s.modTap core (fun T => T.free row))
  | _, _ => .ok s

/-- Whether an entry of a buffer is for the tap unit's rows. -/
def TapEntry.isRow (e : TapEntry) : Bool :=
  match e.op with
  | .frewr _ _ _ | .frel _ => true
  | _ => false

/-- The addresses that the rewrites in the buffers of some warps need and no table maps: their commit waits for them (R157). -/
def State.rowLacks (s : State) (ks : List Nat) : List (Nat × Nat) :=
  ks.flatMap (fun k => (s.warp k).buf.filterMap (fun d => match d with
    | .tap core e => if e.isRow && !(s.warp e.warp).killed then (match s.rowOp core e true with
      | .error (.page a) => some (e.warp, a)
      | _ => none) else none
    | _ => none))

/-- The walks of such addresses start. -/
def State.walkRows (s : State) (l : List (Nat × Nat)) : State :=
  l.foldl (fun s x => s.startWalksAt (s.warp x.1).core (s.warp x.1).queue [x.2]) s

/-- The tap unit accepts an entry of its queue. -/
def State.tapAccept (s : State) (core : Nat) (e : TapEntry) : State :=
  let drop (s : State) : State := s.modTap core (fun T => { T with queue := T.queue.filter (fun x => x.id != e.id) })
  let finished (s : State) : State := { drop s with kept := merase s.kept e.id }
  match e.op with
  | .bind tap inp out table =>
    drop (s.modTap core (fun T => { T with
      binding := some { block := e.block, warp := e.warp, tap := tap, inp := inp, out := out, table := table }
      hold := []
      outbox := [] }))
  | .fgath => drop (s.modMx core (fun U => { U with
      queue := U.queue ++ [{ op := .fgath, id := e.id, warp := e.warp, block := e.block }] }))
  | .tapgo => drop ((s.modMx core (fun U => { U with
      queue := U.queue ++ [{ op := .tapgo, id := e.id, warp := e.warp, block := e.block }] })).modTap core (fun T =>
        { T with binding := T.binding.map (fun b => { b with started := true }) }))
  | .frewr _ _ _ | .frel _ =>
    match s.rowOp core e false with
    | .error x => (match x with
      | .page a => s.startWalksAt (s.warp e.warp).core (s.warp e.warp).queue [a]
      | .poison y => finished (s.killRead e.warp 0 y))
    | .ok s => finished s

/-- A binding whose block has exited, with nothing of the block left in the unit, is over (log entry 31). -/
def State.dropBinding (s : State) (core : Nat) : State :=
  let T := (s.core core).tap
  match T.binding with
  | none => s
  | some b =>
    if ((s.block? b.block).map (·.alive)).getD false || T.queue.any (fun e => e.block == b.block) ||
        (s.core core).mx.queue.any (fun e => e.block == b.block) then s
    else s.modTap core (fun T => { T with binding := none })

/-- The tap unit accepts the next entry that it can. -/
def State.tapBegin (s : State) (core : Nat) : State :=
  let s := s.dropBinding core
  match firstAccepted (s.core core).tap [] (s.core core).tap.queue with
  | none => s
  | some e => s.tapAccept core e

/-- The tap unit accepts what it can, in order. -/
def State.tapBeginAll (s : State) (core : Nat) : Nat → State
  | 0 => s
  | n + 1 => (s.tapBegin core).tapBeginAll core n

/-- An instruction reaches the tap unit, which accepts what it can at once (R143, R296). -/
def State.tapQueue (s : State) (core : Nat) (e : TapEntry) : State :=
  let s := s.modTap core (fun T => { T with queue := T.queue ++ [e] })
  s.tapBeginAll core ((s.core core).tap.queue.length)

/-- TAPBIND_BEGIN: the tap unit accepts its next waiting instruction (R143, R296). -/
def execTapbindBegin (core : Nat) (s : State) : Host.Outcome State Fault Refusal := .next (s.tapBegin core)

/-- The counted operation of the tap unit completes: its flags and its completion. -/
def State.tapDone (s : State) (core : Nat) (e : MxEntry) (f : FlagSet) (g : DWord) (late : Bool) : State :=
  let s := s.unitFlags e.id f
  let s : State := { s with engines := mupdate s.engines e.id (fun x => { x with stage := 2, gwct := gwctMax x.gwct g, gwctd := gwctMax x.gwctd g }) }
  ((s.leaveUnit core e late).completeOp e.warp e.id).mirrorDone e.id

/-- FGATH_COMPLETE: group 0 is in the plane (R144). -/
def execFgathComplete (core : Nat) (s : State) : Host.Outcome State Fault Refusal :=
  .next (match (s.core core).mx.queue, (s.core core).tap.binding with
    | e :: _, some b =>
      if e.op ≠ .fgath then s
      else
        let late := s.buffered (s.warp e.warp)
        match s.gather core e b with
        | .error x => (match x with
          | .page a => s.askUnit core [a]
          | .poison y => (s.killRead b.warp 0 y).tapDone core e FlagSet.none 0 late)
        | .ok b' =>
          let seed := s.fresh
          let s := s.freshen.modTap core (fun T => { T with binding := some { b' with gathered := true, seed := seed } })
          let s := s.modMx core (fun U => { U with active := gatheredPlane b'.rd b'.group0 seed })
          s.tapDone core e FlagSet.none 0 late
    | e :: _, none => if e.op = .fgath then s.tapDone core e FlagSet.none 0 (s.buffered (s.warp e.warp)) else s
    | [], _ => s)

/-- The features of a tile as TAPGO has them: group 0 as gathered unless its plane has been changed (R144). -/
def State.tileFeatures (s : State) (core : Nat) (via : Reader) (b : Binding) (T : TapRecord) : Except TapStop (List Feature) := do
  let names := planFeatures b.plan
  let U := (s.core core).mx
  let kept := U.active.seed = b.seed ∧ U.active.idx = none
  let first ← (if kept then .ok b.group0 else s.readFeatures via T (names.take T.group))
  let rest ← s.readFeatures via T (names.drop T.group)
  .ok (first ++ rest)

/-- The plan with the requests whose ring header fails R148 marked as malformed. -/
def State.checkRings (s : State) (via : Reader) : List RowPlan → Except TapStop (List RowPlan)
  | [] => .ok []
  | r :: l =>
    match s.checkRings via l with
    | .error e => .error e
    | .ok rs =>
      match r.ring with
      | none => .ok (r :: rs)
      | some a =>
        if r.rules = [] || r.bad ≠ 0 then .ok (r :: rs)
        else if a.toNat % 16 ≠ 0 then .ok ({ r with bad := 1 } :: rs)
        else
          match s.tapRead via a.toNat 16 with
          | .error e => .error e
          | .ok h => .ok ((if ringBad a h then { r with bad := 1 } else r) :: rs)

/-- The report of a binding (R146, R327): reason, request, number of requests. -/
def tapReport (bad : Nat) (plan : List RowPlan) : Option (Nat × Nat × Nat) :=
  let reqs := (plan.map (·.req)).dedup
  if bad ≠ 0 then some (bad, 0xFFFF, reqs.length)
  else
    match plan.find? (fun r => badRequest plan r.req ≠ 0) with
    | none => none
    | some r => some (badRequest plan r.req, r.req, (reqs.filter (fun q => badRequest plan q != 0)).length)

/-- The virtual ranges that a tile's records and traces go to: the header of a ring and its record's place, the node of a trace,
its slot and its record's place (R148, R149). `before` is what goes out ahead of it. -/
def State.outRanges (s : State) (core queue : Nat) (T : TapRecord) (before : List TapOut) (o : TapOut) : List (Nat × Nat) :=
  match o with
  | .ring a _ =>
    let h : Nat → Nat := fun off => match s.physOf queue a.toNat with
      | some pa => leNat (s.bytesAt (pa + off) 4)
      | none => 0
    let earlier := (before.filter (fun x => match x with
      | .ring b _ => a == b
      | .trace _ _ _ => false)).length
    let ahead := match s.physOf queue a.toNat with
      | some pa => ((s.core core).tap.ringWait.filter (fun r => r.1.toNat == pa)).length
      | none => 0
    [(a.toNat, 16), (a.toNat + 16 + 16 * ((h 0 + ahead + earlier) % 2 ^ (h 8 % 32)), 16)]
  | .trace data _ _ =>
    let n := (before.filter (fun x => match x with
      | .ring _ _ => false
      | .trace _ _ _ => true)).length
    match T.tracen with
    | none => []
    | some a =>
      let node := (s.physOf queue a.toNat).bind (s.nodeAt (s.partOf queue))
      (a.toNat, 1) :: (if T.traceslots = 0 || node.isNone then []
        else (T.tracebuf.toNat + ((s.core core).tap.traceCount + n) % T.traceslots * data.length, data.length) ::
          s.recordRanges node (n + 1))

/-- The virtual ranges of everything that a tile sends to memory. -/
def State.tileRanges (s : State) (core queue : Nat) (T : TapRecord) : List TapOut → List TapOut → List (Nat × Nat)
  | _, [] => []
  | before, o :: l => s.outRanges core queue T before o ++ s.tileRanges core queue T (before ++ [o]) l

/-- Run a tile to its end (R145 to R149): its writes, holds, events and what it sends, its binding and its report. It waits for
the pages of what it sends (R346). -/
def State.tileGo (s : State) (core : Nat) (e : MxEntry) (b : Binding) : Except TapStop (Tile × Binding × Option (Nat × Nat × Nat)) :=
  let via : Reader := { warp := b.warp, op := e.id, asked := e.asked }
  match b.rd with
  | none => .ok ({}, b, tapReport b.bad b.plan)
  | some T =>
    if b.bad ≠ 0 then .ok ({}, b, tapReport b.bad b.plan)
    else
      match s.tileFeatures core via b T with
      | .error e => .error e
      | .ok feats =>
        match s.checkRings via b.plan with
        | .error e => .error e
        | .ok plan =>
          let sp := s.unitSpad core e.id b.block
          let used := plan.foldr (fun r acc => (List.range T.strips).foldr (fun c acc =>
            rowBytes b.inp T.fmt r.row c ++ rowScale b.inp T.fmt r.row c ++ acc) acc) []
          if used.any (fun a => s.spadBad b.block a 1) then .error (.poison none)
          else
            let watch := (((s.block? b.block).bind (·.handler)).map (fun k => !(s.warp k).ended)).getD false
            let t := plan.foldl (fun (t : Tile) r => t.row sp b T (RowPlan.used plan) feats watch r) {}
            match s.fetchLacks b.warp e.asked (s.tileRanges core (s.warp b.warp).queue T [] t.outs) with
            | a :: _ => .error (.page a)
            | [] => .ok (t, { b with plan := plan }, tapReport 0 plan)

/-- Whether an escalated transaction holds a sector that a tile sends to (R104). -/
def State.tileHeld (s : State) (core : Nat) (b : Binding) (outs : List TapOut) : Bool :=
  match b.rd with
  | none => false
  | some T => (s.tileRanges core (s.warp b.warp).queue T [] outs).any (fun r => (cutSectors r.1 r.2).any (fun p =>
      match s.warpLook b.warp p.1 with
      | some t => s.heldByOther b.warp (t.phys p.1) p.2
      | none => false))

/-- What a tile has done becomes visible to the warps of a block on a core: the binding with its events, the holds of its rows
and its report, which waits for the block's tap-handler warp (R146, R150, R157). -/
def State.tapShow (s : State) (core block warp : Nat) (o : TileOut) : State :=
  let handler := (s.block? block).bind (·.handler)
  let gone := (handler.map (fun k => (s.warp k).ended)).getD false
  let s := s.modTap core (fun T =>
    let T : TapUnit := { T with
      binding := some { o.binding with block := block, warp := warp, done := true, undelivered := o.undelivered }
      hold := o.holds }
    if gone then freeHolds T else T)
  match o.report with
  | none => s
  | some r => if handler.isNone then s
    else (s.modBlock block (fun B => { B with tapReports := B.tapReports ++ [(o.binding.tap, r)] })).modTap core (fun T =>
      T.modBinding (fun b => { b with reported := true }))

/-- It becomes visible in a redundant block's copy too (R136). -/
def State.tapShowBoth (s : State) (core : Nat) (o : TileOut) : State :=
  let s := s.tapShow core o.binding.block o.binding.warp o
  match ((s.block? o.binding.block).bind (·.twinBlock)).bind (fun t => (s.block? t).map (fun B => (t, B))) with
  | none => s
  | some (t, B) => s.tapShow B.core t ((s.pairOf o.binding.warp).getD 0) o

/-- TAPGO_COMPLETE: the tap unit runs its tile to the end (R145). Its planes are undefined afterwards. At D1 and above what the
tile has done shows at a commit (R128, R157). -/
def execTapgoComplete (core : Nat) (s : State) : Host.Outcome State Fault Refusal :=
  .next (match (s.core core).mx.queue, (s.core core).tap.binding with
    | e :: _, some b =>
      if e.op ≠ .tapgo then s
      else
        let late := s.buffered (s.warp e.warp)
        match s.tileGo core e b with
        | .error x => (match x with
          | .page a => s.askUnit core [a]
          | .poison y => ((s.killRead b.warp 0 y).modTap core (fun T =>
              { T with binding := T.binding.map (fun b => { b with done := true }) })).tapDone core e FlagSet.none 0 late)
        | .ok (t, b', report) =>
          if !late && s.tileHeld core b' t.outs then s
          else
            let o : TileOut := { outs := t.outs, binding := b', undelivered := t.undelivered, holds := t.holds, report := report }
            let s := s.unitWrite e.id late t.writes
            let s := if late then s.modTap core (fun T => { T with outbox := minsert T.outbox e.id o })
              else s.tapShow core b'.block b'.warp o
            let r := if late then (s, 0) else s.tapSend core e.id b' t.outs
            let s : State := { r.1 with fresh := r.1.fresh + 2 }
            let s := s.modMx core (fun U => { U with
              active := Plane.undefined (s.fresh - 2) none
              shadow := Plane.undefined (s.fresh - 1) none
              order := if late then U.order ++ [e.id] else U.order })
            let s := s.withhold core (b'.plan.filter (fun r => r.used b'.plan != [])).length
            s.tapDone core e t.flags r.2 late
    | e :: _, none => if e.op = .tapgo then s.tapDone core e FlagSet.none 0 (s.buffered (s.warp e.warp)) else s
    | [], _ => s)

/-- What a tile has done shows at the commit, and goes to memory (R128, R157). -/
def State.tapApply (s : State) (core op : Nat) : State :=
  match mfind (s.core core).tap.outbox op with
  | none => s
  | some o =>
    let s := (s.modTap core (fun T => { T with outbox := merase T.outbox op })).tapShowBoth core o
    let r := s.tapSend core op o.binding o.outs
    r.1.modWarp o.binding.warp (fun W => W.completion r.2 r.2)

/-- EVENT_RING_ADVANCE: the oldest record's completion time has passed, and WR advances over it, once no escalated transaction
holds its sector (R104, R148). At D1 and above this happens between the commit and the next round, which starts when the
write's own completion time has passed (R113). -/
def execEventRingAdvance (core : Nat) (s : State) : Host.Outcome State Fault Refusal :=
  .next (match (s.core core).tap.ringWait with
    | [] => s
    | (ring, n, t) :: _ =>
      if !s.pastAll t || (mfind s.holds (ring.toNat / 32)).isSome then s
      else
        let r := s.atHome core (((s.core core).tap.binding.map (fun b => (s.warp b.warp).svc)).getD 0)
          { lane := 0, va := 0, pa := ring.toNat, n := 4, op := .write (leBytes 4 ((n + 1) % 2 ^ 32)) }
        let s := r.1.modTap core (fun T => { T with ringWait := T.ringWait.drop 1 })
        { s with launches := s.launches.map (fun l => if l.2.committed && s.blocks.any (fun b => b.2.launch == l.1 && b.2.core == core)
            then (l.1, { l.2 with gwct := gwctMax l.2.gwct r.2.gwct }) else l) })

end Sys2Proof.Machine
end

