-- ==== Sys2Proof/Machine/Tap.lean ====
section
/-! DEFINITION. The tap and adapter instructions, 0x2C0 to 0x2C7 (R143 to R159, R260 to R262, R327). -/

namespace Sys2Proof.Machine

/-- The tap unit of the warp's core. -/
def Ctx.tap (c : Ctx) : TapUnit := (c.s.core c.W.core).tap

/-- The binding of the warp's own block, if the tap unit holds it. -/
def Ctx.binding (c : Ctx) : Option Binding := c.tap.binding.filter (fun b => b.block == c.W.block)

/-- How far the block's binding instructions have come: 0 none, 1 TAPBIND, 2 FGATH (R261). -/
def Ctx.tapSeq (c : Ctx) : Nat := mget 0 c.tap.seq c.W.block

/-- The tap sequence fault (R261). -/
def Ctx.seqFault (c : Ctx) (want info : Nat) : List TrapRec :=
  if c.tapSeq = want then [] else [{ c.recLead 0x30 with info0 := BitVec.ofNat 32 info }]

/-- The tap role fault: the warp is not its block's tap-handler warp (R261). -/
def Ctx.roleFault (c : Ctx) : List TrapRec :=
  if (c.s.block? c.W.block).any (fun B => B.handler == some c.k) then []
  else [{ c.recWord 0x31 with info0 := BitVec.ofNat 32 c.op.code.toNat }]

/-- Send an entry to the tap unit, which accepts it at once if it can; at D1 and above it goes there at the commit. `count` enters
it in TP (R143, R296). -/
def Ctx.sendTap (c : Ctx) (s : State) (op : TapOp) (count : Bool) : State :=
  let id := s.nextId
  let e : TapEntry := { op := op, id := id, warp := c.k, block := c.W.block }
  let g : Engine := { op := .tap, warp := c.k, block := c.W.block, cls := 6, stage := 1, rel := c.W.release, lead := c.lead }
  let s : State := if count then { s with engines := minsert s.engines id g } else s
  let s := s.bump
  let s := if count then s.modWarp c.k (fun W => W.count1 6 id) else s
  if s.buffered c.W then s.defer c.k (.tap c.W.core e) else s.tapQueue c.W.core e

/-- Move the block's binding sequence on. -/
def Ctx.setSeq (c : Ctx) (n : Nat) : State :=
  c.s.modTap c.W.core (fun T => { T with seq := mput 0 T.seq c.W.block n })

/-- D's pair as a source at the leader. -/
def Ctx.dPair (c : Ctx) : DWord := pairOf (c.W.dReg c.w c.lead 0) (c.W.dReg c.w c.lead 1)

/-- TAPBIND's checks (R261, R318). -/
def Ctx.bindFaults (c : Ctx) : List TrapRec :=
  if !c.acts then []
  else
    let a := c.W.opLayout c.w.a c.lead
    let b := c.W.opLayout c.w.b c.lead
    let table := (c.c c.lead).toNat
    let tab : DWord := (c.c c.lead).setWidth 64
    let tap := c.dPair
    (if c.tapSeq = 1 || c.tapSeq = 2 then c.seqFault 0 3 else []) ++ firstOf [
      (layoutBad a ≠ 0, c.layoutFault (layoutBad a) 0),
      (layoutBad b ≠ 0, c.layoutFault (layoutBad b) 0),
      (tap.toNat % 8 ≠ 0, c.addrLead tap 1 8),
      (table % 8 ≠ 0, c.addrLead tab 1 8),
      (decide (c.s.spadSize c.W.block < table + 0x1400), c.addrLead tab 2 8)]

/-- The behaviour of `execTapbind`. -/
def kitTapbind : Kit :=
  { check := Ctx.bindFaults
    eff := fun c => (
      if !c.acts then c.s
      else c.sendTap (c.setSeq 1)
        (.bind c.dPair (c.W.opLayout c.w.a c.lead) (c.W.opLayout c.w.b c.lead) (c.c c.lead).toNat) false)
    tx := false
    fork := false }

/-- 0x2C0: TAPBIND (R143, R260, R261). -/
def execTapbind (w : Fields) (s : State) : Host.Outcome State Fault Refusal := run .tapbind .l96 w kitTapbind s

/-- The behaviour of `execFgath`. -/
def kitFgath : Kit :=
  { check := fun c => if c.acts then c.seqFault 1 1 else []
    wait := fun c => c.room 6
    eff := fun c => (
      if !c.acts then c.s
      else c.sendTap (c.setSeq 2) .fgath true)
    tx := false
    fork := false }

/-- 0x2C1: FGATH (R144, R260, R261). -/
def execFgath (w : Fields) (s : State) : Host.Outcome State Fault Refusal := run .fgath .l64 w kitFgath s

/-- The behaviour of `execTapgo`. -/
def kitTapgo : Kit :=
  { check := fun c => if c.acts then c.seqFault 2 2 else []
    wait := fun c => c.room 6
    eff := fun c => (
      if !c.acts then c.s
      else c.sendTap (c.setSeq 0) .tapgo true)
    tx := false
    fork := false }

/-- 0x2C2: TAPGO (R145, R260, R261). -/
def execTapgo (w : Fields) (s : State) : Host.Outcome State Fault Refusal := run .tapgo .l64 w kitTapgo s

/-! ### Events of a binding (R150 to R153) -/

/-- The hold entry after an event of its row has been delivered (R150 Table 4). -/
def Hold.deliver (h : Hold) : Hold :=
  let n := h.ndel + 1
  { h with ndel := n, state := if h.state = 1 && n = h.nev then 2 else h.state }

/-- Deliver the next undelivered event of the binding: it becomes the current one (R151, R152). -/
def TapUnit.deliver (T : TapUnit) : TapUnit :=
  match T.binding.bind (fun b => b.undelivered.head?) with
  | none => T
  | some e => { (T.modBinding (fun b => { b with undelivered := b.undelivered.drop 1, current := some e })) with
      hold := mupdate T.hold e.1 Hold.deliver }

/-- `k.taddr` of an event: the row, and LOST (R152). -/
def TapUnit.eventAddr (T : TapUnit) (row : Nat) : DWord :=
  BitVec.ofNat 64 (row + (if (mfind T.hold row).any (·.lost) then 128 else 0))

/-- The feature trap of an event (R152). -/
def Ctx.featureTrap (c : Ctx) (e : Nat × List Word) : TrapRec :=
  { slice := 0, lane := 0, cause := 0x40, taddr := c.tap.eventAddr e.1, info0 := e.2.getD 0 0, info1 := e.2.getD 1 0,
    info2 := e.2.getD 2 0, info3 := e.2.getD 3 0, pc := c.pc, whole := true, mask := c.m }

/-- The reports that wait for the block's tap-handler warp, in the order of their bindings (R146). -/
def Ctx.reports (c : Ctx) : List (DWord × Nat × Nat × Nat) := ((c.s.block? c.W.block).map (·.tapReports)).getD []

/-- The report of a binding as a trap (R327). -/
def Ctx.reportTrap (c : Ctx) (r : DWord × Nat × Nat × Nat) : TrapRec :=
  { c.recLead 0x33 with taddr := r.1, info0 := BitVec.ofNat 32 r.2.1, info1 := BitVec.ofNat 32 r.2.2.1, info2 := BitVec.ofNat 32 r.2.2.2 }

/-- Whether the warp's rewrites and releases are still with the tap unit. -/
def Ctx.rowsBusy (c : Ctx) : Bool :=
  c.tap.queue.any (fun e => e.warp == c.k && (match e.op with
    | .frewr _ _ _ => true
    | .frel _ => true
    | _ => false))

/-- The event that a TAPWAIT can deliver: the binding's next, once the report of this binding, if there is one, has come (R151,
R327). A report of an earlier binding keeps none back. -/
def Ctx.nextEvent (c : Ctx) : Option (Nat × List Word) :=
  c.binding.bind (fun b => if b.reported && c.reports != [] then none else b.undelivered.head?)

/-- Whether the warp's tap operations have completed. -/
def Ctx.tapQuiet (c : Ctx) : Bool := c.W.counter 6 == 0

/-- Whether a TAPWAIT has what it waits for (R151, R327). -/
def Ctx.tapReady (c : Ctx) : Bool := c.nextEvent.isSome || (c.tapQuiet && (c.reports != [] || !c.rowsBusy))

/-- What a TAPWAIT delivers in place of completing: a report once the TP counter is 0, else the next event (R146, R151, R327). -/
def Ctx.tapTrap (c : Ctx) : Option (State × List TrapRec) :=
  if !c.acts then none
  else
    match (if c.tapQuiet then c.reports else []), c.nextEvent with
    | r :: _, _ => some (c.s.modBlock c.W.block (fun B => { B with tapReports := B.tapReports.drop 1 }), [c.reportTrap r])
    | [], some e => some (c.s.modTap c.W.core TapUnit.deliver, [c.featureTrap e])
    | [], none => none

/-- The rows of the block's binding that are held. -/
def Ctx.rowsHeld (c : Ctx) : Nat := if c.binding.isSome then c.tap.heldRows else 0

/-- The behaviour of `execTapwait`. -/
def kitTapwait : Kit :=
  { word := Ctx.roleFault
    wait := fun c => (
      if !c.acts then (c.s, none)
      else if c.s.buffered c.W then
        (match c.wake with
         | some .tap => (c.s, none)
         | _ => (c.s.endQuantum c.k, some .tap))
      else (c.s, if c.tapReady then none else some .tap))
    late := Ctx.tapTrap
    eff := fun c => c.laterEach c.s 7 (fun _ => BitVec.ofNat 32 c.rowsHeld)
    tx := false
    fork := false }

/-- 0x2C3: TAPWAIT (R151, R152, R157, R327). At D1 and above it ends the quantum, and goes on at the start of a round
in which the TP counter is 0. -/
def execTapwait (w : Fields) (s : State) : Host.Outcome State Fault Refusal := run .tapwait .l64 w kitTapwait s

/-- The behaviour of `execFev`. -/
def kitFev : Kit :=
  { word := Ctx.roleFault
    eff := fun c => (
      match (if c.acts then c.binding.bind (fun b => b.undelivered.head?) else none) with
      | none => c.laterEach c.s 7 (fun _ => 0)
      | some e =>
        let s := (c.s.modTap c.W.core TapUnit.deliver).modWarp c.k (fun W => { W with
          taddr := c.tap.eventAddr e.1
          tinfo0 := e.2.getD 0 0
          tinfo1 := e.2.getD 1 0
          tinfo2 := e.2.getD 2 0
          tinfo3 := e.2.getD 3 0 })
        c.laterEach s 7 (fun _ => 0xFFFFFFFF))
    fork := false }

/-- 0x2C4: FEV (R153). -/
def execFev (w : Fields) (s : State) : Host.Outcome State Fault Refusal := run .fev .l64 w kitFev s

/-- The current event. -/
def Ctx.event (c : Ctx) : Option (Nat × List Word) := c.binding.bind (·.current)

/-- The tap event fault: no event is current (R154, R315). -/
def Ctx.eventFault (c : Ctx) (info : Nat) : List TrapRec :=
  if !c.acts || c.event.isSome then [] else [{ c.recLead 0x32 with info0 := BitVec.ofNat 32 info }]

/-- The behaviour of `execFrewr`. -/
def kitFrewr : Kit :=
  { word := Ctx.roleFault
    check := fun c => c.eventFault 1
    eff := fun c => (
      match (if c.acts then c.event else none) with
      | none => c.s
      | some e => c.sendTap c.s (.frewr (c.W.opF32 c.w.a c.lead) e.1 ((e.2.getD 2 0).toNat % 2 ^ 24)) false)
    tx := false
    fork := false }

/-- 0x2C5: FREWR (R154). -/
def execFrewr (w : Fields) (s : State) : Host.Outcome State Fault Refusal := run .frewr .l64 w kitFrewr s

/-- The undelivered events of a row are marked delivered, and none is current (R154). -/
def TapUnit.settleRow (T : TapUnit) (row : Nat) : TapUnit :=
  match T.binding with
  | none => T
  | some b =>
    let n := (b.undelivered.filter (fun e => e.1 == row)).length
    { (T.modBinding (fun b => { b with undelivered := b.undelivered.filter (fun e => e.1 != row), current := none })) with
      hold := mupdate T.hold row (fun h => { h with ndel := h.ndel + BitVec.ofNat 7 n }) }

/-- The behaviour of `execFrel`. The row's events count as delivered and the current event is gone from issue on at D1 and above too,
where the row is free from the commit on, DESIGN CHOICE (log entry 92). -/
def kitFrel : Kit :=
  { word := Ctx.roleFault
    check := fun c => c.eventFault 2
    eff := fun c => (
      match (if c.acts then c.event else none) with
      | none => c.s
      | some e => c.sendTap (c.s.modTap c.W.core (fun T => T.settleRow e.1)) (.frel e.1) false)
    tx := false
    fork := false }

/-- 0x2C6: FREL (R150, R154, R155). -/
def execFrel (w : Fields) (s : State) : Host.Outcome State Fault Refusal := run .frel .l64 w kitFrel s

/-! ### Adapters (R158, R159, R262) -/

/-- The address of an adapter's entry (R158). -/
def adpEntry (base : DWord) (id : Word) : DWord := base + 64 + 8 * id.setWidth 64

/-- The write of an ADPQ at an entry's home. -/
def State.adpPut (s : State) (core svc pa : Nat) (v : Nat) : State × Access :=
  s.atHome core svc { lane := 0, va := 0, pa := pa, n := 8, op := .write (leBytes 8 v) }

/-- One lane's ADPQ of flight `f` (R159): its result with its completion times; none where a page is missing or an escalated transaction holds a
sector that it writes (R104). `first` says that no lower lane names the same entry. -/
def State.adpqServe (s : State) (k f : Nat) (a : Access) (id : Word) (first : Bool) : State × Option Access :=
  let W := s.warp k
  let die := W.core / 192
  let ok (s : State) (v : Nat) (g d : DWord) : State × Option Access :=
    (s, some { a with done := true, value := leBytes 8 v, gwct := g, gwctd := d })
  let h0 := s.serveRead W.core W.svc { a with n := 8, op := .read }
  let h1 := h0.1.serveRead W.core W.svc { a with pa := a.pa + 8, n := 8, op := .read }
  let s := h1.1
  if h0.2.2 || h1.2.2 then (s, some { a with done := true, value := leBytes 8 0, bad := true })
  else if fieldAt h0.2.1 0 4 ≤ id.toNat then ok s 1 0 0
  else
    let va := adpEntry a.va id
    match s.warpTrans k va.toNat with
    | none => (s.startWalks W.core W.queue [va.toNat / 4096], none)
    | some t =>
      let pa := t.phys va.toNat
      let r := s.serveRead W.core W.svc { lane := a.lane, va := va, pa := pa, n := 8, op := .read, lc := t.lc, uc := t.uc }
      let s := r.1
      let e := leNat r.2.1
      let loadn := leNat h1.2.1
      if r.2.2 then (s, some { a with done := true, value := leBytes 8 0, bad := true })
      else if e % 4 = 3 then ok s 1 0 0
      else if e % 4 = 2 then ok s (e % 2 ^ 48 / 512 * 512) 0 0
      else if e % 4 = 1 || loadn = 0 || !first then ok s 0 0 0
      else
        let s := (s.dropCopy W.core (pa / 32)).dropCopy (768 + die) (pa / 32)
        let places := s.recordRanges ((s.physOf W.queue loadn).bind (s.nodeAt (s.partOfWarp W))) 1
        if leNat (s.bytesAt pa 8) ≠ e then ok s 0 0 0
        else if s.heldByOther k pa 8 || places.any (fun r => (s.physOf W.queue r.1).any (fun p => s.heldByOther k p r.2)) then (s, none)
        else if places.any (fun r => (s.physOf W.queue r.1).isNone) then
          (s.startWalks W.core W.queue ((places.filter (fun r => (s.physOf W.queue r.1).isNone)).map (fun r => r.1 / 4096)), none)
        else
          let w := s.adpPut W.core W.svc pa (e + 1)
          let node := (w.1.physOf W.queue loadn).bind (w.1.nodeAt (w.1.partOfWarp W))
          let rec_ := leBytes 4 id.toNat ++ leBytes 4 0 ++ leBytes 8 va.toNat
          let x := w.1.appendRecord node W.svc W.core f rec_
          let g := gwctMax w.2.gwct x.2.2.1
          let d := gwctMax w.2.gwctd x.2.2.2
          if x.2.1 ≠ 0 then ok x.1 0 g d
          else
            let z := x.1.adpPut W.core W.svc pa e
            ok z.1 0 (gwctMax g z.2.gwct) (gwctMax d z.2.gwctd)

/-- ADPQ's one check (R262, R327). -/
def Ctx.adpqFaults (c : Ctx) : List TrapRec :=
  let a := c.a64 c.lead
  if c.acts && a.toNat % 64 ≠ 0 then [c.addrLead a 1 64] else []

/-- A base beyond the canonical addresses is a page that no table translates: the instruction waits for the firmware, which
finds it unresolvable (R327, R345, log entry 20). -/
def Ctx.adpqLost (c : Ctx) (named : Bool) (x : State × Option Cond) : State × Option Cond :=
  let a := (c.a64 c.lead).toNat
  match x with
  | (s, none) =>
    if named && decide (2 ^ 48 ≤ a) && c.W.mode != .firmware then (s.startWalksAt c.W.core c.W.queue [a], some (.pages [a])) else (s, none)
  | x => x

/-- Whether a lane's id names an adapter. -/
def Ctx.adpNamed (c : Ctx) (i : Nat) : Bool := c.b i != 0xFFFFFFFF

/-- The accesses of an ADPQ: one for each lane that names an adapter, at the table's header. -/
def Ctx.adpAccesses (c : Ctx) : List Access :=
  (c.accesses 8 0 (fun _ => c.a64 c.lead) (fun i => .adpq (c.b i))).filter (fun a => c.adpNamed a.lane)

/-- The sectors of the entries that an ADPQ may write, for the verdict of the twin that issues it (R228). -/
def Ctx.adpSectors (c : Ctx) : List Nat :=
  (c.lanes.filterMap (fun i =>
    if c.adpNamed i then
      let va := (adpEntry (c.a64 c.lead) (c.b i)).toNat
      (c.s.warpLook c.k va).map (fun t => t.phys va / 32)
    else none)).dedup

/-- The behaviour of `execAdpq`. -/
def kitAdpq : Kit :=
  { check := Ctx.adpqFaults
    pages := fun c => if c.lanes.any c.adpNamed then [(c.a64 c.lead).toNat] else []
    wait := fun c => c.adpqLost (c.lanes.any c.adpNamed) (c.room 0)
    eff := fun c => (
      let d := c.w.d.toNat
      if !c.acts then c.s
      else
        let s := c.s.noteWrites c.k c.adpSectors
        let late := s.buffered c.W
        let f := s.nextId
        let fl : Flight := { warp := c.k, cls := 0, accs := c.adpAccesses, dst := d, land := .words 2, regs := [d, d + 1] }
        let s := s.launchFlight { fl with
          vals := pairVals d ((c.lanes.filter (fun i => !c.adpNamed i)).map (fun i => (i, 2)))
          round := late
          held := late }
        if late then (s.defer c.k (.flight f)).endQuantum c.k else s)
    fork := false }

/-- 0x2C7: ADPQ (R159, R262). At D1 and above it ends the quantum, as an AMO with return does (R111). -/
def execAdpq (w : Fields) (s : State) : Host.Outcome State Fault Refusal := run .adpq .l96 w kitAdpq s

end Sys2Proof.Machine
end

