-- ==== Sys2Proof/Machine/Coll.lean ====
section
/-! DEFINITION. Collectives and views, 0x300 to 0x307, and the events of an operation: the contributions it sends and
receives and its completion (R269 to R277, R305, R306, R329, R371 to R379). -/

namespace Sys2Proof.Machine

/-! ### Communicators (R269) -/

/-- A communicator record. -/
structure Comm where
  view : Nat
  tree : Bool
  cid  : Nat
  mask : List Nat
  deriving DecidableEq, Repr

/-- The packages whose bits are set in 32 bytes. -/
def bitsOf (b : List Byte) : List Nat := (List.range 256).filter (fun p => (b.getD (p / 8) 0).getLsbD (p % 8))

/-- Parse a communicator record. -/
def parseComm (b : List Byte) : Comm :=
  ⟨fieldAt b 0 4, fieldAt b 4 4 / 256 % 2 == 1, fieldAt b 4 4 % 64, bitsOf ((b.drop 0x20).take 32)⟩

/-- The members of a communicator in rank order (R269). -/
def Zinc.members (z : Zinc) (x : Comm) : List Nat :=
  if x.tree then z.ranks.filter (fun p => x.mask.contains p && z.bitmap.contains p)
  else x.mask.filter z.bitmap.contains

/-- The view number as the package knows it: ZINC_JVIEW while it is no member (R379). -/
def Zinc.known (z : Zinc) : Nat := if z.member then z.view else z.jview.toNat

/-! ### What an operation computes (R271, R272) -/

/-- Bytes of an element (R270). -/
def collSize (kind : Nat) (mods : BitVec 6) : Nat :=
  if kind = 0 then [4, 2, 2, 4].getD (mods.toNat / 4 % 4) 4 else 2 ^ (mods.toNat % 4)

/-- Whether the root rank is used. -/
def collRooted (kind : Nat) (mods : BitVec 6) : Bool := kind == 2 || (kind == 0 && mods.getLsbD 4)

/-- The parameters on which the members must agree (R271): kind, size or type, operation, count and root; `.rw` is none of them. -/
def collParms (kind : Nat) (mods : BitVec 6) (count root : Nat) : List Nat :=
  [kind, mods.toNat % 32, count, if collRooted kind mods then root else 0]

/-- The ranks whose contributions a member's own destination needs (R306). -/
def collNeeds (kind : Nat) (mods : BitVec 6) (root q n : Nat) : List Nat :=
  match kind with
  | 0 => if mods.getLsbD 4 && q != root then [] else List.range n
  | 2 => [root]
  | _ => List.range n

/-- Bytes of the source that a member reads (R271 Table 6). -/
def collReads (kind : Nat) (mods : BitVec 6) (count root q n : Nat) : Nat :=
  let z := collSize kind mods
  match kind with
  | 2 => if q = root then count * z else 0
  | 3 => n * count * z
  | _ => count * z

/-- The part of a member's source that the member of rank j needs. -/
def collPart (kind : Nat) (mods : BitVec 6) (count root j : Nat) (src : List Byte) : List Byte :=
  match kind with
  | 0 => if mods.getLsbD 4 && j != root then [] else src
  | 3 => (src.drop (j * count * collSize kind mods)).take (count * collSize kind mods)
  | _ => src

/-- A source element of CRED widened exactly to FP32, or kept as 32 bits (R272). -/
def collWiden (type : Nat) (b : List Byte) : Word × FlagSet :=
  let x := leNat b
  match type with
  | 1 =>
    let r := Fmt.bf16.widen Fmt.fp32 x
    (BitVec.ofNat 32 r.1, r.2)
  | 2 =>
    let r := Fmt.fp16.widen Fmt.fp32 x
    (BitVec.ofNat 32 r.1, r.2)
  | _ => (BitVec.ofNat 32 x, FlagSet.none)

/-- The identity of a reduction (R272, R214). -/
def collIdentity (op type : Nat) : Word :=
  if type = 3 then (match op with
    | 2 => 0x7FFFFFFF
    | 3 => 0x80000000
    | _ => 0)
  else (match op with
    | 2 => 0x7F800000
    | 3 => 0xFF800000
    | _ => 0x80000000)

/-- One step of the tree, the lower rank left (R272). -/
def collStep (op type : Nat) (a b : Word) : Word × FlagSet :=
  let fp (r : Nat × FlagSet) : Word × FlagSet := (BitVec.ofNat 32 r.1, r.2)
  if type = 3 then
    (match op with
     | 2 => if b.slt a then b else a
     | 3 => if a.slt b then b else a
     | _ => a + b, FlagSet.none)
  else
    match op with
    | 2 => fp (Fmt.fp32.minmax false a.toNat b.toNat)
    | 3 => fp (Fmt.fp32.minmax true a.toNat b.toNat)
    | _ => fp (Fmt.fp32.fadd .rne a.toNat b.toNat)

/-- One level of the tree: neighbours combine. -/
def collLevel (op type : Nat) : List Word → List Word × FlagSet
  | a :: b :: l =>
    let x := collStep op type a b
    let r := collLevel op type l
    (x.1 :: r.1, x.2.or r.2)
  | l => (l, FlagSet.none)

/-- The tree over a power of two of values. -/
def collTree (op type : Nat) : Nat → List Word → Word × FlagSet
  | 0, l => (l.headD 0, FlagSet.none)
  | n + 1, l =>
    let r := collLevel op type l
    let t := collTree op type n r.1
    (t.1, r.2.or t.2)

/-- ⌈log₂ n⌉: the levels of a tree of n ranks. -/
def collLevels (n : Nat) : Nat := ((List.range 9).find? (fun k => n ≤ 2 ^ k)).getD 9

/-- The final division and rounding (R272): bytes and flags. -/
def collRound (op type n : Nat) (y : Word) : List Byte × FlagSet :=
  let F := if type = 1 then Fmt.bf16 else if type = 2 then Fmt.fp16 else Fmt.fp32
  let z := if type = 0 || type = 3 then 4 else 2
  if type = 3 then (leBytes 4 y.toNat, FlagSet.none)
  else
    let v := Fmt.fp32.decode y.toNat
    let r := if op = 1 then
        (match v with
         | .fin neg m e => if m = 0 then F.round .rne false v
           else F.divFin .rne neg (m * 2 ^ (e + 200).toNat) n 200
         | _ => F.round .rne false v)
      else F.round .rne false v
    (leBytes z r.1, r.2)

/-- Element k of a reduction over the contributions in rank order: bytes and flags. -/
def collElem (mods : BitVec 6) (srcs : List (List Byte)) (k : Nat) : List Byte × FlagSet :=
  let op := mods.toNat % 4
  let type := mods.toNat / 4 % 4
  let z := collSize 0 mods
  let n := srcs.length
  let xs := srcs.map (fun b => collWiden type ((b.drop (k * z)).take z))
  let levels := collLevels n
  let y := collTree op type levels (xs.map (·.1) ++ List.replicate (2 ^ levels - n) (collIdentity op type))
  let r := collRound op type n y.1
  (r.1, (FlagSet.all (xs.map (·.2))).or (y.2.or r.2))

/-- What the destination receives, from the contributions of the ranks it needs: its bytes, the flags and the
poisoned elements (R271 Table 6). -/
def collResult (kind : Nat) (mods : BitVec 6) (count : Nat) (parts : List CollMsg) : List Byte × FlagSet × List Nat :=
  if kind = 0 then
    let es := (List.range (if parts = [] then 0 else count)).map (collElem mods (parts.map (·.data)))
    (es.foldr (fun e acc => e.1 ++ acc) [], FlagSet.all (es.map (·.2)), (parts.foldr (fun p acc => p.bad ++ acc) []).dedup)
  else
    (parts.foldr (fun p acc => p.data ++ acc) [], FlagSet.none,
      (parts.zipIdx.foldr (fun p acc => p.1.bad.map (fun b => p.2 * count + b) ++ acc) []))

/-! ### The view unit's operations (R271, R275, R305, R373) -/

/-- The key under which acknowledgements of a view for a communicator are kept. -/
def ackKey (view cid : Nat) : Nat := view * 64 + cid

/-- The status word of an operation (R273). -/
def collStatus (view outcome : Nat) : Word := BitVec.ofNat 32 (view % 2 ^ 24 * 256 + outcome)

/-- Change an engine operation. -/
def State.modEngine (s : State) (op : Nat) (f : Engine → Engine) : State := { s with engines := mupdate s.engines op f }

/-- Change the view unit. -/
def State.modZinc (s : State) (f : Zinc → Zinc) : State := { s with zinc := f s.zinc }

/-- An operation of the collectives' engine ends with a status (R273, R306, R373). -/
def State.collEnd (s : State) (op : Nat) (status : Word) : State :=
  match mfind s.engines op with
  | none => s
  | some e =>
    ((s.modEngine op (fun e => { e with stage := 2, status := status, reweigh := false })).completeOp e.warp op).mirrorDone op

/-- What an operation abandoned at D0 leaves in its destination once it has begun: it may have written any byte of it, and what it
has written is undefined (R273, R373), so every byte it would have written is free. At D1 and above its writes wait for the
commit (R128). -/
def State.collUndefine (s : State) (e : Engine) : State :=
  match e.op with
  | .coll kind mods _ _ dst count root cid num rank n _ _ _ =>
    if e.stage ≠ 1 || !e.sent || s.buffered (s.warp e.warp) || mget 1 s.zinc.expect cid ≠ num then s
    else
      let len := if kind = 0 && mods.getLsbD 4 && rank ≠ root then 0
        else (if kind = 1 || kind = 3 then n else 1) * count * collSize kind mods
      ((List.range len).foldl (fun s i =>
        let va := dst + BitVec.ofNat 64 i
        match s.engTrans e va.toNat with
        | some t => if t.rdo then s else s.homePut (t.phys va.toNat) [Config.freeByte s.fresh i]
        | none => s) s).freshen
  | _ => s

/-- An operation is abandoned under a view (R373). -/
def State.collAbandon (s : State) (op : Nat) (e : Engine) (view : Nat) : State :=
  (s.collUndefine e).collEnd op (collStatus view 3)

/-- An operation whose view is no longer current is abandoned, or held for re-weighting (R373). -/
def State.collSettleOne (s : State) (op : Nat) : State :=
  match mfind s.engines op with
  | none => s
  | some e =>
    match e.op with
    | .coll kind mods _ _ _ _ _ _ _ _ _ view _ _ =>
      if e.stage = 2 || e.reweigh || (s.zinc.member && s.zinc.view = view) then s
      else if s.zinc.member && kind = 0 && mods.toNat % 4 = 1 && mods.getLsbD 5 then
        s.modEngine op (fun e => { e with reweigh := true, sent := false, held := [] })
      else s.collAbandon op e view
    | _ => s

/-- The view of the operation that a CWAIT waits for, if the package is not in that view now (R378). -/
def State.movedFrom (s : State) (c : Cond) : Option Nat :=
  match c with
  | .ticket op => (mfind s.engines op).bind (fun e => match e.op with
    | .coll _ _ _ _ _ _ _ _ _ _ _ view _ _ => if s.zinc.member && s.zinc.view == view then none else some view
    | _ => none)
  | _ => none

/-- A slice that waits at a CWAIT when the view changes stops waiting, and takes the membership-change trap there (R378). -/
def State.moveSlice (s : State) (x : Slice) : Slice :=
  match x.wait.bind s.movedFrom with
  | some v => { x with wait := some (.moved v), woken := true }
  | none => x

/-- The settlement of the operations in flight when the view changes (R373, R378). -/
def State.collSettle (s : State) : State :=
  let t := (s.engines.map (·.1)).foldl State.collSettleOne s
  let t := t.modZinc (fun z => { z with inbox := z.inbox.filter (fun m => z.member && m.view == z.view) })
  { t with warps := t.warps.map (fun x => (x.1, { x.2 with
      slices := x.2.slices.map s.moveSlice
      savePc := x.2.savePc.map s.moveSlice })) }

/-- An operation reaches the view unit, which numbers it (R271). -/
def State.collArrive (s : State) (op : Nat) : State :=
  match mfind s.engines op with
  | none => s
  | some e =>
    match e.op with
    | .coll kind mods comm src dst count root cid _ rank n view ticket members =>
      if e.stage ≠ 0 then s
      else if e.reweigh || e.renewed then s.modEngine op (fun e => { e with stage := 1 })
      else
        let num := mget 1 s.zinc.nextOp cid
        let s := s.modZinc (fun z => { z with nextOp := minsert z.nextOp cid (num + 1) })
        let s := (s.modEngine op (fun e => { e with
          op := .coll kind mods comm src dst count root cid num rank n view ticket members })).collSettleOne op
        s.modEngine op (fun e => { e with stage := max 1 e.stage })
    | _ => s

/-- A held operation takes its number under a new view (R373). -/
def State.collRenew (s : State) (view : Nat) (mask : List Nat) (op : Nat) : State :=
  match mfind s.engines op with
  | none => s
  | some e =>
    match e.op with
    | .coll kind mods comm src dst count root cid _ _ _ old ticket _ =>
      let z := s.zinc
      let ms := z.members { view := view, tree := false, cid := cid, mask := mask }
      match ms.findIdx? (· == z.self) with
      | none => s.collAbandon op e old
      | some q =>
        let num := mget 1 z.nextOp cid
        let s := s.modZinc (fun z => { z with nextOp := minsert z.nextOp cid (num + 1) })
        let s : State := { s with kept := merase s.kept op }
        s.modEngine op (fun e => { e with
          reweigh := false
          renewed := true
          status := 1
          op := .coll kind mods comm src dst count root cid num q ms.length view ticket ms })
    | _ => s

/-- The number of an operation in its communicator's old order; one that has not reached the view unit comes after those that have. -/
def Engine.oldNumber (e : Engine) : Nat :=
  match e.op with
  | .coll _ _ _ _ _ _ _ _ num _ _ _ _ _ => if num = 0 then 2 ^ 64 else num
  | _ => 0

/-- Put an operation among others in their old order. -/
def insertOld (x : Nat × Engine) : List (Nat × Engine) → List (Nat × Engine)
  | [] => [x]
  | y :: l => if x.2.oldNumber < y.2.oldNumber then x :: y :: l else y :: insertOld x l

/-- The held operations of a communicator in their old order (R373). -/
def State.heldOps (s : State) (cid : Nat) : List Nat :=
  ((s.engines.filter (fun x => x.2.reweigh && (match x.2.op with
    | .coll _ _ _ _ _ _ _ c _ _ _ _ _ _ => c == cid
    | _ => false))).foldl (fun l x => insertOld x l) []).map (·.1)

/-- VACK at the view unit (R277, R373): the numbering restarts, the acknowledgement is recorded and sent, and the held
operations of the communicator are numbered in their old order. `mask` lists its packages, in rank order. A VACK that waited for a
commit does nothing more once the package has left the view (R372). -/
def State.vackGo (s : State) (cid view : Nat) (mask : List Nat) : State :=
  if !s.zinc.member || s.zinc.view ≠ view then s
  else
  let s := s.modZinc (fun z =>
    let a := mget [] z.acked (ackKey view cid)
    { z with
      nextOp := minsert z.nextOp cid 1
      expect := minsert z.expect cid 1
      acked := minsert z.acked (ackKey view cid) (if a.contains z.self then a else a ++ [z.self])
      inbox := z.inbox.filter (fun m => m.cid != cid || m.view == view) })
  let s := s.send (.vack cid view)
  (s.heldOps cid).foldl (fun s op => s.collRenew view mask op) s

/-- The packages at the other ends of the links that are up, in ascending number. -/
def State.linked (s : State) : List Nat := (List.range 256).filter (fun p => s.island.peers.any (fun x => x.2 == p))

/-- VJOIN at the view unit (R277, R376): a JOIN to each linked package, unless the package is a member or has asked
already. -/
def State.vjoinGo (s : State) : State :=
  let z := s.zinc
  if z.member || z.joining then s
  else
    (s.modZinc (fun z => { z with joining := true })).sendAll (s.linked.map (fun p => .join p z.self z.jview.toNat))

/-! ### Issue -/

/-- The communicator that A names, as the warp finds it. -/
def Ctx.comm? (c : Ctx) : Option Comm := (c.peek (c.a64 c.lead).toNat 64).map parseComm

/-- The warp's operations on a communicator under a view: ticket and record, oldest first. -/
def Ctx.collOps (c : Ctx) (comm : DWord) (view : Nat) : List (Nat × Engine) :=
  (c.W.tickets.reverse.filterMap (fun t => (mfind c.s.engines t.2).map (fun e => (t.1, e)))).filter (fun t =>
    match t.2.op with
    | .coll _ _ a _ _ _ _ _ _ _ _ v _ _ => a == comm && v == view
    | _ => false)

/-- The record of the membership-change trap (R374). -/
def Ctx.memberTrap (c : Ctx) (comm : DWord) (view : Nat) : TrapRec :=
  let ops := c.collOps comm view
  let lost := ops.filter (fun t => t.2.stage == 2 && t.2.status.toNat % 256 == 3)
  let held := ops.filter (·.2.reweigh)
  { c.recLead 0x49 with
     taddr := comm
     info0 := BitVec.ofNat 32 c.s.zinc.known
     info1 := BitVec.ofNat 32 view
     info2 := BitVec.ofNat 32 ((lost.head?.map (·.1)).getD 0)
     info3 := BitVec.ofNat 32 (lost.length % 2 ^ 16 + 2 ^ 16 * held.length) }

/-- The membership-change trap: the communicator is bound to another view than the package's (R275, R372, R374). -/
def Ctx.memberFault (c : Ctx) (comm : DWord) (view : Nat) : List TrapRec :=
  if c.s.zinc.member && c.s.zinc.view = view then [] else [c.memberTrap comm view]

/-- The collective fault (R329). -/
def Ctx.collFault (c : Ctx) (comm : DWord) (reason : Nat) (v : Word) : TrapRec :=
  { c.recLead 0x48 with taddr := comm, info0 := BitVec.ofNat 32 reason, info1 := v }

/-- The checks of a data collective on its values (R270, R271, R275, R318, R329). -/
def Ctx.collChecks (c : Ctx) (kind : Nat) : List TrapRec :=
  if !c.acts then []
  else
    let a := c.a64 c.lead
    let z := collSize kind c.w.mod
    let root := c.w.ext.toNat
    let addr := firstOf [
      (a.toNat % 64 ≠ 0, c.addrLead a 1 64),
      (2 ^ 48 ≤ a.toNat, c.addrLead a 5 64),
      ((c.b64 c.lead).toNat % z ≠ 0, c.addrLead (c.b64 c.lead) 1 z),
      (2 ^ 48 ≤ (c.b64 c.lead).toNat, c.addrLead (c.b64 c.lead) 5 z),
      ((c.c64 c.lead).toNat % z ≠ 0, c.addrLead (c.c64 c.lead) 1 z),
      (2 ^ 48 ≤ (c.c64 c.lead).toNat, c.addrLead (c.c64 c.lead) 5 z)]
    match c.comm? with
    | none => addr
    | some x =>
      let ms := c.s.zinc.members x
      c.memberFault a x.view ++ firstOf [
        (collRooted kind c.w.mod && decide (ms.length ≤ root), c.collFault a 1 (BitVec.ofNat 32 root)),
        (!ms.contains c.s.zinc.self, c.collFault a 2 (BitVec.ofNat 32 c.s.zinc.self))] ++ addr

/-- The determinism trap of a collective whose communicator builds its tree from physical ranks (R125, R272). -/
def Ctx.treeDeterm (c : Ctx) : List TrapRec :=
  if c.acts && c.W.detlvl = 3 && (c.comm?.map (·.tree)).getD false then
    [{ c.recLead 0x50 with info0 := 4, info1 := BitVec.ofNat 32 c.op.code.toNat }]
  else []

/-- Sectors of an operation's destination, for the verdict of the twin that issues it (R228). -/
def Ctx.collSectors (c : Ctx) (kind n : Nat) : List Nat :=
  let len := c.w.imm.toNat * collSize kind c.w.mod * (if kind = 1 || kind = 3 then n else 1)
  ((cutSectors (c.c64 c.lead).toNat len).filterMap (fun r => (c.s.warpLook c.k r.1).map (fun t => t.phys r.1 / 32))).dedup

/-- Whether an operation stays among a warp's tickets beyond 15 collectives: it has not completed, or it was abandoned (R374). -/
def State.ticketKept (s : State) (op : Nat) : Bool :=
  (mfind s.engines op).any (fun e => e.stage != 2 || e.status.toNat % 256 == 3)

/-- Issue a data collective: its ticket, its place in CL and its way to the view unit (R271, R273). -/
def Ctx.collSend (c : Ctx) (kind : Nat) : State :=
  match c.comm? with
  | none => c.s
  | some x =>
    let z := c.s.zinc
    let ms := z.members x
    let t := c.W.ticket + 1
    let s := if c.W.twinOf.isSome then c.s.noteWrites c.k (c.collSectors kind ms.length) else c.s
    let id := s.nextId
    let op : EngOp := .coll kind c.w.mod (c.a64 c.lead) (c.b64 c.lead) (c.c64 c.lead) c.w.imm.toNat c.w.ext.toNat x.cid 0
      (ms.findIdx (· == z.self)) ms.length x.view t ms
    let e : Engine := { op := op, warp := c.k, block := c.W.block, cls := 5, rel := c.W.release, lead := c.lead }
    let s := (State.bump { s with engines := minsert s.engines id e }).modWarp c.k (fun W => { W.count1 5 id with
      ticket := t
      tickets := (t, id) :: (W.tickets.filter (fun x => decide (t < x.1 + 16) || s.ticketKept x.2)) })
    let s := if s.buffered c.W then s.defer c.k (.engine id) else s.collArrive id
    c.laterEach s 7 (fun _ => BitVec.ofNat 32 t)

/-- What the four data collectives share (R270 to R275). -/
def collKit (kind : Nat) : Kit :=
  { word := Ctx.treeDeterm
    check := fun c => c.collChecks kind
    pages := fun c => if c.acts then [(c.a64 c.lead).toNat] else []
    wait := fun c => c.room 5
    eff := fun c => if c.acts then c.collSend kind else c.s
    tx := false
    fork := false }

/-- The behaviour of `execCred`. -/
def kitCred : Kit :=
  collKit 0

/-- 0x300: CRED (R270 to R273). -/
def execCred (w : Fields) (s : State) : Host.Outcome State Fault Refusal := run .cred .l128 w kitCred s
/-- The behaviour of `execCgath`. -/
def kitCgath : Kit :=
  collKit 1

/-- 0x301: CGATH (R271). -/
def execCgath (w : Fields) (s : State) : Host.Outcome State Fault Refusal := run .cgath .l128 w kitCgath s
/-- The behaviour of `execCbcst`. -/
def kitCbcst : Kit :=
  collKit 2

/-- 0x302: CBCST (R271). -/
def execCbcst (w : Fields) (s : State) : Host.Outcome State Fault Refusal := run .cbcst .l128 w kitCbcst s
/-- The behaviour of `execCa2a`. -/
def kitCa2a : Kit :=
  collKit 3

/-- 0x303: CA2A (R271). -/
def execCa2a (w : Fields) (s : State) : Host.Outcome State Fault Refusal := run .ca2a .l128 w kitCa2a s

/-! ### CWAIT and views -/

/-- The operation that CWAIT's ticket names, at most 15 collectives back (R273). -/
def Ctx.ticketOp (c : Ctx) : Option (Nat × Engine) :=
  let t := (c.a c.lead).toNat
  if c.W.ticket ≤ t + 15 then
    (c.W.tickets.find? (fun x => x.1 == t)).bind (fun x => (mfind c.s.engines x.2).map (fun e => (x.2, e)))
  else none

/-- The communicator of a collective operation. -/
def Engine.commOf (e : Engine) : DWord :=
  match e.op with
  | .coll _ _ comm _ _ _ _ _ _ _ _ _ _ _ => comm
  | _ => 0

/-- Whether an operation's completion is visible to its warp. -/
def Ctx.opSeen (c : Ctx) (op : Nat) (e : Engine) : Bool := e.stage == 2 && !c.W.outs.any (fun o => o.2.1 == op)

/-- CWAIT's checks (R273, R275, R347). -/
def Ctx.cwaitChecks (c : Ctx) : List TrapRec :=
  if !c.acts then []
  else
    match c.ticketOp with
    | none => [c.collFault 0 3 (c.a c.lead)]
    | some (op, e) =>
      (match c.wake, (c.peek e.commOf.toNat 4).map leNat with
       | some (.moved v), _ => [c.memberTrap e.commOf v]
       | _, some v => c.memberFault e.commOf v
       | _, none => []) ++
      (match (if c.W.tmode || !c.opSeen op e then none else c.W.held.find? (fun r => r.slice == 5 && r.lane == op && r.whole)) with
       | some r => [c.deliver r]
       | none => [])

/-- The behaviour of `execCwait`. -/
def kitCwait : Kit :=
  { check := Ctx.cwaitChecks
    pages := fun c => (match (if c.acts then c.ticketOp else none) with
      | some (_, e) => [e.commOf.toNat]
      | none => [])
    wait := fun c => (
      match (if c.acts then c.ticketOp else none) with
      | none => (c.s, none)
      | some (op, e) =>
        if c.opSeen op e then (c.s, none)
        else (if c.s.buffered c.W then c.s.endQuantum c.k else c.s, some (.ticket op)))
    eff := fun c => (
      match (if c.acts then c.ticketOp else none) with
      | none => c.s
      | some (_, e) => c.laterEach c.s 7 (fun _ => e.status))
    fork := false }

/-- 0x304: CWAIT (R273, R275, R378). -/
def execCwait (w : Fields) (s : State) : Host.Outcome State Fault Refusal := run .cwait .l64 w kitCwait s

/-- The value of a view selector (R276, R379). -/
def Zinc.select (z : Zinc) (sel : Nat) : Word :=
  match sel with
  | 0 => BitVec.ofNat 32 z.known
  | 2 => BitVec.ofNat 32 z.self
  | 4 => if z.member then 0 else 1
  | _ =>
    if !z.member then 0
    else
      match sel with
      | 1 => BitVec.ofNat 32 z.leader
      | 3 => BitVec.ofNat 32 z.bitmap.length
      | _ => (List.range 32).foldl (fun (x : Word) j => if z.bitmap.contains (32 * (sel - 8) + j) then x ||| ((1 : Word) <<< j) else x) 0

/-- The behaviour of `execViewrd`. -/
def kitViewrd : Kit :=
  { eff := fun c => c.each (fun _ => c.s.zinc.select c.w.a.bits.toNat) }

/-- 0x305: VIEWRD (R276). -/
def execViewrd (w : Fields) (s : State) : Host.Outcome State Fault Refusal := run .viewrd .l64 w kitViewrd s

/-- The behaviour of `execVjoin`. -/
def kitVjoin : Kit :=
  { wait := fun c => c.room 1
    eff := fun c => (
      if !c.acts then c.s
      else
        let v := BitVec.ofNat 32 c.s.zinc.known
        let s := if c.s.buffered c.W then c.s.defer c.k .vjoin else c.s.vjoinGo
        c.laterEach (c.storeNote s) 7 (fun _ => v))
    tx := false
    fork := false }

/-- 0x306: VJOIN (R277, R379). It counts in ST (R97). -/
def execVjoin (w : Fields) (s : State) : Host.Outcome State Fault Refusal := run .vjoin .l64 w kitVjoin s

/-- VACK's checks (R277, R329). -/
def Ctx.vackChecks (c : Ctx) : List TrapRec :=
  if !c.acts then []
  else
    let a := c.a64 c.lead
    let b := c.b c.lead
    firstOf [
      (!c.s.zinc.member || b.toNat != c.s.zinc.view, c.collFault a 4 b),
      (a.toNat % 64 ≠ 0, c.addrLead a 1 64),
      (2 ^ 48 ≤ a.toNat, c.addrLead a 5 64)]

/-- The behaviour of `execVack`. -/
def kitVack : Kit :=
  { check := Ctx.vackChecks
    pages := fun c => if c.acts then [(c.a64 c.lead).toNat] else []
    wprot := fun c => (
      match (if c.acts then c.trans (c.a64 c.lead).toNat else none) with
      | some t => if t.rdo then [{ c.recLead 0x11 with taddr := c.a64 c.lead, info1 := 4 }] else []
      | none => [])
    wait := fun c => c.room 1
    eff := fun c => (
      match (if c.acts then c.comm? else none), c.trans (c.a64 c.lead).toNat with
      | some x, some t =>
        let view := c.s.zinc.view
        let a : Access := {
          lane := c.lead
          va := c.a64 c.lead
          pa := t.phys (c.a64 c.lead).toNat
          n := 4
          op := .write (leBytes 4 view) }
        let s := c.s.streamStores c.k none [a]
        let ms := c.s.zinc.members x
        let ms := ms ++ x.mask.filter (fun p => !ms.contains p)
        if s.buffered c.W then (s.defer c.k (.vack x.cid view ms)).bufFull c.k else s.vackGo x.cid view ms
      | _, _ => c.s)
    tx := false
    fork := false }

/-- 0x307: VACK (R277): it writes VIEW as a store. At D1 and above it takes effect at the commit. -/
def execVack (w : Fields) (s : State) : Host.Outcome State Fault Refusal := run .vack .l64 w kitVack s

/-! ### The events of an operation (R305, R306) -/

/-- COLL_MESSAGE_RECEIVE: a contribution, or the acknowledgement of one, reaches this package. One of another view, or of an
operation number below the next expected, is discarded (R274, R305); a contribution is acknowledged (R306). -/
def execCollMessageReceive (m : CollMsg) (s : State) : Host.Outcome State Fault Refusal :=
  .next (
    let z := s.zinc
    if !z.member || m.view ≠ z.view || m.op < mget 1 z.expect m.cid then s
    else if z.inbox.any (fun x => x.cid == m.cid && x.op == m.op && x.rank == m.rank && x.ack == m.ack) then s
    else
      let s := s.modZinc (fun z => { z with inbox := z.inbox ++ [m] })
      if m.ack then s else s.send (.collAck m.cid m.op m.rank))

/-- Whether an operation may run now: it is the next of its communicator under the current view, and every member has
acknowledged that view, if any has (R277, R305; log entry 21). -/
def State.collRuns (s : State) (e : Engine) (cid num view : Nat) (members : List Nat) : Bool :=
  let z := s.zinc
  let a := mget [] z.acked (ackKey view cid)
  e.stage == 1 && !e.reweigh && z.member && z.view == view && mget 1 z.expect cid == num &&
    (a == [] || members.all a.contains)

/-- The contributions that have come for an operation, from some ranks in order. -/
def State.collGot (s : State) (cid num : Nat) (ranks : List Nat) : List CollMsg :=
  ranks.filterMap (fun j => s.zinc.inbox.find? (fun m => m.cid == cid && m.op == num && m.rank == j && !m.ack))

/-- Whether a member may settle an operation: it has heard the parameters of every member, and where its destination is not
written its last contribution has been acknowledged by its receiver (R273, R306, log entry 21). -/
def State.collHeard (s : State) (kind : Nat) (mods : BitVec 6) (cid num root rank n : Nat) : Bool :=
  (s.collGot cid num (List.range n)).length == n &&
    (!(kind == 0 && mods.getLsbD 4 && rank != root) ||
      s.zinc.inbox.any (fun m => m.cid == cid && m.op == num && m.rank == root && m.ack))

/-- The poisoned elements of a source. -/
def State.collBad (s : State) (k op va n z : Nat) : List Nat :=
  if s.badSectors = [] then []
  else (List.range (n / z)).filter (fun i => (s.fetchBytes k op (va + i * z) z).2)

/-- Read the source and send the contributions (R305, R306). -/
def State.collContribute (s : State) (op : Nat) (e : Engine) (kind : Nat) (mods : BitVec 6) (src : DWord)
    (count root cid num rank n view : Nat) (members : List Nat) : State :=
  let z := collSize kind mods
  let len := collReads kind mods count root rank n
  let bytes := (s.fetchBytes e.warp op src.toNat len).1
  let bad := s.collBad e.warp op src.toNat len z
  let parms := collParms kind mods count root
  let part (j : Nat) : CollMsg :=
    { view := view
      cid := cid
      op := num
      rank := rank
      parms := parms
      data := if len = 0 then [] else collPart kind mods count root j bytes
      bad := if kind = 3 then (bad.filter (fun b => b / count == j)).map (· % count) else bad }
  let others := (members.zipIdx.filter (fun p => p.2 != rank)).map (fun p => Sent.coll p.1 (part p.2))
  let s := State.sendAll { s with kept := merase s.kept op } others
  (s.modZinc (fun z => { z with inbox := z.inbox ++ [part rank] })).modEngine op (fun e => { e with sent := true })

/-- Write the destination of an operation element by element; at D1 and above the writes are held (R128). An element
on an RDO page is not written, nor what follows it (R346, R347). -/
def State.collWrite (s : State) (op : Nat) (e : Engine) (dst : DWord) (z : Nat) (data : List Byte) (bad : List Nat) (late : Bool) :
    State × Engine :=
  let units := (List.range (data.length / z)).map (fun i => (i, dst + BitVec.ofNat 64 (i * z)))
  let made := units.takeWhile (fun u => !(s.engTrans e u.2.toNat).any (·.rdo))
  let s := if late then s else s.coverPoison (made.filterMap (fun u => (s.engTrans e u.2.toNat).map (fun t => (t.phys u.2.toNat, z))))
  let r := units.foldl (fun (acc : State × Engine × Bool) u =>
    if acc.2.2 then acc
    else
      match acc.1.engTrans e u.2.toNat with
      | none => acc
      | some t =>
        let pa := t.phys u.2.toNat
        let bs := (data.drop (u.1 * z)).take z
        if t.rdo then
          let f : TrapRec := { slice := 5, lane := op, cause := 0x11, taddr := u.2, info1 := BitVec.ofNat 32 z }
          (acc.1.modWarp e.warp (fun W => { W with held := W.held ++ [f] }), acc.2.1, true)
        else if late then
          (acc.1, { acc.2.1 with
            held := acc.2.1.held ++ [(pa, bs)]
            heldBad := if bad.contains u.1 then acc.2.1.heldBad ++ [pa / 32] else acc.2.1.heldBad }, false)
        else
          let w := acc.1.engStore acc.2.1 u.2 pa bs (bad.contains u.1)
          (w.1, w.2, false)) (s, e, false)
  (r.1, r.2.1)

/-- Whether accesses of the warp before an operation to a range are still on their way, or an escalated lane holds a sector of it
(R104, R255). -/
def State.collBehind (s : State) (op : Nat) (e : Engine) (va n : Nat) (store : Bool) : Bool :=
  (cutSectors va n).any (fun r => match s.engTrans e r.1 with
    | some t => s.earlierOut e.warp op (t.phys r.1) r.2 ||
        (if store then s.heldStore e.warp 64 op (t.phys r.1) r.2 else s.heldByOther e.warp (t.phys r.1) r.2)
    | none => false)

/-- The address that a collective's writes wait for: the first of its destination without a translation, if no element on an RDO page
comes before it, with which the writes end (R346). -/
def State.collAhead (s : State) (e : Engine) (dst n : Nat) : List Nat :=
  (((sectorStarts [(dst, n)]).takeWhile (fun a => !(s.engTrans e a).any (·.rdo))).find? (fun a => (s.engTrans e a).isNone)).toList

/-- A collective asks for the pages of addresses. -/
def State.askEngine (s : State) (op : Nat) (e : Engine) (vas : List Nat) : State :=
  (s.startWalksAt (s.engCore e) (s.engQueue e) vas).modEngine op (fun e => { e with asked := (vas.map (· / 4096) ++ e.asked).dedup })

/-- COLL_OP_COMPLETE: an operation sends its contributions, or, with those its destination needs, writes its
destination and completes (R271 to R274, R306). -/
def execCollOpComplete (op : Nat) (s : State) : Host.Outcome State Fault Refusal :=
  .next (match mfind s.engines op with
    | none => s
    | some e =>
      match e.op with
      | .coll kind mods _ src dst count root cid num rank n view _ members =>
        let z := collSize kind mods
        let late := s.buffered (s.warp e.warp)
        if !s.collRuns e cid num view members then s
        else if !e.sent then
          let len := collReads kind mods count root rank n
          (match s.fetchLacks e.warp e.asked [(src.toNat, len)] with
           | a :: as => s.askEngine op e (a :: as)
           | [] =>
             if !late && s.collBehind op e src.toNat len false then s
             else s.collContribute op e kind mods src count root cid num rank n view members)
        else
          let needs := collNeeds kind mods root rank n
          let got := s.collGot cid num needs
          if !s.collHeard kind mods cid num root rank n then s
          else
            let parms := collParms kind mods count root
            let odd := s.zinc.inbox.any (fun m => m.cid == cid && m.op == num && !m.ack && m.parms != parms)
            let res := collResult kind mods count got
            let data := if odd then [] else res.1
            (match s.collAhead e dst.toNat data.length with
             | a :: as => s.askEngine op e (a :: as)
             | [] =>
               if !late && s.collBehind op e dst.toNat data.length true then s
               else
                 let w := s.collWrite op e dst z data res.2.2 late
                 let fl := if odd then 0 else res.2.1.bits
                 let s : State := { w.1 with engines := minsert w.1.engines op { w.2 with flags := w.2.flags ||| fl } }
                 let s := s.modZinc (fun z => { z with
                   expect := minsert z.expect cid (num + 1)
                   inbox := z.inbox.filter (fun m => m.cid != cid || num < m.op) })
                 s.collEnd op (collStatus view (if odd then 2 else e.status.toNat % 256)))
      | _ => s)

end Sys2Proof.Machine
end

