-- ==== Sys2Proof/Machine/Context.lean ====
section
/-! DEFINITION. Saving and restoring a block's context: the steps of a pre-emption (R134, R135, R284, R351). -/

namespace Sys2Proof.Machine

/-! ### Stopping a block (R134 steps 1 to 4) -/

/-- The warps of a block that have not ended, twins among them. -/
def State.blockWarps (s : State) (b : Nat) : List (Nat × Warp) := s.warps.filter (fun x => x.2.block == b && !x.2.ended)

/-- Whether the warps of a block are at the start of a quantum. -/
def State.quantumStart (s : State) (b : Nat) : Bool :=
  (s.blockWarps b).all (fun x => x.2.buf == [] && !x.2.qdone && x.2.slices.all (·.retired == 0))

/-- Whether a warp is where a pre-emption may stop it: at an instruction boundary; at D1 and above between the commit of a
round and the next round; in a redundant block at D0 at the start of a quantum of both copies (R134; log entry 23). -/
def State.mayStop (s : State) (W : Warp) : Bool :=
  match mfind s.launches W.launch with
  | none => true
  | some L =>
    if L.dets ≠ 0 then L.committed
    else !L.redund || (s.quantumStart W.block && (match (s.block? W.block).bind (·.twinBlock) with
      | some t => s.quantumStart t
      | none => true))

/-- Whether a warp has stopped. -/
def State.stopped (s : State) (W : Warp) : Bool := W.swapped && s.mayStop W

/-- The warps of a block are to stop (R134 step 1); twins go on to their verdicts. -/
def State.stopBlock (s : State) (b : Nat) : State :=
  (s.blockWarps b).foldl (fun s x => if x.2.twinOf.isSome then s else s.modWarp x.1 (fun W => { W with swapped := true })) s

/-- Whether every warp of a block has stopped. -/
def State.blockStopped (s : State) (b : Nat) : Bool := (s.blockWarps b).all (fun x => x.2.twinOf.isSome || s.stopped x.2)

/-- A block whose pre-emption is abandoned goes on from where it stopped (R351). -/
def State.resumeBlock (s : State) (b : Nat) : State :=
  (s.blockWarps b).foldl (fun s x => s.modWarp x.1 (fun W => { W with swapped := false })) s

/-- Whether a warp's walks and page faults are resolved. -/
def State.pagesReady (s : State) (W : Warp) : Bool :=
  W.slices.all (fun x => match x.wait with
    | some (.pages vas) => !vas.any (fun a => s.walking W.queue (a / 4096))
    | _ => true)

/-- Whether an engine operation is the copy of a packet: it belongs to no block. -/
def Engine.ofPacket (e : Engine) : Bool :=
  match e.op with
  | .packetCopy _ _ _ _ => true
  | _ => false

/-- Whether what a block has issued has drained: its engine operations have completed and its accesses have returned; what only
the start of the next round brings counts as returned (R134 step 2). What twins have issued counts where `twins` says so. -/
def State.issuedOver (s : State) (b : Nat) (twins : Bool) : Bool :=
  match s.block? b with
  | none => true
  | some B =>
    let C := s.core B.core
    let counts (k : Nat) : Bool := twins || (s.warp k).twinOf.isNone
    (s.blockWarps b).all (fun x => !counts x.1 || (x.2.outs.all (fun o => o.2.2) && s.pagesReady x.2 &&
      !s.flights.any (fun f => f.2.warp == x.1 && !(f.2.round && f.2.complete)) &&
      x.2.openOps.all (fun o => !C.mx.queue.any (fun e => e.id == o)))) &&
    !C.mx.queue.any (fun e => e.block == b && counts e.warp) && !C.tap.queue.any (fun e => e.block == b && counts e.warp) &&
    !(C.tap.binding.any (fun x => x.block == b && x.started && !x.done)) &&
    !s.engines.any (fun e => e.2.block == b && !e.2.ofPacket && counts e.2.warp && e.2.stage == 1 && e.2.cls != 7)

/-- Whether the open transactions of a block are to abort: it has stopped, and its operations have drained (R134 step 3). -/
def State.abortsDue (s : State) (b : Nat) : Bool :=
  (s.blockWarps b).any (fun x => s.txAlive x.1 != []) && s.blockStopped b && s.issuedOver b false

/-- The open transactions of a block abort with cause 6 (R134 step 3). -/
def State.abortTxs (s : State) (b : Nat) : State :=
  if s.abortsDue b then (s.blockWarps b).foldl (fun s x => s.txAbortAll x.1 6) s else s

/-- Whether a block has stopped and drained, and no continuation of it is open (R134 steps 1, 2 and 4). -/
def State.drained (s : State) (b : Nat) : Bool :=
  s.blockStopped b && s.issuedOver b true &&
    (s.blockWarps b).all (fun x => x.2.twinOf.isNone && x.2.forks == [] && x.2.buf == [])

/-- A drained block as it is saved: results that wait for a round start land, its transactions have aborted with cause 6, and the
suspensions of its warps are over (R100, R134, R284). -/
def State.abortBlock (s : State) (b : Nat) : State :=
  let fs := s.flights.filter (fun f => f.2.complete && (s.blockWarps b).any (fun x => x.1 == f.2.warp))
  let s := (fs.map (·.1)).foldl State.landFlight s
  (s.blockWarps b).foldl (fun s x =>
    let s := s.txAbortAll x.1 6
    match s.testsBad x.1 with
    | some (lane, va, pa) => s.killPoison x.1 lane va (some pa)
    | none => s.endTests x.1) s

/-! ### The save area (R134 Table 7) -/

/-- `n` bytes: those given, then bytes whose contents the manual does not give (log entry 23). -/
def openTo (seed n : Nat) (l : List Byte) : List Byte := l ++ (List.range (n - l.length)).map (Config.freeByte seed)

/-- Zeros up to a multiple of 256. -/
def pad256 (l : List Byte) : List Byte := l ++ List.replicate ((256 - l.length % 256) % 256) 0

/-- A hold-table entry (R150 Table 3). -/
def Hold.bytes (h : Hold) : List Byte :=
  leBytes 8 (h.state.toNat + (if h.lost then 4 else 0) + h.ndel.toNat * 2 ^ 10 + h.nev.toNat * 2 ^ 17 + h.first.toNat * 2 ^ 24) ++
    leBytes 8 (h.req.toNat + h.pos.toNat * 2 ^ 32)

/-- The 128 entries of a hold table. -/
def TapUnit.holdBytes (T : TapUnit) : List Byte :=
  (List.range 128).foldr (fun m acc => ((mfind T.hold m).getD {}).bytes ++ acc) []

/-- The entry that 16 bytes hold. -/
def parseHold (b : List Byte) : Hold :=
  let x := BitVec.ofNat 64 (fieldAt b 0 8)
  let y := BitVec.ofNat 64 (fieldAt b 8 8)
  { pos := y.extractLsb' 32 32, req := y.extractLsb' 0 16, first := x.extractLsb' 24 8, nev := x.extractLsb' 17 7
    ndel := x.extractLsb' 10 7, lost := x.getLsbD 2, state := x.extractLsb' 0 2 }

/-- The hold table that 2 KiB hold. -/
def parseHolds (b : List Byte) : NMap Hold :=
  (List.range 128).foldl (fun m j => mput {} m j (parseHold (b.drop (16 * j)))) []

/-- The tap hardware that goes with a block: its binding, its hold table and how far its instructions have come. -/
def State.tapOf (s : State) (core b : Nat) : Option TapUnit :=
  let T := (s.core core).tap
  let mine := T.binding.any (fun x => x.block == b)
  if mine || (mfind T.seq b).isSome then
    some { binding := if mine then T.binding else none
           hold := if mine then T.hold else []
           seq := (match mfind T.seq b with
             | some v => [(b, v)]
             | none => []) }
  else none

/-- The header of a block's context: the launch record's address, `k.bid`, the round number, the grace number of each warp's
last quiescent point, and for each barrier who has arrived, the count it expects and whether its phase has begun. -/
def State.contextHeader (s : State) (B : Block) : List Byte :=
  let L : Option Launch := mfind s.launches B.launch
  let arrived (n : Nat) : Nat := ((mfind B.bars n).getD {}).arrived.foldl (fun v k => v ||| 2 ^ B.warps.idxOf k) 0
  leBytes 8 (match L with
    | some L => L.record.toNat
    | none => 0) ++ leBytes 4 (s.warp (B.warps.headD 0)).bid.toNat ++ leBytes 4 (match L with
    | some L => L.round
    | none => 0) ++
    (List.range 32).foldr (fun w acc => leBytes 4 ((B.warps[w]?.map (fun k => (s.warp k).quiet)).getD 0) ++ acc) [] ++
    (List.range 16).foldr (fun n acc =>
      let x := (mfind B.bars n).getD {}
      leBytes 4 (arrived n) ++ leBytes 1 (x.expect + if x.used then 128 else 0) ++ acc) []

/-- The accumulators as bytes: both banks, row by row. -/
def MxUnit.accBytes (U : MxUnit) : List Byte :=
  (List.range 32768).foldr (fun i acc => leBytes 4 (mget 0 U.acc i).toNat ++ acc) []

/-- A plane as bytes. -/
def Plane.bytes (p : Plane) : List Byte := (List.range 8192).map p.byte

/-- The matrix unit's configuration: the layout record, the activation format, the side array and the planes' indices. -/
def MxUnit.config (U : MxUnit) : List Nat :=
  let r := U.record.getD { addr := 0, woff := 0, soff := 0, kdim := 0, ndim := 0, wfmt := 0 }
  [if U.record.isSome then 1 else 0, r.addr.toNat, r.woff.toNat, r.soff.toNat, r.kdim, r.ndim, r.wfmt, U.afmt,
    if U.side.isSome then 1 else 0, (U.side.getD 0).toNat, (U.active.idx.map (· + 1)).getD 0, (U.shadow.idx.map (· + 1)).getD 0]

/-- The matrix unit's part of a context. -/
def MxUnit.bytes (seed : Nat) (U : MxUnit) : List Byte :=
  U.active.bytes ++ U.shadow.bytes ++ U.accBytes ++ openTo seed 256 (U.config.foldr (fun v acc => leBytes 8 v ++ acc) [])

/-- A matrix unit with what the matrix part of a context gives it. -/
def MxUnit.load (U : MxUnit) (b : List Byte) : MxUnit :=
  let at_ (j : Nat) : Nat := fieldAt b (147456 + 8 * j) 8
  let plane (p : Plane) (off j : Nat) : Plane := { p with
    idx := if at_ j = 0 then none else some (at_ j - 1)
    data := if p.known then (b.drop off).take 8192 else p.data }
  let rec_ : WRec := { addr := BitVec.ofNat 64 (at_ 1), woff := BitVec.ofNat 64 (at_ 2), soff := BitVec.ofNat 64 (at_ 3)
                       kdim := at_ 4, ndim := at_ 5, wfmt := at_ 6 }
  { U with
    active := plane U.active 0 10
    shadow := plane U.shadow 8192 11
    acc := (List.range 32768).foldl (fun m i => mput 0 m i (BitVec.ofNat 32 (fieldAt b (16384 + 4 * i) 4))) []
    record := if at_ 0 = 0 then none else some rec_
    afmt := at_ 7
    side := if at_ 8 = 0 then none else some (BitVec.ofNat 64 (at_ 9))
    metaCache := []
    mxstall := 0 }

/-- The 32-bit control words of a warp that a context holds, `k.bid` and `k.wid` first. -/
def Warp.words32 (W : Warp) : List Word :=
  [W.bid, W.wid, BitVec.ofNat 32 W.detlvl, BitVec.ofNat 32 W.svc, W.ncnt, W.wctl, W.fflags, W.tcause, W.tslice, W.tlane,
    W.tinfo0, W.tinfo1, W.tinfo2, W.tinfo3]

/-- The 64-bit control words of a warp that a context holds. -/
def Warp.words64 (W : Warp) : List DWord := [W.tpc, W.taddr, W.gwct, W.gwctd, W.args, W.nin]

/-- A warp's part of a context: program counters and nesting counters, those that a trap saved, the control words, then the
main register file. -/
def Warp.bytes (seed : Nat) (W : Warp) : List Byte :=
  let pcs (l : List Slice) : List Byte := (List.range 16).foldr (fun i acc => leBytes 8 ((l.getD i { pc := 0 }).pc).toNat ++ acc) []
  let cnts (m : NMap Nat) : List Byte := (List.range 64).foldr (fun l acc => leBytes 1 (mget 0 m l) ++ acc) []
  openTo seed 1024 (pcs W.slices ++ pcs W.savePc ++ cnts W.cnt ++ cnts W.saveCnt ++
    W.words32.foldr (fun v acc => leBytes 4 v.toNat ++ acc) [] ++ W.words64.foldr (fun v acc => leBytes 8 v.toNat ++ acc) []) ++
    (List.range W.alloc).foldr (fun r acc =>
      (List.range W.width).foldr (fun l acc => leBytes 4 (mget 0 W.regs (64 * r + l)).toNat ++ acc) acc) []

/-- A warp with what its part of a context gives it. -/
def Warp.load (W : Warp) (b : List Byte) : Warp :=
  let pcs (l : List Slice) (off : Nat) : List Slice := l.zipIdx.map (fun x => { x.1 with pc := BitVec.ofNat 64 (fieldAt b (off + 8 * x.2) 8) })
  let cnts (off : Nat) : NMap Nat := (List.range 64).foldl (fun m l => mput 0 m l (fieldAt b (off + l) 1 % 16)) []
  let w (j : Nat) : Word := BitVec.ofNat 32 (fieldAt b (384 + 4 * j) 4)
  let d (j : Nat) : DWord := BitVec.ofNat 64 (fieldAt b (440 + 8 * j) 8)
  { W with
    slices := pcs W.slices 0, savePc := pcs W.savePc 128, cnt := cnts 256, saveCnt := cnts 320
    ncnt := w 4, wctl := w 5, fflags := w 6, tcause := w 7, tslice := w 8, tlane := w 9
    tinfo0 := w 10, tinfo1 := w 11, tinfo2 := w 12, tinfo3 := w 13
    tpc := d 0, taddr := d 1, gwct := d 2, gwctd := d 3, args := d 4, nin := d 5
    regs := (List.range W.alloc).foldl (fun m r => (List.range W.width).foldl (fun m l =>
      mput 0 m (64 * r + l) (BitVec.ofNat 32 (fieldAt b (1024 + 4 * (r * W.width + l)) 4))) m) W.regs }

/-- Bytes of a warp's part, aligned. -/
def Warp.span (W : Warp) : Nat := (1024 + 4 * W.alloc * W.width + 255) / 256 * 256

/-- The context of a block as it is written (R134 Table 7). -/
def State.contextBytes (s : State) (b : Nat) : List Byte :=
  match s.block? b with
  | none => []
  | some B =>
    let C := s.core B.core
    openTo s.fresh 256 (s.contextHeader B) ++ pad256 (spadBytes B.spad 0 B.size) ++
      (if C.mx.owner = some b then C.mx.bytes (s.fresh + 1) else []) ++
      (if C.tap.binding.any (fun x => x.block == b) then C.tap.holdBytes else []) ++
      (s.blockWarps b).foldr (fun x acc => pad256 (x.2.bytes (s.fresh + 2 + x.1)) ++ acc) []

/-- Where the parts of a saved context lie: the matrix unit's, the hold table and the warps', and its length. -/
def State.contextParts (s : State) (x : Context) (B : Block) : Nat × Nat × Nat × Nat :=
  let mx := 256 + (B.size + 255) / 256 * 256
  let tap := mx + if x.mx.isSome then 147712 else 0
  let ws := tap + if (x.tap.bind (·.binding)).isSome then 2048 else 0
  (mx, tap, ws, (s.blockWarps x.block).foldl (fun n w => n + w.2.span) ws)

/-- Write a run of bytes through translations found at once; none where a page does not translate or may not be
written. -/
def State.putThrough (s : State) (find : Nat → Option Trans) (va : Nat) (bs : List Byte) : Option State :=
  (cutSectors va bs.length).foldl (fun acc r =>
    match acc, find r.1 with
    | some s, some t => if t.rdo then none
      else some ((s.homePut (t.phys r.1) ((bs.drop (r.1 - va)).take r.2)).clearPoison (t.phys r.1) r.2)
    | _, _ => none) (some s)

/-- Read a run of bytes through translations found at once. -/
def State.getThrough (s : State) (find : Nat → Option Trans) (va n : Nat) : Option (List Byte) :=
  (cutSectors va n).foldr (fun r acc =>
    match find r.1, acc with
    | some t, some l => some (s.bytesAt (t.phys r.1) r.2 ++ l)
    | _, _ => none) (some [])

/-- Where in a block's context its poisoned words lie: those of its scratchpad, its accumulators and its registers (R351). -/
def State.contextPoison (s : State) (b : Nat) : List Nat :=
  match s.block? b with
  | none => []
  | some B =>
    let U := (s.core B.core).mx
    let x : Context := { block := b, mx := if U.owner = some b then some U else none, tap := s.tapOf B.core b }
    let p := s.contextParts x B
    let regs (off : Nat) (W : Warp) : List Nat :=
      W.poison.map (fun e => off + 1024 + 4 * (e.1 / 64 * W.width + e.1 % 64))
    B.spadPoison.map (fun j => 256 + 4 * j) ++ (if U.owner = some b then U.accPoison.map (fun i => p.1 + 16384 + 4 * i) else []) ++
      ((s.blockWarps b).foldl (fun (acc : List Nat × Nat) w => (acc.1 ++ regs acc.2 w.2, acc.2 + w.2.span)) ([], p.2.2.1)).1

/-- The sectors of a save area that hold poisoned words are poisoned. -/
def State.spoilThrough (s : State) (find : Nat → Option Trans) (va : Nat) (offs : List Nat) : State :=
  offs.foldl (fun s o => match find (va + o) with
    | some t => s.addPoison (t.phys (va + o) / 32)
    | none => s) s

/-- CTXSV's work on a drained block: its context is written, with its poison, and its resources are free (R134, R284, R351). -/
def State.saveBlock (s : State) (find : Nat → Option Trans) (b va : Nat) : Option State :=
  match s.block? b, find va with
  | some B, some t =>
    match s.putThrough find va (s.contextBytes b) with
    | none => none
    | some s1 =>
      let s1 := s1.spoilThrough find va (s.contextPoison b)
      let C := s.core B.core
      let x : Context := { block := b, mx := if C.mx.owner = some b then some C.mx else none, tap := s.tapOf B.core b }
      let s1 : State := { s1 with contexts := minsert s1.contexts (t.phys va) x, fresh := s1.fresh + 2 + s1.nextId }
      let s1 := s1.modMx B.core (fun U => if U.owner = some b then U.giveUp else U)
      let s1 := s1.modTap B.core (fun T => { T with
        binding := T.binding.filter (fun x => x.block != b)
        hold := if T.binding.any (fun x => x.block == b) then [] else T.hold
        seq := merase T.seq b })
      some (s1.modBlock b (fun B => { B with resident := false }))
  | _, _ => none

/-- Whether a core has room for a saved block (R135); the firmware core of a die holds none (R5). -/
def State.roomFor (s : State) (core : Nat) (x : Context) (B : Block) : Bool :=
  let C := s.core core
  let regs := (s.blockWarps x.block).foldl (fun n w => n + 4 * w.2.alloc * w.2.width) 0
  let part := ((mfind s.launches B.launch).map (·.part)).getD 0
  let binds := C.tap.queue.any (fun e => match e.op with
    | .bind _ _ _ _ => true
    | _ => false)
  let child := ((mfind s.launches B.launch).map (·.parent.isSome)).getD false
  (mfind s.parts part).any (fun P => P.clusters.contains (core / 16)) && core % 192 != 0 && s.roomOn core regs B.size 0 child &&
    (x.mx.isNone || C.mx.owner.isNone) &&
    (!((x.tap.bind (·.binding)).isSome) || (C.tap.binding.isNone && !binds))

/-- The saved context whose header stands at a physical address: its entry and its block. -/
def State.contextAt (s : State) (key : Nat) : Option (Nat × Context × Block) :=
  let h := s.bytesAt key 12
  let fits (x : Nat × Context) : Option (Nat × Context × Block) :=
    match s.block? x.2.block with
    | some B => if !B.resident && B.alive && (s.contextHeader B).take 12 == h then some (x.1, x.2, B) else none
    | none => none
  ((mfind s.contexts key).bind (fun x => fits (key, x))).or (s.contexts.findSome? fits)

/-- A barrier with what the header of a context gives it: who has arrived, in the order of arrival that is known, the count and
whether its phase has begun. -/
def Barrier.load (x : Barrier) (ks : List Nat) (mask e : Nat) : Barrier :=
  let there (k : Nat) : Bool := mask / 2 ^ ks.idxOf k % 2 == 1
  let kept := x.arrived.filter there
  { x with
    arrived := kept ++ ks.filter (fun k => there k && !kept.contains k)
    expect := e % 128
    used := e / 128 == 1 }

/-- A block takes the header of a context: the round of its launch, the grace number of each warp's last quiescent point, and its
barriers. -/
def State.loadHeader (s : State) (B : Block) (b : Nat) (bs : List Byte) : State :=
  let s := s.modLaunch B.launch (fun L => if L.dets = 0 then L else { L with round := fieldAt bs 12 4 })
  let s := B.warps.zipIdx.foldl (fun s x => s.modWarp x.1 (fun W => { W with quiet := fieldAt bs (16 + 4 * x.2) 4 })) s
  s.modBlock b (fun B => { B with bars := (List.range 16).foldl (fun m n =>
    mput {} m n (((mfind m n).getD {}).load B.warps (fieldAt bs (144 + 5 * n) 4) (fieldAt bs (148 + 5 * n) 1))) B.bars })

/-- The warps of a block take their parts of a context, which begin at an offset. -/
def State.loadWarps (s : State) (core : Nat) (ks : List (Nat × Warp)) (b : List Byte) (off : Nat) : State :=
  (ks.foldl (fun (acc : State × Nat) w =>
    (acc.1.modWarp w.1 (fun W => { W.load (b.drop acc.2) with core := core, swapped := false, fast := W.working.isEmpty }),
      acc.2 + w.2.span)) (s, off)).1

/-- CTXLD's work (R135, R284): restore the context at an address onto a core, from its bytes there; what Table 7 does not
hold comes back as it was (log entry 23). None where the core has no room. The copies that the core's cache holds are dropped, and
those of another die's RDC, lest a warp read an older value than it has read before, DEDUCED (R94; log entry 84). -/
def State.restoreBlock (s : State) (find : Nat → Option Trans) (core va : Nat) : Option State :=
  match (find va).bind (fun t => s.contextAt (t.phys va)) with
  | none => none
  | some (key, x, B) =>
    let p := s.contextParts x B
    match (if s.roomFor core x B then s.getThrough find va p.2.2.2 else none) with
    | none => none
    | some bs =>
      let slot := s.freeSlot core
      let s : State := { s with contexts := merase s.contexts key }
      let s := s.modBlock x.block (fun B => { B with resident := true, core := core, slot := slot, spad := spadPut [] 0 ((bs.drop 256).take B.size) })
      let s := (s.loadHeader B x.block bs).loadWarps core (s.blockWarps x.block) bs p.2.2.1
      let s := s.emptyCache core
      let s := if core / 192 = B.core / 192 then s else s.emptyCache (768 + core / 192)
      let s := match x.mx with
        | some U => s.modMx core (fun V =>
          { U.load (bs.drop p.1) with queue := V.queue, recent := V.recent, order := V.order })
        | none => s
      match x.tap with
      | some T => some (s.modTap core (fun V => { V with
          binding := if T.binding.isSome then T.binding else V.binding
          hold := if T.binding.isSome then parseHolds (bs.drop p.2.1) else V.hold
          seq := T.seq.foldl (fun m e => minsert m e.1 e.2) V.seq }))
      | none => some s

/-- CTXLD onto a core: a block's saved context comes back where the core has room for it that no gang has reserved (R123,
R135). -/
def State.loadBlock (s : State) (find : Nat → Option Trans) (core va : Nat) : Option State :=
  (s.restoreBlock find core va).filter (fun s => s.keepsGangs noQueue)

end Sys2Proof.Machine
end

