-- ==== Sys2Proof/Machine/Queue.lean ====
section
/-! DEFINITION. Queues and signals: packets, completion signals, the read pointer and what a packet's completion does
(R114 to R119, R285, R299, R356). -/

namespace Sys2Proof.Machine

/-- Change a queue. -/
def State.modQueue (s : State) (q : Nat) (f : Queue → Queue) : State := { s with queues := mupdate s.queues q f }

/-- VALUE of a signal, read through a queue's page table (R116). -/
def State.signal (s : State) (q va : Nat) : Option DWord := (s.virtNat q va 8).map (BitVec.ofNat 64)

/-- OWNERQ of a signal (R116). -/
def State.ownerq (s : State) (q va : Nat) : Nat := ((s.virtNat q (va + 8) 2).getD 0) % 4096

/-- The firmware writes a signal's VALUE (R116). -/
def State.setSignal (s : State) (q va : Nat) (v : DWord) : State := s.virtPut q va (leBytes 8 v.toNat)

/-- Subtract 1 from a completion signal; vector OWNERQ mod 64 of the registering function is raised when it reaches 0
(R118, R299). -/
def State.decSignal (s : State) (q va : Nat) : State :=
  if va = 0 then s
  else
    match s.signal q va with
    | none => s
    | some v =>
      let s := s.setSignal q va (v - 1)
      if v = 1 then
        s.send (.msix (((mfind s.queues q).map (·.func)).getD 0) (s.ownerq q va % 64))
      else s

/-- RPTR passes every completed packet that has no uncompleted packet before it (R118). -/
def advanceRptr : Nat → DWord → List DWord → DWord × List DWord
  | 0, r, d => (r, d)
  | n + 1, r, d => if d.contains r then advanceRptr n (r + 1) (d.filter (· != r)) else (r, d)

/-- The completion actions of R118 for an open packet, with its outcome: 0 completed, 1 with kills, 2 failed
(R356). -/
def State.packetDone (s : State) (q idx outcome : Nat) : State :=
  match mfind s.queues q with
  | none => s
  | some Q =>
    if !Q.open_.contains idx then s
    else
      let s := s.decSignal q (mget 0 Q.sigs idx).toNat
      let r := advanceRptr (Q.done.length + 1) Q.rptr (Q.done ++ [BitVec.ofNat 64 idx])
      let s := s.modQueue q (fun Q => { Q with
        open_ := Q.open_.filter (· != idx)
        sigs := merase Q.sigs idx
        rptr := r.1
        done := r.2 })
      let s := if r.1 = Q.rptr then s else s.virtPut q (Q.desc + 0x18) (leBytes 8 r.1.toNat)
      if outcome = 0 then s else s.rasPacket q idx outcome 0

/-- The queues to which a queue lends: the owners of the signals it waits for whose limits are not met. -/
def State.owners (s : State) (q : Nat) : List Nat :=
  match (mfind s.queues q).bind (·.waiting) with
  | none => []
  | some l => (l.filter (fun x => match s.signal q x.1.toNat with
    | some v => (x.2.signExtend 64).slt v
    | none => true)).map (fun x => s.ownerq q x.1.toNat)

/-- A queue's WAITSIG completes where every signal of it is at or below its limit (R118). -/
def State.testWait (s : State) (q : Nat) : State :=
  match mfind s.queues q with
  | none => s
  | some Q =>
    if Q.waiting.isNone || !s.served q || s.owners q ≠ [] then s
    else (s.modQueue q (fun Q => { Q with waiting := none })).packetDone q (Q.next - 1).toNat 0

/-- The firmware tests every WAITSIG that names the signal at a physical address (R267). -/
def State.testWaits (s : State) (pa : Nat) : State :=
  (s.queues.filter (fun Q => (Q.2.waiting.getD []).any (fun x => (s.look Q.1 x.1.toNat).map (fun t => t.phys x.1.toNat) == some pa))).foldl
    (fun s Q => s.testWait Q.1) s

/-- QEND's effect: the open packet whose index has these low 32 bits completes; another is left as it is (R285). -/
def State.qendGo (s : State) (q : Nat) (idx : Word) : State :=
  match (mfind s.queues q).bind (fun Q => Q.open_.find? (fun n => n % 2 ^ 32 == idx.toNat)) with
  | none => s
  | some n => s.packetDone q n 0

/-- The 64 bytes of a queue's packet (R114). -/
def State.packetAt (s : State) (q : Nat) (idx : DWord) : Option (List Byte) :=
  match mfind s.queues q with
  | none => none
  | some Q => s.virtBytes q (Q.ring.toNat + 64 * (idx.toNat % 2 ^ Q.log2n)) 64

end Sys2Proof.Machine
end

