-- ==== Sys2Proof/Machine/System.lean ====
section
/-! DEFINITION. System instructions, 0x320 to 0x32B (R46, R47, R278 to R285, R330, R366). -/

namespace Sys2Proof.Machine

/-- The privilege fault of a firmware-only instruction (R278, R315). -/
def Ctx.privFault (c : Ctx) : List TrapRec :=
  if c.W.mode = .firmware then [] else [{ c.recWord 0x58 with info0 := BitVec.ofNat 32 c.op.code.toNat }]

/-- The system operand fault (R330). -/
def Ctx.sysFault (c : Ctx) (reason : Nat) (v : Word) : TrapRec :=
  { c.recLead 0x5B with info0 := BitVec.ofNat 32 reason, info1 := v }

/-- Each slice in which the instruction acts, with its lowest acting lane. -/
def Ctx.actingSlices (c : Ctx) : List (Nat × Nat) :=
  (maskSlices c.m).filterMap (fun i => (c.lanes.find? (fun l => l / 4 == i)).map (fun l => (i, l)))

/-- The behaviour of `execTrap`. -/
def kitTrap : Kit :=
  { late := fun c => (
      if !c.acts then none
      else some (c.retire false c.s, c.actingSlices.map (fun x =>
        { c.flt x.2 0x60 with taddr := c.pc, info0 := (c.w.a.bits).setWidth 32, pc := c.next })))
    eff := fun c => c.s }

/-- 0x320: TRAP (R281): `k.tpc` is the next instruction's address. -/
def execTrap (w : Fields) (s : State) : Host.Outcome State Fault Refusal := run .trap .l64 w kitTrap s

/-- The behaviour of `execEret`. -/
def kitEret : Kit :=
  { word := fun c => if c.W.tmode || c.W.mode = .firmware then [] else [c.recWord 0x59]
    eff := fun c => if c.acts && c.W.tmode then c.s.eret c.k else c.goto c.s c.next
    jumps := true
    fork := false }

/-- 0x321: ERET (R46, R281). -/
def execEret (w : Fields) (s : State) : Host.Outcome State Fault Refusal := run .eret .l64 w kitEret s

/-- The value of a 32-bit control word in a lane (R279 Table 8). -/
def Ctx.word32 (c : Ctx) (n i : Nat) : Word :=
  let W := c.W
  match n with
  | 0x00 => BitVec.ofNat 32 i
  | 0x01 => BitVec.ofNat 32 (i / 4)
  | 0x02 => W.wid
  | 0x03 => W.bid
  | 0x04 => BitVec.ofNat 32 W.detlvl
  | 0x05 => BitVec.ofNat 32 W.svc
  | 0x06 => W.ncnt
  | 0x07 => c.mx.mxstall
  | 0x08 => W.wctl
  | 0x09 => W.fflags
  | 0x0A => W.tcause
  | 0x0B => W.tslice
  | 0x0C => W.tlane
  | 0x0D => W.tinfo0
  | 0x0E => W.tinfo1
  | 0x0F => W.tinfo2
  | _ => W.tinfo3

/-- The value of a 64-bit control word (R279 Table 8). -/
def Ctx.word64 (c : Ctx) (n : Nat) : DWord :=
  let W := c.W
  match n with
  | 0x20 => W.tpc
  | 0x21 => W.taddr
  | 0x22 => W.gwct
  | 0x23 => W.gwctd
  | 0x24 => c.s.dieTime (W.core / 192)
  | 0x25 => W.args
  | _ => W.nin

/-- The behaviour of `execCtlr`. -/
def kitCtlr : Kit :=
  let n (c : Ctx) : Nat := c.w.a.bits.toNat
  { word := fun c => if n c = 0x24 && 1 ≤ c.W.detlvl then c.determWord 1 else []
    eff := fun c => if n c < 0x20 then c.each (c.word32 (n c)) else c.each64 (fun _ => c.word64 (n c)) }

/-- 0x322: CTLR (R279, R280). -/
def execCtlr (w : Fields) (s : State) : Host.Outcome State Fault Refusal := run .ctlr .l64 w kitCtlr s

/-- CTLW's effect on a warp (R280): the reserved and read-only bits keep their values. -/
def Warp.writeWord (W : Warp) (n : Nat) (lo : Word) (wide : DWord) : Warp :=
  match n with
  | 0x08 => { W with wctl := (W.wctl &&& ~~~(6 : Word)) ||| (lo &&& 6) }
  | 0x09 => { W with fflags := (W.fflags &&& ~~~(0x1F : Word)) ||| (lo &&& 0x1F) }
  | 0x20 => { W with tpc := wide, tpcSet := true }
  | _ => W

/-- The behaviour of `execCtlw`. -/
def kitCtlw : Kit :=
  let n (c : Ctx) : Nat := c.w.b.bits.toNat
  { word := fun c => if n c = 0x20 && !c.W.tmode then [{ c.recWord 0x5A with info0 := 0x20 }] else []
    eff := fun c => (
      if !c.acts then c.s
      else c.s.modWarp c.k (fun W => { W.writeWord (n c) (c.a c.lead) (c.a64 c.lead) with
        forks := if n c = 0x09 then W.forks.map (fun f => if f.meets c.m then { f with flagsSet := true } else f) else W.forks })) }

/-- 0x323: CTLW (R279, R280). A continuation's write of `k.fflags` stands when it is confirmed. -/
def execCtlw (w : Fields) (s : State) : Host.Outcome State Fault Refusal := run .ctlw .l64 w kitCtlw s

/-- The behaviour of `execHalt`. -/
def kitHalt : Kit :=
  { eff := fun c => if c.acts then c.s.kill c.k 0x103 c.lead 0 none else c.s
    fork := false }

/-- 0x324: HALT (R281, R343). -/
def execHalt (w : Fields) (s : State) : Host.Outcome State Fault Refusal := run .halt .l64 w kitHalt s

/-- The translations a TLBINV removes (R282). -/
def Ctx.invalidates (c : Ctx) (t : Trans) : Bool :=
  let a := (c.a64 c.lead).toNat
  let n := 4096 * (c.b c.lead).toNat
  match c.mod % 4 with
  | 0 => t.queue == (c.c c.lead).toNat && n != 0 && decide (t.vpage * pageSize t.size < a + n) && decide (a < (t.vpage + 1) * pageSize t.size)
  | 1 => t.queue == (c.c c.lead).toNat
  | _ => true

/-- The walks that began before an instruction: their numbers lie below the next number of its issue. -/
def Ctx.walksBefore (c : Ctx) : Option Cond :=
  match c.wake with
  | some (.walks _) => none
  | _ => if c.acts && c.s.walks != [] then some (.walks c.s.nextId) else none

/-- The behaviour of `execTlbinv`. -/
def kitTlbinv : Kit :=
  { word := Ctx.privFault
    check := fun c => (
      if c.acts && c.mod % 4 < 2 && 4095 < (c.c c.lead).toNat then [c.sysFault 1 (c.c c.lead)] else [])
    wait := fun c => (match c.wake with
      | some (.walks _) => (c.s, none)
      | _ => thenWait (c.s, c.releaseAt 4) c.walksBefore)
    eff := fun c => (
      if !c.acts then c.s
      else
        let s := c.s.modWarp c.k (fun W => W.countRelease 4)
        { s with tlbs := s.tlbs.map (fun l => (l.1, l.2.filter (fun t => !c.invalidates t))) })
    fork := false }

/-- 0x325: TLBINV (R282). -/
def execTlbinv (w : Fields) (s : State) : Host.Outcome State Fault Refusal := run .tlbinv .l96 w kitTlbinv s

/-- The lines that overlap a CACHEOP's range: virtual addresses (R283). -/
def Ctx.opLines (c : Ctx) : List Nat :=
  let a := (c.a64 c.lead).toNat
  let n := (c.b c.lead).toNat
  if !c.acts || n = 0 then [] else (List.range ((a + n - 1) / 128 - a / 128 + 1)).map (fun j => (a / 128 + j) * 128)

/-- The cores of a partition. -/
def State.coresOf (s : State) (part : Nat) : List Nat :=
  match mfind s.parts part with
  | none => []
  | some P => P.clusters.foldr (fun cl acc => (List.range 16).map (fun j => cl * 16 + j) ++ acc) []

/-- What a CACHEOP does to one line, by physical address (R283). -/
def Ctx.cacheLine (c : Ctx) (s : State) (pa : Nat) : State :=
  let die := c.W.core / 192
  match c.mod % 4 with
  | 0 => (s.coresOf (s.partOfWarp c.W)).foldl (fun s k =>
      if (mfind s.cores k).isNone then s
      else s.modCore k (fun C => { C with icache := C.icache.filter (fun e => e.1 / 4 != pa / 128) })) s
  | 1 => (s.dropLine c.W.core (pa / 128)).dropLine (768 + die) (pa / 128)
  | 2 => s.cleanLine (pa / 128)
  | _ => s.evictLine (pa / 128)

/-- CACHEOP's wait for every earlier store-class operation of the warp, at every level (R283). -/
def Ctx.storesWait (c : Ctx) : Option Cond :=
  match c.wake with
  | some (.fence (some _) _ _) => none
  | _ => if c.acts && c.s.storesOut c.k c.s.nextId then some (.fence (some 0) false c.s.nextId) else none

/-- The behaviour of `execCacheop`. -/
def kitCacheop : Kit :=
  { word := fun c => if c.mod % 4 = 3 then c.privFault else []
    check := fun c => if c.acts && c.b c.lead ≠ 0 && 2 ^ 48 ≤ (c.a64 c.lead).toNat then [c.addrLead (c.a64 c.lead) 5 128] else []
    pages := Ctx.opLines
    wait := fun c => (c.s, c.storesWait)
    eff := fun c => c.opLines.foldl (fun s a => match c.trans a with
      | some t => c.cacheLine s (t.phys a)
      | none => s) c.s
    fork := false }

/-- 0x326: CACHEOP (R283). -/
def execCacheop (w : Fields) (s : State) : Host.Outcome State Fault Refusal := run .cacheop .l96 w kitCacheop s

/-! ### Contexts -/

/-- The core that CTXSV's selector names (R284). -/
def Ctx.selCore (c : Ctx) : Nat := c.W.core / 192 * 192 + ((c.b c.lead).extractLsb' 0 8).toNat

/-- The block in the slot that CTXSV's selector names. -/
def Ctx.selBlock (c : Ctx) : Option Nat :=
  ((c.s.blocksOn c.selCore).find? (fun b => b.2.slot == ((c.b c.lead).extractLsb' 8 5).toNat)).map (·.1)

/-- The alignment of a save area (R284). -/
def Ctx.saveFaults (c : Ctx) : List TrapRec :=
  let a := c.a64 c.lead
  firstOf [(a.toNat % 4096 ≠ 0, c.addrLead a 1 4096), (2 ^ 48 ≤ a.toNat, c.addrLead a 5 4096)]

/-- The pages of a save area of `n` bytes. -/
def Ctx.savePages (c : Ctx) (n : Nat) : List Nat :=
  (List.range ((n + 4095) / 4096)).map (fun j => (c.a64 c.lead).toNat + 4096 * j)

/-- The length of the saved context at CTXLD's address. -/
def Ctx.savedLength (c : Ctx) : Nat :=
  match (c.trans (c.a64 c.lead).toNat).bind (fun t => c.s.contextAt (t.phys (c.a64 c.lead).toNat)) with
  | some (_, x, B) => (c.s.contextParts x B).2.2.2
  | none => 1

/-- The behaviour of `execCtxsv`. -/
def kitCtxsv : Kit :=
  { word := Ctx.privFault
    check := fun c => (
      if !c.acts then []
      else
        let sel := c.b c.lead
        firstOf [
          (191 < (sel.extractLsb' 0 8).toNat, c.sysFault 2 (sel.extractLsb' 0 8 |>.setWidth 32)),
          (sel >>> 13 ≠ 0, c.sysFault 3 sel)] ++ if c.selBlock.isSome then c.saveFaults else [])
    pages := fun c => (
      match (if c.acts then c.selBlock else none) with
      | none => []
      | some b => c.savePages (c.s.contextBytes b).length)
    wait := fun c => (
      match (if c.acts then c.selBlock else none) with
      | none => (c.s, none)
      | some b =>
        let s := (c.s.stopBlock b).abortTxs b
        (s, if s.drained b then none else some (.drain b)))
    eff := fun c => (
      if !c.acts then c.s
      else
        match c.selBlock with
        | none => c.laterEach c.s 7 (fun _ => 0)
        | some b =>
          let s := c.s.abortBlock b
          if (s.block? b).all (fun B => !B.alive) then c.laterEach s 7 (fun _ => 0)
          else
          match s.saveBlock (s.warpLook c.k) b (c.a64 c.lead).toNat with
          | none => c.laterEach (s.resumeBlock b) 7 (fun _ => 0)
          | some s => c.laterEach s 7 (fun _ => 0xFFFFFFFF))
    fork := false }

/-- 0x327: CTXSV (R134, R284). It waits until the block has drained. -/
def execCtxsv (w : Fields) (s : State) : Host.Outcome State Fault Refusal := run .ctxsv .l96 w kitCtxsv s

/-- The behaviour of `execCtxld`. -/
def kitCtxld : Kit :=
  { word := Ctx.privFault
    check := fun c => (
      if !c.acts then []
      else firstOf [(191 < (c.b c.lead).toNat, c.sysFault 2 (c.b c.lead))] ++ c.saveFaults)
    pages := fun c => if c.acts then c.savePages c.savedLength else []
    eff := fun c => (
      if !c.acts then c.s
      else
        let core := c.W.core / 192 * 192 + (c.b c.lead).toNat
        match c.s.loadBlock c.trans core (c.a64 c.lead).toNat with
        | none => c.laterEach c.s 7 (fun _ => 0)
        | some s => c.laterEach s 7 (fun _ => 0xFFFFFFFF))
    fork := false }

/-- 0x328: CTXLD (R135, R284). -/
def execCtxld (w : Fields) (s : State) : Host.Outcome State Fault Refusal := run .ctxld .l96 w kitCtxld s

/-! ### Queue, signal and record -/

/-- The behaviour of `execQend`. -/
def kitQend : Kit :=
  { word := Ctx.privFault
    wait := fun c => c.room 1
    eff := fun c => (
      if !c.acts then c.s
      else if c.s.buffered c.W then (c.storeNote (c.s.defer c.k (.qend (c.a c.lead).toNat (c.b c.lead).toNat))).endQuantum c.k
      else c.storeNote (c.s.qendGo (c.a c.lead).toNat (c.b c.lead)))
    fork := false }

/-- 0x329: QEND (R285). It counts in ST (R97). -/
def execQend (w : Fields) (s : State) : Host.Outcome State Fault Refusal := run .qend .l64 w kitQend s

/-- SIGR's read: of the 8 bytes at the signal's home. -/
def Ctx.sigRead (c : Ctx) : State :=
  c.load 0 (c.accesses 8 2 c.a64 (fun _ => .read)) (.words 2) 2 []

/-- SIGR at D1 and above: the read waits for the commit, in program order among the warp's AMOs, and the quantum ends
(R112, R285). -/
def Ctx.sigLate (c : Ctx) : State :=
  let accs := c.accesses 8 2 c.a64 (fun _ => .read)
  let s := c.noteReads c.s ((accs.map (fun a => a.pa / 32)).dedup)
  let f := s.nextId
  let d := c.w.d.toNat
  let s := s.launchFlight { warp := c.k, cls := 0, accs := accs, dst := d, land := .words 2, regs := [d, d + 1], round := true, held := true }
  (s.defer c.k (.flight f)).endQuantum c.k

/-- Bytes at their homes, by the translations that a warp holds. -/
def State.homeBytes (s : State) (k va n : Nat) : List Byte :=
  (cutSectors va n).foldr (fun r acc => (match s.warpTrans k r.1 with
    | some t => s.bytesAt (t.phys r.1) r.2
    | none => List.replicate r.2 0) ++ acc) []

/-- The behaviour of `execSigr`. -/
def kitSigr : Kit :=
  { check := fun c => c.globalFaults false 8 8 c.a64
    pages := fun c => c.pageAddrs c.a64
    bad := fun c => c.earlyPoison false 8 c.a64
    wait := fun c => (
      if !c.acts then (c.s, none)
      else if c.s.buffered c.W then c.room 0
      else
        match c.wake with
        | some (.fence none true _) => (c.s, none)
        | _ => (match thenWait (c.room 0) (c.readRoom (c.sectors c.a64)) with
          | (s, some why) => (s, some why)
          | (_, none) => (c.sigRead, some (.fence none true c.s.nextId))))
    eff := fun c => if c.acts && c.s.buffered c.W then c.sigLate else c.s }

/-- 0x32A: SIGR (R285): it goes on once its read has returned, as an acquire does. At D1 and above no acquire waits
(R113). -/
def execSigr (w : Fields) (s : State) : Host.Outcome State Fault Refusal := run .sigr .l64 w kitSigr s

/-- The record of a RASW as its engine keeps it (R366); among those of one cycle a firmware warp's is the firmware core's (R365). -/
def rasRecord (b : List Byte) (core : Nat) (user : Bool) : RasRec :=
  let w0 := fieldAt b 0 8
  { type := if user then 0xF0 else w0 % 256
    sub := w0 / 256 % 256
    sw := user
    core := if user then core else 1024
    pv := !user && w0 / 2 ^ 17 % 2 == 1
    raw := if user then (b.drop 0x10).take 0x18 ++ List.replicate 8 0 ++ (b.drop 0x30).take 0x10 else (b.drop 0x10).take 0x30 }

/-- The behaviour of `execRasw`. -/
def kitRasw : Kit :=
  { check := fun c => (
      let a := c.a64 c.lead
      if !c.acts then [] else firstOf [(a.toNat % 64 ≠ 0, c.addrLead a 1 64), (2 ^ 48 ≤ a.toNat, c.addrLead a 5 64)])
    pages := fun c => if c.acts then [(c.a64 c.lead).toNat] else []
    wait := fun c => c.room 1
    eff := fun c => (
      let user := c.W.mode == .user
      if !c.acts then c.s
      else if c.s.buffered c.W then (c.storeNote (c.s.defer c.k (.rasw (c.a64 c.lead) user))).endQuantum c.k
      else c.storeNote (match c.peek (c.a64 c.lead).toNat 64 with
        | none => c.s
        | some b => c.s.ras (c.W.core / 192) (rasRecord b c.W.core user)))
    fork := false }

/-- 0x32B: RASW (R285, R366). It counts in ST (R97). -/
def execRasw (w : Fields) (s : State) : Host.Outcome State Fault Refusal := run .rasw .l96 w kitRasw s

end Sys2Proof.Machine
end

