-- ==== Sys2Proof/Machine/Issue.lean ====
section
/-! DEFINITION. The issue slots: which warps are eligible, which gang issues, how its instruction is fetched, and the
events in which a warp starts or what a slice waits for comes (R15 to R18, R24, R28 to R31, R95, R100, R106, R132, R186
to R188, R195, R220, R317, R337 to R339). -/

namespace Sys2Proof.Machine

/-- Fields that are all zero. -/
def blankFields : Fields := ⟨0, 0, false, false, 0, 0, Operand.zero, Operand.zero, Operand.zero, 0, 0⟩

/-- Slices of a warp at an address, as an instruction would meet them. -/
def State.gangAt (s : State) (k : Nat) (m : BitVec 16) (pc : DWord) : Ctx :=
  ⟨s, k, s.warp k, m, m, pc, .nop, .l64, blankFields, none⟩

/-! ### What a slice waits for -/

/-- Whether what slices of a warp wait for has come, where no event says so (`Slice.woken` is the mark of an event). -/
def State.condOver (s : State) (k : Nat) (m : BitVec 16) (c : Cond) : Bool :=
  let W := s.warp k
  match c with
  | .regs rs => !rs.any (s.pendingRegs k).contains
  | .counter cls n => W.counter cls ≤ n
  | .fence _ _ _ => false
  | .pages vas => !vas.any (fun a => s.walking W.queue (a / 4096))
  | .prefetch => true
  | .regang _ _ => false
  | .barrier _ => s.abandoned W.block
  | .phaseBit a last => s.phaseCame k a last
  | .verdict => !W.forks.any (fun f => f.meets m)
  | .verdicts => W.forks == []
  | .txseal => W.tx.isNone || (W.txSlices &&& ~~~W.atSeal) = 0
  | .words _ _ _ _ _ => false
  | .grace g => !s.buffered W && g ≤ s.gpDone (s.partOfWarp W)
  | .batch b => !W.outs.any (fun o => o.2.1 == b)
  | .ticket t => !W.outs.any (fun o => o.2.1 == t)
  | .moved _ => true
  | .matrix => (s.core W.core).mx.freeFor W.block
  | .mread _ _ _ _ => false
  | .tap => !s.buffered W && (s.gangAt k m 0).tapReady
  | .pool n => !(s.die (W.core / 192)).poolBusy n
  | .walks n => !s.walks.any (fun w => w.id < n)
  | .drain b => s.drained b || s.abortsDue b
  | .held l => !l.any (fun x => s.heldByOther k (x * 32) 1)

/-- The quantum Q of a warp's queue (R114). -/
def State.quantumOf (s : State) (W : Warp) : Nat := ((mfind s.queues W.queue).map (·.quant)).getD 4096

/-- How many 32-byte fetch blocks a core's instruction cache holds: 64 KiB (R6). -/
def icacheBlocks : Nat := 2048

/-- The words of a fetch block as the fetch path finds them in memory: those of a store that has come to its home in part are
all new, so that no instruction is a mixture (R195). -/
def State.codeBytes (s : State) (b : Nat) : List Byte :=
  let half (F : Flight) : Bool := F.accs.any (fun a => a.done && a.stores && a.pa / 32 == b) && F.accs.any (fun a => !a.done && a.pa / 32 == b)
  s.flights.foldl (fun acc f => if half f.2 then (f.2.accs.filter (fun a => !a.done)).foldl (s.accOver (b * 32)) acc else acc)
    (s.bytesAt (b * 32) 32)

/-- A 32-byte fetch block from a core's instruction cache, loaded if it is not there. In a full cache it replaces a block that
is free (log entry 70). -/
def State.fetchBlock (s : State) (core pa : Nat) : State × List Byte :=
  match mfind (s.core core).icache (pa / 32) with
  | some b => (s, b)
  | none =>
    let b := s.codeBytes (pa / 32)
    let l := (s.core core).icache
    let s : State := if l.length < icacheBlocks then s
      else { s.modCore core (fun C => { C with icache := l.eraseIdx (Config.freeChoice s.fresh % icacheBlocks) }) with fresh := s.fresh + 1 }
    (s.modCore core (fun C => { C with icache := minsert C.icache (pa / 32) b }), b)

/-- The registers of the next instruction of a slice that wait for a variable result, as the fetch path finds the instruction
(R37, R132). -/
def State.interlocked (s : State) (k : Nat) (pc : DWord) : Bool :=
  let W := s.warp k
  let pend := s.pendingRegs k
  if pend = [] then false
  else
    match ((s.gangAt k 0 pc).trans pc.toNat).map (fun t => (s.fetchBlock W.core (t.phys pc.toNat)).2) with
    | none => false
    | some b =>
      match decode (b.drop (pc.toNat % 32)) W.bound with
      | .error _ => false
      | .ok i =>
        match i.word with
        | none => false
        | some (o, _, w) => (rangeRegs (o.dstRanges w ++ o.srcRanges w)).any pend.contains

/-- Whether a slice has retired its quantum and waits (R111). -/
def State.atQuantum (s : State) (W : Warp) (x : Slice) : Bool :=
  W.twinOf.isNone && s.buffered W && decide (s.quantumOf W ≤ x.retired)

/-- The slices of a warp whose next instruction is ready, ascending (R132). -/
def State.readySlices (s : State) (k : Nat) : List Nat :=
  let W := s.warp k
  (W.slices.zipIdx.filter (fun x => !x.1.exited && !s.atQuantum W x.1 && (match x.1.wait with
    | none => !s.interlocked k x.1.pc
    | some c => x.1.woken || s.condOver k (sliceBit x.2) c))).map (·.2)

/-- The limit of a warp's watchdog, if watchdogs count on its die (R337). -/
def State.wdogLimit (s : State) (W : Warp) : Option Nat :=
  let c := (s.die (W.core / 192)).wdogCfg
  if s.wdogOn W then some (2 ^ (max 20 (min 40 (c.extractLsb' 0 6).toNat))) else none

/-- Whether a warp's watchdog has expired (R337). -/
def State.expired (s : State) (W : Warp) : Bool := (s.wdogLimit W).any (fun n => n ≤ W.watchdog)

/-- A twin issues only once the verdicts of its caller's older FCALLs over the same slices have fallen. -/
def State.twinHeld (s : State) (k : Nat) (W : Warp) : Bool :=
  match W.twinOf with
  | none => false
  | some p =>
    let fs := (s.warp p).forks
    let mine := ((fs.find? (fun f => f.twin == k)).map (·.gang)).getD 0
    (fs.takeWhile (fun f => f.twin != k)).any (fun f => f.meets mine)

/-- Whether a page fault of a warp is with the firmware: it suspends the warp (R47). -/
def State.pageFaulted (s : State) (W : Warp) : Bool :=
  s.faults != [] && W.slices.any (fun x => !x.exited && (match x.wait with
    | some (.pages vas) => s.faults.any (fun f => f.queue == W.queue && f.pool.isNone && vas.any (fun a => a / 4096 == f.vpn))
    | _ => false))

/-- Whether nothing keeps a warp as a whole from issuing (R31, R37, R47, R111, R132, R134, R225). -/
def State.mayIssue (s : State) (k : Nat) (W : Warp) : Bool :=
  decide (W.stall ≤ 1) && !W.qwait && !s.pageFaulted W && W.started && !W.ended && !s.stopped W && s.resident W && W.fast && !W.yielded && !(s.warp (s.rootOf 4 k)).qdone &&
    !s.expired W && !s.twinHeld k W && !(((mfind s.launches W.launch).map (·.committed)).getD false)

/-- Whether two ready slices issue together: their program counters are equal (R16, R18). Slices that are in the middle of an
instruction go on with it apart from those that begin it, and those of a continuation apart from others (log entry 73). -/
def Warp.sameGroup (W : Warp) (i j : Nat) : Bool :=
  let x := W.slice i
  let y := W.slice j
  x.pc == y.pc && x.kept == y.kept &&
    W.forks.all (fun f => inMask f.gang i == inMask f.gang j)

/-- Join a slice to the first group it belongs to. -/
def Warp.joinGroup (W : Warp) (i : Nat) : List (List Nat) → List (List Nat)
  | [] => [[i]]
  | g :: gs => if W.sameGroup (g.headD 0) i then (g ++ [i]) :: gs else g :: W.joinGroup i gs

/-- The ready groups of a warp, in ascending order of their lowest slices. -/
def State.groups (s : State) (k : Nat) : List (List Nat) :=
  (s.readySlices k).foldl (fun gs i => (s.warp k).joinGroup i gs) []

/-- The group that issues next: the one after the last (R132). -/
def State.nextGroup (s : State) (k : Nat) : Option (List Nat) :=
  let gs := s.groups k
  match gs.find? (fun g => (s.warp k).lastGroup < g.headD 0) with
  | some g => some g
  | none => gs.head?

/-! ### Selection (R132) -/

/-- The number of a warp's slot in the package: four for each core (R6). -/
def Warp.slotNo (W : Warp) : Nat := W.core * 4 + W.slot

/-- The eligible warps of a slot. -/
def State.eligible (s : State) (slot : Nat) : List (Nat × Warp) :=
  s.warps.filter (fun x => x.2.slotNo == slot && s.mayIssue x.1 x.2 && s.readySlices x.1 != [])

/-- The step of R132 at which a warp is found. -/
def Warp.selectStep (W : Warp) : Nat :=
  if W.tmode then 0
  else if W.age = 255 then 1
  else
    match W.role with
    | .copy | .matrix | .epilogue => 2
    | .plain | .tapHandler => 3

/-- The warp that a slot chooses: the first step, then the highest age, then the lower position. -/
def chooseWarp : List (Nat × Warp) → Option (Nat × Warp)
  | [] => none
  | x :: l =>
    match chooseWarp l with
    | none => some x
    | some y =>
      if x.2.selectStep < y.2.selectStep || (x.2.selectStep == y.2.selectStep && y.2.age ≤ x.2.age) then some x else some y

/-- A slot forms its gang: the chosen warp's age is 0, every other eligible warp's rises (R132). -/
def State.select (s : State) (slot : Nat) : State :=
  let es := s.eligible slot
  let rest (s : State) : State := { s with warps := s.warps.map (fun x =>
    if x.2.slotNo = slot then (x.1, { x.2 with yielded := false, stall := x.2.stall - 1 }) else x) }
  match chooseWarp es with
  | none => rest s
  | some (k, W) =>
    match s.nextGroup k with
    | none => rest s
    | some g =>
      let s := rest s
      let s := es.foldl (fun s e => s.modWarp e.1 (fun W =>
        if e.1 = k then { W with age := 0, lastGroup := g.headD 0, lastIssue := s.cycle }
        else { W with age := min 255 (W.age + 1) })) s
      { s with issue := some ⟨k, maskOf g, (W.slice (g.headD 0)).pc⟩ }

/-- ISSUE_CYCLE: time passes, and a slot selects an eligible warp and its gang (R8, R132). -/
def execIssueCycle (slot dt : Nat) (s : State) : Host.Outcome State Fault Refusal :=
  .next (
    let s : State := { s with time := s.time + BitVec.ofNat 64 dt, cycle := s.cycle + 1 }
    if s.issue.isSome then s else s.select slot)

/-! ### Fetch (R186 to R188, R195) -/


/-- The issuing slices step over a filler (R187). -/
def Ctx.hop (c : Ctx) : Ctx :=
  let a := c.pc + 4
  let s := c.s.modWarp c.k (fun W => W.onSlices c.m (fun x => { x with pc := a }))
  { c with s := s, W := s.warp c.k, pc := a }

/-- The translation for a fetch (R87). -/
def Ctx.fetchTrans (c : Ctx) : Option Trans :=
  if c.W.mode = .firmware then some (identityTrans c.pc.toNat) else c.s.cached c.W.core c.W.queue c.pc.toNat

/-- Fetch and decode at a gang's address: the state, and the instruction where there is one. A fetch block of
fillers alone is passed by hopping, at most `fuel` times. -/
def Ctx.fetch (c : Ctx) : Nat → State × Option Instr
  | 0 => (c.s, none)
  | fuel + 1 =>
    match c.fetchTrans with
    | none =>
      let a := c.pc.toNat
      (c.stop (c.s.startWalksAt c.W.core c.W.queue [a]) (.pages [a]), none)
    | some t =>
      if t.xn then (c.fault c.s [{ c.recWord 7 with taddr := c.pc }], none)
      else
        let b := c.s.fetchBlock c.W.core (t.phys c.pc.toNat)
        let bytes := b.2.drop (c.pc.toNat % 32)
        let c := { c with s := b.1 }
        if c.pc.toNat % 32 = 28 && leNat bytes = fillerWord then c.hop.fetch fuel
        else
          match decode bytes c.W.bound with
          | .ok i => ({ c.s with issue := some ⟨c.k, c.m, c.pc⟩ }, some i)
          | .error r =>
            (c.fault c.s [{ c.recWord 1 with info0 := BitVec.ofNat 32 r, info1 := BitVec.ofNat 32 (leNat (bytes.take 4)) }], none)

/-- Fetch for the gang that a slot has formed. Slices whose transaction lanes have all aborted go on at TXSEAL first
(R102). -/
def State.fetch (s : State) : State × Option Instr :=
  match s.issue with
  | none => (s, none)
  | some g =>
    let c := (({ s with issue := none } : State).gangAt g.warp g.mask g.pc).skip
    if c.m = 0 then (c.s, none) else c.fetch 2

/-! ### Starting a warp -/

/-- WARP_START: a warp of a block is admitted and starts on one of its core's four slots (R15, R28). -/
def execWarpStart (b i : Nat) (s : State) : Host.Outcome State Fault Refusal :=
  .next (match s.block? b with
    | none => s
    | some B =>
      match (if B.alive then B.warps[i]? else none) with
      | none => s
      | some k => if (s.warp k).started then s else s.modWarp k (fun W => { W with started := true, slot := i % 4 }))

/-! ### What slices wait for comes -/

/-- The slices of a warp that the REGANG at an address lets go: every slice that they name has reached it or exited
(R24). -/
def Warp.regangFree (W : Warp) (addr : DWord) : BitVec 16 :=
  let at_ : List (Nat × BitVec 16) := W.slices.zipIdx.filterMap (fun x => match x.1.wait with
    | some (.regang a m) => if a = addr && !x.1.exited then some (x.2, m) else none
    | _ => none)
  let here := maskOf (at_.map (·.1))
  maskOf ((at_.filter (fun x => (x.2 &&& W.alive &&& ~~~here) == 0)).map (·.1))

/-- REGANG_RELEASE: slices waiting at a REGANG go on (R24). -/
def execRegangRelease (k : Nat) (addr : DWord) (s : State) : Host.Outcome State Fault Refusal :=
  .next (let m := (s.warp k).regangFree addr
    if m = 0 then s else s.modWarp k (fun W => W.onSlices m (fun x => { x with woken := true })))

/-- Whether a barrier's phase can complete now: at D1 and above, and in redundant blocks, it does so at the start of a round
(R111, R127). -/
def State.phaseReady (s : State) (b n : Nat) : Bool := s.phaseFull b n && !s.barsLate b

/-- BARRIER_PHASE_COMPLETE: a barrier completes its phase (R220, R221). -/
def execBarrierPhaseComplete (b n : Nat) (s : State) : Host.Outcome State Fault Refusal :=
  .next (if s.phaseReady b n then s.completePhase b n else s)

/-- Bytes of a working set in the fast file (R31). -/
def Warp.setBytes (W : Warp) : Nat := 4 * W.working.foldl (fun n r => n + r.2) 0 * W.width

/-- Bytes of a slot's fast file (R6). -/
def fastFileBytes : Nat := 32 * 1024

/-- The warps of a slot whose sets the fast file holds. -/
def State.setsHeld (s : State) (slot : Nat) : List (Nat × Warp) :=
  s.warps.filter (fun x => x.2.slotNo == slot && !x.2.ended && x.2.started && s.resident x.2 && x.2.fast && x.2.working != [])

/-- Whether a set is written back before another: warps in TMODE last, then the warp whose last issue lies furthest
back (R31). -/
def Warp.backBefore (V W : Warp) : Bool :=
  if V.tmode = W.tmode then V.lastIssue < W.lastIssue else W.tmode

/-- The warp whose set is written back next (R31). -/
def nextBack : List (Nat × Warp) → Option (Nat × Warp)
  | [] => none
  | x :: l =>
    match nextBack l with
    | none => some x
    | some y => if y.2.backBefore x.2 then some y else some x

/-- Make room in a slot's fast file for a set, writing back whole sets of other warps (R31). -/
def State.makeRoom (s : State) (slot k need : Nat) : Nat → State
  | 0 => s
  | n + 1 =>
    let held := (s.setsHeld slot).filter (fun x => x.1 != k)
    if held.foldl (fun n x => n + x.2.setBytes) 0 + need ≤ fastFileBytes then s
    else
      match nextBack (held.filter (fun x => !x.2.fresh)) with
      | none => s
      | some (j, _) => (s.modWarp j (fun W => { W with fast := false })).makeRoom slot k need n

/-- INTERVAL_PREFETCH_DONE: a warp's working set is in the fast file (R29, R31). It waits while sets that were just
prefetched leave no room. -/
def execIntervalPrefetchDone (k : Nat) (s : State) : Host.Outcome State Fault Refusal :=
  .next (
    let W := s.warp k
    if W.fast || W.ended || !s.resident W then s
    else
      let t := s.makeRoom W.slotNo k W.setBytes ((s.setsHeld W.slotNo).length + 1)
      let held := (t.setsHeld W.slotNo).foldl (fun n x => n + x.2.setBytes) 0
      if held + W.setBytes ≤ fastFileBytes then t.modWarp k (fun W => { W with fast := true, fresh := true }) else s)

/-- Whether a slice waits for a fence that has nothing left to wait for (R95). -/
def State.fenceReady (s : State) (k : Nat) (c : Cond) : Bool :=
  match c with
  | .fence rel acq upto => s.fenceDone k rel acq upto
  | _ => false

/-- FENCE_RELEASE_DONE: a fence of a warp has nothing left to wait for (R95). -/
def execFenceReleaseDone (k : Nat) (s : State) : Host.Outcome State Fault Refusal :=
  .next (s.wake k (s.fenceReady k))

/-- TRYWAIT_WAKE: a store reached the home of a word that a warp waits on; a TRYWAIT may also wake early (R100). -/
def execTrywaitWake (k : Nat) (s : State) : Host.Outcome State Fault Refusal :=
  .next (if s.buffered (s.warp k) then s
    else s.wake k (fun c => match c with
      | .words _ _ _ _ _ => true
      | _ => false))

/-- Whether the hint of a TRYWAIT has elapsed (R100). -/
def State.hintOver (s : State) (k : Nat) (c : Cond) : Bool :=
  match c with
  | .words _ (some t) _ _ _ => s.past ((s.warp k).core / 192) t
  | _ => false

/-- TRYWAIT_HINT_EXPIRY: the hint of a TRYWAIT has elapsed (R100). -/
def execTrywaitHintExpiry (k : Nat) (s : State) : Host.Outcome State Fault Refusal := .next (s.wake k (s.hintOver k))

/-! ### Grace periods -/

/-- Whether a warp that a grace period waits for is waiting in GPWAIT on its core, past its start: it passes a quiescent point in
every cycle of its wait (R292). At D1 and above the start takes effect at the commit, once its reads have returned (R112). -/
def State.inGpwait (s : State) (k : Nat) : Bool :=
  let W := s.warp k
  !s.stopped W && W.quietDue == [] && !(s.bufOf k).contains (.qsp k) && W.slices.any (fun x => !x.exited && (match x.wait with
    | some (.grace _) => true
    | _ => false))

/-- The push of a deferred entry through its pool's reference queue (R110): the block goes on the free list and the entry is
gone, or its page fault goes to the firmware, and with it the entry waits. The flag says that it waits. -/
def State.deferredPush (s : State) (die : Nat) (e : DWord × Nat × Nat × Nat × Nat) : State × Bool :=
  let q := (mget 0 (s.die die).poolQref e.2.1).toNat
  let gone (s : State) : State := s.modDie die (fun D => { D with dfree := D.dfree.erase e })
  if s.faults.any (fun f => f.pool == some (die, e.2.1, e.1)) then (s, true)
  else
    match s.look q e.1.toNat with
    | some t => ((gone s).poolPush e.2.2.2.2 die e.2.1 e.1 (t.phys e.1.toNat), false)
    | none =>
      let level := match s.walk q e.1.toNat with
        | .error l => l
        | .ok _ => 0
      ({ s with faults := s.faults ++ [(⟨q, e.1.toNat / 4096, level, some (die, e.2.1, e.1), []⟩ : PageFault)] }, true)

/-- Whether a deferred push of a partition waits for the firmware (R110). -/
def State.pushWaits (s : State) (p : Nat) : Bool :=
  s.faults.any (fun f => f.pool.any (fun x => (s.die x.1).dfree.any (fun e =>
    e.1 == x.2.2 && e.2.1 == x.2.1 && e.2.2.1 != 0 && e.2.2.2.1 == p)))

/-- The pushes that a completing grace period makes on a die, in queue order: one that waits holds back those behind it (R108,
R110, R293). -/
def State.coveredPushes (s : State) (p g die : Nat) : State :=
  let D := s.die die
  let mine (e : DWord × Nat × Nat × Nat × Nat) : Bool := e.2.2.1 == g && e.2.2.2.1 == p
  ((D.dfree.filter mine).foldl (fun (acc : State × Bool) e => if acc.2 then acc else acc.1.deferredPush die e) (s, false)).1

/-- A grace period is over: GP_DONE advances, and the next one starts where one is asked for or deferred entries wait
uncovered (R106 to R108). -/
def State.graceDone (s : State) (p g : Nat) : State :=
  let s := s.modPart p (fun P => { P with gpDone := g, gpNow := none, gpWait := [] })
  match mfind s.parts p with
  | none => s
  | some P =>
    let left := P.dies.any (fun d => (s.die d).dfree.any (fun e => e.2.2.1 == 0 && e.2.2.2.1 == p))
    if P.gpNext || left then s.graceStart p else s

/-- GRACE_PERIOD_COMPLETE: every warp that existed at its start has passed a quiescent point; the covered blocks are
pushed, then GP_DONE advances (R106, R293). -/
def execGracePeriodComplete (p : Nat) (s : State) : Host.Outcome State Fault Refusal :=
  .next (match mfind s.parts p with
    | none => s
    | some P =>
      match P.gpNow with
      | none => s
      | some g =>
        if P.gpWait.any (fun k => !s.inGpwait k) then s
        else
          let s := P.dies.foldl (fun s d => s.coveredPushes p g d) s
          if s.pushWaits p then s.modPart p (fun P => { P with gpWait := [] }) else s.graceDone p g)

/-! ### The watchdog (R337 to R339) -/

/-- The slices of a warp that wait at REGANG. -/
def Warp.atRegang (W : Warp) : BitVec 16 :=
  maskOf ((W.slices.zipIdx.filter (fun x => match x.1.wait with
    | some (.regang _ _) => !x.1.exited
    | _ => false)).map (·.2))

/-- The watchdog trap of a warp (R338). -/
def Warp.wdogTrap (W : Warp) : TrapRec :=
  { slice := 0
    lane := 0
    cause := 0x51
    info0 := W.alive.setWidth 32
    info1 := W.atRegang.setWidth 32
    pc := (W.slice ((maskSlices W.alive).headD 0)).pc
    whole := true
    mask := W.alive }

/-- WATCHDOG: a warp's watchdog expires. A warp with an FCALL unconfirmed takes the trap after the verdict (R227,
R338). -/
def execWatchdog (k : Nat) (s : State) : Host.Outcome State Fault Refusal :=
  .next (
    let W := s.warp k
    if W.ended || !W.started || !s.expired W || W.forks != [] then s else s.trap k [W.wdogTrap])

end Sys2Proof.Machine
end

