-- ==== Sys2Proof/Machine/Arrive.lean ====
section
/-! DEFINITION. The events of accesses on their way: fills and arrivals at homes, returns and acknowledgements, leases
that lapse, page-table walks and page faults, and uncorrectable errors (R37, R80, R86 to R92, R99, R110, R225, R243,
R292, R340 to R348, R353). -/

namespace Sys2Proof.Machine

/-! ### Returns and acknowledgements: events -/

/-- LOAD_RETURN: a variable result lands in its registers (R37); at D1 and above what waits for a round lands at its
start (R112). -/
def execLoadReturn (f : Nat) (s : State) : Host.Outcome State Fault Refusal :=
  .next (match mfind s.flights f with
    | none => s
    | some F => if F.cls ≠ 1 && F.complete && !F.round then s.landFlight f else s)

/-- STORE_ACK: the acknowledgement of a store-class operation reaches its warp (R92). -/
def execStoreAck (f : Nat) (s : State) : Host.Outcome State Fault Refusal :=
  .next (match mfind s.flights f with
    | none => s
    | some F => if F.cls = 1 && F.complete && !F.round then s.landFlight f else s)

/-! ### At the homes -/

/-- A store-class access of a warp takes place at its home: the race detector looks first, and a warp that it kills at this access
does not perform it (R92, R250, R353, R354). -/
def State.arriveAt (s : State) (k : Nat) (a : Access) : State × Access :=
  let core := (s.warp k).core
  let was := (s.warp k).killed
  let s := match a.op with
    | .write _ | .ste _ _ _ => s.raceCheck k true a.va a.pa
    | _ => s
  if !was && (s.warp k).killed then (s, { a with done := true })
  else
    match a.op with
    | .push pool die =>
      let link := leBytes 8 (mget 0 (s.die die).poolHead pool).toNat
      let s := (s.poolPush (s.warp k).svc die pool a.va a.pa).storeSnoop core a.pa link
      let t := s.completionTimes a.pa (core / 192)
      (s, { a with done := true, gwctd := t.1, gwct := t.2 })
    | _ => s.atHome core (s.warp k).svc a

/-- After each addition of a SIGADD the firmware tests the WAITSIGs that name the signal (R267). -/
def State.signalled (s : State) (F : Flight) (a : Access) : State :=
  match a.op with
  | .rmw _ _ _ _ => if F.inOrder then s.testWaits a.pa else s
  | _ => s

/-- A store or an atomic operation of another package at its home here: its effect, which a poisoned word does not take (R341), and the answer with the old value and the
write completion time, which no lease outlives (R89, R92, R302); in the host window it completes at its arrival (R301). -/
def State.farArrive (s : State) (x : FarAccess) : State :=
  let t := (s.completionTimes x.addr 0).2
  match x.amo with
  | none =>
    let s := (s.homePutRun x.addr x.bytes).clearPoison x.addr x.bytes.length
    s.send (.rsp x.package [] t)
  | some (kind, wide, b, c) =>
    let n := if wide then 8 else 4
    let old := s.bytesAt x.addr n
    let r := amoNew kind wide (BitVec.ofNat 64 (leNat old)) b c
    let s := if s.poisonedAt x.addr n then s else s.homePut x.addr (leBytes n r.1.toNat)
    s.send (.rsp x.package old t)

/-- A fill of a sector for a cache of another package, with a lease of its class (R89, R91, R302); what lies in the host window is
not kept (R301). -/
def State.farFill (s : State) (x : FarAccess) : State :=
  let s := s.fillFor noClass (x.addr / 128)
  let dur := if inHostWindow x.addr then 0 else s.leaseFar x.addr x.lc
  let e := s.dieTime (s.homeDie x.addr) + BitVec.ofNat 64 dur
  let s := if dur = 0 then s else s.stampFar x.addr e
  s.send (.rsp x.package (s.bytesAt (x.addr / 32 * 32) 32) e)

/-- The stores of one instruction that have come to their homes clear the poison of a sector that they cover together
(R340). -/
def State.coverStores (s : State) (f : Nat) : State :=
  if s.badSectors = [] then s
  else
    match mfind s.flights f with
    | none => s
    | some F =>
      let l := F.accs.filterMap (fun a => match a.op with
        | .write bs => if a.done then some (a.pa, bs.length) else none
        | _ => none)
      ((l.map (·.1 / 32)).dedup).foldl (fun s x => s.cleanCopies (s.warp F.warp).core x) (s.coverPoison l)

/-- HOME_WRITE_ARRIVAL: an access of a store-class operation reaches its home, in order after the warp's earlier
accesses to its bytes and after an escalated transaction that holds its sector (R92, R94, R104); or one of another package
reaches a home here (R302). -/
def execHomeWriteArrival (o : Origin) (j : Nat) (s : State) : Host.Outcome State Fault Refusal :=
  .next (match o with
    | .far x =>
      if packageOf x.addr != s.zinc.self || s.homeless x.addr || s.holds.any (fun h => h.1 * 32 < x.addr + max 8 x.bytes.length && x.addr < h.1 * 32 + 32) then s
      else s.farArrive x
    | .flight f =>
      match mfind s.flights f with
      | none => s
      | some F =>
        match F.accs[j]? with
        | none => s
        | some a =>
          if a.done || !a.stores || a.adpq || F.held || s.behind f j a F.warp || s.heldStore F.warp a.lane f a.span.1 a.span.2 then s
          else
            let r := s.arriveAt F.warp a
            ((r.1.setAccess f j r.2).coverStores f).signalled F a)

/-- Whether an access was issued in the open transaction of its lane: a prefetch belongs to none (R101, R239, R244). -/
def State.inTx (s : State) (f : Nat) (F : Flight) (a : Access) : Bool :=
  F.land != .none && (s.warp F.warp).txLive a.lane && (s.warp F.warp).tx.any (fun t => t.since ≤ f)

/-- One load access is served, with the warp's own buffered bytes over it (R89, R101, R227, R353). A transaction lane records the
sector as the access has read it, which validation compares with its home (R103). -/
def State.fillOne (s : State) (f j : Nat) : State :=
  match mfind s.flights f with
  | none => s
  | some F =>
    match F.accs[j]? with
    | none => s
    | some a =>
      let W := s.warp F.warp
      let hit := !a.bypass && (s.copyAt W.core (W.core / 192) (a.pa / 32)).isSome
      let s := if hit || F.land = .none then s else s.raceCheck F.warp false a.va a.pa
      let r := s.serveRead W.core W.svc a
      let seen := (s.serveRead W.core W.svc { a with pa := a.pa / 32 * 32, n := 32 }).2.1
      let s := if s.inTx f F a then r.1.txSaw F.warp a.lane (a.pa / 32) seen else r.1
      s.setAccess f j { a with done := true, value := overCells a.pa r.2.1 a.mine, bad := r.2.2 }

/-- An ADPQ's accesses are served in lane order, as far as their pages are present (R159). -/
def State.adpqFill (s : State) (f : Nat) : State :=
  match mfind s.flights f with
  | none => s
  | some F =>
    (F.accs.zipIdx.foldl (fun (acc : State × Bool) x =>
      if acc.2 || x.1.done then acc
      else
        match x.1.op with
        | .adpq id =>
          let first := !(F.accs.take x.2).any (fun b => b.op == .adpq id)
          (match acc.1.adpqServe F.warp f x.1 id first with
           | (s, some a) => (s.setAccess f x.2 a, false)
           | (s, none) => (s, true))
        | _ => acc) (s, false)).1

/-- Whether a load access waits: behind the warp's own stores to its bytes, or in a transaction lane for a sector that
another warp's escalated lane holds (R94, R104). -/
def State.fillWaits (s : State) (f j : Nat) (F : Flight) (a : Access) : Bool :=
  s.behind f j a F.warp || (s.inTx f F a && s.heldByOther F.warp a.pa a.n)

/-- LINE_FILL: a load's access is served by the L1, the RDC or its home, and with it the operation's other accesses to
the sector (R69, R70, R80, R89); or a fill of another package's cache by its home here (R302). -/
def execLineFill (f j : Nat) (far : Option FarAccess) (s : State) : Host.Outcome State Fault Refusal :=
  .next (match far, mfind s.flights f with
    | some x, _ => if packageOf x.addr != s.zinc.self || s.homeless x.addr then s else s.farFill x
    | none, none => s
    | none, some F =>
      match F.accs[j]? with
      | none => s
      | some a =>
        if a.done || F.held || s.fillWaits f j F a then s
        else
          match a.op with
          | .adpq _ => s.adpqFill f
          | .read =>
            let js := (F.accs.zipIdx.filter (fun x => !x.1.done && x.1.op == .read && x.1.pa / 32 == a.pa / 32 && !s.fillWaits f x.2 F x.1)).map (·.2)
            js.foldl (fun s j => s.fillOne f j) s
          | _ => s)

/-- LEASE_EXPIRY: a cached copy whose lease has run out lapses (R89). -/
def execLeaseExpiry (n : Nat) (s : State) : Host.Outcome State Fault Refusal :=
  .next (match s.copies[n]? with
    | none => s
    | some (key, c) =>
      let cache := key / 2 ^ 43
      let die := if cache < 768 then cache / 192 else cache - 768
      if s.past die c.expiry then { s with copies := merase s.copies key } else s)

/-! ### Walks and page faults -/

/-- Walks that a die runs at once (R4, R88). -/
def walkLimit : Nat := 64

/-- The die that walks. -/
def Walk.die (w : Walk) : Nat := w.cores.headD 0 / 192

/-- The n-th outstanding walk, if its die runs it: those that begin later wait until one of the 64 ends (R88). -/
def State.runningWalk (s : State) (n : Nat) : Option Walk :=
  match s.walks[n]? with
  | none => none
  | some w => if ((s.walks.take n).filter (fun x => x.die == w.die)).length < walkLimit then some w else none

/-- TLB_WALK_COMPLETE: a page-table walk ends with a translation for the cores that wait for it, or in a fault that goes to the
firmware (R87, R88). -/
def execTlbWalkComplete (n : Nat) (s : State) : Host.Outcome State Fault Refusal :=
  .next (match s.runningWalk n with
    | none => s
    | some w =>
      let s : State := { s with walks := s.walks.eraseIdx n }
      match s.walk w.queue (w.vpn * 4096) with
      | .ok t => w.cores.foldl (fun s c => s.addTrans c t) s
      | .error level => { s with faults := s.faults ++ [(⟨w.queue, w.vpn, level, none, w.cores⟩ : PageFault)] })

/-- The slices of a warp that wait for a page, each with the address for which it does. -/
def Warp.waitsPage (W : Warp) (vpn : Nat) : List (Nat × Nat) :=
  W.slices.zipIdx.filterMap (fun x => if x.1.exited then none else (match x.1.wait with
    | some (.pages vas) => (vas.find? (fun a => a / 4096 == vpn)).map (fun a => (x.2, a))
    | _ => none))

/-- An unresolvable page at the instructions that wait for it: the warp is killed, or a continuation holds the kill. -/
def State.pageKill (s : State) (vpn level : Nat) (k : Nat) : State :=
  match (s.warp k).waitsPage vpn with
  | [] => s
  | (i, a) :: _ =>
    let va := BitVec.ofNat 64 a
    match (s.warp k).forks.reverse.find? (fun g => inMask g.gang i) with
    | some g => s.stopFork k g (fun h => { h with stopped := h.stopped ++
        [{ slice := i, lane := 4 * i, cause := 0x101, taddr := va, info2 := BitVec.ofNat 32 level }] })
    | none => s.killTrans k (4 * i) va level

/-- The first address of some byte ranges that lies on a page. -/
def firstIn (l : List (Nat × Nat)) (vpn : Nat) : DWord :=
  BitVec.ofNat 64 (((l.find? (fun r => r.1 < vpn * 4096 + 4096 && vpn * 4096 < r.1 + r.2)).map (fun r => max r.1 (vpn * 4096))).getD (vpn * 4096))

/-- The lane that a fault of an engine operation's next move names: its element's, else the leader. -/
def State.engLane (s : State) (e : Engine) : Nat :=
  match e.op with
  | .gather _ _ _ _ | .scatter _ _ _ _ => (((e.op.moves.drop e.made).find? (fun m => s.moveLacks e m != [])).map (·.lane)).getD e.lead
  | _ => e.lead

/-- An unresolvable page at an engine operation: its warp is killed, and it moves nothing more (R343, R346). -/
def State.pageEngine (s : State) (queue vpn level op : Nat) : State :=
  match mfind s.engines op with
  | none => s
  | some e =>
    if e.stage ≠ 1 || s.engQueue e ≠ queue then s
    else
      match e.op with
      | .coll kind mods _ src dst count root _ _ rank n view _ _ =>
        let z := collSize kind mods
        let reads := (src.toNat, collReads kind mods count root rank n)
        let writes := (dst.toNat, count * z * (if kind = 1 || kind = 3 then n else 1))
        let lacks := if e.sent then s.collAhead e writes.1 writes.2 else s.fetchLacks e.warp e.asked [reads]
        if lacks.any (fun a => a / 4096 == vpn) then
          (s.killTrans e.warp e.lead (firstIn [reads, writes] vpn) level).collEnd op (collStatus view 3) else s
      | _ =>
        match (if e.ran then none else (s.engMissing e).find? (fun a => a / 4096 == vpn)) with
        | none => s
        | some a =>
          (match e.op with
           | .packetCopy _ _ _ _ => s
           | _ => s.killTrans e.warp (s.engLane e) (BitVec.ofNat 64 a) level).modEngine op (fun e => { e with ran := true, status := 1 })

/-- The address that the tap operation at the head of a unit's queue stops at. -/
def State.tapStopPage (s : State) (core : Nat) (e : MxEntry) : Option (Nat × Nat) :=
  match (s.core core).tap.binding with
  | none => none
  | some b =>
    match e.op with
    | .fgath => (match s.gather core e b with
      | .error (.page a) => some (b.warp, a)
      | _ => none)
    | .tapgo => (match s.tileGo core e b with
      | .error (.page a) => some (b.warp, a)
      | _ => none)
    | _ => none

/-- An unresolvable page at the head of a core's matrix queue: the warp is killed, and the operation leaves with no
effect. -/
def State.pageUnit (s : State) (queue vpn level core : Nat) : State :=
  match (s.core core).mx.queue with
  | [] => s
  | e :: _ =>
    let late := s.buffered (s.warp e.warp)
    match e.op with
    | .fgath | .tapgo =>
      (match s.tapStopPage core e with
       | none => s
       | some (k, a) =>
         if a / 4096 ≠ vpn || (s.warp k).queue ≠ queue then s
         else
           let s := s.killTrans k 0 (BitVec.ofNat 64 a) level
           let s := if e.op = .tapgo then s.modTap core (fun T => T.modBinding (fun b => { b with done := true })) else s
           s.tapDone core e FlagSet.none 0 late)
    | _ =>
      if (s.warp e.warp).queue ≠ queue || !(s.fetchLacks e.warp e.asked (s.unitRanges core e)).any (fun a => a / 4096 == vpn) then s
      else (s.killTrans e.warp (e.lanes.headD 0) (firstIn (s.unitRanges core e) vpn) level).leaveUnit core e late

/-- An unresolvable page at a rewrite that the tap unit is to perform. -/
def State.pageRows (s : State) (queue vpn level core : Nat) : State :=
  ((s.core core).tap.queue).foldl (fun s e =>
    match s.rowOp core e false with
    | .error (.page a) =>
      if a / 4096 ≠ vpn || (s.warp e.warp).queue ≠ queue then s
      else (s.killTrans e.warp 0 (BitVec.ofNat 64 a) level).modTap core (fun T =>
        { T with queue := T.queue.filter (fun x => x.id != e.id) })
    | _ => s) s

/-- An unresolvable page at a rewrite that the commit of its warp is to perform (R157). -/
def State.pageCommit (s : State) (queue vpn level : Nat) : State :=
  s.warps.foldl (fun (s : State) x =>
    match (if x.2.queue = queue then (s.rowLacks [x.1]).find? (fun a => a.2 / 4096 == vpn) else none) with
    | some (k, a) => s.killTrans k 0 (BitVec.ofNat 64 a) level
    | none => s) s

/-- An unresolvable page at an ADPQ's entry. -/
def State.pageAdpq (s : State) (queue vpn level f : Nat) : State :=
  match mfind s.flights f with
  | none => s
  | some F =>
    let hits (a : Access) : Bool := !a.done && (match a.op with
      | .adpq id => (adpEntry a.va id).toNat / 4096 == vpn
      | _ => false)
    match F.accs.find? hits with
    | none => s
    | some a =>
      if (s.warp F.warp).queue ≠ queue then s
      else
        let s := s.killTrans F.warp a.lane (match a.op with
          | .adpq id => adpEntry a.va id
          | _ => a.va) level
        (State.completeOp { s with flights := merase s.flights f } F.warp f).quietCheck F.warp

/-- Everything that waits for an unresolvable page of a queue (R345, R346). -/
def State.pageLost (s : State) (queue vpn level : Nat) : State :=
  let s := ((s.warps.filter (fun x => x.2.queue == queue && !x.2.ended)).map (·.1)).foldl (fun s k => s.pageKill vpn level k) s
  let s := (s.engines.map (·.1)).foldl (fun s op => s.pageEngine queue vpn level op) s
  let s := (s.cores.map (·.1)).foldl (fun s c => (s.pageUnit queue vpn level c).pageRows queue vpn level c) s
  let s := s.pageCommit queue vpn level
  (s.flights.map (·.1)).foldl (fun s f => s.pageAdpq queue vpn level f) s

/-- The POOL record of a deferred push that cannot be resolved (R110, R366). -/
def State.poolRecord (s : State) (die pool queue : Nat) (va : DWord) : State :=
  s.ras die {
    type := 0x0C, sub := 1, cause := 0x101, queue := queue, part := (s.die die).poolPart pool, va := va
    info0 := BitVec.ofNat 32 pool }

/-- PAGE_FAULT_RESOLVED: the firmware resolves a page fault, once the page table translates its page, or declares it
unresolvable (R110, R345). A deferred push whose page is there goes on when its grace period next completes; one that cannot be
resolved is left off the list. -/
def execPageFaultResolved (n : Nat) (resolved : Bool) (s : State) : Host.Outcome State Fault Refusal :=
  .next (match s.faults[n]? with
    | none => s
    | some x =>
      let rest (s : State) : State := { s with faults := s.faults.eraseIdx n }
      if !s.served x.queue then s
      else
      match x.pool with
      | some (die, pool, va) =>
        if resolved then
          (match s.look x.queue va.toNat with
           | some _ => rest s
           | none => s)
        else
          let s := (rest s).modDie die (fun D => { D with dfree := D.dfree.eraseP (fun e => e.1 == va && e.2.1 == pool && e.2.2.1 != 0) })
          s.poolRecord die pool x.queue va
      | none =>
        if resolved then
          (match s.walk x.queue (x.vpn * 4096) with
           | .ok t => x.cores.foldl (fun s c => s.addTrans c t) (rest s)
           | .error _ => s)
        else (rest s).pageLost x.queue x.vpn x.level)

/-! ### Uncorrectable errors -/

/-- ECC_UNCORRECTABLE: an uncorrectable error marks a datum as poisoned (R340). -/
def execEccUncorrectable (p : PoisonAt) (s : State) : Host.Outcome State Fault Refusal :=
  .next (match p with
    | .mem sector =>
      let s := s.addPoison sector
      if (mfind s.l2 (sector / 4)).isSome || s.badHbm.contains sector then s else { s with badHbm := sector :: s.badHbm }
    | .spad b word => s.modBlock b (fun B =>
        if word * 4 < B.size && !B.spadPoison.contains word then { B with spadPoison := word :: B.spadPoison } else B)
    | .reg k r lane => s.modWarp k (fun W =>
        if r < W.alloc && lane < W.width then { W with poison := minsert W.poison (r * 64 + lane) true } else W)
    | .acc core cell => s.modMx core (fun U =>
        if cell < 32768 && !U.accPoison.contains cell then { U with accPoison := cell :: U.accPoison } else U))

end Sys2Proof.Machine
end

