-- ==== Sys2Proof/Machine/Rounds.lean ====
section
/-! DEFINITION. Quanta and rounds: where a quantum ends, what a round's commit performs and in which order, what the
next round brings, redundant blocks and their comparison, and the report of a stuck round (R97, R111 to R113, R127,
R128, R136, R361 to R364, R382). -/

namespace Sys2Proof.Machine

/-! ### The end of a quantum (R111) -/

/-- Whether a register's pending result is one that the next round brings. -/
def State.roundFlight (s : State) (k f : Nat) (F : Flight) : Bool :=
  F.round && (F.held || F.ready || (s.bufOf k).any (fun d => match d with
    | .mx _ e => e.flight == f
    | _ => false))

/-- Whether what a slice waits for can only come with a later round, and has come as far as it can in this one. -/
def State.waitsRound (s : State) (k : Nat) (i : Nat) (c : Cond) : Bool :=
  let W := s.warp k
  match c with
  | .regs rs => s.flights.all (fun f => f.2.warp != k || !f.2.regs.any rs.contains || s.roundFlight k f.1 f.2)
  | .counter cls n => W.settle.counter cls ≤ n
  | .regang a _ => !inMask (W.regangFree a) i
  | .barrier _ | .phaseBit _ _ | .txseal | .words _ _ _ _ _ | .grace _ | .matrix => true
  | .batch b | .ticket b => !W.settle.outs.any (fun o => o.2.1 == b)
  | .mread _ _ ops _ => !s.unitOwes (s.mxCore W) ops
  | .tap => W.outs.all (fun o => o.1 != 6 || o.2.2)
  | .fence rel acq upto => s.flights.any (fun f => f.2.warp == k && decide (f.1 ≤ upto) && (f.2.held || f.2.round) &&
      (rel.isSome || (acq && f.2.brings)))
  | .held l => l.any (fun x => (mfind s.holds x).any (fun h => h.1 != k && (s.warp h.1).launch == W.launch))
  | .pages _ | .prefetch | .moved _ | .verdict | .verdicts | .pool _ | .walks _ | .drain _ => false

/-- Whether a slice has come to the end of its quantum: it has exited, has retired Q, or waits for a later round. -/
def State.sliceDone (s : State) (k i : Nat) : Bool :=
  let W := s.warp k
  let x := W.slice i
  x.exited || s.atQuantum W x || (match x.wait with
    | some c => !x.woken && !s.condOver k (sliceBit i) c && s.waitsRound k i c
    | none => false)

/-- Whether the quantum of a warp can end: every slice has come to its end and no continuation is unconfirmed (R111). -/
def State.canEnd (s : State) (k : Nat) : Bool :=
  let W := s.warp k
  W.started && !W.ended && W.twinOf.isNone && s.buffered W && !W.qdone && W.forks == [] &&
    (List.range W.slices.length).all (s.sliceDone k)

/-! ### Warps of a commit, in ascending identifier -/

/-- Insert a warp by its identifier, and on equal ones by the rule for ties (R122). -/
def insertWid (x : Nat × Warp) : List (Nat × Warp) → List (Nat × Warp)
  | [] => [x]
  | y :: l => if x.2.before y.2 then x :: y :: l else y :: insertWid x l

/-- Warps in ascending logical identifier (R122). -/
def State.byWid (s : State) (l : List Nat) : List Nat := (l.foldl (fun acc k => insertWid (k, s.warp k) acc) []).map (·.1)

/-- The root warps of some blocks, ended ones among them. -/
def State.rootsIn (s : State) (p : Nat → Bool) : List Nat :=
  s.byWid ((s.warps.filter (fun x => p x.2.block && x.2.twinOf.isNone)).map (·.1))

/-! ### The commit of one warp (R112) -/

/-- Whether every access of a flight is a store. -/
def Flight.plain (F : Flight) : Bool := F.accs.all (fun a => match a.op with
  | .write _ | .ste _ _ _ | .discard => true
  | _ => false)

/-- The accesses of a flight take place at their homes. -/
def State.commitFlight (s : State) (f : Nat) : State :=
  match mfind s.flights f with
  | none => s
  | some F =>
    let s := s.modFlight f (fun F => { F with held := false })
    if F.accs.any (·.adpq) then s.adpqFill f
    else
      (F.accs.zipIdx.foldl (fun (s : State) (x : Access × Nat) =>
        if (s.warp F.warp).killed then s.setAccess f x.2 { x.1 with done := true }
        else
        let r := s.arriveAt F.warp x.1
        (r.1.setAccess f x.2 r.2).signalled F x.1) s).coverStores f

/-- A rewrite or release of a row applies at the commit (R157); one whose page this commit has taken away waits in the tap unit. -/
def State.commitRow (s : State) (core : Nat) (e : TapEntry) : State :=
  match s.rowOp core e true with
  | .ok s => s
  | .error (.poison y) => s.killRead e.warp 0 y
  | .error (.page _) => s.tapQueue core e

/-- Supply a flight's values at the commit: they land at the round start. -/
def State.supply (s : State) (f : Nat) (vals : List (Nat × Nat × Word)) (accs : List Access) : State :=
  s.modFlight f (fun F => { F with vals := vals, accs := accs, ready := true, held := false })

/-- Step 1 of R112: writes to global memory and scratchpad, in program order, with the race detector's checks. -/
def State.commitStore (s : State) (k : Nat) (d : Deferred) : State :=
  let b := (s.warp k).block
  match d with
  | .flight f => if ((mfind s.flights f).map (·.plain)).getD false then s.commitFlight f else s
  | .spad ws => ws.foldl (fun (s : State) (r : Nat × List Byte) =>
      let s := s.raceSpad k true r.1
      if (s.warp k).killed then s else s.spadWrite k b r.1 r.2) s
  | .pba a n => s.spadWrite k b a (leBytes 8 (pbaVal (BitVec.ofNat 64 (leNat (s.spadRead b a 8))) n).toNat)
  | .loads true l => l.foldl (fun (s : State) (x : Nat × DWord × Nat × Nat) => s.raceSpad k false x.2.2.1) s
  | .loads false l => l.foldl (fun (s : State) (x : Nat × DWord × Nat × Nat) => s.raceCheck k false x.2.1 x.2.2.1) s
  | .tap core e => if e.isRow then s.commitRow core e else s
  | _ => s

/-- Step 2 of R112: atomic operations, deferred frees and what else is performed at its unit, in program order. -/
def State.commitAtomic (s : State) (k : Nat) (d : Deferred) : State :=
  let W := s.warp k
  let die := W.core / 192
  let dstOf (f : Nat) : Nat := ((mfind s.flights f).map (·.dst)).getD 0
  match d with
  | .flight f => if ((mfind s.flights f).map (·.plain)).getD true then s else s.commitFlight f
  | .amos w dst kind wide lanes f =>
    let r := s.amosGo k W.block kind wide lanes
    (match r.2.2.2 with
     | i :: _ => (r.1.supply f [] []).killPoison w i (((lanes.find? (fun l => l.1 == i)).map (fun l => BitVec.ofNat 64 l.2.1)).getD 0) none
     | [] => (r.1.supply f (amoVals dst wide r.2.1) []).modWarp w (fun W => W.raise r.2.2.1.bits))
  | .dfree f l =>
    let p := s.partOfWarp W
    let r := s.dfreeGo die p W.svc l
    (r.1.dfreeStart die p).supply f (r.2.map (fun x => (dstOf f, x.1, x.2))) []
  | .palloc f l =>
    let r := s.pallocGo W l
    r.1.supply f (pairVals (dstOf f) r.2) []
  | .emit f node recs =>
    let r := s.emitGo k f 0xFFFF node.toNat recs
    r.1.supply f (r.2.1.map (fun x => (dstOf f, x.1, BitVec.ofNat 32 x.2))) r.2.2
  | .launch f lanes record signal =>
    let r := s.childOffer k record signal
    r.1.supply f (lanes.map (fun i => (dstOf f, i, boolWord r.2))) []
  | .gpreq f lanes =>
    let r := s.gpRequest (s.partOfWarp W)
    r.1.supply f (pairVals (dstOf f) (lanes.map (fun i => (i, r.2)))) []
  | .qsp w => if (s.warp w).ended then s else s.quietPoint w
  | .ndone => s.ndone k
  | .vack cid view mask => s.vackGo cid view mask
  | .vjoin => s.vjoinGo
  | .qend q idx => s.qendGo q (BitVec.ofNat 32 idx)
  | .rasw a user => s.ras die (rasRecord (s.homeBytes k a.toNat 64) (s.warp k).core user)
  | _ => s

/-- The redundant copy's transaction ends with the statuses of the one that was validated (R136). -/
def State.mirrorSeal (s : State) (k f : Nat) : State :=
  match mfind s.flights f, (s.warp k).tx with
  | some F, some t =>
    let s := s.modWarp k (fun W => { W with
      tx := none
      cnt := (lanesIn (maskOf ((t.lanes.map (fun l => l.1 / 4)))) W.width).foldl (fun m i => mput 0 m i (mget 0 t.cnt i)) W.cnt
      txAddr := (s.warp F.warp).txAddr
      txTries := (s.warp F.warp).txTries
      txSince := (s.warp F.warp).txSince })
    (s.launchFlight { warp := k, cls := 7, accs := [], vals := F.vals, regs := F.regs, round := true }).wake k (fun x => x == .txseal)
  | _, _ => s

/-- The warps whose transactions the TXSEALs of a buffer end, in order: a twin's TXSEAL stands in the buffer of its root. -/
def sealsOf (buf : List Deferred) : List Nat := buf.filterMap (fun d => match d with
  | .txseal w _ => some w
  | _ => none)

/-- Step 3 of R112: validation and commit of a transaction, whose statuses a redundant copy's takes over: `copies` gives the
copy's warp for each warp. -/
def State.commitSeal (s : State) (copies : List (Nat × Nat)) (d : Deferred) : State :=
  match d with
  | .txseal w r =>
    if (s.warp w).tx.isNone then s
    else
      let f := s.nextId
      let s := (s.txSeal w r true).wake w (fun x => x == .txseal)
      match mfind copies w with
      | some k' => s.mirrorSeal k' f
      | none => s
  | _ => s

/-- The operations whose completion becomes visible to a warp at the boundary (R97, R98). -/
def Warp.visible (W : Warp) : List Nat :=
  (W.outs.map (fun o => o.2.1)).filter (fun o => !W.settle.outs.any (fun x => x.2.1 == o))

/-- The held writes of one operation apply, and what a tile sends to memory. -/
def State.applyOp (s : State) (core op : Nat) : State :=
  (s.engApply op).tapApply core op

/-- The operations behind a batch's completion, in the order in which their unit ran them. -/
def State.batchOps (s : State) (k op : Nat) : List Nat :=
  match mfind s.engines op with
  | some e => (match e.op with
    | .batch ops => (s.core (s.warp k).core).mx.order.filter ops.contains
    | _ => [])
  | none => []

/-- The completion times of the writes of a batch's operations are the batch's (R98, R176). -/
def State.batchTimes (s : State) (op : Nat) : State :=
  match mfind s.engines op with
  | none => s
  | some e =>
    match e.op with
    | .batch ops =>
      let xs := ops.filterMap (mfind s.engines)
      { s with engines := minsert s.engines op { e with
          gwct := xs.foldl (fun g x => gwctMax g x.gwct) e.gwct
          gwctd := xs.foldl (fun g x => gwctMax g x.gwctd) e.gwctd } }
    | _ => s

/-- Step 4 of R112: the writes of engine operations whose completions become visible at this boundary, and the
fall of their counters (R97). -/
def State.commitEngines (s : State) (k : Nat) : State :=
  let core := (s.warp k).core
  State.settleWarp ((s.warp k).visible.foldl (fun s op =>
    let units := s.batchOps k op
    let s := (units.foldl (fun (s : State) (o : Nat) => s.applyOp core o) s).batchTimes op
    let s := State.applyOp { s with engines := units.foldl merase s.engines } core op
    s.modMx core (fun U => { U with order := U.order.filter (fun o => !(units.contains o || o == op)) })) s) k

/-- The four steps of R112 for one warp; a warp that is killed on the way performs no more, but its engine operations complete
(R343). -/
def State.commitWarp (s : State) (k : Nat) (copy buf : List Deferred) : State :=
  let live (s : State) (f : State → State) : State := if (s.warp k).killed then s else f s
  let t := buf.foldl (fun s d => live s (fun s => s.commitStore k d)) s
  let t := buf.foldl (fun s d => live s (fun s => s.commitAtomic k d)) t
  let t := buf.foldl (fun s d => live s (fun s => s.commitSeal ((sealsOf buf).zip (sealsOf copy)) d)) t
  t.commitEngines k

/-- The batches of a redundant copy complete with those of the warp whose operations were performed (R136, R176). -/
def State.mirrorBatches (s : State) (k k' : Nat) : State :=
  let W := s.warp k
  let ended (b : Nat × List Nat × Nat) : Bool := W.outs.any (fun o => o.2.1 == b.2.2 && o.2.2)
  ((s.warp k').batches.filter (fun b => W.batches.any (fun a => a.1 == b.1 && ended a))).foldl (fun s b =>
    let e := (W.batches.find? (fun a => a.1 == b.1)).bind (fun a => mfind s.engines a.2.2)
    let s : State := { s with engines := mupdate (b.2.1.foldl (fun m o => mupdate m o (fun x => { x with stage := 2 })) s.engines) b.2.2 (fun x => { x with
      stage := 2
      flags := (e.map (·.flags)).getD 0
      gwct := (e.map (·.gwct)).getD 0
      gwctd := (e.map (·.gwctd)).getD 0 }) }
    s.completeOp k' b.2.2) s

/-- The operations of a redundant copy's batches that are over are forgotten. -/
def State.dropMirrored (s : State) (k' : Nat) : State :=
  let W := s.warp k'
  let gone := (W.batches.filter (fun b => !W.outs.any (fun o => o.2.1 == b.2.2))).foldr (fun b acc => b.2.1 ++ acc) []
  { s with engines := gone.foldl merase s.engines }

/-- What the copy of a committed entry takes from it (R136): the results of what was performed once, and in its own
block the scratchpad's part. -/
def State.mirrorEntry (s : State) (k : Nat) (x : Deferred × Deferred) : State :=
  let take (f f' : Nat) : State := match mfind s.flights f with
    | none => s
    | some F => s.modFlight f' (fun G => { G with vals := F.vals, accs := F.accs, ready := F.ready, held := false })
  match x with
  | (.flight f, .flight f') => take f f'
  | (.dfree f _, .dfree f' _) => take f f'
  | (.palloc f _, .palloc f' _) => take f f'
  | (.emit f _ _, .emit f' _ _) => take f f'
  | (.launch f _ _ _, .launch f' _ _ _) => take f f'
  | (.gpreq f _, .gpreq f' _) => take f f'
  | (.engine o, .engine o') => { s with engines := mupdate s.engines o (fun e => { e with mirror := some o' }) }
  | (.mx _ e, .mx _ e') => { s with engines := mupdate s.engines e.id (fun x => { x with mirror := some e'.id }) }
  | (.tap _ e, .tap core' e') =>
    if e.isRow then s.commitStore k (.tap core' e')
    else
      { s with engines := mupdate s.engines e.id (fun x => { x with mirror := some e'.id }) }
  | (_, .spad ws) => s.commitStore k (.spad ws)
  | (_, .pba a n) => s.commitStore k (.pba a n)
  | (_, .amos w dst kind wide lanes f) => s.commitAtomic k (.amos w dst kind wide lanes f)
  | (_, .qsp w) => s.commitAtomic k (.qsp w)
  | (_, .ndone) => s.modWarp k (fun W => { W with ndone := true })
  | _ => s

/-- An engine operation goes to its engine after the commit, a killed warp's too (R128, R343). What is performed once goes there for the first copy alone
(R136). -/
def State.sendDeferred (s : State) (k : Nat) (shadow : Bool) (d : Deferred) : State :=
  match d with
  | .engine op =>
    if shadow then s
    else
      (match (mfind s.engines op).map (·.cls) with
       | some 5 => s.collArrive op
       | _ => s.engReach op)
  | .mx core e => if shadow then s else s.modMx core (fun U => { U with queue := U.queue ++ [e] })
  | .tap core e => if shadow || e.isRow then s else s.tapQueue core e
  | _ => s

/-- The sectors of global memory that the commit of a warp touches. -/
def State.commitSectors (s : State) (k : Nat) : List Nat :=
  ((s.warp k).buf.flatMap (fun d => match d with
    | .flight f => (((mfind s.flights f).map (·.accs)).getD []).flatMap (·.sectors)
    | .txseal w _ => (s.txAlive w).flatMap (·.2.foot)
    | _ => [])) ++
  s.engines.flatMap (fun e => if e.2.warp = k then e.2.held.map (·.1 / 32) else [])

/-- The order in which the warps of a commit take their turns, of some in ascending identifier: one that touches a sector which an
escalated transaction of another holds, whose TXSEAL this commit performs, comes after those that touch none (R104, log entry
75). -/
def State.commitOrder (s : State) (ks : List Nat) : List Nat :=
  if s.holds = [] then ks
  else
    let sealed := ks.flatMap (fun k => sealsOf (s.warp k).buf)
    let held (k : Nat) : Bool :=
      let sectors := s.commitSectors k
      s.holds.any (fun h => sealed.contains h.2.1 && s.rootOf 4 h.2.1 != k && sectors.contains h.1)
    ks.filter (fun k => !held k) ++ ks.filter held

/-- A round, or the quantum of a redundant block, commits: each warp in turn, then the engine operations (R112, R128).
`pairs` says which warps have a redundant copy that takes part. -/
def State.commitAll (s : State) (ks : List Nat) (pairs : Bool) : State :=
  let pair (k : Nat) : Option Nat := if pairs then s.pairOf k else none
  let bufs := (s.commitOrder ks).map (fun k => (k, pair k, (s.warp k).buf))
  let copyBuf (k' : Nat) : List Deferred := (s.warp k').buf
  let one (s : State) (x : Nat × Option Nat × List Deferred) : State :=
    let s := match x.2.1 with
      | some k' => s.mirrorBatches x.1 k'
      | none => s
    let s := s.commitWarp x.1 ((x.2.1.map copyBuf).getD []) x.2.2
    match x.2.1 with
    | none => s
    | some k' =>
      let s := ((x.2.2.zip (copyBuf k')).foldl (fun s e => s.mirrorEntry k' e) s)
      (s.commitEngines k').dropMirrored k'
  let s := bufs.foldl one s
  let send (s : State) (x : Nat × Option Nat × List Deferred) : State :=
    let s := x.2.2.foldl (fun s d => s.sendDeferred x.1 false d) s
    match x.2.1 with
    | none => s
    | some k' => (copyBuf k').foldl (fun s d => s.sendDeferred k' true d) s
  let s := bufs.foldl send s
  bufs.foldl (fun (s : State) x =>
    let s := s.modWarp x.1 (fun W => { W with buf := [] })
    match x.2.1 with
    | none => s
    | some k' => s.modWarp k' (fun W => { W with buf := [] })) s

/-- The largest completion time among the writes of some warps and their twins that a commit has performed. -/
def State.writesOver (s : State) (ks : List Nat) : DWord :=
  let mine (k : Nat) : Bool := ks.contains (s.rootOf 4 k)
  let g := s.warps.foldl (fun (g : DWord) x => if mine x.1 then gwctMax g x.2.gwct else g) 0
  let g := s.flights.foldl (fun (g : DWord) f =>
    if mine f.2.warp then f.2.accs.foldl (fun (g : DWord) a => gwctMax g a.gwct) g else g) g
  s.engines.foldl (fun (g : DWord) e => if mine e.2.warp then gwctMax g e.2.gwct else g) g

/-! ### The start of a round (R112) -/

/-- Whether the commit of some warps meets a sector that an escalated transaction holds which does not end with this commit, of a
warp that the commit does not count among its own: it waits (R104, log entry 75). -/
def State.commitHeld (s : State) (own : Nat → Bool) (ks : List Nat) : Bool :=
  let sectors := ks.flatMap s.commitSectors
  s.holds.any (fun h => !own h.2.1 && sectors.contains h.1)

/-- What a slice of a warp waits for that a round start decides. -/
def State.startWait (s : State) (k : Nat) (x : Slice) : Slice :=
  let W := s.warp k
  match x.wait with
  | some (.tap) => { x with woken := x.woken || W.counter 6 == 0 }
  | some (.words l _ _ _ _) => { x with woken := x.woken || s.wordsDiffer l }
  | some (.grace g) => { x with woken := x.woken || g ≤ s.gpDone (s.partOfWarp W) }
  | some (.mread row tile ops none) =>
    if s.unitOwes (s.mxCore W) ops then x
    else { x with wait := some (.mread row tile ops (some ((s.core (s.mxCore W)).mx.rowOf row tile))), woken := true }
  | _ => x

/-- Loads and stores that have come are counted at once; what engines have completed is counted at the commits, with its writes
(R97, R246). -/
def Warp.settleLate (W : Warp) : Warp := { W with outs := settleOuts W.outs [2, 3, 4, 5, 6] }

/-- A round begins for a matrix unit: what it has done until now shows in the round (R177). -/
def MxUnit.nextRound (U : MxUnit) : MxUnit := { U with recent := [], errShown := U.err }

/-- What has come lands, and a new quantum begins for a warp and its twins (R97, R112, R382). -/
def State.startWarp (s : State) (k : Nat) : State :=
  let fs := (s.flights.filter (fun f => s.rootOf 4 f.2.warp == k && f.2.complete)).map (·.1)
  let s := fs.foldl State.landFlight s
  let ws := if (s.warp k).ended then [k] else s.family k
  ws.foldl (fun s j =>
    let f (x : Slice) : Slice := { s.startWait j x with retired := 0 }
    s.modWarp j (fun W => { W.settleLate with
      slices := W.slices.map f
      savePc := W.savePc.map f
      forks := W.forks.map (fun x => { x with base := x.base.map (fun _ => 0) })
      qwait := false
      qdone := W.killed
      watchdog := 0 })) s

/-- The phases of a barrier with a count complete, the warps that have arrived taken in ascending identifier: the last arriver of
each is its warp of the highest (R127, R220). -/
def State.startCounted (s : State) (b n : Nat) : Nat → State
  | 0 => s
  | fuel + 1 =>
    let x := s.bar b n
    if x.expect = 0 || x.arrived.length < x.expect then s
    else
      let ks := s.byWid x.arrived
      let s := s.releaseBar b n (ks.take x.expect).contains
      let left := ks.drop x.expect
      let s := s.modBar b n (fun x => if left = [] && x.here = [] then {} else { x with arrived := left })
      if left = [] then s else s.startCounted b n fuel

/-- The full phases of a block's barriers complete (R127, R220). -/
def State.startBars (s : State) (b : Nat) : State :=
  match s.block? b with
  | none => s
  | some B => (B.bars.map (·.1)).foldl (fun s n =>
      if (s.bar b n).expect = 0 then (if s.phaseFull b n then s.completePhase b n else s)
      else s.startCounted b n ((s.bar b n).arrived.length + 1)) s

/-! ### Redundant blocks (R136, R363, R364) -/

/-- CRC-64 with its polynomial reflected, byte by byte. -/
def crcByte (c : DWord) (b : Byte) : DWord :=
  (List.range 8).foldl (fun (c : DWord) _ => if c.getLsbD 0 then (c >>> 1) ^^^ 0xC96C5795D7870F42 else c >>> 1) (c ^^^ b.setWidth 64)

/-- The CRC-64 of R136. -/
def crc64 (l : List Byte) : DWord := ~~~(l.foldl crcByte (~~~(0 : DWord)))

/-- The 44 bytes that bytes stored within one sector contribute to a signature (R136); bytes not stored are zero (log
entry 24). -/
def sigStore (a : Nat) (bs : List Byte) : List Byte :=
  let off := a % 32
  leBytes 8 (a / 32 * 32) ++ (List.replicate off 0 ++ bs ++ List.replicate (32 - off - bs.length) 0) ++
    leBytes 4 (2 ^ off * (2 ^ bs.length - 1))

/-- What a range of stored bytes contributes, sector by sector. -/
def sigRun (a : Nat) (bs : List Byte) : List Byte :=
  (cutSectors a bs.length).foldr (fun r acc => sigStore r.1 ((bs.drop (r.1 - a)).take r.2) ++ acc) []

/-- What one entry of a buffer contributes to the signature: each lane's access is a store of the stream, in turn, DEDUCED (log
entry 77); the update of a phase-bit barrier is no store of it, DESIGN CHOICE (log entry 88). -/
def State.sigEntry (s : State) (d : Deferred) : List Byte :=
  match d with
  | .spad ws => ws.foldr (fun r acc => sigRun r.1 r.2 ++ acc) []
  | .flight f =>
    (((mfind s.flights f).map (·.accs)).getD []).foldr (fun a acc => (match a.op with
      | .write bs => sigRun a.pa bs
      | .ste fmt hi v => sigRun a.pa [(steByte fmt hi (s.inK4x a.pa) (s.byteAt a.pa) v).1]
      | .discard => (List.range 4).foldr (fun j acc => sigStore (a.pa / 128 * 128 + 32 * j) [] ++ acc) []
      | _ => []) ++ acc) []
  | _ => []

/-- The warps of a block in the order of their identifiers, with their buffers. -/
def State.copyBufs (s : State) (b : Nat) : List (List Deferred) :=
  (((s.block? b).map (·.warps)).getD []).map (fun k => (s.warp k).buf)

/-- The signature of a copy's store stream (R136): the buffers of its warps joined in the order of the warps, DEDUCED (log entry
77). -/
def State.signature (s : State) (b : Nat) : DWord :=
  crc64 ((s.copyBufs b).foldr (fun l acc => l.foldr (fun d acc => s.sigEntry d ++ acc) acc) [])

/-- An operation that is performed once, without the numbers that its copy has of its own (R363). -/
def State.onceOf (s : State) (d : Deferred) : Option (Deferred × List (AccOp × DWord) × Option EngOp × List (List Host.Cell)) :=
  match d with
  | .flight f =>
    let F := (mfind s.flights f).getD { warp := 0, cls := 7, accs := [] }
    if F.plain then none else some (.flight 0, F.accs.map (fun a => (a.op, a.va)), none, [])
  | .dfree _ l => some (.dfree 0 l, [], none, [])
  | .palloc _ l => some (.palloc 0 l, [], none, [])
  | .emit _ n l => some (.emit 0 n l, [], none, [])
  | .launch _ l r g => some (.launch 0 l r g, [], none, [])
  | .gpreq _ l => some (.gpreq 0 l, [], none, [])
  | .amos _ d k w l _ => some (.amos 0 d k w l 0, [], none, [])
  | .txseal w d => some (.txseal 0 d, [], none, (s.txAlive w).map (fun l => l.2.writes))
  | .engine op => some (.engine 0, [], (mfind s.engines op).map (·.op), [])
  | .mx _ e => some (.mx 0 { e with id := 0, warp := 0, block := 0, flight := 0 }, [], none, [])
  | .tap _ e => some (.tap 0 { e with id := 0, warp := 0, block := 0 }, [], none, [])
  | .qsp _ => some (.qsp 0, [], none, [])
  | .ndone => some (.ndone, [], none, [])
  | .vack c v m => some (.vack c v m, [], none, [])
  | .vjoin => some (.vjoin, [], none, [])
  | .qend q i => some (.qend q i, [], none, [])
  | .rasw a u => some (.rasw a u, [], none, [])
  | .spad _ | .loads _ _ | .pba _ _ => none

/-- The operations of a copy that are performed once. -/
def State.onceList (s : State) (b : Nat) : List (List (Deferred × List (AccOp × DWord) × Option EngOp × List (List Host.Cell))) :=
  (((s.block? b).map (·.warps)).getD []).map (fun k => (s.warp k).buf.filterMap s.onceOf)

/-- Whether a copy has met a kill cause (R363). -/
def State.copyDoomed (s : State) (b : Nat) : Bool := s.warps.any (fun x => x.2.block == b && x.2.doomed)

/-- Whether every warp of a block has come to the end of its quantum. -/
def State.copyDone (s : State) (b : Nat) : Bool :=
  s.warps.all (fun x => x.2.block != b || x.2.twinOf.isSome || x.2.ended || x.2.qdone)

/-- A warp returns to its checkpoint; completions that have come since stay (R363). -/
def Warp.revert (old W : Warp) : Warp :=
  { old with
    outs := old.outs.map (fun o => (o.1, o.2.1, o.2.2 || W.outs.any (fun x => x.2.1 == o.2.1 && x.2.2)))
    held := W.held
    core := W.core
    swapped := W.swapped }

/-- The units of a core return to the checkpoint as far as issue has changed them. -/
def State.revertUnits (s : State) (core b : Nat) (U : MxUnit) (T : TapUnit) : State :=
  let s := s.modMx core (fun V => if V.owner = some b || V.owner.isNone then { V with owner := U.owner } else V)
  s.modTap core (fun V =>
    let mine := T.binding.any (fun x => x.block == b && x.done)
    { V with
      seq := mput 0 V.seq b (mget 0 T.seq b)
      binding := if mine then T.binding else V.binding
      hold := if mine then T.hold.map (fun h => (h.1, if (mfind V.hold h.1).any (fun x => x.state == 0) then { h.2 with state := 0 } else h.2))
        else V.hold })

/-- A copy returns to its checkpoint: nothing that it issued in the quantum exists (R363). -/
def State.revertCopy (s : State) (b : Nat) : State :=
  match s.block? b with
  | none => s
  | some B =>
    let new (k : Nat) : Bool := decide (B.mark ≤ k)
    let mine (k : Nat) : Bool := (s.warp k).block == b
    let packet (e : Engine) : Bool := match e.op with
      | .packetCopy _ _ _ _ => true
      | _ => false
    let gone (k : Nat) : Bool := mine k && new k && (mfind B.saved k).isNone
    let s : State := { s with
      flights := s.flights.filter (fun f => !(new f.1 && mine f.2.warp))
      engines := s.engines.filter (fun e => packet e.2 || !(new e.1 && e.2.block == b))
      parts := s.parts.map (fun p => (p.1, { p.2 with gpWait := p.2.gpWait.filter (fun k => !gone k) })) }
    let s : State := { s with warps := s.warps.filterMap (fun x =>
      if x.2.block != b then some x
      else
        match mfind B.saved x.1 with
        | some old => some (x.1, old.revert x.2)
        | none => if new x.1 then none else some x) }
    let s := s.modBlock b (fun B => { B with bars := B.barsSaved })
    match B.unitsSaved with
    | some (U, T) => s.revertUnits B.core b U T
    | none => s

/-- The REDUND record (R366). -/
def State.redundRecord (s : State) (b sub : Nat) (x y : DWord) : State :=
  match s.block? b with
  | none => s
  | some B =>
    let r := s.warpRec (s.warp (B.warps.headD 0)) 5 sub 0
    s.ras (B.core / 192) { r with
      info0 := BitVec.ofNat 32 B.quantum
      info1 := x.setWidth 32
      info2 := y.setWidth 32 }

/-- Kill every warp of a block. -/
def State.killBlock (s : State) (b : Nat) : State := ((s.blockWarps b).map (·.1)).foldl State.killOne s

/-- Both copies of a block start a quantum. -/
def State.startCopies (s : State) (b t : Nat) : State :=
  let ks := s.rootsIn (fun x => x == b || x == t)
  let s := (s.startBars b).startBars t
  let s := ks.foldl State.startWarp s
  let clear (s : State) (x : Nat) : State := match s.block? x with
    | some B => s.modMx B.core MxUnit.nextRound
    | none => s
  (((clear (clear s b) t).nextQuantum b).nextQuantum t)

/-- The blocks of a pair end once their copies have agreed and no warp of them is left. -/
def State.endCopies (s : State) (b t : Nat) : State := (s.endBlock b).endBlock t

/-- The copies of a block are compared when both have ended the quantum (R136, R363, R364): they agree, and at D0 the
quantum commits at once; or they run it again, once; or both are killed. -/
def State.compareCopies (s : State) (b : Nat) : State :=
  match s.block? b with
  | none => s
  | some B =>
    match B.twinBlock with
    | none => s
    | some t =>
      if !B.primary || !B.alive || B.agreed || !s.copyDone b || !s.copyDone t then s
      else
        let x := s.signature b
        let y := s.signature t
        let alone := ((mfind s.launches B.launch).map (·.dets)).getD 0 = 0
        let ks := s.rootsIn (· == b)
        if alone && s.commitHeld (fun k => [b, t].contains (s.warp k).block) ks then s
        else if alone && s.rowLacks ks != [] then s.walkRows (s.rowLacks ks)
        else if x == y && s.onceList b == s.onceList t && !s.copyDoomed b && !s.copyDoomed t then
          let s := s.modBlock b (fun B => { B with agreed := true })
          if alone then (((s.commitAll (s.rootsIn (· == b)) true).ndoneOver B.launch).startCopies b t).endCopies b t
          else s
        else if B.reruns = 0 then
          let s := (s.redundRecord b 1 x y).modBlock b (fun B => { B with reruns := 1 })
          (s.revertCopy b).revertCopy t
        else
          let s := s.redundRecord b 2 x y
          let s := s.modLaunch B.launch (fun L => { L with failed := true })
          (((s.killBlock b).killBlock t).modBlock b (fun B => { B with agreed := true })).endCopies b t

/-- The primary of a block's pair, if it has one. -/
def State.primaryOf (s : State) (b : Nat) : Option Nat :=
  match s.block? b with
  | none => none
  | some B => B.twinBlock.map (fun t => if B.primary then b else t)

/-- QUANTUM_END: a warp's quantum ends (R111). Once both copies of a redundant block have come to its end, they are
compared (R363). -/
def execQuantumEnd (k : Nat) (s : State) : Host.Outcome State Fault Refusal :=
  .next (
    let s := if s.canEnd k then s.endQuantum k else s
    match s.primaryOf (s.warp k).block with
    | some b => s.compareCopies b
    | none => s)

/-! ### Rounds of a launch -/

/-- Whether the clusters of a launch's current wave have all started (R126, R127). In the round after the one in which the last
warp of a wave exits, the next wave is due. -/
def State.waveStarted (s : State) (l : Nat) (L : Launch) : Bool :=
  L.aborted || L.next == L.n || (L.next != 0 && L.next % (max 1 L.wave) == 0 &&
    !(decide (L.exitRound < L.round) && s.warps.all (fun x => x.2.launch != l || x.2.ended)))

/-- The warps of a launch that take part in its round, second copies apart: those that live, and those that have ended
with something to commit. -/
def State.roundWarps (s : State) (l : Nat) : List Nat :=
  s.byWid ((s.warps.filter (fun x => x.2.launch == l && x.2.twinOf.isNone && !s.shadow x.2.block &&
    (!x.2.ended || x.2.buf != [] || x.2.outs != []))).map (·.1))

/-- The blocks of a launch. -/
def State.blocksOf (s : State) (l : Nat) : List (Nat × Block) := s.blocks.filter (fun b => b.2.launch == l)

/-- Whether every warp of a launch's round has ended its quantum, and the copies of its redundant blocks agree. -/
def State.roundOver (s : State) (l : Nat) : Bool :=
  s.warps.all (fun x => x.2.launch != l || x.2.ended || x.2.twinOf.isSome || x.2.qdone) &&
    (s.blocksOf l).all (fun b => b.2.twinBlock.isNone || !b.2.primary || !b.2.alive || b.2.agreed)

/-- ROUND_COMMIT: the round of a launch commits (R112, R127, R128). -/
def execRoundCommit (l : Nat) (s : State) : Host.Outcome State Fault Refusal :=
  .next (match mfind s.launches l with
    | none => s
    | some L =>
      if L.dets = 0 || L.committed || L.next = 0 || L.done || !s.waveStarted l L || !s.roundOver l ||
          s.commitHeld (fun k => (s.warp k).launch == l) (s.roundWarps l) then s
      else
        let ks := s.roundWarps l
        if s.rowLacks ks != [] then s.walkRows (s.rowLacks ks)
        else
        let s := (s.commitAll ks L.redund).ndoneOver l
        let s := s.modLaunch l (fun L => { L with committed := true, gwct := s.writesOver ks })
        (s.blocksOf l).foldl (fun (s : State) (b : Nat × Block) => match b.2.twinBlock with
          | some t => if b.2.primary then s.endCopies b.1 t else s
          | none => s) s)

/-- Whether a child that a launch's last commit has queued has not started (R266). -/
def State.childrenDue (s : State) (l : Nat) : Bool := s.parts.any (fun p => p.2.children.any (fun c => (s.warp c.1).launch == l))

/-- ROUND_START: the next round of a launch starts once every clock has passed the writes of the last, those of its event rings'
write indices among them, and the children that its commit queued start with it (R112, R113, R148, R266). -/
def execRoundStart (l : Nat) (s : State) : Host.Outcome State Fault Refusal :=
  .next (match mfind s.launches l with
    | none => s
    | some L =>
      if !L.committed || !s.pastAll L.gwct || s.childrenDue l || s.warps.any (fun x => x.2.launch == l && !x.2.ended && x.2.swapped) ||
          (s.blocksOf l).any (fun b => (s.core b.2.core).tap.ringWait != []) then s
      else
        let bs := s.blocksOf l
        let s := s.modLaunch l (fun L => { L with round := L.round + 1, began := s.time, committed := false, stuck := false })
        let s := bs.foldl (fun (s : State) (b : Nat × Block) => s.startBars b.1) s
        let ks := s.byWid ((s.warps.filter (fun x => x.2.launch == l && x.2.twinOf.isNone)).map (·.1))
        let s := ks.foldl State.startWarp s
        bs.foldl (fun (s : State) (b : Nat × Block) =>
          let s := s.modMx b.2.core MxUnit.nextRound
          if b.2.twinBlock.isSome && b.2.alive then s.nextQuantum b.1 else s) s)

/-- ROUND_STUCK_TIMEOUT: a round of a launch has not ended 1 s after it began: the firmware of the launch's queue records it on
that queue's lowest die, and the launch is left running (R361, R365). -/
def execRoundStuckTimeout (l : Nat) (s : State) : Host.Outcome State Fault Refusal :=
  .next (match mfind s.launches l with
    | none => s
    | some L =>
      if L.dets = 0 || L.done || L.committed || L.stuck || L.next = 0 || s.time.toNat < L.began.toNat + 1000000000 ||
          !s.served L.queue then s
      else
        (s.modLaunch l (fun L => { L with stuck := true })).ras (s.partDie (s.partOf L.queue)) {
          type := 0x0B, queue := L.queue, part := L.part, pkt := BitVec.ofNat 32 L.pkt
          info0 := BitVec.ofNat 32 L.round })

end Sys2Proof.Machine
end

