-- ==== Sys2Proof/Machine/Launch.lean ====
section
/-! DEFINITION. Launches: starting clusters and retiring them, child launches and when a launch is over (R118, R126, R127,
R131, R266, R360). -/

namespace Sys2Proof.Machine

/-- Whether the wave of a launch's next cluster has begun (R127). -/
def State.waveOpen (s : State) (l : Nat) (L : Launch) : Bool :=
  L.dets = 0 || L.next = 0 || L.next % L.wave ≠ 0 ||
    (decide (L.exitRound < L.round) && s.warps.all (fun x => x.2.launch != l || (x.2.ended && x.2.buf == [])))

/-- One more cluster of a launch has been placed. -/
def State.clusterBegan (s : State) (l : Nat) : State :=
  s.modLaunch l (fun L => { L with next := L.next + 1, began := if L.next = 0 then s.time else L.began })

/-- CLUSTER_START: the next cluster of a launch is placed on a core cluster of its partition (R126, R127). -/
def execClusterStart (l cl : Nat) (s : State) : Host.Outcome State Fault Refusal :=
  .next (match mfind s.launches l with
    | none => s
    | some L =>
      let held := match mfind s.queues L.queue with
        | some Q => Q.swapped || Q.draining.isSome
        | none => true
      if L.done || L.aborted || L.n ≤ L.next || s.time.toNat < L.ready.toNat || held || L.committed || !s.waveOpen l L ||
          !(s.clustersFor L).contains cl then s
      else
        match s.placeAll l L (L.clusterAt L.next) cl with
        | none => s
        | some s' => if !s'.keepsGangs L.queue then s else s'.clusterBegan l)

/-- The cluster of a launch that retires next: at D1 and above in curve order (R126). -/
def Launch.retires (L : Launch) : Option Nat :=
  if L.dets = 0 then L.exits.head? else (if L.exits.contains (L.clusterAt L.retired) then some (L.clusterAt L.retired) else none)

/-- Whether what the warps of a cluster have buffered is committed. -/
def State.clusterSettled (s : State) (l c : Nat) : Bool :=
  s.warps.all (fun x => x.2.launch != l || !((s.block? x.2.block).any (fun B => B.cluster == c)) || x.2.buf == [])

/-- CLUSTER_RETIRE: an exited cluster is counted toward completion, and the record places it took are free (R126,
R131). -/
def execClusterRetire (l : Nat) (s : State) : Host.Outcome State Fault Refusal :=
  .next (match mfind s.launches l with
    | none => s
    | some L =>
      match L.retires with
      | none => s
      | some c =>
        if L.done || !s.clusterSettled l c then s
        else (s.modLaunch l (fun L => { L with retired := L.retired + 1, exits := L.exits.erase c })).freePlaces l)

/-! ### The end of a launch (R118) -/

/-- Whether every engine operation of a warp has completed and every access of it has been acknowledged. -/
def State.warpQuiet (s : State) (k : Nat) (W : Warp) : Bool :=
  let C := s.core W.core
  W.ended && W.buf == [] && W.outs == [] && !s.flights.any (fun f => f.2.warp == k) &&
    !C.mx.queue.any (fun e => e.warp == k) && !C.tap.queue.any (fun e => e.warp == k) && s.pastAll W.gwct

/-- Whether a launch is over: every warp it started has exited, their operations have completed, every clock has passed
their `k.gwct`, and its children are over. -/
def State.launchOver (s : State) (l : Nat) (L : Launch) : Bool :=
  (if L.aborted then L.next else max L.n L.next) ≤ L.retired && !L.committed && L.children == 0 &&
    s.warps.all (fun x => x.2.launch != l || s.warpQuiet x.1 x.2)

/-- A launch that is over is marked so; a child's completion signal is decremented, and its parent waits for one child
less (R266). -/
def State.endLaunch (s : State) (l : Nat) : State :=
  match mfind s.launches l with
  | none => s
  | some L =>
    if L.done || !s.launchOver l L then s
    else
      let s := s.modLaunch l (fun L => { L with done := true })
      match L.parent with
      | none => s
      | some p => (s.decSignal L.queue L.signal.toNat).modLaunch p (fun P => { P with children := P.children - 1 })

/-- The launches of a packet, children and clusters of its graph among them. -/
def State.launchesOf (s : State) (q pkt : Nat) : List (Nat × Launch) :=
  s.launches.filter (fun x => x.2.queue == q && x.2.pkt == pkt)

/-- Mark the launches of a packet that are over, children before their parents. -/
def State.endLaunches (s : State) (q pkt : Nat) : State :=
  ((s.launchesOf q pkt).reverse.map (·.1)).foldl State.endLaunch s

/-! ### Child launches (R266, R360) -/

/-- CHILD_LAUNCH_START: the oldest child of a partition's child queue starts, or fails where its record is invalid. At D1
and above the commit of a round queues it, and its wave 0 belongs to the round after that: its parent's next round waits for it
to start. -/
def execChildLaunchStart (p : Nat) (s : State) : Host.Outcome State Fault Refusal :=
  .next (match (mfind s.parts p).bind (fun P => P.children.head?) with
    | none => s
    | some (k, record, signal, rank) =>
      let W := s.warp k
      let round := ((mfind s.launches W.launch).map (fun L => if L.dets = 0 then 0 else L.round + 1)).getD 0
      let s := s.modPart p (fun P => { P with children := P.children.drop 1 })
      match s.readLaunch W.queue record.toNat with
      | .error r =>
        ((s.decSignal W.queue signal.toNat).rasPacket W.queue W.pkt 3 r).modLaunch W.launch (fun L =>
          { L with children := L.children - 1, failed := true })
      | .ok (r, H) =>
        s.addLaunch { s.mkLaunch W.queue W.pkt p record r H with parent := some W.launch, signal := signal, rank := rank, round := round })

end Sys2Proof.Machine
end

