-- ==== Sys2Proof/Machine/Packets.lean ====
section
/-! DEFINITION. The front end: registering queues, doorbells, priorities, packets and how they start, gangs, and the
completion of packets (R114 to R123, R299, R300, R355 to R359). -/

namespace Sys2Proof.Machine

/-! ### Versions (R303) -/

/-- The highest version that two ranges, lowest and highest, both contain. -/
def commonVersion (a b : Nat × Nat) : Option Nat :=
  let v := min a.2 b.2
  if a.1 ≤ v ∧ b.1 ≤ v then some v else none

/-- The device's driver ABI versions (R304; log entry 40). -/
def abiRange : Nat × Nat := (1, 1)
/-- The device's packet format versions (R304; log entry 40). -/
def formatRange : Nat × Nat := (1, 1)

/-! ### Queues and their write pointers (R114, R115, R299, R300) -/

/-- Whether a function may name a partition: the PF reaches every one, VF n (function n + 1) its own while it exists
(R299). -/
def State.reaches (s : State) (func part : Nat) : Bool :=
  (mfind s.parts part).isSome && (func == 0 || func == part + 1)

/-- The lowest queue number that none holds (R115). -/
def State.freeQueue (s : State) : Option Nat := (List.range 4096).find? (fun q => (mfind s.queues q).isNone)

/-- A queue descriptor's 64 bytes as a queue (R114): Q is 4,096 where QUANT is 0. -/
def parseQueue (r : QueueReg) (b : List Byte) : Queue :=
  let w := BitVec.ofNat 64 (fieldAt b 0x20 8)
  let quant := (w.extractLsb' 24 17).toNat
  { func := r.func
    desc := r.desc
    root := r.root
    ring := BitVec.ofNat 64 (fieldAt b 0 8)
    log2n := fieldAt b 8 8 % 32
    quant := if quant = 0 then 4096 else quant
    part := (w.extractLsb' 20 4).toNat
    preempt := w.getLsbD 12
    qdet := (w.extractLsb' 10 2).toNat
    qsvc := (w.extractLsb' 4 4).toNat
    qpri := (w.extractLsb' 0 4).toNat
    handlers := BitVec.ofNat 64 (fieldAt b 0x28 8)
    save := BitVec.ofNat 64 (fieldAt b 0x30 8)
    wptr := BitVec.ofNat 64 (fieldAt b 0x10 8) }

/-- The conditions of R115 on the descriptor's bytes. -/
def descOk (b : List Byte) : Bool :=
  let w := BitVec.ofNat 64 (fieldAt b 0x20 8)
  let quant := (w.extractLsb' 24 17).toNat
  decide (4 ≤ fieldAt b 8 8 && fieldAt b 8 8 ≤ 16) && (quant == 0 || decide (256 ≤ quant && quant ≤ 65536)) &&
  fieldAt b 0 8 % 4096 == 0 && fieldAt b 0x30 8 % 4096 == 0 && fieldAt b 0x28 8 % 8 == 0 && fieldAt b 0x18 8 == 0 &&
  w.extractLsb' 41 23 == 0 && w.extractLsb' 13 7 == 0 && w.extractLsb' 8 2 == 0 && fieldAt b 0x38 8 == 0

/-- Whether every page of a range of a queue translates. -/
def State.spans (s : State) (q va n : Nat) : Bool :=
  (List.range ((va + n - 1) / 4096 - va / 4096 + 1)).all (fun j => (s.look q ((va / 4096 + j) * 4096)).isSome)

/-- The queue that a registration would make as number q, read through the page table that the driver hands over:
none where R115 refuses it. The rule gives the save area no size: its first page must translate, DESIGN CHOICE (log entry 77). -/
def State.readQueue (s : State) (q : Nat) (r : QueueReg) : Option Queue :=
  (List.range 16).findSome? (fun p =>
    let seed : Queue := { parseQueue r [] with part := p }
    let s' : State := { s with queues := minsert s.queues q seed }
    match s'.virtBytes q r.desc 64 with
    | none => none
    | some b =>
      let Q := parseQueue r b
      if Q.part = p && descOk b && s.reaches r.func p && s'.spans q Q.ring.toNat (64 * 2 ^ Q.log2n) &&
          s'.spans q Q.handlers.toNat 2048 && (s'.look q Q.save.toNat).isSome then some Q else none)

/-- A queue stops at its next packet, with the reason (R355). -/
def State.stopQueue (s : State) (q reason : Nat) : State :=
  match mfind s.queues q with
  | none => s
  | some Q => (s.modQueue q (fun Q => { Q with stopped := true })).rasPacket q Q.next.toNat 3 reason

/-- The firmware reads a queue's WPTR; one too far ahead of RPTR stops the queue (R300, R355 reason 7). -/
def State.readWptr (s : State) (q : Nat) : State :=
  match mfind s.queues q with
  | none => s
  | some Q =>
    match s.virtNat q (Q.desc + 0x10) 8 with
    | none => s
    | some v =>
      let s := s.modQueue q (fun Q => { Q with wptr := BitVec.ofNat 64 v })
      if !Q.stopped && 2 ^ Q.log2n < (BitVec.ofNat 64 v - Q.rptr).toNat then s.stopQueue q 7 else s

/-- The versions agreed with a queue's driver: driver ABI and packet format (R303). -/
def driverVersions (r : QueueReg) : Option (Nat × Nat) :=
  match commonVersion r.abi abiRange, commonVersion r.fmt formatRange with
  | some a, some f => some (a, f)
  | _, _ => none

/-- QUEUE_REGISTER: the driver registers a queue: it gets the lowest free number, or is refused with reason 9 (R115). A driver
that shares no version with the device is refused too (R303; log entry 40). -/
def execQueueRegister (r : QueueReg) (s : State) : Host.Outcome State Fault Refusal :=
  .next (
    let refused : RasRec := { type := 3, sub := 3, queue := 0xFFF, info0 := 9 }
    match s.freeQueue, driverVersions r with
    | some q, some v =>
      (match s.readQueue q r with
       | none => s.ras 0 refused
       | some Q =>
         if !(s.die (s.partDie Q.part)).firmware then s
         else State.readWptr { s with queues := minsert s.queues q { Q with abi := v.1, fmt := v.2 } } q)
    | _, _ => s.ras 0 refused)

/-- Whether a function's write may name a queue. -/
def State.mayName (s : State) (func q : Nat) : Bool :=
  match mfind s.queues q with
  | some Q => s.reaches func Q.part
  | none => false

/-- QDB: the firmware reads the queue's WPTR; a stopped queue goes on at the packet it stopped at (R299, R300, R355). -/
def execQdb (func q : Nat) (s : State) : Host.Outcome State Fault Refusal :=
  .next (if !s.mayName func q then s else (s.modQueue q (fun Q => { Q with stopped := false })).readWptr q)

/-- WPTR_POLL: the firmware reads the WPTR of every registered queue (R300). -/
def execWptrPoll (s : State) : Host.Outcome State Fault Refusal :=
  .next ((s.queues.map (·.1)).foldl (fun s q => if s.served q then s.readWptr q else s) s)

/-! ### Effective priority (R119) -/

/-- The queues that a chain of lending reaches, at most `n` links on; it stops at a queue already in the chain. -/
def State.lendsTo (s : State) : Nat → List Nat → Nat → List Nat
  | 0, _, _ => []
  | n + 1, chain, q =>
    ((s.owners q).filter (fun o => !chain.contains o)).foldr (fun o acc => o :: s.lendsTo n (o :: chain) o ++ acc) []

/-- The effective priority of a queue (R119). -/
def State.priority (s : State) (q : Nat) : Nat :=
  s.queues.foldl (fun n x => if x.1 == q || (s.lendsTo 4 [x.1] x.1).contains q then max n x.2.qpri else n) 0

/-! ### Packets (R117, R355) -/

/-- TYPE of a packet. -/
def pktType (b : List Byte) : Nat := fieldAt b 0 1
/-- BAR; a WAITSIG always acts as if it were set (R118). -/
def pktBar (b : List Byte) : Bool := fieldAt b 1 1 % 2 == 1 || pktType b == 4
/-- Bits 31:16 of the header. -/
def pktHead (b : List Byte) : Nat := fieldAt b 2 2
/-- The address or operand at 0x08. -/
def pktA (b : List Byte) : Nat := fieldAt b 8 8
/-- The completion signal's address. -/
def pktSig (b : List Byte) : Nat := fieldAt b 0x38 8

/-- Reasons 1 and 2 of R355, or 0. -/
def pktReason (b : List Byte) : Nat :=
  let h := pktHead b
  let zero (off n : Nat) : Bool := fieldAt b off n == 0
  let common := fieldAt b 1 1 / 2 == 0 && zero 4 4
  let n := h % 8
  let ok := match pktType b with
    | 1 => h == 0 && zero 0x10 40
    | 2 => h == 0 && decide (1 ≤ fieldAt b 0x18 8 && fieldAt b 0x18 8 ≤ 2 ^ 40) && zero 0x20 24
    | 3 => decide (h ≤ 2) && zero 0x18 32
    | 4 => h / 8 == 0 && decide (1 ≤ n && n ≤ 4) && zero (8 + 8 * n) (32 - 8 * n) && zero (0x28 + 4 * n) (16 - 4 * n)
    | 5 => zero 0x10 40
    | _ => h == 0 && fieldAt b 0x10 8 / 2 ^ 20 == 0 && zero 0x18 32
  if pktType b = 0 || 6 < pktType b then 1 else if common && ok then 0 else 2

/-- Whether an address is aligned and translates. -/
def State.placeOk (s : State) (q va align : Nat) : Bool := va % align == 0 && (s.look q va).isSome

/-- Reason 8 of R355 on the addresses in a packet. -/
def State.pktPlaces (s : State) (q : Nat) (b : List Byte) : Bool :=
  let sig := pktSig b == 0 || s.placeOk q (pktSig b) 8
  let own := match pktType b with
    | 1 => true
    | 2 => s.placeOk q (pktA b) 1 && s.placeOk q (fieldAt b 0x10 8) 1
    | 3 => s.placeOk q (pktA b) 8
    | 4 => (List.range (pktHead b % 8)).all (fun j => s.placeOk q (fieldAt b (8 + 8 * j) 8) 8)
    | 5 => s.spans q (pktA b) 128
    | _ => s.spans q (pktA b) (64 * (fieldAt b 0x10 8 + 1))
  sig && own

/-- The partitions that a GANG names (R123). -/
def pktParts (b : List Byte) : List Nat := maskParts (pktHead b)

/-- The reason for which a GANG's records are invalid, in ascending partition, or 0. -/
def State.gangReason (s : State) (q : Nat) (b : List Byte) : Nat :=
  if (pktParts b).any (fun p => (mfind s.parts p).isNone) then 5
  else
    (((pktParts b).map (fun p => match s.readLaunch q (fieldAt ((s.virtBytes q (pktA b) 128).getD []) (8 * p) 8) with
      | .error r => r
      | .ok _ => 0)).find? (· != 0)).getD 0

/-! ### Graph nodes (R129) -/

/-- Parse a node record: none where it fails Table 5 of R129. `succ` reads its successors. The range of RSZ and the alignment
of INQ bind a stream node only, DEDUCED (log entry 77). -/
def parseNode (b : List Byte) (count : Nat) (addr : DWord) (succ : Option (List Nat)) : Option Node :=
  let ntype := fieldAt b 0 1
  let coal := fieldAt b 0x24 2
  let cap := fieldAt b 0x22 2
  let rsz := fieldAt b 0x20 2
  let inq := fieldAt b 0x18 8
  let stream := coal != 0
  let ok := fieldAt b 1 1 == 0 && fieldAt b 6 2 == 0 && fieldAt b 0x30 16 == 0 && decide (1 ≤ ntype && ntype ≤ 3) &&
    decide (coal ≤ cap) && (!stream || (ntype == 1 && rsz % 16 == 0 && decide (16 ≤ rsz && rsz ≤ 256) && inq % 16 == 0))
  match succ with
  | none => none
  | some l =>
    if ok && l.all (· < count) then
      some { ntype := ntype, succ := l, live := fieldAt b 2 2, work := BitVec.ofNat 64 (fieldAt b 0x10 8), addr := addr,
             inq := BitVec.ofNat 64 inq, ovf := BitVec.ofNat 64 (fieldAt b 0x28 8), rsz := rsz, cap := cap,
             ocap := fieldAt b 0x26 2, coal := coal }
    else none

/-- Read a graph's node table: the reason for which it is invalid, or its nodes (R129, R130). -/
def State.readNodes (s : State) (q table count : Nat) : Except Nat (List Node) :=
  (List.range count).foldl (fun acc n =>
    match acc with
    | .error r => .error r
    | .ok l =>
      let a := table + 64 * n
      match s.virtBytes q a 64 with
      | none => .error 8
      | some b =>
        let k := fieldAt b 4 2
        let succ : Option (List Nat) := if k = 0 then some []
          else (s.virtBytes q (fieldAt b 8 8) (4 * k)).map (fun x => (List.range k).map (fun j => fieldAt x (4 * j) 4))
        match parseNode b count (BitVec.ofNat 64 a) succ with
        | none => .error 6
        | some x => .ok (l ++ [x])) (.ok [])

/-! ### Which packet starts next (R118, R119) -/

/-- The bytes of a queue's next packet, if it is pending (R114) and order and barriers let it start; the inner option is none
where the ring does not translate. -/
def State.nextReady (s : State) (q : Nat) : Option (Option (List Byte)) :=
  match mfind s.queues q with
  | none => none
  | some Q =>
    if Q.stopped || Q.waiting.isSome || Q.gang.isSome || Q.swapped || Q.draining.isSome ||
        Q.wptr - Q.rptr ≤ Q.next - Q.rptr then none
    else
      match s.packetAt q Q.next with
      | none => some none
      | some b => if pktBar b && Q.rptr ≠ Q.next then none else some (some b)

/-- Why a packet is invalid, or 0 (R355). -/
def State.invalid (s : State) (q : Nat) (b : List Byte) : Nat :=
  if pktReason b ≠ 0 then pktReason b
  else if !s.pktPlaces q b then 8
  else
    match pktType b with
    | 1 => (match s.readLaunch q (pktA b) with
      | .error r => r
      | .ok _ => 0)
    | 5 => s.gangReason q b
    | 6 => (match s.readNodes q (pktA b) (fieldAt b 0x10 8 + 1) with
      | .error r => r
      | .ok _ => 0)
    | _ => 0

/-- The partitions on which a packet takes block slots, registers and scratchpad. -/
def State.takesOn (s : State) (q : Nat) (b : List Byte) : List Nat :=
  match pktType b with
  | 1 | 6 => [s.partOf q]
  | 5 => pktParts b
  | _ => []

/-- Whether the first cluster of a queue's launch record at an address fits now; so does one that proves invalid. -/
def State.recordFits (s : State) (q va : Nat) : Bool :=
  match s.readLaunch q va with
  | .error _ => true
  | .ok (r, H) => s.fits 0 (s.mkLaunch q 0 (s.partOf q) (BitVec.ofNat 64 va) r H)

/-- Whether a graph can be placed: none of its nodes that are ready is a block node, or one that is fits (log entry 76). -/
def State.graphFits (s : State) (q : Nat) (nodes : List Node) : Bool :=
  let l := nodes.filter (fun x => x.ntype == 1 && x.live == 0 && x.coal == 0)
  l == [] || l.any (fun x => s.recordFits q x.work.toNat)

/-- Whether a packet can start now: a LAUNCH needs room for its first cluster, a GRAPH for a node that is ready; a GANG
starts by reserving (R119, R123). -/
def State.hasRoom (s : State) (q : Nat) (b : List Byte) : Bool :=
  if s.invalid q b ≠ 0 then true
  else
    match pktType b with
    | 1 => s.recordFits q (pktA b)
    | 6 => (match s.readNodes q (pktA b) (fieldAt b 0x10 8 + 1) with
      | .error _ => true
      | .ok nodes => s.graphFits q nodes)
    | _ => true

/-- Whether one queue comes before another: higher effective priority, then served least recently (R119); of two served equally
recently, or never, the lower number, DESIGN CHOICE (log entry 82). -/
def State.ahead (s : State) (x q : Nat) : Bool :=
  let at_ (k : Nat) : Nat := ((mfind s.queues k).map (·.served)).getD 0
  s.priority q < s.priority x || (s.priority q == s.priority x && (at_ x < at_ q || (at_ x == at_ q && x < q)))

/-- The partitions on which a queue waits for resources: those of its next packet where that cannot be placed, or of the gang that
it is reserving for (R119). -/
def State.waitsOn (s : State) (x : Nat) (Q : Queue) : List Nat :=
  match s.nextReady x, Q.gang with
  | some (some c), _ => if s.hasRoom x c then [] else s.takesOn x c
  | none, some (mask, _, _) => maskParts mask
  | _, _ => []

/-- Whether a queue of higher effective priority, on whatever die, waits for resources on one of some partitions (R119). -/
def State.barred (s : State) (q : Nat) (parts : List Nat) : Bool :=
  parts != [] && s.queues.any (fun x => x.1 != q && s.priority q < s.priority x.1 && (s.waitsOn x.1 x.2).any parts.contains)

/-- Whether a queue's next packet could start, were it the firmware's choice. -/
def State.startable (s : State) (x : Nat) : Bool :=
  match s.nextReady x with
  | none => false
  | some none => true
  | some (some c) => s.hasRoom x c && !s.barred x (s.takesOn x c)

/-- Whether another queue keeps a packet from starting: one ahead of it with the same firmware that can start, or a packet of
higher priority, on whatever die, that waits for the resources it would take (R119). -/
def State.keptBack (s : State) (q : Nat) (b : Option (List Byte)) : Bool :=
  s.barred q ((b.map (s.takesOn q)).getD []) ||
    s.queues.any (fun x => x.1 != q && s.partDie x.2.part == s.partDie (s.partOf q) && s.ahead x.1 q && s.startable x.1)

/-! ### Starting packets -/

/-- A packet of a queue has started. -/
def State.opened (s : State) (q : Nat) (sig : Nat) : State :=
  s.modQueue q (fun Q => { Q with
    next := Q.next + 1
    open_ := Q.open_ ++ [Q.next.toNat]
    sigs := mput 0 Q.sigs Q.next.toNat (BitVec.ofNat 64 sig)
    served := s.cycle + s.nextId })

/-- A LAUNCH packet starts. -/
def State.startLaunch (s : State) (q idx : Nat) (b : List Byte) : State :=
  match s.readLaunch q (pktA b) with
  | .error _ => s
  | .ok (r, H) => (s.opened q (pktSig b)).addLaunch (s.mkLaunch q idx (s.partOf q) (BitVec.ofNat 64 (pktA b)) r H)

/-- An engine copies a range for a packet or a node. -/
def State.packetCopy (s : State) (q idx : Nat) (b : List Byte) : State :=
  let op : EngOp := .packetCopy q (BitVec.ofNat 64 (fieldAt b 0x10 8)) (BitVec.ofNat 64 (pktA b)) (fieldAt b 0x18 8)
  State.bump { s with engines := minsert s.engines s.nextId { op := op, warp := 0, block := idx, cls := 2, stage := 1 } }

/-- A SIGNAL's operation (R117): set, add or subtract. -/
def State.applySignal (s : State) (q : Nat) (b : List Byte) : State :=
  let x := BitVec.ofNat 64 (fieldAt b 0x10 8)
  let v := (s.signal q (pktA b)).getD 0
  s.setSignal q (pktA b) (match pktHead b with
    | 0 => x
    | 1 => v + x
    | _ => v - x)

/-- The signals of a WAITSIG with their limits. -/
def pktWaits (b : List Byte) : List (DWord × Word) :=
  (List.range (pktHead b % 8)).map (fun j => (BitVec.ofNat 64 (fieldAt b (8 + 8 * j) 8), BitVec.ofNat 32 (fieldAt b (0x28 + 4 * j) 4)))

/-- Blocks of a queue's launches that still live. -/
def State.queueBlocks (s : State) (q : Nat) : List (Nat × Block) :=
  s.blocks.filter (fun b => b.2.alive && ((mfind s.launches b.2.launch).map (·.queue)) == some q)

/-- The partitions on which a queue's blocks run. -/
def State.runsOn (s : State) (q : Nat) : List Nat :=
  (s.queueBlocks q).filterMap (fun b => (mfind s.launches b.2.launch).map (·.part))

/-- Whether a running queue may be pre-empted for the next packet of another: it has PREEMPT set and the lower effective
priority, and no pre-emption of it for that packet has been abandoned (R120, R351). -/
def State.victim (s : State) (q x : Nat) : Bool :=
  match mfind s.queues q, mfind s.queues x with
  | some Q, some X => q != x && Q.preempt && !Q.swapped && s.queueBlocks q != [] && s.priority q < s.priority x &&
      !Q.spared.contains (x, X.next)
  | _, _ => false

/-- The leading partitions of a gang, in ascending number, that are available: each with whether it has room for its part beside
what other gangs have reserved, or else work on it would be pre-empted for the gang's queue (R123, R358). -/
def State.gangRoom (s : State) (q mask : Nat) (table : DWord) : List (Nat × Bool) :=
  ((s.gangParts q mask table).foldl (fun (acc : Option State × List (Nat × Bool)) p =>
    match acc.1 with
    | none => acc
    | some s =>
      match s.placeBeside 0 p.2 with
      | some s => (some s, acc.2 ++ [(p.1, true)])
      | none =>
        if s.queues.any (fun x => s.victim x.1 q && (s.runsOn x.1).contains p.1) then (some s, acc.2 ++ [(p.1, false)])
        else (none, acc.2)) (some s, [])).2

/-- The partitions that an attempt reserves: those of the leading available ones that have room (R123). -/
def State.gangReserves (s : State) (q mask : Nat) (table : DWord) : List Nat :=
  ((s.gangRoom q mask table).filter (·.2)).map (·.1)

/-- Whether every partition of a gang can be reserved now. -/
def State.gangFits (s : State) (q mask : Nat) (table : DWord) : Bool := s.gangReserves q mask table == maskParts mask

/-- A queue's next packet of a type starts, or proves invalid and stops the queue (R118, R355). `fw` says that the
firmware starts it: Tin takes no account of priority (R369). -/
def State.startPacket (s : State) (q type : Nat) (fw : Bool) : State :=
  match s.nextReady q with
  | none => s
  | some b? =>
    if fw && (!s.served q || s.keptBack q b?) then s
    else
      match b? with
      | none => if type = 1 then s.stopQueue q 8 else s
      | some b =>
        let bad := s.invalid q b
        let idx := (((mfind s.queues q).map (fun (Q : Queue) => Q.next)).getD 0).toNat
        let mine := pktType b = type || (bad = 1 && type = 1)
        if !mine then s
        else if bad ≠ 0 then s.stopQueue q bad
        else if !s.hasRoom q b then s
        else
          match type with
          | 1 => s.startLaunch q idx b
          | 2 => (s.opened q (pktSig b)).packetCopy q idx b
          | 3 => ((s.opened q (pktSig b)).applySignal q b).packetDone q idx 0
          | 4 => (s.opened q (pktSig b)).modQueue q (fun Q => { Q with waiting := some (pktWaits b) })
          | 5 => s.modQueue q (fun Q => { Q with
              gang := some (pktHead b, BitVec.ofNat 64 (pktA b), 0)
              gangAt := s.time
              gangHeld := s.gangReserves q (pktHead b) (BitVec.ofNat 64 (pktA b)) })
          | _ =>
            (match s.readNodes q (pktA b) (fieldAt b 0x10 8 + 1) with
             | .error _ => s
             | .ok nodes =>
               let s := s.opened q (pktSig b)
               State.bump { s with graphs := minsert s.graphs s.nextId { queue := q, pkt := idx, nodes := nodes } })

/-- LAUNCH_PACKET (R121). A packet whose TYPE names none, or that the ring does not yield, stops its queue here. -/
def execLaunchPacket (q : Nat) (s : State) : Host.Outcome State Fault Refusal := .next (s.startPacket q 1 true)

/-- COPY_PACKET (R117). -/
def execCopyPacket (q : Nat) (s : State) : Host.Outcome State Fault Refusal := .next (s.startPacket q 2 true)

/-- SIGNAL_PACKET (R117, R118): it is applied and completes. -/
def execSignalPacket (q : Nat) (s : State) : Host.Outcome State Fault Refusal := .next (s.startPacket q 3 true)

/-- WAITSIG_PACKET (R118): it holds every later packet until it completes. -/
def execWaitsigPacket (q : Nat) (s : State) : Host.Outcome State Fault Refusal := .next (s.startPacket q 4 true)

/-- GANG_PACKET (R123): it begins to reserve. -/
def execGangPacket (q : Nat) (s : State) : Host.Outcome State Fault Refusal := .next (s.startPacket q 5 true)

/-- GRAPH_PACKET (R130): its table is handed to the walker. -/
def execGraphPacket (q : Nat) (s : State) : Host.Outcome State Fault Refusal := .next (s.startPacket q 6 true)

/-- WAITSIG_COMPLETE: every signal of a queue's WAITSIG is at or below its limit (R118). -/
def execWaitsigComplete (q : Nat) (s : State) : Host.Outcome State Fault Refusal :=
  .next (s.testWait q)

/-! ### Gangs (R123, R358) -/

/-- A part of a gang starts: its launch, with its first cluster placed beside what other gangs have reserved. -/
def State.startPart (s : State) (L : Launch) : State :=
  let l := s.nextId
  let s := s.addLaunch L
  match s.placeBeside l L with
  | some s => s.clusterBegan l
  | none => s

/-- GANG_COMMIT: a queue's gang reserves the leading partitions that have room; once it has reserved all, its parts start
together, unless a queue of higher priority waits for what they would take (R119). A partition that no longer exists makes the packet invalid (R123, R355). -/
def execGangCommit (q : Nat) (s : State) : Host.Outcome State Fault Refusal :=
  .next (match (mfind s.queues q).bind (·.gang) with
    | none => s
    | some (mask, table, _) =>
      let clear (s : State) : State := s.modQueue q (fun Q => { Q with gang := none, gangHeld := [] })
      if (maskParts mask).any (fun p => (mfind s.parts p).isNone) then (clear s).stopQueue q 5
      else if !s.served q then s
      else
        let parts := s.gangParts q mask table
        if !s.gangFits q mask table || s.barred q (maskParts mask) then
          s.modQueue q (fun Q => { Q with gangHeld := s.gangReserves q mask table })
        else
          match mfind s.queues q with
          | none => s
          | some Q =>
            let sig := ((s.packetAt q Q.next).map pktSig).getD 0
            let s := (clear s).opened q sig
            parts.foldl (fun s p => s.startPart { p.2 with pkt := Q.next.toNat, ready := s.time }) s)

/-- GANG_RESERVE_TIMEOUT: 100 µs have passed without a full reservation: every reservation is released, and the next attempt
begins; every 1,000 attempts leave a GANG record, which names the partition that could not be reserved (R123, R358). -/
def execGangReserveTimeout (q : Nat) (s : State) : Host.Outcome State Fault Refusal :=
  .next (match mfind s.queues q with
    | none => s
    | some Q =>
      match Q.gang with
      | none => s
      | some (mask, table, n) =>
        if s.time.toNat < Q.gangAt.toNat + 100000 || !s.served q then s
        else
          let held := (s.gangRoom q mask table).map (·.1)
          let s := s.modQueue q (fun Q => { Q with gang := some (mask, table, n + 1), gangAt := s.time, gangHeld := [] })
          if (n + 1) % 1000 ≠ 0 then s
          else
            let stuck := (maskParts mask).find? (fun p => !held.contains p)
            s.ras (s.partDie Q.part) {
              type := 4, queue := q, part := Q.part, pkt := Q.next.setWidth 32
              info0 := BitVec.ofNat 32 (n + 1), info1 := BitVec.ofNat 32 (stuck.getD 0) })

/-! ### Completion and QKILL (R118, R356, R357) -/

/-- Whether the copies of a packet are over, and whether one of them failed. -/
def State.copiesOf (s : State) (q idx : Nat) : List (Nat × Engine) :=
  s.engines.filter (fun e => e.2.block == idx && (match e.2.op with
    | .packetCopy p _ _ _ => p == q
    | _ => false))

/-- Whether a copy belongs to a packet that QKILL has aborted: it fails. One that meets an address that does not translate or may
not be written ends there and completes, for R356 names no such failure, DESIGN CHOICE (log entry 83). -/
def Engine.copyFailed (e : Engine) : Bool := e.status == 2

/-- Whether everything a packet started is over. -/
def State.packetOver (s : State) (q idx : Nat) : Bool :=
  (s.launchesOf q idx).all (·.2.done) && (s.copiesOf q idx).all (·.2.stage == 2) &&
    s.graphs.all (fun g => g.2.queue != q || g.2.pkt != idx || g.2.nodes.all (fun n => n.state == 2 || (g.2.failed && n.state == 0)))

/-- The outcome of a packet: 2 failed, 1 completed with kills, 0 completed (R356, R357, R359, R360, R364). -/
def State.packetOutcome (s : State) (q idx : Nat) : Nat :=
  let ls := s.launchesOf q idx
  if ls.any (·.2.failed) || (s.copiesOf q idx).any (·.2.copyFailed) ||
      s.graphs.any (fun g => g.2.queue == q && g.2.pkt == idx && g.2.failed) then 2
  else if ls.any (·.2.kills) then 1 else 0

/-- PACKET_COMPLETE: a packet whose launches, copies or graph are over completes (R118, R266, R356). -/
def execPacketComplete (q idx : Nat) (s : State) : Host.Outcome State Fault Refusal :=
  .next (match mfind s.queues q with
    | none => s
    | some Q =>
      let s := s.endLaunches q idx
      if !Q.open_.contains idx || (Q.waiting.isSome && idx + 1 = Q.next.toNat) || !s.packetOver q idx then s
      else
        let n := s.packetOutcome q idx
        let gone := (s.copiesOf q idx).map (·.1)
        let s := s.packetDone q idx n
        { s with
          engines := gone.foldl merase s.engines
          graphs := s.graphs.filter (fun g => g.2.queue != q || g.2.pkt != idx) })

/-- The children that a queue's warps have queued and that have not started are dropped: their signals are decremented,
and their parents wait for them no longer (log entry 26). -/
def State.dropChildren (s : State) (q : Nat) : State :=
  (s.parts.map (·.1)).foldl (fun s p =>
    let mine (x : Nat × DWord × DWord × Nat) : Bool := (s.warp x.1).queue == q
    let l := (((mfind s.parts p).map (·.children)).getD []).filter mine
    let s := s.modPart p (fun P => { P with children := P.children.filter (fun x => !mine x) })
    l.foldl (fun s x => (s.decSignal q x.2.2.1.toNat).modLaunch (s.warp x.1).launch (fun L => { L with children := L.children - 1 })) s) s

/-- Every packet a queue has started fails, its warps are killed, and no more of it starts (R357). -/
def State.abortQueue (s : State) (q : Nat) : State :=
  let ks := (s.warps.filter (fun x => x.2.queue == q && !x.2.ended && x.2.twinOf.isNone)).map (·.1)
  let s := ks.foldl (fun s k => if (s.warp k).ended then s else s.kill k 0 0 0 none) s
  let s := s.dropChildren q
  let s : State := { s with
    launches := s.launches.map (fun x => if x.2.queue == q && !x.2.done then (x.1, { x.2 with failed := true, aborted := true }) else x)
    graphs := s.graphs.map (fun g => if g.2.queue == q then (g.1, { g.2 with failed := true }) else g)
    engines := s.engines.map (fun e => match e.2.op with
      | .packetCopy p _ _ _ => if p == q then (e.1, { e.2 with status := 2 }) else e
      | _ => e) }
  match mfind s.queues q with
  | none => s
  | some Q =>
    let s := s.modQueue q (fun Q => { Q with waiting := none, gang := none, gangHeld := [], stopped := true })
    if Q.waiting.isSome then s.packetDone q (Q.next - 1).toNat 2 else s

/-- QKILL: a function aborts a queue that it may name (R299, R357). -/
def execQkill (func q : Nat) (s : State) : Host.Outcome State Fault Refusal :=
  .next (if s.mayName func q then s.abortQueue q else s)

end Sys2Proof.Machine
end

