-- ==== Sys2Proof/Machine/Walker.lean ====
section
/-! DEFINITION. The graph walker: nodes that run once, stream nodes, and their completion (R105, R118, R129 to R131,
R265, R360). -/

namespace Sys2Proof.Machine

/-- A graph fails: no further node of it starts (R360). -/
def State.failGraph (s : State) (g : Nat) : State := s.modGraph g (fun G => { G with failed := true })

/-- The packet at a node's WORK, if it is a sound packet of a type. -/
def State.workPacket (s : State) (q : Nat) (x : Node) (type : Nat) : Option (List Byte) :=
  match s.virtBytes q x.work.toNat 64 with
  | none => none
  | some b => if pktType b = type && s.invalid q b = 0 then some b else none

/-- A node runs: its work begins, and ends in what `ids` number; none where its work proves invalid (R130). -/
def State.runNode (s : State) (G : Graph) (x : Node) : Option (State × List Nat) :=
  let id := s.nextId
  match x.ntype with
  | 1 =>
    (match s.readLaunch G.queue x.work.toNat with
     | .error _ => none
     | .ok (r, H) => some (s.addLaunch (s.mkLaunch G.queue G.pkt (s.partOf G.queue) x.work r H), [id]))
  | 2 => (s.workPacket G.queue x 2).map (fun b => (s.packetCopy G.queue G.pkt b, [id]))
  | _ => (s.workPacket G.queue x 3).map (fun b => (s.applySignal G.queue b, []))

/-- GRAPH_NODE_START: a node with a live count of 0 runs (R130). A node whose work proves invalid fails the graph (R360). -/
def execGraphNodeStart (g n : Nat) (s : State) : Host.Outcome State Fault Refusal :=
  .next (match mfind s.graphs g, s.node? g n with
    | some G, some x =>
      if G.failed || x.state ≠ 0 || x.live ≠ 0 || x.coal ≠ 0 then s
      else
        (match s.runNode G x with
         | none => s.failGraph g
         | some (s, ids) =>
           s.modNode g n (fun x => { x with state := 1, launches := ids }))
    | _, _ => s)

/-- The records that the next cluster of a stream node takes: COAL of them, or once the live count is 0 all that remain
(R131). -/
def State.takesRecs (s : State) (x : Node) : List (Bool × Nat × DWord × Nat) :=
  let l := s.presentRecs x
  if x.coal ≤ l.length then l.take x.coal
  else if x.live = 0 && l.length = x.recs.length then l else []

/-- STREAM_CLUSTER_LAUNCH: the walker launches one cluster of a stream node's record for the records it takes (R131). -/
def execStreamClusterLaunch (g n : Nat) (s : State) : Host.Outcome State Fault Refusal :=
  .next (match mfind s.graphs g, s.node? g n with
    | some G, some x =>
      if G.failed || x.coal = 0 || x.state = 2 then s
      else
        (match s.takesRecs x with
         | [] => s
         | r :: rs =>
           match s.readLaunch G.queue x.work.toNat with
           | .error _ => s.failGraph g
           | .ok (c, H) =>
             let id := s.nextId
             let l := r :: rs
             let L : Launch := { s.mkLaunch G.queue G.pkt (s.partOf G.queue) x.work c H with
               n := 1
               graph := some (g, n)
               stream := some (g, n, (l.filter (fun y => !y.1)).length, (l.filter (fun y => y.1)).length)
               nin := x.recAddr r
               ncnt := l.length
               places := l.map x.recAddr }
             (s.addLaunch L).modNode g n (fun x => { x with
               recs := x.recs.filter (fun y => !l.contains y)
               launches := x.launches ++ [id] }))
    | _, _ => s)

/-- Whether what a node started is over: launches, or a copy. -/
def State.workOver (s : State) (x : Node) : Bool :=
  x.launches.all (fun id => (match mfind s.launches id with
    | some L => L.done
    | none => (match mfind s.engines id with
      | some e => e.stage == 2
      | none => true)))

/-- Whether a node can complete: its work is over, and a stream node has taken every record (R130, R131). -/
def State.nodeOver (s : State) (x : Node) : Bool :=
  s.workOver x && (if x.coal = 0 then x.state == 1 else x.state != 2 && x.live == 0 && x.recs == [])

/-- Whether a copy that a node started failed. -/
def State.nodeFailed (s : State) (x : Node) : Bool :=
  x.launches.any (fun id => ((mfind s.engines id).map Engine.copyFailed).getD false)

/-- The completion signal of a copy or signal packet that a node ran (R118). -/
def State.nodeSignal (s : State) (q : Nat) (x : Node) : State :=
  if x.ntype = 1 then s
  else
    match s.virtNat q (x.work.toNat + 0x38) 8 with
    | some a => s.decSignal q a
    | none => s

/-- GRAPH_NODE_COMPLETE: a node completes as its packet would, and each successor's live count falls (R130). Its warps
have passed their quiescent points at their exits (R105). -/
def execGraphNodeComplete (g n : Nat) (s : State) : Host.Outcome State Fault Refusal :=
  .next (match mfind s.graphs g with
    | none => s
    | some G =>
      let s := s.endLaunches G.queue G.pkt
      match s.node? g n with
      | none => s
      | some x =>
        if !s.nodeOver x then s
        else
          let s := if s.nodeFailed x then s.failGraph g else s.nodeSignal G.queue x
          let s := s.modNode g n (fun x => { x with state := 2 })
          x.succ.foldl (fun s m => s.modNode g m (fun y => { y with live := y.live - 1 })) s)

end Sys2Proof.Machine
end

