-- ==== Sys2Proof/Machine/Preempt.lean ====
section
/-! DEFINITION. The firmware's pre-emption of a queue, its abandonment, and the return of the saved blocks (R119, R120,
R134, R135, R351, R359). -/

namespace Sys2Proof.Machine

/-- Whether a queue's packet or gang that cannot be placed needs a partition on which another queue runs (R120). -/
def State.wants (s : State) (x : Nat) (X : Queue) (q : Nat) : Bool :=
  let parts := s.runsOn q
  match s.nextReady x, X.gang with
  | some (some b), _ => !s.hasRoom x b && (s.takesOn x b).any parts.contains
  | _, some (mask, table, _) => (maskParts mask).any (fun p => !(s.gangReserves x mask table).contains p && parts.contains p)
  | _, none => false

/-- Whether a queue of higher effective priority with a packet that cannot be placed needs a partition of a queue (R120). -/
def State.outranked (s : State) (q : Nat) : Bool :=
  s.queues.any (fun x => x.1 != q && s.priority q < s.priority x.1 && s.wants x.1 x.2 q)

/-- Whether the firmware is to pre-empt a queue: some packet that cannot be placed may have it pre-empted, and no running queue of
lower effective priority that may be pre-empted for the same packet (R120, R351). -/
def State.preempts (s : State) (q : Nat) : Bool :=
  s.queues.any (fun x => s.victim q x.1 && s.wants x.1 x.2 q &&
    s.queues.all (fun y => y.1 == q || s.priority q ≤ s.priority y.1 || !(s.victim y.1 x.1 && s.wants x.1 x.2 y.1)))

/-- The warps of a queue are to stop (R134 step 1). -/
def State.stopQueueBlocks (s : State) (q : Nat) : State := (s.queueBlocks q).foldl (fun s b => s.stopBlock b.1) s

/-- Whether every block of a queue has stopped. -/
def State.queueStopped (s : State) (q : Nat) : Bool := (s.queueBlocks q).all (fun b => s.blockStopped b.1)

/-- Whether what the blocks of a queue have issued has drained. -/
def State.queueIssuedOver (s : State) (q : Nat) : Bool := (s.queueBlocks q).all (fun b => s.issuedOver b.1 true)

/-- Whether every block of a queue has stopped and drained. -/
def State.queueDrained (s : State) (q : Nat) : Bool := (s.queueBlocks q).all (fun b => s.drained b.1)

/-- Bytes of a saved context, rounded up to a page. -/
def State.contextSize (s : State) (b : Nat) : Nat := ((s.contextBytes b).length + 4095) / 4096 * 4096

/-- The open transactions of a queue's blocks abort once these have stopped and their operations have drained (R134 step 3). -/
def State.abortQueueTxs (s : State) (q : Nat) : State := (s.queueBlocks q).foldl (fun s b => s.abortTxs b.1) s

/-- The blocks of a drained queue as they are saved (R134). -/
def State.abortQueueBlocks (s : State) (q : Nat) : State := (s.queueBlocks q).foldl (fun s b => s.abortBlock b.1) s

/-- Save the blocks of a queue, one after the other from the start of its save area; none where it cannot be written. -/
def State.saveQueue (s : State) (q : Nat) : Option State :=
  match mfind s.queues q with
  | none => none
  | some Q =>
    ((s.queueBlocks q).foldl (fun (acc : Option (State × Nat)) b =>
      match acc with
      | none => none
      | some (s, va) => (s.saveBlock (fun a => s.look q a) b.1 va).map (fun s' => (s', va + s.contextSize b.1)))
      (some (s, Q.save.toNat))).map (·.1)

/-- A pre-emption is abandoned: every warp goes on from where it stopped, and for the packets that asked for it the firmware
considers the next candidate (R351). -/
def State.abandonPreempt (s : State) (q sub : Nat) : State :=
  let bs := s.queueBlocks q
  let asked := (s.queues.filter (fun x => s.priority q < s.priority x.1 && s.wants x.1 x.2 q)).map (fun x => (x.1, x.2.next))
  let s := bs.foldl (fun s b => s.resumeBlock b.1) s
  let s := s.modQueue q (fun Q => { Q with draining := none, spared := asked ++ Q.spared })
  match bs.head? with
  | none => s
  | some b => s.ras (b.2.core / 192) (s.warpRec (s.warp (b.2.warps.headD 0)) 7 sub 0)

/-- Where the contexts of a queue's blocks lie in its save area: blocks and virtual addresses. -/
def State.saveAreas (s : State) (q : Nat) (va : Nat) : List (Nat × Nat) :=
  ((s.queueBlocks q).foldl (fun (acc : List (Nat × Nat) × Nat) b =>
    match s.contexts.find? (fun x => x.2.block == b.1) with
    | none => acc
    | some x => (acc.1 ++ [(b.1, acc.2)], acc.2 + ((s.contextParts x.2 b.2).2.2.2 + 4095) / 4096 * 4096)) ([], va)).1

/-- Bring every block of a queue back onto cores of its partition; none where one finds no room. The parts of a gang come
back together (R135, R359). -/
def State.restoreQueue (s : State) (q : Nat) : Option State :=
  let save := ((mfind s.queues q).map (·.save.toNat)).getD 0
  (s.saveAreas q save).foldl (fun acc x =>
    match acc with
    | none => none
    | some s =>
      let part := (((s.block? x.1).bind (fun B => mfind s.launches B.launch)).map (·.part)).getD 0
      let cores := (((mfind s.parts part).map (·.clusters)).getD []).foldr (fun cl acc => userCores cl ++ acc) []
      cores.findSome? (fun c => s.loadBlock (fun a => s.look q a) c x.2)) (some s)

/-- PREEMPTION: the firmware takes the pre-emption of a queue one step on: it begins one where R120 asks for it, stops the
blocks, saves them once they have drained, and brings them back when nothing outranks the queue any more (R134, R135,
R351). -/
def execPreemption (q : Nat) (s : State) : Host.Outcome State Fault Refusal :=
  .next (match mfind s.queues q with
    | none => s
    | some Q =>
      if !s.served q then s
      else if Q.swapped then
        if s.outranked q then s
        else
          (match s.restoreQueue q with
           | some s => s.modQueue q (fun Q => { Q with swapped := false })
           | none => s)
      else if Q.draining.isSome then
        let before := s.queueStopped q
        let s := s.stopQueueBlocks q
        let s := if !before && s.queueStopped q then s.modQueue q (fun Q => { Q with draining := some s.time }) else s
        let s := s.abortQueueTxs q
        if !s.queueDrained q then s
        else
          let s := s.abortQueueBlocks q
          (match s.saveQueue q with
           | some s => s.modQueue q (fun Q => { Q with draining := none, swapped := true })
           | none => s.abandonPreempt q 2)
      else if s.preempts q then
        (s.modQueue q (fun Q => { Q with draining := some s.time })).stopQueueBlocks q
      else s)

/-- PREEMPT_DRAIN_TIMEOUT: the engine operations of a queue have not drained within 1 ms of its stop: its pre-emption is
abandoned (R351). -/
def execPreemptDrainTimeout (q : Nat) (s : State) : Host.Outcome State Fault Refusal :=
  .next (match (mfind s.queues q).bind (·.draining) with
    | none => s
    | some t => if !s.queueStopped q || s.time.toNat < t.toNat + 1000000 || s.queueIssuedOver q then s else s.abandonPreempt q 1)

end Sys2Proof.Machine
end

