-- ==== Sys2Proof/Machine/Devices.lean ====
section
/-! DEFINITION. The registers of a die and its engines: pools, format windows, the RAS ring, the registers that only
store, and the host's accesses through BAR2 (R3, R73 to R79, R90, R109, R110, R178, R250, R301, R337, R352, R365,
R366, R371, R379). -/

namespace Sys2Proof.Machine

/-! ### Pools (R109, R110, R250) -/

/-- Set or clear a bit of POOL_CFG_n. -/
def Die.poolFlag (D : Die) (n bit : Nat) (on : Bool) : Die :=
  let m : DWord := 1 <<< bit
  let x := mget 0 D.poolCfg n
  { D with poolCfg := mput 0 D.poolCfg n (if on then x ||| m else x &&& ~~~m) }

/-- The fields of POOL_CFG_n that software writes: PART, BSZ and BASE (R109 Table 6). -/
def poolFields : DWord := 0x0FF0FFFFFFFFFFC0

/-- A write to POOL_CFG_n (R109): while EN reads 1 it acts only on EN, and an EN = 0 written while BUSY reads 1 waits
for the linking; while EN reads 0 it stores every field, and EN = 1 discards the list and starts the linking. -/
def Die.poolWrite (D : Die) (n : Nat) (v : DWord) : Die :=
  if D.poolEn n then
    if v.getLsbD 63 then D
    else if D.poolBusy n then { D with poolOff := if D.poolOff.contains n then D.poolOff else n :: D.poolOff }
    else D.poolFlag n 63 false
  else
    let D := { D with poolCfg := mput 0 D.poolCfg n (v &&& poolFields) }
    if v.getLsbD 63 then
      (({ D with poolHead := mput 0 D.poolHead n 0 }.poolFlag n 63 true).poolFlag n 62 true).setFree n (fun _ => 0)
    else D

/-- Whether a die and a pool exist: 4 dies, 16 pools each. -/
def poolExists (die n : Nat) : Bool := decide (die < 4 ∧ n < 16)

/-- POOL_ENABLE: POOL_CFG_n is written with EN = 1 (R109). -/
def execPoolEnable (die n : Nat) (v : DWord) (s : State) : Host.Outcome State Fault Refusal :=
  .next (if poolExists die n then s.modDie die (fun D => D.poolWrite n (v ||| 0x8000000000000000)) else s)

/-- POOL_DISABLE: POOL_CFG_n of an enabled pool is written with EN = 0 (R109). -/
def execPoolDisable (die n : Nat) (s : State) : Host.Outcome State Fault Refusal :=
  .next (if poolExists die n && (s.die die).poolEn n then s.modDie die (fun D => D.poolWrite n 0) else s)

/-- The address of a pool's block i. -/
def Die.poolBlockAt (D : Die) (n i : Nat) : Nat := D.poolBase n + i * D.poolBlock n

/-- Whether every block of a pool translates through the page table of POOL_QREF_n's queue (R110). -/
def State.poolMaps (s : State) (die n : Nat) : Bool :=
  let D := s.die die
  (List.range (D.poolCount n)).all (fun i => (s.look (mget 0 D.poolQref n).toNat (D.poolBlockAt n i)).isSome)

/-- Link the blocks of a pool: each to the next above it, the last to 0 (R250). -/
def State.poolLink (s : State) (die n : Nat) : State :=
  let D := s.die die
  let cnt := D.poolCount n
  (List.range cnt).foldl (fun (s : State) i =>
    s.virtPut (mget 0 D.poolQref n).toNat (D.poolBlockAt n i)
      (leBytes 8 (if i + 1 = cnt then 0 else D.poolBlockAt n (i + 1)))) s

/-- POOL_LINK_DONE: all blocks are linked, or none where a translation fails; a disable that waited takes effect
(R109, R110, R250). -/
def execPoolLinkDone (die n : Nat) (s : State) : Host.Outcome State Fault Refusal :=
  .next (
    let D := s.die die
    if !(poolExists die n && D.poolBusy n) then s
    else
      let off := D.poolOff.contains n
      let idle (D : Die) : Die := { D.poolFlag n 62 false with poolOff := D.poolOff.filter (· != n) }
      if s.poolMaps die n then
        (s.poolLink die n).modDie die (fun D =>
          let D := (idle D).setFree n (fun _ => D.poolCount n)
          let head : DWord := if D.poolCount n = 0 then 0 else BitVec.ofNat 64 (D.poolBase n)
          let D := { D with poolHead := mput 0 D.poolHead n head }
          if off then D.poolFlag n 63 false else D)
      else
        s.modDie die (fun D => ((idle { D with poolHead := mput 0 D.poolHead n 0 }).poolFlag n 63 false).setFree n (fun _ => 0)))

/-! ### Format windows (R73, R77) -/

/-- Whether a die and a window exist: 4 dies, 32 windows each. -/
def winExists (die n : Nat) : Bool := decide (die < 4 ∧ n < 32)

/-- The stored formats that Table 3 of R74 assigns. -/
def winFmtOk (f : Nat) : Bool := decide (1 ≤ f ∧ f ≤ 7)

/-- A write to FMT_WIN_CTL_n (R73, R77): a 1 written to SAT or NAN clears it; while EN reads 1 nothing else of an
EN = 1 write counts and EN = 0 starts the closing; while EN reads 0 PAGES and FMT are stored, and EN = 1 enables the
window, or sets ERR where FMT is reserved. -/
def Die.winWrite (D : Die) (n : Nat) (v : Word) : Die :=
  let x := mget 0 D.winCtl n
  let x := x &&& ~~~(v &&& 0x30000000)
  if winEn x then
    let D := { D with winCtl := mput 0 D.winCtl n x }
    if winEn v || D.winClosing.contains n then D else { D with winClosing := n :: D.winClosing }
  else
    let y := (x &&& 0x70000000) ||| (v &&& 0x00FFFFFF)
    let y : Word :=
      if !winEn v then y
      else if winFmtOk (winFmtOf v) then (y &&& 0xBFFFFFFF) ||| 0x80000000
      else y ||| 0x40000000
    { D with winCtl := mput 0 D.winCtl n y }

/-- FMT_WIN_ENABLE: FMT_WIN_CTL_n is written with EN = 1 (R73, R77). -/
def execFmtWinEnable (die n : Nat) (v : Word) (s : State) : Host.Outcome State Fault Refusal :=
  .next (if winExists die n then s.modDie die (fun D => D.winWrite n (v ||| 0x80000000)) else s)

/-- FMT_WIN_DISABLE: FMT_WIN_CTL_n of an enabled window is written with EN = 0 (R77). -/
def execFmtWinDisable (die n : Nat) (s : State) : Host.Outcome State Fault Refusal :=
  .next (if winExists die n && winEn (mget 0 (s.die die).winCtl n) then s.modDie die (fun D => D.winWrite n 0) else s)

/-- The lines that the L2 holds of those filled through a window (R77). -/
def State.winLines (s : State) (die n : Nat) : List Nat :=
  let w := die * 32 + n
  (s.l2.filter (fun l => l.2.window == some w)).map (·.1)

/-- FMT_WIN_DISABLE_DONE: the window's dirty lines are written back, its lines are invalid, and EN reads 0 (R77). -/
def execFmtWinDisableDone (die n : Nat) (s : State) : Host.Outcome State Fault Refusal :=
  .next (
    if !(winExists die n && (s.die die).winClosing.contains n) then s
    else
      ((s.winLines die n).foldl (fun (s : State) l => s.evictLine l) s).modDie die (fun D =>
        { D with
          winClosing := D.winClosing.filter (· != n)
          winCtl := mput 0 D.winCtl n (mget 0 D.winCtl n &&& 0x7FFFFFFF) }))

/-- FMT_WIN_FLAG_CLEAR: ones are written to SAT or NAN (R73). -/
def execFmtWinFlagClear (die n : Nat) (sat nan : Bool) (s : State) : Host.Outcome State Fault Refusal :=
  .next (
    let m : Word := (if sat then 0x20000000 else 0) ||| (if nan then 0x10000000 else 0)
    if winExists die n then s.modDie die (fun D => { D with winCtl := mput 0 D.winCtl n (mget 0 D.winCtl n &&& ~~~m) }) else s)

/-! ### The RAS ring (R365, R366) -/

/-- RAS_CTL's LOG2N as it acts: 6 to 20, other values as 6. -/
def Die.rasLog (D : Die) : Nat :=
  let n := (D.rasCtl.extractLsb' 0 5).toNat
  if 6 ≤ n ∧ n ≤ 20 then n else 6

/-- RAS_OVF_CLEAR: a one is written to OVF (R365 Table 3). -/
def execRasOvfClear (die : Nat) (s : State) : Host.Outcome State Fault Refusal :=
  .next (if die < 4 then s.modDie die (fun D => { D with rasCtl := D.rasCtl &&& 0xBFFFFFFF }) else s)

/-- The 64 bytes of a record (R366 Table 4), with the fields that the engine writes: SEQ, DIE and TIME. -/
def RasRec.bytes (r : RasRec) (seq : Word) (die : Nat) (time : DWord) : List Byte :=
  let w0 := seq.toNat * 2 ^ 32 + die * 2 ^ 24 + (if r.pv then 2 ^ 17 else 0) + (if r.sw then 2 ^ 16 else 0) +
    r.sub % 256 * 256 + r.type % 256
  let rest :=
    leBytes 8 (r.pkt.toNat * 2 ^ 32 + r.cause % 65536 * 2 ^ 16 + r.part % 16 * 2 ^ 12 + r.queue % 4096) ++
    leBytes 8 (r.bid.toNat * 2 ^ 32 + r.wid.toNat) ++ leBytes 8 r.va.toNat ++ leBytes 8 r.pa.toNat ++
    leBytes 4 r.info0.toNat ++ leBytes 4 r.info1.toNat ++ leBytes 4 r.info2.toNat ++ leBytes 4 r.info3.toNat
  leBytes 8 w0 ++ leBytes 8 time.toNat ++ (if r.raw = [] then rest else r.raw)

/-- Where record n of a die's ring lies. -/
def Die.rasSlot (D : Die) (n : Nat) : Nat := D.rasBase.toNat + 64 * (n % 2 ^ D.rasLog)

/-- RAS_APPEND: the engine takes its next record: it writes it at the head, or drops it when the ring is full or EN is
0. It takes the next one only after RAS_HEAD has passed the last (R365). -/
def execRasAppend (die : Nat) (s : State) : Host.Outcome State Fault Refusal :=
  .next (
    let D := s.die die
    match D.rasQueue with
    | [] => s
    | r :: rest =>
      if D.rasWritten ≠ [] || 4 ≤ die then s
      else
        let s := s.modDie die (fun D => { D with rasQueue := rest })
        if !D.rasCtl.getLsbD 31 || (D.rasHead - D.rasTail).toNat == 2 ^ D.rasLog then
          s.modDie die (fun D => { D with
            rasCtl := D.rasCtl ||| 0x40000000
            rasDrops := if D.rasDrops = 0xFFFFFFFF then D.rasDrops else D.rasDrops + 1 })
        else
          let a := D.rasSlot D.rasHead.toNat
          let s := (s.homePut a (r.bytes D.rasHead die (s.dieTime die))).clearPoison a 64
          s.modDie die (fun D => { D with rasWritten := [(s.completionTimes a die).2] }))

/-- RAS_HEAD_ADVANCE: the write's gwct has passed: RAS_HEAD advances, and IEN raises vector 63 of the PF (R365). -/
def execRasHeadAdvance (die : Nat) (s : State) : Host.Outcome State Fault Refusal :=
  .next (
    let D := s.die die
    match D.rasWritten with
    | [] => s
    | t :: rest =>
      if !s.past die t then s
      else
        let s := s.modDie die (fun D => { D with rasWritten := rest, rasHead := D.rasHead + 1 })
        if D.rasCtl.getLsbD 29 then s.send (.msix 0 63) else s)

/-! ### Registers that store what is written (R3) -/

/-- The address field of the format window and RAS base registers: bits 47:12. -/
def addrField (v : DWord) : DWord := v &&& 0x0000FFFFFFFFF000

/-- A write to a register of a die; bits that a table gives as reserved or read-only keep their values (R3). -/
def Die.write (D : Die) (r : Reg) (v : DWord) : Die :=
  let x := loHalf v
  match r with
  | .fmtWinView _ n =>
    if winEn (mget 0 D.winCtl n) then D else { D with winView := mput 0 D.winView n (addrField v) }
  | .fmtWinStore _ n =>
    if winEn (mget 0 D.winCtl n) then D else { D with winStore := mput 0 D.winStore n (addrField v) }
  | .fmtWinScale _ n =>
    if winEn (mget 0 D.winCtl n) then D else { D with winScale := mput 0 D.winScale n (addrField v) }
  | .fmtWinCtl _ n => D.winWrite n x
  | .svcCfg _ n => { D with svcCfg := mput 0xFFFF1010 D.svcCfg n (x &&& 0xFFFFFFF8) }
  | .leaseCls _ n => { D with lease := mput (leaseReset n) D.lease n (v &&& 0x0FFFFFFFFFFFFFFF) }
  | .poolCfg _ n => D.poolWrite n v
  | .poolStat _ n =>
    if D.poolEn n then D
    else { D with poolStat := mput 0 D.poolStat n (pairOf (loHalf (mget 0 D.poolStat n)) (hiHalf v)) }
  | .poolQref _ n => if D.poolEn n then D else { D with poolQref := mput 0 D.poolQref n (x &&& 0xFFF) }
  | .mxGov _ => { D with mxGov := x &&& 0x3F }
  | .wdogCfg _ => { D with wdogCfg := x &&& 0x8000003F }
  | .raceCtl _ => { D with raceCtl := x &&& 0xC000FFFF }
  | .rasBase _ => { D with rasBase := addrField v }
  | .rasCtl _ =>
    { D with rasCtl := (x &&& 0xA000001F) ||| (D.rasCtl &&& 0x40000000 &&& ~~~x) }
  | .rasTail _ => { D with rasTail := x }
  | .zincKey _ | .zincJview | .hostwin => D

/-- The die and the number that a register's name gives, and how many there are. -/
def regPlace : Reg → Nat × Nat × Nat
  | .fmtWinView d n | .fmtWinStore d n | .fmtWinScale d n | .fmtWinCtl d n => (d, n, 32)
  | .svcCfg d n => (d, n, 16)
  | .leaseCls d n => (d, n, 8)
  | .poolCfg d n | .poolStat d n | .poolQref d n => (d, n, 16)
  | .mxGov d | .wdogCfg d | .raceCtl d | .rasBase d | .rasCtl d | .rasTail d => (d, 0, 1)
  | .zincKey n => (0, n, 8)
  | .zincJview | .hostwin => (0, 0, 1)

/-- The RAS register that a write at an offset of a function's BAR0 reaches: at 0x9000 + 0x40 × die of the PF's, RAS_BASE, RAS_CTL and
RAS_TAIL; RAS_HEAD and RAS_DROPS take no write, and no VF has them (R365). -/
def bar0Reg (func off : Nat) : Option Reg :=
  let d := (off - 0x9000) / 0x40
  if func ≠ 0 ∨ off < 0x9000 ∨ 4 ≤ d then none
  else match off % 0x40 with
    | 0x00 => some (.rasBase d)
    | 0x08 => some (.rasCtl d)
    | 0x18 => some (.rasTail d)
    | _ => none

/-- REGISTER_WRITE (R3): a register is written, by firmware or, where it has a place there, through the PF's BAR0 (`bar0Reg`). ZINC_KEY_n and ZINC_JVIEW take a write only while the package is a
member of no view (R371, R379); the firmware writes them before a VJOIN, whose request is then a new one (R376). -/
def execRegisterWrite (r : Reg) (v : DWord) (s : State) : Host.Outcome State Fault Refusal :=
  .next (
    let p := regPlace r
    if 4 ≤ p.1 || p.2.2 ≤ p.2.1 then s
    else
      match r with
      | .zincKey n =>
        if s.zinc.member then s else { s with zinc := { s.zinc with key := mput 0 s.zinc.key n (loHalf v), joining := false } }
      | .zincJview => if s.zinc.member then s else { s with zinc := { s.zinc with jview := loHalf v, joining := false } }
      | .hostwin => { s with island := { s.island with hostwin := v } }
      | _ => s.modDie p.1 (fun D => D.write r v))

/-! ### The host's accesses (R299, R301) -/

/-- Whether BAR2 of a function reaches bytes of the package's own memory: the PF all that has a home, a VF only its
partition's (R71, R299). -/
def State.barReaches (s : State) (func a n : Nat) : Bool :=
  let within (p : Partition) : Bool := decide (p.base ≤ a ∧ a + n ≤ p.top)
  decide (a + n ≤ 0xC000000000) &&
  (if s.partitioned then
    (if func = 0 then s.parts.any (fun p => within p.2) else (mfind s.parts (func - 1)).any within)
  else decide (func = 0) || (mfind s.parts (func - 1)).isSome)

/-- HOST_BAR2_ACCESS: the host writes or reads device memory at an offset of the package's 1 TiB (R301). What the
function does not reach is left alone. -/
def execHostBar2Access (func addr : Nat) (data : Option (List Byte)) (len : Nat) (s : State) :
    Host.Outcome State Fault Refusal :=
  .next (
    let n := (data.map (·.length)).getD len
    let a := s.zinc.self * 2 ^ 40 + addr
    if n = 0 || !s.barReaches func addr n || (data.isSome && s.heldByOther 0 a n) then s
    else
      match data with
      | some b => (s.homePutRun a b).clearPoison a n
      | none => s.send (.read func (s.bytesAt a n)))

end Sys2Proof.Machine
end

