-- ==== Sys2Proof/Machine/Crypto.lean ====
section
/-! DEFINITION. SHA-256, HMAC-SHA-256 and the check of an LMS signature, which the measurement registers, the view keys and
signed boot use (R308, R309, R368, R371). The manual names the functions; FIPS 180-4, RFC 2104 and RFC 8554 give them. -/

namespace Sys2Proof.Machine

/-- The first 64 primes: a number below 19² that none of the primes below 19 divides properly. -/
def shaPrimes : List Nat :=
  (List.range 312).filter (fun n => 2 ≤ n && [2, 3, 5, 7, 11, 13, 17].all (fun d => n == d || n % d != 0))

/-- The greatest number below 2^n, above what `r` has fixed already, whose k-th power is at most x. -/
def rootBelow (k x : Nat) : Nat → Nat → Nat
  | 0, r => r
  | n + 1, r => rootBelow k x n (if (r + 2 ^ n) ^ k ≤ x then r + 2 ^ n else r)

/-- The first 32 bits of the fractional part of the k-th root of p. -/
def rootBits (k p : Nat) : Word := BitVec.ofNat 32 (rootBelow k (p * 2 ^ (32 * k)) 40 0)

/-- The round constants, from the cube roots of the first 64 primes (FIPS 180-4). -/
def shaK : List Word := shaPrimes.map (rootBits 3)

/-- The initial hash value, from the square roots of the first eight (FIPS 180-4). -/
def shaInit : List Word := (shaPrimes.take 8).map (rootBits 2)

/-- A big-endian 32-bit word of four bytes. -/
def beWord (b : List Byte) : Word :=
  (b.getD 0 0).setWidth 32 <<< 24 ||| (b.getD 1 0).setWidth 32 <<< 16 ||| (b.getD 2 0).setWidth 32 <<< 8 ||| (b.getD 3 0).setWidth 32

/-- The message with its padding and its length in bits (FIPS 180-4). -/
def shaPad (m : List Byte) : List Byte :=
  m ++ [0x80] ++ List.replicate ((119 - m.length % 64) % 64) 0 ++ (leBytes 8 (8 * m.length)).reverse

/-- The message schedule, newest word first: `n` more words after the block's sixteen. -/
def shaSchedule : Nat → List Word → List Word
  | 0, w => w
  | n + 1, w =>
    let a := w.getD 14 0
    let b := w.getD 1 0
    let s0 := a.rotateRight 7 ^^^ a.rotateRight 18 ^^^ (a >>> 3)
    let s1 := b.rotateRight 17 ^^^ b.rotateRight 19 ^^^ (b >>> 10)
    shaSchedule n ((w.getD 15 0 + s0 + w.getD 6 0 + s1) :: w)

/-- One round on the eight working variables. -/
def shaRound (h : List Word) (kw : Word × Word) : List Word :=
  let a := h.getD 0 0
  let b := h.getD 1 0
  let c := h.getD 2 0
  let e := h.getD 4 0
  let f := h.getD 5 0
  let g := h.getD 6 0
  let t1 := h.getD 7 0 + (e.rotateRight 6 ^^^ e.rotateRight 11 ^^^ e.rotateRight 25) + ((e &&& f) ^^^ (~~~e &&& g)) + kw.1 + kw.2
  let t2 := (a.rotateRight 2 ^^^ a.rotateRight 13 ^^^ a.rotateRight 22) + ((a &&& b) ^^^ (a &&& c) ^^^ (b &&& c))
  [t1 + t2, a, b, c, h.getD 3 0 + t1, e, f, g]

/-- The hash value after one 64-byte block. -/
def shaBlock (h : List Word) (m : List Byte) : List Word :=
  let w := (shaSchedule 48 ((List.range 16).map (fun i => beWord (m.drop (4 * i)))).reverse).reverse
  List.zipWith (· + ·) h ((shaK.zip w).foldl shaRound h)

/-- SHA-256: 32 bytes. -/
def sha256 (m : List Byte) : List Byte :=
  let p := shaPad m
  let h := (List.range (p.length / 64)).foldl (fun h i => shaBlock h ((p.drop (64 * i)).take 64)) shaInit
  h.foldr (fun x acc => (leBytes 4 x.toNat).reverse ++ acc) []

/-- HMAC-SHA-256 under a key of at most 64 bytes (RFC 2104). -/
def hmacSha256 (key m : List Byte) : List Byte :=
  let k := key ++ List.replicate (64 - key.length) 0
  sha256 (k.map (· ^^^ 0x5c) ++ sha256 (k.map (· ^^^ 0x36) ++ m))

/-! ### LMS_SHA256_M32_H20 with LMOTS_SHA256_N32_W4 (R308, RFC 8554) -/

/-- A big-endian number of n bytes. -/
def beBytes (n v : Nat) : List Byte := (leBytes n v).reverse

/-- The number that bytes at an offset hold, big-endian. -/
def beAt (b : List Byte) (off n : Nat) : Nat := leNat ((b.drop off).take n).reverse

/-- The 4-bit digits of some bytes. -/
def nibbles (b : List Byte) : List Nat := b.foldr (fun x acc => x.toNat / 16 :: x.toNat % 16 :: acc) []

/-- The 67 digits that a one-time signature covers: those of the digest, then three of their checksum. -/
def otsDigits (digest : List Byte) : List Nat :=
  let d := nibbles digest
  d ++ (nibbles (beBytes 2 (16 * d.foldl (fun n x => n + (15 - x)) 0))).take 3

/-- The one-time public key that a signature of a message leads to, for leaf q of the key `id`: each chain goes on from its
digit to 15. -/
def otsKey (id : List Byte) (q : Nat) (m sig : List Byte) : List Byte :=
  let tail : List Byte := id ++ beBytes 4 q
  let digest := sha256 (tail ++ beBytes 2 0x8181 ++ (sig.drop 4).take 32 ++ m)
  let chain (x : Nat × Nat) : List Byte :=
    (List.range (15 - x.1)).foldl (fun y j => sha256 (tail ++ beBytes 2 x.2 ++ beBytes 1 (x.1 + j) ++ y)) ((sig.drop (36 + 32 * x.2)).take 32)
  sha256 (tail ++ beBytes 2 0x8080 ++ (otsDigits digest).zipIdx.foldr (fun x acc => chain x ++ acc) [])

/-- Whether a signature of a message is valid under a public key: the path from its leaf ends in the key's root. -/
def lmsVerifies (key m sig : List Byte) : Bool :=
  let id := (key.drop 8).take 16
  let q := beAt sig 0 4
  let node (n : Nat) (d : Nat) (x : List Byte) : List Byte := sha256 (id ++ beBytes 4 n ++ beBytes 2 d ++ x)
  let leaf := node (2 ^ 20 + q) 0x8282 (otsKey id q m (sig.drop 4))
  let root := (List.range 20).foldl (fun x i =>
    let n := (2 ^ 20 + q) / 2 ^ i
    let y := (sig.drop (2188 + 32 * i)).take 32
    node (n / 2) 0x8383 (if n % 2 = 1 then y ++ x else x ++ y)) leaf
  key.length == 56 && beAt key 0 4 == 8 && beAt key 4 4 == 3 && sig.length == 2828 && decide (q < 2 ^ 20) &&
    beAt sig 4 4 == 3 && beAt sig 2184 4 == 8 && root == key.drop 24

end Sys2Proof.Machine
end

