-- ==== Sys2Proof/Machine/Fabric.lean ====
section
/-! DEFINITION. Links, heartbeats, suspicion, RESET messages, and the forming and installing of views (R302, R303, R367,
R368, R370 to R373, R376, R378 to R380). -/

namespace Sys2Proof.Machine

/-! ### Links (R303, R366) -/

/-- The version at which a link runs: the highest that the other end's range and 2 to 3 both contain (R303). -/
def linkVersion (lo hi : Nat) : Option Nat := commonVersion (lo, hi) (2, 3)

/-- LINK_BRINGUP: a port comes up at the highest common version, or stays down and leaves a LINK record (R303). -/
def execLinkBringup (port peer lo hi : Nat) (s : State) : Host.Outcome State Fault Refusal :=
  .next (
    if 64 ≤ port then s
    else
      match linkVersion lo hi with
      | some v =>
        State.send { s with
          island := { s.island with
            ports := minsert s.island.ports port v
            peers := minsert s.island.peers port peer } } (.linkUp port v)
      | none =>
        s.ras (port / 16) {
          type := 8, sub := 1, info0 := BitVec.ofNat 32 port
          info1 := BitVec.ofNat 32 (leNat [2, 3, BitVec.ofNat 8 lo, BitVec.ofNat 8 hi]) })

/-- LINK_DOWN: a port that was up goes down (R366). -/
def execLinkDown (port : Nat) (s : State) : Host.Outcome State Fault Refusal :=
  .next (
    if (mfind s.island.ports port).isNone then s
    else
      State.ras { s with island := { s.island with
          ports := merase s.island.ports port
          peers := merase s.island.peers port } }
        (port / 16) { type := 8, sub := 2, info0 := BitVec.ofNat 32 port })

/-! ### Suspicion and quorum (R367, R380) -/

/-- The direct neighbours of a package that the view's rank map names. -/
def Zinc.near (z : Zinc) (p : Nat) : List Nat := ((z.neighbours.find? (fun x => x.1 == p)).map (·.2)).getD []

/-- The neighbours of a package from which this package holds a suspicion. -/
def Zinc.suspecters (z : Zinc) (p : Nat) : List Nat := (z.near p).filter (fun x => z.suspects.contains (p, x))

/-- A quorum against a package: a majority of its direct neighbours, at least two of them (R367). -/
def Zinc.quorum (z : Zinc) (p : Nat) : Bool :=
  decide (2 ≤ (z.suspecters p).length ∧ (z.near p).length < 2 * (z.suspecters p).length)

/-- A BEAT record: the silent package, a level and the view (R366). -/
def State.rasBeat (s : State) (sub p level view : Nat) : State :=
  s.ras s.island.active {
    type := 9, sub := sub, info0 := BitVec.ofNat 32 p, info1 := BitVec.ofNat 32 level, info2 := BitVec.ofNat 32 view }

/-! ### View keys (R368, R371) -/

/-- A key's 32 bytes, from its eight words. -/
def keyBytes (k : NMap Word) : List Byte := (List.range 8).foldr (fun n acc => leBytes 4 (mget 0 k n).toNat ++ acc) []

/-- A key's eight words, from its 32 bytes. -/
def keyWords (b : List Byte) : NMap Word :=
  (List.range 8).foldl (fun m n => mput 0 m n (BitVec.ofNat 32 (fieldAt b (4 * n) 4))) []

/-- A member bitmap's 32 bytes: bit p is bit p mod 8 of byte p / 8. -/
def bitmapBytes (ps : List Nat) : List Byte :=
  (List.range 32).map (fun i => (List.range 8).foldl (fun (x : Byte) j => if ps.contains (8 * i + j) then x ||| ((1 : Byte) <<< j) else x) 0)

/-- The key of view v from the key of the view before it (R371). -/
def nextKey (k : NMap Word) (v : Nat) (bitmap : List Nat) : NMap Word :=
  keyWords (hmacSha256 (keyBytes k) (leBytes 4 v ++ bitmapBytes bitmap))

/-- The tag of a RESET over its fields, under a key (R368). -/
def resetTag (k : NMap Word) (m : ResetMsg) : BitVec 256 :=
  BitVec.ofNat 256 (leNat (hmacSha256 (keyBytes k)
    (leBytes 2 m.target.toNat ++ leBytes 2 m.sender.toNat ++ leBytes 4 m.view.toNat ++ leBytes 1 m.level.toNat ++
      leBytes 8 m.time.toNat)))

/-- Send a RESET to a package's active island (R367, R368). -/
def State.sendReset (s : State) (p level : Nat) : State :=
  let z := s.zinc
  let m : ResetMsg := {
    target := BitVec.ofNat 16 p
    sender := BitVec.ofNat 16 z.self
    view := BitVec.ofNat 32 z.view
    level := BitVec.ofNat 8 level
    time := s.dieTime s.island.active
    tag := 0 }
  let m := { m with tag := resetTag z.key m }
  (s.rasBeat 2 p level z.view).send (.reset m)

/-! ### Installing and leaving a view (R371 to R373) -/

/-- The views that a COMMIT brings a package, the one that it installs the last, with their bitmaps (R371, R376). -/
def Zinc.newViews (z : Zinc) (m : ViewMsg) : List (Nat × List Nat) :=
  m.past.filter (fun x => z.known < x.1 && x.1 < m.view) ++ [(m.view, m.bitmap)]

/-- Install a view: number, bitmap, leader, rank map and key; then the operations of the old view are settled (R371,
R373, R378). A JOIN that the package holds for a leader that it is no longer goes to the new one (R376, R380). -/
def State.install (s : State) (m : ViewMsg) : State :=
  let z := s.zinc
  let news := z.newViews m
  let key := news.foldl (fun k x => nextKey k x.1 x.2) z.key
  let joins := z.joins.filter (fun j => !m.bitmap.contains j.1)
  let s := if m.leader = z.self then s else s.sendAll (joins.map (fun j => .join m.leader j.1 j.2))
  (s.modZinc (fun z =>
    { z with
      view := m.view
      bitmap := m.bitmap
      leader := m.leader
      ranks := m.ranks
      neighbours := if m.links = [] then z.neighbours else m.links
      member := true
      joining := false
      key := key
      oldKey := z.key
      proposal := none
      acks := []
      ackedTo := none
      island := none
      joins := if m.leader = z.self then joins else []
      history := (z.history ++ news).drop (z.history.length + news.length - 256)
      since := s.time })).collSettle

/-- Become a non-member: the last view of membership stays in ZINC_JVIEW (R372, R379). -/
def State.leaveView (s : State) : State :=
  if !s.zinc.member then s
  else
    (s.modZinc (fun z =>
      { z with
        member := false
        joining := false
        jview := BitVec.ofNat 32 z.view
        proposal := none
        acks := []
        ackedTo := none
        joins := [] })).collSettle

/-! ### Forming a view (R370, R376) -/

/-- The packages of the next view: the members and the packages that ask to join against which no quorum stands, in
ascending number. -/
def Zinc.want (z : Zinc) : List Nat :=
  (List.range 256).filter (fun p => (z.bitmap.contains p || z.joins.any (fun j => j.1 == p)) && !z.quorum p)

/-- The proposer: the lowest-numbered member that no quorum suspects (R370). -/
def Zinc.proposer (z : Zinc) : Option Nat := (z.bitmap.filter (fun p => !z.quorum p)).min?

/-- Whether another member's proposal for the next view has been heard here and may still commit. -/
def Zinc.waitsFor (z : Zinc) : Bool :=
  match z.ackedTo with
  | some (v, src) => v == z.view + 1 && !z.quorum src
  | none => false

/-- The proposal of the next view with some packages: the rank map keeps the members' order, joiners after them. -/
def Zinc.proposalOf (z : Zinc) (bits : List Nat) : ViewMsg :=
  let js := (z.joins.filter (fun j => bits.contains j.1)).map (·.2)
  let from_ := js.foldl min z.view
  { src := z.self
    view := z.view + 1
    bitmap := bits
    leader := bits.headD 0
    ranks := z.ranks.filter bits.contains ++ bits.filter (fun p => !z.ranks.contains p)
    links := z.neighbours
    past := z.history.filter (fun x => from_ < x.1) ++ [(z.view + 1, bits)] }

/-- Send COMMIT and install the view (R370 step 5). -/
def State.commitView (s : State) (m : ViewMsg) : State := (s.send (.commit m)).install m

/-- Send PROPOSE for the next view with some packages; one with no other package commits at once (R370). -/
def State.proposeView (s : State) (bits : List Nat) : State :=
  let m := s.zinc.proposalOf bits
  let s := (s.modZinc (fun z => { z with proposal := some m, acks := [z.self], proposedAt := s.time })).send (.propose m)
  if bits.all (fun p => p == s.zinc.self) then s.commitView m else s

/-- Start a formation where this package is its proposer, one is due and none is under way (R370). -/
def State.tryForm (s : State) : State :=
  let z := s.zinc
  if z.member && z.proposal.isNone && !z.waitsFor && z.proposer == some z.self && z.want != z.bitmap then s.proposeView z.want
  else s

/-- What follows a change of the suspicions held: a quorum against a package, new here, sends it a level-1 RESET; one that
no longer stands forgets the RESET; and a formation may start (R367, R368, R370, R380). -/
def State.weighQuorum (s : State) (had : Bool) (p : Nat) : State :=
  let z := s.zinc
  let s : State :=
    if z.quorum p && !had && z.member then
      (s.sendReset p 1).modZinc (fun z => { z with resetSent := minsert z.resetSent p s.time })
    else if !z.quorum p then s.modZinc (fun z => { z with resetSent := merase z.resetSent p })
    else s
  s.tryForm

/-- BEAT_SEND: a die sends a BEAT on each of its links; LIVE is 1 while its firmware core has refreshed its liveness word
within the last 150 microseconds (R367). -/
def execBeatSend (die : Nat) (s : State) : Host.Outcome State Fault Refusal :=
  .next (
    if 4 ≤ die then s
    else
      let now := s.dieTime die
      let s : State :=
        if (s.die die).firmware then { s with island := { s.island with liveness := minsert s.island.liveness die now } } else s
      let live := (mfind s.island.liveness die).any (fun t => decide (now.toNat ≤ t.toNat + 150000))
      s.send (.beat die live))

/-- Whether a package is a direct neighbour of this one. -/
def State.isNear (s : State) (p : Nat) : Bool := s.linked.contains p || (s.zinc.near p).contains s.zinc.self

/-- BEAT_WINDOW_END: a 50 microsecond window of a neighbour ends: LIVE 1 drops the suspicion, the third window missed in a
row raises it (R367, R380). -/
def execBeatWindowEnd (p : Nat) (beat live : Bool) (s : State) : Host.Outcome State Fault Refusal :=
  .next (
    let z := s.zinc
    let others := (z.near p).filter (fun x => x != z.self)
    if !s.isNear p then s
    else if beat && live then
      let mine := z.suspects.contains (p, z.self)
      let s := s.modZinc (fun z => { z with misses := merase z.misses p, suspects := z.suspects.filter (· != (p, z.self)) })
      let s := if mine then s.sendAll (others.map (fun x => .withdraw p x)) else s
      s.weighQuorum (z.quorum p) p
    else
      let n := mget 0 z.misses p + 1
      let s := s.modZinc (fun z => { z with misses := mput 0 z.misses p n })
      if n ≠ 3 || z.suspects.contains (p, z.self) then s
      else
        let s := s.rasBeat 1 p 0 z.view
        let s := (s.modZinc (fun z => { z with suspects := z.suspects ++ [(p, z.self)] })).sendAll (others.map (fun x => .suspect p x))
        s.weighQuorum (z.quorum p) p)

/-- SUSPECT: a neighbour's suspicion of a package arrives, or its withdrawal (R367, R380). -/
def execSuspect (src p : Nat) (holds : Bool) (s : State) : Host.Outcome State Fault Refusal :=
  .next (
    let z := s.zinc
    let rest := z.suspects.filter (· != (p, src))
    (s.modZinc (fun z => { z with suspects := if holds then rest ++ [(p, src)] else rest })).weighQuorum (z.quorum p) p)

/-! ### RESET (R368) -/

/-- Whether a change of view is in flight here: a formation is under way, or the last one may not have reached every
member yet (R370). -/
def State.viewInFlight (s : State) : Bool :=
  s.zinc.proposal.isSome || s.zinc.waitsFor || decide (s.time.toNat ≤ s.zinc.since.toNat + 50000)

/-- The key under which the island verifies a RESET: its view must be the current one, or the one before it while a change
is in flight. -/
def State.resetKey (s : State) (m : ResetMsg) : Option (NMap Word) :=
  match s.zinc.island with
  | some (v, k) => if m.view.toNat = v then some k else none
  | none =>
    let v := s.zinc.known
    if m.view.toNat = v then some s.zinc.key
    else if m.view.toNat + 1 = v && s.viewInFlight then some s.zinc.oldKey
    else none

/-- Whether the island accepts a RESET (R368). -/
def State.resetOk (s : State) (m : ResetMsg) : Bool :=
  let now := (s.dieTime s.island.active).toNat
  let t := m.time.toNat
  m.target.toNat == s.zinc.self && decide (t ≤ now + 1000000 ∧ now ≤ t + 1000000) &&
  (match mfind s.zinc.resetTime m.sender.toNat with
    | some last => decide (last.toNat < t)
    | none => true) &&
  (s.resetKey m).any (fun k => resetTag k m == m.tag)

/-- Level 1: the four firmware cores are reset. User warps run on and Tin serves the queues (R368, R369). -/
def State.resetFirmware (s : State) : State :=
  let s := (List.range 4).foldl (fun (s : State) d =>
    let t := s.dieTime d
    let s : State :=
      if (s.die d).firmware then { s with island := { s.island with liveness := minsert s.island.liveness d t } } else s
    s.modDie d (fun D => { D with firmware := false, tin := none })) s
  { s with warps := s.warps.map (fun x =>
      if x.2.mode == .firmware && !x.2.ended then (x.1, { x.2 with ended := true, killed := true }) else x) }

/-- A partition as it is formed: its grace periods start again (R106). -/
def Partition.fresh (P : Partition) : Partition :=
  { dies := P.dies, clusters := P.clusters, base := P.base, top := P.top }

/-- Level 2: everything in the package but the islands is reset: every warp is gone without a record, HBM's contents are
undefined, and no queue is registered (R368). The lease clock goes on; memory outside the package stays. -/
def State.resetPackage (s : State) : State :=
  let own (a : Nat) : Bool := packageOf a == s.zinc.self && !inHostWindow a
  { State.reset with
    agenda := s.agenda
    fresh := s.fresh
    nextId := s.nextId
    cycle := s.cycle
    time := s.time
    dies := s.dies.map (fun d => (d.1, { skew := d.2.skew }))
    parts := s.parts.map (fun p => (p.1, p.2.fresh))
    partitioned := s.partitioned
    mem := s.mem.filter (fun c => !own c.1 && c.2 != unwritten (s.epoch + 1) c.1)
    host := s.host
    epoch := s.epoch + 1
    zinc := {
      self := s.zinc.self
      resetTime := s.zinc.resetTime
      resetsActed := s.zinc.resetsActed
      island := some (s.zinc.known, s.zinc.key) }
    island := { s.island with ports := [], peers := [], liveness := [], hostwin := 0 }
    sent := s.sent }

/-- Whether a RESET is a further copy of one that the island has acted on. -/
def State.resetCopy (s : State) (m : ResetMsg) : Bool :=
  m.target.toNat == s.zinc.self && s.zinc.resetsActed.contains (m.view.toNat, m.level.toNat) &&
  (s.resetKey m).any (fun k => resetTag k m == m.tag)

/-- RESET: the island acts on the first one it accepts for each view and level and ignores further copies; a rejected one leaves a
BEAT record (R368). An accepted one says that a quorum is held against this package, which leaves the view (R372). -/
def execReset (m : ResetMsg) (s : State) : Host.Outcome State Fault Refusal :=
  .next (
    let level := m.level.toNat
    let view := m.view.toNat
    if !s.resetOk m then (if s.resetCopy m then s else s.rasBeat 4 s.zinc.self level view)
    else
      let seen := s.zinc.resetsActed.contains (view, level)
      let s := s.modZinc (fun z => { z with
        resetTime := minsert z.resetTime m.sender.toNat m.time
        resetsActed := if seen then z.resetsActed else (view, level) :: z.resetsActed })
      if seen then s
      else
        let s := s.leaveView
        let s := if level = 1 then s.resetFirmware else if level = 2 then s.resetPackage else s
        s.rasBeat 3 s.zinc.self level view)

/-- RESET_ESCALATE_TIMEOUT: 300 ms after level 1, a quorum that still misses beats sends level 2 (R368). -/
def execResetEscalateTimeout (p : Nat) (s : State) : Host.Outcome State Fault Refusal :=
  .next (
    let z := s.zinc
    match mfind z.resetSent p with
    | none => s
    | some t =>
      if s.time.toNat < t.toNat + 300000000 || !z.quorum p || mget 0 z.misses p = 0 || !z.member then s
      else (s.sendReset p 2).modZinc (fun z => { z with resetSent := merase z.resetSent p }))

/-! ### The messages of a formation (R370 to R372, R376) -/

/-- PROPOSE: a proposed member answers ACK, to the lowest-numbered proposer that it has heard; a proposer that hears a
lower one withdraws (R370). -/
def execPropose (m : ViewMsg) (s : State) : Host.Outcome State Fault Refusal :=
  .next (
    let z := s.zinc
    let due := if z.member then m.view == z.view + 1 else z.joining && decide (z.known < m.view)
    let lower := match z.ackedTo with
      | some (v, src) => v == m.view && decide (src < m.src) && !z.quorum src
      | none => false
    let mine := z.proposal.any (fun x => decide (x.src < m.src))
    if !due || m.src == z.self || lower || mine then s
    else
      let s := s.modZinc (fun z => { z with proposal := none, acks := [], ackedTo := some (m.view, m.src) })
      if m.bitmap.contains z.self then s.send (.ack m.src m.view) else s)

/-- ACK: when every proposed member has acknowledged, the proposer commits (R370). -/
def execAck (src view : Nat) (s : State) : Host.Outcome State Fault Refusal :=
  .next (
    match s.zinc.proposal with
    | none => s
    | some m =>
      if m.view ≠ view || !m.bitmap.contains src then s
      else
        let acks := if s.zinc.acks.contains src then s.zinc.acks else s.zinc.acks ++ [src]
        let s := s.modZinc (fun z => { z with acks := acks })
        if m.bitmap.all acks.contains then (s.commitView m).tryForm else s)

/-- ACK_TIMEOUT: a member that has not acknowledged within 10 microseconds is left out of a new PROPOSE for the same
number (R370). -/
def execAckTimeout (s : State) : Host.Outcome State Fault Refusal :=
  .next (
    match s.zinc.proposal with
    | none => s
    | some m => if s.time.toNat < s.zinc.proposedAt.toNat + 10000 then s
      else s.proposeView (m.bitmap.filter s.zinc.acks.contains))

/-- COMMIT: a package that the view names installs it; a member that it leaves out becomes a non-member, which comes back only by
its JOIN (R370 to R372, R376). A package that has been in no view yet may be named by the first. -/
def execCommit (m : ViewMsg) (s : State) : Host.Outcome State Fault Refusal :=
  .next (
    let z := s.zinc
    let first := z.history == [] && z.jview == 0 && z.island.isNone
    let due := if z.member then m.view == z.view + 1 else (z.joining || first) && decide (z.known < m.view)
    if !due then s
    else if m.bitmap.contains z.self then (s.install m).tryForm
    else s.leaveView)

/-- JOIN: a member forwards it to the leader, which starts a formation; one from a package more than 255 views behind is
refused, one from a suspected package is held (R370, R376). -/
def execJoin (src jview : Nat) (s : State) : Host.Outcome State Fault Refusal :=
  .next (
    let z := s.zinc
    if !z.member || z.bitmap.contains src || jview + 255 < z.view then s
    else if z.leader ≠ z.self then s.send (.join z.leader src jview)
    else
      (s.modZinc (fun z => { z with joins := z.joins.filter (fun j => j.1 != src) ++ [(src, jview)] })).tryForm)

/-- VACK_ARRIVAL: another member's acknowledgement of a view for a communicator reaches the Zinc unit (R277). -/
def execVackArrival (src cid view : Nat) (s : State) : Host.Outcome State Fault Refusal :=
  .next (s.modZinc (fun z =>
    let a := mget [] z.acked (ackKey view cid)
    { z with acked := minsert z.acked (ackKey view cid) (if a.contains src then a else a ++ [src]) }))

end Sys2Proof.Machine
end

