-- ==== Sys2Proof/Machine/Boot.lean ====
section
/-! DEFINITION. The Pewter island and the firmware: signed boot, measurement, attestation, health, power, the capability
list, and Tin while the firmware is away (R10, R299, R304, R307 to R314, R369). -/

namespace Sys2Proof.Machine

/-! ### Measurement and takeover (R309, R310) -/

/-- A measurement register's 32 bytes. -/
def Island.mregAt (I : Island) (j : Nat) : List Byte := mget (List.replicate 32 0) I.mreg j

/-- Extend a measurement register (R309). -/
def Island.extend (I : Island) (j : Nat) (v : List Byte) : Island :=
  { I with mreg := mput (List.replicate 32 0) I.mreg j (sha256 (I.mregAt j ++ sha256 v)) }

/-- Change the island. -/
def State.modIsland (s : State) (f : Island → Island) : State := { s with island := f s.island }

/-- MREG_EXTEND: the firmware extends register 8 to 23 at the driver's request (R309). -/
def execMregExtend (j : Nat) (v : List Byte) (s : State) : Host.Outcome State Fault Refusal :=
  .next (if 8 ≤ j ∧ j ≤ 23 ∧ s.island.state = 4 then s.modIsland (fun I => I.extend j v) else s)

/-- ISLAND_HEARTBEAT: the active island on die 0 sends its heartbeat, which reaches the standby or goes missing (R310). -/
def execIslandHeartbeat (arrives : Bool) (s : State) : Host.Outcome State Fault Refusal :=
  .next (
    if s.island.active ≠ 0 then s
    else if arrives then (s.modIsland (fun I => { I with missed := 0 })).send .heartbeat
    else s.modIsland (fun I => { I with missed := I.missed + 1 }))

/-- ISLAND_TAKEOVER: three heartbeats in a row are missing: the standby on die 3 extends MREG_7 with the time, becomes the
active island and writes an ISLAND record (R12, R310). -/
def execIslandTakeover (s : State) : Host.Outcome State Fault Refusal :=
  .next (
    if s.island.active ≠ 0 || s.island.missed < 3 then s
    else
      (s.modIsland (fun I =>
        { I.extend 7 (leBytes 8 (s.dieTime 3).toNat) with active := 3, missed := 0 })).ras 3 { type := 0x0A })

/-! ### Boot (R307, R308, R311) -/

/-- A step of the boot fails, and the boot stops: the island's slice runs it no further (R307). -/
def State.bootFails (s : State) (err : BitVec 4) : State := s.modIsland (fun I => { I with state := 5, err := err, slice := none })

/-- The machine as power finds it: what flash, fuses and the lease-clock domain keep stays, and memory is undefined where
the package was on before (R307, R309, R311). -/
def State.powerOn (s : State) (flashLost : Bool) : State :=
  let used := s.island.state ≠ 0
  let s : State :=
    if !used then s
    else
      { State.reset with
        agenda := s.agenda
        fresh := s.fresh
        nextId := s.nextId
        time := s.time
        epoch := s.epoch + 1
        mem := s.mem.filter (fun c => !(packageOf c.1 == s.zinc.self && !inHostWindow c.1) && c.2 != unwritten (s.epoch + 1) c.1)
        host := s.host
        island := { flashCount := s.island.flashCount, fuses := s.island.fuses }
        sent := s.sent }
  if flashLost then s.modIsland (fun I => { I with flashCount := 0, fuses := I.fuses + 1 }) else s

/-- The failure code of an image, 0 where it verifies: a 64-byte header, the body, and the signature at the offset that the
header gives (R308, Table 6 of R307; log entry 61). -/
def imageFault (b : List Byte) : BitVec 4 :=
  let h := b.take 64
  let off := Config.imageSigOff h
  if !lmsVerifies Config.publisherKey (b.take off) (b.drop off) then 2
  else if Config.imageSvn h < Config.minSvn then 3
  else if !Config.imageMagic h || off ≠ 64 + Config.imageLength h then 4
  else 0

/-- Whether the first stage runs or fetches the firmware image. -/
def Island.fetching (I : Island) : Bool := I.state == 1 || I.state == 2

/-- The first stage, measured, runs on the island's slice (R307). What that slice executes of Kaznik is in code that the manual does
not give, so the steps are events (log entry 85). -/
def Island.firstStage (I : Island) (image : List Byte) : Island :=
  { I.extend 1 image with state := 1, fetchWait := 1, slice := some (.firstStage image) }

/-- BOOT: the ROM measures itself and the first-stage copy that verifies, A before B; the first stage then runs, and it brings
up the management port and fetches the firmware image (R307, R308). -/
def execBoot (a b : BootCopy) (flashLost : Bool) (s : State) : Host.Outcome State Fault Refusal :=
  .next (
    let s := s.powerOn flashLost
    let s := s.modIsland (fun I => I.extend 0 Config.romDigest)
    if imageFault a.image = 0 then s.modIsland (fun I => I.firstStage a.image)
    else if imageFault b.image = 0 then s.modIsland (fun I => I.firstStage b.image)
    else s.bootFails 1)

/-- BOOT_FETCH_RETRY: a fetch failed and is tried again, with STATE 2; the wait doubles up to 64 s (R307). -/
def execBootFetchRetry (s : State) : Host.Outcome State Fault Refusal :=
  .next (if s.island.fetching then s.modIsland (fun I => { I with state := 2, fetchWait := min 64 (2 * I.fetchWait) }) else s)

/-- Whether the partitions of a configuration are ones that R10 allows: 1 to 16, each of core clusters of one die and at least
one, at most four on a die, none sharing a cluster or an address. That the ranges on a die fit its three stacks is not asked, for the
rule does not say what becomes of a configuration that asks for more, DESIGN CHOICE (log entry 86). -/
def partsOk (l : List (Nat × Nat × List Nat × Nat × Nat)) : Bool :=
  decide (l.length ≤ 16) && l.all (fun p => decide (p.1 < 16 ∧ p.2.1 < 4) && p.2.2.1 != [] && p.2.2.1.all (fun c => c / 12 == p.2.1)) &&
  l.all (fun p => l.all (fun q => p.1 == q.1 || decide (p.2.2.2.2 ≤ q.2.2.2.1 ∨ q.2.2.2.2 ≤ p.2.2.2.1))) &&
  decide ((l.map (·.1)).Nodup) && decide ((l.foldr (fun p acc => p.2.2.1 ++ acc) []).Nodup) &&
  (List.range 4).all (fun d => decide ((l.filter (fun p => p.2.1 == d)).length ≤ 4))

/-- The partitions that a configuration makes: partition 0 of all four dies in unified mode (R10). -/
def imageParts (m : FirmwareImage) : NMap Partition :=
  if m.parts = [] then [(0, { dies := [0, 1, 2, 3], clusters := List.range 48 })]
  else m.parts.foldl (fun acc p =>
    minsert acc p.1 { dies := [p.2.1], clusters := p.2.2.1, base := p.2.2.2.1, top := p.2.2.2.2 }) []

/-- FIRMWARE_FETCH_DONE: the image is measured and verified, loaded into the four firmware cores and released; the
firmware applies its configuration and begins to read queues (R5, R10, R307 steps 2 to 5). -/
def execFirmwareFetchDone (m : FirmwareImage) (s : State) : Host.Outcome State Fault Refusal :=
  .next (
    if !s.island.fetching || !partsOk m.parts then s
    else
      let s := s.modIsland (fun I => { I.extend 2 m.url with state := 3 })
      if imageFault m.image ≠ 0 then s.bootFails (imageFault m.image)
      else
        let s := s.modIsland (fun I => I.extend 3 m.image)
        if !m.started then s.bootFails 5
        else
          let s := s.modIsland (fun I => { I.extend 4 (Config.configBytes m.parts m.svc) with state := 4, slice := none })
          let s : State := { s with
            parts := imageParts m
            partitioned := m.parts != []
            zinc := { s.zinc with self := m.number % 256 } }
          (List.range 4).foldl (fun (s : State) d => s.modDie d (fun D =>
            { m.svc.foldl (fun (D : Die) x => D.write (.svcCfg d (x.1 % 16)) (x.2.setWidth 64)) D with firmware := true })) s)

/-! ### Attestation (R311, R312) -/

/-- The number of the next signature. -/
def Island.sigNo (I : Island) : Nat := I.fuses * 2 ^ 20 + I.flashCount

/-- Count a signature before it is released: flash holds the low 20 bits, and a fuse is blown per 2^20 (R311). -/
def Island.countSig (I : Island) : Island :=
  if I.flashCount + 1 = 2 ^ 20 then { I with flashCount := 0, fuses := I.fuses + 1 } else { I with flashCount := I.flashCount + 1 }

/-- The bytes of an SPDM message: the version of its header, its code, and the rest from its first parameter on; GET_VERSION and
VERSION carry version 1.0 (SPDM 1.3). -/
def spdmBytes (code : Nat) (rest : List Byte) : List Byte :=
  [if code = 0x84 ∨ code = 0x04 then 0x10 else 0x13, BitVec.ofNat 8 code] ++ rest

/-- Both messages of an exchange. -/
def spdmExchange (ask : Nat) (request : List Byte) (code : Nat) (body : List Byte) : List Byte :=
  spdmBytes ask request ++ spdmBytes code body

/-- The answer to a request, which leaves the island as `f` says; the request's own fields and the responder's nonce take a fresh
value each. -/
def State.spdmAnswer (s : State) (f : Island → Island) (code : Nat) (body : List Byte) : State :=
  (({ s with fresh := s.fresh + 2 } : State).modIsland f).send (.spdm code body)

/-- The answer ERROR, of a request that comes out of turn or that cannot be met (SPDM 1.3). -/
def State.spdmError (s : State) (why : Nat) : State := s.send (.spdm 0x7F [BitVec.ofNat 8 why, 0])

/-- The answer to one of the three requests that open a session, which the messages of version, capabilities and algorithms take
(SPDM 1.3); the measurement messages start anew. -/
def State.spdmOpen (s : State) (turn : Nat) (before : List Byte) (ask code : Nat) (body : List Byte) : State :=
  s.spdmAnswer (fun I => { I with
    spdm := turn
    vca := before ++ spdmExchange ask (Config.spdmFields s.fresh) code body
    transcript := [] }) code body

/-- GET_VERSION: version 1.3, and the exchange starts anew (R312). -/
def execGetVersion (s : State) : Host.Outcome State Fault Refusal :=
  .next (s.spdmOpen 1 [] 0x84 0x04 ([0, 0, 0, 1] ++ leBytes 2 0x1300))

/-- GET_CAPABILITIES: certificates, and measurements with a signature (R312). -/
def execGetCapabilities (s : State) : Host.Outcome State Fault Refusal :=
  .next (if s.island.spdm ≠ 1 then s.spdmError 4
    else s.spdmOpen 2 s.island.vca 0xE1 0x61 ([0, 0, 0] ++ leBytes 4 0x12 ++ Config.spdmLimits))

/-- NEGOTIATE_ALGORITHMS: measurements in the DMTF format under SHA-256, the hash SHA-256, and HSS as an extended asymmetric
algorithm under Fyari's vendor identifier (R312). -/
def execNegotiateAlgorithms (s : State) : Host.Outcome State Fault Refusal :=
  .next (if s.island.spdm ≠ 2 then s.spdmError 4
    else s.spdmOpen 3 s.island.vca 0xE3 0x63 ([0, 0] ++ leBytes 2 40 ++ [1, 0] ++ leBytes 4 2 ++ leBytes 4 0 ++ leBytes 4 1 ++
      List.replicate 12 0 ++ [1, 0, 0, 0] ++ leBytes 4 Config.hssAlgorithm.toNat))

/-- GET_DIGESTS: the digest of the certificate chain of slot 0 (R312). A request other than for measurements ends the run of
measurement messages (SPDM 1.3). -/
def execGetDigests (s : State) : Host.Outcome State Fault Refusal :=
  .next (if s.island.spdm < 3 then s.spdmError 4
    else s.spdmAnswer (fun I => { I with transcript := [] }) 0x01 ([1, 1] ++ sha256 Config.certificate))

/-- GET_CERTIFICATE: part of the certificate chain of slot 0 (R312). -/
def execGetCertificate (slot off len : Nat) (s : State) : Host.Outcome State Fault Refusal :=
  .next (if s.island.spdm < 3 then s.spdmError 4
    else if slot ≠ 0 then s.spdmError 1
    else
      let part := (Config.certificate.drop off).take len
      s.spdmAnswer (fun I => { I with transcript := [] }) 0x02
        ([0, 0] ++ leBytes 2 part.length ++ leBytes 2 (Config.certificate.length - off - part.length) ++ part))

/-- The measurement block of a register: index, DMTF specification, size, and the digest with its type and size (R312). -/
def Island.block (I : Island) (j : Nat) : List Byte :=
  [BitVec.ofNat 8 (j + 1), 1] ++ leBytes 2 35 ++ [1] ++ leBytes 2 32 ++ I.mregAt j

/-- The registers that a request for a block index names: none under 0, which asks for their number, and all under 255 (SPDM
1.3). -/
def measured (index : Nat) : List Nat := if index = 0 then [] else if index = 255 then List.range 24 else [index - 1]

/-- What MEASUREMENTS says before its signature: the number of indexes where it is asked for, the blocks with their number and
length, the responder's nonce, no opaque data, and the requester's context (SPDM 1.3). -/
def Island.measurements (I : Island) (index : Nat) (nonce context : List Byte) : List Byte :=
  let record := (measured index).foldr (fun j acc => I.block j ++ acc) []
  [if index = 0 then 24 else 0, 0, BitVec.ofNat 8 (measured index).length] ++ leBytes 3 record.length ++ record ++ nonce ++
    leBytes 2 0 ++ context

/-- The rest of GET_MEASUREMENTS from its first parameter on: with a signature, the requester's nonce and slot 0 (SPDM 1.3). -/
def measureRequest (index : Nat) (sign : Bool) (nonce context : List Byte) : List Byte :=
  [if sign then 1 else 0, BitVec.ofNat 8 index] ++ (if sign then nonce ++ [0] else []) ++ context

/-- GET_MEASUREMENTS: the blocks of an index, and where it is asked for a signature with the identity key over the messages that
opened the session and the measurement messages since the last signature; the signature is counted first (R311, R312). -/
def execGetMeasurements (index : Nat) (sign : Bool) (nonce : List Byte) (s : State) : Host.Outcome State Fault Refusal :=
  .next (
    let I := s.island
    if I.spdm < 3 then s.spdmError 4
    else if !(index ≤ 24 || index = 255) then s.spdmError 1
    else if sign && I.sigNo ≥ 2 ^ 30 then s.spdmError 5
    else
      let context := Config.spdmFields s.fresh
      let request := measureRequest index sign nonce context
      let body := I.measurements index ((List.range 32).map (Config.freeByte (s.fresh + 1))) context
      let said := I.transcript ++ spdmExchange 0xE0 request 0x60 body
      if sign then s.spdmAnswer (fun I => { I.countSig with transcript := [] }) 0x60 (body ++ Config.hssSignature I.sigNo (I.vca ++ said))
      else s.spdmAnswer (fun I => { I with transcript := said }) 0x60 body)

/-! ### Health, power and the capability list (R304, R313, R314) -/

/-- HEALTH_UPDATE: the firmware rewrites the figures; a prediction stays all ones until 24 hours of data exist, and a port
that is down has no eye margin (R313). -/
def execHealthUpdate (h : Health) (s : State) : Host.Outcome State Fault Refusal :=
  .next (
    if s.island.state ≠ 4 then s
    else
      let old := decide (86400000000000 ≤ s.time.toNat)
      s.modIsland (fun I => { I with health := {
        eol := (List.range 4).map (fun d => if old then h.eol.getD d 0xFFFFFFFF else 0xFFFFFFFF)
        hbm := (List.range 12).map (fun k => h.hbm.getD k 0)
        eye := (List.range 64).map (fun p => if (mfind I.ports p).isSome then h.eye.getD p 0 else 0)
        power := h.power } }))

/-- POWER_BUDGET_ADJUST: the firmware sets BUDGET of a die, never below 8 (R314). -/
def execPowerBudgetAdjust (die : Nat) (budget : BitVec 6) (s : State) : Host.Outcome State Fault Refusal :=
  .next (if die < 4 ∧ 8 ≤ budget.toNat ∧ budget.toNat ≤ 32 ∧ (s.die die).firmware
    then s.modDie die (fun D => { D with mxGov := budget.setWidth 32 }) else s)

/-- The health capability's body (R313). -/
def healthBytes (h : Health) : List Byte :=
  h.eol.foldr (fun w acc => leBytes 4 w.toNat ++ acc) [] ++ h.hbm.foldr (fun w acc => leBytes 4 w.toNat ++ acc) [] ++
  h.eye.foldr (fun w acc => leBytes 2 w.toNat ++ acc) [] ++ leBytes 4 h.power.toNat

/-- The four bytes of the driver ABI and packet format versions. -/
def versionBytes : List Byte :=
  [BitVec.ofNat 8 abiRange.1, BitVec.ofNat 8 abiRange.2, BitVec.ofNat 8 formatRange.1, BitVec.ofNat 8 formatRange.2]

/-- The bodies of the capabilities (R304 Table 4), each a multiple of 16 bytes: driver ABI and packet format versions are
1 to 1 here (log entry 40). -/
def State.capBodies (s : State) : List (Nat × List Byte) :=
  let words (l : List Nat) : List Byte := l.foldr (fun w acc => leBytes 4 w ++ acc) []
  let pad (b : List Byte) : List Byte := b ++ List.replicate ((16 - b.length % 16) % 16) 0
  [(1, pad (versionBytes ++ [1, 0, 2, 3])), (2, pad (words [0xF, 256, 65536])), (3, pad (words [1])), (4, pad (words [1])),
   (5, pad (words [1, 2 ^ 24, 128])), (6, pad (words [1, s.zinc.known, 256])), (7, pad (healthBytes s.island.health))]

/-- The capability list from the offset of its next header (R304 Table 3). -/
def capChain : Nat → List (Nat × List Byte) → List Byte
  | _, [] => []
  | off, (id, body) :: rest =>
    let len := 16 + body.length
    let next := if rest = [] then 0 else off + len
    leBytes 4 (id + 2 ^ 16) ++ leBytes 4 len ++ leBytes 4 next ++ leBytes 4 0 ++ body ++ capChain (off + len) rest

/-- The capability list as BAR0 shows it at CAPLIST (R299, R304). -/
def State.capList (s : State) : List Byte := capChain 0 s.capBodies

/-- The eight bytes that a die's block of RAS registers shows at an 8-byte step: a 32-bit register in the low half, the upper half 0,
and 0 where it is reserved (R365). -/
def Die.rasAt (D : Die) (step : Nat) : DWord :=
  match step with
  | 0 => D.rasBase
  | 1 => D.rasCtl.setWidth 64
  | 2 => D.rasHead.setWidth 64
  | 3 => D.rasTail.setWidth 64
  | 4 => D.rasDrops.setWidth 64
  | _ => 0

/-- The eight bytes that a function's BAR0 shows at an offset that is a multiple of 8: the capability list at CAPLIST, STATE and ERR
at 0x8008, the RAS registers in the PF's, and 0 elsewhere (R299, R304, R365). A read has no effect. -/
def State.bar0 (s : State) (func off : Nat) : DWord :=
  if off < 0x8000 then BitVec.ofNat 64 (leNat ((s.capList.drop off).take 8))
  else if off = 0x8008 then (s.island.err ++ s.island.state).setWidth 64
  else if func = 0 ∧ 0x9000 ≤ off ∧ off < 0x9100 then (s.die ((off - 0x9000) / 0x40)).rasAt (off % 0x40 / 8)
  else 0

/-! ### Tin (R369) -/

/-- The queues that a die's Tin serves: those of the partitions whose lowest die it is. -/
def State.tinQueues (s : State) (die : Nat) : List Nat :=
  (s.queues.filter (fun x => s.partDie x.2.part == die && (mfind s.parts x.2.part).isSome)).map (·.1)

/-- The type under which Tin starts a queue's next packet, if it takes it: LAUNCH without REDUND, COPY and SIGNAL; an invalid
packet stops its queue (Table 6 of R369). -/
def State.tinTakes (s : State) (q : Nat) : Option Nat :=
  match s.nextReady q with
  | none => none
  | some none => some 1
  | some (some b) =>
    let t := pktType b
    let bad := s.invalid q b ≠ 0
    if t = 1 then
      match s.readLaunch q (pktA b) with
      | .ok (r, _) => if r.redund && !bad then none else some 1
      | .error _ => some 1
    else if t = 2 ∨ t = 3 then some t
    else if bad then some (if 4 ≤ t ∧ t ≤ 6 then t else 1)
    else none

/-- TIN_POLL: while a die's firmware core is in reset, its Tin reads every queue's WPTR and visits the next queue with a
packet it takes, in ascending number, round robin (R369). -/
def execTinPoll (die : Nat) (s : State) : Host.Outcome State Fault Refusal :=
  .next (
    if 4 ≤ die || (s.die die).firmware || s.island.state ≠ 4 then s
    else
      let qs := s.tinQueues die
      let s := qs.foldl (fun (s : State) q => s.readWptr q) s
      let after : List Nat := match (s.die die).tin with
        | some k => qs.filter (fun q => k < q) ++ qs.filter (fun q => q ≤ k)
        | none => qs
      match after.findSome? (fun q => (s.tinTakes q).map (fun t => (q, t))) with
      | none => s
      | some (q, t) => (s.startPacket q t false).modDie die (fun D => { D with tin := some q }))

/-- FIRMWARE_RETURN: the firmware core of a die returns from reset and takes over every started packet (R368, R369). -/
def execFirmwareReturn (die : Nat) (s : State) : Host.Outcome State Fault Refusal :=
  .next (
    if 4 ≤ die || (s.die die).firmware || s.island.state ≠ 4 then s
    else
      (s.modIsland (fun I => { I with liveness := minsert I.liveness die (s.dieTime die) })).modDie die (fun D =>
        { D with firmware := true, tin := none }))

end Sys2Proof.Machine
end

