-- ==== Sys2Proof/Machine/Dispatch.lean ====
section
/-! DEFINITION. What an instruction or an event does: one arm for each constructor of `Instr`. -/

namespace Sys2Proof.Machine

def exec (i : Instr) (s : State) : Host.Outcome State Fault Refusal :=
  match i with
  | .iadd w => Sys2Proof.Machine.execIadd w s
  | .isub w => Sys2Proof.Machine.execIsub w s
  | .iadd3 w => Sys2Proof.Machine.execIadd3 w s
  | .imul w => Sys2Proof.Machine.execImul w s
  | .imulh w => Sys2Proof.Machine.execImulh w s
  | .imad w => Sys2Proof.Machine.execImad w s
  | .imadw w => Sys2Proof.Machine.execImadw w s
  | .iabs w => Sys2Proof.Machine.execIabs w s
  | .imin w => Sys2Proof.Machine.execImin w s
  | .imax w => Sys2Proof.Machine.execImax w s
  | .icmp w => Sys2Proof.Machine.execIcmp w s
  | .sel w => Sys2Proof.Machine.execSel w s
  | .shl w => Sys2Proof.Machine.execShl w s
  | .shr w => Sys2Proof.Machine.execShr w s
  | .sar w => Sys2Proof.Machine.execSar w s
  | .shf w => Sys2Proof.Machine.execShf w s
  | .and_ w => Sys2Proof.Machine.execAnd w s
  | .or_ w => Sys2Proof.Machine.execOr w s
  | .xor_ w => Sys2Proof.Machine.execXor w s
  | .bfn3 w => Sys2Proof.Machine.execBfn3 w s
  | .bfx w => Sys2Proof.Machine.execBfx w s
  | .bfi w => Sys2Proof.Machine.execBfi w s
  | .popc w => Sys2Proof.Machine.execPopc w s
  | .clz w => Sys2Proof.Machine.execClz w s
  | .brev w => Sys2Proof.Machine.execBrev w s
  | .prmb w => Sys2Proof.Machine.execPrmb w s
  | .mov w => Sys2Proof.Machine.execMov w s
  | .movi w => Sys2Proof.Machine.execMovi w s
  | .lea w => Sys2Proof.Machine.execLea w s
  | .add64 w => Sys2Proof.Machine.execAdd64 w s
  | .cmp64 w => Sys2Proof.Machine.execCmp64 w s
  | .movx w => Sys2Proof.Machine.execMovx w s
  | .movxw w => Sys2Proof.Machine.execMovxw w s
  | .fadd w => Sys2Proof.Machine.execFadd w s
  | .fsub w => Sys2Proof.Machine.execFsub w s
  | .fmul w => Sys2Proof.Machine.execFmul w s
  | .ffma w => Sys2Proof.Machine.execFfma w s
  | .fmin w => Sys2Proof.Machine.execFmin w s
  | .fmax w => Sys2Proof.Machine.execFmax w s
  | .fcmp w => Sys2Proof.Machine.execFcmp w s
  | .fclass w => Sys2Proof.Machine.execFclass w s
  | .frcp w => Sys2Proof.Machine.execFrcp w s
  | .frsq w => Sys2Proof.Machine.execFrsq w s
  | .fsqrt w => Sys2Proof.Machine.execFsqrt w s
  | .fexp2 w => Sys2Proof.Machine.execFexp2 w s
  | .flog2 w => Sys2Proof.Machine.execFlog2 w s
  | .fsin w => Sys2Proof.Machine.execFsin w s
  | .fcos w => Sys2Proof.Machine.execFcos w s
  | .ftanh w => Sys2Proof.Machine.execFtanh w s
  | .fsigm w => Sys2Proof.Machine.execFsigm w s
  | .fdot2 w => Sys2Proof.Machine.execFdot2 w s
  | .fdot4 w => Sys2Proof.Machine.execFdot4 w s
  | .fscale w => Sys2Proof.Machine.execFscale w s
  | .frnd w => Sys2Proof.Machine.execFrnd w s
  | .cvtf w => Sys2Proof.Machine.execCvtf w s
  | .cvtfi w => Sys2Proof.Machine.execCvtfi w s
  | .cvtif w => Sys2Proof.Machine.execCvtif w s
  | .pack16 w => Sys2Proof.Machine.execPack16 w s
  | .qnt w => Sys2Proof.Machine.execQnt w s
  | .dqnt w => Sys2Proof.Machine.execDqnt w s
  | .mxscale w => Sys2Proof.Machine.execMxscale w s
  | .shfl w => Sys2Proof.Machine.execShfl w s
  | .vote w => Sys2Proof.Machine.execVote w s
  | .matchL w => Sys2Proof.Machine.execMatch w s
  | .flane w => Sys2Proof.Machine.execFlane w s
  | .wred w => Sys2Proof.Machine.execWred w s
  | .wscan w => Sys2Proof.Machine.execWscan w s
  | .cmpx w => Sys2Proof.Machine.execCmpx w s
  | .rebal w => Sys2Proof.Machine.execRebal w s
  | .compact w => Sys2Proof.Machine.execCompact w s
  | .bra w => Sys2Proof.Machine.execBra w s
  | .brx w => Sys2Proof.Machine.execBrx w s
  | .call w => Sys2Proof.Machine.execCall w s
  | .ret w => Sys2Proof.Machine.execRet w s
  | .fcall w => Sys2Proof.Machine.execFcall w s
  | .fsync w => Sys2Proof.Machine.execFsync w s
  | .if_ w => Sys2Proof.Machine.execIf w s
  | .else_ w => Sys2Proof.Machine.execElse w s
  | .endif w => Sys2Proof.Machine.execEndif w s
  | .loop w => Sys2Proof.Machine.execLoop w s
  | .break_ w => Sys2Proof.Machine.execBreak w s
  | .cont_ w => Sys2Proof.Machine.execCont w s
  | .endloop w => Sys2Proof.Machine.execEndloop w s
  | .regang w => Sys2Proof.Machine.execRegang w s
  | .bar w => Sys2Proof.Machine.execBar w s
  | .bara w => Sys2Proof.Machine.execBara w s
  | .barw w => Sys2Proof.Machine.execBarw w s
  | .pba w => Sys2Proof.Machine.execPba w s
  | .pbw w => Sys2Proof.Machine.execPbw w s
  | .ivl w => Sys2Proof.Machine.execIvl w s
  | .yield w => Sys2Proof.Machine.execYield w s
  | .nop len w => Sys2Proof.Machine.execNop len w s
  | .exit_ w => Sys2Proof.Machine.execExit w s
  | .ld w => Sys2Proof.Machine.execLd w s
  | .st w => Sys2Proof.Machine.execSt w s
  | .lds w => Sys2Proof.Machine.execLds w s
  | .sts w => Sys2Proof.Machine.execSts w s
  | .lde w => Sys2Proof.Machine.execLde w s
  | .ste w => Sys2Proof.Machine.execSte w s
  | .ldc w => Sys2Proof.Machine.execLdc w s
  | .pref w => Sys2Proof.Machine.execPref w s
  | .discard w => Sys2Proof.Machine.execDiscard w s
  | .amo w => Sys2Proof.Machine.execAmo w s
  | .red w => Sys2Proof.Machine.execRed w s
  | .amos w => Sys2Proof.Machine.execAmos w s
  | .txopen w => Sys2Proof.Machine.execTxopen w s
  | .txseal w => Sys2Proof.Machine.execTxseal w s
  | .txdrop w => Sys2Proof.Machine.execTxdrop w s
  | .fence w => Sys2Proof.Machine.execFence w s
  | .waitc w => Sys2Proof.Machine.execWaitc w s
  | .trywait w => Sys2Proof.Machine.execTrywait w s
  | .qsp w => Sys2Proof.Machine.execQsp w s
  | .gpreq w => Sys2Proof.Machine.execGpreq w s
  | .gpwait w => Sys2Proof.Machine.execGpwait w s
  | .dfree w => Sys2Proof.Machine.execDfree w s
  | .palloc w => Sys2Proof.Machine.execPalloc w s
  | .pfree w => Sys2Proof.Machine.execPfree w s
  | .gather w => Sys2Proof.Machine.execGather w s
  | .scatter w => Sys2Proof.Machine.execScatter w s
  | .copy w => Sys2Proof.Machine.execCopy w s
  | .copyr w => Sys2Proof.Machine.execCopyr w s
  | .mcfg w => Sys2Proof.Machine.execMcfg w s
  | .mlds w => Sys2Proof.Machine.execMlds w s
  | .mswap w => Sys2Proof.Machine.execMswap w s
  | .mloop w => Sys2Proof.Machine.execMloop w s
  | .mzero w => Sys2Proof.Machine.execMzero w s
  | .mrd w => Sys2Proof.Machine.execMrd w s
  | .mst w => Sys2Proof.Machine.execMst w s
  | .macc w => Sys2Proof.Machine.execMacc w s
  | .mfence w => Sys2Proof.Machine.execMfence w s
  | .mwait w => Sys2Proof.Machine.execMwait w s
  | .mmeta w => Sys2Proof.Machine.execMmeta w s
  | .tapbind w => Sys2Proof.Machine.execTapbind w s
  | .fgath w => Sys2Proof.Machine.execFgath w s
  | .tapgo w => Sys2Proof.Machine.execTapgo w s
  | .tapwait w => Sys2Proof.Machine.execTapwait w s
  | .fev w => Sys2Proof.Machine.execFev w s
  | .frewr w => Sys2Proof.Machine.execFrewr w s
  | .frel w => Sys2Proof.Machine.execFrel w s
  | .adpq w => Sys2Proof.Machine.execAdpq w s
  | .emit w => Sys2Proof.Machine.execEmit w s
  | .launch w => Sys2Proof.Machine.execLaunch w s
  | .sigadd w => Sys2Proof.Machine.execSigadd w s
  | .ndone w => Sys2Proof.Machine.execNdone w s
  | .cred w => Sys2Proof.Machine.execCred w s
  | .cgath w => Sys2Proof.Machine.execCgath w s
  | .cbcst w => Sys2Proof.Machine.execCbcst w s
  | .ca2a w => Sys2Proof.Machine.execCa2a w s
  | .cwait w => Sys2Proof.Machine.execCwait w s
  | .viewrd w => Sys2Proof.Machine.execViewrd w s
  | .vjoin w => Sys2Proof.Machine.execVjoin w s
  | .vack w => Sys2Proof.Machine.execVack w s
  | .trap w => Sys2Proof.Machine.execTrap w s
  | .eret w => Sys2Proof.Machine.execEret w s
  | .ctlr w => Sys2Proof.Machine.execCtlr w s
  | .ctlw w => Sys2Proof.Machine.execCtlw w s
  | .halt w => Sys2Proof.Machine.execHalt w s
  | .tlbinv w => Sys2Proof.Machine.execTlbinv w s
  | .cacheop w => Sys2Proof.Machine.execCacheop w s
  | .ctxsv w => Sys2Proof.Machine.execCtxsv w s
  | .ctxld w => Sys2Proof.Machine.execCtxld w s
  | .qend w => Sys2Proof.Machine.execQend w s
  | .sigr w => Sys2Proof.Machine.execSigr w s
  | .rasw w => Sys2Proof.Machine.execRasw w s
  | .regangRelease w addr => Sys2Proof.Machine.execRegangRelease w addr s
  | .barrierPhaseComplete b bar => Sys2Proof.Machine.execBarrierPhaseComplete b bar s
  | .intervalPrefetchDone w => Sys2Proof.Machine.execIntervalPrefetchDone w s
  | .fenceReleaseDone w => Sys2Proof.Machine.execFenceReleaseDone w s
  | .trywaitWake w => Sys2Proof.Machine.execTrywaitWake w s
  | .trywaitHintExpiry w => Sys2Proof.Machine.execTrywaitHintExpiry w s
  | .gracePeriodComplete p => Sys2Proof.Machine.execGracePeriodComplete p s
  | .cpComplete op => Sys2Proof.Machine.execCpComplete op s
  | .gsComplete op => Sys2Proof.Machine.execGsComplete op s
  | .engineWprot op => Sys2Proof.Machine.execEngineWprot op s
  | .matrixOpExecute core => Sys2Proof.Machine.execMatrixOpExecute core s
  | .mxBatchComplete w => Sys2Proof.Machine.execMxBatchComplete w s
  | .tapbindBegin core => Sys2Proof.Machine.execTapbindBegin core s
  | .fgathComplete core => Sys2Proof.Machine.execFgathComplete core s
  | .tapgoComplete core => Sys2Proof.Machine.execTapgoComplete core s
  | .eventRingAdvance core => Sys2Proof.Machine.execEventRingAdvance core s
  | .collMessageReceive m => Sys2Proof.Machine.execCollMessageReceive m s
  | .collOpComplete op => Sys2Proof.Machine.execCollOpComplete op s
  | .issueCycle slot dt => Sys2Proof.Machine.execIssueCycle slot dt s
  | .warpStart b n => Sys2Proof.Machine.execWarpStart b n s
  | .loadReturn f => Sys2Proof.Machine.execLoadReturn f s
  | .homeWriteArrival f k => Sys2Proof.Machine.execHomeWriteArrival f k s
  | .storeAck f => Sys2Proof.Machine.execStoreAck f s
  | .lineFill f k far => Sys2Proof.Machine.execLineFill f k far s
  | .leaseExpiry k => Sys2Proof.Machine.execLeaseExpiry k s
  | .tlbWalkComplete k => Sys2Proof.Machine.execTlbWalkComplete k s
  | .pageFaultResolved k resolved => Sys2Proof.Machine.execPageFaultResolved k resolved s
  | .eccUncorrectable p => Sys2Proof.Machine.execEccUncorrectable p s
  | .watchdog w => Sys2Proof.Machine.execWatchdog w s
  | .quantumEnd w => Sys2Proof.Machine.execQuantumEnd w s
  | .roundCommit l => Sys2Proof.Machine.execRoundCommit l s
  | .roundStart l => Sys2Proof.Machine.execRoundStart l s
  | .roundStuckTimeout l => Sys2Proof.Machine.execRoundStuckTimeout l s
  | .queueRegister r => Sys2Proof.Machine.execQueueRegister r s
  | .qdb func q => Sys2Proof.Machine.execQdb func q s
  | .qkill func q => Sys2Proof.Machine.execQkill func q s
  | .wptrPoll => Sys2Proof.Machine.execWptrPoll s
  | .launchPacket q => Sys2Proof.Machine.execLaunchPacket q s
  | .copyPacket q => Sys2Proof.Machine.execCopyPacket q s
  | .signalPacket q => Sys2Proof.Machine.execSignalPacket q s
  | .waitsigPacket q => Sys2Proof.Machine.execWaitsigPacket q s
  | .waitsigComplete q => Sys2Proof.Machine.execWaitsigComplete q s
  | .gangPacket q => Sys2Proof.Machine.execGangPacket q s
  | .gangCommit q => Sys2Proof.Machine.execGangCommit q s
  | .gangReserveTimeout q => Sys2Proof.Machine.execGangReserveTimeout q s
  | .graphPacket q => Sys2Proof.Machine.execGraphPacket q s
  | .graphNodeStart g n => Sys2Proof.Machine.execGraphNodeStart g n s
  | .graphNodeComplete g n => Sys2Proof.Machine.execGraphNodeComplete g n s
  | .streamClusterLaunch g n => Sys2Proof.Machine.execStreamClusterLaunch g n s
  | .childLaunchStart p => Sys2Proof.Machine.execChildLaunchStart p s
  | .clusterStart l cl => Sys2Proof.Machine.execClusterStart l cl s
  | .clusterRetire l => Sys2Proof.Machine.execClusterRetire l s
  | .packetComplete q idx => Sys2Proof.Machine.execPacketComplete q idx s
  | .preemption q => Sys2Proof.Machine.execPreemption q s
  | .preemptDrainTimeout q => Sys2Proof.Machine.execPreemptDrainTimeout q s
  | .poolEnable die n v => Sys2Proof.Machine.execPoolEnable die n v s
  | .poolLinkDone die n => Sys2Proof.Machine.execPoolLinkDone die n s
  | .poolDisable die n => Sys2Proof.Machine.execPoolDisable die n s
  | .fmtWinEnable die n v => Sys2Proof.Machine.execFmtWinEnable die n v s
  | .fmtWinDisable die n => Sys2Proof.Machine.execFmtWinDisable die n s
  | .fmtWinDisableDone die n => Sys2Proof.Machine.execFmtWinDisableDone die n s
  | .fmtWinFlagClear die n sat nan => Sys2Proof.Machine.execFmtWinFlagClear die n sat nan s
  | .rasOvfClear die => Sys2Proof.Machine.execRasOvfClear die s
  | .registerWrite r v => Sys2Proof.Machine.execRegisterWrite r v s
  | .rasAppend die => Sys2Proof.Machine.execRasAppend die s
  | .rasHeadAdvance die => Sys2Proof.Machine.execRasHeadAdvance die s
  | .tinPoll die => Sys2Proof.Machine.execTinPoll die s
  | .hostBar2Access func addr data len => Sys2Proof.Machine.execHostBar2Access func addr data len s
  | .linkBringup port peer lo hi => Sys2Proof.Machine.execLinkBringup port peer lo hi s
  | .beatSend die => Sys2Proof.Machine.execBeatSend die s
  | .beatWindowEnd p beat live => Sys2Proof.Machine.execBeatWindowEnd p beat live s
  | .suspect src p holds => Sys2Proof.Machine.execSuspect src p holds s
  | .reset m => Sys2Proof.Machine.execReset m s
  | .resetEscalateTimeout p => Sys2Proof.Machine.execResetEscalateTimeout p s
  | .propose m => Sys2Proof.Machine.execPropose m s
  | .ack src view => Sys2Proof.Machine.execAck src view s
  | .ackTimeout => Sys2Proof.Machine.execAckTimeout s
  | .commit m => Sys2Proof.Machine.execCommit m s
  | .join src jview => Sys2Proof.Machine.execJoin src jview s
  | .islandHeartbeat arrives => Sys2Proof.Machine.execIslandHeartbeat arrives s
  | .islandTakeover => Sys2Proof.Machine.execIslandTakeover s
  | .boot a b flashLost => Sys2Proof.Machine.execBoot a b flashLost s
  | .bootFetchRetry => Sys2Proof.Machine.execBootFetchRetry s
  | .firmwareFetchDone m => Sys2Proof.Machine.execFirmwareFetchDone m s
  | .mregExtend j v => Sys2Proof.Machine.execMregExtend j v s
  | .getVersion => Sys2Proof.Machine.execGetVersion s
  | .getCapabilities => Sys2Proof.Machine.execGetCapabilities s
  | .negotiateAlgorithms => Sys2Proof.Machine.execNegotiateAlgorithms s
  | .getDigests => Sys2Proof.Machine.execGetDigests s
  | .getCertificate slot off len => Sys2Proof.Machine.execGetCertificate slot off len s
  | .getMeasurements index sign nonce => Sys2Proof.Machine.execGetMeasurements index sign nonce s
  | .healthUpdate h => Sys2Proof.Machine.execHealthUpdate h s
  | .powerBudgetAdjust die budget => Sys2Proof.Machine.execPowerBudgetAdjust die budget s
  | .firmwareReturn die => Sys2Proof.Machine.execFirmwareReturn die s
  | .linkDown port => Sys2Proof.Machine.execLinkDown port s
  | .vackArrival src cid view => Sys2Proof.Machine.execVackArrival src cid view s

end Sys2Proof.Machine
end

