-- ==== Sys2Proof/Machine/Schedule.lean ====
section
/-! DEFINITION. What happens when the agenda is empty: the part's own events take turns, and time passes. The order is
one of those the part may take; the agenda gives any other (log entry 2). -/

namespace Sys2Proof.Machine

/-- The events that a warp may be due for. -/
def State.warpEvents (s : State) (x : Nat × Warp) : List Instr :=
  let k := x.1
  let W := x.2
  let waits := W.slices.filterMap (fun y => if y.exited then none else y.wait)
  if W.ended then []
  else
    (waits.filterMap (fun c => match c with
      | .regang a _ => some (Instr.regangRelease k a)
      | .words l _ _ _ _ => if s.wordsDiffer l then some (Instr.trywaitWake k) else none
      | _ => none)) ++
    [.intervalPrefetchDone k, .fenceReleaseDone k, .trywaitHintExpiry k, .mxBatchComplete k, .watchdog k, .quantumEnd k]

/-- The events of a block. -/
def blockEvents (x : Nat × Block) : List Instr :=
  if !x.2.alive then []
  else
    x.2.bars.map (fun b => Instr.barrierPhaseComplete x.1 b.1) ++ (List.range x.2.warps.length).map (fun i => Instr.warpStart x.1 i)

/-- The events of an engine operation. -/
def engineEvents (x : Nat × Engine) : List Instr :=
  if x.2.stage = 2 then []
  else
    match x.2.op with
    | .gather _ _ _ _ | .scatter _ _ _ _ => [.engineWprot x.1, .gsComplete x.1]
    | .coll _ _ _ _ _ _ _ _ _ _ _ _ _ _ => [.collOpComplete x.1]
    | .batch _ | .unit | .tap => []
    | _ => [.engineWprot x.1, .cpComplete x.1]

/-- The events of a core's units. -/
def coreEvents (c : Nat) : List Instr :=
  [.matrixOpExecute c, .tapbindBegin c, .fgathComplete c, .tapgoComplete c, .eventRingAdvance c]

/-- The events of a flight. -/
def flightEvents (x : Nat × Flight) : List Instr :=
  ((List.range x.2.accs.length).map (fun j => Instr.lineFill x.1 j none)) ++
  ((List.range x.2.accs.length).map (fun j => Instr.homeWriteArrival (.flight x.1) j)) ++ [.loadReturn x.1, .storeAck x.1]

/-- The events of a launch. -/
def State.launchEvents (s : State) (x : Nat × Launch) : List Instr :=
  if x.2.done then []
  else
    (if s.roundWarps x.1 = [] then [] else [.roundCommit x.1]) ++ [.roundStart x.1, .roundStuckTimeout x.1] ++
    (s.clustersFor x.2).map (fun c => Instr.clusterStart x.1 c) ++ [.clusterRetire x.1]

/-- The events of a queue. -/
def queueEvents (x : Nat × Queue) : List Instr :=
  let q := x.1
  [.launchPacket q, .copyPacket q, .signalPacket q, .waitsigPacket q, .waitsigComplete q, .gangPacket q, .gangCommit q,
   .gangReserveTimeout q, .graphPacket q, .preemption q, .preemptDrainTimeout q] ++
  x.2.open_.map (fun i => Instr.packetComplete q i)

/-- The events of a running graph. -/
def graphEvents (x : Nat × Graph) : List Instr :=
  (List.range x.2.nodes.length).foldr (fun n acc =>
    Instr.graphNodeStart x.1 n :: .streamClusterLaunch x.1 n :: .graphNodeComplete x.1 n :: acc) []

/-- The events of a die's devices. -/
def State.dieEvents (s : State) (d : Nat) : List Instr :=
  let D := s.die d
  ((List.range 16).filter D.poolBusy).map (fun n => Instr.poolLinkDone d n) ++ D.winClosing.map (fun n => Instr.fmtWinDisableDone d n) ++
  [.rasAppend d, .rasHeadAdvance d, .tinPoll d]

/-- Every event that the part itself may be due for; ISSUE_CYCLE comes between the others so that time passes. -/
def State.dueEvents (s : State) : List Instr :=
  let slots := (s.warps.filter (fun x => !x.2.ended)).map (fun x => Instr.issueCycle x.2.slotNo 1)
  slots ++ s.warps.foldr (fun x acc => s.warpEvents x ++ acc) [] ++ s.blocks.foldr (fun x acc => blockEvents x ++ acc) [] ++
  s.flights.foldr (fun x acc => flightEvents x ++ acc) [] ++ s.engines.foldr (fun x acc => engineEvents x ++ acc) [] ++
  s.cores.foldr (fun x acc => coreEvents x.1 ++ acc) [] ++ s.launches.foldr (fun x acc => s.launchEvents x ++ acc) [] ++
  s.queues.foldr (fun x acc => queueEvents x ++ acc) [] ++ s.graphs.foldr (fun x acc => graphEvents x ++ acc) [] ++
  s.parts.foldr (fun x acc => .gracePeriodComplete x.1 :: .childLaunchStart x.1 :: acc) [] ++
  (List.range 4).foldr (fun d acc => s.dieEvents d ++ acc) [] ++
  (List.range s.walks.length).map (fun n => Instr.tlbWalkComplete n) ++
  (List.range s.faults.length).map (fun n => Instr.pageFaultResolved n true) ++
  (List.range s.copies.length).map (fun n => Instr.leaseExpiry n) ++
  [.wptrPoll, .islandTakeover, .issueCycle 0 1]

/-- Whether an event changes anything now. -/
def State.changes (s : State) (i : Instr) : Bool :=
  match exec i s with
  | .next t => t != s
  | _ => false

/-- The event that happens when the agenda is empty, and the turn after it. -/
def State.autoEvent (s : State) : Instr × Nat :=
  let l := s.dueEvents
  let n := s.turn % l.length
  let order := (l.zipIdx.drop n) ++ (l.zipIdx.take n)
  match order.find? (fun x => s.changes x.1) with
  | some (i, j) => (i, j + 1)
  | none => (.issueCycle 0 1, 0)

/-- The warp, block, launch and queue that `State.withFetchWord` sets up: a warp of 32 lanes on core 1 in user mode. -/
def bareWarp (q b l : Nat) : Warp :=
  { queue := q
    pkt := 0
    launch := l
    block := b
    core := 1
    slot := 0
    wid := 0
    bid := 0
    width := 32
    regCount := 256
    alloc := 256
    slices := List.replicate 8 { pc := 0x10000 } }

/-- The block of that warp. -/
def bareBlock (l k : Nat) : Block :=
  { launch := l, cluster := 0, core := 1, slot := 0, warps := [k], nwarps := 1, size := 0x60000 }

/-- Its launch. -/
def bareLaunch (q : Nat) : Launch :=
  { queue := q
    pkt := 0
    part := 0
    record := 0
    code := 0x10000
    args := 0
    entry := 0x10000
    spad := 0x60000
    width := 32
    warps := 1
    blocks := 1
    redund := false
    wave := 0
    roles := 0
    budget := []
    regs := 256
    n := 1
    next := 1 }

/-- Its queue. -/
def bareQueue : Queue :=
  { func := 0
    desc := 0
    root := 0
    ring := 0
    log2n := 4
    quant := 4096
    part := 0
    preempt := false
    qdet := 0
    qsvc := 0
    qpri := 0
    handlers := 0
    save := 0 }

/-- A machine in which a slot has formed the gang of a warp set up for the purpose, whose next instruction stands at physical
address 0x10000 (log entry 12): what a launch does between reset and a program's first instruction. -/
def State.withBareGang (s : State) : State :=
  let k := s.nextId
  let q := (s.freeQueue).getD 0
  { s with
    issue := some ⟨k, 0xFF, 0x10000⟩
    nextId := k + 3
    warps := minsert s.warps k (bareWarp q (k + 1) (k + 2))
    blocks := minsert s.blocks (k + 1) (bareBlock (k + 2) k)
    launches := minsert s.launches (k + 2) (bareLaunch q)
    queues := minsert s.queues q bareQueue
    parts := if (mfind s.parts 0).isSome then s.parts
      else minsert s.parts 0 { dies := [0, 1, 2, 3], clusters := List.range 48 }
    tlbs := minsert s.tlbs 816 (⟨q, 0, 7, 0, 0, false, false, false⟩ :: mget [] s.tlbs 816) }

/-- The physical address from which the gang that a slot has formed fetches, where its page is translated. -/
def State.fetchPlace (s : State) : Option (Nat × Nat) :=
  match s.issue with
  | none => none
  | some g =>
    let c := s.gangAt g.warp g.mask g.pc
    (c.fetchTrans).map (fun t => ((s.warp g.warp).core, t.phys g.pc.toNat))

/-- Store an instruction's bytes where a core fetches, past its instruction cache. -/
def State.putCode (s : State) (core pa : Nat) (bytes : List Byte) : State :=
  (s.homePut pa bytes).modCore core (fun C =>
    { C with icache := (C.icache.filter (fun e => e.1 != pa / 32 && e.1 != pa / 32 + 1)) })

end Sys2Proof.Machine
end

