-- ==== Sys2Proof/Machine/Step.lean ====
section
/-! DEFINITION. One step of the machine: the gang that a slot has formed fetches and executes its instruction; else the
next event of the agenda happens; else the part's own event whose turn it is. -/

namespace Sys2Proof.Machine

/-- An event happens. An instruction word is no event and does nothing here. -/
def State.happen (s : State) (i : Instr) : Host.Outcome State Fault Refusal :=
  match i.word with
  | none => exec i s
  | some _ => .next s

/-- One step. -/
def step (s : State) : Host.Outcome State Fault Refusal :=
  match s.issue with
  | some _ =>
    match s.fetch with
    | (s, some i) => exec i s
    | (s, none) => .next s
  | none =>
    match s.agenda with
    | i :: rest => ({ s with agenda := rest } : State).happen i
    | [] =>
      let x := s.autoEvent
      ({ s with turn := x.2 } : State).happen x.1

/-- The machine with an instruction, its bits numbered as the opcode table numbers them, where the next step fetches. -/
def State.withFetchWord (s : State) (nbits w : Nat) : State :=
  let bytes := leBytes 16 (w % 2 ^ nbits)
  match s.fetchPlace with
  | some (core, pa) => s.putCode core pa bytes
  | none => s.withBareGang.putCode 1 0x10000 bytes

end Sys2Proof.Machine
end

