-- ==== Sys2Proof/Safety.lean ====
section
/-! DEFINITION. The terms in which claims speak: the context of an issue, when nothing keeps an instruction from its own
effect, what a result leaves unchanged, and the canonical forms of the state. -/

namespace Sys2Proof.Machine

/-- The context in which an instruction word runs for the gang that a slot has formed: its due results have landed, and
the gang is formed no longer. -/
def State.issued (s : State) (g : Issue) (o : Op) (len : Len) (w : Fields) : Ctx :=
  let W := (s.warp g.warp).landDue (s.warp g.warp).clk
  let t := { s with issue := none }.modWarp g.warp (fun _ => W)
  let x := W.slice ((maskSlices g.mask).headD 0)
  ⟨t, g.warp, W, g.mask, g.mask, g.pc, o, len, w, x.kept⟩

/-- Nothing that every instruction has in common keeps this one from its effect: the warp exists, some slice issues, no
slice goes on at TXSEAL (R102), no register it names is pending (R37), and no check of every instruction fails: early
read (R38), uniformity (R25), poison (R340). -/
structure Ctx.Clear (c : Ctx) : Prop where
  listed   : mfind c.s.warps c.k = some c.W
  slices   : c.m ≠ 0
  noSkip   : c.skip = c
  landed   : c.interlock = []
  notEarly : c.W.sbchk = true → c.W.early c.op c.w = none
  uniform  : c.W.uchk = true → c.W.nonUniform c.op c.w c.m = none
  clean    : c.W.poisonedRead c.op c.w c.m = none

/-- A context in a state that its instruction's own wait has left behind. -/
def Ctx.moved (c : Ctx) (t : State) : Ctx := { c with s := t, W := t.warp c.k }

/-- Nothing of an instruction's own keeps it from its effect: it passes its checks, its pages are translated, it waits for
nothing, and it is allowed in the transaction lanes and continuations that it meets. Its effect begins in `t`, which is
the state of the context itself unless the instruction's wait changes something. -/
structure Kit.Lets (K : Kit) (c : Ctx) (t : State) : Prop where
  word  : K.word c = []
  fork  : K.fork = true ∨ c.fork? = none ∨ c.acts = false
  hold  : K.hold c = none
  tx    : K.tx = true ∨ c.lanes.filter c.W.txLive = []
  check : K.check c = []
  bad   : K.bad c = none
  pages : c.missing (K.first c ++ K.pages c) = []
  wprot : K.wprot c = []
  wait  : K.wait c = (t, none)
  late  : K.late (c.moved t) = none

/-- A warp after an instruction that has gone on to the next one: program counters, stall count, watchdog and retired
count (R37, R111, R337). -/
def Ctx.onward (c : Ctx) (W : Warp) : Warp :=
  { (W.onSlices c.m (fun x => { x with
      pc := c.next
      wait := none
      woken := false
      retired := if W.twinOf.isSome then x.retired else x.retired + 1 })) with
    clk := W.clk + c.w.stall.toNat
    stall := c.w.stall.toNat
    watchdog := W.watchdog + (if c.s.wdogOn c.W then ((maskSlices c.m).length + 7) / 8 else 0)
    fresh := false }

/-- Only the issuing warp differs between the state in which an instruction ran and a later one. -/
structure Ctx.OnlyWarp (c : Ctx) (t : State) : Prop where
  rest   : t = { c.s with warps := t.warps }
  others : ∀ j, j ≠ c.k → mfind t.warps j = mfind c.s.warps j

/-- What a fixed-latency result leaves (R36 to R38) in registers r to r+n−1, lane i of the j-th getting `f j i`: each
acting lane reads its value once the latency has passed, and until then what it read before; every other place of the
register file keeps the value it settles at; every other part of the warp is as after any instruction that raises these
flags, and nothing outside the warp changes. -/
structure Ctx.Wrote (c : Ctx) (t : State) (lat r n : Nat) (f : Nat → Nat → Word) (flags : Word) : Prop
    extends c.OnlyWarp t where
  value  : ∀ j < n, ∀ i ∈ c.lanes, i < 64 → ((t.warp c.k).landDue (c.W.clk + lat)).reg (r + j) i = f j i
  before : ∀ e < lat, ∀ q i, ((t.warp c.k).landDue (c.W.clk + e)).reg q i = (c.W.landDue (c.W.clk + e)).reg q i
  frame  : ∀ q p, (∀ j < n, ∀ i ∈ c.lanes, q * 64 + p ≠ (r + j) * 64 + i) →
    (t.warp c.k).settled q p = c.W.settled q p
  warp   : ∃ l, mfind t.warps c.k = some { (c.onward c.W).raise flags c.m with pend := l }

/-- A control instruction leaves the register file alone: the issuing slices stand at `pc`, the rest of the warp is as any
instruction leaves it with the change `f`, and nothing outside the warp changes. -/
structure Ctx.Went (c : Ctx) (t : State) (pc : Nat → DWord) (f : Warp → Warp) : Prop extends c.OnlyWarp t where
  warp  : ∃ l, mfind t.warps c.k = some { f (c.onward c.W) with slices := l }
  here  : ∀ i, i < c.W.slices.length → inMask c.m i = true →
    (t.warp c.k).slice i = { (c.onward c.W).slice i with pc := pc i }
  there : ∀ i, inMask c.m i = false → (t.warp c.k).slice i = c.W.slice i

/-- The slice takes a branch: its guard holds in its lowest active lane (R23). -/
def Ctx.Takes (c : Ctx) (i l : Nat) : Prop := inMask c.m i = true ∧ c.sliceLead i = some l ∧ c.W.guardHolds c.w l = true

/-- A warp that works at D0 on its own: its accesses wait for no commit, it is no twin and continues no FCALL, it holds no
transaction, and the race detector does not watch it. -/
structure Ctx.Plain (c : Ctx) : Prop where
  direct  : c.s.buffered c.W = false
  single  : c.W.twinOf = none
  noFork  : c.fork? = none
  noTx    : c.W.tx = none
  noBuf   : c.W.buf = []
  unseen  : c.s.watched c.k = false

/-- The translation that an acting lane's address has in the TLBs, or firmware mode's. -/
def Ctx.tr (c : Ctx) (va : DWord) : Trans := (c.trans va.toNat).getD (identityTrans va.toNat)

/-- Every acting lane's address is a multiple of `align`, canonical, and its translation is cached; for a write its page may
be written. -/
def Ctx.Reach (c : Ctx) (va : Nat → DWord) (align : Nat) (write : Bool) : Prop :=
  ∀ i ∈ c.lanes, (va i).toNat % align = 0 ∧ (va i).toNat < 2 ^ 48 ∧
    ∃ t, c.trans (va i).toNat = some t ∧ (write = true → t.rdo = false)

/-- No acting lane's address lies in the view of a decoded window (R323 kind 6). -/
def Ctx.NoView (c : Ctx) (va : Nat → DWord) : Prop :=
  ∀ i ∈ c.lanes, c.s.decodedView ((c.tr (va i)).phys (va i).toNat) = none

/-- The access of a lane to n bytes. -/
def Ctx.access (c : Ctx) (n keep : Nat) (va : Nat → DWord) (op : Nat → AccOp) (i : Nat) : Access :=
  { lane := i, va := va i, pa := (c.tr (va i)).phys (va i).toNat, n := n, op := op i, lc := (c.tr (va i)).lc
    uc := (c.tr (va i)).uc, keep := keep }

/-- An operation is on its way: its flight has the next number and counts in its class (R97), the warp goes on to the next
instruction, and nothing else changes but what `touched` allows. -/
structure Ctx.Sends (c : Ctx) (t : State) (f : Flight) (touched : State → State := id) : Prop where
  rest   : touched t = touched { c.s with warps := t.warps, flights := t.flights, nextId := c.s.nextId + 1 }
  flight : mfind t.flights c.s.nextId = some f
  older  : ∀ n, n ≠ c.s.nextId → mfind t.flights n = mfind c.s.flights n
  warp   : mfind t.warps c.k = some { c.onward c.W with
    outs := if f.cls < 7 then c.W.outs ++ [(f.cls, c.s.nextId, false)] else c.W.outs }
  others : ∀ j, j ≠ c.k → mfind t.warps j = mfind c.s.warps j

/-- An operation has gone to its engine: its record has the next number and counts in its class (R97), the warp goes on to
the next instruction, what barriers have not ordered before it is kept from it (R255), and nothing else changes. -/
structure Ctx.Orders (c : Ctx) (t : State) (e : Engine) : Prop where
  rest   : t = { c.s with warps := t.warps, engines := t.engines, kept := t.kept, nextId := c.s.nextId + 1 }
  kept   : t.kept = (c.s.hideUnseen c.k c.s.nextId).kept
  engine : mfind t.engines c.s.nextId = some e
  older  : ∀ n, n ≠ c.s.nextId → mfind t.engines n = mfind c.s.engines n
  warp   : mfind t.warps c.k = some { c.onward c.W with outs := c.W.outs ++ [(e.cls, c.s.nextId, false)] }
  others : ∀ j, j ≠ c.k → mfind t.warps j = mfind c.s.warps j

/-- An operation has entered the queue of the core's matrix unit (R162), where given with the flight that waits for its
values; the unit's accumulators and planes are as they were, the warp is `W`, what barriers have not ordered before the operation is
kept from it (R163), and nothing outside changes. -/
structure Ctx.Enters (c : Ctx) (t : State) (op : MxOp) (f : Option Flight) (W : Warp) : Prop where
  rest   : t = { c.s with
    warps := t.warps
    engines := t.engines
    cores := t.cores
    flights := t.flights
    kept := t.kept
    nextId := c.s.nextId + if f.isSome then 2 else 1 }
  kept   : t.kept = (c.s.hideUnseen c.k (c.s.nextId + if f.isSome then 1 else 0)).kept
  queue  : (t.core c.W.core).mx.queue = c.mx.queue ++
    [{ op := op
       id := c.s.nextId + if f.isSome then 1 else 0
       warp := c.k
       block := c.W.block
       flight := if f.isSome then c.s.nextId else 0
       lanes := c.lanes }]
  unit   : (t.core c.W.core).mx.acc = c.mx.acc ∧ (t.core c.W.core).mx.active = c.mx.active ∧
    (t.core c.W.core).mx.shadow = c.mx.shadow ∧ (t.core c.W.core).mx.record = c.mx.record
  cores  : ∀ j, j ≠ c.W.core → t.core j = c.s.core j
  flight : ∀ n, mfind t.flights n = if f.isSome ∧ n = c.s.nextId then f else mfind c.s.flights n
  warp   : mfind t.warps c.k = some W
  others : ∀ j, j ≠ c.k → mfind t.warps j = mfind c.s.warps j

/-- A variable result on its way whose values are there (R36, R37). -/
def Ctx.result (c : Ctx) (cls : Nat) (vals : List (Nat × Nat × Word)) (regs : List Nat) : Flight :=
  { warp := c.k, cls := cls, accs := [], vals := vals, regs := regs }

/-- Everything but the blocks and the bytes that engines' operations keep of their scratchpads (R163). -/
def butBlocks (s : State) : State := { s with blocks := [], kept := [] }

/-- Everything but the dies and the partitions. -/
def butPools (s : State) : State := { s with dies := [], parts := [] }

/-- Everything but memory: the bytes behind the L2 and its lines, their order of use, their poison, the free bytes that
go there, and the bytes that engines' operations keep of it (R128). -/
def butMem (s : State) : State :=
  { s with mem := [], host := [], l2 := [], uses := 0, badSectors := [], badHbm := [], fresh := 0, kept := [] }

/-- Everything but the dies, the partitions, and memory. -/
def butBlock (s : State) : State := butMem (butPools s)

/-- The slices that issue stop at their instruction until a condition holds; the warp is otherwise as `W`, but that it has issued
since its prefetch unless the condition comes before its issue (R31). -/
def Ctx.stopped (c : Ctx) (W : Warp) (why : Cond) : Warp :=
  { (W.onSlices c.m (fun x => { x with wait := some why, woken := false })) with fresh := W.fresh && why.early }

/-- Every address is plain memory: no decoded view is enabled, and every L2 line is a whole line of HBM here, filled through
no decoded view, and equal to HBM where it is clean; a line lies whole in a partition's range or in none. -/
structure PlainMem (s : State) : Prop where
  ranges : ∀ a, s.homeless a = s.homeless (a / 128 * 128)
  views : ∀ a, s.decodedView a = none
  home  : ∀ n L, mfind s.l2 n = some L → s.inL2 (n * 128) = true
  whole : ∀ n L, mfind s.l2 n = some L → L.data.length = 128
  raw   : ∀ n L, mfind s.l2 n = some L → s.lineFmt L = none
  clean : ∀ n L, mfind s.l2 n = some L → L.dirty = 0 → L.data = s.hbmBytes (n * 128) 128

/-- The behaviour of every instruction word, by opcode. -/
def kitOf (o : Op) : Kit :=
  match o with
  | .iadd => kitIadd
  | .isub => kitIsub
  | .iadd3 => kitIadd3
  | .imul => kitImul
  | .imulh => kitImulh
  | .imad => kitImad
  | .imadw => kitImadw
  | .iabs => kitIabs
  | .imin => kitImin
  | .imax => kitImax
  | .icmp => kitIcmp
  | .sel => kitSel
  | .shl => kitShl
  | .shr => kitShr
  | .sar => kitSar
  | .shf => kitShf
  | .and_ => kitAnd
  | .or_ => kitOr
  | .xor_ => kitXor
  | .bfn3 => kitBfn3
  | .bfx => kitBfx
  | .bfi => kitBfi
  | .popc => kitPopc
  | .clz => kitClz
  | .brev => kitBrev
  | .prmb => kitPrmb
  | .mov => kitMov
  | .movi => kitMovi
  | .lea => kitLea
  | .add64 => kitAdd64
  | .cmp64 => kitCmp64
  | .movx => kitMovx
  | .movxw => kitMovxw
  | .fadd => kitFadd
  | .fsub => kitFsub
  | .fmul => kitFmul
  | .ffma => kitFfma
  | .fmin => kitFmin
  | .fmax => kitFmax
  | .fcmp => kitFcmp
  | .fclass => kitFclass
  | .frcp => kitElementary .rcp
  | .frsq => kitElementary .rsq
  | .fsqrt => kitElementary .sqrt
  | .fexp2 => kitElementary .exp2
  | .flog2 => kitElementary .log2
  | .fsin => kitElementary .sin
  | .fcos => kitElementary .cos
  | .ftanh => kitElementary .tanh
  | .fsigm => kitElementary .sigm
  | .fdot2 => kitFdot2
  | .fdot4 => kitFdot4
  | .fscale => kitFscale
  | .frnd => kitFrnd
  | .cvtf => kitCvtf
  | .cvtfi => kitCvtfi
  | .cvtif => kitCvtif
  | .pack16 => kitPack16
  | .qnt => kitQnt
  | .dqnt => kitDqnt
  | .mxscale => kitMxscale
  | .shfl => kitShfl
  | .vote => kitVote
  | .matchL => kitMatch
  | .flane => kitFlane
  | .wred => kitWred
  | .wscan => kitWscan
  | .cmpx => kitCmpx
  | .rebal => kitRebal
  | .compact => kitCompact
  | .bra => kitBra
  | .brx => kitBrx
  | .call => kitCall
  | .ret => kitRet
  | .fcall => kitFcall
  | .fsync => kitFsync
  | .if_ => kitIf
  | .else_ => kitElse
  | .endif => kitEndif
  | .loop => kitLoop
  | .break_ => kitBreak
  | .cont_ => kitCont
  | .endloop => kitEndloop
  | .regang => kitRegang
  | .bar => kitBar
  | .bara => kitBara
  | .barw => kitBarw
  | .pba => kitPba
  | .pbw => kitPbw
  | .ivl => kitIvl
  | .yield => kitYield
  | .nop => kitNop
  | .exit_ => kitExit
  | .ld => kitLd
  | .st => kitSt
  | .lds => kitLds
  | .sts => kitSts
  | .lde => kitLde
  | .ste => kitSte
  | .ldc => kitLdc
  | .pref => kitPref
  | .discard => kitDiscard
  | .amo => kitAmo
  | .red => kitRed
  | .amos => kitAmos
  | .txopen => kitTxopen
  | .txseal => kitTxseal
  | .txdrop => kitTxdrop
  | .fence => kitFence
  | .waitc => kitWaitc
  | .trywait => kitTrywait
  | .qsp => kitQsp
  | .gpreq => kitGpreq
  | .gpwait => kitGpwait
  | .dfree => kitDfree
  | .palloc => kitPalloc
  | .pfree => kitPfree
  | .gather => kitGather
  | .scatter => kitScatter
  | .copy => kitCopy
  | .copyr => kitCopyr
  | .mcfg => kitMcfg
  | .mlds => kitMlds
  | .mswap => kitMswap
  | .mloop => kitMloop
  | .mzero => kitMzero
  | .mrd => kitMrd
  | .mst => kitMst
  | .macc => kitMacc
  | .mfence => kitMfence
  | .mwait => kitMwait
  | .mmeta => kitMmeta
  | .tapbind => kitTapbind
  | .fgath => kitFgath
  | .tapgo => kitTapgo
  | .tapwait => kitTapwait
  | .fev => kitFev
  | .frewr => kitFrewr
  | .frel => kitFrel
  | .adpq => kitAdpq
  | .emit => kitEmit
  | .launch => kitLaunch
  | .sigadd => kitSigadd
  | .ndone => kitNdone
  | .cred => kitCred
  | .cgath => kitCgath
  | .cbcst => kitCbcst
  | .ca2a => kitCa2a
  | .cwait => kitCwait
  | .viewrd => kitViewrd
  | .vjoin => kitVjoin
  | .vack => kitVack
  | .trap => kitTrap
  | .eret => kitEret
  | .ctlr => kitCtlr
  | .ctlw => kitCtlw
  | .halt => kitHalt
  | .tlbinv => kitTlbinv
  | .cacheop => kitCacheop
  | .ctxsv => kitCtxsv
  | .ctxld => kitCtxld
  | .qend => kitQend
  | .sigr => kitSigr
  | .rasw => kitRasw

/-- An instruction completes where `ok` holds: in every state whose formed gang nothing keeps from its effect, it answers a
next state, in which its n result registers hold `f c j i` (register j, lane i) once the latency has passed, its flags are
raised, the issuing slices stand at the next instruction, and everything else is as it was. -/
def Computes (ok : Ctx → Prop) (I : Fields → Instr) (o : Op) (len : Len) (lat n : Nat) (f : Ctx → Nat → Nat → Word)
    (flags : Ctx → Word) : Prop :=
  ∀ (s : State) (g : Issue) (w : Fields), s.issue = some g → (s.issued g o len w).Clear → ok (s.issued g o len w) →
    ∃ t, exec (I w) s = .next t ∧
      (s.issued g o len w).Wrote t lat w.d.toNat n (f (s.issued g o len w)) (flags (s.issued g o len w))

/-- No condition. -/
def always (_ : Ctx) : Prop := True

/-- It completes always with a 32-bit result and raises no flag. -/
def Gives (I : Fields → Instr) (o : Op) (len : Len) (lat : Nat) (f : Ctx → Nat → Word) : Prop :=
  Computes always I o len lat 1 (fun c _ i => f c i) (fun _ => 0)

/-- It completes always with a 64-bit result in a register pair, low half first (R27), and raises no flag. -/
def GivesPair (I : Fields → Instr) (o : Op) (len : Len) (lat : Nat) (f : Ctx → Nat → DWord) : Prop :=
  Computes always I o len lat 2 (fun c j i => if j = 0 then loHalf (f c i) else hiHalf (f c i)) (fun _ => 0)

/-- It completes where `ok` holds with a 32-bit result in each acting lane and the flags of those lanes together
(R62). -/
def GivesFloat (ok : Ctx → Prop) (I : Fields → Instr) (o : Op) (len : Len) (lat : Nat) (f : Ctx → Nat → Word × FlagSet) : Prop :=
  Computes ok I o len lat 1 (fun c _ i => (f c i).1) (fun c => laneFlags (c.lanes.map (fun i => (f c i).2)))

/-- It completes with a 32-bit result whose bit k in lane i is `f c i k`, and raises no flag. -/
def GivesBits (I : Fields → Instr) (o : Op) (len : Len) (lat : Nat) (f : Ctx → Nat → Nat → Bool) : Prop :=
  ∃ v : Ctx → Nat → Word, Gives I o len lat v ∧ ∀ c i k, k < 32 → (v c i).getLsbD k = f c i k

/-- An instruction completes where `ok` holds, in a next state of which `post` holds. -/
def Runs (ok : Ctx → Prop) (I : Fields → Instr) (o : Op) (len : Len) (post : Ctx → State → Prop) : Prop :=
  ∀ (s : State) (g : Issue) (w : Fields), s.issue = some g → (s.issued g o len w).Clear → ok (s.issued g o len w) →
    ∃ t, exec (I w) s = .next t ∧ post (s.issued g o len w) t

/-- An instruction raises faults where `bad` holds: it has no effect, and the faults are taken (R44, R331). -/
def Faults (bad : Ctx → Prop) (I : Fields → Instr) (o : Op) (len : Len) (rs : Ctx → List TrapRec) : Prop :=
  ∀ (s : State) (g : Issue) (w : Fields), s.issue = some g → (s.issued g o len w).Clear → bad (s.issued g o len w) →
    exec (I w) s = .next ((s.issued g o len w).fault (s.issued g o len w).s (rs (s.issued g o len w)))

/-- Table 5 of R206: for each elementary function, the inputs it lists one by one, each with its result and flags. -/
def specialInputs (o : Op) : List (Word × Word × FlagSet) :=
  match o with
  | .frcp => [(0, 0x7F800000, { dz := true }), (0x80000000, 0xFF800000, { dz := true }),
      (0x7F800000, 0, {}), (0xFF800000, 0x80000000, {})]
  | .frsq => [(0, 0x7F800000, { dz := true }), (0x80000000, 0xFF800000, { dz := true }), (0x7F800000, 0, {})]
  | .fsqrt => [(0x80000000, 0x80000000, {}), (0x7F800000, 0x7F800000, {})]
  | .fexp2 => [(0xFF800000, 0, {}), (0x7F800000, 0x7F800000, {}), (0, 0x3F800000, {}), (0x80000000, 0x3F800000, {})]
  | .flog2 => [(0, 0xFF800000, { dz := true }), (0x80000000, 0xFF800000, { dz := true }), (0x3F800000, 0, {}),
      (0x7F800000, 0x7F800000, {})]
  | .fsin => [(0, 0, {}), (0x80000000, 0x80000000, {}), (0x7F800000, 0x7FC00000, { nv := true }),
      (0xFF800000, 0x7FC00000, { nv := true })]
  | .fcos => [(0, 0x3F800000, {}), (0x80000000, 0x3F800000, {}), (0x7F800000, 0x7FC00000, { nv := true }),
      (0xFF800000, 0x7FC00000, { nv := true })]
  | .ftanh => [(0, 0, {}), (0x80000000, 0x80000000, {}), (0x7F800000, 0x3F800000, {}), (0xFF800000, 0xBF800000, {})]
  | .fsigm => [(0, 0x3F000000, {}), (0x80000000, 0x3F000000, {}), (0xFF800000, 0, {}), (0x7F800000, 0x3F800000, {})]
  | _ => []

end Sys2Proof.Machine
end

