-- ==== Sys2Proof/Certificates/Slice0/Obligations.lean ====
section
/-! DEFINITION. The statements about this machine. Each docstring names the rules of the manual that its statement follows;
where it rests on a choice of the model it names the log entry. -/

open Sys2Proof Sys2Proof.Machine

/-! ### Encoding and fetch -/

/-- R179 to R186: decoding the bytes of a well-formed word gives the instruction back, whatever follows it in its fetch
block, for every opcode and every value of every field whose registers lie below the declared count. -/
def Obligations.DecodeEncode : Prop :=
  ∀ (i : Instr) (o : Op) (len : Len) (w : Fields) (count : Nat) (rest : List Byte),
    i.word = some (o, len, w) → i.wf = true → o.regsBelow w count = true →
    (o = .ivl → ∀ x ∈ Shape.ivlRanges w, x.2 = 0 ∨ x.1 + x.2 ≤ count) →
    decode (encodeBytes i ++ rest) count = .ok i

/-- R180 to R187: what decodes is a well-formed word that lies whole in its fetch block, names registers below the declared
count only, and is spelled by exactly the bytes it was read from. -/
def Obligations.DecodeSound : Prop :=
  ∀ (bs : List Byte) (count : Nat) (i : Instr), decode bs count = .ok i →
    i.wf = true ∧ ∃ o len w, i.word = some (o, len, w) ∧ o.regsBelow w count = true ∧ len.bytes ≤ bs.length ∧
      encodeBytes i = bs.take len.bytes

/-- Worked encodings of the manual decode to the instructions they stand for: those of MOV (R192), IADD, BFN3 (R200), BREAK (R218),
LD (R236), FENCE (R245), MLOOP.adp (R257), CRED (R270) and CTLR (R280). -/
def Obligations.WorkedWords : Prop :=
  -- MOV v6, v4.bc0 ~1
  decode [0x68, 0x10, 0x00, 0x00, 0x06, 0x04, 0x02, 0x00] 256 =
    .ok (.mov ⟨0, 0, false, false, 1, 6, ⟨4, 2, 0⟩, .zero, .zero, 0, 0⟩) ∧
  -- (!v3) IADD v30, v14, 128 ~2
  decode [0x01, 0x20, 0x0F, 0x00, 0x1E, 0x0E, 0x00, 0x80, 0x06, 0x00, 0x00, 0x00] 256 =
    .ok (.iadd ⟨0, 3, true, true, 2, 0x1E, ⟨14, 0, 0⟩, ⟨0x80, 6, 0⟩, .zero, 0, 0⟩) ∧
  -- BFN3 v5, v1, v2, v3, 0xAC
  decode [0x4D, 0x00, 0x00, 0x00, 0x05, 0x01, 0x00, 0x02, 0x00, 0x03, 0x00, 0xAC] 256 =
    .ok (.bfn3 ⟨0, 0, false, false, 0, 5, ⟨1, 0, 0⟩, ⟨2, 0, 0⟩, ⟨3, 0, 0⟩, 0xAC, 0⟩) ∧
  -- (v1) LD.b64 v8:v9, v10:v11 ~1
  decode [0x01, 0x16, 0x05, 0x0C, 0x08, 0x0A, 0x00, 0x00, 0x06, 0x00, 0x00, 0x00] 256 =
    .ok (.ld ⟨3, 1, true, false, 1, 8, ⟨10, 0, 0⟩, ⟨0, 6, 0⟩, .zero, 0, 0⟩) ∧
  -- BREAK v3, depth 0, offset 0x20
  decode [0x2A, 0x05, 0x00, 0x00, 0x00, 0x03, 0x00, 0x00, 0x00, 0x00, 0x00, 0x00, 0x20, 0x00, 0x00, 0x00] 256 =
    .ok (.break_ ⟨0, 0, false, false, 0, 0, ⟨3, 0, 0⟩, .zero, .zero, 0, 0x20⟩) ∧
  -- FENCE.rel.PACKAGE
  decode [0x18, 0x08, 0x00, 0x48, 0x00, 0x00, 0x00, 0x00] 256 =
    .ok (.fence ⟨0x12, 0, false, false, 0, 0, .zero, .zero, .zero, 0, 0⟩) ∧
  -- MLOOP.adp v48, v16, v44, v45
  decode [0x0D, 0x0A, 0x00, 0x10, 0x30, 0x10, 0x00, 0x2C, 0x00, 0x2D, 0x00, 0x00] 256 =
    .ok (.mloop ⟨4, 0, false, false, 0, 0x30, ⟨0x10, 0, 0⟩, ⟨0x2C, 0, 0⟩, ⟨0x2D, 0, 0⟩, 0, 0⟩) ∧
  -- CRED.sum.f32 v10, v20:v21, v22:v23, v24:v25, 8, 0
  decode [0x02, 0x0C, 0x00, 0x00, 0x0A, 0x14, 0x00, 0x16, 0x00, 0x18, 0x00, 0x00, 0x08, 0x00, 0x00, 0x00] 256 =
    .ok (.cred ⟨0, 0, false, false, 0, 0x0A, ⟨0x14, 0, 0⟩, ⟨0x16, 0, 0⟩, ⟨0x18, 0, 0⟩, 0, 8⟩) ∧
  -- CTLR v0, k.tinfo_3
  decode [0x88, 0x0C, 0x00, 0x00, 0x00, 0x10, 0x00, 0x00] 256 =
    .ok (.ctlr ⟨0, 0, false, false, 0, 0, ⟨0x10, 0, 0⟩, .zero, .zero, 0, 0⟩)

/-- R186: the reasons of a decode fault, the lowest that holds being reported: reserved LEN, unassigned opcode, wrong
length, reserved MOD, a reserved field pattern, a register beyond the declared count, a word that crosses its fetch block.
Of a word that crosses, the fields that lie in its own fetch block are judged: the rest is not fetched (DEDUCED, log entry 1). -/
def Obligations.DecodeReasons : Prop :=
  ∀ (bs : List Byte) (count : Nat) (v : InstrBits), v = BitVec.ofNat 128 (leNat (bs.take 16)) →
    (v.extractLsb' 0 2 = 3 → decode bs count = .error 1) ∧
    (v.extractLsb' 0 2 ≠ 3 → Op.ofCode (v.extractLsb' 2 10) = none → decode bs count = .error 2) ∧
    ∀ o len, lenOfBits v = some len → Op.ofCode (v.extractLsb' 2 10) = some o →
      let w := fieldsOfBits v len
      (o.takes len = false → decode bs count = .error 3) ∧
      (o.takes len = true → o.modOk w.mod = false → decode bs count = .error 4) ∧
      (o.takes len = true → o.modOk w.mod = true → len.bytes ≤ bs.length →
        (o.fieldsOk w = false → decode bs count = .error 5) ∧
        (o.fieldsOk w = true → o ≠ .ivl → o.regsBelow w count = false → decode bs count = .error 6)) ∧
      (o.takes len = true → o.modOk w.mod = true → bs.length < len.bytes →
        let r := o.roles w
        let beyond (l : List (Nat × Nat)) : Prop := ∃ x ∈ l, count < x.1 + x.2
        (w.guardOk r.guard = false ∨ 8 ≤ bs.length ∧ (r.d.dOk w.d = false ∨ r.a.fieldOk w.a = false) ∨
          12 ≤ bs.length ∧ (r.b.fieldOk w.b = false ∨ r.c.fieldOk w.c = false) → decode bs count = .error 5) ∧
        (o.seenOk w bs.length count = true →
          (w.ge = true ∧ count ≤ w.gr.toNat ∨ 8 ≤ bs.length ∧ beyond (o.dstRanges w ++ r.a.fieldRegs w.a) ∨
            12 ≤ bs.length ∧ beyond (r.b.fieldRegs w.b ++ r.c.fieldRegs w.c) → decode bs count = .error 6) ∧
          (o.seenBelow w bs.length count = true → decode bs count = .error 7)) ∧
        (o.seenOk w bs.length count = false → decode bs count = .error 5))

/-- R16, R187: a step at which a slot has formed a gang fetches the 32-byte block at the gang's address and runs the
instruction that the bytes there decode to; the block comes from memory where the core's instruction cache does not hold
it and no store to it has come to its home in part. -/
def Obligations.StepRunsFetched : Prop :=
  ∀ (s : State) (g : Issue) (tr : Trans) (i : Instr),
    let c := ({ s with issue := none } : State).gangAt g.warp g.mask g.pc
    let b := c.s.fetchBlock c.W.core (tr.phys g.pc.toNat)
    s.issue = some g → g.mask ≠ 0 → c.skip = c → c.fetchTrans = some tr → tr.xn = false →
    ¬ (g.pc.toNat % 32 = 28 ∧ leNat (b.2.drop 28) = fillerWord) →
    decode (b.2.drop (g.pc.toNat % 32)) c.W.bound = .ok i →
    step s = exec i { b.1 with issue := some g } ∧
      (mfind (s.core c.W.core).icache (tr.phys g.pc.toNat / 32) = none →
        (∀ f ∈ s.flights, ∀ a ∈ f.2.accs, a.pa / 32 = tr.phys g.pc.toNat / 32 → a.stores = true → a.done = false) →
        b.2 = s.bytesAt (tr.phys g.pc.toNat / 32 * 32) 32)

/-- R186, R318, R331: where the bytes do not decode, the step raises the decode fault with its reason and the header word,
latched once for the gang; nothing else happens.

R187: the filler word at offset 28 of a fetch block is stepped over: the gang's instruction is the one at the next
block. -/
def Obligations.DecodeStops : Prop :=
  (∀ (s : State) (g : Issue) (tr : Trans) (r : Nat),
     let c := ({ s with issue := none } : State).gangAt g.warp g.mask g.pc
     let b := c.s.fetchBlock c.W.core (tr.phys g.pc.toNat)
     let bytes := b.2.drop (g.pc.toNat % 32)
     s.issue = some g → g.mask ≠ 0 → c.skip = c → c.fetchTrans = some tr → tr.xn = false →
     ¬ (g.pc.toNat % 32 = 28 ∧ leNat bytes = fillerWord) → decode bytes c.W.bound = .error r →
     step s = .next (({ c with s := b.1 } : Ctx).fault b.1
       [{ c.recWord 1 with info0 := BitVec.ofNat 32 r, info1 := BitVec.ofNat 32 (leNat (bytes.take 4)) }])) ∧
  (∀ (s : State) (g : Issue) (tr : Trans),
     let c := ({ s with issue := none } : State).gangAt g.warp g.mask g.pc
     let b := c.s.fetchBlock c.W.core (tr.phys g.pc.toNat)
     s.issue = some g → g.mask ≠ 0 → c.skip = c → c.fetchTrans = some tr → tr.xn = false →
     g.pc.toNat % 32 = 28 → leNat (b.2.drop 28) = fillerWord →
     ∃ c' : Ctx, c' = ({ c with s := b.1 } : Ctx).hop ∧ c'.pc = g.pc + 4 ∧
       (∀ i ∈ maskSlices g.mask, i < c.W.slices.length → mfind s.warps g.warp = some c.W → (c'.W.slice i).pc = g.pc + 4) ∧
       s.fetch = c'.fetch 1)

/-- Every instruction word of the opcode table, R16, R37, R44, R318: issued for a gang that nothing keeps from its effect, it
completes: its effect takes place, and the slices go on to the next instruction unless the instruction itself says where. -/
def Obligations.WordsComplete : Prop :=
  ∀ (i : Instr) (o : Op) (len : Len) (w : Fields) (s t : State) (g : Issue),
    i.word = some (o, len, w) → s.issue = some g →
    let c := s.issued g o len w
    c.Clear → (kitOf o).Lets c t →
    exec i s = .next ((c.moved t).retire (kitOf o).jumps ((kitOf o).eff (c.moved t)))

/-! ### Integer and float arithmetic -/

/-- R200: the sums, products, absolute values and extremes, each with its MOD forms. -/
def Obligations.IntegerArithmetic : Prop :=
  Gives .iadd .iadd .l96 4 (fun c i =>
    if c.mod = 0 then c.a i + c.b i
    else if c.mod = 1 then BitVec.ofInt 32 (max (-2147483648) (min 2147483647 ((c.a i).toInt + (c.b i).toInt)))
    else BitVec.ofNat 32 (min 4294967295 ((c.a i).toNat + (c.b i).toNat))) ∧
  Gives .isub .isub .l96 4 (fun c i =>
    if c.mod = 0 then c.a i - c.b i
    else if c.mod = 1 then BitVec.ofInt 32 (max (-2147483648) (min 2147483647 ((c.a i).toInt - (c.b i).toInt)))
    else BitVec.ofNat 32 ((c.a i).toNat - (c.b i).toNat)) ∧
  Gives .iadd3 .iadd3 .l96 4 (fun c i => c.a i + c.b i + c.c i) ∧
  Gives .imul .imul .l96 4 (fun c i => c.a i * c.b i) ∧
  Gives .imulh .imulh .l96 4 (fun c i =>
    if c.mod = 1 then hiHalf ((c.a i).setWidth 64 * (c.b i).setWidth 64)
    else hiHalf ((c.a i).signExtend 64 * (c.b i).signExtend 64)) ∧
  Gives .imad .imad .l96 4 (fun c i => c.a i * c.b i + c.c i) ∧
  Gives .iabs .iabs .l64 4 (fun c i =>
    if c.a i = 0x80000000 then (if c.mod = 1 then 0x7FFFFFFF else 0x80000000)
    else if (c.a i).toInt < 0 then 0 - c.a i else c.a i) ∧
  Gives .imin .imin .l96 4 (fun c i =>
    if c.mod = 1 then BitVec.ofNat 32 (min (c.a i).toNat (c.b i).toNat)
    else BitVec.ofInt 32 (min (c.a i).toInt (c.b i).toInt)) ∧
  Gives .imax .imax .l96 4 (fun c i =>
    if c.mod = 1 then BitVec.ofNat 32 (max (c.a i).toNat (c.b i).toNat)
    else BitVec.ofInt 32 (max (c.a i).toInt (c.b i).toInt))

/-- R200: SEL and the moves, the shifts, whose count is b as an unsigned number, and the bitwise operations. -/
def Obligations.ShiftsAndLogic : Prop :=
  Gives .sel .sel .l96 4 (fun c i => if c.c i = 0 then c.b i else c.a i) ∧
  Gives .mov .mov .l64 4 (fun c i => c.a i) ∧
  Gives .movi .movi .l128 4 (fun c _ => c.w.imm) ∧
  Gives .shl .shl .l96 4 (fun c i => c.a i <<< (c.b i).toNat) ∧
  Gives .shr .shr .l96 4 (fun c i => c.a i >>> (c.b i).toNat) ∧
  Gives .sar .sar .l96 4 (fun c i => (c.a i).sshiftRight (c.b i).toNat) ∧
  Gives .shf .shf .l96 4 (fun c i =>
    if c.mod = 1 then hiHalf ((c.c i ++ c.a i) <<< ((c.b i).toNat % 64))
    else loHalf ((c.c i ++ c.a i) >>> ((c.b i).toNat % 64))) ∧
  Gives .and_ .and_ .l96 4 (fun c i => c.a i &&& c.b i) ∧
  Gives .or_ .or_ .l96 4 (fun c i => c.a i ||| c.b i) ∧
  Gives .xor_ .xor_ .l96 4 (fun c i => c.a i ^^^ c.b i) ∧
  GivesBits .bfn3 .bfn3 .l96 4 (fun c i k =>
    c.w.ext.getLsbD (((c.a i).getLsbD k).toNat + 2 * ((c.b i).getLsbD k).toNat + 4 * ((c.c i).getLsbD k).toNat))

/-- R200: the instructions that move and count bits, bit by bit. -/
def Obligations.BitFields : Prop :=
  GivesBits .bfx .bfx .l96 4 (fun c i k =>
    let p := min (c.b i).toNat 32
    let l := min (c.c i).toNat (32 - p)
    if k < l then (c.a i).getLsbD (p + k) else decide (c.mod = 1) && decide (0 < l) && (c.a i).getLsbD (p + l - 1)) ∧
  GivesBits .bfi .bfi .l96 4 (fun c i k =>
    let p := min ((c.b i).extractLsb' 0 8).toNat 32
    let l := min ((c.b i).extractLsb' 8 8).toNat (32 - p)
    if p ≤ k ∧ k < p + l then (c.a i).getLsbD (k - p) else (c.c i).getLsbD k) ∧
  GivesBits .brev .brev .l64 4 (fun c i k => (c.a i).getLsbD (31 - k)) ∧
  GivesBits .prmb .prmb .l96 4 (fun c i k =>
    let j := k / 8
    let y := ((c.b i ++ c.a i).extractLsb' (8 * ((c.c i).extractLsb' (4 * j) 3).toNat) 8 : Byte)
    if (c.c i).getLsbD (4 * j + 3) then y.getLsbD 7 else y.getLsbD (k % 8)) ∧
  Gives .popc .popc .l64 4 (fun c i => BitVec.ofNat 32 (((List.range 32).map (fun k => ((c.a i).getLsbD k).toNat)).sum)) ∧
  ∃ n : Ctx → Nat → Nat, Gives .clz .clz .l64 4 (fun c i => BitVec.ofNat 32 (n c i)) ∧
    ∀ c i, n c i ≤ 32 ∧ (∀ k < n c i, (c.a i).getLsbD (31 - k) = false) ∧ (n c i < 32 → (c.a i).getLsbD (31 - n c i) = true)

/-- R200: the 64-bit results in a register pair. -/
def Obligations.PairArithmetic : Prop :=
  GivesPair .imadw .imadw .l96 4 (fun c i =>
    (if c.mod = 1 then (c.a i).setWidth 64 * (c.b i).setWidth 64 else (c.a i).signExtend 64 * (c.b i).signExtend 64) + c.c64 i) ∧
  GivesPair .lea .lea .l128 4 (fun c _ => c.pc + c.w.imm.signExtend 64) ∧
  GivesPair .add64 .add64 .l96 4 (fun c i => c.a64 i + c.b64 i)

/-- R201: MOVX writes the register that a names in the acting lane to D, MOVXW writes b to it; that each is complete with its
issue is the model's choice (DEDUCED, log entry 53). Every other place of the register file, and everything outside the warp, is as it was.

R201: where an acting lane's number is at or above the declared count, MOVX and MOVXW raise the register-index fault
with that number, latched once for the gang, before any lane writes. -/
def Obligations.ComputedRegisters : Prop :=
  (∀ (s : State) (g : Issue) (w : Fields), s.issue = some g →
     (let c := s.issued g .movx .l64 w
      c.Clear → (∀ i ∈ c.lanes, (c.a i).toNat < c.W.bound ∧ (c.a i).toNat ∉ c.s.pendingRegs c.k ∧
         mfind c.W.poison ((c.a i).toNat * 64 + i) = none) →
       ∃ t, exec (.movx w) s = .next t ∧ c.OnlyWarp t ∧
         (∀ i ∈ c.lanes, (t.warp c.k).reg w.d.toNat i = c.W.reg (c.a i).toNat i) ∧
         (∀ q p, (∀ i ∈ c.lanes, q * 64 + p ≠ w.d.toNat * 64 + i) → (t.warp c.k).reg q p = c.W.reg q p) ∧
         ∃ r p, mfind t.warps c.k = some { c.onward c.W with regs := r, poison := p }) ∧
     (let c := s.issued g .movxw .l64 w
      c.Clear → (∀ i ∈ c.lanes, (c.a i).toNat < c.W.bound ∧ (c.a i).toNat ∉ c.s.pendingRegs c.k) →
       ∃ t, exec (.movxw w) s = .next t ∧ c.OnlyWarp t ∧
         (∀ i ∈ c.lanes, (∀ j ∈ c.lanes, j ≠ i → (c.a j).toNat * 64 + j ≠ (c.a i).toNat * 64 + i) →
           (t.warp c.k).reg (c.a i).toNat i = c.b i) ∧
         (∀ q p, (∀ i ∈ c.lanes, q * 64 + p ≠ (c.a i).toNat * 64 + i) → (t.warp c.k).reg q p = c.W.reg q p) ∧
         ∃ r p, mfind t.warps c.k = some { c.onward c.W with regs := r, poison := p })) ∧
  (∀ (s : State) (g : Issue) (w : Fields) (o : Op) (i : Nat), s.issue = some g → (o = .movx ∨ o = .movxw) →
     let c := s.issued g o .l64 w
     c.Clear → (∀ j ∈ c.lanes, (c.a j).toNat ∉ c.s.pendingRegs c.k) →
     c.lanes.find? (fun j => c.W.bound ≤ (c.a j).toNat) = some i →
     exec (if o = .movx then .movx w else .movxw w) s =
       .next (c.fault c.s [{ c.flt i 3 with info0 := c.a i, whole := true, mask := c.m }]))

/-- R199: ICMP and CMP64: a compare writes all ones where its condition holds and 0 elsewhere; and the MOD values that the
three compares accept.

R199, R203, R204: FCMP's seven conditions on FP32 values, false with a NaN but for `.ne` and `.un`, NV for a signalling
NaN and in the ordered conditions for any; FCLASS writes one bit of ten and raises nothing.

R203: FMIN and FMAX, in FP32 or in each half: minimumNumber and maximumNumber: with one NaN the other operand, with two
the canonical NaN, −0 below +0, else the smaller or the larger; NV for a signalling NaN alone. -/
def Obligations.Comparisons : Prop :=
  (let cond (m : Nat) (lt eq gt : Bool) : Word :=
     if [eq, !eq, lt, lt || eq, gt, gt || eq].getD (m % 8) (gt || eq) then 0xFFFFFFFF else 0
   Gives .icmp .icmp .l96 4 (fun c i =>
     if c.mod < 8 then cond c.mod ((c.a i).slt (c.b i)) (c.a i == c.b i) ((c.b i).slt (c.a i))
     else cond c.mod ((c.a i).ult (c.b i)) (c.a i == c.b i) ((c.b i).ult (c.a i))) ∧
   Gives .cmp64 .cmp64 .l96 4 (fun c i =>
     if c.mod < 8 then cond c.mod ((c.a64 i).slt (c.b64 i)) (c.a64 i == c.b64 i) ((c.b64 i).slt (c.a64 i))
     else cond c.mod ((c.a64 i).ult (c.b64 i)) (c.a64 i == c.b64 i) ((c.b64 i).ult (c.a64 i))) ∧
   ∀ m : BitVec 6,
     Op.modOk .icmp m = decide (m.toNat % 8 ≤ 5 ∧ m.toNat < 16) ∧ Op.modOk .cmp64 m = decide (m.toNat % 8 ≤ 5 ∧ m.toNat < 16) ∧
     Op.modOk .fcmp m = decide (m.toNat ≤ 6)) ∧
  (GivesFloat (fun c => c.mod ≤ 6) .fcmp .fcmp .l96 6 (fun c i =>
     let x := Fmt.fp32.decode (c.W.opF32 c.w.a i).toNat
     let y := Fmt.fp32.decode (c.W.opF32 c.w.b i).toNat
     let un := x.isNan || y.isNan
     let lt := !un && x.lt y
     let gt := !un && y.lt x
     let eq := !un && !x.lt y && !y.lt x
     (if [eq, !eq, lt, lt || eq, gt, gt || eq, un].getD c.mod false then 0xFFFFFFFF else 0,
      { nv := x.isSnan || y.isSnan || (2 ≤ c.mod && c.mod ≤ 5 && un) })) ∧
   ∃ b : Word → Nat, (∀ a, b a < 10) ∧ Gives .fclass .fclass .l64 6 (fun c i => 1 <<< b (c.W.opF32 c.w.a i)) ∧
     ∀ a : Word,
       let e := (a.extractLsb' 23 8).toNat
       let f := (a.extractLsb' 0 23).toNat
       let neg := a.getLsbD 31
       b a =
         if e = 255 then (if f = 0 then (if neg then 0 else 7) else if f < 2 ^ 22 then 8 else 9)
         else if e = 0 then (if f = 0 then (if neg then 3 else 4) else if neg then 2 else 5)
         else if neg then 1 else 6) ∧
  (let halves (m : Nat) (f : Fmt → List Nat → Nat × FlagSet) (xs : List Word) : Word × FlagSet :=
     let F := if m / 4 % 4 = 1 then Fmt.fp16 else Fmt.bf16
     if m / 4 % 4 = 0 then (BitVec.ofNat 32 (f Fmt.fp32 (xs.map (·.toNat))).1, (f Fmt.fp32 (xs.map (·.toNat))).2)
     else
       let lo := f F (xs.map (·.toNat % 65536))
       let hi := f F (xs.map (·.toNat / 65536))
       (BitVec.ofNat 32 (lo.1 + 65536 * hi.1), lo.2.or hi.2)
   let pick (isMax : Bool) (c : Ctx) (i : Nat) : Word × FlagSet :=
     halves c.mod (fun F l => F.minmax isMax (l.getD 0 0) (l.getD 1 0)) [c.fop c.w.a i, c.fop c.w.b i]
   GivesFloat always .fmin .fmin .l96 6 (pick false) ∧
   GivesFloat always .fmax .fmax .l96 6 (pick true) ∧
   ∀ (F : Fmt) (nan : Nat) (isMax : Bool) (a b : Nat), (F, nan) ∈ [(Fmt.fp32, 0x7FC00000), (Fmt.fp16, 0x7E00), (Fmt.bf16, 0x7FC0)] →
     a < 2 ^ (F.ebits + F.fbits + 1) → b < 2 ^ (F.ebits + F.fbits + 1) →
     let x := F.decode a
     let y := F.decode b
     let r := F.minmax isMax a b
     (x.isNan = true → y.isNan = true → r.1 = nan) ∧
     (x.isNan = true → y.isNan = false → r.1 = b) ∧
     (x.isNan = false → y.isNan = true → r.1 = a) ∧
     (x.isNan = false → y.isNan = false → x.lt y = true → y.lt x = false → r.1 = if isMax then b else a) ∧
     (x.isNan = false → y.isNan = false → y.lt x = true → x.lt y = false → r.1 = if isMax then a else b) ∧
     (x.isNan = false → a = b → r.1 = a) ∧
     (x.isZero = true → y.isZero = true → x.isNeg = true → y.isNeg = false → r.1 = if isMax then b else a) ∧
     (x.isZero = true → y.isZero = true → x.isNeg = false → y.isNeg = true → r.1 = if isMax then a else b) ∧
     r.2 = { nv := x.isSnan || y.isSnan })

/-- R61, R202: FADD, FSUB, FMUL and FFMA give the exact value of the operands rounded once in the form's format and mode,
in FP32 or in each half. The flags of every lane and half are raised together. -/
def Obligations.FloatArithmetic : Prop :=
  let halves (m : Nat) (f : Fmt → List Nat → Nat × FlagSet) (xs : List Word) : Word × FlagSet :=
    let F := if m / 4 % 4 = 1 then Fmt.fp16 else Fmt.bf16
    if m / 4 % 4 = 0 then (BitVec.ofNat 32 (f Fmt.fp32 (xs.map (·.toNat))).1, (f Fmt.fp32 (xs.map (·.toNat))).2)
    else
      let lo := f F (xs.map (·.toNat % 65536))
      let hi := f F (xs.map (·.toNat / 65536))
      (BitVec.ofNat 32 (lo.1 + 65536 * hi.1), lo.2.or hi.2)
  let two (f : RMode → FVal → FVal → FVal × FlagSet) (c : Ctx) (i : Nat) : Word × FlagSet :=
    halves c.mod (fun F l => F.finish c.mode (f c.mode (F.decode (l.getD 0 0)) (F.decode (l.getD 1 0)))) [c.fop c.w.a i, c.fop c.w.b i]
  GivesFloat always .fadd .fadd .l96 6 (two FVal.add) ∧
  GivesFloat always .fsub .fsub .l96 6 (two (fun m x y => FVal.add m x y.negate)) ∧
  GivesFloat always .fmul .fmul .l96 6 (two (fun _ => FVal.mul)) ∧
  GivesFloat always .ffma .ffma .l96 6 (fun c i => halves c.mod
    (fun F l => F.finish c.mode (FVal.fma c.mode (F.decode (l.getD 0 0)) (F.decode (l.getD 1 0)) (F.decode (l.getD 2 0))))
    [c.fop c.w.a i, c.fop c.w.b i, c.fop c.w.c i])

/-- R205, R206, R125: each elementary function completes, with a result and flags that depend on its input and form alone;
the special inputs of Table 5 give its results in either form, a NaN the canonical NaN, a negative input of FRSQ, FSQRT
and FLOG2 the canonical NaN with NV; an approximate form raises NX for every input that Table 5 does not list. At D3 an
approximate form raises the determinism trap with reason 3 instead. -/
def Obligations.ElementaryFunctions : Prop :=
  ∀ (o : Op) (I : Fields → Instr),
    (o, I) ∈ [(Op.frcp, Instr.frcp), (.frsq, .frsq), (.fsqrt, .fsqrt), (.fexp2, .fexp2), (.flog2, .flog2), (.fsin, .fsin),
      (.fcos, .fcos), (.ftanh, .ftanh), (.fsigm, .fsigm)] →
    Faults (fun c => c.mod = 0 ∧ o ≠ .fsqrt ∧ c.W.detlvl = 3) I o .l64
      (fun c => [{ c.recWord 0x50 with info0 := 3, info1 := BitVec.ofNat 32 o.code.toNat }]) ∧
    ∃ r : BitVec 6 → Word → Word × FlagSet,
      GivesFloat (fun c => ¬ (c.mod = 0 ∧ o ≠ .fsqrt ∧ c.W.detlvl = 3)) I o .l64 14 (fun c i => r c.w.mod (c.W.opF32 c.w.a i)) ∧
      (∀ m, ∀ x ∈ specialInputs o, r m x.1 = x.2) ∧
      (∀ m a, (Fmt.fp32.decode a.toNat).isNan = true → (r m a).1 = 0x7FC00000) ∧
      (∀ m a, o ∈ [Op.frsq, .fsqrt, .flog2] → (Fmt.fp32.decode a.toNat).isNan = false → a.getLsbD 31 = true → a ≠ 0x80000000 →
        r m a = (0x7FC00000, { nv := true })) ∧
      (∀ a, o ≠ .fsqrt → (Fmt.fp32.decode a.toNat).isNan = false → (∀ x ∈ specialInputs o, a ≠ x.1) →
        ¬ (o ∈ [Op.frsq, .flog2] ∧ a.getLsbD 31 = true) → (r 0 a).2.nx = true)

/-- R61, R202, R207: FSCALE, FRND and the conversions round once in the mode of MOD. CVTFI saturates with NV, CVTF widens
exactly and keeps a NaN's sign and high fraction bits, every other NaN result is canonical, and a signalling NaN raises
NV. -/
def Obligations.Conversions : Prop :=
  let f32 (o : Operand) (c : Ctx) (i : Nat) : FVal := Fmt.fp32.decode (c.W.opF32 o i).toNat
  let word (r : Nat × FlagSet) : Word × FlagSet := (BitVec.ofNat 32 r.1, r.2)
  let fmt (n : Nat) : Fmt := [Fmt.fp32, Fmt.fp16, Fmt.bf16].getD n Fmt.bf16
  GivesFloat always .fscale .fscale .l96 6 (fun c i =>
    word (Fmt.fp32.round c.mode false ((f32 c.w.a c i).scale (c.b i).toInt))) ∧
  GivesFloat always .frnd .frnd .l64 6 (fun c i =>
    match f32 c.w.a c i with
    | .nan _ s _ => (0x7FC00000, { nv := s })
    | .inf n => (if n then 0xFF800000 else 0x7F800000, {})
    | .fin n m e => (if 0 ≤ e then c.W.opF32 c.w.a i
        else BitVec.ofNat 32 (Fmt.fp32.round c.mode false (.fin n (roundInt c.mode n m e).1 0)).1, {})) ∧
  GivesFloat (fun c => c.mod / 4 % 4 ≤ 2 ∧ c.mod / 16 ≤ 2) .cvtf .cvtf .l64 6 (fun c i =>
    let src := c.mod / 4 % 4
    let F := fmt src
    let G := fmt (c.mod / 16)
    let code := if src = 0 then (c.W.opF32 c.w.a i).toNat else (c.W.opPacked F 1 c.w.a i).toNat % 65536
    match F.decode code with
    | .nan n s f =>
      if src ≠ 0 ∧ c.mod / 16 = 0 then
        (BitVec.ofNat 32 ((if n then 2 ^ 31 else 0) + 0x7F800000 + (f * 2 ^ (23 - F.fbits) ||| 2 ^ 22)), { nv := s })
      else (BitVec.ofNat 32 G.canon, { nv := s })
    | x => word (G.round (if src ≠ 0 ∧ c.mod / 16 = 0 then .rne else c.mode) false x)) ∧
  GivesFloat always .cvtfi .cvtfi .l64 6 (fun c i =>
    let uns := c.w.mod.getLsbD 2
    let lo : Int := if uns then 0 else -2147483648
    let hi : Int := if uns then 4294967295 else 2147483647
    match f32 c.w.a c i with
    | .nan _ _ _ => (0, { nv := true })
    | .inf n => (BitVec.ofInt 32 (if n then lo else hi), { nv := true })
    | .fin n m e =>
      let q := roundInt c.mode n m e
      let v : Int := if n then -(q.1 : Int) else q.1
      (BitVec.ofInt 32 (max lo (min hi v)), if v < lo ∨ hi < v then { nv := true } else { nx := q.2 })) ∧
  GivesFloat always .cvtif .cvtif .l64 6 (fun c i =>
    let v : Int := if c.w.mod.getLsbD 2 then (c.a i).toNat else (c.a i).toInt
    word (Fmt.fp32.round c.mode false (.fin (v < 0) v.natAbs 0))) ∧
  GivesFloat always .pack16 .pack16 .l96 6 (fun c i =>
    let G := if c.w.mod.getLsbD 2 then Fmt.bf16 else Fmt.fp16
    let lo := G.round c.mode false (f32 c.w.a c i)
    let hi := G.round c.mode false (f32 c.w.b c i)
    (BitVec.ofNat 32 (lo.1 + 65536 * hi.1), lo.2.or hi.2))

/-- R49: what a code of each format stands for: the rational of Table 1, an infinity or a NaN.

R61, R62: a finite value is rounded to the code that its mode asks for: to nearest it is a nearest finite one, and an even one of two; toward
zero, down or up the last on that side. NX is raised where it differs, UF only below the normal numbers, and OF only above the
largest finite magnitude, where the result is that magnitude or an infinity.

R63: the sums and products of finite values are those of the rationals they stand for, and so are order and scaling. -/
def Obligations.ExactArithmetic : Prop :=
  let rat (x : FVal) : Rat := x.sm * (2 : Rat) ^ x.ex
  let fin (x : FVal) : Prop := x.isNan = false ∧ x.isInf = false
  -- bits of exponent and fraction, bias, and whether the all-ones exponent means infinity and NaN
  let formats : List (Fmt × Nat × Nat × Nat × Bool) :=
    [(.fp32, 8, 23, 127, true), (.fp16, 5, 10, 15, true), (.bf16, 8, 7, 127, true), (.e4m3, 4, 3, 7, false), (.e5m2, 5, 2, 15, true),
      (.e2m1, 2, 1, 1, false)]
  (∀ F eb fb bias special, (F, eb, fb, bias, special) ∈ formats → ∀ code < 2 ^ (eb + fb + 1),
    let f : Nat := code % 2 ^ fb
    let e : Nat := code / 2 ^ fb % 2 ^ eb
    let top : Nat := 2 ^ eb - 1
    let x := F.decode code
    let nan := (special = true ∧ e = top ∧ f ≠ 0) ∨ (eb = 4 ∧ e = 15 ∧ f = 7)
    (x.isNan = true ↔ nan) ∧ (x.isInf = true ↔ special = true ∧ e = top ∧ f = 0) ∧ (x.isNeg = true ↔ 2 ^ (eb + fb) ≤ code) ∧
    (special = true → (x.isSnan = true ↔ nan ∧ f < 2 ^ (fb - 1))) ∧
    (fin x → rat x = (if 2 ^ (eb + fb) ≤ code then -1 else 1) *
      (if e = 0 then (f : Rat) * 2 ^ (1 - (bias : Int) - fb) else (2 ^ fb + f : Rat) * 2 ^ ((e : Int) - bias - fb)))) ∧
  (∀ F eb fb bias special, (F, eb, fb, bias, special) ∈ formats → ∀ (mode : RMode) (sat n : Bool) (m : Nat) (k : Int),
    let x := rat (.fin n m k)
    let r := F.round mode sat (.fin n m k)
    let y := rat (F.decode r.1)
    let largest := rat (F.decode F.maxFinite)
    let away := mode = .rne ∨ (mode = .rdn ∧ n = true) ∨ (mode = .rup ∧ n = false)
    r.2.nv = false ∧ r.2.dz = false ∧ (r.2.uf = true → r.2.nx = true ∧ |x| < 2 ^ (1 - (bias : Int))) ∧
    (r.2.of = false → fin (F.decode r.1) ∧ (F.decode r.1).isNeg = n ∧ (r.2.nx = true ↔ y ≠ x) ∧
      ∀ code < 2 ^ (eb + fb + 1), fin (F.decode code) →
        let z := rat (F.decode code)
        match mode with
        | .rne => |x - y| ≤ |x - z| ∧ (|x - y| = |x - z| → z ≠ y → r.1 % 2 = 0)
        | .rz => |y| ≤ |x| ∧ (|z| ≤ |x| → |z| ≤ |y|)
        | .rdn => y ≤ x ∧ (z ≤ x → z ≤ y)
        | .rup => x ≤ y ∧ (x ≤ z → y ≤ z)) ∧
    (r.2.of = true → largest < |x| ∧ r.2.nx = true ∧ (F.decode r.1).isNeg = n ∧
      if sat = false ∧ special = true ∧ away then (F.decode r.1).isInf = true else |y| = largest)) ∧
  ∀ (mode : RMode) (n n' : Bool) (m m' : Nat) (e e' : Int),
    let x := FVal.fin n m e
    let y := FVal.fin n' m' e'
    rat (FVal.addFin mode x y) = rat x + rat y ∧ rat (FVal.mulFin x y) = rat x * rat y ∧
    (x.lt y = true ↔ rat x < rat y) ∧ (x.eq y = true ↔ rat x = rat y) ∧
    (∀ k : Int, rat (x.scale k) = rat x * (2 : Rat) ^ k)

/-- R61 and R63: FDOT2 and FDOT4 form the exact sum of their products and the addend and round it once; a NaN, an infinity
times zero and infinities of opposite sign give the canonical NaN, with NV but where the addend alone is a quiet NaN; infinities of one
sign give that infinity with no flag. -/
def Obligations.DotProducts : Prop :=
  let result (mode : RMode) (ps : List (FVal × FVal)) (addend : FVal) (r : Word × FlagSet) : Prop :=
    let vals := addend :: (ps.map Prod.fst ++ ps.map Prod.snd)
    (vals.any FVal.isNan = true → r.1 = 0x7FC00000 ∧
      (addend.isSnan = true ∨ (ps.any fun p => p.1.isNan || p.2.isNan) = true → r.2.nv = true)) ∧
    ((∃ p ∈ ps, (p.1.isInf = true ∧ p.2.isZero = true) ∨ (p.1.isZero = true ∧ p.2.isInf = true)) →
      r.1 = 0x7FC00000 ∧ r.2.nv = true) ∧
    (let signs := ((ps.filter (fun p => p.1.isInf || p.2.isInf)).map (fun p => p.1.isNeg != p.2.isNeg)) ++
       (if addend.isInf then [addend.isNeg] else [])
     vals.any FVal.isNan = false → (∀ p ∈ ps, ¬ ((p.1.isInf = true ∧ p.2.isZero = true) ∨ (p.1.isZero = true ∧ p.2.isInf = true))) →
       (true ∈ signs → false ∈ signs → r.1 = 0x7FC00000 ∧ r.2.nv = true) ∧
       (true ∈ signs → false ∉ signs → r = (0xFF800000, {})) ∧ (false ∈ signs → true ∉ signs → r = (0x7F800000, {}))) ∧
    (vals.all (fun v => !v.isNan && !v.isInf) = true →
      let x := Fmt.fp32.round mode false
        ((ps.map (fun p => FVal.mulFin p.1 p.2) ++ [addend]).foldl (FVal.addFin .rne) (.fin false 0 0))
      r = (BitVec.ofNat 32 x.1, x.2))
  let elems (F : Fmt) (n : Nat) (a : Word) : List FVal :=
    (List.range n).map (fun j => F.decode (a.toNat / 2 ^ (F.width * j) % 2 ^ F.width))
  (∃ r : Ctx → Nat → Word × FlagSet, GivesFloat always .fdot2 .fdot2 .l96 6 r ∧ ∀ c i,
    let F := if c.mod / 4 % 4 = 0 then Fmt.fp16 else Fmt.bf16
    result c.mode ((elems F 2 (c.W.opPacked F 2 c.w.a i)).zip (elems F 2 (c.W.opPacked F 2 c.w.b i)))
      (Fmt.fp32.decode (c.W.opF32 c.w.c i).toNat) (r c i)) ∧
  (∃ r : Ctx → Nat → Word × FlagSet, GivesFloat always .fdot4 .fdot4 .l96 6 r ∧ ∀ c i,
    let F := if c.mod / 4 % 4 = 1 then Fmt.e5m2 else Fmt.e4m3
    let G := if c.mod / 4 % 4 = 0 then Fmt.e4m3 else Fmt.e5m2
    result c.mode ((elems F 4 (c.W.opPacked F 4 c.w.a i)).zip (elems G 4 (c.W.opPacked G 4 c.w.b i)))
      (Fmt.fp32.decode (c.W.opF32 c.w.c i).toNat) (r c i))

/-- R208 to R210: QNT, DQNT and MXSCALE: the element conversions under each lane's scale code with their flags, a code of 0xFF, and the
scale code of the active lanes' elements as one block. Under DQNT a NaN element keeps its sign and high fraction bits (DEDUCED, log
entry 69). -/
def Obligations.Quantisation : Prop :=
  let elem (n : Nat) : Elem := [Elem.e4m3, .e5m2, .e2m1, .k4x].getD (n % 8) .k4x
  let half (c : Ctx) : Fmt := if c.w.mod.getLsbD 3 then Fmt.bf16 else Fmt.fp16
  let xs (c : Ctx) (i : Nat) : List FVal := (List.range 4).map (fun j => (half c).decode ((c.a64 i).toNat / 2 ^ (16 * j) % 65536))
  (∃ r : Ctx → Nat → Word × FlagSet, GivesFloat always .qnt .qnt .l96 8 r ∧ ∀ c i,
    let code : Nat := (c.b i).toNat % 256
    let t (j : Nat) : FVal := ((xs c i).getD j FVal.zero).scale (127 - (code : Int))
    let F := (elem c.mod).fmt
    -- a NaN among K4X elements becomes 0 and raises NV
    let into (j : Nat) : FVal := if (t j).isNan then FVal.zero else (t j).plusZero
    let pair (j : Nat) : Byte × FlagSet := k4xEncode (into j) (into (j + 1))
    (code = 255 → r c i = (0, { nv := true })) ∧
    (code ≠ 255 → elem c.mod ≠ .k4x → (r c i).2 = FlagSet.all ((List.range 4).map (fun j => (quantFloat F (t j)).2))) ∧
    (code ≠ 255 → elem c.mod ≠ .k4x → ∀ j < 4,
      (r c i).1.toNat / 2 ^ (F.width * j) % 2 ^ F.width = (quantFloat F (t j)).1) ∧
    (code ≠ 255 → elem c.mod = .e2m1 ∨ elem c.mod = .k4x → (r c i).1.toNat < 65536) ∧
    (code ≠ 255 → elem c.mod = .k4x → (r c i).1.toNat % 256 = (pair 0).1.toNat ∧ (r c i).1.toNat / 256 = (pair 2).1.toNat ∧
      (r c i).2 = ((pair 0).2.or (pair 2).2).or { nv := (xs c i).any FVal.isNan })) ∧
  Computes always .dqnt .dqnt .l96 8 2
    (fun c k i =>
      let code : Nat := (c.b i).toNat % 256
      let y (j : Nat) : Nat := if code = 255 then (half c).canon
        else ((elem c.mod).fmt.convert (half c) (((unqnt (elem c.mod) (c.a i)).getD j FVal.zero).scale ((code : Int) - 127))).1
      BitVec.ofNat 32 (if k = 0 then y 0 + 65536 * y 1 else y 2 + 65536 * y 3))
    (fun c => laneFlags (c.lanes.map (fun i =>
      let code : Nat := (c.b i).toNat % 256
      if code = 255 then {} else FlagSet.all ((unqnt (elem c.mod) (c.a i)).map (fun x =>
        ((elem c.mod).fmt.convert (half c) (x.scale ((code : Int) - 127))).2))))) ∧
  Computes always .mxscale .mxscale .l64 8 1
    (fun c _ _ => BitVec.ofNat 32 (blockScale (elem c.mod) ((c.lanes.map (xs c)).flatten)).1)
    (fun c => if c.lanes = [] then 0 else (blockScale (elem c.mod) ((c.lanes.map (xs c)).flatten)).2.bits)

/-! ### Lanes and control -/

/-- R211 to R213, R216: SHFL within its segments, the votes, matches and lane numbers of the acting lanes, and the
partition and compaction indices; and the MOD values that VOTE, MATCH and FLANE accept. -/
def Obligations.LaneMoves : Prop :=
  let set (c : Ctx) : List Nat := c.lanes.filter (fun i => c.a i ≠ 0)
  let number (l : List Nat) : Word := BitVec.ofNat 32 l.length
  let truth (p : Prop) [Decidable p] : Word := if p then 0xFFFFFFFF else 0
  let same (c : Ctx) (i : Nat) : List Nat := c.lanes.filter (fun j => c.a j = c.a i)
  let rank (l : List Nat) (i : Nat) : Word := number (l.filter (fun j => j < i))
  (let seg (c : Ctx) : Nat := if c.mod / 4 % 8 = 0 then c.W.width else min c.W.width (2 ^ (c.mod / 4 % 8))
   let target (c : Ctx) (i : Nat) : Int :=
     let p := i % seg c
     let b := (c.b i).toNat
     if c.mod % 4 = 0 then b else if c.mod % 4 = 1 then (p : Int) - b else if c.mod % 4 = 2 then p + b else (p ^^^ b : Nat)
   let found (c : Ctx) (i : Nat) : Prop := 0 ≤ target c i ∧ target c i < seg c
   let source (c : Ctx) (i : Nat) : Nat := i - i % seg c + (target c i).toNat
   -- no lane reads poison from another (R340)
   Computes (fun c => ∀ i ∈ c.lanes, found c i → mfind c.W.poison (c.w.a.reg.toNat * 64 + source c i) = none) .shfl .shfl .l96 8 1
     (fun c _ i => if 0 ≤ target c i ∧ target c i < seg c then c.W.reg c.w.a.reg.toNat (source c i) else c.c i) (fun _ => 0)) ∧
  (∃ mask : Ctx → DWord, (∀ c j, j < 64 → (mask c).getLsbD j = decide (j ∈ set c)) ∧
    Computes (fun c => c.mod = 0) .vote .vote .l64 8 2 (fun c j _ => if j = 0 then loHalf (mask c) else hiHalf (mask c)) (fun _ => 0)) ∧
  Computes (fun c => 1 ≤ c.mod ∧ c.mod ≤ 5) .vote .vote .l64 8 1 (fun c _ i =>
    if c.mod = 1 then number (set c)
    else if c.mod = 2 then rank (set c) i
    else if c.mod = 3 then truth (∀ j ∈ c.lanes, c.a j ≠ 0)
    else if c.mod = 4 then truth (∃ j ∈ c.lanes, c.a j ≠ 0)
    else truth (∀ j ∈ c.lanes, ∀ k ∈ c.lanes, c.a j = c.a k)) (fun _ => 0) ∧
  (∃ mask : Ctx → Nat → DWord, (∀ c i j, j < 64 → (mask c i).getLsbD j = decide (j ∈ same c i)) ∧
    Computes (fun c => c.mod = 1) .matchL .matchL .l64 8 2 (fun c j i => if j = 0 then loHalf (mask c i) else hiHalf (mask c i))
      (fun _ => 0)) ∧
  Computes (fun c => c.mod = 0 ∨ c.mod = 2) .matchL .matchL .l64 8 1 (fun c _ i =>
    if c.mod = 0 then BitVec.ofNat 32 ((same c i).headD 0) else rank (same c i) i) (fun _ => 0) ∧
  Gives .flane .flane .l64 8 (fun c _ =>
    match (if c.mod = 0 then (set c).head? else (set c).getLast?) with
    | some j => BitVec.ofNat 32 j
    | none => 0xFFFFFFFF) ∧
  Gives .rebal .rebal .l96 8 (fun c i =>
    if c.a i ≠ 0 then c.b c.lead + rank (set c) i
    else c.b c.lead + number (set c) + rank (c.lanes.filter (fun j => c.a j = 0)) i) ∧
  Gives .compact .compact .l96 8 (fun c i =>
    let src := c.lanes.filter (fun j => c.b j ≠ 0)
    let r := (c.lanes.filter (fun j => j < i)).length
    if r < src.length then c.a (src.getD r 0) else 0) ∧
  ∀ m : BitVec 6,
    Op.modOk .vote m = decide (m.toNat ≤ 5) ∧ Op.modOk .matchL m = decide (m.toNat ≤ 2) ∧ Op.modOk .flane m = decide (m.toNat ≤ 1)

/-- R215: CMPX keeps the smaller or the larger of a lane's value and its partner's, under a signed, an unsigned or the
total order of FP32; MOD[2] reverses the direction. Under the last a short immediate is a float (DEDUCED, log entry 30).

R64, R214: the tree of WRED and of WSCAN. Where the operation is associative and commutative the tree gives what its
name says: WRED.iadd writes the sum of the acting lanes' values to every acting lane, WRED.and and WRED.or their
conjunction and disjunction, and lane i of WSCAN.iadd holds the sum of the acting lanes up to i, or below i under `.excl`;
no flag is raised. Under every operation the result and the flags are those of the fixed tree, level by level, with the lower lane
on the left and the identity in every lane that does not act. -/
def Obligations.LaneTrees : Prop :=
  (∃ v : Ctx → Nat → Word,
     -- no lane reads poison from its partner (R340)
     Computes (fun c => ∀ i ∈ c.lanes, mfind c.W.poison (c.w.a.reg.toNat * 64 + (i ^^^ ((c.b i).toNat % c.W.width))) = none) .cmpx .cmpx .l96 8 1
       (fun c _ i => v c i) (fun _ => 0) ∧ ∀ c i,
     let p := i ^^^ ((c.b i).toNat % c.W.width)
     let x (j : Nat) : Word := if c.mod % 4 = 2 then c.W.opF32 c.w.a j else c.a j
     let neg (a : Word) : Bool := a.getLsbD 31
     let less (a b : Word) : Bool :=
       if c.mod % 4 = 0 then a.slt b
       else if c.mod % 4 = 1 then a.ult b
       else if neg a != neg b then neg a
       else if neg a then b.ult a else a.ult b
     let lower : Bool := decide (i < p) != c.w.mod.getLsbD 2
     (p = i → v c i = x i) ∧
     (c.mod < 8 → p ≠ i → less (x p) (x i) = true → v c i = if lower then x p else x i) ∧
     (c.mod < 8 → p ≠ i → less (x i) (x p) = true → v c i = if lower then x i else x p) ∧
     (c.mod < 8 → p ≠ i → x i = x p → v c i = x i)) ∧
  (let warp (c : Ctx) : Prop := c.W.width ∈ [8, 16, 32, 64]
   Computes (fun c => warp c ∧ c.mod = 3) .wred .wred .l64 8 1 (fun c _ _ => (c.lanes.map c.a).sum) (fun _ => 0) ∧
   Computes (fun c => warp c ∧ c.mod = 6) .wred .wred .l64 8 1 (fun c _ _ => (c.lanes.map c.a).foldr (· &&& ·) 0xFFFFFFFF) (fun _ => 0) ∧
   Computes (fun c => warp c ∧ c.mod = 7) .wred .wred .l64 8 1 (fun c _ _ => (c.lanes.map c.a).foldr (· ||| ·) 0) (fun _ => 0) ∧
   Computes (fun c => warp c ∧ (c.mod = 3 ∨ c.mod = 11)) .wscan .wscan .l64 8 1 (fun c _ i =>
     ((c.lanes.filter (fun j => if c.mod = 3 then j ≤ i else j < i)).map c.a).sum) (fun _ => 0) ∧
   let word (r : Nat × FlagSet) : Word × FlagSet := (BitVec.ofNat 32 r.1, r.2)
   let op (m : Nat) (x y : Word) : Word × FlagSet :=
     if m = 0 then word (Fmt.fp32.finish .rne (FVal.add .rne (Fmt.fp32.decode x.toNat) (Fmt.fp32.decode y.toNat)))
     else if m = 1 then word (Fmt.fp32.minmax false x.toNat y.toNat)
     else if m = 2 then word (Fmt.fp32.minmax true x.toNat y.toNat)
     else if m = 3 then (x + y, {})
     else if m = 4 then (BitVec.ofInt 32 (min x.toInt y.toInt), {})
     else if m = 5 then (BitVec.ofInt 32 (max x.toInt y.toInt), {})
     else if m = 6 then (x &&& y, {})
     else (x ||| y, {})
   let unit (m : Nat) : Word := [0x80000000, 0x7F800000, 0xFF800000, 0, 0x7FFFFFFF, 0x80000000, 0xFFFFFFFF].getD m 0
   let leaf (c : Ctx) (m i : Nat) : Word := if i ∈ c.lanes then (if m ≤ 2 then c.W.opF32 c.w.a i else c.a i) else unit m
   -- one level of a tree over lanes 0 to W − 1: the lanes `at` combine with another one, `left` tells the operands' order
   let level (W : Nat) (here : Nat → Bool) (join : (Nat → Word) → Nat → Word × FlagSet) (x : (Nat → Word) × FlagSet) : (Nat → Word) × FlagSet :=
     (fun i => if here i then (join x.1 i).1 else x.1 i, x.2.or (FlagSet.all (((List.range W).filter here).map (fun i => (join x.1 i).2))))
   let levels (W : Nat) : List Nat := [1, 2, 4, 8, 16, 32].filter (· < W)
   let down (c : Ctx) (m : Nat) : (Nat → Word) × FlagSet := (levels c.W.width).foldl
     (fun x d => level c.W.width (fun i => i % (2 * d) == 0) (fun v i => op m (v i) (v (i + d))) x) (leaf c m, {})
   let scan (c : Ctx) (m : Nat) : (Nat → Word) × FlagSet := (levels c.W.width).foldl
     (fun x d => level c.W.width (fun i => decide (d ≤ i)) (fun v i => op m (v (i - d)) (v i)) x) (leaf c m, {})
   ∀ m < 8,
     Computes (fun c => warp c ∧ c.mod = m) .wred .wred .l64 8 1 (fun c _ _ => (down c m).1 0) (fun c => if c.lanes = [] then 0 else (down c m).2.bits) ∧
     Computes (fun c => warp c ∧ c.mod = m) .wscan .wscan .l64 8 1 (fun c _ i => (scan c m).1 i)
       (fun c => if c.lanes = [] then 0 else (scan c m).2.bits) ∧
     Computes (fun c => warp c ∧ c.mod = m + 8) .wscan .wscan .l64 8 1 (fun c _ i => if i = 0 then unit m else (scan c m).1 (i - 1))
       (fun c => if c.lanes = [] then 0 else (scan c m).2.bits))

/-- R23, R217, R226: BRA, BRX, RET and CALL. Each slice whose guard holds in its lowest active lane goes to the target, that
lane's for BRX and RET; every other slice of the gang goes on; CALL, and FCALL where it does not fork, writes the address
past it to every active lane of the slices that take it. No counter and nothing outside the warp changes. -/
def Obligations.Branches : Prop :=
  let imm (c : Ctx) (_ : Nat) : DWord := c.pc + c.w.imm.signExtend 64
  let reg (c : Ctx) (l : Nat) : DWord := c.a64 l &&& 0xFFFFFFFFFFFF
  let aligned (target : Ctx → Nat → DWord) (c : Ctx) : Prop := ∀ i l, c.Takes i l → (target c l).extractLsb' 0 2 = 0
  let goes (target : Ctx → Nat → DWord) (c : Ctx) (i : Nat) : DWord :=
    match c.sliceLead i with
    | some l => if c.W.guardHolds c.w l then target c l else c.next
    | none => c.next
  let called (c : Ctx) (t : State) : Prop :=
    c.Went t (goes imm c) (fun W => { W with pend := (t.warp c.k).pend }) ∧
    (∀ i < 64, (∃ l, c.Takes (i / 4) l) → i < c.W.width → c.W.active i = true →
      ((t.warp c.k).landDue (c.W.clk + 4)).reg c.w.d.toNat i = loHalf (c.pc + 16) ∧
      ((t.warp c.k).landDue (c.W.clk + 4)).reg (c.w.d.toNat + 1) i = hiHalf (c.pc + 16)) ∧
    (∀ q p, p < 64 → (q ≠ c.w.d.toNat ∧ q ≠ c.w.d.toNat + 1) ∨ (¬ ∃ l, c.Takes (p / 4) l) ∨ c.W.active p = false →
      (t.warp c.k).settled q p = c.W.settled q p)
  Runs (aligned imm) .bra .bra .l128 (fun c t => c.Went t (goes imm c) id) ∧
  Runs (aligned reg) .brx .brx .l64 (fun c t => c.Went t (goes reg c) id) ∧
  Runs (fun c => aligned reg c ∧ c.W.twinOf = none) .ret .ret .l64 (fun c t => c.Went t (goes reg c) id) ∧
  Runs (fun c => c.W.width ≤ 64 ∧ aligned imm c) .call .call .l128 called ∧
  Runs (fun c => c.W.width ≤ 64 ∧ aligned imm c ∧ c.s.canFork c.W = false ∧ c.lanes.filter c.W.txLive = []) .fcall .fcall .l128 called

/-- R19 to R21, R218: the counters that structured control leaves in the lanes of the gang, and where the gang goes on: at
the offset of IF and ELSE where no lane of it is active then, and of ENDLOOP where a lane goes back. The lanes of other
slices keep their counters. BREAK and CONT at a depth above 0 go on at the next instruction (log entry 10). -/
def Obligations.StructuredControl : Prop :=
  let offset (c : Ctx) : DWord := c.pc + c.w.imm.signExtend 64
  let leaves (c : Ctx) (t : State) (new : Nat → Nat → Nat) (pc : DWord) : Prop :=
    c.Went t (fun _ => pc) (fun W => { W with cnt := (t.warp c.k).cnt }) ∧
    (∀ i ∈ c.gangLanes, (t.warp c.k).count i = new i (c.W.count i)) ∧
    ∀ i, i ∉ c.gangLanes → (t.warp c.k).count i = c.W.count i
  let forward (new : Ctx → Nat → Nat → Nat) (c : Ctx) (t : State) : Prop :=
    leaves c t (new c) (if (∃ i ∈ c.gangLanes, new c i (c.W.count i) = 0) ∨ c.w.ext.extractLsb' 0 4 ≠ 0 then c.next else offset c)
  let if_ (c : Ctx) (i n : Nat) : Nat := if n = 0 then (if c.a i = 0 then 1 else 0) else n + 1
  let else_ (_ : Ctx) (_ n : Nat) : Nat := if n = 0 then 1 else if n = 1 then 0 else n
  let loop (_ n : Nat) : Nat := if n = 0 then 0 else n + 2
  let leave (extra : Nat) (c : Ctx) (i n : Nat) : Nat :=
    if n = 0 ∧ c.a i ≠ 0 then (c.w.ext.extractLsb' 0 4).toNat + extra else n
  Runs (fun c => ∀ i ∈ c.gangLanes, if_ c i (c.W.count i) ≤ 15) .if_ .if_ .l128 (forward if_) ∧
  Runs always .else_ .else_ .l128 (forward else_) ∧
  Runs always .endif .endif .l64 (fun c t => leaves c t (fun _ n => n - 1) c.next) ∧
  Runs (fun c => ∀ i ∈ c.gangLanes, loop i (c.W.count i) ≤ 15) .loop .loop .l64 (fun c t => leaves c t loop c.next) ∧
  Runs (fun c => c.w.ext.extractLsb' 0 4 ≤ 13 ∧ ∀ i ∈ c.gangLanes, c.W.count i ≤ 15) .break_ .break_ .l128 (forward (leave 2)) ∧
  Runs (fun c => c.w.ext.extractLsb' 0 4 ≤ 13 ∧ ∀ i ∈ c.gangLanes, c.W.count i ≤ 15) .cont_ .cont_ .l128 (forward (leave 1)) ∧
  Runs always .endloop .endloop .l128 (fun c t =>
    ((∃ i ∈ c.gangLanes, c.W.count i ≤ 1) → leaves c t (fun _ n => if n = 1 then 0 else n) (offset c)) ∧
    ((∀ i ∈ c.gangLanes, 1 < c.W.count i) → leaves c t (fun _ n => n - 2) c.next))

/-- R24, R29, R225, R227: NOP of any length, YIELD, IVL, FSYNC with no FCALL open, and a REGANG whose wait is over go on to
the next instruction; YIELD sets AGE to 0, IVL names the working set, and nothing else changes. A REGANG that issues first
is an arrival: the slices wait for the named slices and themselves, and the watchdog starts again.

R225: EXIT ends every slice whose guard holds in its lowest active lane; when that leaves no slice, the warp ends.
Neither memory nor any operation the warp has issued is touched. -/
def Obligations.HintsAndExits : Prop :=
  ((∀ len, Runs always (.nop len) .nop len (fun c t => c.Went t (fun _ => c.next) id)) ∧
   Runs always .yield .yield .l64 (fun c t => c.Went t (fun _ => c.next) (fun W => { W with age := 0, yielded := true })) ∧
   Runs always .ivl .ivl .l128 (fun c t =>
     let byte (b : BitVec 16) (j : Nat) : Nat := (b.extractLsb' (8 * j) 7).toNat
     let all := [((c.w.imm.extractLsb' 0 8).toNat, byte c.w.a.bits 0), ((c.w.imm.extractLsb' 8 8).toNat, byte c.w.a.bits 1),
       ((c.w.imm.extractLsb' 16 8).toNat, byte c.w.b.bits 0), ((c.w.imm.extractLsb' 24 8).toNat, byte c.w.b.bits 1)]
     let set := all.filter (fun r => r.2 ≠ 0)
     c.Went t (fun _ => c.next) (fun W => { W with working := set, fast := set.isEmpty })) ∧
   Runs (fun c => c.fork? = none ∧ c.lanes.filter c.W.txLive = []) .fsync .fsync .l64 (fun c t => c.Went t (fun _ => c.next) id) ∧
   Runs (fun c => c.fork? = none ∧ ∃ a m, c.wake = some (.regang a m)) .regang .regang .l64
     (fun c t => c.Went t (fun _ => c.next) id) ∧
   Runs (fun c => c.fork? = none ∧ c.wake = none ∧ c.lanes ≠ []) .regang .regang .l64 (fun c t =>
     c.OnlyWarp t ∧ mfind t.warps c.k =
       some { c.stopped c.W (.regang c.pc ((c.a c.lead).extractLsb' 0 16 ||| c.m)) with watchdog := 0 })) ∧
  (Runs (fun c => c.fork? = none ∧ c.W.twinOf = none ∧ c.W.tx = none ∧ c.W.held = [] ∧
       ∀ i < 16, i < c.W.slices.length → (c.W.slice i).exited = true ∨ ∃ l, c.Takes i l) .exit_ .exit_ .l64
     (fun c t => (t.warp c.k).ended = true ∧ (∀ x ∈ (t.warp c.k).slices, x.exited = true) ∧
       ((mfind c.s.launches c.W.launch).bind (·.stream) = none → t.mem = c.s.mem ∧ t.l2 = c.s.l2) ∧
       t.flights = c.s.flights ∧ t.engines = c.s.engines) ∧
   Runs (fun c => c.fork? = none ∧ c.W.twinOf = none ∧ c.W.tx = none ∧ (∀ i l, ¬ c.Takes i l) ∧
       ∃ i ∈ maskSlices c.m, i < c.W.slices.length ∧ (c.W.slice i).exited = false) .exit_ .exit_ .l64
     (fun c t => c.Went t (fun _ => c.next) id))

/-- R226: where the core has room for the twin, FCALL forks: the twin, a warp with the lowest free number, starts at the
callee with the caller's settled registers, for which the FCALL waits (DEDUCED, log entry 18), and the link; the caller goes on at
the link with the values that the core's predictor holds for the FCALL's address in its return registers. -/
def Obligations.ForkableCall : Prop :=
  Runs (fun c => c.w.ge = false ∧ c.s.canFork c.W = true ∧ c.s.pendingRegs c.k = [] ∧ c.s.nextId ≠ c.k ∧ c.W.width ≤ 64 ∧
      c.lanes.filter c.W.txLive = [] ∧ (c.pc + c.w.imm.signExtend 64).extractLsb' 0 2 = 0 ∧ ∃ i l, c.Takes i l)
    .fcall .fcall .l128 (fun c t =>
      let link := c.pc + 16
      let d := c.w.d.toNat
      let first := (c.w.a.bits.extractLsb' 0 8).toNat
      let n := (c.w.a.bits.extractLsb' 8 2).toNat + 1
      let guess := (mfind (c.s.core c.W.core).pred ((c.pc.extractLsb' 2 10).toNat)).getD [0, 0, 0, 0]
      (∃ T, mfind t.warps c.s.nextId = some T ∧ T.twinOf = some c.k ∧ T.twinLink = link ∧ T.cnt = c.W.cnt ∧
        (∀ i < c.W.slices.length, (c.W.slice i).exited = false → (∃ l, c.Takes i l) →
          (T.slice i).pc = c.pc + c.w.imm.signExtend 64 ∧ (T.slice i).exited = false) ∧
        (∀ i < c.W.slices.length, (¬ ∃ l, c.Takes i l) → (T.slice i).exited = true) ∧
        (∀ i < c.W.width, c.W.active i = true → (∃ l, c.Takes (i / 4) l) →
          T.reg d i = loHalf link ∧ T.reg (d + 1) i = hiHalf link) ∧
        (∀ q p, p < 64 → q ≠ d → q ≠ d + 1 → T.reg q p = c.W.settled q p)) ∧
      (∀ i ∈ maskSlices c.m, i < c.W.slices.length → (t.warp c.k).slice i = { (c.onward c.W).slice i with pc := link }) ∧
      (∀ i < c.W.width, c.W.active i = true → (∃ l, c.Takes (i / 4) l) →
        ((t.warp c.k).landDue (c.W.clk + 4)).reg d i = loHalf link ∧
        ((t.warp c.k).landDue (c.W.clk + 4)).reg (d + 1) i = hiHalf link ∧
        ∀ j < n, first + j ≠ d → first + j ≠ d + 1 →
          ((t.warp c.k).landDue (c.W.clk + 4)).reg (first + j) i = guess.getD j 0) ∧
      t.nextId = c.s.nextId + 1 ∧ t.mem = c.s.mem)

/-- R188, R217: where every slice of the gang takes a branch whose target is not a multiple of 4, the branch has no effect
and each slice raises the misaligned-target fault for its lowest active lane, with the target.

R21: where in every slice of the gang some lane's counter would pass 15, IF and LOOP raise the nesting fault in each
slice for its lowest such lane, with that lane's counter, and no counter changes.

R220, R322: a barrier number above 15, a count of 0 or above the block's warps, a count that differs from the phase's,
and the two kinds of barrier in one phase raise the barrier fault with reasons 1 to 4, before any arrival. -/
def Obligations.ControlFaults : Prop :=
  (let imm (c : Ctx) (_ : Nat) : DWord := c.pc + c.w.imm.signExtend 64
   let reg (c : Ctx) (l : Nat) : DWord := c.a64 l &&& 0xFFFFFFFFFFFF
   let bad (target : Ctx → Nat → DWord) (c : Ctx) : Prop :=
     ∀ i ∈ maskSlices c.m, ∃ l, c.Takes i l ∧ (target c l).extractLsb' 0 2 ≠ 0
   let rs (target : Ctx → Nat → DWord) (c : Ctx) : List TrapRec :=
     (maskSlices c.m).map (fun i => { c.flt ((c.sliceLead i).getD 0) 6 with taddr := target c ((c.sliceLead i).getD 0) })
   Faults (bad imm) .bra .bra .l128 (rs imm) ∧
   Faults (bad reg) .brx .brx .l64 (rs reg) ∧
   Faults (bad imm) .call .call .l128 (rs imm)) ∧
  (let first (c : Ctx) (new : Nat → Nat → Nat) (j : Nat) : Option Nat :=
     c.gangLanes.find? (fun i => i / 4 == j && decide (15 < new i (c.W.count i)))
   let bad (new : Ctx → Nat → Nat → Nat) (c : Ctx) : Prop := ∀ j ∈ maskSlices c.m, (first c (new c) j).isSome = true
   let rs (new : Ctx → Nat → Nat → Nat) (c : Ctx) : List TrapRec := (maskSlices c.m).map (fun j =>
     let i := (first c (new c) j).getD 0
     { c.flt i 2 with info0 := BitVec.ofNat 32 (c.W.count i) })
   let if_ (c : Ctx) (i n : Nat) : Nat := if n = 0 then (if c.a i = 0 then 1 else 0) else n + 1
   let loop (_ : Ctx) (_ n : Nat) : Nat := if n = 0 then 0 else n + 2
   Faults (bad if_) .if_ .if_ .l128 (rs if_) ∧ Faults (bad loop) .loop .loop .l64 (rs loop)) ∧
  (let n (c : Ctx) : Nat := (c.a c.lead).toNat
   let count (c : Ctx) : Nat := (c.b c.lead).toNat
   let warps (c : Ctx) : Nat := ((c.s.block? c.W.block).map (·.nwarps)).getD 0
   let x (c : Ctx) : Barrier := c.s.barNow c.W.block (n c)
   let here (c : Ctx) : Prop := c.fork? = none ∧ c.lanes ≠ [] ∧ c.lanes.filter c.W.txLive = [] ∧ c.wake = none
   let rs (reason : Nat) (c : Ctx) : List TrapRec := [{ c.recLead 0x18 with info0 := BitVec.ofNat 32 reason, info1 := c.a c.lead }]
   let sound (c : Ctx) : Prop := here c ∧ n c ≤ 15 ∧ 1 ≤ count c ∧ count c ≤ warps c
   Faults (fun c => here c ∧ 15 < n c) .bar .bar .l64 (rs 1) ∧
   Faults (fun c => here c ∧ 15 < n c) .bara .bara .l64 (rs 1) ∧
   Faults (fun c => here c ∧ n c ≤ 15 ∧ (count c = 0 ∨ warps c < count c)) .bara .bara .l64 (rs 2) ∧
   Faults (fun c => here c ∧ n c ≤ 15 ∧ (count c = 0 ∨ warps c < count c)) .barw .barw .l64 (rs 2) ∧
   Faults (fun c => sound c ∧ (x c).used = true ∧ (x c).expect ≠ 0 ∧ (x c).expect ≠ count c) .bara .bara .l64 (rs 3) ∧
   Faults (fun c => sound c ∧ (x c).used = true ∧ (x c).expect = 0) .barw .barw .l64 (rs 4) ∧
   Faults (fun c => here c ∧ n c ≤ 15 ∧ (x c).used = true ∧ (x c).expect ≠ 0) .bar .bar .l64 (rs 4))

/-! ### Memory and ordering -/

/-- R230, R231, R234 to R237, R239: what a load sends on its way at D0: one read for each acting lane, of the size of MOD,
at the lane's address, kept as its cache hint says; its registers wait for it and are as they were until it lands, and memory is as
it was. PREF reads the four sectors of each lane's line. That LDS takes its bytes from the scratchpad at once is the model's choice
(DESIGN CHOICE, log entry 50). -/
def Obligations.Loads : Prop :=
  let bytes (c : Ctx) : Nat := [1, 2, 4, 8, 16, 1, 2].getD (c.mod % 8) 16
  let regs (c : Ctx) : List Nat :=
    (List.range (if c.mod % 8 = 3 then 2 else if c.mod % 8 = 4 then 4 else 1)).map (fun j => c.w.d.toNat + j)
  let addr (c : Ctx) (i : Nat) : DWord := c.a64 i + (c.b i).signExtend 64
  let arg (c : Ctx) (i : Nat) : DWord := c.W.args + BitVec.ofNat 64 (c.a i + c.b i).toNat
  let place (c : Ctx) (i : Nat) : Nat × Bool :=
    let k := (c.b i).toNat
    let p := 16 * (k % 128 % 8) + k % 128 / 8
    if c.mod = 0 then (64 * (k / 128) + p / 2, p % 2 == 1) else (k / 2, k % 2 == 1)
  let elem (c : Ctx) (i : Nat) : DWord := c.a64 i + BitVec.ofNat 64 (place c i).1
  let spad (c : Ctx) (i : Nat) : Nat := (c.a i + c.b i).toNat
  let ready (c : Ctx) : Prop := c.Plain ∧ c.lanes ≠ [] ∧ c.W.counter 0 < 255
  Runs (fun c => ready c ∧ c.Reach (addr c) (bytes c) false) .ld .ld .l96 (fun c t => c.Sends t
    { warp := c.k, cls := 0, dst := c.w.d.toNat, land := .ext (c.mod % 8), regs := regs c
      accs := c.lanes.map (c.access (bytes c) (if c.mod / 8 = 1 then 1 else if c.mod / 8 = 2 then 4 else 0) (addr c) (fun _ => .read)) }) ∧
  Runs (fun c => ready c ∧ c.Reach (arg c) (bytes c) false ∧ ∀ i ∈ c.lanes, spad c i + bytes c ≤ 65536) .ldc .ldc .l96
    (fun c t => c.Sends t
      { warp := c.k, cls := 0, dst := c.w.d.toNat, land := .ext (c.mod % 8), regs := regs c
        accs := c.lanes.map (c.access (bytes c) 0 (arg c) (fun _ => .read)) }) ∧
  Runs (fun c => ready c ∧ c.Reach (elem c) 1 false ∧ (c.mod = 0 → ∀ i ∈ c.lanes, (c.a64 i).toNat % 64 = 0)) .lde .lde .l96
    (fun c t => c.Sends t
      { warp := c.k, cls := 0, dst := c.w.d.toNat, land := .elem c.mod, regs := [c.w.d.toNat]
        elemHi := c.lanes.map (fun i => (i, (place c i).2))
        accs := c.lanes.map (c.access 1 0 (elem c) (fun _ => .read)) }) ∧
  Runs (fun c => ready c ∧ ∀ i ∈ c.lanes, spad c i % bytes c = 0 ∧ spad c i + bytes c ≤ c.s.spadSize c.W.block ∧
      c.s.spadBad c.W.block (spad c i) (bytes c) = false) .lds .lds .l96 (fun c t =>
    ∃ vals, c.Sends t (c.result 0 vals (regs c)) ∧ ∀ r i v, (r, i, v) ∈ vals ↔ i ∈ c.lanes ∧ ∃ j, r = c.w.d.toNat + j ∧
      (extendVal (c.mod % 8) (c.s.spadRead c.W.block (spad c i) (bytes c)))[j]? = some v) ∧
  Runs (fun c => ready c ∧ c.mod ≤ 1 ∧ c.Reach c.a64 1 false) .pref .pref .l64 (fun c t => c.Sends t
    { warp := c.k, cls := 0
      accs := c.lanes.flatMap (fun i => (List.range 4).map (fun j =>
        { c.access 32 (if c.mod = 0 then 0 else 3) c.a64 (fun _ => .read) i with
          pa := (c.tr (c.a64 i)).phys (c.a64 i).toNat / 128 * 128 + 32 * j })) })

/-- R230, R234, R238, R240 to R243: what a store, an element store, a DISCARD, an AMO and a RED send on their way at D0: one
operation for each acting lane at its address. Memory and every register are as they were; AMO's registers wait for it. Under
`.fadd`, `.fmin` and `.fmax` a short immediate is a float (DEDUCED, log entry 30). -/
def Obligations.Stores : Prop :=
  let bytes (c : Ctx) : Nat := [1, 2, 4, 8, 16].getD (c.mod % 8) 16
  let addr (c : Ctx) (i : Nat) : DWord := c.a64 i + (c.b i).signExtend 64
  let place (c : Ctx) (i : Nat) : Nat × Bool :=
    let k := (c.b i).toNat
    let p := 16 * (k % 128 % 8) + k % 128 / 8
    if c.mod = 0 then (64 * (k / 128) + p / 2, p % 2 == 1) else (k / 2, k % 2 == 1)
  let elem (c : Ctx) (i : Nat) : DWord := c.a64 i + BitVec.ofNat 64 (place c i).1
  let line (c : Ctx) (i : Nat) : DWord := c.a64 i &&& ~~~(127 : DWord)
  let wide (c : Ctx) : Bool := c.w.mod.getLsbD 4
  let word (c : Ctx) : Nat := if wide c then 8 else 4
  let kind (c : Ctx) : Nat := c.mod % 16
  let value (c : Ctx) (i : Nat) : DWord :=
    if kind c = 10 ∨ kind c = 11 ∨ kind c = 12 then (c.W.opF32 c.w.b i).setWidth 64
    else if wide c then c.b64 i else (c.b i).setWidth 64
  let compare (c : Ctx) (i : Nat) : DWord := if kind c = 9 then (if wide c then c.c64 i else (c.c i).setWidth 64) else 0
  let rmw (c : Ctx) (i : Nat) : AccOp := .rmw (kind c) (wide c) (value c i) (compare c i)
  let ready (c : Ctx) : Prop := c.Plain ∧ c.lanes ≠ [] ∧ c.W.counter 1 < 255
  Runs (fun c => ready c ∧ c.mod ≤ 4 ∧ c.Reach (addr c) (bytes c) true) .st .st .l96 (fun c t =>
    ∃ data : Nat → List Byte, c.Sends t
      { warp := c.k, cls := 1, accs := c.lanes.map (c.access (bytes c) 0 (addr c) (fun i => .write (data i))) } ∧
    ∀ i, (data i).length = bytes c ∧ ∀ k < bytes c, (data i)[k]? = some ((c.W.reg (c.w.d.toNat + k / 4) i).extractLsb' (8 * (k % 4)) 8)) ∧
  Runs (fun c => ready c ∧ c.Reach (elem c) 1 true ∧ (c.mod = 0 → ∀ i ∈ c.lanes, (c.a64 i).toNat % 64 = 0)) .ste .ste .l96
    (fun c t => c.Sends t { warp := c.k, cls := 1
                            accs := c.lanes.map (c.access 1 0 (elem c) (fun i => .ste c.mod (place c i).2 (c.d i))) }) ∧
  Runs (fun c => ready c ∧ c.Reach (line c) 1 true ∧ c.Reach c.a64 1 true) .discard .discard .l64 (fun c t =>
    ∃ accs : List Access, c.Sends t { warp := c.k, cls := 1, accs := accs } ∧ (accs.map (·.pa)).Nodup ∧
      (∀ a ∈ accs, ∃ i ∈ c.lanes, a = c.access 128 0 (line c) (fun _ => .discard) i) ∧
      ∀ i ∈ c.lanes, ∃ a ∈ accs, a.pa = (c.tr (line c i)).phys (line c i).toNat) ∧
  Runs (fun c => c.Plain ∧ c.lanes ≠ [] ∧ c.Reach c.a64 (word c) true ∧ c.NoView c.a64) .amo .amo .l96 (fun c t =>
    let d := c.w.d.toNat
    let rs := if wide c then [d, d + 1] else [d]
    c.Sends t { warp := c.k, cls := 7, dst := d, land := .words rs.length, regs := rs
                accs := c.lanes.map (c.access (word c) 0 c.a64 (rmw c)) }) ∧
  Runs (fun c => ready c ∧ c.Reach c.a64 (word c) true ∧ c.NoView c.a64) .red .red .l96 (fun c t =>
    c.Sends t { warp := c.k, cls := 1, accs := c.lanes.map (c.access (word c) 0 c.a64 (rmw c)) })

/-- R67, R234, R241 to R243: STS and AMOS on the block's scratchpad: the bytes of the acting lanes' stores are
there, the highest lane's where several name one byte, and every other byte is as it was; the lanes of an AMOS act in ascending
order, each bringing the word it finds and leaving the new one, and the flags of the float kinds are raised. That both act at issue is
the model's choice (DESIGN CHOICE, log entry 50), as is a short immediate taken as a float by the float kinds (DEDUCED, log entry
30). -/
def Obligations.Scratchpad : Prop :=
  let bytes (c : Ctx) : Nat := [1, 2, 4, 8, 16].getD (c.mod % 8) 16
  let addr (c : Ctx) (i : Nat) : Nat := (c.a i + c.b i).toNat
  let wide (c : Ctx) : Bool := c.w.mod.getLsbD 4
  let word (c : Ctx) : Nat := if wide c then 8 else 4
  let fits (c : Ctx) (a : Ctx → Nat → Nat) (n : Nat) : Prop :=
    ∀ i ∈ c.lanes, a c i % n = 0 ∧ a c i + n ≤ c.s.spadSize c.W.block
  Runs (fun c => c.Plain ∧ c.lanes ≠ [] ∧ c.W.counter 1 < 255 ∧ c.mod ≤ 4 ∧ (c.s.warp c.k).killed = false ∧ fits c addr (bytes c))
    .sts .sts .l96 (fun c t => c.Sends t { warp := c.k, cls := 1, accs := [] } butBlocks ∧
      (∀ b, b ≠ c.W.block → mfind t.blocks b = mfind c.s.blocks b) ∧
      ∀ x, (t.spadRead c.W.block x 1) =
        match c.lanes.reverse.find? (fun i => decide (addr c i ≤ x ∧ x < addr c i + bytes c)) with
        | some i => [(c.W.reg (c.w.d.toNat + (x - addr c i) / 4) i).extractLsb' (8 * ((x - addr c i) % 4)) 8]
        | none => c.s.spadRead c.W.block x 1) ∧
  Runs (fun c => c.Plain ∧ c.lanes ≠ [] ∧ fits c (fun c i => (c.a i).toNat) (word c) ∧
      ∀ i ∈ c.lanes, c.s.spadBad c.W.block (c.a i).toNat (word c) = false) .amos .amos .l96 (fun c t =>
    let kind := c.mod % 16
    let a (i : Nat) : Nat := (c.a i).toNat
    let d := c.w.d.toNat
    let value (i : Nat) : DWord := if 10 ≤ kind ∧ kind ≤ 12 then (c.W.opF32 c.w.b i).setWidth 64
      else if wide c then c.b64 i else (c.b i).setWidth 64
    let compare (i : Nat) : DWord := if kind = 9 then (if wide c then c.c64 i else (c.c i).setWidth 64) else 0
    -- the scratchpad as a lane finds it, the word it reads there, and the scratchpad as it leaves it
    let found (m : Nat → Byte) (i : Nat) : DWord := BitVec.ofNat 64 (leNat ((List.range (word c)).map (fun j => m (a i + j))))
    let new (m : Nat → Byte) (i : Nat) : DWord × FlagSet := amoNew kind (wide c) (found m i) (value i) (compare i)
    let act (m : Nat → Byte) (i : Nat) : Nat → Byte := fun x =>
      if a i ≤ x ∧ x < a i + word c then (leBytes (word c) (new m i).1.toNat).getD (x - a i) 0 else m x
    let before (i : Nat) : Nat → Byte := (c.lanes.takeWhile (· ≠ i)).foldl act (fun x => (c.s.spadRead c.W.block x 1).headD 0)
    (∃ vals, (∀ r i v, (r, i, v) ∈ vals ↔ i ∈ c.lanes ∧
        ((r = d ∧ v = loHalf (found (before i) i)) ∨ (wide c = true ∧ r = d + 1 ∧ v = hiHalf (found (before i) i)))) ∧
      mfind t.flights c.s.nextId = some { c.result 7 vals (if wide c then [d, d + 1] else [d]) with reads := true }) ∧
    butBlocks t = butBlocks { c.s with warps := t.warps, flights := t.flights, nextId := c.s.nextId + 1 } ∧
    (∀ n, n ≠ c.s.nextId → mfind t.flights n = mfind c.s.flights n) ∧ (∀ j, j ≠ c.k → mfind t.warps j = mfind c.s.warps j) ∧
    mfind t.warps c.k = some ((c.onward c.W).raise (laneFlags (c.lanes.map (fun i => (new (before i) i).2)))) ∧
    (∀ b, b ≠ c.W.block → mfind t.blocks b = mfind c.s.blocks b) ∧
    ∀ x, t.spadRead c.W.block x 1 = [c.lanes.foldl act (fun x => (c.s.spadRead c.W.block x 1).headD 0) x])

/-- R231: how the bytes of a load fill its registers, by size code: little-endian, zero-extended, or sign-extended for codes
5 and 6.

R241 Table 4: the new word of every atomic operation, on 32 and on 64 bits, with the flags of the float ones.

R141 Table 2: what each rule does to its feature's value v: WATCH rules report a value above their threshold, CLAMP rules
bound it, ADD adds in FP32, SET replaces; every other feature keeps its value. -/
def Obligations.ValueTables : Prop :=
  (∀ b0 b1 b2 b3 b4 b5 b6 b7 b8 b9 b10 b11 b12 b13 b14 b15 : Byte,
     extendVal 0 [b0] = [b0.setWidth 32] ∧
     extendVal 1 [b0, b1] = [(b1 ++ b0).setWidth 32] ∧
     extendVal 2 [b0, b1, b2, b3] = [b3 ++ b2 ++ b1 ++ b0] ∧
     extendVal 3 [b0, b1, b2, b3, b4, b5, b6, b7] = [b3 ++ b2 ++ b1 ++ b0, b7 ++ b6 ++ b5 ++ b4] ∧
     extendVal 4 [b0, b1, b2, b3, b4, b5, b6, b7, b8, b9, b10, b11, b12, b13, b14, b15] =
       [b3 ++ b2 ++ b1 ++ b0, b7 ++ b6 ++ b5 ++ b4, b11 ++ b10 ++ b9 ++ b8, b15 ++ b14 ++ b13 ++ b12] ∧
     extendVal 5 [b0] = [b0.signExtend 32] ∧
     extendVal 6 [b0, b1] = [(b1 ++ b0).signExtend 32]) ∧
  ((∀ m b c : DWord,
     let new (k : Nat) : DWord := (amoNew k true m b c).1
     new 0 = m + b ∧ new 1 = BitVec.ofInt 64 (min m.toInt b.toInt) ∧ new 2 = BitVec.ofInt 64 (max m.toInt b.toInt) ∧
     new 3 = BitVec.ofNat 64 (min m.toNat b.toNat) ∧ new 4 = BitVec.ofNat 64 (max m.toNat b.toNat) ∧
     new 5 = m &&& b ∧ new 6 = m ||| b ∧ new 7 = m ^^^ b ∧ new 8 = b ∧ new 9 = if m = c then b else m) ∧
   (∀ m b c : Word,
     let new (k : Nat) : Word := loHalf (amoNew k false (m.setWidth 64) (b.setWidth 64) (c.setWidth 64)).1
     new 0 = m + b ∧ new 1 = BitVec.ofInt 32 (min m.toInt b.toInt) ∧ new 2 = BitVec.ofInt 32 (max m.toInt b.toInt) ∧
     new 3 = BitVec.ofNat 32 (min m.toNat b.toNat) ∧ new 4 = BitVec.ofNat 32 (max m.toNat b.toNat) ∧
     new 5 = m &&& b ∧ new 6 = m ||| b ∧ new 7 = m ^^^ b ∧ new 8 = b ∧ new 9 = (if m = c then b else m) ∧
     new 13 = (if b.toNat ≤ m.toNat then 0 else m + 1) ∧ new 14 = (if m = 0 ∨ b.toNat < m.toNat then b else m - 1)) ∧
   (∀ m b c : Word,
     let run (k : Nat) : Word × FlagSet :=
       let r := amoNew k false (m.setWidth 64) (b.setWidth 64) (c.setWidth 64)
       (loHalf r.1, r.2)
     let word (r : Nat × FlagSet) : Word × FlagSet := (BitVec.ofNat 32 r.1, r.2)
     run 10 = word (Fmt.fp32.finish .rne (FVal.add .rne (Fmt.fp32.decode m.toNat) (Fmt.fp32.decode b.toNat))) ∧
     run 11 = word (Fmt.fp32.minmax false m.toNat b.toNat) ∧ run 12 = word (Fmt.fp32.minmax true m.toNat b.toNat)) ∧
   ∀ (k : Nat) (wide : Bool) (m b c : DWord), ¬ (10 ≤ k ∧ k ≤ 12) → (amoNew k wide m b c).2 = {}) ∧
  (∀ (watch : Bool) (l : List (Nat × Word)) (evs : List Ev) (fl : FlagSet) (r : TapRule) (n : Nat) (v : Word),
     (l.find? (fun x => x.1 == r.feature)) = some (r.feature, v) →
     let y := applyRule watch (l, evs, fl) (r, n)
     let above := fgt v r.value
     let value (f : Nat) : Word := featVal y.1 f
     (∀ f, f ≠ r.feature → value f = featVal l f) ∧
     (r.op = 0 → value r.feature = v ∧ y.2.1 = if above then evs ++ [⟨r.feature, n, false, v⟩] else evs) ∧
     (r.op = 1 → value r.feature = v ∧ y.2.1 = if above then evs ++ [⟨r.feature, n, watch, v⟩] else evs) ∧
     (r.op = 2 → value r.feature = (if above then r.value else v) ∧ y.2.1 = evs) ∧
     (r.op = 3 → value r.feature = (if fgt r.value v then r.value else v) ∧ y.2.1 = evs) ∧
     (r.op = 4 → value r.feature = BitVec.ofNat 32 (Fmt.fp32.fadd .rne v.toNat r.value.toNat).1 ∧ y.2.1 = evs) ∧
     (r.op = 5 → value r.feature = r.value ∧ y.2.1 = evs) ∧
     (r.op = 6 → value r.feature = v ∧ y.2.1 = evs))

/-- R220, R221: an arrival at a barrier at D0 whose release waits for nothing: a phase that has its arrivals is over first, and
once every slice of the warp that has not exited has executed it the warp is the phase's next arrival; BARA goes on, and BAR and BARW wait for the phase. When the
phase has completed and no read is outstanding, BAR and BARW go on and bring 0, or 1 in an abandoned block (R344).

R222, R223: PBA's one update of its word at D0: with leader(B) at or above PENDING the phase flips and PENDING is EXPECT
again, else PENDING falls by leader(B); an arrival of 0 changes nothing; no other byte of the scratchpad changes. PBW goes
on once PHASE differs from bit 0 of leader(B) and no read is outstanding, and waits until then.

R163, R255: what such barriers order at D0. A matrix operation or a SCATTER or COPY sees its own warp's writes of the scratchpad, and
another warp's once that has released them and a barrier has let its own go on; until then it finds the byte that stood there before. -/
def Obligations.Barriers : Prop :=
  (let n (c : Ctx) : Nat := (c.a c.lead).toNat
   let count (c : Ctx) : Nat := (c.b c.lead).toNat
   let now (c : Ctx) : Barrier := c.s.barNow c.W.block (n c)
   let free (c : Ctx) : Prop := c.Plain ∧ c.lanes ≠ [] ∧ c.wake = none ∧ c.s.released c.k c.s.nextId 1 = true ∧ n c ≤ 15 ∧
     (∀ h ∈ (now c).here, h.1 ≠ c.k) ∧ c.W.alive ≠ 0 ∧ c.W.alive &&& ~~~c.m = 0 ∧ (c.s.block? c.W.block).isSome = true
   let counted (c : Ctx) : Prop := 1 ≤ count c ∧ count c ≤ ((c.s.block? c.W.block).map (·.nwarps)).getD 0 ∧
     ((now c).used = true → (now c).expect = count c)
   let arrived (c : Ctx) (t : State) (expect : Nat) : Prop :=
     t.bar c.W.block (n c) = { now c with used := true, expect := expect, arrived := (now c).arrived ++ [c.k] } ∧
     (∀ j, j ≠ n c → t.bar c.W.block j = c.s.bar c.W.block j) ∧
     (t.warp c.k).regs = c.W.regs ∧ (t.warp c.k).pend = c.W.pend ∧ t.mem = c.s.mem ∧ t.flights = c.s.flights
   let waits (c : Ctx) (t : State) : Prop := ∀ i ∈ maskSlices c.m, i < c.W.slices.length →
     (t.warp c.k).slice i = { c.W.slice i with wait := some (.barrier (n c)), woken := false }
   let past (c : Ctx) : Prop := c.Plain ∧ c.lanes ≠ [] ∧ c.wake = some (.barrier (n c)) ∧ c.s.readsOut c.k c.s.nextId = false
   let status (c : Ctx) : List (Nat × Nat × Word) :=
     c.lanes.map (fun i => (c.w.d.toNat, i, if c.s.abandoned c.W.block then 1 else 0))
   Runs (fun c => free c ∧ c.s.abandoned c.W.block = false ∧ ((now c).used = true → (now c).expect = 0)) .bar .bar .l64 (fun c t => arrived c t 0 ∧ waits c t) ∧
   Runs (fun c => free c ∧ counted c) .bara .bara .l64 (fun c t => arrived c t (count c) ∧
     ∀ i ∈ maskSlices c.m, i < c.W.slices.length → ((t.warp c.k).slice i).pc = c.next ∧ ((t.warp c.k).slice i).wait = none) ∧
   Runs (fun c => free c ∧ counted c ∧ c.s.abandoned c.W.block = false) .barw .barw .l64
     (fun c t => arrived c t (count c) ∧ waits c t) ∧
   Runs past .bar .bar .l64 (fun c t => c.Sends t (c.result 7 (status c) [c.w.d.toNat])) ∧
   Runs past .barw .barw .l64 (fun c t => c.Sends t (c.result 7 (status c) [c.w.d.toNat]))) ∧
  (let a (c : Ctx) : Nat := (c.a c.lead).toNat
   let word (s : State) (c : Ctx) : DWord := BitVec.ofNat 64 (leNat (s.spadRead c.W.block (a c) 8))
   let ok (c : Ctx) : Prop := c.Plain ∧ c.lanes ≠ [] ∧ c.wake = none ∧ a c % 8 = 0 ∧ a c + 8 ≤ c.s.spadSize c.W.block ∧
     c.s.spadBad c.W.block (a c) 8 = false
   Runs (fun c => ok c ∧ c.s.released c.k c.s.nextId 1 = true) .pba .pba .l64 (fun c t =>
     let n := (c.b c.lead).toNat
     let x := word c.s c
     let y := word t c
     let pending := (x.extractLsb' 0 16).toNat
     y.extractLsb' 16 16 = x.extractLsb' 16 16 ∧ y.extractLsb' 33 31 = x.extractLsb' 33 31 ∧
     (n = 0 → y = x) ∧
     (n ≠ 0 → pending ≤ n → y.getLsbD 32 = !x.getLsbD 32 ∧ y.extractLsb' 0 16 = x.extractLsb' 16 16) ∧
     (n ≠ 0 → n < pending → y.getLsbD 32 = x.getLsbD 32 ∧ (y.extractLsb' 0 16).toNat = pending - n) ∧
     (∀ b, b < a c ∨ a c + 8 ≤ b → t.spadRead c.W.block b 1 = c.s.spadRead c.W.block b 1) ∧
     (∀ i ∈ maskSlices c.m, i < c.W.slices.length → ((t.warp c.k).slice i).pc = c.next) ∧
     (t.warp c.k).regs = c.W.regs ∧ t.mem = c.s.mem ∧ t.flights = c.s.flights) ∧
   Runs (fun c => ok c ∧ c.s.readsOut c.k c.s.nextId = false ∧ (word c.s c).getLsbD 32 ≠ (c.b c.lead).getLsbD 0) .pbw .pbw .l64
     (fun c t => c.Went { t with blocks := c.s.blocks } (fun _ => c.next) id ∧
       ∀ b B, mfind c.s.blocks b = some B → ∃ O, mfind t.blocks b = some { B with order := O }) ∧
   Runs (fun c => ok c ∧ c.s.abandoned c.W.block = false ∧ (word c.s c).getLsbD 32 = (c.b c.lead).getLsbD 0) .pbw .pbw .l64
     (fun c t => c.OnlyWarp t ∧ mfind t.warps c.k = some (c.stopped c.W (.phaseBit (a c) ((c.b c.lead).getLsbD 0))))) ∧
  (∀ (O : SpadOrder) (ks : List Nat) (k j a : Nat) (old : Byte), k ≠ j →
    let P := O.write ks k a old
    let found (Q : SpadOrder) (i : Nat) : Option Byte := Q.hidden i (mget [] Q.before a)
    found P k = none ∧
    (mget [] O.before a = [] → (mget 0 (mget [] O.seen j) k ≤ O.tick → found P j = some old ∧ found (P.release k) j = some old) ∧
      found ((P.release k).acquire j) j = none)) ∧
  ∀ (s : State) (k op a : Nat) (B : Block), mfind s.blocks (s.warp k).block = some B → msorted B.order.before = true → mfind s.kept op = none →
    mfind (mget ([], []) (s.hideUnseen k op).kept op).2 a = B.order.hidden (s.rootOf 4 k) (mget [] B.order.before a)

/-- R95 Table 3, R98, R245, R246: a fence at D0 goes on where what its scope names has come: every earlier store-class
operation acknowledged, and for DIE and wider scopes the die's lease clock at or past `k.gwctd` or `k.gwct`; every earlier
read returned for an acquire. Else it waits. WAITC goes on where its class's counter is n or less and no fault of the class
is held, and else waits.

R100, R247: TRYWAIT at D0 whose words are not all as expected, or whose wait is over, goes on and brings all ones in each
acting lane whose word at its home differs from what it expects, and 0 in the others; with every word as expected it
waits. -/
def Obligations.FencesAndWaits : Prop :=
  (let scope (c : Ctx) : Nat := (c.w.mod.extractLsb' 2 3).toNat
   let rel (c : Ctx) : Bool := c.w.mod.getLsbD 1
   let acq (c : Ctx) : Bool := c.w.mod.getLsbD 0
   let here (c : Ctx) : Prop := c.Plain ∧ c.lanes ≠ [] ∧ c.wake = none
   let come (c : Ctx) : Prop :=
     (rel c = true → c.s.storesOut c.k c.s.nextId = false ∧
       (scope c = 3 → c.W.gwctd.toNat ≤ (c.s.dieTime (c.W.core / 192)).toNat) ∧
       (4 ≤ scope c → c.W.gwct.toNat ≤ (c.s.dieTime (c.W.core / 192)).toNat)) ∧
     (acq c = true → c.s.readsOut c.k c.s.nextId = false)
   let n (c : Ctx) : Nat := (c.w.a.bits.extractLsb' 0 8).toNat
   let noFault (c : Ctx) : Prop := (c.W.held.find? (fun r => r.slice == c.mod && r.whole)) = none ∧
     (c.mod = 3 → (c.s.core (c.s.mxCore c.W)).mx.err = none)
   Runs (fun c => here c ∧ come c) .fence .fence .l64 (fun c t => ∃ r, c.Went t (fun _ => c.next) (fun W => { W with release := r })) ∧
   Runs (fun c => here c ∧ ¬ come c) .fence .fence .l64 (fun c t => c.OnlyWarp t ∧ mfind t.warps c.k =
     some (c.stopped c.W (.fence (if rel c then some (scope c) else none) (acq c) c.s.nextId))) ∧
   Runs (fun c => here c ∧ c.mod ≤ 6 ∧ noFault c ∧ (c.W.counter c.mod ≤ n c ∨ [255, 255, 63, 15, 63, 15, 15].getD c.mod 15 ≤ n c))
     .waitc .waitc .l64 (fun c t => c.Went t (fun _ => c.next) id) ∧
   Runs (fun c => here c ∧ c.mod ≤ 6 ∧ noFault c ∧ n c < c.W.counter c.mod ∧ n c < [255, 255, 63, 15, 63, 15, 15].getD c.mod 15)
     .waitc .waitc .l64 (fun c t => c.OnlyWarp t ∧ mfind t.warps c.k = some (c.stopped c.W (.counter c.mod (n c))))) ∧
  (let home (s : State) (c : Ctx) (i : Nat) : Word :=
     BitVec.ofNat 32 (leNat (s.bytesAt ((c.tr (c.a64 i)).phys (c.a64 i).toNat) 4))
   let sound (c : Ctx) : Prop := c.Plain ∧ c.W.detlvl = 0 ∧ c.lanes ≠ [] ∧ c.Reach c.a64 4 false ∧ c.NoView c.a64 ∧
     (∀ i ∈ c.lanes, c.s.poisonedAt ((c.tr (c.a64 i)).phys (c.a64 i).toNat) 4 = false) ∧
     c.s.onWay c.k (c.lanes.map (fun i => ((c.tr (c.a64 i)).phys (c.a64 i).toNat, 4))) = false
   Runs (fun c => sound c ∧ ((∃ l u n d p, c.wake = some (.words l u n d p)) ∨ (c.wake = none ∧ ∃ i ∈ c.lanes, home c.s c i ≠ c.b i)))
     .trywait .trywait .l96 (fun c t => c.Sends t
       { c.result 7 (c.lanes.map (fun i => (c.w.d.toNat, i, if home c.s c i = c.b i then 0 else 0xFFFFFFFF))) [c.w.d.toNat] with
         reads := true }
       (fun s => { s with copies := [] })) ∧
   Runs (fun c => sound c ∧ c.wake = none ∧ ∀ i ∈ c.lanes, home c.s c i = c.b i) .trywait .trywait .l96 (fun c t =>
     c.OnlyWarp t ∧ mfind t.warps c.k = some (c.stopped c.W (.words
       (c.lanes.map (fun i => (i, c.a64 i, (c.tr (c.a64 i)).phys (c.a64 i).toNat, c.b i)))
       (if c.c c.lead = 0 then none else some (c.s.dieTime (c.W.core / 192) + (c.c c.lead).setWidth 64)) c.s.nextId c.w.d.toNat c.next))))

/-- R105 to R107, R248: QSP, GPREQ and GPWAIT at D0 with no read outstanding. QSP and GPWAIT pass a quiescent point: the
grace period in progress waits for the warp no longer. GPREQ hands out GP_DONE + 1 and starts that grace period where none
is in progress, and GP_DONE + 2 otherwise. GPWAIT goes on where GP_DONE has reached its number, held to the highest handed
out, and else waits. -/
def Obligations.GracePeriods : Prop :=
  let here (c : Ctx) : Prop := c.Plain ∧ c.lanes ≠ [] ∧ c.wake = none ∧ c.s.readsOut c.k c.s.nextId = false
  let quiet (c : Ctx) (P : Partition) (t : State) : Prop :=
    mfind t.parts (c.s.partOfWarp c.W) = some { P with gpWait := P.gpWait.filter (fun j => j ≠ c.k) }
  let g (c : Ctx) (P : Partition) : Nat := min (c.a64 c.lead).toNat P.gpMax
  (∀ P, Runs (fun c => here c ∧ mfind c.s.parts (c.s.partOfWarp c.W) = some P) .qsp .qsp .l64 (fun c t => quiet c P t ∧
    (∀ i ∈ maskSlices c.m, i < c.W.slices.length → ((t.warp c.k).slice i).pc = c.next) ∧
    (t.warp c.k).regs = c.W.regs ∧ t.mem = c.s.mem ∧ t.flights = c.s.flights)) ∧
  (∀ P, Runs (fun c => c.Plain ∧ c.lanes ≠ [] ∧ mfind c.s.parts (c.s.partOfWarp c.W) = some P) .gpreq .gpreq .l64 (fun c t =>
    let no : DWord := BitVec.ofNat 64 (if P.gpNow = none then P.gpDone + 1 else P.gpDone + 2)
    let d := c.w.d.toNat
    (∃ vals, (∀ r i v, (r, i, v) ∈ vals ↔ i ∈ c.lanes ∧ (r = d ∧ v = loHalf no ∨ r = d + 1 ∧ v = hiHalf no)) ∧
      c.Sends t (c.result 7 vals [d, d + 1]) butPools) ∧
    ∃ Q, mfind t.parts (c.s.partOfWarp c.W) = some Q ∧ Q.gpDone = P.gpDone ∧
      Q.gpMax = max P.gpMax (if P.gpNow = none then P.gpDone + 1 else P.gpDone + 2) ∧
      (P.gpNow = none → Q.gpNow = some (P.gpDone + 1)) ∧
      (∀ x, P.gpNow = some x → Q.gpNow = some x ∧ Q.gpNext = true))) ∧
  (∀ P, Runs (fun c => here c ∧ mfind c.s.parts (c.s.partOfWarp c.W) = some P ∧ g c P ≤ P.gpDone) .gpwait .gpwait .l64 (fun c t =>
    quiet c P t ∧ (∀ i ∈ maskSlices c.m, i < c.W.slices.length → ((t.warp c.k).slice i).pc = c.next) ∧
    (t.warp c.k).regs = c.W.regs ∧ t.mem = c.s.mem)) ∧
  (∀ P, Runs (fun c => here c ∧ mfind c.s.parts (c.s.partOfWarp c.W) = some P ∧ P.gpDone < g c P) .gpwait .gpwait .l64 (fun c t =>
    quiet c P t ∧ ∀ i ∈ maskSlices c.m, i < c.W.slices.length →
      (t.warp c.k).slice i = { c.W.slice i with wait := some (.grace (g c P)), woken := false }))

/-- R108 to R110, R249, R250: DFREE at D0 queues its lanes' blocks in lane order while the die's queue of 4,096 entries has
room, and brings all ones for each it queued and 0 for the others; PALLOC pops the head of its pool, whose first 8 bytes
hold the next one and are undefined from then on, every other byte staying as it was, or brings 0; PFREE sends its blocks' pushes on their way. -/
def Obligations.Pools : Prop :=
  let die (c : Ctx) : Nat := c.W.core / 192
  let pool (x : Word) : Nat := (x.extractLsb' 0 4).toNat
  let free (s : State) (c : Ctx) : List (DWord × Nat) := (s.die (die c)).dfree.map (fun e => (e.1, e.2.1))
  let may (c : Ctx) (pool : Nat → Nat) (va : Nat → Option DWord) : Prop :=
    ∀ i ∈ c.lanes, c.poolFault i (pool i) (va i) = none
  Runs (fun c => c.Plain ∧ c.lanes ≠ [] ∧ c.Reach c.a64 1 true ∧ may c (fun i => pool (c.b i)) (fun i => some (c.a64 i)))
    .dfree .dfree .l96 (fun c t =>
      let room := 4096 - (c.s.die (die c)).dfree.length
      c.Sends t (c.result 7 (c.lanes.zipIdx.map (fun x => (c.w.d.toNat, x.1, if x.2 < room then 0xFFFFFFFF else 0))) [c.w.d.toNat])
        butPools ∧
      free t c = free c.s c ++ (c.lanes.take room).map (fun i => (c.a64 i, pool (c.b i)))) ∧
  (∀ i, Runs (fun c => c.Plain ∧ c.lanes = [i] ∧ may c (fun i => pool (c.a i)) (fun _ => none) ∧
      (c.s.die (die c)).poolBusy (pool (c.a i)) = false ∧ mget 0 (c.s.die (die c)).poolHead (pool (c.a i)) = 0 ∧
      (∀ f ∈ c.s.flights, f.2.warp = c.k → ∀ a ∈ f.2.accs, ∀ p d, a.op ≠ .push p d)) .palloc .palloc .l64 (fun c t =>
    let d := c.w.d.toNat
    c.Sends t (c.result 7 [(d, i, 0), (d + 1, i, 0)] [d, d + 1]))) ∧
  (∀ i head tr, Runs (fun c => c.Plain ∧ c.lanes = [i] ∧ may c (fun i => pool (c.a i)) (fun _ => none) ∧
      (c.s.die (die c)).poolBusy (pool (c.a i)) = false ∧ mget 0 (c.s.die (die c)).poolHead (pool (c.a i)) = head ∧ head ≠ 0 ∧
      head.toNat % 64 = 0 ∧ head.toNat < 2 ^ 48 ∧ c.W.mode = .user ∧
      c.s.cached c.W.core c.W.queue head.toNat = some tr ∧ tr.rdo = false ∧ PlainMem c.s ∧
      (∀ j < 8, c.s.homeless (tr.phys head.toNat + j) = false) ∧
      (∀ f ∈ c.s.flights, f.2.warp = c.k → ∀ a ∈ f.2.accs, ∀ p d, a.op ≠ .push p d)) .palloc .palloc .l64 (fun c t =>
    let d := c.w.d.toNat
    let at_ := tr.phys head.toNat
    c.Sends t (c.result 7 [(d, i, loHalf head), (d + 1, i, hiHalf head)] [d, d + 1]) butBlock ∧
    (∀ x, (x < at_ ∨ at_ + 8 ≤ x) → t.byteAt x = c.s.byteAt x) ∧
    mget 0 (t.die (die c)).poolHead (pool (c.a i)) = BitVec.ofNat 64 (leNat (c.s.bytesAt (tr.phys head.toNat) 8)))) ∧
  Runs (fun c => c.Plain ∧ c.lanes ≠ [] ∧ c.W.counter 1 < 255 ∧ c.Reach c.a64 1 true ∧
      may c (fun i => pool (c.b i)) (fun i => some (c.a64 i))) .pfree .pfree .l64 (fun c t =>
    c.Sends t { warp := c.k, cls := 1, inOrder := true,
                accs := c.lanes.map (c.access 8 0 c.a64 (fun i => .push (pool (c.b i)) (die c))) })

/-- R101, R104, R244: TXOPEN in a warp with no transaction makes each acting lane a transaction lane, saves every counter, and
brings each the number of its aborts in a row at this address; in a warp with one it aborts the open lanes with cause 5.
TXDROP aborts its acting live lanes with cause 4 and their codes.

R103, R244: TXSEAL at D0 of a transaction of one live lane whose slices have all arrived, with no read outstanding, no older store on
its way to its sectors and no sector held: where every sector it read still holds the value it read, its buffered bytes are in memory at once and
nothing else there changes, and its status has cause 0; where one does not, memory is as it was and the cause is 2. Either
way the transaction is over, the lanes of its slice have their saved counters again, and the status is on its way. -/
def Obligations.Transactions : Prop :=
  (let tries (c : Ctx) (i : Nat) : Nat := if mget 0 c.W.txAddr i = c.pc then mget 0 c.W.txTries i else 0
   let lane (W : Warp) (i : Nat) : Option TxLane := W.tx.bind (fun x => mfind x.lanes i)
   Runs (fun c => c.fork? = none ∧ c.W.tx = none ∧ c.lanes ≠ []) .txopen .txopen .l64 (fun c t =>
     c.OnlyWarp t ∧
     (∃ x, (t.warp c.k).tx = some x ∧ x.addr = c.pc ∧ x.cnt = c.W.cnt ∧ x.lanes.map (·.1) = c.lanes) ∧
     (∀ i ∈ c.lanes, ∃ l, lane (t.warp c.k) i = some l ∧ l.cause = 0 ∧ l.tries = tries c i ∧ l.esc = decide (tries c i = 8) ∧
       l.reads = [] ∧ l.writes = [] ∧ l.foot = []) ∧
     (∀ i ∈ c.lanes, i < 64 → ((t.warp c.k).landDue (c.W.clk + 4)).reg c.w.d.toNat i = BitVec.ofNat 32 (tries c i)) ∧
     (∀ q p, q ≠ c.w.d.toNat → p < 64 → (∀ i ∈ c.lanes, i < 64) → (t.warp c.k).settled q p = c.W.settled q p)) ∧
   Runs (fun c => c.fork? = none ∧ c.W.tx.isSome = true) .txopen .txopen .l64 (fun c t =>
     (∀ i l, lane c.W i = some l → l.cause = 0 → ∃ l', lane (t.warp c.k) i = some l' ∧ l'.cause = 5 ∧ l'.writes = []) ∧
     (∀ q p, (t.warp c.k).settled q p = c.W.settled q p) ∧ t.mem = c.s.mem) ∧
   Runs always .txdrop .txdrop .l64 (fun c t =>
     (∀ i ∈ c.lanes, ∀ l, lane c.W i = some l → l.cause = 0 →
       ∃ l', lane (t.warp c.k) i = some l' ∧ l'.cause = 4 ∧ l'.code = ((c.a i).extractLsb' 0 8).toNat ∧ l'.writes = []) ∧
     (∀ i, i ∉ c.lanes → lane (t.warp c.k) i = lane c.W i) ∧
     (∀ q p, (t.warp c.k).settled q p = c.W.settled q p) ∧ t.mem = c.s.mem)) ∧
  (∀ (i : Nat) (l : TxLane) (x : Tx), i < 64 → x.lanes = [(i, l)] → l.cause = 0 → l.drops = [] → msorted l.writes = true →
     Runs (fun c => (∀ e ∈ l.writes, c.s.homeless e.1 = false) ∧ c.s.onWay c.k (c.s.txRanges c.k) = false ∧ c.W.tx = some x ∧ c.s.buffered c.W = false ∧ c.W.twinOf = none ∧ c.fork? = none ∧
         c.s.readsOut c.k c.s.nextId = false ∧ c.W.txSlices &&& ~~~(c.W.atSeal ||| c.m) = 0 ∧ c.s.txHeld c.k = [] ∧ PlainMem c.s)
       .txseal .txseal .l64 (fun c t =>
         let held : Bool := l.reads.all (fun r => c.s.bytesAt (r.1 * 32) 32 == r.2)
         let cause := if held then 0 else 2
         (t.warp c.k).tx = none ∧
         (∀ a, t.byteAt a = if held then (mfind l.writes a).getD (c.s.byteAt a) else c.s.byteAt a) ∧
         (∀ j < c.W.width, j / 4 = i / 4 → (t.warp c.k).count j = mget 0 x.cnt j) ∧
         ∃ f, mfind t.flights c.s.nextId = some f ∧ f.regs = [c.w.d.toNat] ∧
           f.vals = [(c.w.d.toNat, i, BitVec.ofNat 32 (l.tries * 2 ^ 24 + (if l.esc then 2 ^ 16 else 0) + (if held then l.code % 256 * 256 else 0) + cause))]))

/-- R65, R69, R79, R80: the home of a byte gives what was last written there. Bytes written to plain memory at their home for
any class read back, in any line or across two, and no other byte changes, whichever line they displace from the L2. A line
that leaves the L2, and one that a fill of any class brings in, change no byte. What has no home takes no write (R71). Memory stays
plain memory. -/
def Obligations.ReadAfterWrite : Prop :=
  (∀ (s : State) (svc a : Nat) (bs : List Byte), PlainMem s → bs.length ≤ 128 →
    ((∀ j < bs.length, s.homeless (a + j) = false) → (s.homePutFor svc a bs).bytesAt a bs.length = bs) ∧
    ((∀ j < bs.length, s.homeless (a + j) = true) → ∀ x, (s.homePutFor svc a bs).byteAt x = s.byteAt x) ∧
    PlainMem (s.homePutFor svc a bs) ∧
    ∀ x, x < a ∨ a + bs.length ≤ x → (s.homePutFor svc a bs).byteAt x = s.byteAt x) ∧
  (∀ (s : State) (line : Nat), PlainMem s → mfind (s.evictLine line).l2 line = none ∧ PlainMem (s.evictLine line) ∧
    ∀ x, (s.evictLine line).byteAt x = s.byteAt x) ∧
  ∀ (s : State) (svc line : Nat), PlainMem s → PlainMem (s.fillFor svc line) ∧ ∀ x, (s.fillFor svc line).byteAt x = s.byteAt x

/-! ### Engines, matrix unit and tap -/

/-- R97, R252 to R254: GATHER, SCATTER, COPY and COPYR at D0 hand their engine an operation, which counts in its class, and
go on; no register and no byte changes at issue.

R84, R97, R252 to R254, R346: the engines' events at D0. A COPYR between translated ranges that do not meet completes with
its destination holding the bytes of its source and every other byte as it was; a GATHER completes with its elements in the
scratchpad, and a SCATTER with the scratchpad's in memory; a COPY moves its tile into the scratchpad or out of it, byte j of row r at
layout coordinates (r, 0, 0) plus j; every other byte is as it was. An operation whose first unit lies on a page that may not be
written moves nothing and keeps the write-protection fault for its class's WAITC. That all moves of an operation whose pages are there
happen in one event is the model's choice (DESIGN CHOICE, log entry 27). -/
def Obligations.EngineCopies : Prop :=
  (let n (c : Ctx) : Nat := 2 ^ (c.mod % 4)
   let addr (c : Ctx) (i : Nat) : DWord := c.a64 c.lead + c.w.imm.signExtend 64 +
     (if c.w.mod.getLsbD 2 then (c.b i).signExtend 64 else (c.b i).setWidth 64) * BitVec.ofNat 64 (n c)
   let spad (c : Ctx) : Nat := (c.W.dReg c.w c.lead 0).toNat
   let elems (c : Ctx) : List (Nat × DWord) := c.lanes.map (fun i => (i, addr c i))
   let inside (c : Ctx) : Prop := c.Plain ∧ c.W.counter 4 < 63 ∧ ∀ i ∈ c.lanes, (addr c i).toNat % n c = 0 ∧ spad c % n c = 0 ∧
     spad c + (i + 1) * n c ≤ c.s.spadSize c.W.block ∧ (addr c i).toNat < 2 ^ 48
   let order (c : Ctx) (cls : Nat) (op : EngOp) : Engine :=
     { op := op, warp := c.k, block := c.W.block, cls := cls, stage := 1, rel := c.W.release, lead := c.lead }
   let layout (c : Ctx) : BitVec 96 := c.W.dReg c.w c.lead 2 ++ c.W.dReg c.w c.lead 1 ++ c.W.dReg c.w c.lead 0
   let base (c : Ctx) : DWord := c.a64 c.lead
   let len (c : Ctx) : Nat := ((c.b c.lead).extractLsb' 0 16).toNat
   let rows (c : Ctx) : Nat := ((c.b c.lead).extractLsb' 16 8).toNat + 1
   let pitch (c : Ctx) : Nat := (c.c c.lead).toNat
   let size (c : Ctx) : Nat := (c.c c.lead).toNat
   Runs inside .gather .gather .l128 (fun c t => c.Orders t (order c 4 (.gather (c.a64 c.lead) (n c) (spad c) (elems c)))) ∧
   Runs inside .scatter .scatter .l128 (fun c t => c.Orders t (order c 4 (.scatter (c.a64 c.lead) (n c) (spad c) (elems c)))) ∧
   Runs (fun c => c.Plain ∧ c.lanes ≠ [] ∧ c.W.counter 2 < 63 ∧ layoutBad (layout c) = 0 ∧
       (∀ r < rows c, ∀ b < len c, layoutAddr (layout c) r 0 0 b < c.s.spadSize c.W.block) ∧
       (base c).toNat % 4 = 0 ∧ pitch c % 4 = 0 ∧ len c % 4 = 0 ∧
       ∀ r < rows c, ∀ j < len c / 4, (base c + BitVec.ofNat 64 (r * pitch c + 4 * j)).toNat < 2 ^ 48) .copy .copy .l128
     (fun c t => c.Orders t (order c 2 (if c.w.mod.getLsbD 0 then .copyS2g (layout c) (base c) (len c) (rows c) (pitch c)
       else .copyG2s (layout c) (base c) (len c) (rows c) (pitch c)))) ∧
   Runs (fun c => c.Plain ∧ c.lanes ≠ [] ∧ c.W.counter 2 < 63 ∧ (size c = 0 ∨
       ((c.a64 c.lead).toNat + size c ≤ 2 ^ 48 ∧ (c.b64 c.lead).toNat + size c ≤ 2 ^ 48 ∧
         ((c.a64 c.lead).toNat + size c ≤ (c.b64 c.lead).toNat ∨ (c.b64 c.lead).toNat + size c ≤ (c.a64 c.lead).toNat)))) .copyr .copyr .l128
     (fun c t => c.Orders t (order c 2 (.copyr (c.a64 c.lead) (c.b64 c.lead) (size c))))) ∧
  (∀ (s : State) (op : Nat) (e : Engine) (W : Warp), mfind s.engines op = some e → e.stage = 1 → e.ran = false → e.made = 0 → e.mirror = none →
     mfind s.warps e.warp = some W → s.buffered W = false → s.watched e.warp = false → s.badSectors = [] → s.badHbm = [] →
     s.holds = [] → mfind s.kept op = none → (∀ f ∈ s.flights, f.2.warp ≠ e.warp) → PlainMem s →
     (∀ (dst src : DWord) (n pd ps : Nat), e.op = .copyr dst src n → e.cls = 2 → W.outs = [(2, op, false)] →
       s.engWprot e = false →
       (∀ j < n, s.engPhys e (.glob (dst + BitVec.ofNat 64 j)) = some (pd + j) ∧
         s.engPhys e (.glob (src + BitVec.ofNat 64 j)) = some (ps + j) ∧ s.homeless (pd + j) = false) → (ps + n ≤ pd ∨ pd + n ≤ ps) →
       ∃ t, exec (.cpComplete op) s = .next t ∧ (∀ j < n, t.byteAt (pd + j) = s.byteAt (ps + j)) ∧
         (∀ a, a < pd ∨ pd + n ≤ a → t.byteAt a = s.byteAt a) ∧ (t.warp e.warp).outs = [] ∧ mfind t.engines op = none ∧
         (t.warp e.warp).regs = W.regs ∧ t.blocks = s.blocks) ∧
     (∀ (base : DWord) (size dst : Nat) (elems : List (Nat × DWord)), e.op = .gather base size dst elems → e.cls = 4 →
       W.outs = [(4, op, false)] → (elems.map (·.1)).Nodup → (s.block? e.block).isSome = true →
       (∀ x ∈ elems, ∃ pa, s.engPhys e (.glob x.2) = some pa ∧ packageOf pa = s.zinc.self) →
       ∃ t, exec (.gsComplete op) s = .next t ∧
         (∀ x ∈ elems, ∀ pa, s.engPhys e (.glob x.2) = some pa → t.spadRead e.block (dst + x.1 * size) size = s.bytesAt pa size) ∧
         (∀ a, (∀ x ∈ elems, a < dst + x.1 * size ∨ dst + (x.1 + 1) * size ≤ a) →
           t.spadRead e.block a 1 = s.spadRead e.block a 1) ∧
         (∀ a, t.byteAt a = s.byteAt a) ∧ (t.warp e.warp).outs = [] ∧ mfind t.engines op = none) ∧
     (∀ (base : DWord) (size src : Nat) (elems : List (Nat × DWord)) (pa : Nat × DWord → Nat), e.op = .scatter base size src elems →
       e.cls = 4 → size ≤ 8 → W.outs = [(4, op, false)] → s.engWprot e = false →
       (∀ x ∈ elems, s.engPhys e (.glob x.2) = some (pa x) ∧ s.spadBad e.block (src + x.1 * size) size = false ∧
         (∀ j < size, s.homeless (pa x + j) = false) ∧ ∀ y ∈ elems, y ≠ x → pa x + size ≤ pa y ∨ pa y + size ≤ pa x) →
       ∃ t, exec (.gsComplete op) s = .next t ∧
         (∀ x ∈ elems, t.bytesAt (pa x) size = s.spadRead e.block (src + x.1 * size) size) ∧
         (∀ a, (∀ x ∈ elems, a < pa x ∨ pa x + size ≤ a) → t.byteAt a = s.byteAt a) ∧ t.blocks = s.blocks ∧
         (t.warp e.warp).outs = [] ∧ (t.warp e.warp).regs = W.regs ∧ mfind t.engines op = none) ∧
     (∀ (l : BitVec 96) (base : DWord) (len rows pitch : Nat) (pa : Nat → Nat → Nat), e.cls = 2 → len % 4 = 0 → W.outs = [(2, op, false)] →
       let inside (r j : Nat) : Prop := r < rows ∧ j < len
       let place (r j : Nat) : Nat := layoutAddr l r 0 0 j
       (∀ r j, inside r j → s.engPhys e (.glob (base + BitVec.ofNat 64 (r * pitch + j))) = some (pa r j) ∧ pa r j = pa r (j / 4 * 4) + j % 4) →
       (∀ r j, inside r j → ∀ q i, inside q i → ¬ (q = r ∧ i = j) → place q i ≠ place r j) →
       (e.op = .copyG2s l base len rows pitch → (s.block? e.block).isSome = true →
         ∃ t, exec (.cpComplete op) s = .next t ∧ (∀ r j, inside r j → t.spadRead e.block (place r j) 1 = s.bytesAt (pa r j) 1) ∧
           (∀ a, (∀ r j, inside r j → place r j ≠ a) → t.spadRead e.block a 1 = s.spadRead e.block a 1) ∧
           (∀ a, t.byteAt a = s.byteAt a) ∧ (t.warp e.warp).outs = [] ∧ (t.warp e.warp).regs = W.regs ∧ mfind t.engines op = none) ∧
       (e.op = .copyS2g l base len rows pitch → s.engWprot e = false →
         (∀ r j, inside r j → s.homeless (pa r j) = false ∧ s.spadBad e.block (place r j) 1 = false ∧
           ∀ q i, inside q i → ¬ (q = r ∧ i = j) → pa q i ≠ pa r j) →
         ∃ t, exec (.cpComplete op) s = .next t ∧ (∀ r j, inside r j → t.bytesAt (pa r j) 1 = s.spadRead e.block (place r j) 1) ∧
           (∀ a, (∀ r j, inside r j → pa r j ≠ a) → t.byteAt a = s.byteAt a) ∧ t.blocks = s.blocks ∧
           (t.warp e.warp).outs = [] ∧ (t.warp e.warp).regs = W.regs ∧ mfind t.engines op = none)) ∧
     (∀ (dst src : DWord) (n : Nat) (tr : Trans), e.op = .copyr dst src n → 0 < n → s.engMissing e = [] →
       s.engTrans e dst.toNat = some tr → tr.rdo = true →
       let unit := if dst.toNat % 8 = src.toNat % 8 then 8 else 1
       ∃ t, exec (.engineWprot op) s = .next t ∧ (∀ a, t.byteAt a = s.byteAt a) ∧
         (t.warp e.warp).held = W.held ++
           [{ slice := e.cls, lane := op, cause := 0x11, taddr := dst, info1 := BitVec.ofNat 32 unit }] ∧
         mfind t.engines op = some { e with wprot := some (dst, unit), made := e.op.moves.length, ran := true }))

/-- R161, R162, R167 to R169, R176, R177, R256 to R258: the matrix instructions at D0 in the block that owns the unit; a MCFG also takes
a free one, whose accumulators then read +0 and whose planes are undefined. Each enters the unit's queue with its operands and goes on; accumulators, planes and
memory are as they were. MLOOP's and MRD's registers wait for the unit. MFENCE closes the open batch under the next number;
MWAIT goes on where its batch has completed and waits where it has not. What the checks need of the operations ahead, the
pages of the records that these will read, is there. -/
def Obligations.MatrixInstructions : Prop :=
  let own (c : Ctx) : Prop := c.Plain ∧ c.lanes ≠ [] ∧ (kitOf c.op).check c = [] ∧ c.missing ((kitOf c.op).first c) = []
  let d (c : Ctx) : Nat := c.w.d.toNat
  let al (c : Ctx) : Word := c.a c.lead
  let sends (c : Ctx) (t : State) (op : MxOp) : Prop :=
    c.Enters t op none { c.onward c.W with openOps := c.W.openOps ++ [c.s.nextId] }
  let flight (c : Ctx) (regs : List Nat) : Flight := { warp := c.k, cls := 7, accs := [], dst := d c, regs := regs, ready := false }
  let mask (c : Ctx) : BitVec 128 := if c.w.mod.getLsbD 0
    then c.W.dReg c.w c.lead 3 ++ c.W.dReg c.w c.lead 2 ++ c.W.dReg c.w c.lead 1 ++ c.W.dReg c.w c.lead 0
    else BitVec.allOnes 128
  Runs (fun c => own c ∧ c.mx.owner = some c.W.block) .mcfg .mcfg .l64 (fun c t =>
    sends c t (.mcfg (c.a64 c.lead) ((c.b c.lead).toNat % 8)) ∧ (t.core c.W.core).mx.owner = some c.W.block) ∧
  Runs (fun c => own c ∧ c.mx.owner = none ∧ ∀ e ∈ c.mx.queue, e.block ≠ c.W.block → e.op.ofTap = true) .mcfg .mcfg .l64 (fun c t =>
    let U := (t.core c.W.core).mx
    U.owner = some c.W.block ∧ (∀ x, U.read x = 0) ∧ U.accPoison = [] ∧ U.mxstall = 0 ∧ U.err = none ∧
    U.active.known = false ∧ U.shadow.known = false ∧ U.queue = c.mx.queue ++
      [{ op := .mcfg (c.a64 c.lead) ((c.b c.lead).toNat % 8), id := c.s.nextId, warp := c.k, block := c.W.block, lanes := c.lanes }] ∧
    mfind t.warps c.k = some { c.onward c.W with openOps := c.W.openOps ++ [c.s.nextId] } ∧
    (∀ j, j ≠ c.W.core → t.core j = c.s.core j) ∧ t.mem = c.s.mem ∧ t.blocks = c.s.blocks ∧ t.flights = c.s.flights) ∧
  Runs own .mlds .mlds .l64 (fun c t => sends c t (.mlds (al c).toNat)) ∧
  Runs own .mswap .mswap .l64 (fun c t => sends c t .mswap) ∧
  Runs own .mzero .mzero .l64 (fun c t => sends c t (.mzero ((al c).toNat % 8))) ∧
  Runs own .mst .mst .l96 (fun c t => sends c t (.mst (c.W.opLayout c.w.a c.lead) (c.b c.lead) (c.mod % 4))) ∧
  Runs own .macc .macc .l96 (fun c t => sends c t (.macc (c.W.opLayout c.w.a c.lead) (c.b c.lead))) ∧
  Runs own .mmeta .mmeta .l64 (fun c t => sends c t (.mmeta (c.a64 c.lead))) ∧
  Runs own .mloop .mloop .l96 (fun c t => c.Enters t
    (.mloop c.w.mod (c.W.opLayout c.w.a c.lead) (c.b c.lead) (c.c c.lead) (c.W.opRun c.w.c c.lead 1) (mask c))
    (some (flight c [d c, d c + 1, d c + 2, d c + 3])) { c.onward c.W with openOps := c.W.openOps ++ [c.s.nextId + 1] }) ∧
  Runs own .mrd .mrd .l64 (fun c t => c.Enters t (.mrd ((al c).toNat % 128) ((al c).extractLsb' 8 3).toNat)
    (some (flight c [d c])) (c.onward c.W)) ∧
  Runs (fun c => own c ∧ c.W.counter 3 < 15 ∧ c.W.batchNo + 1 < 2 ^ 40) .mfence .mfence .l64 (fun c t =>
    let n := c.W.batchNo + 1
    mfind t.engines c.s.nextId = some { op := .batch c.W.openOps, warp := c.k, block := c.W.block, cls := 3, stage := 1, rel := c.W.release, lead := c.lead } ∧
    (t.warp c.k).openOps = [] ∧ (t.warp c.k).batchNo = n ∧ (n, c.W.openOps, c.s.nextId) ∈ (t.warp c.k).batches ∧
    (t.warp c.k).outs = c.W.outs ++ [(3, c.s.nextId, false)] ∧
    (∀ i ∈ c.lanes, i < 64 → ((t.warp c.k).landDue (c.W.clk + 4)).reg (d c) i = BitVec.ofNat 32 (n % 2 ^ 16)) ∧
    t.cores = c.s.cores ∧ t.mem = c.s.mem) ∧
  Runs (fun c => own c ∧ ∃ b, c.batchOf = some b ∧ ∀ o ∈ c.W.outs, o.2.1 ≠ b.2.2) .mwait .mwait .l64
    (fun c t => c.Went t (fun _ => c.next) id) ∧
  ∀ b, Runs (fun c => own c ∧ c.batchOf = some b ∧ ∃ o ∈ c.W.outs, o.2.1 = b.2.2) .mwait .mwait .l64 (fun c t =>
    c.OnlyWarp t ∧ mfind t.warps c.k = some (c.stopped c.W (.batch b.2.2)))

/-- R162 to R169, R173, R176, R326: the matrix unit's events. The operation at the head of the queue runs and leaves it.
MCFG binds its record, MMETA the side array, MLDS loads the shadow plane, MSWAP exchanges the planes, MZERO zeroes the cells of its tile
and no other, a dense MLOOP adds its rows' chunks to the tile, MACC a word to each element, MST writes its rows to scratchpad, MRD
supplies its row. In the error state MRD gives 0 and the others but MCFG only leave the queue.

A batch whose operations have run completes: its warp's counter falls and the flags of its operations are raised. -/
def Obligations.MatrixUnit : Prop :=
  let width (U : MxUnit) : Nat := match U.record with
    | none => 32
    | some r => if r.wfmt < 2 then 64 else if r.wfmt = 2 then 128 else 32
  let cell (tile row col : Nat) : Nat := (tile / 4 * 128 + row) * 128 + 32 * (tile % 4) + col
  (∀ (addr : DWord) (b : List Byte) (r : WRec) (moff : DWord), parseRecord addr b = some (r, moff) →
    let word (o n : Nat) : Nat := fieldAt b o n
    r.addr = addr ∧ r.woff = addr + BitVec.ofNat 64 (word 0 8) ∧ r.soff = addr + BitVec.ofNat 64 (word 8 8) ∧
    moff = BitVec.ofNat 64 (word 16 8) ∧ r.kdim = word 24 4 ∧ r.ndim = word 28 4 ∧ r.wfmt = word 32 4 ∧
    r.wfmt < 5 ∧ 0 < r.kdim ∧ 0 < r.ndim ∧ r.kdim % (if moff = 0 ∨ 3 ≤ r.wfmt then 128 else 256) = 0 ∧ r.woff.toNat % 64 = 0) ∧
  (∀ (s : State) (core : Nat) (e : MxEntry) (q : List MxEntry) (U : MxUnit), (s.core core).mx = U → U.queue = e :: q →
    s.buffered (s.warp e.warp) = false →
    let found (a n : Nat) : List Byte := (s.fetchBytes e.warp e.id a n).1
    let reads (l : List (Nat × Nat)) : Prop := s.fetchLacks e.warp e.asked l = [] ∧
      s.fetchBehind e.warp e.id (l ++ s.sideRanges core e) = false ∧ ∀ r ∈ l, (s.fetchBytes e.warp e.id r.1 r.2).2 = false
    let fits (tile : Nat) : Prop := 32 * (tile % 4) + width U ≤ 128
    -- what the unit finds is what the operations of its queue left in scratchpad: here none is ahead, and nothing was written since
    let plain : Prop := U.err = none ∧ U.accPoison = [] ∧ U.order = [] ∧ mfind s.kept e.id = none ∧
      ∀ x, mfind s.engines e.id = some x → x.block = e.block ∧ s.watched x.warp = false
    (∀ a n tr, 0 < n → a % 32 + n ≤ 32 → mfind s.kept e.id = none → s.warpLook e.warp a = some tr →
      packageOf (tr.phys a) = s.zinc.self → s.homeDie (tr.phys a) = (s.warp e.warp).core / 192 → found a n = s.bytesAt (tr.phys a) n) ∧
    (∀ a afmt, e.op = .mcfg a afmt → reads [(a.toNat, 64)] →
      ∃ t, exec (.matrixOpExecute core) s = .next t ∧ t.mem = s.mem ∧ t.blocks = s.blocks ∧
      let V := (t.core core).mx
      V.queue = q ∧ V.acc = U.acc ∧ V.afmt = afmt ∧ V.side = none ∧ V.metaCache = [] ∧
      V.record = (parseRecord a (found a.toNat 64)).map (·.1) ∧ V.err = if V.record.isNone then some (8, a) else none) ∧
    (∀ a, e.op = .mmeta a → U.err = none → reads [(a.toNat, 64)] →
      ∃ t, exec (.matrixOpExecute core) s = .next t ∧ t.mem = s.mem ∧ t.blocks = s.blocks ∧
      let V := (t.core core).mx
      V.queue = q ∧ V.acc = U.acc ∧ V.record = U.record ∧
      match parseRecord a (found a.toNat 64) with
      | none => V.err = some (8, a)
      | some (_, moff) => V.metaCache = [] ∧
        if moff = 0 then V.side = none ∧ V.err = none
        else if U.record.any (fun r => 3 ≤ r.wfmt) then V.side = none ∧ V.err = some (7, a)
        else V.side = some (a + moff) ∧ V.err = none) ∧
    (∀ p r, e.op = .mlds p → U.err = none → U.record = some r → p < r.planes U.side.isSome → mfind s.kept e.id = none →
      reads (s.planeRanges e.warp r U.side.isSome p) → (s.fetchPlane e.warp e.id r U.side.isSome p).2 = false →
      ∃ t, exec (.matrixOpExecute core) s = .next t ∧ t.mem = s.mem ∧ t.blocks = s.blocks ∧
      let V := (t.core core).mx
      V.queue = q ∧ V.acc = U.acc ∧ V.active = U.active ∧ V.shadow.idx = some p ∧ V.shadow.known = true ∧
      V.shadow.data = found ((r.woff.toNat + 8192 * p) % 2 ^ 64) 8192 ∧
      (r.wfmt < 3 → V.shadow.scales = (r.squares U.side.isSome p).map (fun sq => match s.scalePlace e.warp r p sq with
        | .ok va => (found va 1).headD 0
        | .error pa => s.byteAt pa))) ∧
    (∀ l sw iw aw mask r p, e.op = .mloop 0 l sw iw aw mask → U.record = some r → U.side = none → U.active.idx = some p → plain →
      fits (stepTile sw) → (∀ i < stepK sw, 0 ≤ (p : Int) + i * incW iw) →
      let plane (i : Nat) : Plane :=
        if i = 0 then U.active else (s.fetchPlane e.warp e.id r false ((p : Int) + i * incW iw).toNat).1
      let row (m i : Nat) : ARow := readRow (s.spad e.block) l U.afmt m (i * incA iw)
      -- R63: each chunk's exact sum of products, scaled, is added with one rounding
      let chunk (m n i : Nat) (acc : Word) : Word :=
        (accAdd acc (scaled [(row m i).code, if r.wfmt < 3 then some ((plane i).scale 0) else none]
          (chunkSum ((List.range 128).map (fun k => ((row m i).elems.getD k .zero, (plane i).elem r.wfmt n k)))))).1
      reads (s.unitRanges core e) → (∀ i < stepK sw, 0 < i → (s.fetchPlane e.warp e.id r false ((p : Int) + i * incW iw).toNat).2 = false) →
      (∀ m < stepM sw, ∀ i < stepK sw, ∀ a ∈ rowBytes l U.afmt m (i * incA iw) ++ rowScale l U.afmt m (i * incA iw),
        s.spadBad e.block a 1 = false) →
      ∃ t, exec (.matrixOpExecute core) s = .next t ∧ t.mem = s.mem ∧ t.blocks = s.blocks ∧ (t.core core).mx.queue = q ∧
        (∀ m < stepM sw, m < 128 → ∀ n < width U, (t.core core).mx.read (cell (stepTile sw) m n) =
          (List.range (stepK sw)).foldl (fun acc i => chunk m n i acc) (U.read (cell (stepTile sw) m n))) ∧
        (∀ x, (∀ m < stepM sw, m < 128 → ∀ n < width U, x ≠ cell (stepTile sw) m n) → (t.core core).mx.read x = U.read x) ∧
        (t.core core).mx.active = plane (stepK sw - 1) ∧ (t.core core).mx.shadow.known = false ∧
        ∀ F, mfind s.flights e.flight = some F → ∃ G, mfind t.flights e.flight = some G ∧ G.ready = true ∧
          ∀ j < 4, ∀ i ∈ e.lanes, (F.dst + j, i, 0) ∈ G.vals) ∧
    (∀ l sw, e.op = .macc l sw → plain → fits (stepTile sw) →
      let place (m n : Nat) : Nat := layoutAddr l m (n / 32) 0 (4 * (n % 32))
      (∀ m < stepM sw, ∀ n < width U, s.spadBad e.block (place m n) 4 = false) →
      let sum (m n : Nat) : Nat × FlagSet :=
        Fmt.fp32.fadd .rne (U.read (cell (stepTile sw) m n)).toNat (leNat (s.spadRead e.block (place m n) 4))
      ∃ t, exec (.matrixOpExecute core) s = .next t ∧ t.mem = s.mem ∧ t.blocks = s.blocks ∧ (t.core core).mx.queue = q ∧
        (∀ m < stepM sw, ∀ n < width U, (t.core core).mx.read (cell (stepTile sw) m n) = BitVec.ofNat 32 (sum m n).1) ∧
        (∀ x, (∀ m < stepM sw, ∀ n < width U, x ≠ cell (stepTile sw) m n) → (t.core core).mx.read x = U.read x)) ∧
    (∀ l sw ofmt E, e.op = .mst l sw ofmt → ofmt < 4 → plain → mfind s.engines e.id = some E → (s.block? e.block).isSome = true →
      let size : Nat := if ofmt = 0 then 4 else if ofmt = 3 then 1 else 2
      let vals (m : Nat) : List FVal := (List.range (width U)).map (fun n => Fmt.fp32.decode (U.read (cell (stepTile sw) m n)).toNat)
      let scale (m : Nat) : Nat := (blockScale .e4m3 (vals m)).1
      let code (m n : Nat) : Nat :=
        let v := (vals m).getD n .zero
        if ofmt = 0 then (U.read (cell (stepTile sw) m n)).toNat
        else if ofmt = 1 then (Fmt.fp16.round .rne false v).1
        else if ofmt = 2 then (Fmt.bf16.round .rne false v).1
        else if scale m = 255 then 0 else (quantFloat .e4m3 (v.scale (127 - scale m))).1
      let spots : List Nat := (List.range (stepM sw)).flatMap (fun m =>
        (List.range (width U * size)).map (layoutAddr l m 0 0) ++ if ofmt = 3 then [layoutAddr l 128 0 0 m] else [])
      spots.Nodup →
      ∃ t, exec (.matrixOpExecute core) s = .next t ∧ t.mem = s.mem ∧ (t.core core).mx = { U with queue := q } ∧
        (∀ m < stepM sw, ∀ n < width U, ∀ j < size,
          t.spadRead e.block (layoutAddr l m 0 0 (size * n + j)) 1 = [BitVec.ofNat 8 (code m n / 256 ^ j)]) ∧
        (ofmt = 3 → ∀ m < stepM sw, t.spadRead e.block (layoutAddr l 128 0 0 m) 1 = [BitVec.ofNat 8 (scale m)]) ∧
        ∀ a, a ∉ spots → t.spadRead e.block a 1 = s.spadRead e.block a 1) ∧
    (U.err.isSome = true → (∀ a f, e.op ≠ .mcfg a f) → (∀ row tile, e.op ≠ .mrd row tile) → e.op.ofTap = false →
      ∃ t, exec (.matrixOpExecute core) s = .next t ∧ (t.core core).mx = { U with queue := q } ∧ t.mem = s.mem ∧ t.blocks = s.blocks) ∧
    (e.op = .mswap → U.err = none → ∃ t, exec (.matrixOpExecute core) s = .next t ∧
      (t.core core).mx = { U with active := U.shadow, shadow := U.active, queue := q } ∧ t.mem = s.mem ∧ t.blocks = s.blocks) ∧
    (∀ tile, e.op = .mzero tile → U.err = none → ∃ t, exec (.matrixOpExecute core) s = .next t ∧
      (∀ m < 128, ∀ n < width U, (t.core core).mx.read (cell tile m n) = 0) ∧
      (∀ x, (∀ m < 128, ∀ n < width U, x ≠ cell tile m n) → (t.core core).mx.read x = U.read x) ∧
      (t.core core).mx.queue = q ∧ (t.core core).mx.active = U.active ∧ t.mem = s.mem ∧ t.blocks = s.blocks) ∧
    (∀ row tile F, e.op = .mrd row tile → U.accPoison = [] → mfind s.flights e.flight = some F →
      ∃ t, exec (.matrixOpExecute core) s = .next t ∧ (t.core core).mx = { U with queue := q } ∧
        mfind t.flights e.flight = some { F with
          ready := true
          vals := e.lanes.map (fun i => (F.dst, i, if U.err.isSome ∨ width U ≤ i then 0 else U.read (cell tile row i))) } ∧
        t.mem = s.mem ∧ t.blocks = s.blocks)) ∧
  (∀ (s : State) (k id n : Nat) (W : Warp) (ops : List Nat) (e : Engine), mfind s.warps k = some W → s.buffered W = false →
    W.batches = [(n, ops, id)] → W.outs = [(3, id, false)] → (∀ o ∈ ops, s.unitPending o = false) → id ∉ ops →
    s.shadow W.block = false →
    mfind s.engines id = some e → e.cls = 3 →
    ∃ t, exec (.mxBatchComplete k) s = .next t ∧ (t.warp k).outs = [] ∧ mfind t.engines id = none ∧
      (∀ o ∈ ops, mfind t.engines o = none) ∧
      (t.warp k).fflags = W.fflags ||| ((e.flags ||| ops.foldl (fun f o => f ||| (((mfind s.engines o).map (·.flags)).getD 0)) 0) &&& 0x1F) ∧
      (t.warp k).regs = W.regs ∧ t.mem = s.mem)

/-- R143, R151 to R155, R159, R260 to R262: the tap instructions at D0. TAPBIND, FGATH and TAPGO come in this order in a block and
reach the tap unit, the last two counted in TP: each joins the unit's queue, of which the unit takes at once what it can. Where
the queue was empty TAPBIND is taken by a free unit, and FGATH and TAPGO enter the matrix unit's queue where the unit holds the
block's binding; else they stay. In the block's tap-handler warp TAPWAIT brings the number of held rows once nothing is left to
deliver or to run, and waits before; FEV makes the next event the current one and brings all ones, or brings 0 where none is
left; FREWR and FREL send the unit a rewrite and a release of the current event's row, which it performs at once where its queue
was empty. ADPQ sends a read of the table for each lane that names an adapter, and brings 2 to the others; one whose table has no
canonical address waits for its page (log entry 20). That a rewrite and a release are performed at once is the model's choice (DEDUCED, log
entry 33). -/
def Obligations.TapInstructions : Prop :=
  let here (c : Ctx) : Prop := c.Plain ∧ c.lanes ≠ []
  let handler (c : Ctx) : Prop := here c ∧ (c.s.block? c.W.block).any (fun B => B.handler == some c.k) = true
  let after (c : Ctx) (t : State) : TapUnit := (t.core c.W.core).tap
  let seq (T : TapUnit) (c : Ctx) : Nat := mget 0 T.seq c.W.block
  let entry (c : Ctx) (op : TapOp) : TapEntry := { op := op, id := c.s.nextId, warp := c.k, block := c.W.block }
  let quiet (c : Ctx) (t : State) : Prop := (t.warp c.k).regs = c.W.regs ∧ (t.warp c.k).pend = c.W.pend ∧ t.mem = c.s.mem ∧
    t.blocks = c.s.blocks ∧ t.flights = c.s.flights ∧
    ∀ i ∈ maskSlices c.m, i < c.W.slices.length → ((t.warp c.k).slice i).pc = c.next
  let sent (c : Ctx) (counts : Bool) (f : TapUnit → TapUnit) : State :=
    let s : State := { (c.s.modTap c.W.core f) with
      nextId := c.s.nextId + 1
      engines := if counts then minsert c.s.engines c.s.nextId
          { op := .tap, warp := c.k, block := c.W.block, cls := 6, stage := 1, rel := c.W.release, lead := c.lead } else c.s.engines }
    if counts then s.modWarp c.k (fun W => { W with outs := W.outs ++ [(6, c.s.nextId, false)] }) else s
  let reaches (c : Ctx) (t : State) (op : TapOp) (counts : Bool) (f : TapUnit → TapUnit) : Prop :=
    t = c.retire false ((sent c counts f).tapQueue c.W.core (entry c op))
  let counted (c : Ctx) (t : State) : Prop := (t.warp c.k).outs = c.W.outs ++ [(6, c.s.nextId, false)]
  let order (n : Nat) (c : Ctx) (T : TapUnit) : TapUnit := { T with seq := mput 0 T.seq c.W.block n }
  let bound (c : Ctx) : Prop := ∃ b, c.tap.binding = some b ∧ b.block = c.W.block
  let unbound (c : Ctx) : Prop := ∀ b, c.tap.binding = some b → b.block ≠ c.W.block
  let free (c : Ctx) : Prop := ∀ b, c.tap.binding = some b → b.done = true ∧ c.tap.heldRows = 0
  let busy (c : Ctx) : Prop := ∃ b, c.tap.binding = some b ∧ (b.done = false ∨ c.tap.heldRows ≠ 0) ∧
    (c.s.block? b.block).map (·.alive) = some true
  let joins (c : Ctx) (t : State) (op : MxOp) : Prop := (after c t).queue = [] ∧
    (t.core c.W.core).mx.queue = c.mx.queue ++ [{ op := op, id := c.s.nextId, warp := c.k, block := c.W.block }]
  let stays (c : Ctx) (t : State) (op : TapOp) : Prop := (after c t).queue = [entry c op] ∧
    (t.core c.W.core).mx.queue = c.mx.queue
  let inp (c : Ctx) : BitVec 96 := c.W.opLayout c.w.a c.lead
  let out (c : Ctx) : BitVec 96 := c.W.opLayout c.w.b c.lead
  let tap (c : Ctx) : DWord := pairOf (c.W.dReg c.w c.lead 0) (c.W.dReg c.w c.lead 1)
  let table (c : Ctx) : Nat := (c.c c.lead).toNat
  let d (c : Ctx) : Nat := c.w.d.toNat
  let idle (c : Ctx) : Prop := c.W.counter 6 = 0 ∧ ∀ e ∈ c.tap.queue, e.warp ≠ c.k
  let held (T : TapUnit) : Nat := (T.hold.filter (fun h => h.2.state == 1 || h.2.state == 2)).length
  let rows (c : Ctx) : Nat := if c.tap.binding.any (fun b => b.block == c.W.block) then held c.tap else 0
  let nothing (c : Ctx) : Prop := c.reports = [] ∧ ∀ b, c.tap.binding = some b → b.block = c.W.block → b.undelivered = []
  let rewritten (c : Ctx) (beta : Word) (row feature : Nat) : State :=
    (sent c false id).modTap c.W.core (fun T => { T with queue := T.queue ++ [entry c (.frewr beta row feature)] })
  let base (c : Ctx) : DWord := c.a64 c.lead
  let named (c : Ctx) : List Nat := c.lanes.filter (fun i => c.b i != 0xFFFFFFFF)
  let unnamed (c : Ctx) : List Nat := c.lanes.filter (fun i => c.b i == 0xFFFFFFFF)
  Runs (fun c => here c ∧ seq c.tap c = 0 ∧ layoutBad (inp c) = 0 ∧ layoutBad (out c) = 0 ∧ (tap c).toNat % 8 = 0 ∧
      table c % 8 = 0 ∧ table c + 0x1400 ≤ c.s.spadSize c.W.block) .tapbind .tapbind .l96
    (fun c t => let op := TapOp.bind (tap c) (inp c) (out c) (table c)
      reaches c t op false (order 1 c) ∧ (c.tap.queue = [] → quiet c t ∧ seq (after c t) c = 1 ∧
        (free c → (after c t).queue = [] ∧ (after c t).hold = [] ∧ (after c t).binding =
          some { block := c.W.block, warp := c.k, tap := tap c, inp := inp c, out := out c, table := table c }) ∧
        (busy c → stays c t op ∧ (after c t).binding = c.tap.binding ∧ (after c t).hold = c.tap.hold))) ∧
  Runs (fun c => here c ∧ seq c.tap c = 1 ∧ c.W.counter 6 < 15) .fgath .fgath .l64
    (fun c t => reaches c t .fgath true (order 2 c) ∧ (c.tap.queue = [] → quiet c t ∧ seq (after c t) c = 2 ∧ counted c t ∧
      (bound c → joins c t .fgath) ∧ (unbound c → stays c t .fgath))) ∧
  Runs (fun c => here c ∧ seq c.tap c = 2 ∧ c.W.counter 6 < 15) .tapgo .tapgo .l64
    (fun c t => reaches c t .tapgo true (order 0 c) ∧ (c.tap.queue = [] → quiet c t ∧ seq (after c t) c = 0 ∧ counted c t ∧
      (bound c → joins c t .tapgo) ∧ (unbound c → stays c t .tapgo))) ∧
  Runs (fun c => handler c ∧ idle c ∧ nothing c) .tapwait .tapwait .l64 (fun c t => c.Sends t
    (c.result 7 (c.lanes.map (fun i => (d c, i, BitVec.ofNat 32 (rows c)))) [d c])) ∧
  Runs (fun c => handler c ∧ c.W.counter 6 ≠ 0 ∧ ∀ b, c.tap.binding = some b → b.block = c.W.block →
      b.undelivered = [] ∨ (b.reported = true ∧ c.reports ≠ [])) .tapwait .tapwait .l64 (fun c t =>
    c.OnlyWarp t ∧ mfind t.warps c.k = some (c.stopped c.W .tap)) ∧
  (∀ b row words rest, Runs (fun c => handler c ∧ c.tap.binding = some b ∧ b.block = c.W.block ∧ b.undelivered = (row, words) :: rest)
    .fev .fev .l64 (fun c t =>
      (after c t).binding = some { b with undelivered := rest, current := some (row, words) } ∧
      mfind (after c t).hold row = (mfind c.tap.hold row).map (fun h => { h with
        ndel := h.ndel + 1, state := if h.state = 1 ∧ h.ndel + 1 = h.nev then 2 else h.state }) ∧
      (t.warp c.k).taddr = BitVec.ofNat 64 (row + if (mfind c.tap.hold row).any (·.lost) then 128 else 0) ∧
      [(t.warp c.k).tinfo0, (t.warp c.k).tinfo1, (t.warp c.k).tinfo2, (t.warp c.k).tinfo3] =
        [words.getD 0 0, words.getD 1 0, words.getD 2 0, words.getD 3 0] ∧
      mfind t.flights c.s.nextId = some (c.result 7 (c.lanes.map (fun i => (d c, i, 0xFFFFFFFF))) [d c]) ∧
      (t.warp c.k).regs = c.W.regs ∧ t.mem = c.s.mem ∧ t.blocks = c.s.blocks)) ∧
  Runs (fun c => handler c ∧ ∀ b, c.tap.binding = some b → b.block = c.W.block → b.undelivered = []) .fev .fev .l64
    (fun c t => c.Sends t (c.result 7 (c.lanes.map (fun i => (d c, i, 0))) [d c])) ∧
  (∀ b row words, Runs (fun c => handler c ∧ c.tap.binding = some b ∧ b.block = c.W.block ∧ b.current = some (row, words))
    .frewr .frewr .l64 (fun c t =>
      let beta := c.W.opF32 c.w.a c.lead
      let feature := (words.getD 2 0).toNat % 2 ^ 24
      let op := TapOp.frewr beta row feature
      reaches c t op false id ∧ (c.tap.queue = [] →
        (∀ s' f, (rewritten c beta row feature).rewriteRow c.W.core { warp := c.k, op := c.s.nextId } b beta row feature = .ok (s', f) →
          (after c t).queue = [] ∧ t.blocks = s'.blocks ∧ t.mem = c.s.mem ∧ (t.warp c.k).regs = c.W.regs ∧
          (t.warp c.k).fflags = c.W.fflags ||| (f.bits &&& 0x1F)) ∧
        (∀ p, (rewritten c beta row feature).rewriteRow c.W.core { warp := c.k, op := c.s.nextId } b beta row feature = .error (.page p) →
          stays c t op ∧ quiet c t)))) ∧
  (∀ b row words, Runs (fun c => handler c ∧ c.tap.binding = some b ∧ b.block = c.W.block ∧ b.current = some (row, words))
    .frel .frel .l64 (fun c t => reaches c t (.frel row) false (fun T => T.settleRow row) ∧
      (c.tap.queue = [] → quiet c t ∧ (after c t).queue = [] ∧
        (after c t).binding = some { b with undelivered := b.undelivered.filter (fun e => e.1 != row), current := none } ∧
        (∀ h, mfind c.tap.hold row = some h → ∃ n, mfind (after c t).hold row = some { h with state := 0, ndel := n }) ∧
        ∀ r, r ≠ row → mfind (after c t).hold r = mfind c.tap.hold r))) ∧
  Runs (fun c => here c ∧ c.W.counter 0 < 255 ∧ (base c).toNat % 64 = 0 ∧ (base c).toNat < 2 ^ 48 ∧ (c.trans (base c).toNat).isSome = true)
    .adpq .adpq .l96 (fun c t => c.Sends t
      { warp := c.k, cls := 0, dst := d c, land := .words 2, regs := [d c, d c + 1]
        accs := (named c).map (c.access 8 0 (fun _ => base c) (fun i => .adpq (c.b i)))
        vals := (unnamed c).foldr (fun i acc => (d c, i, 2) :: (d c + 1, i, 0) :: acc) [] }) ∧
  Runs (fun c => here c ∧ c.W.counter 0 < 255 ∧ (base c).toNat % 64 = 0 ∧ 2 ^ 48 ≤ (base c).toNat ∧ c.W.mode = .user ∧ named c ≠ [])
    .adpq .adpq .l96 (fun c t => mfind t.warps c.k = some (c.stopped c.W (.pages [(base c).toNat])) ∧
      t.mem = c.s.mem ∧ t.blocks = c.s.blocks ∧ t.flights = c.s.flights)

/-- R143 to R146, R148, R150, R155, R327: the tap unit's events. A free unit takes a TAPBIND with its hold table empty; it
performs a release by freeing the row; FGATH leaves in the active plane what it has read; a TAPGO whose record FGATH found
unsound writes nothing and reports it to the block's tap-handler warp, and another leaves what its rows came to; WR of a ring moves past a record once the
record's completion time has passed. -/
def Obligations.TapUnitRuns : Prop :=
  let gone (s : State) (b : Binding) : Bool := ((s.block? b.block).bind (·.handler)).any (fun k => (s.warp k).ended)
  let tells (s : State) (b : Binding) : Bool := b.reported || ((s.block? b.block).bind (·.handler)).isSome
  ∀ (s : State) (core : Nat) (C : Core), s.core core = C →
    (∀ (e : TapEntry) (tap : DWord) (inp out : BitVec 96) (table : Nat), C.tap.queue = [e] → e.op = .bind tap inp out table →
      C.tap.binding = none → ∃ t, exec (.tapbindBegin core) s = .next t ∧
        (t.core core).tap = { C.tap with
          binding := some { block := e.block, warp := e.warp, tap := tap, inp := inp, out := out, table := table }
          hold := []
          outbox := []
          queue := [] } ∧ t.mem = s.mem ∧ t.warps = s.warps) ∧
    (∀ (e : TapEntry) (b : Binding) (row : Nat), C.tap.queue = [e] → e.op = .frel row → C.tap.binding = some b → b.block = e.block →
      ∃ t, exec (.tapbindBegin core) s = .next t ∧
        (t.core core).tap = { C.tap with hold := mupdate C.tap.hold row (fun h => { h with state := 0 }), queue := [] } ∧ t.mem = s.mem) ∧
    (∀ (e : MxEntry) (q : List MxEntry) (b b' : Binding) (x : Engine), C.mx.queue = e :: q → e.op = .fgath → C.tap.binding = some b →
      s.buffered (s.warp e.warp) = false → s.gather core e b = .ok b' → mfind s.engines e.id = some x → x.cls = 6 →
      (s.warp e.warp).outs = [(6, e.id, false)] → (mfind s.warps e.warp).isSome = true →
      ∃ t, exec (.fgathComplete core) s = .next t ∧
        (t.core core).tap.binding = some { b' with gathered := true, seed := s.fresh } ∧ (t.core core).mx.queue = q ∧
        (t.core core).mx.active = gatheredPlane b'.rd b'.group0 s.fresh ∧ (t.core core).mx.acc = C.mx.acc ∧
        (t.warp e.warp).outs = [] ∧ mfind t.engines e.id = none ∧ t.mem = s.mem ∧ t.blocks = s.blocks) ∧
    (∀ (e : MxEntry) (q : List MxEntry) (b : Binding) (x : Engine), C.mx.queue = e :: q → e.op = .tapgo → C.tap.binding = some b →
      s.buffered (s.warp e.warp) = false → b.bad ≠ 0 → mfind s.engines e.id = some x → x.cls = 6 →
      (s.warp e.warp).outs = [(6, e.id, false)] → (mfind s.warps e.warp).isSome = true →
      ∃ t, exec (.tapgoComplete core) s = .next t ∧ (t.core core).mx.queue = q ∧
        (t.core core).tap.binding = some { b with
          done := true, undelivered := [], reported := tells s b, current := if gone s b then none else b.current } ∧
        (t.core core).tap.hold = [] ∧ (∀ B, s.block? b.block = some B → t.block? b.block = some { B with tapReports :=
          if B.handler.isNone then B.tapReports else B.tapReports ++ [(b.tap, b.bad, 0xFFFF, ((b.plan.map (·.req)).dedup).length)] }) ∧
        (∀ j, j ≠ b.block → t.block? j = s.block? j) ∧ t.mem = s.mem ∧ (t.warp e.warp).outs = [] ∧ mfind t.engines e.id = none) ∧
    (∀ (e : MxEntry) (q : List MxEntry) (b b' : Binding) (x : Engine) (tile : Tile) (report : Option (Nat × Nat × Nat)),
      C.mx.queue = e :: q → e.op = .tapgo → C.tap.binding = some b → s.buffered (s.warp e.warp) = false →
      s.tileGo core e b = .ok (tile, b', report) → tile.outs = [] → gone s b' = false → mfind s.engines e.id = some x → x.cls = 6 → s.watched x.warp = false →
      (s.warp e.warp).outs = [(6, e.id, false)] → (mfind s.warps e.warp).isSome = true →
      ∃ t, exec (.tapgoComplete core) s = .next t ∧ (t.core core).mx.queue = q ∧
        (t.core core).tap.binding = some { b' with
          done := true, undelivered := tile.undelivered, reported := if report.isSome then tells s b' else b'.reported } ∧
        (t.core core).tap.hold = tile.holds ∧
        (∀ B r, s.block? b'.block = some B → B.handler.isSome = true → report = some r →
          (t.block? b'.block).map (·.tapReports) = some (B.tapReports ++ [(b'.tap, r)])) ∧
        ((s.block? x.block).isSome = true → t.spad x.block = tile.writes.foldl (fun m r => spadPut m r.1 r.2) (s.spad x.block)) ∧
        t.mem = s.mem ∧ (t.warp e.warp).outs = [] ∧ mfind t.engines e.id = none) ∧
    (∀ (ring : DWord) (n : Nat) (time : DWord) (rest : List (DWord × Nat × DWord)), C.tap.ringWait = (ring, n, time) :: rest →
      (∀ d < 4, time.toNat ≤ (s.dieTime d).toNat) → mfind s.holds (ring.toNat / 32) = none → PlainMem s →
      (∀ j < 4, s.homeless (ring.toNat + j) = false) →
      ∃ t, exec (.eventRingAdvance core) s = .next t ∧ (t.core core).tap = { C.tap with ringWait := rest } ∧
        t.bytesAt ring.toNat 4 = leBytes 4 ((n + 1) % 2 ^ 32) ∧
        ∀ a, a < ring.toNat ∨ ring.toNat + 4 ≤ a → t.byteAt a = s.byteAt a)

/-- R66, R233, R315, R323: the address faults of loads, stores, scratchpad accesses and atomics, where every acting lane fails and
every issuing slice has one: a misaligned address (kind 1), a scratchpad byte beyond the block's allocation (2), a global
address that is not canonical (5), an atomic's address in a decoded window (6). A store to a page that may not be written
raises the write-protection fault. Nothing else happens, and each slice reports its lowest lane.

R161, R315, R326: in a block that does not own the matrix unit its instructions raise the matrix-ownership fault, which
names the owner's block; of the owner's, reserved bits and a batch number that names none raise the matrix operand fault
with reasons 4 and 6, and in the unit's error state MWAIT and MRD its reason, with the record's address.

R151, R152, R261, R315: the tap instructions' faults: out of their order in a block, in a warp that is not the block's
tap-handler warp, and with no event current. A TAPWAIT that has an event to deliver raises the feature trap in place of
completing: the event is delivered and becomes the current one, and the trap's words are those of R152. One whose block has a
report of a binding raises the tap record fault first, with the record's address, the reason, the request and how many.

R278, R315: TLBINV, CTXSV, CTXLD, QEND and the evicting CACHEOP are the firmware's: in a user warp each raises the privilege
fault with its opcode and has no effect. -/
def Obligations.UnitFaults : Prop :=
  (let all (c : Ctx) (p : Nat → Prop) : Prop := c.fork? = none ∧ c.lanes.filter c.W.txLive = [] ∧
     (∀ j ∈ maskSlices c.m, ∃ i ∈ c.lanes, i / 4 = j) ∧ ∀ i ∈ c.lanes, p i
   let size (c : Ctx) : Nat := [1, 2, 4, 8, 16, 1, 2, 16].getD (c.mod % 8) 16
   let word (c : Ctx) : Nat := if c.w.mod.getLsbD 4 then 8 else 4
   let off (c : Ctx) (i : Nat) : DWord := c.a64 i + (c.b i).signExtend 64
   let spad (c : Ctx) (i : Nat) : DWord := (c.a i + c.b i).setWidth 64
   let end_ (c : Ctx) : Nat := c.s.spadSize c.W.block
   let canon (a : DWord) : Prop := a.toNat < 2 ^ 48
   let rs (n : Ctx → Nat) (va : Ctx → Nat → DWord) (kind : Ctx → Nat → Nat) (c : Ctx) : List TrapRec :=
     latch (c.lanes.map (fun i => { c.flt i 0x10 with taddr := va c i, info0 := BitVec.ofNat 32 (kind c i), info1 := BitVec.ofNat 32 (n c) }))
   let global (n : Ctx → Nat) (va : Ctx → Nat → DWord) : Ctx → List TrapRec := rs n va (fun c i => if (va c i).toNat % n c ≠ 0 then 1 else 5)
   let badGlobal (n : Ctx → Nat) (va : Ctx → Nat → DWord) (c : Ctx) : Prop := all c (fun i => (va c i).toNat % n c ≠ 0 ∨ ¬ canon (va c i))
   let badSpad (c : Ctx) : Prop := all c (fun i => (spad c i).toNat % size c ≠ 0 ∨ end_ c < (spad c i).toNat + size c)
   let spadRs : Ctx → List TrapRec := rs size spad (fun c i => if (spad c i).toNat % size c ≠ 0 then 1 else 2)
   let view (c : Ctx) : Prop := all c (fun i => (c.a64 i).toNat % word c = 0 ∧ canon (c.a64 i) ∧
     ∃ t, c.trans (c.a64 i).toNat = some t ∧ c.s.decodedView (t.phys (c.a64 i).toNat) ≠ none)
   let barred (n : Ctx → Nat) (va : Ctx → Nat → DWord) (c : Ctx) : Prop := all c (fun i => (va c i).toNat % n c = 0 ∧ canon (va c i) ∧
     ∃ t, c.trans (va c i).toNat = some t ∧ t.rdo = true)
   let wprot (n : Ctx → Nat) (va : Ctx → Nat → DWord) (c : Ctx) : List TrapRec :=
     latch (c.lanes.map (fun i => { c.flt i 0x11 with taddr := va c i, info1 := BitVec.ofNat 32 (n c) }))
   Faults (badGlobal size off) .ld .ld .l96 (global size off) ∧ Faults (badGlobal size off) .st .st .l96 (global size off) ∧
   Faults (badGlobal word Ctx.a64) .amo .amo .l96 (global word Ctx.a64) ∧ Faults (badGlobal word Ctx.a64) .red .red .l96 (global word Ctx.a64) ∧
   Faults badSpad .lds .lds .l96 spadRs ∧ Faults badSpad .sts .sts .l96 spadRs ∧
   Faults view .amo .amo .l96 (rs word Ctx.a64 (fun _ _ => 6)) ∧ Faults view .red .red .l96 (rs word Ctx.a64 (fun _ _ => 6)) ∧
   Faults (barred size off) .st .st .l96 (wprot size off) ∧
   Faults (fun c => barred word Ctx.a64 c ∧ ∀ i ∈ c.lanes, c.NoView c.a64) .red .red .l96 (wprot word Ctx.a64)) ∧
  (let here (c : Ctx) : Prop := c.fork? = none ∧ c.lanes ≠ [] ∧ c.lanes.filter c.W.txLive = []
   let other (c : Ctx) : Prop := here c ∧ c.mx.owner ≠ some c.W.block
   let bid (c : Ctx) : Word := match c.mx.owner.bind c.s.block? with
     | none => 0xFFFFFFFF
     | some B => (c.s.warp (B.warps.headD 0)).bid
   let ownership (c : Ctx) : List TrapRec := [{ c.recLead 0x20 with info0 := bid c }]
   (∀ (o : Op) (I : Fields → Instr) (len : Len), (o, I, len) ∈ [(Op.mlds, Instr.mlds, Len.l64), (.mswap, .mswap, .l64),
       (.mzero, .mzero, .l64), (.mloop, .mloop, .l96), (.mrd, .mrd, .l64), (.mst, .mst, .l96), (.macc, .macc, .l96),
       (.mfence, .mfence, .l64), (.mwait, .mwait, .l64), (.mmeta, .mmeta, .l64)] → Faults other I o len ownership) ∧
   Faults (fun c => here c ∧ c.mx.owner = some c.W.block ∧ c.missing c.mxRecords = [] ∧
       (c.mxv.record = none ∨ tileOk c.tileWidth ((c.a c.lead).toNat % 8) = true) ∧ c.a c.lead >>> 3 ≠ 0) .mzero .mzero .l64
     (fun c => [{ c.recLead 0x21 with info0 := 4, info1 := c.a c.lead }]) ∧
   Faults (fun c => here c ∧ c.mx.owner = some c.W.block ∧ c.missing c.mxRecords = [] ∧
       ∀ b ∈ c.W.batches, c.W.batchNo ≥ b.1 + 16 ∨ b.1 % 2 ^ 16 ≠ (c.a c.lead).toNat % 2 ^ 16) .mwait .mwait .l64
     (fun c => [{ c.recLead 0x21 with info0 := 6, info1 := c.a c.lead &&& 0xFFFF }]) ∧
   (∀ (reason : Nat) (addr : DWord) (o : Op) (I : Fields → Instr), (o, I) ∈ [(Op.mwait, Instr.mwait), (.mrd, .mrd)] →
     Faults (fun c => here c ∧ c.mx.owner = some c.W.block ∧ c.s.shadow c.W.block = false ∧ c.s.buffered c.W = false ∧
       c.missing c.mxRecords = [] ∧ c.mx.err = some (reason, addr) ∧
       (o = .mwait → c.batchOf.isSome = true) ∧ (o = .mrd → c.a c.lead &&& 0xFFFFF880 = 0 ∧
         (c.mxv.record = none ∨ tileOk c.tileWidth ((c.a c.lead).extractLsb' 8 3).toNat = true))) I o .l64
     (fun c => [{ c.recLead 0x21 with taddr := addr, info0 := BitVec.ofNat 32 reason }]))) ∧
  (let here (c : Ctx) : Prop := c.fork? = none ∧ c.lanes ≠ [] ∧ c.lanes.filter c.W.txLive = []
   let handler (c : Ctx) : Prop := (c.s.block? c.W.block).any (fun B => B.handler == some c.k) = true
   let seq (c : Ctx) : Nat := mget 0 c.tap.seq c.W.block
   let rs (cause info : Nat) (c : Ctx) : List TrapRec := [{ c.recLead cause with info0 := BitVec.ofNat 32 info }]
   let idle (c : Ctx) : Prop := ∀ b, c.tap.binding = some b → b.block = c.W.block → b.current = none
   Faults (fun c => here c ∧ (seq c = 1 ∨ seq c = 2)) .tapbind .tapbind .l96 (rs 0x30 3) ∧
   Faults (fun c => here c ∧ seq c ≠ 1) .fgath .fgath .l64 (rs 0x30 1) ∧
   Faults (fun c => here c ∧ seq c ≠ 2) .tapgo .tapgo .l64 (rs 0x30 2) ∧
   (∀ (o : Op) (I : Fields → Instr), (o, I) ∈ [(Op.tapwait, Instr.tapwait), (.fev, .fev), (.frewr, .frewr), (.frel, .frel)] →
     Faults (fun c => ¬ handler c) I o .l64 (fun c => [{ c.recWord 0x31 with info0 := BitVec.ofNat 32 o.code.toNat }])) ∧
   Faults (fun c => here c ∧ handler c ∧ idle c) .frewr .frewr .l64 (rs 0x32 1) ∧
   Faults (fun c => here c ∧ handler c ∧ idle c) .frel .frel .l64 (rs 0x32 2) ∧
   (∀ (s : State) (g : Issue) (w : Fields) (tap : DWord) (reason req n : Nat) (rest : List (DWord × Nat × Nat × Nat)), s.issue = some g →
     let c := s.issued g .tapwait .l64 w
     c.Clear → here c → handler c → s.buffered c.W = false → c.W.counter 6 = 0 → c.reports = (tap, reason, req, n) :: rest →
     exec (.tapwait w) s = .next (c.fault (c.s.modBlock c.W.block (fun B => { B with tapReports := rest })) [{ c.recLead 0x33 with
       taddr := tap, info0 := BitVec.ofNat 32 reason, info1 := BitVec.ofNat 32 req, info2 := BitVec.ofNat 32 n }])) ∧
   ∀ (s : State) (g : Issue) (w : Fields) (b : Binding) (row : Nat) (words : List Word) (rest : List (Nat × List Word)), s.issue = some g →
     let c := s.issued g .tapwait .l64 w
     c.Clear → here c → handler c → s.buffered c.W = false → c.reports = [] → c.tap.binding = some b → b.block = c.W.block →
     b.undelivered = (row, words) :: rest →
     ∃ t, (t.core c.W.core).tap = { c.tap with
         binding := some { b with undelivered := rest, current := some (row, words) }
         hold := mupdate c.tap.hold row Hold.deliver } ∧
       t.warps = c.s.warps ∧ t.mem = c.s.mem ∧
       exec (.tapwait w) s = .next (c.fault t [{
         slice := 0, lane := 0, cause := 0x40
         taddr := BitVec.ofNat 64 (row + if (mfind c.tap.hold row).any (·.lost) then 128 else 0)
         info0 := words.getD 0 0, info1 := words.getD 1 0, info2 := words.getD 2 0, info3 := words.getD 3 0
         pc := c.pc, whole := true, mask := c.m }])) ∧
  (let rs (c : Ctx) : List TrapRec := [{ c.recWord 0x58 with info0 := BitVec.ofNat 32 c.op.code.toNat }]
   let user (c : Ctx) : Prop := c.W.mode = .user
   Faults user .tlbinv .tlbinv .l96 rs ∧ Faults user .ctxsv .ctxsv .l96 rs ∧ Faults user .ctxld .ctxld .l96 rs ∧
   Faults user .qend .qend .l64 rs ∧ Faults (fun c => user c ∧ c.mod % 4 = 3) .cacheop .cacheop .l96 rs)

/-! ### Graphs, collectives and the system -/

/-- R95, R131, R263 to R268: EMIT, LAUNCH, SIGADD and NDONE at D0. EMIT copies its record from the scratchpad into the next place
of its node's queue at issue (DESIGN CHOICE, log entry 48) and brings 1, or brings 0 where no accepting node lies at the address; LAUNCH is a release at PACKAGE scope
and enters the child queue, or brings 0 where that is full; SIGADD is a release at SYSTEM scope and sends one atomic addition
for each acting lane; NDONE marks the warp, frees the places of its cluster with the last of its warps, whose bytes are
undefined from then on while every other byte stays, and does nothing outside a stream node. -/
def Obligations.GraphInstructions : Prop :=
  let d (c : Ctx) : Nat := c.w.d.toNat
  let here (c : Ctx) : Prop := c.Plain ∧ c.lanes ≠ []
  let release (scope : Nat) (W : Warp) : List Nat := (List.range 7).map (fun j => W.release.getD j 0 + if j ≤ scope then 1 else 0)
  let node (c : Ctx) : DWord := c.a64 c.lead
  let rec_ (c : Ctx) : DWord := c.a64 c.lead
  let sig (c : Ctx) : DWord := c.b64 c.lead
  let emits (c : Ctx) (i : Nat) (tr : Trans) (rsz : Nat) : Prop := c.Plain ∧ c.lanes = [i] ∧ c.W.counter 1 < 255 ∧
    (node c).toNat % 64 = 0 ∧ (node c).toNat < 2 ^ 48 ∧ c.trans (node c).toNat = some tr ∧
    (c.b i).toNat % 16 = 0 ∧ (c.b i).toNat + rsz ≤ c.s.spadSize c.W.block ∧ c.s.spadBad c.W.block (c.b i).toNat rsz = false
  let may (c : Ctx) : Prop := here c ∧ c.s.released c.k c.s.nextId 4 = true ∧ (rec_ c).toNat % 256 = 0 ∧ (sig c).toNat % 8 = 0 ∧
    (rec_ c).toNat < 2 ^ 48 ∧ (sig c).toNat < 2 ^ 48
  let child (c : Ctx) (t : State) (v : Word) : Prop :=
    mfind t.flights c.s.nextId = some (c.result 7 (c.lanes.map (fun i => (d c, i, v))) [d c]) ∧
    mfind t.warps c.k = some { c.onward c.W with release := release 4 c.W } ∧ t.mem = c.s.mem
  let place (x : Node) : Nat := x.inq.toNat + x.rsz * (x.nq % x.cap)
  let others (c : Ctx) : Prop := msorted c.s.warps = true ∧ ∀ x ∈ c.s.warps, x.1 = c.k ∨ x.2.launch ≠ c.W.launch ∨ x.2.ended = true ∨ x.2.ndone = true
  (∀ i tr, Runs (fun c => emits c i tr (leNat (c.s.bytesAt (tr.phys (node c).toNat + 0x20) 2)) ∧
      c.s.nodeAt (c.s.partOfWarp c.W) (tr.phys (node c).toNat) = none) .emit .emit .l96 (fun c t =>
    c.Sends t { warp := c.k, cls := 1, accs := [], vals := [(d c, i, 0)], regs := [d c] })) ∧
  (∀ i tr g n x Q pm, Runs (fun c => emits c i tr x.rsz ∧ c.s.nodeAt (c.s.partOfWarp c.W) (tr.phys (node c).toNat) = some (g, n) ∧
      c.s.node? g n = some x ∧ x.accepts = true ∧ (mfind c.s.graphs g).map (·.queue) = some Q ∧ x.useQ < x.cap ∧ PlainMem c.s ∧
      c.missing (c.emitRanges.map (·.1)) = [] ∧ c.emitHeld = [] ∧
      ∀ j < x.rsz, (c.s.cached (c.s.queueCore Q) Q (place x + j)).map (fun t => t.phys (place x + j)) = some (pm + j) ∧
        c.s.homeless (pm + j) = false) .emit .emit .l96 (fun c t =>
    t.bytesAt pm x.rsz = c.s.spadRead c.W.block (c.b i).toNat x.rsz ∧
    (∀ a, a < pm ∨ pm + x.rsz ≤ a → t.byteAt a = c.s.byteAt a) ∧
    (∃ r, t.node? g n = some { x with nq := x.nq + 1, useQ := x.useQ + 1, recs := x.recs ++ [r] }) ∧
    (∃ f, mfind t.flights c.s.nextId = some f ∧ f.warp = c.k ∧ f.cls = 1 ∧ f.regs = [d c] ∧ f.vals = [(d c, i, 1)]) ∧
    mfind t.warps c.k = some { c.onward c.W with outs := c.W.outs ++ [(1, c.s.nextId, false)] })) ∧
  (∀ P, Runs (fun c => may c ∧ mfind c.s.parts (c.s.partOfWarp c.W) = some P ∧ P.children.length < 64) .launch .launch .l96 (fun c t =>
    child c t 0xFFFFFFFF ∧
    mfind t.parts (c.s.partOfWarp c.W) = some { P with children := P.children ++ [(c.k, rec_ c, sig c, c.s.nextId)] } ∧
    ∀ L, mfind c.s.launches c.W.launch = some L → mfind t.launches c.W.launch = some { L with children := L.children + 1 })) ∧
  (∀ P, Runs (fun c => may c ∧ mfind c.s.parts (c.s.partOfWarp c.W) = some P ∧ 64 ≤ P.children.length) .launch .launch .l96 (fun c t =>
    child c t 0 ∧ t.parts = c.s.parts ∧ t.launches = c.s.launches)) ∧
  Runs (fun c => here c ∧ c.W.counter 1 < 255 ∧ c.s.released c.k c.s.nextId 6 = true ∧ c.Reach c.a64 8 true) .sigadd .sigadd .l96 (fun c t =>
    mfind t.flights c.s.nextId = some { warp := c.k, cls := 1, inOrder := true
                                        accs := c.lanes.map (c.access 8 0 c.a64 (fun i => .rmw 0 true (c.b64 i) 0)) } ∧
    (∀ n, n ≠ c.s.nextId → mfind t.flights n = mfind c.s.flights n) ∧
    mfind t.warps c.k = some { c.onward c.W with release := release 6 c.W, outs := c.W.outs ++ [(1, c.s.nextId, false)] } ∧
    t.mem = c.s.mem ∧ t.l2 = c.s.l2) ∧
  Runs (fun c => here c ∧ c.W.stream = none) .ndone .ndone .l64 (fun c t => c.Went t (fun _ => c.next) id) ∧
  (∀ L g n q o x Q, Runs (fun c => here c ∧ c.W.stream.isSome = true ∧ others c ∧ mfind c.s.launches c.W.launch = some L ∧
      L.stream = some (g, n, q, o) ∧ c.s.node? g n = some x ∧ (mfind c.s.graphs g).map (·.queue) = some Q ∧ PlainMem c.s) .ndone .ndone .l64
      (fun c t =>
    (∀ a, (∀ p ∈ L.places, ∀ j < x.rsz, c.s.physOf Q (p.toNat + j) ≠ some a) → t.byteAt a = c.s.byteAt a) ∧
    mfind t.warps c.k = some { c.onward c.W with ndone := true } ∧
    t.node? g n = some { x with useQ := x.useQ - q, useO := x.useO - o } ∧
    mfind t.launches c.W.launch = some { L with stream := some (g, n, 0, 0) } ∧ t.flights = c.s.flights))

/-- R276, R379: VIEWRD writes what its selector names to every active lane, in a package that is a member of a view and in one
that is not; any selector not listed is a reserved field pattern. -/
def Obligations.ViewRead : Prop :=
  let sel (c : Ctx) : Nat := c.w.a.bits.toNat
  let z (c : Ctx) : Zinc := c.s.zinc
  Computes (fun c => sel c ≤ 4 ∧ (z c).member = true) .viewrd .viewrd .l64 4 1 (fun c _ _ =>
    [BitVec.ofNat 32 (z c).view, BitVec.ofNat 32 (z c).leader, BitVec.ofNat 32 (z c).self, BitVec.ofNat 32 (z c).bitmap.length, 0].getD (sel c) 0)
    (fun _ => 0) ∧
  Computes (fun c => (z c).member = false) .viewrd .viewrd .l64 4 1 (fun c _ _ =>
    if sel c = 0 then (z c).jview else if sel c = 2 then BitVec.ofNat 32 (z c).self else if sel c = 4 then 1 else 0) (fun _ => 0) ∧
  (∃ v : Ctx → Word, Computes (fun c => 8 ≤ sel c ∧ sel c < 16 ∧ (z c).member = true) .viewrd .viewrd .l64 4 1 (fun c _ _ => v c) (fun _ => 0) ∧
    ∀ c j, 8 ≤ sel c → sel c < 16 → (z c).member = true → j < 32 → (v c).getLsbD j = (z c).bitmap.contains (32 * (sel c - 8) + j)) ∧
  ∀ w : Fields, Op.fieldsOk .viewrd w = true → w.a.bits.toNat ≤ 4 ∨ (8 ≤ w.a.bits.toNat ∧ w.a.bits.toNat ≤ 15)

/-- R269 to R271, R273, R275 to R277, R379: the collectives and view instructions at D0. A data collective that passes its checks
takes the next ticket of its warp and the next operation number of its communicator, counts in CL and brings the ticket;
CWAIT brings the status of an operation whose completion its warp has seen, and waits for one that it has not; VJOIN counts in
ST and, in a package that is no member, sends a JOIN to each linked package; VACK stores the view number and restarts the
communicator's numbering. That VJOIN and VACK act at issue, and that a JOIN goes to every linked package, is the model's choice
(DEDUCED, log entry 21). -/
def Obligations.Collectives : Prop :=
  let d (c : Ctx) : Nat := c.w.d.toNat
  let here (c : Ctx) : Prop := c.Plain ∧ c.lanes ≠ []
  let a (c : Ctx) : DWord := c.a64 c.lead
  let each (c : Ctx) (v : Word) : List (Nat × Nat × Word) := c.lanes.map (fun i => (d c, i, v))
  let z (c : Ctx) : Zinc := c.s.zinc
  let time (c : Ctx) : DWord := c.s.dieTime (c.W.core / 192) + BitVec.ofNat 64 Config.epsilon
  let noted (c : Ctx) (t : State) (v : Word) : Prop :=
    mfind t.flights c.s.nextId = some { warp := c.k, cls := 1, accs :=
      [{ lane := c.lead, va := 0, pa := 0, n := 0, op := .note, done := true, gwct := time c, gwctd := time c }] } ∧
    mfind t.flights (c.s.nextId + 1) = some (c.result 7 (each c v) [d c]) ∧
    mfind t.warps c.k = some { c.onward c.W with outs := c.W.outs ++ [(1, c.s.nextId, false)] } ∧ t.mem = c.s.mem
  (∀ (kind : Nat) (o : Op) (I : Fields → Instr) (x : Comm), (kind, o, I) ∈ [(0, Op.cred, Instr.cred), (1, .cgath, .cgath), (2, .cbcst, .cbcst), (3, .ca2a, .ca2a)] →
    Runs (fun c => here c ∧ c.W.counter 5 < 15 ∧ c.comm? = some x ∧ c.missing [(a c).toNat] = [] ∧ (kitOf o).word c = [] ∧ (kitOf o).check c = [])
      I o .l128 (fun c t =>
        let ms := (z c).members x
        let num := mget 1 (z c).nextOp x.cid
        let ticket := c.W.ticket + 1
        (∃ e, mfind t.engines c.s.nextId = some e ∧ e.cls = 5 ∧ e.stage = 1 ∧ e.sent = false ∧ e.warp = c.k ∧
          e.op = .coll kind c.w.mod (a c) (c.b64 c.lead) (c.c64 c.lead) c.w.imm.toNat c.w.ext.toNat x.cid num
            (ms.findIdx (· == (z c).self)) ms.length x.view ticket ms) ∧
        mget 1 t.zinc.nextOp x.cid = num + 1 ∧
        (t.warp c.k).ticket = ticket ∧ (t.warp c.k).tickets = (ticket, c.s.nextId) ::
          c.W.tickets.filter (fun x => decide (ticket < x.1 + 16) || c.s.ticketKept x.2) ∧
        (t.warp c.k).outs = c.W.outs ++ [(5, c.s.nextId, false)] ∧
        mfind t.flights (c.s.nextId + 1) = some (c.result 7 (each c (BitVec.ofNat 32 ticket)) [d c]) ∧
        t.mem = c.s.mem ∧ t.blocks = c.s.blocks)) ∧
  (∀ op e, Runs (fun c => here c ∧ c.ticketOp = some (op, e) ∧ e.stage = 2 ∧ (∀ o ∈ c.W.outs, o.2.1 ≠ op) ∧
      c.missing [e.commOf.toNat] = [] ∧ (kitOf c.op).check c = []) .cwait .cwait .l64
    (fun c t => c.Sends t (c.result 7 (each c e.status) [d c]))) ∧
  (∀ op e, Runs (fun c => here c ∧ c.ticketOp = some (op, e) ∧ (e.stage ≠ 2 ∨ ∃ o ∈ c.W.outs, o.2.1 = op) ∧
      c.missing [e.commOf.toNat] = [] ∧ (kitOf c.op).check c = []) .cwait .cwait .l64
    (fun c t => c.OnlyWarp t ∧ mfind t.warps c.k = some (c.stopped c.W (.ticket op)))) ∧
  Runs (fun c => here c ∧ c.W.counter 1 < 255 ∧ (z c).member = false ∧ (z c).joining = false) .vjoin .vjoin .l64 (fun c t =>
    t.zinc = { z c with joining := true } ∧
    (∀ x, x ∈ t.sent.map (·.what) ↔ x ∈ c.s.sent.map (·.what) ∨
      ∃ p, x = .join p (z c).self (z c).jview.toNat ∧ p < 256 ∧ ∃ y ∈ c.s.island.peers, y.2 = p) ∧
    noted c t (z c).jview) ∧
  Runs (fun c => here c ∧ c.W.counter 1 < 255 ∧ (z c).member = true) .vjoin .vjoin .l64
    (fun c t => t.zinc = z c ∧ t.sent = c.s.sent ∧ noted c t (BitVec.ofNat 32 (z c).view)) ∧
  (∀ x tr, Runs (fun c => here c ∧ c.W.counter 1 < 255 ∧ (z c).member = true ∧ (c.b c.lead).toNat = (z c).view ∧ (a c).toNat % 64 = 0 ∧
      (a c).toNat < 2 ^ 48 ∧ c.trans (a c).toNat = some tr ∧ tr.rdo = false ∧ c.comm? = some x ∧ (∀ e ∈ c.s.engines, e.2.reweigh = false))
    .vack .vack .l64 (fun c t =>
      mfind t.flights c.s.nextId = some { warp := c.k, cls := 1, accs :=
        [{ lane := c.lead, va := a c, pa := tr.phys (a c).toNat, n := 4, op := .write (leBytes 4 (z c).view) }] } ∧
      mget 1 t.zinc.nextOp x.cid = 1 ∧ mget 1 t.zinc.expect x.cid = 1 ∧
      (z c).self ∈ mget [] t.zinc.acked ((z c).view * 64 + x.cid) ∧ t.sent = (c.s.send (.vack x.cid (z c).view)).sent ∧ t.mem = c.s.mem))

/-- R270 to R274, R277, R305, R306, R271 Table 6: the view unit's events. A contribution of the current view joins the others
once and is acknowledged, another is discarded. An operation that is its communicator's next sends each other member the part of its
source that it needs, and completes at D0 once every member's contribution has come: its destination holds what Table 6 and R272 give it
and nothing else changes, its status is ready, and the next operation of the communicator may run. That a contribution goes whole to each
member, and that an operation settles once every member has been heard, is the model's choice (DEDUCED, log entry 21). -/
def Obligations.CollectiveEvents : Prop :=
  (∀ (s : State) (m : CollMsg), s.zinc.member = true → m.view = s.zinc.view → mget 1 s.zinc.expect m.cid ≤ m.op →
    (∀ x ∈ s.zinc.inbox, x.cid ≠ m.cid ∨ x.op ≠ m.op ∨ x.rank ≠ m.rank ∨ x.ack ≠ m.ack) →
    let t : State := { s with zinc := { s.zinc with inbox := s.zinc.inbox ++ [m] } }
    exec (.collMessageReceive m) s = .next (if m.ack then t else t.send (.collAck m.cid m.op m.rank))) ∧
  (∀ (s : State) (m x : CollMsg), x ∈ s.zinc.inbox → x.cid = m.cid → x.op = m.op → x.rank = m.rank → x.ack = m.ack →
    exec (.collMessageReceive m) s = .next s) ∧
  (∀ (s : State) (m : CollMsg), s.zinc.member = false ∨ m.view ≠ s.zinc.view ∨ m.op < mget 1 s.zinc.expect m.cid →
    exec (.collMessageReceive m) s = .next s) ∧
  ∀ (s : State) (op : Nat) (e : Engine) (W : Warp) (kind : Nat) (mods : BitVec 6) (comm src dst : DWord) (count root cid num rank n view ticket : Nat)
    (members : List Nat),
    let kinds : Nat := mods.toNat % 4
    let type : Nat := mods.toNat / 4 % 4
    let rooted : Bool := mods.getLsbD 4
    let size : Nat := if kind = 0 then (if type = 1 ∨ type = 2 then 2 else 4) else 2 ^ kinds
    let len := count * size
    let parms : List Nat := [kind, mods.toNat % 32, count, if kind = 2 ∨ (kind = 0 ∧ rooted = true) then root else 0]
    kind < 4 → mfind s.engines op = some e → e.op = .coll kind mods comm src dst count root cid num rank n view ticket members → e.cls = 5 →
    e.stage = 1 → e.reweigh = false → e.mirror = none → e.status = 0 → mfind s.warps e.warp = some W →
    s.buffered W = false → s.watched e.warp = false → s.badSectors = [] → s.badHbm = [] → s.holds = [] → PlainMem s → W.outs = [(5, op, false)] →
    (∀ f ∈ s.flights, f.2.warp ≠ e.warp) → s.zinc.member = true → s.zinc.view = view → mget 1 s.zinc.expect cid = num →
    (∀ p ∈ members, p ∈ mget [] s.zinc.acked (view * 64 + cid)) →
    (let reads : Nat := if kind = 2 then (if rank = root then len else 0) else if kind = 3 then n * len else len
     let bytes : List Byte := (s.fetchBytes e.warp op src.toNat reads).1
     let part (j : Nat) : CollMsg :=
       { view := view, cid := cid, op := num, rank := rank, parms := parms, bad := []
         data := if kind = 3 then (bytes.drop (j * len)).take len else if kind = 0 ∧ rooted = true ∧ j ≠ root then [] else bytes }
     e.sent = false → s.fetchLacks e.warp e.asked [(src.toNat, reads)] = [] →
     ∃ t, exec (.collOpComplete op) s = .next t ∧ mfind t.engines op = some { e with sent := true } ∧
       t.zinc = { s.zinc with inbox := s.zinc.inbox ++ [part rank] } ∧
       (∀ p j, (p, j) ∈ members.zipIdx → j ≠ rank → Sent.coll p (part j) ∈ t.sent.map (·.what)) ∧ t.mem = s.mem ∧ t.warps = s.warps) ∧
    ∀ (part : Nat → CollMsg) (pd : Nat),
      -- CRED under `.root` writes the root's destination only
      let total : Nat := if kind = 0 ∧ rooted = true ∧ rank ≠ root then 0 else if kind = 1 ∨ kind = 3 then n * len else len
      e.sent = true → 0 < n → n ≤ 256 → rank < n → (kind = 2 ∨ (kind = 0 ∧ rooted = true) → root < n) →
      (∀ x ∈ s.zinc.inbox, x.cid = cid ∧ x.op = num ∧ (x.ack = false → x.parms = parms)) →
      (∀ j < n, s.zinc.inbox.find? (fun x => x.rank == j && !x.ack) = some (part j) ∧ (part j).bad = [] ∧
        (kind ≠ 2 ∨ j = root → (part j).data.length = len)) →
      (kind = 0 → rooted = true → rank ≠ root → ∃ x ∈ s.zinc.inbox, x.rank = root ∧ x.ack = true) →
      (∀ j < total, (∃ t, s.engTrans e (dst.toNat + j) = some t ∧ t.rdo = false ∧ t.phys (dst.toNat + j) = pd + j) ∧ s.homeless (pd + j) = false) →
      dst.toNat + total ≤ 2 ^ 48 →
      ∃ t, exec (.collOpComplete op) s = .next t ∧
        (∀ a, a < pd ∨ pd + total ≤ a → t.byteAt a = s.byteAt a) ∧ (t.warp e.warp).outs = [] ∧
        (mfind t.engines op).map (fun x => (x.stage, x.status)) = some (2, BitVec.ofNat 32 (view % 2 ^ 24 * 256)) ∧
        mget 1 t.zinc.expect cid = num + 1 ∧ t.zinc.inbox = [] ∧ t.blocks = s.blocks ∧
        (kind = 2 → ∀ i < len, t.byteAt (pd + i) = (part root).data.getD i 0) ∧
        (kind = 1 ∨ kind = 3 → ∀ j < n, ∀ i < len, t.byteAt (pd + j * len + i) = (part j).data.getD i 0) ∧
        -- R272: level 0 holds the elements in rank order and identities above them; each pair of a level makes one of the next
        (kind = 0 → total = len → ∀ k < count, ∀ (y : Nat → Nat → Word) (levels : Nat), n ≤ 2 ^ levels → (0 < levels → 2 ^ (levels - 1) < n) →
          (∀ j < 2 ^ levels, y 0 j = if n ≤ j then
              (if type = 3 then [0, 0, 0x7FFFFFFF, 0x80000000].getD kinds 0 else [0x80000000, 0x80000000, 0x7F800000, 0xFF800000].getD kinds 0)
            else
              let x := leNat (((part j).data.drop (k * size)).take size)
              BitVec.ofNat 32 (if type = 1 then (Fmt.bf16.widen .fp32 x).1 else if type = 2 then (Fmt.fp16.widen .fp32 x).1 else x)) →
          (∀ l < levels, ∀ j < 2 ^ (levels - l - 1), y (l + 1) j =
            let a := y l (2 * j)
            let b := y l (2 * j + 1)
            if type = 3 then
              (if kinds = 2 then BitVec.ofInt 32 (min a.toInt b.toInt)
               else if kinds = 3 then BitVec.ofInt 32 (max a.toInt b.toInt) else a + b)
            else BitVec.ofNat 32 (if kinds = 2 then Fmt.fp32.minmax false a.toNat b.toNat
              else if kinds = 3 then Fmt.fp32.minmax true a.toNat b.toNat else Fmt.fp32.fadd .rne a.toNat b.toNat).1) →
          let F := if type = 1 then Fmt.bf16 else if type = 2 then Fmt.fp16 else Fmt.fp32
          let v := Fmt.fp32.decode (y levels 0).toNat
          let r := leNat (t.bytesAt (pd + k * size) size)
          let rat (x : FVal) : Rat := x.sm * (2 : Rat) ^ x.ex
          let fin (x : FVal) : Prop := x.isNan = false ∧ x.isInf = false
          (type = 3 → r = (y levels 0).toNat) ∧
          (type ≠ 3 → kinds ≠ 1 ∨ v.isNan = true ∨ v.isInf = true ∨ v.isZero = true → r = (F.round .rne false v).1) ∧
          (type ≠ 3 → kinds = 1 → fin v → |rat v / n| ≤ rat (F.decode F.maxFinite) → fin (F.decode r) ∧
            ∀ code < 2 ^ F.width, fin (F.decode code) →
              |rat v / n - rat (F.decode r)| ≤ |rat v / n - rat (F.decode code)| ∧
              (|rat v / n - rat (F.decode r)| = |rat v / n - rat (F.decode code)| → rat (F.decode code) ≠ rat (F.decode r) → r % 2 = 0)))

/-- R62, R279, R280, Table 8: CTLR brings the control word that its number names, CTLW writes the bits of `k.wctl` and `k.fflags`
that a program may write, and `k.tpc` in a handler. At D1 and above a read of the lease clock raises the determinism trap, and
outside a handler a write of `k.tpc` the control-word fault. -/
def Obligations.ControlWords : Prop :=
  let n (c : Ctx) : Nat := c.w.a.bits.toNat
  let m (c : Ctx) : Nat := c.w.b.bits.toNat
  let here (c : Ctx) : Prop := c.Plain ∧ c.lanes ≠ []
  let writes (c : Ctx) (t : State) (W : Warp) : Prop := c.OnlyWarp t ∧ mfind t.warps c.k = some W
  Computes (fun c => n c ≤ 0x10) .ctlr .ctlr .l64 4 1 (fun c _ i =>
    [BitVec.ofNat 32 i, BitVec.ofNat 32 (i / 4), c.W.wid, c.W.bid, BitVec.ofNat 32 c.W.detlvl, BitVec.ofNat 32 c.W.svc, c.W.ncnt, c.mx.mxstall,
      c.W.wctl, c.W.fflags, c.W.tcause, c.W.tslice, c.W.tlane, c.W.tinfo0, c.W.tinfo1, c.W.tinfo2, c.W.tinfo3].getD (n c) 0) (fun _ => 0) ∧
  Computes (fun c => 0x20 ≤ n c ∧ n c ≤ 0x26 ∧ (n c = 0x24 → c.W.detlvl = 0)) .ctlr .ctlr .l64 4 2 (fun c j _ =>
    let v : DWord := [c.W.tpc, c.W.taddr, c.W.gwct, c.W.gwctd, c.s.dieTime (c.W.core / 192), c.W.args, c.W.nin].getD (n c - 0x20) 0
    if j = 0 then loHalf v else hiHalf v) (fun _ => 0) ∧
  Faults (fun c => n c = 0x24 ∧ c.W.detlvl ≠ 0) .ctlr .ctlr .l64 (fun c => [{ c.recWord 0x50 with info0 := 1, info1 := BitVec.ofNat 32 c.op.code.toNat }]) ∧
  Runs (fun c => here c ∧ m c = 0x08) .ctlw .ctlw .l64
    (fun c t => writes c t { c.onward c.W with wctl := (c.W.wctl &&& ~~~(6 : Word)) ||| (c.a c.lead &&& 6) }) ∧
  Runs (fun c => here c ∧ m c = 0x09) .ctlw .ctlw .l64
    (fun c t => writes c t { c.onward c.W with fflags := (c.W.fflags &&& ~~~(0x1F : Word)) ||| (c.a c.lead &&& 0x1F) }) ∧
  Runs (fun c => here c ∧ m c = 0x20 ∧ c.W.tmode = true) .ctlw .ctlw .l64
    (fun c t => writes c t { c.onward c.W with tpc := c.a64 c.lead, tpcSet := true }) ∧
  Faults (fun c => m c = 0x20 ∧ c.W.tmode = false) .ctlw .ctlw .l64 (fun c => [{ c.recWord 0x5A with info0 := 0x20 }])

/-- R134, R135, R282 to R285, R343, R366: the system instructions in the mode that may run them, at D0. TLBINV removes the
translations it names and is a release at PACKAGE scope; CACHEOP drops its line from the caches and leaves every byte as it is;
CTXSV saves the block it names once that has drained and CTXLD restores what was saved onto the core it names, all ones where
they did and 0 where there is none (where a saved context is found, and the 0 of an area without one, are the model's choice: DEDUCED,
DESIGN CHOICE, log entry 23); QEND completes an open packet; SIGR goes on once its read has returned; RASW hands the
engine a record; QEND and RASW count in ST; HALT kills its warp with a record of cause 0x103. -/
def Obligations.SystemInstructions : Prop :=
  let here (c : Ctx) : Prop := c.Plain ∧ c.lanes ≠ []
  let fw (c : Ctx) : Prop := here c ∧ c.W.mode = .firmware
  let d (c : Ctx) : Nat := c.w.d.toNat
  let a (c : Ctx) : Nat := (c.a64 c.lead).toNat
  let each (c : Ctx) (v : Word) : List (Nat × Nat × Word) := c.lanes.map (fun i => (d c, i, v))
  let area (c : Ctx) : Prop := fw c ∧ a c % 4096 = 0 ∧ a c < 2 ^ 48
  let sel (c : Ctx) : Prop := fw c ∧ ((c.b c.lead).extractLsb' 0 8).toNat ≤ 191 ∧ c.b c.lead >>> 13 = 0
  let core (c : Ctx) : Nat := c.W.core / 192 * 192 + (c.b c.lead).toNat
  let time (c : Ctx) : DWord := c.s.dieTime (c.W.core / 192) + BitVec.ofNat 64 Config.epsilon
  let note (c : Ctx) : Flight := { warp := c.k, cls := 1, accs :=
    [{ lane := c.lead, va := 0, pa := 0, n := 0, op := .note, done := true, gwct := time c, gwctd := time c }] }
  let counted (c : Ctx) (t : State) : Prop := mfind t.flights c.s.nextId = some (note c) ∧
    mfind t.warps c.k = some { c.onward c.W with outs := c.W.outs ++ [(1, c.s.nextId, false)] }
  let release (W : Warp) : List Nat := (List.range 7).map (fun j => W.release.getD j 0 + if j ≤ 4 then 1 else 0)
  let covers (c : Ctx) (t : Trans) : Bool :=
    if c.mod % 4 = 0 then 0 < (c.b c.lead).toNat && t.queue == (c.c c.lead).toNat && decide (t.vpage * pageSize t.size < a c + 4096 * (c.b c.lead).toNat) &&
      decide (a c < (t.vpage + 1) * pageSize t.size)
    else if c.mod % 4 = 1 then t.queue == (c.c c.lead).toNat else true
  let line (c : Ctx) : Nat := a c / 128 * 128
  Runs (fun c => fw c ∧ c.s.walks = [] ∧ c.s.released c.k c.s.nextId 4 = true ∧ (c.mod % 4 < 2 → (c.c c.lead).toNat ≤ 4095)) .tlbinv .tlbinv .l96
    (fun c t => t.tlbs = c.s.tlbs.map (fun l => (l.1, l.2.filter (fun x => !covers c x))) ∧ mfind t.warps c.k = some { c.onward c.W with release := release c.W } ∧
      t.mem = c.s.mem ∧ t.l2 = c.s.l2 ∧ t.copies = c.s.copies) ∧
  (∀ tr, Runs (fun c => here c ∧ c.mod % 4 ≤ 2 ∧ a c < 2 ^ 48 ∧ c.s.storesOut c.k c.s.nextId = false ∧ 0 < (c.b c.lead).toNat ∧
      a c % 128 + (c.b c.lead).toNat ≤ 128 ∧ c.trans (line c) = some tr ∧ PlainMem c.s)
    .cacheop .cacheop .l96 (fun c t => (∀ x, t.byteAt x = c.s.byteAt x) ∧
      (c.mod % 4 = 1 → ∀ j < 4, mfind t.copies (copyKey c.W.core (tr.phys (line c) / 32 + j)) = none ∧
        mfind t.copies (copyKey (768 + c.W.core / 192) (tr.phys (line c) / 32 + j)) = none) ∧
      (c.mod % 4 = 2 → ∀ l, mfind t.l2 (tr.phys (line c) / 128) = some l → l.dirty = 0) ∧
      mfind t.warps c.k = some (c.onward c.W))) ∧
  Runs (fun c => sel c ∧ ∀ b ∈ c.s.blocks, b.2.alive = true → b.2.resident = true →
      b.2.core = c.W.core / 192 * 192 + ((c.b c.lead).extractLsb' 0 8).toNat → b.2.slot ≠ ((c.b c.lead).extractLsb' 8 5).toNat)
    .ctxsv .ctxsv .l96 (fun c t => c.Sends t (c.result 7 (each c 0) [d c])) ∧
  (∀ b, Runs (fun c => sel c ∧ area c ∧ c.selBlock = some b ∧ (let s := (c.s.stopBlock b).abortTxs b
      s.drained b = true ∧ ((s.abortBlock b).block? b).any (·.alive) = true)) .ctxsv .ctxsv .l96 (fun c t =>
    (t.block? b).map (·.resident) = some false ∧ (mfind t.contexts (a c)).map (·.block) = some b ∧
    ∃ n, mfind t.flights n = some (c.result 7 (each c 0xFFFFFFFF) [d c]))) ∧
  Runs (fun c => area c ∧ (c.b c.lead).toNat ≤ 191 ∧ (c.s.contextAt (a c) = none ∨ c.s.loadBlock c.trans (core c) (a c) = none)) .ctxld .ctxld .l96
    (fun c t => c.Sends t (c.result 7 (each c 0) [d c])) ∧
  (∀ s', Runs (fun c => area c ∧ (c.b c.lead).toNat ≤ 191 ∧ c.s.loadBlock c.trans (core c) (a c) = some s') .ctxld .ctxld .l96 (fun c t =>
    t.blocks = s'.blocks ∧ t.cores = s'.cores ∧ t.contexts = s'.contexts ∧
    mfind t.flights s'.nextId = some (c.result 7 (each c 0xFFFFFFFF) [d c]) ∧
    ∃ key x B V, c.s.contextAt (a c) = some (key, x, B) ∧ mfind t.contexts key = none ∧ t.block? x.block = some V ∧
      V.resident = true ∧ V.core = core c ∧ V.slot = c.s.freeSlot (core c) ∧ V.spad = spadPut [] 0 (c.s.bytesAt (a c + 256) B.size) ∧
      V.warps = B.warps ∧ V.size = B.size ∧ V.launch = B.launch ∧ V.cluster = B.cluster)) ∧
  (∀ Q n, Runs (fun c => fw c ∧ c.W.counter 1 < 255 ∧ mfind c.s.queues (c.a c.lead).toNat = some Q ∧ Q.open_ = [n] ∧ n % 2 ^ 32 = (c.b c.lead).toNat ∧
      Q.sigs = [] ∧ Q.done = [] ∧ Q.rptr = BitVec.ofNat 64 n) .qend .qend .l64 (fun c t =>
    mfind t.queues (c.a c.lead).toNat = some { Q with open_ := [], rptr := Q.rptr + 1 } ∧ counted c t)) ∧
  Runs (fun c => fw c ∧ c.W.counter 1 < 255 ∧ ∀ Q, mfind c.s.queues (c.a c.lead).toNat = some Q → ∀ n ∈ Q.open_, n % 2 ^ 32 ≠ (c.b c.lead).toNat) .qend .qend .l64
    (fun c t => c.Sends t (note c)) ∧
  Runs (fun c => here c ∧ c.Reach c.a64 8 false ∧ ∃ n, c.wake = some (.fence none true n)) .sigr .sigr .l64
    (fun c t => c.Went t (fun _ => c.next) id) ∧
  Runs (fun c => here c ∧ c.Reach c.a64 8 false ∧ c.W.counter 0 < 255 ∧ c.wake = none) .sigr .sigr .l64 (fun c t =>
    mfind t.flights c.s.nextId = some { warp := c.k, cls := 0, dst := d c, land := .words 2, regs := [d c, d c + 1]
                                        accs := c.lanes.map (c.access 8 2 c.a64 (fun _ => .read)) } ∧
    mfind t.warps c.k = some { c.stopped c.W (.fence none true c.s.nextId) with outs := c.W.outs ++ [(0, c.s.nextId, false)] } ∧ t.mem = c.s.mem) ∧
  (∀ tr, Runs (fun c => here c ∧ c.W.counter 1 < 255 ∧ c.W.mode = .user ∧ a c % 64 = 0 ∧ a c < 2 ^ 48 ∧ (∀ f ∈ c.s.flights, f.2.warp ≠ c.k) ∧
      (∀ j < 64, c.s.cached c.W.core c.W.queue (a c + j) = some tr)) .rasw .rasw .l96 (fun c t =>
    let b := c.s.bytesAt (tr.phys (a c)) 64
    -- R365: behind the records that came before it, and behind those of its cycle from lower cores
    let r : RasRec := {
      type := 0xF0, sub := (b.getD 1 0).toNat, sw := true, core := c.W.core, tick := (c.s.time, c.s.cycle)
      raw := (b.drop 0x10).take 0x18 ++ List.replicate 8 0 ++ (b.drop 0x30).take 0x10 }
    let old := (c.s.die (c.W.core / 192)).rasQueue
    (∃ l l', old = l ++ l' ∧ (t.die (c.W.core / 192)).rasQueue = l ++ r :: l' ∧
      (∀ x ∈ l, x.tick ≠ r.tick ∨ x.source ≤ c.W.core) ∧ (∀ x, l'.head? = some x → x.tick = r.tick ∧ c.W.core < x.source)) ∧
    counted c t ∧ t.mem = c.s.mem)) ∧
  Runs (fun c => here c ∧ c.W.ended = false ∧ ∀ L, mfind c.s.launches c.W.launch = some L → L.redund = false ∧ L.stream = none) .halt .halt .l64 (fun c t =>
    (t.warp c.k).killed = true ∧ (t.warp c.k).ended = true ∧ t.mem = c.s.mem ∧
    ∃ r ∈ (t.die (c.W.core / 192)).rasQueue, r.type = 1 ∧ r.cause = 0x103 ∧ r.wid = c.W.wid ∧ r.bid = c.W.bid)

/-- R45: trap entry. A warp outside TMODE with no open transaction, one latched cause and a registered handler whose code
object is sound and fits: program counters, counters and the working set's interval are saved and the set is written back, v0 to
v3 are copied to the shadow words, the trap control words are filled, TMODE is set, and every slice that has not exited starts
at the handler's entry with every counter zero; no register changes and nothing outside the warp: the results still on their way have
landed (DEDUCED, log entry 15). A TRYWAIT that a slice waits at ends there: its lanes receive what their words give and the slice will go on
behind it (R100).

R46, R47, R281, R315: TRAP raises its cause with the next instruction's address in `k.tpc`, its own in `k.taddr` and its
immediate in `k.tinfo_0`, and with a registered handler the warp stands in it. ERET in a handler restores v0 to v3, the
program counters and the counters, clears TMODE and lets the working set be fetched again; the faulting slices go on at
`k.tpc` if the handler has written it; outside TMODE a user warp's ERET raises the ERET fault. A trap in TMODE, without a
handler, or into a handler that needs more registers kills the warp with a record of cause 0x105, 0x104 or 0x106. -/
def Obligations.Traps : Prop :=
  (∀ (s : State) (k : Nat) (W : Warp) (r : TrapRec) (Q : Queue) (h : Nat) (b : List Byte) (H : CodeHead),
     mfind s.warps k = some W → W.tmode = false → W.tx = none → r.cause < 0x100 → mfind s.queues W.queue = some Q →
     s.virtNat W.queue (Q.handlers.toNat + 8 * r.cause) 8 = some h → h ≠ 0 → s.virtBytes W.queue h 128 = some b →
     codeHead b = some H → H.regs ≤ W.regCount → (∀ x ∈ W.slices, x.tests = none) →
     let t := s.trap k [r]
     let V := t.warp k
     t = { s with warps := t.warps } ∧ (∀ j, j ≠ k → mfind t.warps j = mfind s.warps j) ∧
     V.savePc = W.slices ∧ V.saveCnt = W.cnt ∧ V.saveWorking = W.working ∧ V.working = [] ∧
     (∀ q < 4, ∀ i < 64, mget 0 V.shadow (q * 64 + i) = W.settled q i) ∧
     [V.tcause, V.tslice, V.tlane, V.tinfo0, V.tinfo1, V.tinfo2, V.tinfo3] =
       [BitVec.ofNat 32 r.cause, BitVec.ofNat 32 r.slice, BitVec.ofNat 32 r.lane, r.info0, r.info1, r.info2, r.info3] ∧
     V.tpc = r.pc ∧ V.taddr = r.taddr ∧ V.wctl = W.wctl ||| 8 ∧ (∀ i, mget 0 V.cnt i = 0) ∧ V.fflags = W.fflags ∧
     (∀ i < W.slices.length, V.slice i = if (W.slice i).exited then W.slice i
       else { W.slice i with pc := BitVec.ofNat 64 (h + H.entry), wait := none, woken := false }) ∧
     ∀ q, ∀ i < 64, V.settled q i = W.settled q i) ∧
  (∀ (s : State) (k : Nat) (W : Warp) (r : TrapRec) (entry : DWord) (regs : Nat), mfind s.warps k = some W → r.cause < 0x100 →
     W.slices.length ≤ 16 → W.tx = none → W.pend = [] → s.handlerFor W r.cause = .ok (entry, regs) → s.testsBad k = none →
     let V := (s.trap k [r]).warp k
     ∀ (i : Nat) (x : Slice) (l : List (Nat × DWord × Nat × Word)) (dst : Nat) (next : DWord), W.slices[i]? = some x →
       x.tests = some (l, dst, next) →
       (∃ sv, V.savePc[i]? = some sv ∧ sv.pc = next ∧ sv.wait = none) ∧
       ∀ y ∈ l, y.1 / 4 = i → i < 16 → (∀ z ∈ l, z.1 = y.1 → z = y) →
         V.settled dst y.1 = if BitVec.ofNat 32 (leNat (s.bytesAt y.2.2.1 4)) ≠ y.2.2.2 then 0xFFFFFFFF else 0) ∧
  (let acts (c : Ctx) (i l : Nat) : Prop := i ∈ maskSlices c.m ∧ c.lanes.find? (fun x => x / 4 == i) = some l ∧
     ∀ x ∈ c.lanes, i ≤ x / 4
   let handler (c : Ctx) (cause : Nat) (entry : DWord) : Prop := ∃ Q h b H, mfind c.s.queues c.W.queue = some Q ∧
     c.s.virtNat c.W.queue (Q.handlers.toNat + 8 * cause) 8 = some h ∧ h ≠ 0 ∧ c.s.virtBytes c.W.queue h 128 = some b ∧
     codeHead b = some H ∧ H.regs ≤ c.W.regCount ∧ entry = BitVec.ofNat 64 (h + H.entry)
   let moved (W : Warp) (i : Nat) : Prop := ∃ r, W.current = some r ∧ W.tpcSet = true ∧ (if r.whole then inMask r.mask i = true else i = r.slice)
   let killed (s : State) (k : Nat) (W : Warp) (r : TrapRec) (cause : Nat) : Prop :=
     let t := s.trap k [r]
     (t.warp k).killed = true ∧ (t.warp k).ended = true ∧
       ((∀ L, mfind s.launches W.launch = some L → L.stream = none) → t.mem = s.mem) ∧ ∃ x ∈ (t.die (W.core / 192)).rasQueue, x.type = 1 ∧ x.cause = cause ∧ x.wid = W.wid ∧ x.va = r.taddr
   (∀ i l entry, Runs (fun c => c.Plain ∧ acts c i l ∧ c.W.tmode = false ∧ c.W.held = [] ∧ handler c 0x60 entry ∧
       ∀ x ∈ c.W.slices, x.tests = none) .trap .trap .l64
     (fun c t => c.OnlyWarp t ∧
       let V := t.warp c.k
       V.tmode = true ∧ [V.tcause, V.tslice, V.tlane, V.tinfo0] =
         [0x60, BitVec.ofNat 32 i, BitVec.ofNat 32 l, (c.w.a.bits).setWidth 32] ∧ V.tpc = c.next ∧ V.taddr = c.pc ∧
       (∀ j, inMask c.m j = true → j < c.W.slices.length → (V.savePc.getD j ⟨0, true, none, false, 0⟩).pc = c.next) ∧
       ∀ j < c.W.slices.length, (c.W.slice j).exited = false → (V.slice j).pc = entry)) ∧
   Runs (fun c => c.Plain ∧ c.lanes ≠ [] ∧ c.W.tmode = true ∧ c.W.latched = [] ∧ c.W.savePc.length = c.W.slices.length ∧
       msorted c.W.shadow = true ∧ (∀ e ∈ c.W.shadow, e.1 < 256) ∧ ∀ h ∈ c.s.holds, h.2.1 ≠ c.k) .eret .eret .l64 (fun c t => c.OnlyWarp t ∧
     let V := t.warp c.k
     (∀ q < 4, ∀ i < 64, V.reg q i = mget 0 c.W.shadow (q * 64 + i)) ∧
     (∀ q, 4 ≤ q → ∀ i < 64, V.reg q i = c.W.settled q i) ∧
     V.cnt = c.W.saveCnt ∧ V.working = c.W.saveWorking ∧ V.fast = c.W.saveWorking.isEmpty ∧ V.wctl = c.W.wctl &&& ~~~(8 : Word) ∧
     (∀ i < c.W.slices.length, (c.W.slice i).exited = true → (V.slice i).exited = true ∧ (V.slice i).pc = (c.W.slice i).pc) ∧
     ∀ (i : Nat) (sv : Slice), (c.W.slice i).exited = false → c.W.savePc[i]? = some sv →
       (moved c.W i → (V.slice i).pc = c.W.tpc ∧ (V.slice i).wait = none) ∧
       (¬ moved c.W i → (V.slice i).pc = sv.pc ∧ (V.slice i).wait = sv.wait)) ∧
   Faults (fun c => c.W.tmode = false ∧ c.W.mode = .user) .eret .eret .l64 (fun c => [c.recWord 0x59]) ∧
   ∀ (s : State) (k : Nat) (W : Warp) (r : TrapRec) (Q : Queue), mfind s.warps k = some W → W.ended = false → W.twinOf = none →
     r.cause < 0x100 → (∀ L, mfind s.launches W.launch = some L → L.redund = false) → mfind s.queues W.queue = some Q →
     let entry := s.virtNat W.queue (Q.handlers.toNat + 8 * r.cause) 8
     (W.tmode = true → killed s k W r 0x105) ∧
     (W.tmode = false → entry = some 0 → killed s k W r 0x104) ∧
     ∀ h b, W.tmode = false → entry = some h → h ≠ 0 → s.virtBytes W.queue h 128 = some b →
       (codeHead b = none ∨ ∃ H, codeHead b = some H ∧ W.regCount < H.regs) → killed s k W r 0x106)

/-! ### Events -/

/-- R24, R29, R31, R95, R100, R106, R108, R220, R292, R337, R338: the events for which slices and warps wait. Each marks the
slices whose wait it ends and no other: a REGANG whose slices have all come, a full barrier phase, a fence with nothing left to
wait for, a store to a word of a TRYWAIT, the end of its hint. A working set is prefetched, writing back another warp's where
room lacks. A grace period completes once no warp is left in it, after the pushes that it covers. An expired watchdog raises
its trap. -/
def Obligations.WaitEvents : Prop :=
  let woken (x : Slice) : Slice := { x with woken := true }
  let only (s t : State) (k : Nat) : Prop := t = { s with warps := t.warps } ∧ ∀ j, j ≠ k → mfind t.warps j = mfind s.warps j
  (∀ (s : State) (k : Nat) (W : Warp) (addr : DWord), mfind s.warps k = some W → W.slices.length ≤ 16 →
    ∃ t, exec (.regangRelease k addr) s = .next t ∧ only s t k ∧ ∀ i < W.slices.length,
      ((∀ m, (W.slice i).wait ≠ some (.regang addr m)) → (t.warp k).slice i = W.slice i) ∧
      ∀ m, (W.slice i).wait = some (.regang addr m) → (W.slice i).exited = false →
        ((∀ j < 16, inMask m j = true → (W.slice j).exited = true ∨ ∃ m', (W.slice j).wait = some (.regang addr m')) →
          (t.warp k).slice i = woken (W.slice i)) ∧
        ((∃ j < 16, inMask m j = true ∧ (W.slice j).exited = false ∧ ∀ m', (W.slice j).wait ≠ some (.regang addr m')) →
          (t.warp k).slice i = W.slice i)) ∧
  (∀ (s : State) (b n : Nat) (B : Block), mfind s.blocks b = some B → msorted s.warps = true → (B.bar n).used = true →
    (∀ k ∈ (B.bar n).arrived, s.buffered (s.warp k) = false) →
    let full := if (B.bar n).expect = 0 then ∀ k ∈ B.warps, (s.warp k).ended = true ∨ k ∈ (B.bar n).arrived
      else (B.bar n).expect ≤ (B.bar n).arrived.length
    let wk (x : Slice) : Slice := if x.wait = some (.barrier n) then woken x else x
    -- a counted barrier keeps the slices that have executed it of warps that have not arrived
    (full → ∃ t, exec (.barrierPhaseComplete b n) s = .next t ∧ t = { s with warps := t.warps, blocks := t.blocks } ∧
      t.bar b n = (if (B.bar n).expect = 0 ∨ (B.bar n).here = [] then {} else { B.bar n with arrived := [] }) ∧
      (∀ m, m ≠ n → t.bar b m = s.bar b m) ∧
      ∀ k W, mfind s.warps k = some W → mfind t.warps k = some (if W.block = b ∧ W.ended = false ∧
          ((B.bar n).expect = 0 ∨ s.rootOf 4 k ∈ (B.bar n).arrived)
        then { W with slices := W.slices.map wk, savePc := W.savePc.map wk } else W)) ∧
    (¬ full → exec (.barrierPhaseComplete b n) s = .next s)) ∧
  (∀ (s : State) (k : Nat) (W : Warp), mfind s.warps k = some W → msorted s.warps = true → W.fast = false → W.ended = false → s.resident W = true →
    let held := s.setsHeld W.slotNo
    ((held.map (fun x => x.2.setBytes)).sum + W.setBytes ≤ 32768 →
      ∃ t, exec (.intervalPrefetchDone k) s = .next t ∧ only s t k ∧ mfind t.warps k = some { W with fast := true, fresh := true }) ∧
    (∀ j V, held = [(j, V)] → V.fresh = false → 32768 < V.setBytes + W.setBytes → W.setBytes ≤ 32768 →
      ∃ t, exec (.intervalPrefetchDone k) s = .next t ∧ t = { s with warps := t.warps } ∧
        mfind t.warps k = some { W with fast := true, fresh := true } ∧ mfind t.warps j = some { V with fast := false } ∧
        ∀ i, i ≠ j → i ≠ k → mfind t.warps i = mfind s.warps i)) ∧
  (∀ (s : State) (k : Nat) (W : Warp), mfind s.warps k = some W →
    (∃ t, exec (.fenceReleaseDone k) s = .next t ∧ only s t k ∧ ∀ i < W.slices.length,
      ((∀ r a n, (W.slice i).wait ≠ some (.fence r a n)) → (t.warp k).slice i = W.slice i) ∧
      ∀ rel acq n, (W.slice i).wait = some (.fence rel acq n) →
        let done := (∀ sc, rel = some sc → s.released k n sc = true) ∧ (acq = true → s.readsOut k n = false)
        (done → (t.warp k).slice i = woken (W.slice i)) ∧ (¬ done → (t.warp k).slice i = W.slice i)) ∧
    (s.buffered W = false → ∃ t, exec (.trywaitWake k) s = .next t ∧ only s t k ∧ ∀ i < W.slices.length,
      ((∀ l u n d p, (W.slice i).wait ≠ some (.words l u n d p)) → (t.warp k).slice i = W.slice i) ∧
      ∀ l u n d p, (W.slice i).wait = some (.words l u n d p) → (t.warp k).slice i = woken (W.slice i)) ∧
    ∃ t, exec (.trywaitHintExpiry k) s = .next t ∧ only s t k ∧ ∀ i < W.slices.length,
      ((∀ l u n d p, (W.slice i).wait = some (.words l u n d p) → ∀ h, u = some h → s.dieTime (W.core / 192) < h) → (t.warp k).slice i = W.slice i) ∧
      ∀ l h n d p, (W.slice i).wait = some (.words l (some h) n d p) → h ≤ s.dieTime (W.core / 192) → (t.warp k).slice i = woken (W.slice i)) ∧
  (∀ (s : State) (p : Nat) (P : Partition) (g : Nat), mfind s.parts p = some P → P.gpNow = some g → P.gpNext = false →
    (∀ f ∈ s.faults, f.pool = none) →
    let isOver (t : State) : Prop := mfind t.parts p = some { P with gpDone := g, gpNow := none, gpWait := [] } ∧
      (∀ q, q ≠ p → mfind t.parts q = mfind s.parts q) ∧ t.warps = s.warps
    ((∃ k ∈ P.gpWait, s.inGpwait k = false) → exec (.gracePeriodComplete p) s = .next s) ∧
    ((∀ k ∈ P.gpWait, s.inGpwait k = true) → (∀ d, (s.die d).dfree = []) →
      ∃ t, exec (.gracePeriodComplete p) s = .next t ∧ isOver t ∧ (∀ d, t.die d = s.die d) ∧ t.mem = s.mem ∧ t.l2 = s.l2) ∧
    ∀ d va pool svc tr, P.gpWait = [] → P.dies = [d] → (s.die d).dfree = [(va, pool, g, p, svc)] → PlainMem s →
      s.look (mget 0 (s.die d).poolQref pool).toNat va.toNat = some tr → (∀ j < 8, s.homeless (tr.phys va.toNat + j) = false) →
      ∃ t, exec (.gracePeriodComplete p) s = .next t ∧ isOver t ∧ (t.die d).dfree = [] ∧ mget 0 (t.die d).poolHead pool = va ∧
        t.bytesAt (tr.phys va.toNat) 8 = leBytes 8 (mget 0 (s.die d).poolHead pool).toNat ∧
        ∀ a, a < tr.phys va.toNat ∨ tr.phys va.toNat + 8 ≤ a → t.byteAt a = s.byteAt a) ∧
  ∀ (s : State) (k : Nat) (W : Warp), mfind s.warps k = some W → W.ended = false → W.started = true → W.forks = [] →
    let cfg := (s.die (W.core / 192)).wdogCfg
    let limit := 2 ^ (max 20 (min 40 (cfg.extractLsb' 0 6).toNat))
    (cfg.getLsbD 31 = true → limit ≤ W.watchdog → exec (.watchdog k) s = .next (s.trap k [{
      slice := 0, lane := 0, cause := 0x51, info0 := W.alive.setWidth 32, info1 := W.atRegang.setWidth 32
      pc := (W.slice ((maskSlices W.alive).headD 0)).pc, whole := true, mask := W.alive }])) ∧
    (cfg.getLsbD 31 = false ∨ W.watchdog < limit → exec (.watchdog k) s = .next s)

/-- R37, R69, R70, R87 to R93, R99, R110, R243, R340, R345: the events of accesses on their way. A write changes its bytes at
its home and no other, the other L1s of its cluster drop the sector, and its completion times are the maxima of arrival and
lease expiries, plus ε; an atomic returns the old word and leaves the new one; either waits behind older accesses. A load
reads a live copy, or its home, which grants a lease. A return lands its registers, an acknowledgement its completion times. A
lapsed copy goes. A walk ends in a translation or a fault, which the firmware resolves, or kills the warps that wait. A marked
datum is poisoned. Stamps that are exact, where R91 lets a home report later ones, and what the record of such a kill holds are the
model's choice (DESIGN CHOICE, log entries 71 and 36). -/
def Obligations.MemoryEvents : Prop :=
  let quiet (s : State) (F : Flight) : Prop := s.watched F.warp = false ∧ s.badSectors = [] ∧ s.badHbm = [] ∧ PlainMem s ∧ s.holds = [] ∧
    s.buffered (s.warp F.warp) = false ∧ (s.warp F.warp).tx = none ∧ (s.warp F.warp).ended = false ∧
    (s.warp F.warp).killed = false
  let close (s : State) (W : Warp) (a : Access) : Prop := packageOf a.pa = s.zinc.self ∧ s.homeDie a.pa = W.core / 192 ∧ inHostWindow a.pa = false ∧
    ∀ j < 128, s.homeless (a.pa + j) = false
  let last (l : List DWord) : DWord := l.foldl later 0
  let enters (s t : State) (cores : List Nat) (tr : Trans) : Prop :=
    (∀ c ∈ cores, ∀ p ∈ tlbsOf c, tr ∈ mget [] t.tlbs p) ∧ (∀ p, ∀ x ∈ mget [] t.tlbs p, x = tr ∨ x ∈ mget [] s.tlbs p) ∧
    ∀ p, (∀ c ∈ cores, p ∉ tlbsOf c) → mget [] t.tlbs p = mget [] s.tlbs p
  (∀ (s : State) (f j : Nat) (F : Flight) (a : Access), mfind s.flights f = some F → F.accs[j]? = some a → a.done = false → F.held = false →
    a.stores = true → a.adpq = false →
    (s.behind f j a F.warp = true → exec (.homeWriteArrival (.flight f) j) s = .next s) ∧
    (quiet s F → s.behind f j a F.warp = false → close s (s.warp F.warp) a →
      let core := (s.warp F.warp).core
      let st := s.stampsOf (a.pa / 128)
      let arrival := s.dieTime (core / 192)
      let eps := BitVec.ofNat 64 Config.epsilon
      let puts (t : State) (bs : List Byte) : Prop := t.bytesAt a.pa bs.length = bs ∧
        (∀ x, x < a.pa ∨ a.pa + bs.length ≤ x → t.byteAt x = s.byteAt x) ∧ t.warps = s.warps ∧
        ∀ c, c ≠ core → c / 16 = core / 16 → mfind t.copies (copyKey c (a.pa / 32)) = none
      let access (t : State) (b : Access) : Prop := mfind t.flights f = some { F with accs := F.accs.set j { b with
        done := true
        gwctd := last [arrival, st.dies.getD (core / 192) 0] + eps
        gwct := last (arrival :: st.other :: st.dies) + eps } }
      (∀ bs, a.op = .write bs → bs.length ≤ 128 → ∃ t, exec (.homeWriteArrival (.flight f) j) s = .next t ∧ puts t bs ∧ access t a) ∧
      ∀ kind wide b c, a.op = .rmw kind wide b c → F.inOrder = false →
        let n := if wide then 8 else 4
        let old := s.bytesAt a.pa n
        let new := amoNew kind wide (BitVec.ofNat 64 (leNat old)) b c
        ∃ t, exec (.homeWriteArrival (.flight f) j) s = .next t ∧ puts t (leBytes n new.1.toNat) ∧ access t { a with value := old, flags := new.2.bits })) ∧
  (∀ (s : State) (f : Nat) (F : Flight) (a : Access), mfind s.flights f = some F → F.accs = [a] → a.done = false → F.held = false →
    a.op = .read → a.uc = false → a.keep = 0 → a.mine = [] → a.bad = false → quiet s F → s.behind f 0 a F.warp = false → close s (s.warp F.warp) a →
    let core := (s.warp F.warp).core
    let die := core / 192
    let sector := a.pa / 32
    let lease := (((s.die die).leaseCls a.lc).extractLsb' 0 20).toNat
    let served (t : State) (v : List Byte) : Prop := mfind t.flights f = some { F with accs := [{ a with done := true, value := v }] } ∧
      (∀ x, t.byteAt x = s.byteAt x) ∧ t.warps = s.warps
    (∀ c, mfind s.copies (copyKey core sector) = some c → c.bad = false → (s.dieTime die).toNat < c.expiry.toNat →
      ∃ t, exec (.lineFill f 0 none) s = .next t ∧ served t ((c.data.drop (a.pa % 32)).take a.n)) ∧
    (mfind s.copies (copyKey core sector) = none →
      ∃ t, exec (.lineFill f 0 none) s = .next t ∧ served t (s.bytesAt a.pa a.n) ∧
        (lease ≠ 0 → (mfind t.copies (copyKey core sector)).map (fun c => (c.data, c.expiry, c.bad)) =
          some (s.bytesAt (sector * 32) 32, s.dieTime die + BitVec.ofNat 64 lease, false)))) ∧
  (∀ (s : State) (f : Nat) (F : Flight) (W : Warp), mfind s.flights f = some F → mfind s.warps F.warp = some W → F.round = false →
    W.ended = false → s.buffered W = false →
    ((∃ a ∈ F.accs, a.done = false) → exec (.loadReturn f) s = .next s ∧ exec (.storeAck f) s = .next s) ∧
    (∀ a size, F.accs = [a] → F.cls = 0 → F.ready = true → F.held = false → F.vals = [] → F.land = .ext size → a.done = true → a.bad = false → a.lane < 64 →
      W.outs = [(0, f, false)] → mfind s.engines f = none →
      ∃ t, exec (.loadReturn f) s = .next t ∧ mfind t.flights f = none ∧ (t.warp F.warp).outs = [] ∧
        (∀ x < (extendVal size a.value).length, (t.warp F.warp).reg (F.dst + x) a.lane = (extendVal size a.value).getD x 0) ∧
        (∀ q i, (∀ x < (extendVal size a.value).length, q * 64 + i ≠ (F.dst + x) * 64 + a.lane) → (t.warp F.warp).reg q i = W.reg q i) ∧
        t.mem = s.mem ∧ t.l2 = s.l2 ∧ ∀ j, j ≠ F.warp → mfind t.warps j = mfind s.warps j) ∧
    (∀ a, F.accs = [a] → F.cls = 1 → F.ready = true → F.held = false → F.vals = [] → F.land = .none → a.done = true →
      W.quietDue = [] → W.forks = [] → W.outs = [(1, f, false)] → mfind s.engines f = none →
      ∃ t, exec (.storeAck f) s = .next t ∧ mfind t.flights f = none ∧ t.mem = s.mem ∧
        mfind t.warps F.warp = some { W with outs := [], gwct := gwctMax W.gwct a.gwct, gwctd := gwctMax W.gwctd a.gwctd
                                             fflags := (W.raise a.flags).fflags })) ∧
  (∀ (s : State) (n key : Nat) (c : Copy), s.copies[n]? = some (key, c) →
    let die := if key / 2 ^ 43 < 768 then key / 2 ^ 43 / 192 else key / 2 ^ 43 - 768
    (c.expiry ≤ s.dieTime die → ∃ t, exec (.leaseExpiry n) s = .next t ∧ t = { s with copies := t.copies } ∧
      mfind t.copies key = none ∧ ∀ x, x ≠ key → mfind t.copies x = mfind s.copies x) ∧
    (s.dieTime die < c.expiry → exec (.leaseExpiry n) s = .next s)) ∧
  (∀ (s : State) (n : Nat) (w : Walk), s.walks[n]? = some w →
    (64 ≤ ((s.walks.take n).filter (fun x => x.die == w.die)).length → exec (.tlbWalkComplete n) s = .next s) ∧
    (((s.walks.take n).filter (fun x => x.die == w.die)).length < 64 →
      (∀ tr, s.walk w.queue (w.vpn * 4096) = .ok tr → ∃ t, exec (.tlbWalkComplete n) s = .next t ∧
        t = { s with walks := s.walks.eraseIdx n, tlbs := t.tlbs, fresh := t.fresh } ∧ enters s t w.cores tr) ∧
      (∀ l, s.walk w.queue (w.vpn * 4096) = .error l → exec (.tlbWalkComplete n) s =
        .next { s with walks := s.walks.eraseIdx n, faults := s.faults ++ [⟨w.queue, w.vpn, l, none, w.cores⟩] }))) ∧
  (∀ (s : State) (n : Nat) (x : PageFault), s.faults[n]? = some x → s.served x.queue = true →
    (x.pool = none →
      (∀ tr, s.walk x.queue (x.vpn * 4096) = .ok tr → ∃ t, exec (.pageFaultResolved n true) s = .next t ∧
        t = { s with faults := s.faults.eraseIdx n, tlbs := t.tlbs, fresh := t.fresh } ∧ enters s t x.cores tr) ∧
      ∀ k W i ps, mfind s.warps k = some W → W.queue = x.queue → W.ended = false → W.forks = [] → (∀ y ∈ s.warps, y.2.twinOf = none) →
        (∀ L ∈ s.launches, L.2.redund = false) → i < W.slices.length → (W.slice i).exited = false → (W.slice i).wait = some (.pages ps) → (∃ p ∈ ps, p / 4096 = x.vpn) →
        ∃ t, exec (.pageFaultResolved n false) s = .next t ∧ t.faults = s.faults.eraseIdx n ∧ (t.warp k).killed = true ∧ (t.warp k).ended = true ∧
          ∃ r ∈ (t.die (W.core / 192)).rasQueue, r.type = 1 ∧ r.cause = 0x101 ∧ r.wid = W.wid ∧ r.info2 = BitVec.ofNat 32 x.level ∧
            ∃ j l p, (W.slice j).wait = some (.pages l) ∧ p ∈ l ∧ p / 4096 = x.vpn ∧ r.va = BitVec.ofNat 64 p) ∧
    ∀ d pool va, x.pool = some (d, pool, va) →
      (∀ tr, s.look x.queue va.toNat = some tr → exec (.pageFaultResolved n true) s = .next { s with faults := s.faults.eraseIdx n }) ∧
      ∃ t, exec (.pageFaultResolved n false) s = .next t ∧ t.faults = s.faults.eraseIdx n ∧
        (t.die d).dfree = (s.die d).dfree.eraseP (fun e => e.1 == va && e.2.1 == pool && e.2.2.1 != 0) ∧
        ∃ r ∈ (t.die d).rasQueue, r.type = 0x0C ∧ r.sub = 1 ∧ r.cause = 0x101 ∧ r.va = va ∧ r.info0 = BitVec.ofNat 32 pool) ∧
  ∀ (s : State),
    (∀ sector, ∃ t, exec (.eccUncorrectable (.mem sector)) s = .next t ∧ t.poisonedAt (32 * sector) 32 = true ∧ t.mem = s.mem ∧ t.l2 = s.l2) ∧
    (∀ b w B, mfind s.blocks b = some B → w * 4 < B.size → ∃ t, exec (.eccUncorrectable (.spad b w)) s = .next t ∧
      t.spadBad b (4 * w) 4 = true ∧ t.spad b = s.spad b ∧ t.warps = s.warps) ∧
    (∀ k r i W, mfind s.warps k = some W → r < W.alloc → i < W.width → ∃ t, exec (.eccUncorrectable (.reg k r i)) s = .next t ∧
      mget false (t.warp k).poison (r * 64 + i) = true ∧ (t.warp k).regs = W.regs ∧ t.blocks = s.blocks) ∧
    ∀ core cell, cell < 32768 → ∃ t, exec (.eccUncorrectable (.acc core cell)) s = .next t ∧ cell ∈ (t.core core).mx.accPoison ∧
      (t.core core).mx.acc = (s.core core).mx.acc

/-- R8, R15, R111, R112, R127, R132, R361: a slot chooses the eligible warp that R132 names and forms its gang of ready slices that
stand at one instruction; every warp passed over grows older. A warp starts. A quantum ends when every slice has exited or
retired Q. A round commits once every warp's quantum has ended, each warp's stores taking place in order, and the next starts
once every clock has passed its writes; a round that lasts a second is reported. Which of the core's slots a warp starts on (log entry 13), that the order of warps breaks a tie of age (DEDUCED,
log entry 16) and which slices stand at one instruction (DEDUCED, log entry 73) is the model's choice. -/
def Obligations.RoundEvents : Prop :=
  (∀ (s : State) (slot dt : Nat), s.issue = none → msorted s.warps = true → (∀ x ∈ s.warps, x.2.slices.length ≤ 16) →
    let u : State := { s with time := s.time + BitVec.ofNat 64 dt, cycle := s.cycle + 1 }
    let es := u.eligible slot
    let step (W : Warp) : Nat := if W.tmode then 0 else if W.age = 255 then 1
      else if W.role = .copy ∨ W.role = .matrix ∨ W.role = .epilogue then 2 else 3
    let before (x y : Nat × Warp) : Prop := step x.2 < step y.2 ∨ (step x.2 = step y.2 ∧ (y.2.age < x.2.age ∨ (y.2.age = x.2.age ∧ x.1 ≤ y.1)))
    ∃ t, exec (.issueCycle slot dt) s = .next t ∧ t = { u with warps := t.warps, issue := t.issue } ∧
      (es = [] → t.issue = none) ∧
      ∀ e ∈ es, (∀ x ∈ es, before e x) → ∃ i ∈ u.readySlices e.1, ∃ m, t.issue = some ⟨e.1, m, (e.2.slice i).pc⟩ ∧
        (∀ j, inMask m j = true ↔ j ∈ u.readySlices e.1 ∧ e.2.sameGroup i j = true) ∧ (t.warp e.1).age = 0 ∧
        ∀ x ∈ es, x.1 ≠ e.1 → (t.warp x.1).age = min 255 (x.2.age + 1)) ∧
  (∀ (s : State) (b i k : Nat) (B : Block) (W : Warp), mfind s.blocks b = some B → B.alive = true → B.warps[i]? = some k →
    mfind s.warps k = some W → W.started = false →
    ∃ t, exec (.warpStart b i) s = .next t ∧ t = { s with warps := t.warps } ∧ mfind t.warps k = some { W with started := true, slot := i % 4 } ∧
      ∀ j, j ≠ k → mfind t.warps j = mfind s.warps j) ∧
  (∀ (s : State) (k : Nat) (W : Warp) (Q : Queue), mfind s.warps k = some W → mfind s.queues W.queue = some Q → W.twinOf = none →
    W.started = true → W.ended = false → s.buffered W = true → W.qdone = false → W.forks = [] →
    (∀ B, mfind s.blocks W.block = some B → B.twinBlock = none) →
    ((∀ i < W.slices.length, (W.slice i).exited = true ∨ Q.quant ≤ (W.slice i).retired) →
      ∃ t, exec (.quantumEnd k) s = .next t ∧ t = { s with warps := t.warps } ∧ mfind t.warps k = some { W with qdone := true, watchdog := 0 } ∧
        ∀ j, j ≠ k → mfind t.warps j = mfind s.warps j) ∧
    ((∃ i < W.slices.length, (W.slice i).exited = false ∧ (W.slice i).wait = none ∧ (W.slice i).retired < Q.quant) →
      exec (.quantumEnd k) s = .next s)) ∧
  (∀ (s : State) (l : Nat) (L : Launch), mfind s.launches l = some L → L.dets ≠ 0 →
    ((∃ x ∈ s.warps, x.2.launch = l ∧ x.2.ended = false ∧ x.2.twinOf = none ∧ x.2.qdone = false) → exec (.roundCommit l) s = .next s) ∧
    ∀ k W, L.committed = false → L.next ≠ 0 → L.next = L.n → L.done = false → L.redund = false →
      s.warps = [(k, W)] → W.launch = l → W.twinOf = none → W.qdone = true → W.killed = false → W.ended = false → W.ndone = false → W.outs = [] →
      (∀ b ∈ s.blocks, b.2.twinBlock = none ∧ b.2.primary = true) → s.watched k = false → s.badSectors = [] → s.badHbm = [] → s.holds = [] → PlainMem s →
      (∀ a bs, W.buf = [.spad [(a, bs)]] → ∃ t, exec (.roundCommit l) s = .next t ∧ (mfind t.launches l).map (·.committed) = some true ∧
        (t.warp k).buf = [] ∧ (∀ B, mfind s.blocks W.block = some B → t.spad W.block = spadPut B.spad a bs) ∧ t.mem = s.mem ∧ t.l2 = s.l2) ∧
      ∀ f F a bs, W.buf = [.flight f] → mfind s.flights f = some F → F.warp = k → F.accs = [a] → a.op = .write bs → a.done = false → bs.length ≤ 128 →
        (∀ j < bs.length, s.homeless (a.pa + j) = false) →
        ∃ t, exec (.roundCommit l) s = .next t ∧ (mfind t.launches l).map (·.committed) = some true ∧ (t.warp k).buf = [] ∧
          t.bytesAt a.pa bs.length = bs ∧ ∀ x, x < a.pa ∨ a.pa + bs.length ≤ x → t.byteAt x = s.byteAt x) ∧
  (∀ (s : State) (l : Nat) (L : Launch), mfind s.launches l = some L → L.committed = true →
    (s.pastAll L.gwct = false → exec (.roundStart l) s = .next s) ∧
    -- the children that its commit has queued start with it (R266)
    ((∃ p ∈ s.parts, ∃ c ∈ p.2.children, (s.warp c.1).launch = l) → exec (.roundStart l) s = .next s) ∧
    ∀ k W, (∀ p ∈ s.parts, ∀ c ∈ p.2.children, (s.warp c.1).launch ≠ l) → s.pastAll L.gwct = true → s.warps = [(k, W)] → W.launch = l → W.twinOf = none → W.ended = false → W.swapped = false → W.killed = false → s.flights = [] →
      (∀ b ∈ s.blocks, b.2.twinBlock = none ∧ b.2.bars = []) → (∀ c, (s.core c).tap.ringWait = []) → (∀ x ∈ W.slices, x.wait = none) → (∀ x ∈ W.savePc, x.wait = none) →
      ∃ t, exec (.roundStart l) s = .next t ∧
        mfind t.launches l = some { L with round := L.round + 1, began := s.time, committed := false, stuck := false } ∧
        (t.warp k).qdone = false ∧ (t.warp k).regs = W.regs ∧
        (∀ i < W.slices.length, (t.warp k).slice i = { W.slice i with retired := 0 }) ∧ t.mem = s.mem) ∧
  ∀ (s : State) (l : Nat) (L : Launch), mfind s.launches l = some L → L.dets ≠ 0 → L.done = false → L.committed = false → L.stuck = false → L.next ≠ 0 →
    (s.time.toNat < L.began.toNat + 1000000000 ∨ s.served L.queue = false → exec (.roundStuckTimeout l) s = .next s) ∧
    (s.served L.queue = true → L.began.toNat + 1000000000 ≤ s.time.toNat → ∃ t, exec (.roundStuckTimeout l) s = .next t ∧ t = { s with launches := t.launches, dies := t.dies } ∧
      mfind t.launches l = some { L with stuck := true } ∧
      ∃ r ∈ (t.die (s.partDie (s.partOf L.queue))).rasQueue, r.type = 0x0B ∧ r.queue = L.queue ∧
        r.info0 = BitVec.ofNat 32 L.round)

/-- R114, R115, R118, R299, R300, R355 to R357: a registration gets the lowest free number where its descriptor is sound, and is refused
with reason 9 otherwise; a doorbell or a poll reads the write pointer, and a doorbell lets a stopped queue go on; one too far
ahead stops the queue with reason 7; a function reaches only its own queues; QKILL kills the queue's warps and stops it. A packet
whose launches are over completes: RPTR advances, its signal falls by 1, and at 0 its vector is raised. That a driver which shares no version is refused (log
entry 40) and that a registration needs the save area's first page alone (log entry 77) is the model's choice. -/
def Obligations.QueueEvents : Prop :=
  let refused (s t : State) : Prop := t = { s with dies := t.dies } ∧
    ∃ r, (t.die 0).rasQueue = rasInsert r (s.die 0).rasQueue ∧ r.type = 3 ∧ r.sub = 3 ∧ r.queue = 0xFFF ∧ r.info0 = 9
  let reachesQ (s : State) (func : Nat) (Q : Queue) : Prop := (mfind s.parts Q.part).isSome = true ∧ (func = 0 ∨ func = Q.part + 1)
  let room (Q : Queue) (v : Nat) : Prop := (BitVec.ofNat 64 v - Q.rptr).toNat ≤ 2 ^ Q.log2n
  (∀ (s : State) (r : QueueReg),
    ((∀ q < 4096, (mfind s.queues q).isSome = true) ∨ (∃ q, s.freeQueue = some q ∧ s.readQueue q r = none) ∨ driverVersions r = none →
      ∃ t, exec (.queueRegister r) s = .next t ∧ refused s t) ∧
    ∀ q Q v ver, mfind s.queues q = none → q < 4096 → driverVersions r = some ver → (∀ p < q, (mfind s.queues p).isSome = true) → s.readQueue q r = some Q →
      (s.die (s.partDie Q.part)).firmware = true →
      ({ s with queues := minsert s.queues q { Q with abi := ver.1, fmt := ver.2 } } : State).virtNat q (Q.desc + 0x10) 8 = some v → room Q v →
      4 ≤ Q.log2n ∧ Q.log2n ≤ 16 ∧ Q.ring.toNat % 4096 = 0 ∧ Q.save.toNat % 4096 = 0 ∧ Q.handlers.toNat % 8 = 0 ∧
      256 ≤ Q.quant ∧ Q.quant ≤ 65536 ∧ reachesQ s r.func Q ∧
      ∃ t, exec (.queueRegister r) s = .next t ∧ t = { s with queues := t.queues } ∧
        mfind t.queues q = some { Q with wptr := BitVec.ofNat 64 v, abi := ver.1, fmt := ver.2 } ∧ ∀ p, p ≠ q → mfind t.queues p = mfind s.queues p) ∧
  (∀ (s : State) (func q : Nat) (Q : Queue), mfind s.queues q = some Q →
    (¬ reachesQ s func Q → exec (.qdb func q) s = .next s ∧ exec (.qkill func q) s = .next s) ∧
    (reachesQ s func Q → ∀ v, s.virtNat q (Q.desc + 0x10) 8 = some v →
      (room Q v → ∃ t, exec (.qdb func q) s = .next t ∧ t = { s with queues := t.queues } ∧
        mfind t.queues q = some { Q with stopped := false, wptr := BitVec.ofNat 64 v }) ∧
      (¬ room Q v → ∃ t r, exec (.qdb func q) s = .next t ∧ mfind t.queues q = some { Q with stopped := true, wptr := BitVec.ofNat 64 v } ∧
        (t.die (s.partDie Q.part)).rasQueue = rasInsert r (s.die (s.partDie Q.part)).rasQueue ∧ r.type = 3 ∧ r.sub = 3 ∧ r.info0 = 7)) ∧
    (reachesQ s func Q → ∃ t, exec (.qkill func q) s = .next t ∧
      (mfind t.queues q).map (fun Q => (Q.stopped, Q.waiting, Q.gang)) = some (true, none, none) ∧
      (∀ k W, mfind s.warps k = some W → W.queue = q → W.ended = false → W.twinOf = none →
        (t.warp k).killed = true ∧ (t.warp k).ended = true) ∧
      ∀ l L, mfind s.launches l = some L → L.queue = q → L.done = false → (mfind t.launches l).map (fun L => (L.failed, L.aborted)) = some (true, true))) ∧
  (∀ (s : State) (q : Nat) (Q : Queue) (v : Nat), s.queues = [(q, Q)] → s.served q = true → s.virtNat q (Q.desc + 0x10) 8 = some v → room Q v →
    exec .wptrPoll s = .next { s with queues := [(q, { Q with wptr := BitVec.ofNat 64 v })] }) ∧
  ∀ (s : State) (q l : Nat) (Q : Queue) (L : Launch) (idx sig pr ps v : Nat), mfind s.queues q = some Q → Q.open_ = [idx] → Q.waiting = none →
    idx < 2 ^ 64 → s.launches = [(l, L)] → L.queue = q → L.pkt = idx →
    (L.done = false → L.aborted = false → L.retired < L.n → exec (.packetComplete q idx) s = .next s) ∧
    (L.done = true → L.failed = false → Q.done = [] → Q.rptr = BitVec.ofNat 64 idx → Q.sigs = [(idx, BitVec.ofNat 64 sig)] → 0 < sig → sig < 2 ^ 48 →
      s.engines = [] → s.graphs = [] → PlainMem s →
      (∀ j < 8, (s.cached (s.queueCore q) q (sig + j)).map (fun t => t.phys (sig + j)) = some (ps + j)) →
      (∀ j < 8, (s.cached (s.queueCore q) q (Q.desc + 0x18 + j)).map (fun t => t.phys (Q.desc + 0x18 + j)) = some (pr + j)) → (ps + 8 ≤ pr ∨ pr + 8 ≤ ps) →
      (∀ j < 8, s.homeless (ps + j) = false ∧ s.homeless (pr + j) = false) →
      s.bytesAt ps 8 = leBytes 8 v → v < 2 ^ 64 →
      ∃ t, exec (.packetComplete q idx) s = .next t ∧
        (mfind t.queues q) = some { Q with open_ := [], sigs := [], done := [], rptr := BitVec.ofNat 64 (idx + 1) } ∧
        t.bytesAt ps 8 = leBytes 8 (BitVec.ofNat 64 v - 1).toNat ∧ t.bytesAt pr 8 = leBytes 8 (BitVec.ofNat 64 (idx + 1)).toNat ∧
        (∀ a, (a < ps ∨ ps + 8 ≤ a) → (a < pr ∨ pr + 8 ≤ a) → t.byteAt a = s.byteAt a) ∧
        (v ≠ 1 → t.sent = s.sent) ∧ (v = 1 → ∃ vec < 64, t.sent = (s.send (.msix Q.func vec)).sent) ∧
        (L.kills = true → ∃ r, (t.die (s.partDie Q.part)).rasQueue = rasInsert r (s.die (s.partDie Q.part)).rasQueue ∧ r.type = 3 ∧ r.sub = 1))

/-- R117, R118, R121, R123, R355, R358: how a package's only queue starts its next packet. A sound packet starts as its type says: a
launch, a copy, a signal applied and completed at once, a wait, a gang's reservation, a graph; an unsound one stops the queue
with its reason and starts nothing. A WAITSIG completes once no signal exceeds its limit. A gang of one partition starts once that has
room beside what other gangs hold, where no queue of higher priority waits; a reservation is tried again every 100 µs, with a
record every 1,000 tries. How many and which parts a reservation holds is the model's choice (log entry 76). -/
def Obligations.PacketEvents : Prop :=
  let ready (s : State) (q : Nat) (Q : Queue) (b : List Byte) : Prop := s.queues = [(q, Q)] ∧ s.served q = true ∧ Q.stopped = false ∧
    Q.waiting = none ∧ Q.gang = none ∧ Q.swapped = false ∧ Q.draining = none ∧ Q.next - Q.rptr < Q.wptr - Q.rptr ∧ s.packetAt q Q.next = some b ∧
    (pktBar b = true → Q.rptr = Q.next)
  let opened (s : State) (Q : Queue) (b : List Byte) : Queue := { Q with
    next := Q.next + 1
    open_ := Q.open_ ++ [Q.next.toNat]
    sigs := mput 0 Q.sigs Q.next.toNat (BitVec.ofNat 64 (fieldAt b 0x38 8))
    served := s.cycle + s.nextId }
  let starts (type : Nat) (s : State) (q : Nat) (Q : Queue) (b : List Byte) : Prop :=
    ready s q Q b ∧ fieldAt b 0 1 = type ∧ s.invalid q b = 0 ∧ s.hasRoom q b = true
  (∀ (ev : Nat → Instr) (type : Nat) (s : State) (q : Nat) (Q : Queue) (b : List Byte),
    (ev, type) ∈ [(Instr.launchPacket, 1), (.copyPacket, 2), (.signalPacket, 3), (.waitsigPacket, 4), (.gangPacket, 5), (.graphPacket, 6)] →
    ready s q Q b → fieldAt b 0 1 = type → s.invalid q b ≠ 0 →
    ∃ t, exec (ev q) s = .next t ∧ t = { s with queues := t.queues, dies := t.dies } ∧ mfind t.queues q = some { Q with stopped := true } ∧
      ∃ r, (t.die (s.partDie Q.part)).rasQueue = rasInsert r (s.die (s.partDie Q.part)).rasQueue ∧ r.type = 3 ∧ r.sub = 3 ∧ r.queue = q ∧
        r.pkt = Q.next.setWidth 32 ∧ r.info0 = BitVec.ofNat 32 (s.invalid q b)) ∧
  (∀ (s : State) (q : Nat) (Q : Queue) (b : List Byte),
    (starts 1 s q Q b → ∀ r H, s.readLaunch q (fieldAt b 8 8) = .ok (r, H) →
      ∃ t L, exec (.launchPacket q) s = .next t ∧ t = { s with queues := t.queues, launches := t.launches, nextId := s.nextId + 1 } ∧
        mfind t.queues q = some (opened s Q b) ∧ mfind t.launches s.nextId = some L ∧
        [L.queue, L.pkt, L.part, L.next, L.retired, L.n] = [q, Q.next.toNat, Q.part, 0, 0, r.clusters] ∧ L.code = r.code ∧ L.args = r.args ∧
        L.entry = r.code + BitVec.ofNat 64 H.entry ∧ L.dets = Q.qdet ∧ L.done = false ∧
        ∀ l, l ≠ s.nextId → mfind t.launches l = mfind s.launches l) ∧
    (starts 2 s q Q b → ∃ t, exec (.copyPacket q) s = .next t ∧
      t = { s with queues := t.queues, engines := t.engines, nextId := s.nextId + 1 } ∧ mfind t.queues q = some (opened s Q b) ∧
      mfind t.engines s.nextId = some { op := .packetCopy q (BitVec.ofNat 64 (fieldAt b 0x10 8)) (BitVec.ofNat 64 (fieldAt b 8 8)) (fieldAt b 0x18 8)
                                        warp := 0, block := Q.next.toNat, cls := 2, stage := 1 }) ∧
    (∀ pa pr v, starts 3 s q Q b → fieldAt b 0x38 8 = 0 → Q.open_ = [] → Q.done = [] → Q.rptr = Q.next → PlainMem s →
      (∀ j < 8, (s.cached (s.queueCore q) q (fieldAt b 8 8 + j)).map (fun t => t.phys (fieldAt b 8 8 + j)) = some (pa + j)) →
      (∀ j < 8, (s.cached (s.queueCore q) q (Q.desc + 0x18 + j)).map (fun t => t.phys (Q.desc + 0x18 + j)) = some (pr + j)) → (pa + 8 ≤ pr ∨ pr + 8 ≤ pa) →
      (∀ j < 8, s.homeless (pa + j) = false ∧ s.homeless (pr + j) = false) →
      s.bytesAt pa 8 = leBytes 8 v → v < 2 ^ 64 →
      let x := BitVec.ofNat 64 (fieldAt b 0x10 8)
      let y := if fieldAt b 2 2 = 0 then x else if fieldAt b 2 2 = 1 then BitVec.ofNat 64 v + x else BitVec.ofNat 64 v - x
      ∃ t, exec (.signalPacket q) s = .next t ∧ t.bytesAt pa 8 = leBytes 8 y.toNat ∧ t.bytesAt pr 8 = leBytes 8 (Q.rptr + 1).toNat ∧
        (∀ a, (a < pa ∨ pa + 8 ≤ a) → (a < pr ∨ pr + 8 ≤ a) → t.byteAt a = s.byteAt a) ∧
        (mfind t.queues q).map (fun Q => (Q.next, Q.rptr, Q.open_)) = some (Q.next + 1, Q.rptr + 1, [])) ∧
    (starts 4 s q Q b → exec (.waitsigPacket q) s = .next { s with queues := [(q, { opened s Q b with
      waiting := some ((List.range (fieldAt b 2 2 % 8)).map (fun j =>
        (BitVec.ofNat 64 (fieldAt b (8 + 8 * j) 8), BitVec.ofNat 32 (fieldAt b (0x28 + 4 * j) 4)))) })] }) ∧
    (starts 5 s q Q b → ∃ held, exec (.gangPacket q) s = .next { s with queues := [(q, { Q with
      gang := some (fieldAt b 2 2, BitVec.ofNat 64 (fieldAt b 8 8), 0), gangAt := s.time, gangHeld := held })] }) ∧
    ∀ nodes, starts 6 s q Q b → s.readNodes q (fieldAt b 8 8) (fieldAt b 0x10 8 + 1) = .ok nodes →
      ∃ t, exec (.graphPacket q) s = .next t ∧ t = { s with queues := [(q, opened s Q b)], graphs := t.graphs, nextId := s.nextId + 1 } ∧
        mfind t.graphs s.nextId = some { queue := q, pkt := Q.next.toNat, nodes := nodes }) ∧
  (∀ (s : State) (q : Nat) (Q : Queue) (l : List (DWord × Word)), mfind s.queues q = some Q → s.served q = true → Q.waiting = some l →
    ((∃ x ∈ l, ∀ v, s.signal q x.1.toNat = some v → v.toInt > x.2.toInt) → exec (.waitsigComplete q) s = .next s) ∧
    ((∀ x ∈ l, ∃ v, s.signal q x.1.toNat = some v ∧ v.toInt ≤ x.2.toInt) → Q.open_ = [(Q.next - 1).toNat] → Q.done = [] → Q.sigs = [] → Q.rptr = Q.next - 1 →
      ∃ t, exec (.waitsigComplete q) s = .next t ∧ mfind t.queues q = some { Q with waiting := none, open_ := [], rptr := Q.next } ∧
        t.warps = s.warps ∧ t.launches = s.launches)) ∧
  ∀ (s : State) (q mask : Nat) (table : DWord) (n : Nat) (Q : Queue), mfind s.queues q = some Q → Q.gang = some (mask, table, n) → s.served q = true →
    ((∃ p < 16, mask / 2 ^ p % 2 = 1 ∧ mfind s.parts p = none) → ∃ t r, exec (.gangCommit q) s = .next t ∧
      mfind t.queues q = some { Q with gang := none, gangHeld := [], stopped := true } ∧ t.launches = s.launches ∧
      (t.die (s.partDie Q.part)).rasQueue = rasInsert r (s.die (s.partDie Q.part)).rasQueue ∧ r.type = 3 ∧ r.sub = 3 ∧ r.info0 = 5) ∧
    (∀ p a r H, p < 16 → mask = 2 ^ p → (mfind s.parts p).isSome = true → s.virtNat q (table.toNat + 8 * p) 8 = some a → s.readLaunch q a = .ok (r, H) →
      (∀ x ∈ s.queues, s.priority x.1 ≤ s.priority q) →
      let L := s.mkLaunch q 0 p (BitVec.ofNat 64 a) r H
      let sig := ((s.packetAt q Q.next).map (fun b => fieldAt b 0x38 8)).getD 0
      let u := ((s.modQueue q (fun Q => { Q with gang := none, gangHeld := [] })).opened q sig).addLaunch
        { L with pkt := Q.next.toNat, ready := s.time }
      (s.placeBeside 0 L = none → exec (.gangCommit q) s = .next (s.modQueue q (fun Q => { Q with gangHeld := [] }))) ∧
      (s.placeBeside 0 L ≠ none → ∀ u', u.placeBeside s.nextId { L with pkt := Q.next.toNat, ready := s.time } = some u' →
        exec (.gangCommit q) s = .next (u'.clusterBegan s.nextId) ∧
        let t := u'.clusterBegan s.nextId
        (mfind t.launches s.nextId).map (fun M => (M.record, M.part, M.pkt, M.next)) = some (BitVec.ofNat 64 a, p, Q.next.toNat, 1) ∧
        (mfind t.queues q).map (fun Q => (Q.gang, Q.gangHeld, Q.next, Q.open_)) = some (none, [], Q.next + 1, Q.open_ ++ [Q.next.toNat]) ∧
        t.mem = s.mem)) ∧
    (s.time.toNat < Q.gangAt.toNat + 100000 → exec (.gangReserveTimeout q) s = .next s) ∧
    (Q.gangAt.toNat + 100000 ≤ s.time.toNat → ∃ t, exec (.gangReserveTimeout q) s = .next t ∧ t = { s with queues := t.queues, dies := t.dies } ∧
      mfind t.queues q = some { Q with gang := some (mask, table, n + 1), gangAt := s.time, gangHeld := [] } ∧
      ((n + 1) % 1000 ≠ 0 → t.dies = s.dies) ∧
      ((n + 1) % 1000 = 0 → ∃ r, (t.die (s.partDie Q.part)).rasQueue = rasInsert r (s.die (s.partDie Q.part)).rasQueue ∧ r.type = 4 ∧ r.queue = q ∧
        r.info0 = BitVec.ofNat 32 (n + 1)))

/-- R126, R127, R129 to R131, R134, R135, R265, R266, R351, R360: graphs, launches and pre-emption. A node with a live count of 0 runs, and
its completion lowers its successors' counts; a stream node takes COAL records for one cluster; a child launch starts, or fails
where its record is unsound. The next cluster of a launch comes to the first core of a core cluster with room, and an exited one
retires. A pre-emption stops the warps of the lowest queue that may be taken, saves its blocks and brings them back; after 1 ms it
is abandoned, and the queue is spared for the packets that asked. Where a save area holds what is the model's choice (log entry 23). -/
def Obligations.LaunchEvents : Prop :=
  (∀ (s : State) (g n : Nat) (G : Graph) (x : Node), mfind s.graphs g = some G → G.nodes[n]? = some x →
    ((G.failed = true ∨ x.state ≠ 0 ∨ x.live ≠ 0) → exec (.graphNodeStart g n) s = .next s) ∧
    (∀ r H, G.failed = false → x.state = 0 → x.live = 0 → x.coal = 0 → x.ntype = 1 → s.readLaunch G.queue x.work.toNat = .ok (r, H) →
      ∃ t L, exec (.graphNodeStart g n) s = .next t ∧ t.node? g n = some { x with state := 1, launches := [s.nextId] } ∧
        (∀ m, m ≠ n → t.node? g m = s.node? g m) ∧ mfind t.launches s.nextId = some L ∧
        [L.queue, L.pkt, L.n, L.next] = [G.queue, G.pkt, r.clusters, 0] ∧ L.record = x.work ∧ t.warps = s.warps ∧ t.mem = s.mem) ∧
    (∀ e, G.failed = false → x.state = 0 → x.live = 0 → x.coal = 0 → x.ntype = 1 → s.readLaunch G.queue x.work.toNat = .error e →
      exec (.graphNodeStart g n) s = .next { s with graphs := minsert s.graphs g { G with failed := true } }) ∧
    (s.launches = [] → x.coal = 0 → x.state ≠ 1 → exec (.graphNodeComplete g n) s = .next s) ∧
    (s.launches = [] → x.coal = 0 → x.state = 1 → x.ntype = 1 → x.launches = [] → n ∉ x.succ →
      ∃ t, exec (.graphNodeComplete g n) s = .next t ∧ t = { s with graphs := t.graphs } ∧ t.node? g n = some { x with state := 2 } ∧
        ∀ m y, m ≠ n → G.nodes[m]? = some y → t.node? g m = some { y with live := y.live - x.succ.count m }) ∧
    (x.coal ≠ 0 → (s.presentRecs x).length < x.coal → x.live ≠ 0 → exec (.streamClusterLaunch g n) s = .next s) ∧
    ∀ r H, G.failed = false → x.state ≠ 2 → x.coal ≠ 0 → x.coal ≤ (s.presentRecs x).length → s.readLaunch G.queue x.work.toNat = .ok (r, H) →
      let recs := (s.presentRecs x).take x.coal
      ∃ t L, exec (.streamClusterLaunch g n) s = .next t ∧ mfind t.launches s.nextId = some L ∧ L.n = 1 ∧ L.graph = some (g, n) ∧
        L.ncnt = x.coal ∧ (recs.head?).map x.recAddr = some L.nin ∧
        t.node? g n = some { x with recs := x.recs.filter (fun y => !recs.contains y), launches := x.launches ++ [s.nextId] } ∧
        t.warps = s.warps ∧ t.mem = s.mem) ∧
  (∀ (s : State) (p k : Nat) (P : Partition) (W : Warp) (L : Launch) (record signal : DWord) (rank : Nat) (rest : List (Nat × DWord × DWord × Nat)),
    mfind s.parts p = some P → P.children = (k, record, signal, rank) :: rest → mfind s.warps k = some W → mfind s.launches W.launch = some L →
    (∀ r H, s.readLaunch W.queue record.toNat = .ok (r, H) → s.nextId ≠ W.launch →
      ∃ t C, exec (.childLaunchStart p) s = .next t ∧ t = { s with parts := t.parts, launches := t.launches, nextId := s.nextId + 1 } ∧
        mfind t.parts p = some { P with children := rest } ∧ mfind t.launches s.nextId = some C ∧ C.parent = some W.launch ∧ C.signal = signal ∧
        C.part = p ∧ C.queue = W.queue ∧ C.n = r.clusters ∧ C.rank = rank ∧ C.round = (if L.dets = 0 then 0 else L.round + 1) ∧ mfind t.launches W.launch = some L) ∧
    (∀ e, s.readLaunch W.queue record.toNat = .error e → signal = 0 → ∃ t, exec (.childLaunchStart p) s = .next t ∧
      mfind t.parts p = some { P with children := rest } ∧ mfind t.launches W.launch = some { L with children := L.children - 1, failed := true } ∧
      t.mem = s.mem ∧ t.warps = s.warps)) ∧
  (∀ (s : State) (l cl : Nat) (L : Launch) (Q : Queue) (P : Partition), mfind s.launches l = some L → mfind s.queues L.queue = some Q →
    mfind s.parts L.part = some P → P.clusters.contains cl = true → L.dets = 0 → L.blocks = 1 → L.redund = false → L.done = false → L.aborted = false → L.committed = false →
    L.next < L.n → L.ready ≤ s.time → Q.swapped = false → Q.draining = none → (∀ x ∈ s.queues, x.2.gang = none) →
    let regs := blockRegs L.roles L.width L.warps L.regs L.budget
    let cores := ((List.range 16).map (cl * 16 + ·)).filter (fun c => c % 192 != 0)
    ((∀ c ∈ cores, s.roomOn c regs L.spad L.levels L.parent.isSome = false) → exec (.clusterStart l cl) s = .next s) ∧
    ∀ core, cores.find? (fun c => s.roomOn c regs L.spad L.levels L.parent.isSome) = some core →
      ∃ t B, exec (.clusterStart l cl) s = .next t ∧
        t = { s with blocks := t.blocks, warps := t.warps, launches := t.launches, nextId := s.nextId + 1 + L.warps } ∧
        (mfind t.launches l).map (·.next) = some (L.next + 1) ∧ mfind t.blocks s.nextId = some B ∧
        [B.launch, B.cluster, B.core, B.size] = [l, L.next, core, L.spad] ∧ B.alive = true ∧ B.resident = true ∧ B.spad = [] ∧
        B.warps = (List.range L.warps).map (fun w => s.nextId + 1 + w) ∧
        ∀ w < L.warps, ∃ W, mfind t.warps (s.nextId + 1 + w) = some W ∧ W.wid = BitVec.ofNat 32 (L.next * L.warps + w) ∧
          W.bid = BitVec.ofNat 32 L.next ∧ [W.launch, W.block, W.core, W.width, W.queue] = [l, s.nextId, core, L.width, L.queue] ∧
          W.slices = List.replicate (L.width / 4) { pc := L.entry } ∧ W.regs = [] ∧ W.args = L.args ∧ W.mode = .user ∧ W.started = false ∧ W.ended = false) ∧
  (∀ (s : State) (l c : Nat) (L : Launch) (rest : List Nat), mfind s.launches l = some L → L.dets = 0 → L.done = false → L.stream = none →
    (L.exits = [] → exec (.clusterRetire l) s = .next s) ∧
    (L.exits = c :: rest → (∀ x ∈ s.warps, x.2.buf = []) → ∃ t, exec (.clusterRetire l) s = .next t ∧ t = { s with launches := t.launches } ∧
      mfind t.launches l = some { L with retired := L.retired + 1, exits := rest })) ∧
  ∀ (s : State) (q : Nat) (Q : Queue), mfind s.queues q = some Q → s.served q = true →
    (∀ x X, Q.swapped = false → Q.draining = none → Q.preempt = true → s.queueBlocks q ≠ [] → mfind s.queues x = some X →
      s.priority q < s.priority x → s.wants x X q = true → (x, X.next) ∉ Q.spared →
      (∀ y Y, mfind s.queues y = some Y → y = q ∨ s.priority q ≤ s.priority y ∨ Y.preempt = false) → ∃ t, exec (.preemption q) s = .next t ∧ mfind t.queues q = some { Q with draining := some s.time } ∧ t.mem = s.mem ∧
        ∀ b B k W, (b, B) ∈ s.queueBlocks q → mfind s.warps k = some W → W.block = b →
          W.ended = false → W.twinOf = none → (t.warp k).swapped = true ∧ (t.warp k).regs = W.regs ∧ (t.warp k).slices = W.slices) ∧
    (∀ s' d, Q.swapped = false → Q.draining = some d → s.queueStopped q = true → s.stopQueueBlocks q = s →
      -- transactions are aborted before anything else of the context is cleared (R134)
      let u := s.abortQueueTxs q
      u.queueDrained q = true → (u.abortQueueBlocks q).saveQueue q = some s' → ∃ t, exec (.preemption q) s = .next t ∧ (mfind t.queues q).map (fun Q => (Q.swapped, Q.draining)) = some (true, none) ∧
        t.contexts = s'.contexts ∧ t.blocks = s'.blocks ∧ ∀ b B, (b, B) ∈ (u.abortQueueBlocks q).queueBlocks q → (t.block? b).map (·.resident) = some false) ∧
    (∀ s', Q.swapped = true → s.outranked q = false → s.restoreQueue q = some s' →
      ∃ t, exec (.preemption q) s = .next t ∧ (mfind t.queues q).map (·.swapped) = some false ∧ t.contexts = s'.contexts ∧ t.blocks = s'.blocks ∧
        t.warps = s'.warps) ∧
    ∀ d, Q.draining = some d →
      (s.time.toNat < d.toNat + 1000000 → exec (.preemptDrainTimeout q) s = .next s) ∧
      (d.toNat + 1000000 ≤ s.time.toNat → s.queueStopped q = true → s.queueIssuedOver q = false →
        ∃ t l, exec (.preemptDrainTimeout q) s = .next t ∧ mfind t.queues q = some { Q with draining := none, spared := l ++ Q.spared } ∧
          (∀ x ∈ s.queues, s.priority q < s.priority x.1 → s.wants x.1 x.2 q = true → (x.1, x.2.next) ∈ l) ∧
          (∀ b B k W, (b, B) ∈ s.queueBlocks q → mfind s.warps k = some W → W.block = b → W.ended = false → mfind t.warps k = some { W with swapped := false }) ∧
          ∃ b B r, (s.queueBlocks q).head? = some (b, B) ∧
            (t.die (B.core / 192)).rasQueue = rasInsert r (s.die (B.core / 192)).rasQueue ∧ r.type = 7 ∧ r.sub = 1)

/-- R3, R73, R77, R109, R110, R250, R299, R301, R365, R366, R369: the events of a die's registers and engines. A pool is enabled,
linked through its queue's page table or disabled where a page is missing, and disabled, after the linking where that runs. A format window
is enabled only with an assigned format, closes, and reads disabled once its lines are gone. A register keeps its reserved
bits. The RAS engine takes the records of one cycle by their source, writes one at a time at the head of its ring, or drops it and
counts the loss; the head moves once the write has passed. Its registers stand in the PF's BAR0 alone. Tin starts a COPY while the firmware is away, and leaves a WAITSIG. BAR2 reads and writes what its
function reaches. -/
def Obligations.DieRegisters : Prop :=
  let only (s t : State) : Prop := t = { s with dies := t.dies }
  (∀ (s : State) (d n : Nat), d < 4 → n < 16 →
    let D := s.die d
    let q := (mget 0 D.poolQref n).toNat
    let cnt := D.poolCount n
    let size := 2 ^ (((mget 0 D.poolCfg n).extractLsb' 52 4).toNat + 6)
    let base := D.poolBase n
    let en (t : State) : Bool := (mget 0 (t.die d).poolCfg n).getLsbD 63
    let busy (t : State) : Bool := (mget 0 (t.die d).poolCfg n).getLsbD 62
    (∀ v, en s = true → ∃ t, exec (.poolEnable d n v) s = .next t ∧ only s t ∧ ∀ x, t.die x = s.die x) ∧
    (∀ v, en s = false → ∃ t, exec (.poolEnable d n v) s = .next t ∧ only s t ∧ en t = true ∧ busy t = true ∧
      mget 0 (t.die d).poolCfg n &&& 0x0FF0FFFFFFFFFFC0 = v &&& 0x0FF0FFFFFFFFFFC0 ∧ mget 0 (t.die d).poolHead n = 0 ∧
      loHalf (mget 0 (t.die d).poolStat n) = 0 ∧ (t.die d).poolCount n = cnt) ∧
    (en s = true → busy s = false → ∃ t, exec (.poolDisable d n) s = .next t ∧ only s t ∧ en t = false ∧ mget 0 (t.die d).poolHead n = mget 0 D.poolHead n) ∧
    (en s = true → busy s = true → ∃ t, exec (.poolDisable d n) s = .next t ∧ only s t ∧ en t = true ∧ n ∈ (t.die d).poolOff) ∧
    (busy s = false → exec (.poolLinkDone d n) s = .next s) ∧
    (busy s = true → (∃ i < cnt, s.look q (base + i * size) = none) → ∃ t, exec (.poolLinkDone d n) s = .next t ∧ only s t ∧
      en t = false ∧ busy t = false ∧ mget 0 (t.die d).poolHead n = 0) ∧
    ∀ pm, busy s = true → PlainMem s → (∀ i < cnt, ∀ j < 8,
        (s.cached (s.queueCore q) q (base + i * size + j)).map (fun t => t.phys (base + i * size + j)) = some (pm + i * size + j)) →
      ∃ t, exec (.poolLinkDone d n) s = .next t ∧ busy t = false ∧ (D.poolOff.contains n = false → en t = en s) ∧ (D.poolOff.contains n = true → en t = false) ∧
        (∀ i < cnt, t.bytesAt (pm + i * size) 8 = leBytes 8 (if i + 1 = cnt then 0 else base + (i + 1) * size)) ∧
        (mget 0 (t.die d).poolHead n).toNat = (if cnt = 0 then 0 else base) ∧ (loHalf (mget 0 (t.die d).poolStat n)).toNat = cnt) ∧
  (∀ (s : State) (d n : Nat), d < 4 → n < 32 →
    let ctl (t : State) : Word := mget 0 (t.die d).winCtl n
    let en (t : State) : Bool := (ctl t).getLsbD 31
    (∀ v, en s = false → (1 ≤ (v.extractLsb' 0 4).toNat ∧ (v.extractLsb' 0 4).toNat ≤ 7) → ∃ t, exec (.fmtWinEnable d n v) s = .next t ∧ only s t ∧
      en t = true ∧ (ctl t).getLsbD 30 = false ∧ (ctl t).extractLsb' 0 24 = v.extractLsb' 0 24) ∧
    (∀ v, en s = false → ((v.extractLsb' 0 4).toNat = 0 ∨ 7 < (v.extractLsb' 0 4).toNat) → ∃ t, exec (.fmtWinEnable d n v) s = .next t ∧ only s t ∧
      en t = false ∧ (ctl t).getLsbD 30 = true) ∧
    (en s = true → ∃ t, exec (.fmtWinDisable d n) s = .next t ∧ only s t ∧ en t = true ∧ n ∈ (t.die d).winClosing) ∧
    (n ∈ (s.die d).winClosing → (∀ l ∈ s.l2, l.2.dirty = 0) → ∃ t, exec (.fmtWinDisableDone d n) s = .next t ∧ en t = false ∧
      n ∉ (t.die d).winClosing ∧ t.mem = s.mem ∧ ∀ l L, mfind s.l2 l = some L → L.window = some (d * 32 + n) → mfind t.l2 l = none) ∧
    ∀ sat nan, ∃ t, exec (.fmtWinFlagClear d n sat nan) s = .next t ∧ only s t ∧ (ctl t).getLsbD 29 = ((ctl s).getLsbD 29 && !sat) ∧
      (ctl t).getLsbD 28 = ((ctl s).getLsbD 28 && !nan) ∧ ∀ k, k ≠ 28 → k ≠ 29 → (ctl t).getLsbD k = (ctl s).getLsbD k) ∧
  (∀ (s : State) (d n : Nat) (v : DWord), d < 4 →
    let writes (r : Reg) (p : Die → Prop) : Prop := ∃ t, exec (.registerWrite r v) s = .next t ∧ only s t ∧ p (t.die d) ∧ ∀ x, x ≠ d → t.die x = s.die x
    let x := loHalf v
    (n < 8 → writes (.leaseCls d n) (fun D => D.leaseCls n = v &&& 0x0FFFFFFFFFFFFFFF)) ∧
    (n < 16 → writes (.svcCfg d n) (fun D => mget 0xFFFF1010 D.svcCfg n = x &&& 0xFFFFFFF8)) ∧
    writes (.mxGov d) (fun D => D.mxGov = x &&& 0x3F) ∧ writes (.wdogCfg d) (fun D => D.wdogCfg = x &&& 0x8000003F) ∧
    writes (.raceCtl d) (fun D => D.raceCtl = x &&& 0xC000FFFF) ∧ writes (.rasBase d) (fun D => D.rasBase = v &&& 0x0000FFFFFFFFF000) ∧
    writes (.rasTail d) (fun D => D.rasTail = x) ∧
    (n < 32 → (mget 0 (s.die d).winCtl n).getLsbD 31 = true → writes (.fmtWinView d n) (fun D => D.winView = (s.die d).winView)) ∧
    (n < 32 → (mget 0 (s.die d).winCtl n).getLsbD 31 = false → writes (.fmtWinView d n) (fun D => mget 0 D.winView n = v &&& 0x0000FFFFFFFFF000)) ∧
    (n < 8 → s.zinc.member = true → exec (.registerWrite (.zincKey n) v) s = .next s) ∧
    (n < 8 → s.zinc.member = false → ∃ t, exec (.registerWrite (.zincKey n) v) s = .next t ∧ mget 0 t.zinc.key n = x ∧ t = { s with zinc := t.zinc }) ∧
    (∃ t, exec (.rasOvfClear d) s = .next t ∧ only s t ∧ (t.die d).rasCtl = (s.die d).rasCtl &&& ~~~(0x40000000 : Word) ∧ (t.die d).rasDrops = (s.die d).rasDrops)) ∧
  -- a die's RAS registers at their 8-byte places in the PF's BAR0, and in no VF's
  (∀ (s : State) (func d : Nat) (at_ : Nat → Nat), d < 4 → (∀ k, at_ k = 0x9000 + 0x40 * d + k) →
    (bar0Reg 0 (at_ 0) = some (.rasBase d) ∧ bar0Reg 0 (at_ 8) = some (.rasCtl d) ∧ bar0Reg 0 (at_ 0x18) = some (.rasTail d) ∧
      ∀ k < 0x40, k ∉ [0, 8, 0x18] → bar0Reg 0 (at_ k) = none) ∧
    (s.bar0 0 (at_ 0) = (s.die d).rasBase ∧ s.bar0 0 (at_ 8) = (s.die d).rasCtl.setWidth 64 ∧ s.bar0 0 (at_ 0x10) = (s.die d).rasHead.setWidth 64 ∧
      s.bar0 0 (at_ 0x18) = (s.die d).rasTail.setWidth 64 ∧ s.bar0 0 (at_ 0x20) = (s.die d).rasDrops.setWidth 64) ∧
    (func ≠ 0 → ∀ k < 0x40, s.bar0 func (at_ k) = 0 ∧ bar0Reg func (at_ k) = none)) ∧
  -- records of one cycle are taken in the order of their sources, others as they arrive
  (∀ (r x : RasRec) (l rest : List RasRec), (∀ y ∈ l, y.tick = r.tick → y.source ≤ r.source) →
    rasInsert r l = l ++ [r] ∧ (x.tick = r.tick → r.source < x.source → rasInsert r (l ++ x :: rest) = l ++ r :: x :: rest)) ∧
  (∀ (s : State) (d : Nat) (r : RasRec) (rest : List RasRec), d < 4 → (s.die d).rasQueue = r :: rest → (s.die d).rasWritten = [] →
    let D := s.die d
    let size := 2 ^ (let n := (D.rasCtl.extractLsb' 0 5).toNat; if 6 ≤ n ∧ n ≤ 20 then n else 6)
    let full := (D.rasHead - D.rasTail).toNat = size
    let slot := D.rasBase.toNat + 64 * (D.rasHead.toNat % size)
    (D.rasCtl.getLsbD 31 = false ∨ full → ∃ t, exec (.rasAppend d) s = .next t ∧ only s t ∧ (t.die d).rasQueue = rest ∧
      (t.die d).rasHead = D.rasHead ∧ (t.die d).rasCtl.getLsbD 30 = true ∧
      (t.die d).rasDrops.toNat = min 0xFFFFFFFF (D.rasDrops.toNat + 1)) ∧
    (D.rasCtl.getLsbD 31 = true → ¬ full → PlainMem s → (∀ j < 64, s.homeless (slot + j) = false) → r.raw = [] → ∃ t time b, exec (.rasAppend d) s = .next t ∧ (t.die d).rasQueue = rest ∧
      (t.die d).rasHead = D.rasHead ∧ (t.die d).rasWritten = [time] ∧ t.bytesAt slot 64 = b ∧
      (∀ a, a < slot ∨ slot + 64 ≤ a → t.byteAt a = s.byteAt a) ∧ fieldAt b 0 1 = r.type % 256 ∧ fieldAt b 1 1 = r.sub % 256 ∧ fieldAt b 3 1 = d ∧
      fieldAt b 4 4 = D.rasHead.toNat ∧ fieldAt b 8 8 = (s.dieTime d).toNat ∧ fieldAt b 0x14 4 = r.pkt.toNat ∧ fieldAt b 0x18 4 = r.wid.toNat ∧
      fieldAt b 0x1C 4 = r.bid.toNat ∧ fieldAt b 0x20 8 = r.va.toNat ∧ fieldAt b 0x28 8 = r.pa.toNat ∧ fieldAt b 0x30 4 = r.info0.toNat ∧ fieldAt b 0x34 4 = r.info1.toNat ∧
      fieldAt b 0x38 4 = r.info2.toNat ∧ fieldAt b 0x3C 4 = r.info3.toNat ∧ fieldAt b 0x10 2 = r.queue % 4096 + r.part % 16 * 4096 ∧ fieldAt b 0x12 2 = r.cause % 65536 ∧
      fieldAt b 2 1 = (if r.sw then 1 else 0) + (if r.pv then 2 else 0))) ∧
  (∀ (s : State) (d : Nat) (time : DWord), (s.die d).rasWritten = [time] →
    (s.dieTime d < time → exec (.rasHeadAdvance d) s = .next s) ∧
    (time ≤ s.dieTime d → ∃ t, exec (.rasHeadAdvance d) s = .next t ∧ (t.die d).rasHead = (s.die d).rasHead + 1 ∧ (t.die d).rasWritten = [] ∧
      t.sent = if (s.die d).rasCtl.getLsbD 29 then (s.send (.msix 0 63)).sent else s.sent)) ∧
  (∀ (s : State) (d q : Nat) (Q : Queue) (b : List Byte), d < 4 → s.queues = [(q, Q)] → s.partDie Q.part = d → (mfind s.parts Q.part).isSome = true →
    s.island.state = 4 → s.virtNat q (Q.desc + 0x10) 8 = some Q.wptr.toNat → (Q.wptr - Q.rptr).toNat ≤ 2 ^ Q.log2n → s.nextReady q = some (some b) → s.invalid q b = 0 →
    ((s.die d).firmware = true → exec (.tinPoll d) s = .next s) ∧
    ((s.die d).firmware = false → pktType b = 4 → exec (.tinPoll d) s = .next s) ∧
    ((s.die d).firmware = false → pktType b = 2 → ∃ t e, exec (.tinPoll d) s = .next t ∧ mfind t.engines s.nextId = some e ∧
      e.op = .packetCopy q (BitVec.ofNat 64 (fieldAt b 0x10 8)) (BitVec.ofNat 64 (fieldAt b 8 8)) (fieldAt b 0x18 8) ∧ (t.die d).tin = some q ∧
      (mfind t.queues q).map (·.next) = some (Q.next + 1))) ∧
  ∀ (s : State) (func addr : Nat),
    let a := s.zinc.self * 2 ^ 40 + addr
    (∀ b n, func ≠ 0 → mfind s.parts (func - 1) = none → exec (.hostBar2Access func addr b n) s = .next s) ∧
    -- a sector that a transaction holds keeps the write back (R104)
    (∀ b n, s.heldByOther 0 a b.length = true → exec (.hostBar2Access func addr (some b) n) s = .next s) ∧
    (∀ b n, s.partitioned = false → b ≠ [] → addr + b.length ≤ 0xC000000000 → PlainMem s → s.heldByOther 0 a b.length = false → ∃ t, exec (.hostBar2Access 0 addr (some b) n) s = .next t ∧
      t.bytesAt a b.length = b ∧ (∀ x, x < a ∨ a + b.length ≤ x → t.byteAt x = s.byteAt x) ∧ t.warps = s.warps) ∧
    ∀ n, s.partitioned = false → 0 < n → addr + n ≤ 0xC000000000 →
      exec (.hostBar2Access 0 addr none n) s = .next (s.send (.read 0 (s.bytesAt a n)))

/-- R277, R302, R303, R366 to R368, R370 to R372, R376, R379, R380: the events of the fabric. A link comes up at the highest common version. A BEAT
says whether the firmware lives; the third window missed in a row raises a suspicion. A quorum sends a RESET, which the
island acts on where it accepts it: level 1 stops the firmware cores and leaves user warps as they are, level 2 empties the package.
A formation proposes, gathers acknowledgements, leaves out who is silent for 10 µs, and commits; a package installs a view that names
it, with the key of every view since its own, leaves one that does not, and comes back by its JOIN alone, which finds the leader. How the messages lay out their fields is the model's choice (log entries 42, 43). -/
def Obligations.FabricEvents : Prop :=
  let calm (z : Zinc) : Prop := z.suspects = [] ∧ z.joins = [] ∧ ∀ x, (z.near x).Nodup
  let ordered (l : List Nat) : Prop := l = (List.range 256).filter l.contains
  let onlyZinc (s t : State) : Prop := t = { s with zinc := t.zinc, sent := t.sent, dies := t.dies }
  let sends (s t : State) (x : Sent) : Prop := t.sent = ⟨x, t.linksFor x⟩ :: s.sent
  let record (s t : State) (d type sub info : Nat) : Prop := ∃ r, (t.die d).rasQueue = rasInsert r (s.die d).rasQueue ∧ r.type = type ∧ r.sub = sub ∧
    r.info0 = BitVec.ofNat 32 info
  (∀ (s : State) (port peer lo hi : Nat), port < 64 →
    (lo ≤ 3 → 2 ≤ hi → lo ≤ hi → ∃ t, exec (.linkBringup port peer lo hi) s = .next t ∧ mfind t.island.ports port = some (min hi 3) ∧
      mfind t.island.peers port = some peer ∧ sends s t (.linkUp port (min hi 3)) ∧ t.dies = s.dies) ∧
    (3 < lo ∨ hi < 2 → ∃ t, exec (.linkBringup port peer lo hi) s = .next t ∧ t = { s with dies := t.dies } ∧ record s t (port / 16) 8 1 port) ∧
    (mfind s.island.ports port = none → exec (.linkDown port) s = .next s) ∧
    (∀ v, mfind s.island.ports port = some v → ∃ t, exec (.linkDown port) s = .next t ∧ mfind t.island.ports port = none ∧ record s t (port / 16) 8 2 port)) ∧
  (∀ (s : State) (d : Nat), d < 4 →
    ((s.die d).firmware = true → ∃ t, exec (.beatSend d) s = .next t ∧ sends s t (.beat d true) ∧ mfind t.island.liveness d = some (s.dieTime d)) ∧
    ((s.die d).firmware = false → (∀ x, mfind s.island.liveness d = some x → x.toNat + 150000 < (s.dieTime d).toNat) →
      exec (.beatSend d) s = .next (s.send (.beat d false)))) ∧
  (∀ (s : State) (p : Nat), s.isNear p = true → calm s.zinc → ordered s.zinc.bitmap →
    (mget 0 s.zinc.misses p + 1 ≠ 3 → ∃ t, exec (.beatWindowEnd p false false) s = .next t ∧ onlyZinc s t ∧ t.dies = s.dies ∧
      mget 0 t.zinc.misses p = mget 0 s.zinc.misses p + 1 ∧ t.zinc.suspects = []) ∧
    (mget 0 s.zinc.misses p = 2 → ∃ t, exec (.beatWindowEnd p false false) s = .next t ∧ onlyZinc s t ∧ t.zinc.suspects = [(p, s.zinc.self)] ∧
      record s t s.island.active 9 1 p ∧ ∀ x ∈ s.zinc.near p, x ≠ s.zinc.self → .suspect p x ∈ t.sent.map (·.what)) ∧
    ∃ t, exec (.beatWindowEnd p true true) s = .next t ∧ onlyZinc s t ∧ mget 0 t.zinc.misses p = 0 ∧ t.zinc.suspects = []) ∧
  (∀ (s : State) (src p : Nat) (holds : Bool), s.zinc.member = false ∨ s.zinc.proposal ≠ none →
    ∃ t, exec (.suspect src p holds) s = .next t ∧
      t.zinc.suspects = s.zinc.suspects.filter (· != (p, src)) ++ (if holds then [(p, src)] else []) ∧
      (s.zinc.member = true → s.zinc.quorum p = false → t.zinc.quorum p = true → ∃ m, sends s t (.reset m) ∧ m.target = BitVec.ofNat 16 p ∧
        m.sender = BitVec.ofNat 16 s.zinc.self ∧ m.view = BitVec.ofNat 32 s.zinc.view ∧ m.level = 1 ∧ m.tag = resetTag s.zinc.key m ∧
        mfind t.zinc.resetSent p = some s.time ∧ record s t s.island.active 9 2 p)) ∧
  (∀ (s : State) (p : Nat) (time : DWord), mfind s.zinc.resetSent p = some time →
    (s.time.toNat < time.toNat + 300000000 ∨ s.zinc.quorum p = false ∨ mget 0 s.zinc.misses p = 0 ∨ s.zinc.member = false →
      exec (.resetEscalateTimeout p) s = .next s) ∧
    (time.toNat + 300000000 ≤ s.time.toNat → s.zinc.quorum p = true → mget 0 s.zinc.misses p ≠ 0 → s.zinc.member = true →
      ∃ t m, exec (.resetEscalateTimeout p) s = .next t ∧ onlyZinc s t ∧ sends s t (.reset m) ∧ m.target = BitVec.ofNat 16 p ∧ m.level = 2 ∧
        mfind t.zinc.resetSent p = none)) ∧
  (∀ (s : State) (m : ResetMsg), s.engines = [] →
    (s.resetOk m = false → ((m.view.toNat, m.level.toNat) ∉ s.zinc.resetsActed ∨ m.target.toNat ≠ s.zinc.self) →
      ∃ t, exec (.reset m) s = .next t ∧ t = { s with dies := t.dies } ∧ record s t s.island.active 9 4 s.zinc.self) ∧
    -- a further copy is ignored (R368)
    (∀ key, s.resetOk m = false → (m.view.toNat, m.level.toNat) ∈ s.zinc.resetsActed → m.target.toNat = s.zinc.self →
      s.resetKey m = some key → resetTag key m = m.tag → exec (.reset m) s = .next s) ∧
    (s.resetOk m = true → (m.view.toNat, m.level.toNat) ∈ s.zinc.resetsActed → ∃ t, exec (.reset m) s = .next t ∧ onlyZinc s t ∧ t.dies = s.dies ∧
      mfind t.zinc.resetTime m.sender.toNat = some m.time) ∧
    (s.resetOk m = true → (m.view.toNat, m.level.toNat) ∉ s.zinc.resetsActed →
      (m.level = 1 → ∃ t, exec (.reset m) s = .next t ∧ (∀ d < 4, (t.die d).firmware = false) ∧ t.zinc.member = false ∧ t.mem = s.mem ∧ t.queues = s.queues ∧
        ∀ k W, mfind s.warps k = some W → W.mode = .user → (t.warp k).regs = W.regs ∧ (t.warp k).ended = W.ended ∧ (t.warp k).slices.length = W.slices.length) ∧
      (m.level = 2 → ∃ t, exec (.reset m) s = .next t ∧ t.warps = [] ∧ t.blocks = [] ∧ t.queues = [] ∧ t.flights = [] ∧ t.l2 = [] ∧ t.tlbs = [] ∧ t.host = s.host ∧
        t.epoch = s.epoch + 1 ∧ t.time = s.time ∧ t.zinc.self = s.zinc.self ∧ t.zinc.member = false ∧ (∀ d, (t.die d).firmware = false) ∧
        t.island.mreg = s.island.mreg ∧ ∀ a, packageOf a = s.zinc.self → inHostWindow a = false → mfind t.mem a = none))) ∧
  (∀ (s : State) (m : ViewMsg), let z := s.zinc
    (z.member = true → m.view ≠ z.view + 1 → exec (.propose m) s = .next s ∧ exec (.commit m) s = .next s) ∧
    (z.member = true → m.view = z.view + 1 → z.self ∈ m.bitmap → m.src ≠ z.self → z.proposal = none → z.ackedTo = none →
      ∃ t, exec (.propose m) s = .next t ∧ onlyZinc s t ∧ sends s t (.ack m.src m.view) ∧ t.zinc.ackedTo = some (m.view, m.src) ∧ t.zinc.view = z.view) ∧
    -- a lower proposer's proposal displaces a package's own, also where it leaves the package out
    (z.member = true → m.view = z.view + 1 → z.self ∉ m.bitmap → m.src ≠ z.self → z.ackedTo = none → (∀ x, z.proposal = some x → m.src ≤ x.src) →
      ∃ t, exec (.propose m) s = .next t ∧ onlyZinc s t ∧ t.sent = s.sent ∧ t.zinc.proposal = none ∧ t.zinc.view = z.view) ∧
    (z.member = true → m.view = z.view + 1 → z.self ∈ m.bitmap → s.engines = [] → calm z → ordered m.bitmap →
      ∃ t, exec (.commit m) s = .next t ∧ t.zinc.view = m.view ∧ t.zinc.bitmap = m.bitmap ∧ t.zinc.leader = m.leader ∧ t.zinc.ranks = m.ranks ∧
        t.zinc.member = true ∧ t.zinc.oldKey = z.key ∧ t.zinc.key = nextKey z.key m.view m.bitmap ∧
        t.zinc.history.getLast? = some (m.view, m.bitmap) ∧ t.zinc.proposal = none ∧ t.mem = s.mem) ∧
    -- a JOIN held by a leader that is replaced goes to the new one (R380)
    (∀ j, z.member = true → m.view = z.view + 1 → z.self ∈ m.bitmap → s.engines = [] → m.leader ≠ z.self → j ∈ z.joins → j.1 ∉ m.bitmap →
      ∃ t, exec (.commit m) s = .next t ∧ .join m.leader j.1 j.2 ∈ t.sent.map (·.what) ∧ t.zinc.joins = []) ∧
    -- a package that left comes back by its JOIN alone, with the keys and bitmaps of the views that it missed (R372, R376, R379)
    (z.member = false → z.joining = false → (z.history ≠ [] ∨ z.jview ≠ 0 ∨ z.island ≠ none) → exec (.commit m) s = .next s) ∧
    (z.member = false → z.joining = true → z.jview.toNat < m.view → z.self ∈ m.bitmap → s.engines = [] → calm z → ordered m.bitmap →
      let missed := (m.past.filter (fun x => z.jview.toNat < x.1 && x.1 < m.view)) ++ [(m.view, m.bitmap)]
      ∃ t, exec (.commit m) s = .next t ∧ t.zinc.view = m.view ∧ t.zinc.member = true ∧ t.zinc.joining = false ∧
        t.zinc.key = missed.foldl (fun k x => nextKey k x.1 x.2) z.key ∧
        (z.history.length + m.past.length ≤ 255 → ∀ x ∈ missed, x ∈ t.zinc.history)) ∧
    (z.member = true → m.view = z.view + 1 → z.self ∉ m.bitmap → s.engines = [] →
      ∃ t, exec (.commit m) s = .next t ∧ t.zinc.member = false ∧ t.zinc.jview = BitVec.ofNat 32 z.view ∧ t.zinc.key = z.key ∧ t.mem = s.mem) ∧
    ∀ src view, z.proposal = some m →
      ((m.view ≠ view ∨ src ∉ m.bitmap) → exec (.ack src view) s = .next s) ∧
      (m.view = view → src ∈ m.bitmap → (∃ p ∈ m.bitmap, p ≠ src ∧ p ∉ z.acks) → ∃ t, exec (.ack src view) s = .next t ∧ onlyZinc s t ∧ t.sent = s.sent ∧
        src ∈ t.zinc.acks ∧ t.zinc.view = z.view ∧ t.zinc.proposal = some m) ∧
      (m.view = view → src ∈ m.bitmap → (∀ p ∈ m.bitmap, p = src ∨ p ∈ z.acks) → s.engines = [] → calm z → ordered m.bitmap →
        ∃ t, exec (.ack src view) s = .next t ∧ sends s t (.commit m) ∧ t.zinc.view = m.view ∧ t.zinc.bitmap = m.bitmap ∧ t.zinc.member = true) ∧
      (s.time.toNat < z.proposedAt.toNat + 10000 → exec .ackTimeout s = .next s) ∧
      (z.proposedAt.toNat + 10000 ≤ s.time.toNat → (∃ p ∈ m.bitmap, p ∈ z.acks ∧ p ≠ z.self) → ∃ t x, exec .ackTimeout s = .next t ∧ onlyZinc s t ∧ sends s t (.propose x) ∧
        x.view = z.view + 1 ∧ x.bitmap = m.bitmap.filter z.acks.contains ∧ t.zinc.proposal = some x)) ∧
  ∀ (s : State) (src jview cid view : Nat), let z := s.zinc
    (z.member = false ∨ src ∈ z.bitmap ∨ jview + 255 < z.view → exec (.join src jview) s = .next s) ∧
    (z.member = true → src ∉ z.bitmap → z.view ≤ jview + 255 →
      (z.leader ≠ z.self → exec (.join src jview) s = .next (s.send (.join z.leader src jview))) ∧
      (z.leader = z.self → z.proposal ≠ none → ∃ t, exec (.join src jview) s = .next t ∧ onlyZinc s t ∧ (src, jview) ∈ t.zinc.joins)) ∧
    ∃ t, exec (.vackArrival src cid view) s = .next t ∧ onlyZinc s t ∧ src ∈ mget [] t.zinc.acked (view * 64 + cid) ∧
      ∀ x, x ≠ view * 64 + cid → mget [] t.zinc.acked x = mget [] z.acked x

/-- R5, R10, R12, R307 to R314, R368, R369: the events of boot, attestation and health. The ROM measures itself and the first copy that verifies,
A before B, and the first stage runs; an image that fails stops the boot with its code, and one that verifies is measured,
forms the partitions, sets the service classes and starts the firmware cores. Three missed heartbeats bring the standby island
up. SPDM's requests come in their order, and a signature over the transcript is counted before it is released. The firmware's
figures, power budget and return from reset are as the rules give them. Where an image's fields lie, what a configuration is
measured over, the answer out of turn, the order of failure codes, what a message holds where R312 only names SPDM 1.3, what the island's slice
is said to run and that a step of boot is one event are the model's choice (log entries 61, 62, 63, 85); partitions that ask for more than
a die's stacks hold are taken (log entry 86). -/
def Obligations.BootEvents : Prop :=
  let mreg (I : Island) (j : Nat) : List Byte := mget (List.replicate 32 0) I.mreg j
  let extended (I J : Island) (j : Nat) (v : List Byte) : Prop := mreg J j = sha256 (mreg I j ++ sha256 v)
  let same (s t : State) : Prop := t = { s with island := t.island, sent := t.sent }
  let code (b : List Byte) : BitVec 4 :=
    let off := Config.imageSigOff (b.take 64)
    if lmsVerifies Config.publisherKey (b.take off) (b.drop off) = false then 2
    else if Config.imageSvn (b.take 64) < Config.minSvn then 3
    else if Config.imageMagic (b.take 64) = false ∨ off ≠ 64 + Config.imageLength (b.take 64) then 4
    else 0
  (∀ (a b : BootCopy) (s : State), s.island.state = 0 →
    (∃ t, exec (.boot a b false) s = .next t ∧ same s t ∧ extended s.island t.island 0 Config.romDigest ∧
      if code a.image = 0 then t.island.state = 1 ∧ t.island.fetchWait = 1 ∧ extended s.island t.island 1 a.image ∧ t.island.slice = some (.firstStage a.image)
      else if code b.image = 0 then t.island.state = 1 ∧ t.island.fetchWait = 1 ∧ extended s.island t.island 1 b.image ∧
        t.island.slice = some (.firstStage b.image)
      else t.island.state = 5 ∧ t.island.slice = none ∧ t.island.err = 1 ∧ mreg t.island 1 = mreg s.island 1) ∧
    ∃ t, exec (.boot a b true) s = .next t ∧ t.island.flashCount = 0 ∧ t.island.fuses = s.island.fuses + 1) ∧
  (∀ (s : State) (m : FirmwareImage), s.island.state = 1 ∨ s.island.state = 2 → partsOk m.parts = true →
    (exec .bootFetchRetry s = .next { s with island := { s.island with state := 2, fetchWait := min 64 (2 * s.island.fetchWait) } }) ∧
    ∃ t, exec (.firmwareFetchDone m) s = .next t ∧ extended s.island t.island 2 m.url ∧
      if code m.image ≠ 0 then same s t ∧ t.island.state = 5 ∧ t.island.err = code m.image
      else extended s.island t.island 3 m.image ∧
        if m.started = false then same s t ∧ t.island.state = 5 ∧ t.island.err = 5
        else t.island.state = 4 ∧ t.island.slice = none ∧ extended s.island t.island 4 (Config.configBytes m.parts m.svc) ∧ (∀ d < 4, (t.die d).firmware = true) ∧
          (m.parts = [] → t.partitioned = false ∧ t.parts = [(0, { dies := [0, 1, 2, 3], clusters := List.range 48 })]) ∧
          (∀ p ∈ m.parts, mfind t.parts p.1 = some { dies := [p.2.1], clusters := p.2.2.1, base := p.2.2.2.1, top := p.2.2.2.2 }) ∧
          (∀ n v, m.svc = [(n, v)] → n < 16 → ∀ d < 4, mget 0xFFFF1010 (t.die d).svcCfg n = v &&& 0xFFFFFFF8) ∧
          t.zinc.self = m.number % 256 ∧ t.mem = s.mem) ∧
  (∀ (s : State) (j : Nat) (v : List Byte),
    (8 ≤ j → j ≤ 23 → s.island.state = 4 → ∃ t, exec (.mregExtend j v) s = .next t ∧ same s t ∧ extended s.island t.island j v ∧
      ∀ k, k ≠ j → mreg t.island k = mreg s.island k) ∧
    (j < 8 ∨ 23 < j → exec (.mregExtend j v) s = .next s)) ∧
  (∀ (s : State), s.island.active = 0 →
    (exec (.islandHeartbeat true) s = .next (({ s with island := { s.island with missed := 0 } } : State).send .heartbeat)) ∧
    (exec (.islandHeartbeat false) s = .next { s with island := { s.island with missed := s.island.missed + 1 } }) ∧
    (s.island.missed < 3 → exec .islandTakeover s = .next s) ∧
    (3 ≤ s.island.missed → ∃ t r, exec .islandTakeover s = .next t ∧ t.island.active = 3 ∧ extended s.island t.island 7 (leBytes 8 (s.dieTime 3).toNat) ∧
      (t.die 3).rasQueue = rasInsert r (s.die 3).rasQueue ∧ r.type = 0x0A)) ∧
  (∀ (s : State), let I := s.island
    let asked := Config.spdmFields s.fresh
    let drawn := (List.range 32).map (Config.freeByte (s.fresh + 1))
    let said (ask code : Nat) (request body : List Byte) : List Byte :=
      let version (c : Nat) : Byte := if c = 0x84 ∨ c = 4 then 0x10 else 0x13
      (version ask :: BitVec.ofNat 8 ask :: request) ++ (version code :: BitVec.ofNat 8 code :: body)
    let answers (i : Instr) (code : Nat) (body : List Byte) (J : Island) : Prop :=
      exec i s = .next (({ s with fresh := s.fresh + 2, island := J } : State).send (.spdm code body))
    let opens (i : Instr) (before : List Byte) (ask code : Nat) (body : List Byte) (turn : Nat) : Prop :=
      answers i code body { I with spdm := turn, vca := before ++ said ask code asked body, transcript := [] }
    let error (i : Instr) (why : Nat) : Prop := exec i s = .next (s.send (.spdm 0x7F [BitVec.ofNat 8 why, 0]))
    opens .getVersion [] 0x84 0x04 [0, 0, 0, 1, 0, 0x13] 1 ∧
    (I.spdm ≠ 1 → error .getCapabilities 4) ∧
    (I.spdm = 1 → opens .getCapabilities I.vca 0xE1 0x61 ([0, 0, 0, 0x12, 0, 0, 0] ++ Config.spdmLimits) 2) ∧
    (I.spdm ≠ 2 → error .negotiateAlgorithms 4) ∧
    (I.spdm = 2 → opens .negotiateAlgorithms I.vca 0xE3 0x63 ([0, 0, 40, 0, 1, 0, 2, 0, 0, 0, 0, 0, 0, 0, 1, 0, 0, 0] ++ List.replicate 12 0 ++ [1, 0, 0, 0] ++
      leBytes 4 Config.hssAlgorithm.toNat) 3) ∧
    (I.spdm < 3 → error .getDigests 4 ∧ (∀ a b c, error (.getCertificate a b c) 4) ∧ ∀ d e f, error (.getMeasurements d e f) 4) ∧
    (3 ≤ I.spdm →
      answers .getDigests 0x01 (1 :: 1 :: sha256 Config.certificate) { I with transcript := [] } ∧
      (∀ slot off len, slot ≠ 0 → error (.getCertificate slot off len) 1) ∧
      (∀ off len, ∃ part, part = (Config.certificate.drop off).take len ∧
        answers (.getCertificate 0 off len) 0x02
          (0 :: 0 :: leBytes 2 part.length ++ leBytes 2 (Config.certificate.length - off - part.length) ++ part) { I with transcript := [] }) ∧
      (∀ i sign nonce, 24 < i → i ≠ 255 → error (.getMeasurements i sign nonce) 1) ∧
      -- block index 0 asks for their number, 255 for all, j + 1 for register j
      ∀ i js nonce, (i = 0 ∧ js = []) ∨ (i = 255 ∧ js = List.range 24) ∨ (1 ≤ i ∧ i ≤ 24 ∧ js = [i - 1]) →
        let record : List Byte := js.flatMap (fun j => [BitVec.ofNat 8 (j + 1), 1, 35, 0, 1, 32, 0] ++ mreg I j)
        let body : List Byte := [if i = 0 then 24 else 0, 0, BitVec.ofNat 8 js.length] ++ leBytes 3 record.length ++ record ++ drawn ++ [0, 0] ++ asked
        let plain := I.transcript ++ said 0xE0 0x60 (0 :: BitVec.ofNat 8 i :: asked) body
        let signed := I.transcript ++ said 0xE0 0x60 (1 :: BitVec.ofNat 8 i :: (nonce ++ [0] ++ asked)) body
        answers (.getMeasurements i false nonce) 0x60 body { I with transcript := plain } ∧
        (I.fuses * 2 ^ 20 + I.flashCount < 2 ^ 30 → I.flashCount < 2 ^ 20 → ∃ fuses flash, fuses * 2 ^ 20 + flash = I.fuses * 2 ^ 20 + I.flashCount + 1 ∧
          answers (.getMeasurements i true nonce) 0x60 (body ++ Config.hssSignature (I.fuses * 2 ^ 20 + I.flashCount) (I.vca ++ signed))
            { I with transcript := [], fuses := fuses, flashCount := flash }) ∧
        (2 ^ 30 ≤ I.fuses * 2 ^ 20 + I.flashCount → error (.getMeasurements i true nonce) 5))) ∧
  ∀ (s : State) (h : Health) (d : Nat) (budget : BitVec 6), d < 4 → s.island.state = 4 →
    (∃ t, exec (.healthUpdate h) s = .next t ∧ same s t ∧ t.sent = s.sent ∧ t.island.health.power = h.power ∧
      (s.time.toNat < 86400000000000 → t.island.health.eol = List.replicate 4 0xFFFFFFFF) ∧
      ∀ p < 64, (mfind s.island.ports p = none → t.island.health.eye.getD p 0 = 0) ∧
        ((mfind s.island.ports p).isSome = true → t.island.health.eye.getD p 0 = h.eye.getD p 0)) ∧
    (8 ≤ budget.toNat → budget.toNat ≤ 32 → (s.die d).firmware = true → ∃ t, exec (.powerBudgetAdjust d budget) s = .next t ∧ t = { s with dies := t.dies } ∧
      (t.die d).mxGov = budget.setWidth 32) ∧
    (budget.toNat < 8 → exec (.powerBudgetAdjust d budget) s = .next s) ∧
    ((s.die d).firmware = true → exec (.firmwareReturn d) s = .next s) ∧
    ((s.die d).firmware = false → ∃ t, exec (.firmwareReturn d) s = .next t ∧ t = { s with dies := t.dies, island := t.island } ∧ (t.die d).firmware = true ∧
      (t.die d).tin = none ∧ ∀ x, x ≠ d → t.die x = s.die x)

/-! ### The machine -/

/-- R73, R79, R89, R109, R178, R309, R337, R352, R365: what power-on leaves, where the manual gives it: the island boots,
every measurement register is 0, each register of a die has its table's reset value, nothing is registered and nothing
runs; and the memory has its canonical form. -/
def Obligations.ResetState : Prop :=
  let s := State.reset
  s.island.state = 0 ∧ (∀ j, mget (List.replicate 32 0) s.island.mreg j = List.replicate 32 0) ∧ s.queues = [] ∧ s.warps = [] ∧
  s.zinc.member = false ∧ (∀ n, mget 0 s.zinc.key n = 0) ∧ s.issue = none ∧ Memory.wf s = true ∧
  ∀ d, let D := s.die d
    (∀ n, mget 0 D.winView n = 0 ∧ mget 0 D.winStore n = 0 ∧ mget 0 D.winScale n = 0 ∧ mget 0 D.winCtl n = 0) ∧
    (∀ n, mget 0 D.poolCfg n = 0 ∧ mget 0 D.poolStat n = 0 ∧ mget 0 D.poolQref n = 0) ∧
    (∀ c n, c = 0 ∨ (4 ≤ c ∧ c ≤ 7) → n = D.leaseCls c → n.extractLsb' 0 20 = 500 ∧ n.extractLsb' 20 20 = 4000 ∧ n.extractLsb' 40 20 = 8000) ∧
    ((D.leaseCls 1).extractLsb' 0 20 = 100 ∧ (D.leaseCls 1).extractLsb' 20 20 = 1000 ∧ (D.leaseCls 1).extractLsb' 40 20 = 2000) ∧
    ((D.leaseCls 2).extractLsb' 0 20 = 2000 ∧ (D.leaseCls 2).extractLsb' 20 20 = 16000 ∧ (D.leaseCls 2).extractLsb' 40 20 = 32000) ∧
    D.leaseCls 3 = 0 ∧ (∀ n x, x = mget 0xFFFF1010 D.svcCfg n → x.extractLsb' 16 16 = 0xFFFF ∧ x.extractLsb' 8 8 = 0x10 ∧ x.extractLsb' 4 4 = 1 ∧ x.extractLsb' 0 4 = 0) ∧
    D.mxGov = 32 ∧ D.wdogCfg.getLsbD 31 = true ∧ D.wdogCfg.extractLsb' 0 6 = 32 ∧ D.raceCtl = 0 ∧ D.rasBase = 0 ∧ D.rasCtl = 6 ∧ D.rasHead = 0 ∧
    D.rasTail = 0 ∧ D.rasDrops = 0

/-- The model's memory keeps its canonical form in every step: addresses rise strictly, and no byte listed is what an unlisted
one reads as, so that equal memories are equal data (what an unlisted byte reads as: log entry 8, and R368 after a level-2
reset). -/
def Obligations.MemoryCanonical : Prop :=
  ∀ s t : State, Memory.wf s = true → step s = .next t → Memory.wf t = true
end

