-- ==== Sys2Proof/Laws/Map.lean ====
section
/-! SUPPORT. The laws of sparse maps: what a write does to every read, and that it keeps the canonical form. -/

namespace Sys2Proof

variable {α : Type}

/-- Below every key. -/
def mbelow (q : Nat) (m : NMap α) : Prop := ∀ e ∈ m, q < e.1

theorem msorted_cons {k : Nat} {v : α} {m : NMap α} :
    msorted ((k, v) :: m) = true ↔ mbelow k m ∧ msorted m = true := by
  induction m generalizing k v with
  | nil => simp [msorted, mbelow]
  | cons e m ih =>
    obtain ⟨k', v'⟩ := e
    simp only [msorted, Bool.and_eq_true, decide_eq_true_eq, mbelow, List.mem_cons, forall_eq_or_imp]
    constructor
    · rintro ⟨h, hs⟩
      exact ⟨⟨h, fun e he => Nat.lt_trans h ((ih.mp hs).1 e he)⟩, hs⟩
    · rintro ⟨⟨h, -⟩, hs⟩
      exact ⟨h, hs⟩

theorem mfind_below {q : Nat} {m : NMap α} (h : mbelow q m) : mfind m q = none := by
  induction m with
  | nil => rfl
  | cons e m ih =>
    obtain ⟨k, v⟩ := e
    have hk : q < k := h (k, v) (by simp)
    simp only [mfind, Nat.ne_of_lt hk, if_false]
    exact ih (fun e he => h e (List.mem_cons_of_mem _ he))

@[simp] theorem mfind_minsert_self (m : NMap α) (q : Nat) (x : α) : mfind (minsert m q x) q = some x := by
  induction m with
  | nil => simp [minsert, mfind]
  | cons e m ih =>
    obtain ⟨k, v⟩ := e
    simp only [minsert]
    split
    · simp [mfind]
    · split
      · simp_all [mfind]
      · rename_i h1 h2
        simp [mfind, h2, ih]

theorem mfind_minsert_ne (m : NMap α) {q r : Nat} (x : α) (h : r ≠ q) : mfind (minsert m q x) r = mfind m r := by
  induction m with
  | nil => simp [minsert, mfind, h]
  | cons e m ih =>
    obtain ⟨k, v⟩ := e
    simp only [minsert]
    split
    · simp [mfind, h]
    · split
      · subst_vars; simp [mfind, h]
      · simp [mfind, ih]

theorem mfind_merase_ne (m : NMap α) {q r : Nat} (h : r ≠ q) : mfind (merase m q) r = mfind m r := by
  induction m with
  | nil => rfl
  | cons e m ih =>
    obtain ⟨k, v⟩ := e
    simp only [merase]
    split
    · subst_vars; simp [mfind, h, ih]
    · simp [mfind, ih]

@[simp] theorem mfind_merase_self (m : NMap α) (q : Nat) : mfind (merase m q) q = none := by
  induction m with
  | nil => rfl
  | cons e m ih =>
    obtain ⟨k, v⟩ := e
    simp only [merase]
    split
    · exact ih
    · rename_i h; simp [mfind, h, ih]

theorem mem_minsert {m : NMap α} {q : Nat} {x : α} {e : Nat × α} (h : e ∈ minsert m q x) :
    e = (q, x) ∨ e ∈ m := by
  induction m with
  | nil => simpa [minsert] using h
  | cons f m ih =>
    obtain ⟨k, v⟩ := f
    simp only [minsert] at h
    split at h
    · simpa using h
    · split at h
      · simp only [List.mem_cons] at h ⊢
        rcases h with h | h
        · subst_vars; exact .inl rfl
        · exact .inr (.inr h)
      · simp only [List.mem_cons] at h ⊢
        rcases h with h | h
        · exact .inr (.inl h)
        · rcases ih h with h | h
          · exact .inl h
          · exact .inr (.inr h)

theorem mem_merase {m : NMap α} {q : Nat} {e : Nat × α} (h : e ∈ merase m q) : e ∈ m := by
  induction m with
  | nil => simp [merase] at h
  | cons f m ih =>
    obtain ⟨k, v⟩ := f
    simp only [merase] at h
    split at h
    · exact List.mem_cons_of_mem _ (ih h)
    · simp only [List.mem_cons] at h ⊢
      exact h.imp id ih

theorem msorted_minsert {m : NMap α} (hs : msorted m = true) (q : Nat) (x : α) : msorted (minsert m q x) = true := by
  induction m with
  | nil => rfl
  | cons e m ih =>
    obtain ⟨k, v⟩ := e
    have ⟨hb, hm⟩ := msorted_cons.mp hs
    simp only [minsert]
    split
    · rename_i h
      exact msorted_cons.mpr ⟨fun e he => by
        simp only [List.mem_cons] at he
        rcases he with rfl | he
        · exact h
        · exact Nat.lt_trans h (hb e he), hs⟩
    · split
      · exact msorted_cons.mpr ⟨hb, hm⟩
      · rename_i h1 h2
        exact msorted_cons.mpr ⟨fun e he => by
          rcases mem_minsert he with rfl | he
          · show k < q; omega
          · exact hb e he, ih hm⟩

theorem msorted_merase {m : NMap α} (hs : msorted m = true) (q : Nat) : msorted (merase m q) = true := by
  induction m with
  | nil => rfl
  | cons e m ih =>
    obtain ⟨k, v⟩ := e
    have ⟨hb, hm⟩ := msorted_cons.mp hs
    simp only [merase]
    split
    · exact ih hm
    · exact msorted_cons.mpr ⟨fun e he => hb e (mem_merase he), ih hm⟩

section Default

variable [DecidableEq α] {d : α}

@[simp] theorem mget_nil (q : Nat) : mget d ([] : NMap α) q = d := rfl

/-- A read after a write to the same place gives the value written. -/
@[simp] theorem mget_mput_self (m : NMap α) (q : Nat) (x : α) : mget d (mput d m q x) q = x := by
  simp only [mput]
  split
  · subst_vars; simp [mget]
  · simp [mget]

/-- A write leaves every other place alone. -/
theorem mget_mput_ne (m : NMap α) {q r : Nat} (x : α) (h : r ≠ q) : mget d (mput d m q x) r = mget d m r := by
  simp only [mput]
  split
  · simp [mget, mfind_merase_ne m h]
  · simp [mget, mfind_minsert_ne m x h]

/-- A write keeps the canonical form. -/
theorem mwf_mput {m : NMap α} (h : mwf d m = true) (q : Nat) (x : α) : mwf d (mput d m q x) = true := by
  simp only [mwf, Bool.and_eq_true, List.all_eq_true, decide_eq_true_eq] at h ⊢
  simp only [mput]
  split
  · exact ⟨msorted_merase h.1 q, fun e he => h.2 e (mem_merase he)⟩
  · rename_i hx
    exact ⟨msorted_minsert h.1 q x, fun e he => by
      rcases mem_minsert he with rfl | he
      · exact hx
      · exact h.2 e he⟩

end Default

end Sys2Proof
end

