-- ==== Sys2Proof/Laws/State.lean ====
section
/-! SUPPORT. What each update of the state leaves in every field: true by definition, so that no later proof unfolds a
record update. -/

namespace Sys2Proof.Machine

variable (s : State)

/-! ### `modWarp` -/

@[simp] theorem modWarp_issue (k : Nat) (f : Warp → Warp) : (s.modWarp k f).issue = s.issue := rfl
@[simp] theorem modWarp_agenda (k : Nat) (f : Warp → Warp) : (s.modWarp k f).agenda = s.agenda := rfl
@[simp] theorem modWarp_fresh (k : Nat) (f : Warp → Warp) : (s.modWarp k f).fresh = s.fresh := rfl
@[simp] theorem modWarp_nextId (k : Nat) (f : Warp → Warp) : (s.modWarp k f).nextId = s.nextId := rfl
@[simp] theorem modWarp_cycle (k : Nat) (f : Warp → Warp) : (s.modWarp k f).cycle = s.cycle := rfl
@[simp] theorem modWarp_turn (k : Nat) (f : Warp → Warp) : (s.modWarp k f).turn = s.turn := rfl
@[simp] theorem modWarp_time (k : Nat) (f : Warp → Warp) : (s.modWarp k f).time = s.time := rfl
@[simp] theorem modWarp_warps (k : Nat) (f : Warp → Warp) : (s.modWarp k f).warps = mupdate s.warps k f := rfl
@[simp] theorem modWarp_blocks (k : Nat) (f : Warp → Warp) : (s.modWarp k f).blocks = s.blocks := rfl
@[simp] theorem modWarp_cores (k : Nat) (f : Warp → Warp) : (s.modWarp k f).cores = s.cores := rfl
@[simp] theorem modWarp_launches (k : Nat) (f : Warp → Warp) : (s.modWarp k f).launches = s.launches := rfl
@[simp] theorem modWarp_queues (k : Nat) (f : Warp → Warp) : (s.modWarp k f).queues = s.queues := rfl
@[simp] theorem modWarp_graphs (k : Nat) (f : Warp → Warp) : (s.modWarp k f).graphs = s.graphs := rfl
@[simp] theorem modWarp_parts (k : Nat) (f : Warp → Warp) : (s.modWarp k f).parts = s.parts := rfl
@[simp] theorem modWarp_partitioned (k : Nat) (f : Warp → Warp) : (s.modWarp k f).partitioned = s.partitioned := rfl
@[simp] theorem modWarp_engines (k : Nat) (f : Warp → Warp) : (s.modWarp k f).engines = s.engines := rfl
@[simp] theorem modWarp_flights (k : Nat) (f : Warp → Warp) : (s.modWarp k f).flights = s.flights := rfl
@[simp] theorem modWarp_dies (k : Nat) (f : Warp → Warp) : (s.modWarp k f).dies = s.dies := rfl
@[simp] theorem modWarp_tlbs (k : Nat) (f : Warp → Warp) : (s.modWarp k f).tlbs = s.tlbs := rfl
@[simp] theorem modWarp_walks (k : Nat) (f : Warp → Warp) : (s.modWarp k f).walks = s.walks := rfl
@[simp] theorem modWarp_faults (k : Nat) (f : Warp → Warp) : (s.modWarp k f).faults = s.faults := rfl
@[simp] theorem modWarp_mem (k : Nat) (f : Warp → Warp) : (s.modWarp k f).mem = s.mem := rfl
@[simp] theorem modWarp_host (k : Nat) (f : Warp → Warp) : (s.modWarp k f).host = s.host := rfl
@[simp] theorem modWarp_epoch (k : Nat) (f : Warp → Warp) : (s.modWarp k f).epoch = s.epoch := rfl
@[simp] theorem modWarp_l2 (k : Nat) (f : Warp → Warp) : (s.modWarp k f).l2 = s.l2 := rfl
@[simp] theorem modWarp_uses (k : Nat) (f : Warp → Warp) : (s.modWarp k f).uses = s.uses := rfl
@[simp] theorem modWarp_badSectors (k : Nat) (f : Warp → Warp) : (s.modWarp k f).badSectors = s.badSectors := rfl
@[simp] theorem modWarp_badHbm (k : Nat) (f : Warp → Warp) : (s.modWarp k f).badHbm = s.badHbm := rfl
@[simp] theorem modWarp_retiredFrames (k : Nat) (f : Warp → Warp) : (s.modWarp k f).retiredFrames = s.retiredFrames := rfl
@[simp] theorem modWarp_copies (k : Nat) (f : Warp → Warp) : (s.modWarp k f).copies = s.copies := rfl
@[simp] theorem modWarp_stamps (k : Nat) (f : Warp → Warp) : (s.modWarp k f).stamps = s.stamps := rfl
@[simp] theorem modWarp_holds (k : Nat) (f : Warp → Warp) : (s.modWarp k f).holds = s.holds := rfl
@[simp] theorem modWarp_contexts (k : Nat) (f : Warp → Warp) : (s.modWarp k f).contexts = s.contexts := rfl
@[simp] theorem modWarp_zinc (k : Nat) (f : Warp → Warp) : (s.modWarp k f).zinc = s.zinc := rfl
@[simp] theorem modWarp_island (k : Nat) (f : Warp → Warp) : (s.modWarp k f).island = s.island := rfl
@[simp] theorem modWarp_kept (k : Nat) (f : Warp → Warp) : (s.modWarp k f).kept = s.kept := rfl
@[simp] theorem modWarp_sent (k : Nat) (f : Warp → Warp) : (s.modWarp k f).sent = s.sent := rfl

/-! ### `setWarp` -/

@[simp] theorem setWarp_issue (k : Nat) (W : Warp) : (s.setWarp k W).issue = s.issue := rfl
@[simp] theorem setWarp_agenda (k : Nat) (W : Warp) : (s.setWarp k W).agenda = s.agenda := rfl
@[simp] theorem setWarp_fresh (k : Nat) (W : Warp) : (s.setWarp k W).fresh = s.fresh := rfl
@[simp] theorem setWarp_nextId (k : Nat) (W : Warp) : (s.setWarp k W).nextId = s.nextId := rfl
@[simp] theorem setWarp_cycle (k : Nat) (W : Warp) : (s.setWarp k W).cycle = s.cycle := rfl
@[simp] theorem setWarp_turn (k : Nat) (W : Warp) : (s.setWarp k W).turn = s.turn := rfl
@[simp] theorem setWarp_time (k : Nat) (W : Warp) : (s.setWarp k W).time = s.time := rfl
@[simp] theorem setWarp_warps (k : Nat) (W : Warp) : (s.setWarp k W).warps = minsert s.warps k W := rfl
@[simp] theorem setWarp_blocks (k : Nat) (W : Warp) : (s.setWarp k W).blocks = s.blocks := rfl
@[simp] theorem setWarp_cores (k : Nat) (W : Warp) : (s.setWarp k W).cores = s.cores := rfl
@[simp] theorem setWarp_launches (k : Nat) (W : Warp) : (s.setWarp k W).launches = s.launches := rfl
@[simp] theorem setWarp_queues (k : Nat) (W : Warp) : (s.setWarp k W).queues = s.queues := rfl
@[simp] theorem setWarp_graphs (k : Nat) (W : Warp) : (s.setWarp k W).graphs = s.graphs := rfl
@[simp] theorem setWarp_parts (k : Nat) (W : Warp) : (s.setWarp k W).parts = s.parts := rfl
@[simp] theorem setWarp_partitioned (k : Nat) (W : Warp) : (s.setWarp k W).partitioned = s.partitioned := rfl
@[simp] theorem setWarp_engines (k : Nat) (W : Warp) : (s.setWarp k W).engines = s.engines := rfl
@[simp] theorem setWarp_flights (k : Nat) (W : Warp) : (s.setWarp k W).flights = s.flights := rfl
@[simp] theorem setWarp_dies (k : Nat) (W : Warp) : (s.setWarp k W).dies = s.dies := rfl
@[simp] theorem setWarp_tlbs (k : Nat) (W : Warp) : (s.setWarp k W).tlbs = s.tlbs := rfl
@[simp] theorem setWarp_walks (k : Nat) (W : Warp) : (s.setWarp k W).walks = s.walks := rfl
@[simp] theorem setWarp_faults (k : Nat) (W : Warp) : (s.setWarp k W).faults = s.faults := rfl
@[simp] theorem setWarp_mem (k : Nat) (W : Warp) : (s.setWarp k W).mem = s.mem := rfl
@[simp] theorem setWarp_host (k : Nat) (W : Warp) : (s.setWarp k W).host = s.host := rfl
@[simp] theorem setWarp_epoch (k : Nat) (W : Warp) : (s.setWarp k W).epoch = s.epoch := rfl
@[simp] theorem setWarp_l2 (k : Nat) (W : Warp) : (s.setWarp k W).l2 = s.l2 := rfl
@[simp] theorem setWarp_uses (k : Nat) (W : Warp) : (s.setWarp k W).uses = s.uses := rfl
@[simp] theorem setWarp_badSectors (k : Nat) (W : Warp) : (s.setWarp k W).badSectors = s.badSectors := rfl
@[simp] theorem setWarp_badHbm (k : Nat) (W : Warp) : (s.setWarp k W).badHbm = s.badHbm := rfl
@[simp] theorem setWarp_retiredFrames (k : Nat) (W : Warp) : (s.setWarp k W).retiredFrames = s.retiredFrames := rfl
@[simp] theorem setWarp_copies (k : Nat) (W : Warp) : (s.setWarp k W).copies = s.copies := rfl
@[simp] theorem setWarp_stamps (k : Nat) (W : Warp) : (s.setWarp k W).stamps = s.stamps := rfl
@[simp] theorem setWarp_holds (k : Nat) (W : Warp) : (s.setWarp k W).holds = s.holds := rfl
@[simp] theorem setWarp_contexts (k : Nat) (W : Warp) : (s.setWarp k W).contexts = s.contexts := rfl
@[simp] theorem setWarp_zinc (k : Nat) (W : Warp) : (s.setWarp k W).zinc = s.zinc := rfl
@[simp] theorem setWarp_island (k : Nat) (W : Warp) : (s.setWarp k W).island = s.island := rfl
@[simp] theorem setWarp_kept (k : Nat) (W : Warp) : (s.setWarp k W).kept = s.kept := rfl
@[simp] theorem setWarp_sent (k : Nat) (W : Warp) : (s.setWarp k W).sent = s.sent := rfl

/-! ### `modBlock` -/

@[simp] theorem modBlock_issue (b : Nat) (f : Block → Block) : (s.modBlock b f).issue = s.issue := rfl
@[simp] theorem modBlock_agenda (b : Nat) (f : Block → Block) : (s.modBlock b f).agenda = s.agenda := rfl
@[simp] theorem modBlock_fresh (b : Nat) (f : Block → Block) : (s.modBlock b f).fresh = s.fresh := rfl
@[simp] theorem modBlock_nextId (b : Nat) (f : Block → Block) : (s.modBlock b f).nextId = s.nextId := rfl
@[simp] theorem modBlock_cycle (b : Nat) (f : Block → Block) : (s.modBlock b f).cycle = s.cycle := rfl
@[simp] theorem modBlock_turn (b : Nat) (f : Block → Block) : (s.modBlock b f).turn = s.turn := rfl
@[simp] theorem modBlock_time (b : Nat) (f : Block → Block) : (s.modBlock b f).time = s.time := rfl
@[simp] theorem modBlock_warps (b : Nat) (f : Block → Block) : (s.modBlock b f).warps = s.warps := rfl
@[simp] theorem modBlock_blocks (b : Nat) (f : Block → Block) : (s.modBlock b f).blocks = mupdate s.blocks b f := rfl
@[simp] theorem modBlock_cores (b : Nat) (f : Block → Block) : (s.modBlock b f).cores = s.cores := rfl
@[simp] theorem modBlock_launches (b : Nat) (f : Block → Block) : (s.modBlock b f).launches = s.launches := rfl
@[simp] theorem modBlock_queues (b : Nat) (f : Block → Block) : (s.modBlock b f).queues = s.queues := rfl
@[simp] theorem modBlock_graphs (b : Nat) (f : Block → Block) : (s.modBlock b f).graphs = s.graphs := rfl
@[simp] theorem modBlock_parts (b : Nat) (f : Block → Block) : (s.modBlock b f).parts = s.parts := rfl
@[simp] theorem modBlock_partitioned (b : Nat) (f : Block → Block) : (s.modBlock b f).partitioned = s.partitioned := rfl
@[simp] theorem modBlock_engines (b : Nat) (f : Block → Block) : (s.modBlock b f).engines = s.engines := rfl
@[simp] theorem modBlock_flights (b : Nat) (f : Block → Block) : (s.modBlock b f).flights = s.flights := rfl
@[simp] theorem modBlock_dies (b : Nat) (f : Block → Block) : (s.modBlock b f).dies = s.dies := rfl
@[simp] theorem modBlock_tlbs (b : Nat) (f : Block → Block) : (s.modBlock b f).tlbs = s.tlbs := rfl
@[simp] theorem modBlock_walks (b : Nat) (f : Block → Block) : (s.modBlock b f).walks = s.walks := rfl
@[simp] theorem modBlock_faults (b : Nat) (f : Block → Block) : (s.modBlock b f).faults = s.faults := rfl
@[simp] theorem modBlock_mem (b : Nat) (f : Block → Block) : (s.modBlock b f).mem = s.mem := rfl
@[simp] theorem modBlock_host (b : Nat) (f : Block → Block) : (s.modBlock b f).host = s.host := rfl
@[simp] theorem modBlock_epoch (b : Nat) (f : Block → Block) : (s.modBlock b f).epoch = s.epoch := rfl
@[simp] theorem modBlock_l2 (b : Nat) (f : Block → Block) : (s.modBlock b f).l2 = s.l2 := rfl
@[simp] theorem modBlock_uses (b : Nat) (f : Block → Block) : (s.modBlock b f).uses = s.uses := rfl
@[simp] theorem modBlock_badSectors (b : Nat) (f : Block → Block) : (s.modBlock b f).badSectors = s.badSectors := rfl
@[simp] theorem modBlock_badHbm (b : Nat) (f : Block → Block) : (s.modBlock b f).badHbm = s.badHbm := rfl
@[simp] theorem modBlock_retiredFrames (b : Nat) (f : Block → Block) : (s.modBlock b f).retiredFrames = s.retiredFrames := rfl
@[simp] theorem modBlock_copies (b : Nat) (f : Block → Block) : (s.modBlock b f).copies = s.copies := rfl
@[simp] theorem modBlock_stamps (b : Nat) (f : Block → Block) : (s.modBlock b f).stamps = s.stamps := rfl
@[simp] theorem modBlock_holds (b : Nat) (f : Block → Block) : (s.modBlock b f).holds = s.holds := rfl
@[simp] theorem modBlock_contexts (b : Nat) (f : Block → Block) : (s.modBlock b f).contexts = s.contexts := rfl
@[simp] theorem modBlock_zinc (b : Nat) (f : Block → Block) : (s.modBlock b f).zinc = s.zinc := rfl
@[simp] theorem modBlock_island (b : Nat) (f : Block → Block) : (s.modBlock b f).island = s.island := rfl
@[simp] theorem modBlock_kept (b : Nat) (f : Block → Block) : (s.modBlock b f).kept = s.kept := rfl
@[simp] theorem modBlock_sent (b : Nat) (f : Block → Block) : (s.modBlock b f).sent = s.sent := rfl

/-! ### `modCore` -/

@[simp] theorem modCore_issue (k : Nat) (f : Core → Core) : (s.modCore k f).issue = s.issue := rfl
@[simp] theorem modCore_agenda (k : Nat) (f : Core → Core) : (s.modCore k f).agenda = s.agenda := rfl
@[simp] theorem modCore_fresh (k : Nat) (f : Core → Core) : (s.modCore k f).fresh = s.fresh := rfl
@[simp] theorem modCore_nextId (k : Nat) (f : Core → Core) : (s.modCore k f).nextId = s.nextId := rfl
@[simp] theorem modCore_cycle (k : Nat) (f : Core → Core) : (s.modCore k f).cycle = s.cycle := rfl
@[simp] theorem modCore_turn (k : Nat) (f : Core → Core) : (s.modCore k f).turn = s.turn := rfl
@[simp] theorem modCore_time (k : Nat) (f : Core → Core) : (s.modCore k f).time = s.time := rfl
@[simp] theorem modCore_warps (k : Nat) (f : Core → Core) : (s.modCore k f).warps = s.warps := rfl
@[simp] theorem modCore_blocks (k : Nat) (f : Core → Core) : (s.modCore k f).blocks = s.blocks := rfl
@[simp] theorem modCore_cores (k : Nat) (f : Core → Core) : (s.modCore k f).cores = minsert s.cores k (f (s.core k)) := rfl
@[simp] theorem modCore_launches (k : Nat) (f : Core → Core) : (s.modCore k f).launches = s.launches := rfl
@[simp] theorem modCore_queues (k : Nat) (f : Core → Core) : (s.modCore k f).queues = s.queues := rfl
@[simp] theorem modCore_graphs (k : Nat) (f : Core → Core) : (s.modCore k f).graphs = s.graphs := rfl
@[simp] theorem modCore_parts (k : Nat) (f : Core → Core) : (s.modCore k f).parts = s.parts := rfl
@[simp] theorem modCore_partitioned (k : Nat) (f : Core → Core) : (s.modCore k f).partitioned = s.partitioned := rfl
@[simp] theorem modCore_engines (k : Nat) (f : Core → Core) : (s.modCore k f).engines = s.engines := rfl
@[simp] theorem modCore_flights (k : Nat) (f : Core → Core) : (s.modCore k f).flights = s.flights := rfl
@[simp] theorem modCore_dies (k : Nat) (f : Core → Core) : (s.modCore k f).dies = s.dies := rfl
@[simp] theorem modCore_tlbs (k : Nat) (f : Core → Core) : (s.modCore k f).tlbs = s.tlbs := rfl
@[simp] theorem modCore_walks (k : Nat) (f : Core → Core) : (s.modCore k f).walks = s.walks := rfl
@[simp] theorem modCore_faults (k : Nat) (f : Core → Core) : (s.modCore k f).faults = s.faults := rfl
@[simp] theorem modCore_mem (k : Nat) (f : Core → Core) : (s.modCore k f).mem = s.mem := rfl
@[simp] theorem modCore_host (k : Nat) (f : Core → Core) : (s.modCore k f).host = s.host := rfl
@[simp] theorem modCore_epoch (k : Nat) (f : Core → Core) : (s.modCore k f).epoch = s.epoch := rfl
@[simp] theorem modCore_l2 (k : Nat) (f : Core → Core) : (s.modCore k f).l2 = s.l2 := rfl
@[simp] theorem modCore_uses (k : Nat) (f : Core → Core) : (s.modCore k f).uses = s.uses := rfl
@[simp] theorem modCore_badSectors (k : Nat) (f : Core → Core) : (s.modCore k f).badSectors = s.badSectors := rfl
@[simp] theorem modCore_badHbm (k : Nat) (f : Core → Core) : (s.modCore k f).badHbm = s.badHbm := rfl
@[simp] theorem modCore_retiredFrames (k : Nat) (f : Core → Core) : (s.modCore k f).retiredFrames = s.retiredFrames := rfl
@[simp] theorem modCore_copies (k : Nat) (f : Core → Core) : (s.modCore k f).copies = s.copies := rfl
@[simp] theorem modCore_stamps (k : Nat) (f : Core → Core) : (s.modCore k f).stamps = s.stamps := rfl
@[simp] theorem modCore_holds (k : Nat) (f : Core → Core) : (s.modCore k f).holds = s.holds := rfl
@[simp] theorem modCore_contexts (k : Nat) (f : Core → Core) : (s.modCore k f).contexts = s.contexts := rfl
@[simp] theorem modCore_zinc (k : Nat) (f : Core → Core) : (s.modCore k f).zinc = s.zinc := rfl
@[simp] theorem modCore_island (k : Nat) (f : Core → Core) : (s.modCore k f).island = s.island := rfl
@[simp] theorem modCore_kept (k : Nat) (f : Core → Core) : (s.modCore k f).kept = s.kept := rfl
@[simp] theorem modCore_sent (k : Nat) (f : Core → Core) : (s.modCore k f).sent = s.sent := rfl

/-! ### `modLaunch` -/

@[simp] theorem modLaunch_issue (k : Nat) (f : Launch → Launch) : (s.modLaunch k f).issue = s.issue := rfl
@[simp] theorem modLaunch_agenda (k : Nat) (f : Launch → Launch) : (s.modLaunch k f).agenda = s.agenda := rfl
@[simp] theorem modLaunch_fresh (k : Nat) (f : Launch → Launch) : (s.modLaunch k f).fresh = s.fresh := rfl
@[simp] theorem modLaunch_nextId (k : Nat) (f : Launch → Launch) : (s.modLaunch k f).nextId = s.nextId := rfl
@[simp] theorem modLaunch_cycle (k : Nat) (f : Launch → Launch) : (s.modLaunch k f).cycle = s.cycle := rfl
@[simp] theorem modLaunch_turn (k : Nat) (f : Launch → Launch) : (s.modLaunch k f).turn = s.turn := rfl
@[simp] theorem modLaunch_time (k : Nat) (f : Launch → Launch) : (s.modLaunch k f).time = s.time := rfl
@[simp] theorem modLaunch_warps (k : Nat) (f : Launch → Launch) : (s.modLaunch k f).warps = s.warps := rfl
@[simp] theorem modLaunch_blocks (k : Nat) (f : Launch → Launch) : (s.modLaunch k f).blocks = s.blocks := rfl
@[simp] theorem modLaunch_cores (k : Nat) (f : Launch → Launch) : (s.modLaunch k f).cores = s.cores := rfl
@[simp] theorem modLaunch_launches (k : Nat) (f : Launch → Launch) : (s.modLaunch k f).launches = mupdate s.launches k f := rfl
@[simp] theorem modLaunch_queues (k : Nat) (f : Launch → Launch) : (s.modLaunch k f).queues = s.queues := rfl
@[simp] theorem modLaunch_graphs (k : Nat) (f : Launch → Launch) : (s.modLaunch k f).graphs = s.graphs := rfl
@[simp] theorem modLaunch_parts (k : Nat) (f : Launch → Launch) : (s.modLaunch k f).parts = s.parts := rfl
@[simp] theorem modLaunch_partitioned (k : Nat) (f : Launch → Launch) : (s.modLaunch k f).partitioned = s.partitioned := rfl
@[simp] theorem modLaunch_engines (k : Nat) (f : Launch → Launch) : (s.modLaunch k f).engines = s.engines := rfl
@[simp] theorem modLaunch_flights (k : Nat) (f : Launch → Launch) : (s.modLaunch k f).flights = s.flights := rfl
@[simp] theorem modLaunch_dies (k : Nat) (f : Launch → Launch) : (s.modLaunch k f).dies = s.dies := rfl
@[simp] theorem modLaunch_tlbs (k : Nat) (f : Launch → Launch) : (s.modLaunch k f).tlbs = s.tlbs := rfl
@[simp] theorem modLaunch_walks (k : Nat) (f : Launch → Launch) : (s.modLaunch k f).walks = s.walks := rfl
@[simp] theorem modLaunch_faults (k : Nat) (f : Launch → Launch) : (s.modLaunch k f).faults = s.faults := rfl
@[simp] theorem modLaunch_mem (k : Nat) (f : Launch → Launch) : (s.modLaunch k f).mem = s.mem := rfl
@[simp] theorem modLaunch_host (k : Nat) (f : Launch → Launch) : (s.modLaunch k f).host = s.host := rfl
@[simp] theorem modLaunch_epoch (k : Nat) (f : Launch → Launch) : (s.modLaunch k f).epoch = s.epoch := rfl
@[simp] theorem modLaunch_l2 (k : Nat) (f : Launch → Launch) : (s.modLaunch k f).l2 = s.l2 := rfl
@[simp] theorem modLaunch_uses (k : Nat) (f : Launch → Launch) : (s.modLaunch k f).uses = s.uses := rfl
@[simp] theorem modLaunch_badSectors (k : Nat) (f : Launch → Launch) : (s.modLaunch k f).badSectors = s.badSectors := rfl
@[simp] theorem modLaunch_badHbm (k : Nat) (f : Launch → Launch) : (s.modLaunch k f).badHbm = s.badHbm := rfl
@[simp] theorem modLaunch_retiredFrames (k : Nat) (f : Launch → Launch) : (s.modLaunch k f).retiredFrames = s.retiredFrames := rfl
@[simp] theorem modLaunch_copies (k : Nat) (f : Launch → Launch) : (s.modLaunch k f).copies = s.copies := rfl
@[simp] theorem modLaunch_stamps (k : Nat) (f : Launch → Launch) : (s.modLaunch k f).stamps = s.stamps := rfl
@[simp] theorem modLaunch_holds (k : Nat) (f : Launch → Launch) : (s.modLaunch k f).holds = s.holds := rfl
@[simp] theorem modLaunch_contexts (k : Nat) (f : Launch → Launch) : (s.modLaunch k f).contexts = s.contexts := rfl
@[simp] theorem modLaunch_zinc (k : Nat) (f : Launch → Launch) : (s.modLaunch k f).zinc = s.zinc := rfl
@[simp] theorem modLaunch_island (k : Nat) (f : Launch → Launch) : (s.modLaunch k f).island = s.island := rfl
@[simp] theorem modLaunch_kept (k : Nat) (f : Launch → Launch) : (s.modLaunch k f).kept = s.kept := rfl
@[simp] theorem modLaunch_sent (k : Nat) (f : Launch → Launch) : (s.modLaunch k f).sent = s.sent := rfl

/-! ### `modQueue` -/

@[simp] theorem modQueue_issue (q : Nat) (f : Queue → Queue) : (s.modQueue q f).issue = s.issue := rfl
@[simp] theorem modQueue_agenda (q : Nat) (f : Queue → Queue) : (s.modQueue q f).agenda = s.agenda := rfl
@[simp] theorem modQueue_fresh (q : Nat) (f : Queue → Queue) : (s.modQueue q f).fresh = s.fresh := rfl
@[simp] theorem modQueue_nextId (q : Nat) (f : Queue → Queue) : (s.modQueue q f).nextId = s.nextId := rfl
@[simp] theorem modQueue_cycle (q : Nat) (f : Queue → Queue) : (s.modQueue q f).cycle = s.cycle := rfl
@[simp] theorem modQueue_turn (q : Nat) (f : Queue → Queue) : (s.modQueue q f).turn = s.turn := rfl
@[simp] theorem modQueue_time (q : Nat) (f : Queue → Queue) : (s.modQueue q f).time = s.time := rfl
@[simp] theorem modQueue_warps (q : Nat) (f : Queue → Queue) : (s.modQueue q f).warps = s.warps := rfl
@[simp] theorem modQueue_blocks (q : Nat) (f : Queue → Queue) : (s.modQueue q f).blocks = s.blocks := rfl
@[simp] theorem modQueue_cores (q : Nat) (f : Queue → Queue) : (s.modQueue q f).cores = s.cores := rfl
@[simp] theorem modQueue_launches (q : Nat) (f : Queue → Queue) : (s.modQueue q f).launches = s.launches := rfl
@[simp] theorem modQueue_queues (q : Nat) (f : Queue → Queue) : (s.modQueue q f).queues = mupdate s.queues q f := rfl
@[simp] theorem modQueue_graphs (q : Nat) (f : Queue → Queue) : (s.modQueue q f).graphs = s.graphs := rfl
@[simp] theorem modQueue_parts (q : Nat) (f : Queue → Queue) : (s.modQueue q f).parts = s.parts := rfl
@[simp] theorem modQueue_partitioned (q : Nat) (f : Queue → Queue) : (s.modQueue q f).partitioned = s.partitioned := rfl
@[simp] theorem modQueue_engines (q : Nat) (f : Queue → Queue) : (s.modQueue q f).engines = s.engines := rfl
@[simp] theorem modQueue_flights (q : Nat) (f : Queue → Queue) : (s.modQueue q f).flights = s.flights := rfl
@[simp] theorem modQueue_dies (q : Nat) (f : Queue → Queue) : (s.modQueue q f).dies = s.dies := rfl
@[simp] theorem modQueue_tlbs (q : Nat) (f : Queue → Queue) : (s.modQueue q f).tlbs = s.tlbs := rfl
@[simp] theorem modQueue_walks (q : Nat) (f : Queue → Queue) : (s.modQueue q f).walks = s.walks := rfl
@[simp] theorem modQueue_faults (q : Nat) (f : Queue → Queue) : (s.modQueue q f).faults = s.faults := rfl
@[simp] theorem modQueue_mem (q : Nat) (f : Queue → Queue) : (s.modQueue q f).mem = s.mem := rfl
@[simp] theorem modQueue_host (q : Nat) (f : Queue → Queue) : (s.modQueue q f).host = s.host := rfl
@[simp] theorem modQueue_epoch (q : Nat) (f : Queue → Queue) : (s.modQueue q f).epoch = s.epoch := rfl
@[simp] theorem modQueue_l2 (q : Nat) (f : Queue → Queue) : (s.modQueue q f).l2 = s.l2 := rfl
@[simp] theorem modQueue_uses (q : Nat) (f : Queue → Queue) : (s.modQueue q f).uses = s.uses := rfl
@[simp] theorem modQueue_badSectors (q : Nat) (f : Queue → Queue) : (s.modQueue q f).badSectors = s.badSectors := rfl
@[simp] theorem modQueue_badHbm (q : Nat) (f : Queue → Queue) : (s.modQueue q f).badHbm = s.badHbm := rfl
@[simp] theorem modQueue_retiredFrames (q : Nat) (f : Queue → Queue) : (s.modQueue q f).retiredFrames = s.retiredFrames := rfl
@[simp] theorem modQueue_copies (q : Nat) (f : Queue → Queue) : (s.modQueue q f).copies = s.copies := rfl
@[simp] theorem modQueue_stamps (q : Nat) (f : Queue → Queue) : (s.modQueue q f).stamps = s.stamps := rfl
@[simp] theorem modQueue_holds (q : Nat) (f : Queue → Queue) : (s.modQueue q f).holds = s.holds := rfl
@[simp] theorem modQueue_contexts (q : Nat) (f : Queue → Queue) : (s.modQueue q f).contexts = s.contexts := rfl
@[simp] theorem modQueue_zinc (q : Nat) (f : Queue → Queue) : (s.modQueue q f).zinc = s.zinc := rfl
@[simp] theorem modQueue_island (q : Nat) (f : Queue → Queue) : (s.modQueue q f).island = s.island := rfl
@[simp] theorem modQueue_kept (q : Nat) (f : Queue → Queue) : (s.modQueue q f).kept = s.kept := rfl
@[simp] theorem modQueue_sent (q : Nat) (f : Queue → Queue) : (s.modQueue q f).sent = s.sent := rfl

/-! ### `modGraph` -/

@[simp] theorem modGraph_issue (g : Nat) (f : Graph → Graph) : (s.modGraph g f).issue = s.issue := rfl
@[simp] theorem modGraph_agenda (g : Nat) (f : Graph → Graph) : (s.modGraph g f).agenda = s.agenda := rfl
@[simp] theorem modGraph_fresh (g : Nat) (f : Graph → Graph) : (s.modGraph g f).fresh = s.fresh := rfl
@[simp] theorem modGraph_nextId (g : Nat) (f : Graph → Graph) : (s.modGraph g f).nextId = s.nextId := rfl
@[simp] theorem modGraph_cycle (g : Nat) (f : Graph → Graph) : (s.modGraph g f).cycle = s.cycle := rfl
@[simp] theorem modGraph_turn (g : Nat) (f : Graph → Graph) : (s.modGraph g f).turn = s.turn := rfl
@[simp] theorem modGraph_time (g : Nat) (f : Graph → Graph) : (s.modGraph g f).time = s.time := rfl
@[simp] theorem modGraph_warps (g : Nat) (f : Graph → Graph) : (s.modGraph g f).warps = s.warps := rfl
@[simp] theorem modGraph_blocks (g : Nat) (f : Graph → Graph) : (s.modGraph g f).blocks = s.blocks := rfl
@[simp] theorem modGraph_cores (g : Nat) (f : Graph → Graph) : (s.modGraph g f).cores = s.cores := rfl
@[simp] theorem modGraph_launches (g : Nat) (f : Graph → Graph) : (s.modGraph g f).launches = s.launches := rfl
@[simp] theorem modGraph_queues (g : Nat) (f : Graph → Graph) : (s.modGraph g f).queues = s.queues := rfl
@[simp] theorem modGraph_graphs (g : Nat) (f : Graph → Graph) : (s.modGraph g f).graphs = mupdate s.graphs g f := rfl
@[simp] theorem modGraph_parts (g : Nat) (f : Graph → Graph) : (s.modGraph g f).parts = s.parts := rfl
@[simp] theorem modGraph_partitioned (g : Nat) (f : Graph → Graph) : (s.modGraph g f).partitioned = s.partitioned := rfl
@[simp] theorem modGraph_engines (g : Nat) (f : Graph → Graph) : (s.modGraph g f).engines = s.engines := rfl
@[simp] theorem modGraph_flights (g : Nat) (f : Graph → Graph) : (s.modGraph g f).flights = s.flights := rfl
@[simp] theorem modGraph_dies (g : Nat) (f : Graph → Graph) : (s.modGraph g f).dies = s.dies := rfl
@[simp] theorem modGraph_tlbs (g : Nat) (f : Graph → Graph) : (s.modGraph g f).tlbs = s.tlbs := rfl
@[simp] theorem modGraph_walks (g : Nat) (f : Graph → Graph) : (s.modGraph g f).walks = s.walks := rfl
@[simp] theorem modGraph_faults (g : Nat) (f : Graph → Graph) : (s.modGraph g f).faults = s.faults := rfl
@[simp] theorem modGraph_mem (g : Nat) (f : Graph → Graph) : (s.modGraph g f).mem = s.mem := rfl
@[simp] theorem modGraph_host (g : Nat) (f : Graph → Graph) : (s.modGraph g f).host = s.host := rfl
@[simp] theorem modGraph_epoch (g : Nat) (f : Graph → Graph) : (s.modGraph g f).epoch = s.epoch := rfl
@[simp] theorem modGraph_l2 (g : Nat) (f : Graph → Graph) : (s.modGraph g f).l2 = s.l2 := rfl
@[simp] theorem modGraph_uses (g : Nat) (f : Graph → Graph) : (s.modGraph g f).uses = s.uses := rfl
@[simp] theorem modGraph_badSectors (g : Nat) (f : Graph → Graph) : (s.modGraph g f).badSectors = s.badSectors := rfl
@[simp] theorem modGraph_badHbm (g : Nat) (f : Graph → Graph) : (s.modGraph g f).badHbm = s.badHbm := rfl
@[simp] theorem modGraph_retiredFrames (g : Nat) (f : Graph → Graph) : (s.modGraph g f).retiredFrames = s.retiredFrames := rfl
@[simp] theorem modGraph_copies (g : Nat) (f : Graph → Graph) : (s.modGraph g f).copies = s.copies := rfl
@[simp] theorem modGraph_stamps (g : Nat) (f : Graph → Graph) : (s.modGraph g f).stamps = s.stamps := rfl
@[simp] theorem modGraph_holds (g : Nat) (f : Graph → Graph) : (s.modGraph g f).holds = s.holds := rfl
@[simp] theorem modGraph_contexts (g : Nat) (f : Graph → Graph) : (s.modGraph g f).contexts = s.contexts := rfl
@[simp] theorem modGraph_zinc (g : Nat) (f : Graph → Graph) : (s.modGraph g f).zinc = s.zinc := rfl
@[simp] theorem modGraph_island (g : Nat) (f : Graph → Graph) : (s.modGraph g f).island = s.island := rfl
@[simp] theorem modGraph_kept (g : Nat) (f : Graph → Graph) : (s.modGraph g f).kept = s.kept := rfl
@[simp] theorem modGraph_sent (g : Nat) (f : Graph → Graph) : (s.modGraph g f).sent = s.sent := rfl

/-! ### `modPart` -/

@[simp] theorem modPart_issue (k : Nat) (f : Partition → Partition) : (s.modPart k f).issue = s.issue := rfl
@[simp] theorem modPart_agenda (k : Nat) (f : Partition → Partition) : (s.modPart k f).agenda = s.agenda := rfl
@[simp] theorem modPart_fresh (k : Nat) (f : Partition → Partition) : (s.modPart k f).fresh = s.fresh := rfl
@[simp] theorem modPart_nextId (k : Nat) (f : Partition → Partition) : (s.modPart k f).nextId = s.nextId := rfl
@[simp] theorem modPart_cycle (k : Nat) (f : Partition → Partition) : (s.modPart k f).cycle = s.cycle := rfl
@[simp] theorem modPart_turn (k : Nat) (f : Partition → Partition) : (s.modPart k f).turn = s.turn := rfl
@[simp] theorem modPart_time (k : Nat) (f : Partition → Partition) : (s.modPart k f).time = s.time := rfl
@[simp] theorem modPart_warps (k : Nat) (f : Partition → Partition) : (s.modPart k f).warps = s.warps := rfl
@[simp] theorem modPart_blocks (k : Nat) (f : Partition → Partition) : (s.modPart k f).blocks = s.blocks := rfl
@[simp] theorem modPart_cores (k : Nat) (f : Partition → Partition) : (s.modPart k f).cores = s.cores := rfl
@[simp] theorem modPart_launches (k : Nat) (f : Partition → Partition) : (s.modPart k f).launches = s.launches := rfl
@[simp] theorem modPart_queues (k : Nat) (f : Partition → Partition) : (s.modPart k f).queues = s.queues := rfl
@[simp] theorem modPart_graphs (k : Nat) (f : Partition → Partition) : (s.modPart k f).graphs = s.graphs := rfl
@[simp] theorem modPart_parts (k : Nat) (f : Partition → Partition) : (s.modPart k f).parts = mupdate s.parts k f := rfl
@[simp] theorem modPart_partitioned (k : Nat) (f : Partition → Partition) : (s.modPart k f).partitioned = s.partitioned := rfl
@[simp] theorem modPart_engines (k : Nat) (f : Partition → Partition) : (s.modPart k f).engines = s.engines := rfl
@[simp] theorem modPart_flights (k : Nat) (f : Partition → Partition) : (s.modPart k f).flights = s.flights := rfl
@[simp] theorem modPart_dies (k : Nat) (f : Partition → Partition) : (s.modPart k f).dies = s.dies := rfl
@[simp] theorem modPart_tlbs (k : Nat) (f : Partition → Partition) : (s.modPart k f).tlbs = s.tlbs := rfl
@[simp] theorem modPart_walks (k : Nat) (f : Partition → Partition) : (s.modPart k f).walks = s.walks := rfl
@[simp] theorem modPart_faults (k : Nat) (f : Partition → Partition) : (s.modPart k f).faults = s.faults := rfl
@[simp] theorem modPart_mem (k : Nat) (f : Partition → Partition) : (s.modPart k f).mem = s.mem := rfl
@[simp] theorem modPart_host (k : Nat) (f : Partition → Partition) : (s.modPart k f).host = s.host := rfl
@[simp] theorem modPart_epoch (k : Nat) (f : Partition → Partition) : (s.modPart k f).epoch = s.epoch := rfl
@[simp] theorem modPart_l2 (k : Nat) (f : Partition → Partition) : (s.modPart k f).l2 = s.l2 := rfl
@[simp] theorem modPart_uses (k : Nat) (f : Partition → Partition) : (s.modPart k f).uses = s.uses := rfl
@[simp] theorem modPart_badSectors (k : Nat) (f : Partition → Partition) : (s.modPart k f).badSectors = s.badSectors := rfl
@[simp] theorem modPart_badHbm (k : Nat) (f : Partition → Partition) : (s.modPart k f).badHbm = s.badHbm := rfl
@[simp] theorem modPart_retiredFrames (k : Nat) (f : Partition → Partition) : (s.modPart k f).retiredFrames = s.retiredFrames := rfl
@[simp] theorem modPart_copies (k : Nat) (f : Partition → Partition) : (s.modPart k f).copies = s.copies := rfl
@[simp] theorem modPart_stamps (k : Nat) (f : Partition → Partition) : (s.modPart k f).stamps = s.stamps := rfl
@[simp] theorem modPart_holds (k : Nat) (f : Partition → Partition) : (s.modPart k f).holds = s.holds := rfl
@[simp] theorem modPart_contexts (k : Nat) (f : Partition → Partition) : (s.modPart k f).contexts = s.contexts := rfl
@[simp] theorem modPart_zinc (k : Nat) (f : Partition → Partition) : (s.modPart k f).zinc = s.zinc := rfl
@[simp] theorem modPart_island (k : Nat) (f : Partition → Partition) : (s.modPart k f).island = s.island := rfl
@[simp] theorem modPart_kept (k : Nat) (f : Partition → Partition) : (s.modPart k f).kept = s.kept := rfl
@[simp] theorem modPart_sent (k : Nat) (f : Partition → Partition) : (s.modPart k f).sent = s.sent := rfl

/-! ### `modEngine` -/

@[simp] theorem modEngine_issue (op : Nat) (f : Engine → Engine) : (s.modEngine op f).issue = s.issue := rfl
@[simp] theorem modEngine_agenda (op : Nat) (f : Engine → Engine) : (s.modEngine op f).agenda = s.agenda := rfl
@[simp] theorem modEngine_fresh (op : Nat) (f : Engine → Engine) : (s.modEngine op f).fresh = s.fresh := rfl
@[simp] theorem modEngine_nextId (op : Nat) (f : Engine → Engine) : (s.modEngine op f).nextId = s.nextId := rfl
@[simp] theorem modEngine_cycle (op : Nat) (f : Engine → Engine) : (s.modEngine op f).cycle = s.cycle := rfl
@[simp] theorem modEngine_turn (op : Nat) (f : Engine → Engine) : (s.modEngine op f).turn = s.turn := rfl
@[simp] theorem modEngine_time (op : Nat) (f : Engine → Engine) : (s.modEngine op f).time = s.time := rfl
@[simp] theorem modEngine_warps (op : Nat) (f : Engine → Engine) : (s.modEngine op f).warps = s.warps := rfl
@[simp] theorem modEngine_blocks (op : Nat) (f : Engine → Engine) : (s.modEngine op f).blocks = s.blocks := rfl
@[simp] theorem modEngine_cores (op : Nat) (f : Engine → Engine) : (s.modEngine op f).cores = s.cores := rfl
@[simp] theorem modEngine_launches (op : Nat) (f : Engine → Engine) : (s.modEngine op f).launches = s.launches := rfl
@[simp] theorem modEngine_queues (op : Nat) (f : Engine → Engine) : (s.modEngine op f).queues = s.queues := rfl
@[simp] theorem modEngine_graphs (op : Nat) (f : Engine → Engine) : (s.modEngine op f).graphs = s.graphs := rfl
@[simp] theorem modEngine_parts (op : Nat) (f : Engine → Engine) : (s.modEngine op f).parts = s.parts := rfl
@[simp] theorem modEngine_partitioned (op : Nat) (f : Engine → Engine) : (s.modEngine op f).partitioned = s.partitioned := rfl
@[simp] theorem modEngine_engines (op : Nat) (f : Engine → Engine) : (s.modEngine op f).engines = mupdate s.engines op f := rfl
@[simp] theorem modEngine_flights (op : Nat) (f : Engine → Engine) : (s.modEngine op f).flights = s.flights := rfl
@[simp] theorem modEngine_dies (op : Nat) (f : Engine → Engine) : (s.modEngine op f).dies = s.dies := rfl
@[simp] theorem modEngine_tlbs (op : Nat) (f : Engine → Engine) : (s.modEngine op f).tlbs = s.tlbs := rfl
@[simp] theorem modEngine_walks (op : Nat) (f : Engine → Engine) : (s.modEngine op f).walks = s.walks := rfl
@[simp] theorem modEngine_faults (op : Nat) (f : Engine → Engine) : (s.modEngine op f).faults = s.faults := rfl
@[simp] theorem modEngine_mem (op : Nat) (f : Engine → Engine) : (s.modEngine op f).mem = s.mem := rfl
@[simp] theorem modEngine_host (op : Nat) (f : Engine → Engine) : (s.modEngine op f).host = s.host := rfl
@[simp] theorem modEngine_epoch (op : Nat) (f : Engine → Engine) : (s.modEngine op f).epoch = s.epoch := rfl
@[simp] theorem modEngine_l2 (op : Nat) (f : Engine → Engine) : (s.modEngine op f).l2 = s.l2 := rfl
@[simp] theorem modEngine_uses (op : Nat) (f : Engine → Engine) : (s.modEngine op f).uses = s.uses := rfl
@[simp] theorem modEngine_badSectors (op : Nat) (f : Engine → Engine) : (s.modEngine op f).badSectors = s.badSectors := rfl
@[simp] theorem modEngine_badHbm (op : Nat) (f : Engine → Engine) : (s.modEngine op f).badHbm = s.badHbm := rfl
@[simp] theorem modEngine_retiredFrames (op : Nat) (f : Engine → Engine) : (s.modEngine op f).retiredFrames = s.retiredFrames := rfl
@[simp] theorem modEngine_copies (op : Nat) (f : Engine → Engine) : (s.modEngine op f).copies = s.copies := rfl
@[simp] theorem modEngine_stamps (op : Nat) (f : Engine → Engine) : (s.modEngine op f).stamps = s.stamps := rfl
@[simp] theorem modEngine_holds (op : Nat) (f : Engine → Engine) : (s.modEngine op f).holds = s.holds := rfl
@[simp] theorem modEngine_contexts (op : Nat) (f : Engine → Engine) : (s.modEngine op f).contexts = s.contexts := rfl
@[simp] theorem modEngine_zinc (op : Nat) (f : Engine → Engine) : (s.modEngine op f).zinc = s.zinc := rfl
@[simp] theorem modEngine_island (op : Nat) (f : Engine → Engine) : (s.modEngine op f).island = s.island := rfl
@[simp] theorem modEngine_kept (op : Nat) (f : Engine → Engine) : (s.modEngine op f).kept = s.kept := rfl
@[simp] theorem modEngine_sent (op : Nat) (f : Engine → Engine) : (s.modEngine op f).sent = s.sent := rfl

/-! ### `modFlight` -/

@[simp] theorem modFlight_issue (f : Nat) (g : Flight → Flight) : (s.modFlight f g).issue = s.issue := rfl
@[simp] theorem modFlight_agenda (f : Nat) (g : Flight → Flight) : (s.modFlight f g).agenda = s.agenda := rfl
@[simp] theorem modFlight_fresh (f : Nat) (g : Flight → Flight) : (s.modFlight f g).fresh = s.fresh := rfl
@[simp] theorem modFlight_nextId (f : Nat) (g : Flight → Flight) : (s.modFlight f g).nextId = s.nextId := rfl
@[simp] theorem modFlight_cycle (f : Nat) (g : Flight → Flight) : (s.modFlight f g).cycle = s.cycle := rfl
@[simp] theorem modFlight_turn (f : Nat) (g : Flight → Flight) : (s.modFlight f g).turn = s.turn := rfl
@[simp] theorem modFlight_time (f : Nat) (g : Flight → Flight) : (s.modFlight f g).time = s.time := rfl
@[simp] theorem modFlight_warps (f : Nat) (g : Flight → Flight) : (s.modFlight f g).warps = s.warps := rfl
@[simp] theorem modFlight_blocks (f : Nat) (g : Flight → Flight) : (s.modFlight f g).blocks = s.blocks := rfl
@[simp] theorem modFlight_cores (f : Nat) (g : Flight → Flight) : (s.modFlight f g).cores = s.cores := rfl
@[simp] theorem modFlight_launches (f : Nat) (g : Flight → Flight) : (s.modFlight f g).launches = s.launches := rfl
@[simp] theorem modFlight_queues (f : Nat) (g : Flight → Flight) : (s.modFlight f g).queues = s.queues := rfl
@[simp] theorem modFlight_graphs (f : Nat) (g : Flight → Flight) : (s.modFlight f g).graphs = s.graphs := rfl
@[simp] theorem modFlight_parts (f : Nat) (g : Flight → Flight) : (s.modFlight f g).parts = s.parts := rfl
@[simp] theorem modFlight_partitioned (f : Nat) (g : Flight → Flight) : (s.modFlight f g).partitioned = s.partitioned := rfl
@[simp] theorem modFlight_engines (f : Nat) (g : Flight → Flight) : (s.modFlight f g).engines = s.engines := rfl
@[simp] theorem modFlight_flights (f : Nat) (g : Flight → Flight) : (s.modFlight f g).flights = mupdate s.flights f g := rfl
@[simp] theorem modFlight_dies (f : Nat) (g : Flight → Flight) : (s.modFlight f g).dies = s.dies := rfl
@[simp] theorem modFlight_tlbs (f : Nat) (g : Flight → Flight) : (s.modFlight f g).tlbs = s.tlbs := rfl
@[simp] theorem modFlight_walks (f : Nat) (g : Flight → Flight) : (s.modFlight f g).walks = s.walks := rfl
@[simp] theorem modFlight_faults (f : Nat) (g : Flight → Flight) : (s.modFlight f g).faults = s.faults := rfl
@[simp] theorem modFlight_mem (f : Nat) (g : Flight → Flight) : (s.modFlight f g).mem = s.mem := rfl
@[simp] theorem modFlight_host (f : Nat) (g : Flight → Flight) : (s.modFlight f g).host = s.host := rfl
@[simp] theorem modFlight_epoch (f : Nat) (g : Flight → Flight) : (s.modFlight f g).epoch = s.epoch := rfl
@[simp] theorem modFlight_l2 (f : Nat) (g : Flight → Flight) : (s.modFlight f g).l2 = s.l2 := rfl
@[simp] theorem modFlight_uses (f : Nat) (g : Flight → Flight) : (s.modFlight f g).uses = s.uses := rfl
@[simp] theorem modFlight_badSectors (f : Nat) (g : Flight → Flight) : (s.modFlight f g).badSectors = s.badSectors := rfl
@[simp] theorem modFlight_badHbm (f : Nat) (g : Flight → Flight) : (s.modFlight f g).badHbm = s.badHbm := rfl
@[simp] theorem modFlight_retiredFrames (f : Nat) (g : Flight → Flight) : (s.modFlight f g).retiredFrames = s.retiredFrames := rfl
@[simp] theorem modFlight_copies (f : Nat) (g : Flight → Flight) : (s.modFlight f g).copies = s.copies := rfl
@[simp] theorem modFlight_stamps (f : Nat) (g : Flight → Flight) : (s.modFlight f g).stamps = s.stamps := rfl
@[simp] theorem modFlight_holds (f : Nat) (g : Flight → Flight) : (s.modFlight f g).holds = s.holds := rfl
@[simp] theorem modFlight_contexts (f : Nat) (g : Flight → Flight) : (s.modFlight f g).contexts = s.contexts := rfl
@[simp] theorem modFlight_zinc (f : Nat) (g : Flight → Flight) : (s.modFlight f g).zinc = s.zinc := rfl
@[simp] theorem modFlight_island (f : Nat) (g : Flight → Flight) : (s.modFlight f g).island = s.island := rfl
@[simp] theorem modFlight_kept (f : Nat) (g : Flight → Flight) : (s.modFlight f g).kept = s.kept := rfl
@[simp] theorem modFlight_sent (f : Nat) (g : Flight → Flight) : (s.modFlight f g).sent = s.sent := rfl

/-! ### `modDie` -/

@[simp] theorem modDie_issue (d : Nat) (f : Die → Die) : (s.modDie d f).issue = s.issue := rfl
@[simp] theorem modDie_agenda (d : Nat) (f : Die → Die) : (s.modDie d f).agenda = s.agenda := rfl
@[simp] theorem modDie_fresh (d : Nat) (f : Die → Die) : (s.modDie d f).fresh = s.fresh := rfl
@[simp] theorem modDie_nextId (d : Nat) (f : Die → Die) : (s.modDie d f).nextId = s.nextId := rfl
@[simp] theorem modDie_cycle (d : Nat) (f : Die → Die) : (s.modDie d f).cycle = s.cycle := rfl
@[simp] theorem modDie_turn (d : Nat) (f : Die → Die) : (s.modDie d f).turn = s.turn := rfl
@[simp] theorem modDie_time (d : Nat) (f : Die → Die) : (s.modDie d f).time = s.time := rfl
@[simp] theorem modDie_warps (d : Nat) (f : Die → Die) : (s.modDie d f).warps = s.warps := rfl
@[simp] theorem modDie_blocks (d : Nat) (f : Die → Die) : (s.modDie d f).blocks = s.blocks := rfl
@[simp] theorem modDie_cores (d : Nat) (f : Die → Die) : (s.modDie d f).cores = s.cores := rfl
@[simp] theorem modDie_launches (d : Nat) (f : Die → Die) : (s.modDie d f).launches = s.launches := rfl
@[simp] theorem modDie_queues (d : Nat) (f : Die → Die) : (s.modDie d f).queues = s.queues := rfl
@[simp] theorem modDie_graphs (d : Nat) (f : Die → Die) : (s.modDie d f).graphs = s.graphs := rfl
@[simp] theorem modDie_parts (d : Nat) (f : Die → Die) : (s.modDie d f).parts = s.parts := rfl
@[simp] theorem modDie_partitioned (d : Nat) (f : Die → Die) : (s.modDie d f).partitioned = s.partitioned := rfl
@[simp] theorem modDie_engines (d : Nat) (f : Die → Die) : (s.modDie d f).engines = s.engines := rfl
@[simp] theorem modDie_flights (d : Nat) (f : Die → Die) : (s.modDie d f).flights = s.flights := rfl
@[simp] theorem modDie_dies (d : Nat) (f : Die → Die) : (s.modDie d f).dies = minsert s.dies d (f (s.die d)) := rfl
@[simp] theorem modDie_tlbs (d : Nat) (f : Die → Die) : (s.modDie d f).tlbs = s.tlbs := rfl
@[simp] theorem modDie_walks (d : Nat) (f : Die → Die) : (s.modDie d f).walks = s.walks := rfl
@[simp] theorem modDie_faults (d : Nat) (f : Die → Die) : (s.modDie d f).faults = s.faults := rfl
@[simp] theorem modDie_mem (d : Nat) (f : Die → Die) : (s.modDie d f).mem = s.mem := rfl
@[simp] theorem modDie_host (d : Nat) (f : Die → Die) : (s.modDie d f).host = s.host := rfl
@[simp] theorem modDie_epoch (d : Nat) (f : Die → Die) : (s.modDie d f).epoch = s.epoch := rfl
@[simp] theorem modDie_l2 (d : Nat) (f : Die → Die) : (s.modDie d f).l2 = s.l2 := rfl
@[simp] theorem modDie_uses (d : Nat) (f : Die → Die) : (s.modDie d f).uses = s.uses := rfl
@[simp] theorem modDie_badSectors (d : Nat) (f : Die → Die) : (s.modDie d f).badSectors = s.badSectors := rfl
@[simp] theorem modDie_badHbm (d : Nat) (f : Die → Die) : (s.modDie d f).badHbm = s.badHbm := rfl
@[simp] theorem modDie_retiredFrames (d : Nat) (f : Die → Die) : (s.modDie d f).retiredFrames = s.retiredFrames := rfl
@[simp] theorem modDie_copies (d : Nat) (f : Die → Die) : (s.modDie d f).copies = s.copies := rfl
@[simp] theorem modDie_stamps (d : Nat) (f : Die → Die) : (s.modDie d f).stamps = s.stamps := rfl
@[simp] theorem modDie_holds (d : Nat) (f : Die → Die) : (s.modDie d f).holds = s.holds := rfl
@[simp] theorem modDie_contexts (d : Nat) (f : Die → Die) : (s.modDie d f).contexts = s.contexts := rfl
@[simp] theorem modDie_zinc (d : Nat) (f : Die → Die) : (s.modDie d f).zinc = s.zinc := rfl
@[simp] theorem modDie_island (d : Nat) (f : Die → Die) : (s.modDie d f).island = s.island := rfl
@[simp] theorem modDie_kept (d : Nat) (f : Die → Die) : (s.modDie d f).kept = s.kept := rfl
@[simp] theorem modDie_sent (d : Nat) (f : Die → Die) : (s.modDie d f).sent = s.sent := rfl

/-! ### `modZinc` -/

@[simp] theorem modZinc_issue (f : Zinc → Zinc) : (s.modZinc f).issue = s.issue := rfl
@[simp] theorem modZinc_agenda (f : Zinc → Zinc) : (s.modZinc f).agenda = s.agenda := rfl
@[simp] theorem modZinc_fresh (f : Zinc → Zinc) : (s.modZinc f).fresh = s.fresh := rfl
@[simp] theorem modZinc_nextId (f : Zinc → Zinc) : (s.modZinc f).nextId = s.nextId := rfl
@[simp] theorem modZinc_cycle (f : Zinc → Zinc) : (s.modZinc f).cycle = s.cycle := rfl
@[simp] theorem modZinc_turn (f : Zinc → Zinc) : (s.modZinc f).turn = s.turn := rfl
@[simp] theorem modZinc_time (f : Zinc → Zinc) : (s.modZinc f).time = s.time := rfl
@[simp] theorem modZinc_warps (f : Zinc → Zinc) : (s.modZinc f).warps = s.warps := rfl
@[simp] theorem modZinc_blocks (f : Zinc → Zinc) : (s.modZinc f).blocks = s.blocks := rfl
@[simp] theorem modZinc_cores (f : Zinc → Zinc) : (s.modZinc f).cores = s.cores := rfl
@[simp] theorem modZinc_launches (f : Zinc → Zinc) : (s.modZinc f).launches = s.launches := rfl
@[simp] theorem modZinc_queues (f : Zinc → Zinc) : (s.modZinc f).queues = s.queues := rfl
@[simp] theorem modZinc_graphs (f : Zinc → Zinc) : (s.modZinc f).graphs = s.graphs := rfl
@[simp] theorem modZinc_parts (f : Zinc → Zinc) : (s.modZinc f).parts = s.parts := rfl
@[simp] theorem modZinc_partitioned (f : Zinc → Zinc) : (s.modZinc f).partitioned = s.partitioned := rfl
@[simp] theorem modZinc_engines (f : Zinc → Zinc) : (s.modZinc f).engines = s.engines := rfl
@[simp] theorem modZinc_flights (f : Zinc → Zinc) : (s.modZinc f).flights = s.flights := rfl
@[simp] theorem modZinc_dies (f : Zinc → Zinc) : (s.modZinc f).dies = s.dies := rfl
@[simp] theorem modZinc_tlbs (f : Zinc → Zinc) : (s.modZinc f).tlbs = s.tlbs := rfl
@[simp] theorem modZinc_walks (f : Zinc → Zinc) : (s.modZinc f).walks = s.walks := rfl
@[simp] theorem modZinc_faults (f : Zinc → Zinc) : (s.modZinc f).faults = s.faults := rfl
@[simp] theorem modZinc_mem (f : Zinc → Zinc) : (s.modZinc f).mem = s.mem := rfl
@[simp] theorem modZinc_host (f : Zinc → Zinc) : (s.modZinc f).host = s.host := rfl
@[simp] theorem modZinc_epoch (f : Zinc → Zinc) : (s.modZinc f).epoch = s.epoch := rfl
@[simp] theorem modZinc_l2 (f : Zinc → Zinc) : (s.modZinc f).l2 = s.l2 := rfl
@[simp] theorem modZinc_uses (f : Zinc → Zinc) : (s.modZinc f).uses = s.uses := rfl
@[simp] theorem modZinc_badSectors (f : Zinc → Zinc) : (s.modZinc f).badSectors = s.badSectors := rfl
@[simp] theorem modZinc_badHbm (f : Zinc → Zinc) : (s.modZinc f).badHbm = s.badHbm := rfl
@[simp] theorem modZinc_retiredFrames (f : Zinc → Zinc) : (s.modZinc f).retiredFrames = s.retiredFrames := rfl
@[simp] theorem modZinc_copies (f : Zinc → Zinc) : (s.modZinc f).copies = s.copies := rfl
@[simp] theorem modZinc_stamps (f : Zinc → Zinc) : (s.modZinc f).stamps = s.stamps := rfl
@[simp] theorem modZinc_holds (f : Zinc → Zinc) : (s.modZinc f).holds = s.holds := rfl
@[simp] theorem modZinc_contexts (f : Zinc → Zinc) : (s.modZinc f).contexts = s.contexts := rfl
@[simp] theorem modZinc_zinc (f : Zinc → Zinc) : (s.modZinc f).zinc = f s.zinc := rfl
@[simp] theorem modZinc_island (f : Zinc → Zinc) : (s.modZinc f).island = s.island := rfl
@[simp] theorem modZinc_kept (f : Zinc → Zinc) : (s.modZinc f).kept = s.kept := rfl
@[simp] theorem modZinc_sent (f : Zinc → Zinc) : (s.modZinc f).sent = s.sent := rfl

/-! ### `modIsland` -/

@[simp] theorem modIsland_issue (f : Island → Island) : (s.modIsland f).issue = s.issue := rfl
@[simp] theorem modIsland_agenda (f : Island → Island) : (s.modIsland f).agenda = s.agenda := rfl
@[simp] theorem modIsland_fresh (f : Island → Island) : (s.modIsland f).fresh = s.fresh := rfl
@[simp] theorem modIsland_nextId (f : Island → Island) : (s.modIsland f).nextId = s.nextId := rfl
@[simp] theorem modIsland_cycle (f : Island → Island) : (s.modIsland f).cycle = s.cycle := rfl
@[simp] theorem modIsland_turn (f : Island → Island) : (s.modIsland f).turn = s.turn := rfl
@[simp] theorem modIsland_time (f : Island → Island) : (s.modIsland f).time = s.time := rfl
@[simp] theorem modIsland_warps (f : Island → Island) : (s.modIsland f).warps = s.warps := rfl
@[simp] theorem modIsland_blocks (f : Island → Island) : (s.modIsland f).blocks = s.blocks := rfl
@[simp] theorem modIsland_cores (f : Island → Island) : (s.modIsland f).cores = s.cores := rfl
@[simp] theorem modIsland_launches (f : Island → Island) : (s.modIsland f).launches = s.launches := rfl
@[simp] theorem modIsland_queues (f : Island → Island) : (s.modIsland f).queues = s.queues := rfl
@[simp] theorem modIsland_graphs (f : Island → Island) : (s.modIsland f).graphs = s.graphs := rfl
@[simp] theorem modIsland_parts (f : Island → Island) : (s.modIsland f).parts = s.parts := rfl
@[simp] theorem modIsland_partitioned (f : Island → Island) : (s.modIsland f).partitioned = s.partitioned := rfl
@[simp] theorem modIsland_engines (f : Island → Island) : (s.modIsland f).engines = s.engines := rfl
@[simp] theorem modIsland_flights (f : Island → Island) : (s.modIsland f).flights = s.flights := rfl
@[simp] theorem modIsland_dies (f : Island → Island) : (s.modIsland f).dies = s.dies := rfl
@[simp] theorem modIsland_tlbs (f : Island → Island) : (s.modIsland f).tlbs = s.tlbs := rfl
@[simp] theorem modIsland_walks (f : Island → Island) : (s.modIsland f).walks = s.walks := rfl
@[simp] theorem modIsland_faults (f : Island → Island) : (s.modIsland f).faults = s.faults := rfl
@[simp] theorem modIsland_mem (f : Island → Island) : (s.modIsland f).mem = s.mem := rfl
@[simp] theorem modIsland_host (f : Island → Island) : (s.modIsland f).host = s.host := rfl
@[simp] theorem modIsland_epoch (f : Island → Island) : (s.modIsland f).epoch = s.epoch := rfl
@[simp] theorem modIsland_l2 (f : Island → Island) : (s.modIsland f).l2 = s.l2 := rfl
@[simp] theorem modIsland_uses (f : Island → Island) : (s.modIsland f).uses = s.uses := rfl
@[simp] theorem modIsland_badSectors (f : Island → Island) : (s.modIsland f).badSectors = s.badSectors := rfl
@[simp] theorem modIsland_badHbm (f : Island → Island) : (s.modIsland f).badHbm = s.badHbm := rfl
@[simp] theorem modIsland_retiredFrames (f : Island → Island) : (s.modIsland f).retiredFrames = s.retiredFrames := rfl
@[simp] theorem modIsland_copies (f : Island → Island) : (s.modIsland f).copies = s.copies := rfl
@[simp] theorem modIsland_stamps (f : Island → Island) : (s.modIsland f).stamps = s.stamps := rfl
@[simp] theorem modIsland_holds (f : Island → Island) : (s.modIsland f).holds = s.holds := rfl
@[simp] theorem modIsland_contexts (f : Island → Island) : (s.modIsland f).contexts = s.contexts := rfl
@[simp] theorem modIsland_zinc (f : Island → Island) : (s.modIsland f).zinc = s.zinc := rfl
@[simp] theorem modIsland_island (f : Island → Island) : (s.modIsland f).island = f s.island := rfl
@[simp] theorem modIsland_kept (f : Island → Island) : (s.modIsland f).kept = s.kept := rfl
@[simp] theorem modIsland_sent (f : Island → Island) : (s.modIsland f).sent = s.sent := rfl

/-! ### `bump` -/

@[simp] theorem bump_issue : (s.bump).issue = s.issue := rfl
@[simp] theorem bump_agenda : (s.bump).agenda = s.agenda := rfl
@[simp] theorem bump_fresh : (s.bump).fresh = s.fresh := rfl
@[simp] theorem bump_nextId : (s.bump).nextId = s.nextId + 1 := rfl
@[simp] theorem bump_cycle : (s.bump).cycle = s.cycle := rfl
@[simp] theorem bump_turn : (s.bump).turn = s.turn := rfl
@[simp] theorem bump_time : (s.bump).time = s.time := rfl
@[simp] theorem bump_warps : (s.bump).warps = s.warps := rfl
@[simp] theorem bump_blocks : (s.bump).blocks = s.blocks := rfl
@[simp] theorem bump_cores : (s.bump).cores = s.cores := rfl
@[simp] theorem bump_launches : (s.bump).launches = s.launches := rfl
@[simp] theorem bump_queues : (s.bump).queues = s.queues := rfl
@[simp] theorem bump_graphs : (s.bump).graphs = s.graphs := rfl
@[simp] theorem bump_parts : (s.bump).parts = s.parts := rfl
@[simp] theorem bump_partitioned : (s.bump).partitioned = s.partitioned := rfl
@[simp] theorem bump_engines : (s.bump).engines = s.engines := rfl
@[simp] theorem bump_flights : (s.bump).flights = s.flights := rfl
@[simp] theorem bump_dies : (s.bump).dies = s.dies := rfl
@[simp] theorem bump_tlbs : (s.bump).tlbs = s.tlbs := rfl
@[simp] theorem bump_walks : (s.bump).walks = s.walks := rfl
@[simp] theorem bump_faults : (s.bump).faults = s.faults := rfl
@[simp] theorem bump_mem : (s.bump).mem = s.mem := rfl
@[simp] theorem bump_host : (s.bump).host = s.host := rfl
@[simp] theorem bump_epoch : (s.bump).epoch = s.epoch := rfl
@[simp] theorem bump_l2 : (s.bump).l2 = s.l2 := rfl
@[simp] theorem bump_uses : (s.bump).uses = s.uses := rfl
@[simp] theorem bump_badSectors : (s.bump).badSectors = s.badSectors := rfl
@[simp] theorem bump_badHbm : (s.bump).badHbm = s.badHbm := rfl
@[simp] theorem bump_retiredFrames : (s.bump).retiredFrames = s.retiredFrames := rfl
@[simp] theorem bump_copies : (s.bump).copies = s.copies := rfl
@[simp] theorem bump_stamps : (s.bump).stamps = s.stamps := rfl
@[simp] theorem bump_holds : (s.bump).holds = s.holds := rfl
@[simp] theorem bump_contexts : (s.bump).contexts = s.contexts := rfl
@[simp] theorem bump_zinc : (s.bump).zinc = s.zinc := rfl
@[simp] theorem bump_island : (s.bump).island = s.island := rfl
@[simp] theorem bump_kept : (s.bump).kept = s.kept := rfl
@[simp] theorem bump_sent : (s.bump).sent = s.sent := rfl

/-! ### `freshen` -/

@[simp] theorem freshen_issue : (s.freshen).issue = s.issue := rfl
@[simp] theorem freshen_agenda : (s.freshen).agenda = s.agenda := rfl
@[simp] theorem freshen_fresh : (s.freshen).fresh = s.fresh + 1 := rfl
@[simp] theorem freshen_nextId : (s.freshen).nextId = s.nextId := rfl
@[simp] theorem freshen_cycle : (s.freshen).cycle = s.cycle := rfl
@[simp] theorem freshen_turn : (s.freshen).turn = s.turn := rfl
@[simp] theorem freshen_time : (s.freshen).time = s.time := rfl
@[simp] theorem freshen_warps : (s.freshen).warps = s.warps := rfl
@[simp] theorem freshen_blocks : (s.freshen).blocks = s.blocks := rfl
@[simp] theorem freshen_cores : (s.freshen).cores = s.cores := rfl
@[simp] theorem freshen_launches : (s.freshen).launches = s.launches := rfl
@[simp] theorem freshen_queues : (s.freshen).queues = s.queues := rfl
@[simp] theorem freshen_graphs : (s.freshen).graphs = s.graphs := rfl
@[simp] theorem freshen_parts : (s.freshen).parts = s.parts := rfl
@[simp] theorem freshen_partitioned : (s.freshen).partitioned = s.partitioned := rfl
@[simp] theorem freshen_engines : (s.freshen).engines = s.engines := rfl
@[simp] theorem freshen_flights : (s.freshen).flights = s.flights := rfl
@[simp] theorem freshen_dies : (s.freshen).dies = s.dies := rfl
@[simp] theorem freshen_tlbs : (s.freshen).tlbs = s.tlbs := rfl
@[simp] theorem freshen_walks : (s.freshen).walks = s.walks := rfl
@[simp] theorem freshen_faults : (s.freshen).faults = s.faults := rfl
@[simp] theorem freshen_mem : (s.freshen).mem = s.mem := rfl
@[simp] theorem freshen_host : (s.freshen).host = s.host := rfl
@[simp] theorem freshen_epoch : (s.freshen).epoch = s.epoch := rfl
@[simp] theorem freshen_l2 : (s.freshen).l2 = s.l2 := rfl
@[simp] theorem freshen_uses : (s.freshen).uses = s.uses := rfl
@[simp] theorem freshen_badSectors : (s.freshen).badSectors = s.badSectors := rfl
@[simp] theorem freshen_badHbm : (s.freshen).badHbm = s.badHbm := rfl
@[simp] theorem freshen_retiredFrames : (s.freshen).retiredFrames = s.retiredFrames := rfl
@[simp] theorem freshen_copies : (s.freshen).copies = s.copies := rfl
@[simp] theorem freshen_stamps : (s.freshen).stamps = s.stamps := rfl
@[simp] theorem freshen_holds : (s.freshen).holds = s.holds := rfl
@[simp] theorem freshen_contexts : (s.freshen).contexts = s.contexts := rfl
@[simp] theorem freshen_zinc : (s.freshen).zinc = s.zinc := rfl
@[simp] theorem freshen_island : (s.freshen).island = s.island := rfl
@[simp] theorem freshen_kept : (s.freshen).kept = s.kept := rfl
@[simp] theorem freshen_sent : (s.freshen).sent = s.sent := rfl

/-! ### `hbmPut` -/

@[simp] theorem hbmPut_issue (a : Nat) (bs : List Byte) : (s.hbmPut a bs).issue = s.issue := rfl
@[simp] theorem hbmPut_agenda (a : Nat) (bs : List Byte) : (s.hbmPut a bs).agenda = s.agenda := rfl
@[simp] theorem hbmPut_fresh (a : Nat) (bs : List Byte) : (s.hbmPut a bs).fresh = s.fresh := rfl
@[simp] theorem hbmPut_nextId (a : Nat) (bs : List Byte) : (s.hbmPut a bs).nextId = s.nextId := rfl
@[simp] theorem hbmPut_cycle (a : Nat) (bs : List Byte) : (s.hbmPut a bs).cycle = s.cycle := rfl
@[simp] theorem hbmPut_turn (a : Nat) (bs : List Byte) : (s.hbmPut a bs).turn = s.turn := rfl
@[simp] theorem hbmPut_time (a : Nat) (bs : List Byte) : (s.hbmPut a bs).time = s.time := rfl
@[simp] theorem hbmPut_warps (a : Nat) (bs : List Byte) : (s.hbmPut a bs).warps = s.warps := rfl
@[simp] theorem hbmPut_blocks (a : Nat) (bs : List Byte) : (s.hbmPut a bs).blocks = s.blocks := rfl
@[simp] theorem hbmPut_cores (a : Nat) (bs : List Byte) : (s.hbmPut a bs).cores = s.cores := rfl
@[simp] theorem hbmPut_launches (a : Nat) (bs : List Byte) : (s.hbmPut a bs).launches = s.launches := rfl
@[simp] theorem hbmPut_queues (a : Nat) (bs : List Byte) : (s.hbmPut a bs).queues = s.queues := rfl
@[simp] theorem hbmPut_graphs (a : Nat) (bs : List Byte) : (s.hbmPut a bs).graphs = s.graphs := rfl
@[simp] theorem hbmPut_parts (a : Nat) (bs : List Byte) : (s.hbmPut a bs).parts = s.parts := rfl
@[simp] theorem hbmPut_partitioned (a : Nat) (bs : List Byte) : (s.hbmPut a bs).partitioned = s.partitioned := rfl
@[simp] theorem hbmPut_engines (a : Nat) (bs : List Byte) : (s.hbmPut a bs).engines = s.engines := rfl
@[simp] theorem hbmPut_flights (a : Nat) (bs : List Byte) : (s.hbmPut a bs).flights = s.flights := rfl
@[simp] theorem hbmPut_dies (a : Nat) (bs : List Byte) : (s.hbmPut a bs).dies = s.dies := rfl
@[simp] theorem hbmPut_tlbs (a : Nat) (bs : List Byte) : (s.hbmPut a bs).tlbs = s.tlbs := rfl
@[simp] theorem hbmPut_walks (a : Nat) (bs : List Byte) : (s.hbmPut a bs).walks = s.walks := rfl
@[simp] theorem hbmPut_faults (a : Nat) (bs : List Byte) : (s.hbmPut a bs).faults = s.faults := rfl
@[simp] theorem hbmPut_mem (a : Nat) (bs : List Byte) : (s.hbmPut a bs).mem = cellsPut (unwritten s.epoch) s.mem a bs := rfl
@[simp] theorem hbmPut_host (a : Nat) (bs : List Byte) : (s.hbmPut a bs).host = s.host := rfl
@[simp] theorem hbmPut_epoch (a : Nat) (bs : List Byte) : (s.hbmPut a bs).epoch = s.epoch := rfl
@[simp] theorem hbmPut_l2 (a : Nat) (bs : List Byte) : (s.hbmPut a bs).l2 = s.l2 := rfl
@[simp] theorem hbmPut_uses (a : Nat) (bs : List Byte) : (s.hbmPut a bs).uses = s.uses := rfl
@[simp] theorem hbmPut_badSectors (a : Nat) (bs : List Byte) : (s.hbmPut a bs).badSectors = s.badSectors := rfl
@[simp] theorem hbmPut_badHbm (a : Nat) (bs : List Byte) : (s.hbmPut a bs).badHbm = s.badHbm := rfl
@[simp] theorem hbmPut_retiredFrames (a : Nat) (bs : List Byte) : (s.hbmPut a bs).retiredFrames = s.retiredFrames := rfl
@[simp] theorem hbmPut_copies (a : Nat) (bs : List Byte) : (s.hbmPut a bs).copies = s.copies := rfl
@[simp] theorem hbmPut_stamps (a : Nat) (bs : List Byte) : (s.hbmPut a bs).stamps = s.stamps := rfl
@[simp] theorem hbmPut_holds (a : Nat) (bs : List Byte) : (s.hbmPut a bs).holds = s.holds := rfl
@[simp] theorem hbmPut_contexts (a : Nat) (bs : List Byte) : (s.hbmPut a bs).contexts = s.contexts := rfl
@[simp] theorem hbmPut_zinc (a : Nat) (bs : List Byte) : (s.hbmPut a bs).zinc = s.zinc := rfl
@[simp] theorem hbmPut_island (a : Nat) (bs : List Byte) : (s.hbmPut a bs).island = s.island := rfl
@[simp] theorem hbmPut_kept (a : Nat) (bs : List Byte) : (s.hbmPut a bs).kept = s.kept := rfl
@[simp] theorem hbmPut_sent (a : Nat) (bs : List Byte) : (s.hbmPut a bs).sent = s.sent := rfl

/-! ### `hostPut` -/

@[simp] theorem hostPut_issue (a : Nat) (bs : List Byte) : (s.hostPut a bs).issue = s.issue := rfl
@[simp] theorem hostPut_agenda (a : Nat) (bs : List Byte) : (s.hostPut a bs).agenda = s.agenda := rfl
@[simp] theorem hostPut_fresh (a : Nat) (bs : List Byte) : (s.hostPut a bs).fresh = s.fresh := rfl
@[simp] theorem hostPut_nextId (a : Nat) (bs : List Byte) : (s.hostPut a bs).nextId = s.nextId := rfl
@[simp] theorem hostPut_cycle (a : Nat) (bs : List Byte) : (s.hostPut a bs).cycle = s.cycle := rfl
@[simp] theorem hostPut_turn (a : Nat) (bs : List Byte) : (s.hostPut a bs).turn = s.turn := rfl
@[simp] theorem hostPut_time (a : Nat) (bs : List Byte) : (s.hostPut a bs).time = s.time := rfl
@[simp] theorem hostPut_warps (a : Nat) (bs : List Byte) : (s.hostPut a bs).warps = s.warps := rfl
@[simp] theorem hostPut_blocks (a : Nat) (bs : List Byte) : (s.hostPut a bs).blocks = s.blocks := rfl
@[simp] theorem hostPut_cores (a : Nat) (bs : List Byte) : (s.hostPut a bs).cores = s.cores := rfl
@[simp] theorem hostPut_launches (a : Nat) (bs : List Byte) : (s.hostPut a bs).launches = s.launches := rfl
@[simp] theorem hostPut_queues (a : Nat) (bs : List Byte) : (s.hostPut a bs).queues = s.queues := rfl
@[simp] theorem hostPut_graphs (a : Nat) (bs : List Byte) : (s.hostPut a bs).graphs = s.graphs := rfl
@[simp] theorem hostPut_parts (a : Nat) (bs : List Byte) : (s.hostPut a bs).parts = s.parts := rfl
@[simp] theorem hostPut_partitioned (a : Nat) (bs : List Byte) : (s.hostPut a bs).partitioned = s.partitioned := rfl
@[simp] theorem hostPut_engines (a : Nat) (bs : List Byte) : (s.hostPut a bs).engines = s.engines := rfl
@[simp] theorem hostPut_flights (a : Nat) (bs : List Byte) : (s.hostPut a bs).flights = s.flights := rfl
@[simp] theorem hostPut_dies (a : Nat) (bs : List Byte) : (s.hostPut a bs).dies = s.dies := rfl
@[simp] theorem hostPut_tlbs (a : Nat) (bs : List Byte) : (s.hostPut a bs).tlbs = s.tlbs := rfl
@[simp] theorem hostPut_walks (a : Nat) (bs : List Byte) : (s.hostPut a bs).walks = s.walks := rfl
@[simp] theorem hostPut_faults (a : Nat) (bs : List Byte) : (s.hostPut a bs).faults = s.faults := rfl
@[simp] theorem hostPut_mem (a : Nat) (bs : List Byte) : (s.hostPut a bs).mem = s.mem := rfl
@[simp] theorem hostPut_epoch (a : Nat) (bs : List Byte) : (s.hostPut a bs).epoch = s.epoch := rfl
@[simp] theorem hostPut_l2 (a : Nat) (bs : List Byte) : (s.hostPut a bs).l2 = s.l2 := rfl
@[simp] theorem hostPut_uses (a : Nat) (bs : List Byte) : (s.hostPut a bs).uses = s.uses := rfl
@[simp] theorem hostPut_badSectors (a : Nat) (bs : List Byte) : (s.hostPut a bs).badSectors = s.badSectors := rfl
@[simp] theorem hostPut_badHbm (a : Nat) (bs : List Byte) : (s.hostPut a bs).badHbm = s.badHbm := rfl
@[simp] theorem hostPut_retiredFrames (a : Nat) (bs : List Byte) : (s.hostPut a bs).retiredFrames = s.retiredFrames := rfl
@[simp] theorem hostPut_copies (a : Nat) (bs : List Byte) : (s.hostPut a bs).copies = s.copies := rfl
@[simp] theorem hostPut_stamps (a : Nat) (bs : List Byte) : (s.hostPut a bs).stamps = s.stamps := rfl
@[simp] theorem hostPut_holds (a : Nat) (bs : List Byte) : (s.hostPut a bs).holds = s.holds := rfl
@[simp] theorem hostPut_contexts (a : Nat) (bs : List Byte) : (s.hostPut a bs).contexts = s.contexts := rfl
@[simp] theorem hostPut_zinc (a : Nat) (bs : List Byte) : (s.hostPut a bs).zinc = s.zinc := rfl
@[simp] theorem hostPut_island (a : Nat) (bs : List Byte) : (s.hostPut a bs).island = s.island := rfl
@[simp] theorem hostPut_kept (a : Nat) (bs : List Byte) : (s.hostPut a bs).kept = s.kept := rfl
@[simp] theorem hostPut_sent (a : Nat) (bs : List Byte) : (s.hostPut a bs).sent = s.sent := rfl

/-! ### `send` -/

@[simp] theorem send_issue (x : Sent) : (s.send x).issue = s.issue := rfl
@[simp] theorem send_agenda (x : Sent) : (s.send x).agenda = s.agenda := rfl
@[simp] theorem send_fresh (x : Sent) : (s.send x).fresh = s.fresh := rfl
@[simp] theorem send_nextId (x : Sent) : (s.send x).nextId = s.nextId := rfl
@[simp] theorem send_cycle (x : Sent) : (s.send x).cycle = s.cycle := rfl
@[simp] theorem send_turn (x : Sent) : (s.send x).turn = s.turn := rfl
@[simp] theorem send_time (x : Sent) : (s.send x).time = s.time := rfl
@[simp] theorem send_warps (x : Sent) : (s.send x).warps = s.warps := rfl
@[simp] theorem send_blocks (x : Sent) : (s.send x).blocks = s.blocks := rfl
@[simp] theorem send_cores (x : Sent) : (s.send x).cores = s.cores := rfl
@[simp] theorem send_launches (x : Sent) : (s.send x).launches = s.launches := rfl
@[simp] theorem send_queues (x : Sent) : (s.send x).queues = s.queues := rfl
@[simp] theorem send_graphs (x : Sent) : (s.send x).graphs = s.graphs := rfl
@[simp] theorem send_parts (x : Sent) : (s.send x).parts = s.parts := rfl
@[simp] theorem send_partitioned (x : Sent) : (s.send x).partitioned = s.partitioned := rfl
@[simp] theorem send_engines (x : Sent) : (s.send x).engines = s.engines := rfl
@[simp] theorem send_flights (x : Sent) : (s.send x).flights = s.flights := rfl
@[simp] theorem send_dies (x : Sent) : (s.send x).dies = s.dies := rfl
@[simp] theorem send_tlbs (x : Sent) : (s.send x).tlbs = s.tlbs := rfl
@[simp] theorem send_walks (x : Sent) : (s.send x).walks = s.walks := rfl
@[simp] theorem send_faults (x : Sent) : (s.send x).faults = s.faults := rfl
@[simp] theorem send_mem (x : Sent) : (s.send x).mem = s.mem := rfl
@[simp] theorem send_host (x : Sent) : (s.send x).host = s.host := rfl
@[simp] theorem send_epoch (x : Sent) : (s.send x).epoch = s.epoch := rfl
@[simp] theorem send_l2 (x : Sent) : (s.send x).l2 = s.l2 := rfl
@[simp] theorem send_uses (x : Sent) : (s.send x).uses = s.uses := rfl
@[simp] theorem send_badSectors (x : Sent) : (s.send x).badSectors = s.badSectors := rfl
@[simp] theorem send_badHbm (x : Sent) : (s.send x).badHbm = s.badHbm := rfl
@[simp] theorem send_retiredFrames (x : Sent) : (s.send x).retiredFrames = s.retiredFrames := rfl
@[simp] theorem send_copies (x : Sent) : (s.send x).copies = s.copies := rfl
@[simp] theorem send_stamps (x : Sent) : (s.send x).stamps = s.stamps := rfl
@[simp] theorem send_holds (x : Sent) : (s.send x).holds = s.holds := rfl
@[simp] theorem send_contexts (x : Sent) : (s.send x).contexts = s.contexts := rfl
@[simp] theorem send_zinc (x : Sent) : (s.send x).zinc = s.zinc := rfl
@[simp] theorem send_island (x : Sent) : (s.send x).island = s.island := rfl
@[simp] theorem send_kept (x : Sent) : (s.send x).kept = s.kept := rfl
@[simp] theorem send_sent (x : Sent) : (s.send x).sent = ⟨x, s.linksFor x⟩ :: s.sent := rfl

end Sys2Proof.Machine
end

