-- ==== Sys2Proof/Laws/Memory.lean ====
section
/-! SUPPORT. Memory in canonical form: reading what was written, that every write keeps the form, and that the memory of the
reset state has it. -/

namespace Sys2Proof.Machine

variable {d : Nat → Byte}

/-! ### One byte -/

@[simp] theorem cellGet_cellPut_self (m : List Host.Cell) (a : Nat) (v : Byte) : cellGet d (cellPut d m a v) a = v := by
  unfold cellGet cellPut
  split
  · next h => simp [h]
  · simp

theorem cellGet_cellPut_ne (m : List Host.Cell) {a x : Nat} (v : Byte) (h : x ≠ a) :
    cellGet d (cellPut d m a v) x = cellGet d m x := by
  unfold cellGet cellPut
  split
  · rw [mfind_merase_ne m h]
  · rw [mfind_minsert_ne m v h]

theorem cellPut_sorted {m : List Host.Cell} (h : msorted m = true) (a : Nat) (v : Byte) : msorted (cellPut d m a v) = true := by
  unfold cellPut
  split
  · exact msorted_merase h a
  · exact msorted_minsert h a v

theorem cellPut_listed {m : List Host.Cell} (h : ∀ c ∈ m, c.2 ≠ d c.1) (a : Nat) (v : Byte) :
    ∀ c ∈ cellPut d m a v, c.2 ≠ d c.1 := by
  intro c hc
  unfold cellPut at hc
  split at hc
  · exact h c (mem_merase hc)
  · next hv =>
    rcases mem_minsert hc with hc | hc
    · subst hc; exact hv
    · exact h c hc

theorem cellsWf_iff {m : List Host.Cell} : cellsWf d m = true ↔ msorted m = true ∧ ∀ c ∈ m, c.2 ≠ d c.1 := by
  simp [cellsWf]

/-- Writing a byte keeps the canonical form. -/
theorem cellPut_wf {m : List Host.Cell} (h : cellsWf d m = true) (a : Nat) (v : Byte) : cellsWf d (cellPut d m a v) = true := by
  rw [cellsWf_iff] at h ⊢
  exact ⟨cellPut_sorted h.1 a v, cellPut_listed h.2 a v⟩

/-! ### A run of bytes -/

/-- Writing a run of bytes keeps the canonical form. -/
theorem cellsPut_wf {m : List Host.Cell} (h : cellsWf d m = true) (a : Nat) (bs : List Byte) :
    cellsWf d (cellsPut d m a bs) = true := by
  induction bs generalizing m a with
  | nil => exact h
  | cons b bs ih => exact ih (cellPut_wf h a b) (a + 1)

/-- A byte outside a written run reads as before. -/
theorem cellGet_cellsPut_out (m : List Host.Cell) {a x : Nat} (bs : List Byte) (h : x < a ∨ a + bs.length ≤ x) :
    cellGet d (cellsPut d m a bs) x = cellGet d m x := by
  induction bs generalizing m a with
  | nil => rfl
  | cons b bs ih =>
    simp only [List.length_cons] at h
    show cellGet d (cellsPut d (cellPut d m a b) (a + 1) bs) x = _
    rw [ih (cellPut d m a b) (by omega), cellGet_cellPut_ne m b (by omega)]

/-- A byte inside a written run reads as written. -/
theorem cellGet_cellsPut_in (m : List Host.Cell) {a j : Nat} (bs : List Byte) (h : j < bs.length) :
    cellGet d (cellsPut d m a bs) (a + j) = bs.getD j 0 := by
  induction bs generalizing m a j with
  | nil => exact absurd h (Nat.not_lt_zero j)
  | cons b bs ih =>
    show cellGet d (cellsPut d (cellPut d m a b) (a + 1) bs) (a + j) = _
    cases j with
    | zero => rw [Nat.add_zero, cellGet_cellsPut_out _ bs (by omega)]; simp
    | succ j =>
      rw [show a + (j + 1) = a + 1 + j by omega, ih (cellPut d m a b) (by simpa using h)]
      simp

/-! ### The machine's memory -/

/-- Both memories in canonical form. -/
theorem wf_iff {s : State} : Memory.wf s = true ↔ cellsWf (unwritten s.epoch) s.mem = true ∧ cellsWf (fun _ => 0) s.host = true := by
  simp [Memory.wf]

/-- A write to HBM keeps the memory's canonical form. -/
theorem hbmPut_wf {s : State} (h : Memory.wf s = true) (a : Nat) (bs : List Byte) : Memory.wf (s.hbmPut a bs) = true := by
  rw [wf_iff] at h ⊢
  exact ⟨cellsPut_wf h.1 a bs, h.2⟩

/-- A write over the host link keeps the canonical form of host memory. -/
theorem hostPut_wf {s : State} (h : Memory.wf s = true) (a : Nat) (bs : List Byte) : Memory.wf (s.hostPut a bs) = true := by
  rw [wf_iff] at h ⊢
  refine ⟨h.1, ?_⟩
  have go (l : List (Byte × Nat)) (m : List Host.Cell) (hm : cellsWf (fun _ => 0) m = true) :
      cellsWf (fun _ => 0) (l.foldl (fun m b => cellPut (fun _ => 0) m (s.busAddr (a + b.2)) b.1) m) = true := by
    induction l generalizing m with
    | nil => exact hm
    | cons b l ih => exact ih _ (cellPut_wf hm _ _)
  exact go _ _ h.2

/-- A byte of HBM outside a write reads as before, as does every byte of host memory. -/
theorem hbm_hbmPut_out (s : State) {a x : Nat} (bs : List Byte) (h : x < a ∨ a + bs.length ≤ x) :
    (s.hbmPut a bs).hbm x = s.hbm x := by
  show (if s.homeless x then _ else if s.overHost x then _ else cellGet (unwritten s.epoch) (cellsPut (unwritten s.epoch) s.mem a bs) x) = _
  rw [cellGet_cellsPut_out s.mem bs h]
  rfl

/-- A byte of HBM inside a write reads as written. -/
theorem hbm_hbmPut_in (s : State) {a j : Nat} (bs : List Byte) (h : j < bs.length) (hh : s.homeless (a + j) = false)
    (ho : s.overHost (a + j) = false) : (s.hbmPut a bs).hbm (a + j) = bs.getD j 0 := by
  show (if s.homeless (a + j) then _ else if s.overHost (a + j) then _ else
    cellGet (unwritten s.epoch) (cellsPut (unwritten s.epoch) s.mem a bs) (a + j)) = _
  rw [cellGet_cellsPut_in s.mem bs h, hh, ho]
  rfl

/-- A state whose memories and epoch are those of a canonical one is canonical. -/
theorem wf_congr {s t : State} (hm : t.mem = s.mem) (hh : t.host = s.host) (he : t.epoch = s.epoch) (h : Memory.wf s = true) :
    Memory.wf t = true := by
  rw [wf_iff] at h ⊢
  rw [hm, he, hh]
  exact h

theorem msorted_filter {α : Type} {m : NMap α} (p : Nat × α → Bool) (h : msorted m = true) : msorted (m.filter p) = true := by
  induction m with
  | nil => rfl
  | cons e m ih =>
    obtain ⟨k, v⟩ := e
    rw [msorted_cons] at h
    rw [List.filter_cons]
    split
    · exact msorted_cons.2 ⟨fun x hx => h.1 x (List.mem_of_mem_filter hx), ih h.2⟩
    · exact ih h.2

/-- The memory that a level-2 reset leaves is canonical (R368). -/
theorem resetPackage_wf {s : State} (h : Memory.wf s = true) : Memory.wf s.resetPackage = true := by
  rw [wf_iff, cellsWf_iff] at h ⊢
  refine ⟨⟨msorted_filter _ h.1.1, fun c hc => ?_⟩, h.2⟩
  have := (List.mem_filter.1 hc).2
  simp only [Bool.and_eq_true, bne_iff_ne] at this
  exact this.2

/-- The memory of the reset state lists nothing. -/
theorem reset_wf : Memory.wf State.reset = true := rfl

end Sys2Proof.Machine
end

