-- ==== Sys2Proof/Laws/Warps.lean ====
section
/-! SUPPORT. The laws of changing a warp, and of the one course that every issue takes (R318). -/

namespace Sys2Proof

variable {α : Type}

@[simp] theorem mfind_mupdate_self (m : NMap α) (q : Nat) (f : α → α) : mfind (mupdate m q f) q = (mfind m q).map f := by
  unfold mupdate
  cases h : mfind m q <;> simp [h]

theorem mfind_mupdate_ne (m : NMap α) {q r : Nat} (f : α → α) (h : r ≠ q) : mfind (mupdate m q f) r = mfind m r := by
  unfold mupdate
  cases mfind m q <;> simp [mfind_minsert_ne, h]

namespace Machine

/-! ### Changing a warp -/

theorem modWarp_rest (s : State) (k : Nat) (f : Warp → Warp) : s.modWarp k f = { s with warps := (s.modWarp k f).warps } := rfl

theorem find_modWarp {s : State} {k : Nat} {W : Warp} (h : mfind s.warps k = some W) (f : Warp → Warp) :
    mfind (s.modWarp k f).warps k = some (f W) := by simp [State.modWarp, h]

theorem find_modWarp_ne (s : State) {k j : Nat} (f : Warp → Warp) (h : j ≠ k) :
    mfind (s.modWarp k f).warps j = mfind s.warps j := by simp [State.modWarp, mfind_mupdate_ne, h]

theorem warp_of_find {s : State} {k : Nat} {W : Warp} (h : mfind s.warps k = some W) : s.warp k = W := by
  simp [State.warp, h]

theorem warp_modWarp {s : State} {k : Nat} {W : Warp} (h : mfind s.warps k = some W) (f : Warp → Warp) :
    (s.modWarp k f).warp k = f W := warp_of_find (find_modWarp h f)

theorem warp_modWarp_ne (s : State) {k j : Nat} (f : Warp → Warp) (h : j ≠ k) : (s.modWarp k f).warp j = s.warp j := by
  rw [State.warp, State.warp, find_modWarp_ne s f h]

/-- Setting a key twice keeps the second. -/
theorem minsert_minsert (m : NMap α) (q : Nat) (x y : α) : minsert (minsert m q x) q y = minsert m q y := by
  induction m with
  | nil => simp [minsert]
  | cons e m ih =>
    obtain ⟨k, v⟩ := e
    simp only [minsert]
    split
    · simp [minsert]
    · split
      · simp_all [minsert]
      · rename_i h1 h2
        simp [minsert, h1, h2, ih]

/-- Two changes of a warp are one. -/
theorem modWarp_modWarp (s : State) (k : Nat) (f g : Warp → Warp) :
    (s.modWarp k f).modWarp k g = s.modWarp k (fun W => g (f W)) := by
  cases h : mfind s.warps k with
  | none => simp [State.modWarp, mupdate, h]
  | some W => simp [State.modWarp, mupdate, h, minsert_minsert]

/-- An instruction that does not set the program counters itself goes on to the next one. -/
theorem retire_false (c : Ctx) (s : State) : c.retire false s = s.modWarp c.k c.onward := rfl

/-! ### One issue -/

@[simp] theorem latch_nil : latch [] = [] := rfl

@[simp] theorem faultMask_nil (c : Ctx) : faultMask c [] = 0 := rfl

@[simp] theorem keep_mask (m : BitVec 16) : m &&& ~~~(0 : BitVec 16) = m := BitVec.and_allOnes

/-- A warp that is listed reads as itself in its own context. -/
theorem moved_self {c : Ctx} (h : mfind c.s.warps c.k = some c.W) : c.moved c.s = c := by
  simp [Ctx.moved, warp_of_find h]

theorem Ctx.Clear.uniFaults {c : Ctx} (hc : c.Clear) : c.uniFaults = [] := by
  unfold Ctx.uniFaults
  split
  · rename_i hu; rw [hc.uniform hu]
  · rfl

@[simp] theorem deadly_nil (s : State) (k : Nat) : s.deadly k [] = none := rfl

/-- From the value checks on. -/
theorem perform_goes {c : Ctx} {K : Kit} {t : State} (hc : c.Clear) (hK : K.Lets c t) :
    c.perform K = (c.moved t).retire K.jumps (K.eff (c.moved t)) := by
  have hl := hK.late
  simp only [Ctx.moved] at hl ⊢
  simp only [Ctx.perform, hc.uniFaults, hK.check, List.append_nil, latch_nil, faultMask_nil, keep_mask, hK.bad, hK.pages,
    hc.slices, if_false, hK.wprot, hK.wait, hl, Ctx.finish, if_true, deadly_nil, Option.isSome_none, Bool.false_eq_true]

/-- The course of an issue that nothing stops: its checks pass, it waits for nothing, its effect happens and it leaves. -/
theorem issue_goes {c : Ctx} {K : Kit} {t : State} (hc : c.Clear) (hK : K.Lets c t) :
    c.issue K = (c.moved t).retire K.jumps (K.eff (c.moved t)) := by
  have he : (if c.W.sbchk then c.W.early c.op c.w else none) = none := by
    split
    · rename_i hs; exact hc.notEarly hs
    · rfl
  have hd : c.disallow K = c := by
    unfold Ctx.disallow
    rcases hK.tx with ht | ht
    · simp [ht]
    · rw [ht]; split <;> rfl
  have hv : (!K.fork && c.fork?.isSome && c.acts) = false := by
    rcases hK.fork with hf | hf | hf <;> simp [hf]
  simp only [Ctx.issue, hc.noSkip, hc.slices, if_false, hc.landed, he, hK.word, hv, hK.hold, hc.clean, hd, Bool.false_eq_true]
  exact perform_goes hc hK

/-- What `run` does when a gang has issued. -/
theorem run_issued {s : State} {g : Issue} (h : s.issue = some g) (o : Op) (len : Len) (w : Fields) (K : Kit) :
    run o len w K s = .next ((s.issued g o len w).issue K) := by
  simp [run, h, State.issued]

/-- An instruction that nothing stops has its effect and leaves. -/
theorem run_moved {s t : State} {g : Issue} {o : Op} {len : Len} {w : Fields} {K : Kit} (hs : s.issue = some g)
    (hc : (s.issued g o len w).Clear) (hK : K.Lets (s.issued g o len w) t) :
    run o len w K s =
      .next (((s.issued g o len w).moved t).retire K.jumps (K.eff ((s.issued g o len w).moved t))) := by
  rw [run_issued hs, issue_goes hc hK]

/-- The same for an instruction whose wait changes nothing. -/
theorem run_goes {s : State} {g : Issue} {o : Op} {len : Len} {w : Fields} {K : Kit} (hs : s.issue = some g)
    (hc : (s.issued g o len w).Clear) (hK : K.Lets (s.issued g o len w) (s.issued g o len w).s) :
    run o len w K s = .next ((s.issued g o len w).retire K.jumps (K.eff (s.issued g o len w))) := by
  rw [run_moved hs hc hK, moved_self hc.listed]

/-- A kit with nothing but an effect lets every instruction through. -/
theorem lets_plain (eff : Ctx → State) (c : Ctx) : ({ eff := eff } : Kit).Lets c c.s :=
  ⟨rfl, .inl rfl, rfl, .inl rfl, rfl, rfl, by simp [Ctx.missing, onePerPage], rfl, rfl, rfl⟩

end Machine
end Sys2Proof
end

