-- ==== Sys2Proof/Laws/Registers.lean ====
section
/-! SUPPORT. The laws of the register file: what a write does to every read, in which order results land, and what a
fixed-latency result leaves (R27, R36 to R38). -/

namespace Sys2Proof.Machine

/-- What lane values leave in one place of a register file. -/
def placeAfter (r : Nat) (vals : List (Nat × Word)) (p : Nat) (x : Word) : Word :=
  vals.foldl (fun x v => if r * 64 + v.1 = p then v.2 else x) x

theorem mget_putLanes (m : NMap Word) (r : Nat) (vals : List (Nat × Word)) (p : Nat) :
    mget 0 (putLanes m r vals) p = placeAfter r vals p (mget 0 m p) := by
  induction vals generalizing m with
  | nil => rfl
  | cons v vals ih =>
    simp only [putLanes, List.foldl_cons, placeAfter] at ih ⊢
    rw [ih]
    congr 1
    split
    · rename_i h; subst h; simp
    · rename_i h; rw [mget_mput_ne]; exact fun hp => h hp.symm

/-- A place that no lane names keeps its value. -/
theorem placeAfter_other {r : Nat} {vals : List (Nat × Word)} {p : Nat} (h : ∀ v ∈ vals, p ≠ r * 64 + v.1) (x : Word) :
    placeAfter r vals p x = x := by
  induction vals generalizing x with
  | nil => rfl
  | cons v vals ih =>
    have hv : r * 64 + v.1 ≠ p := fun e => h v (by simp) e.symm
    simp only [placeAfter, List.foldl_cons, hv, if_false]
    exact ih (fun u hu => h u (List.mem_cons_of_mem _ hu)) x

/-- A lane that is named reads its value. -/
theorem placeAfter_lane {r i : Nat} {l : List Nat} (f : Nat → Word) (h : i ∈ l) (x : Word) :
    placeAfter r (l.map (fun i => (i, f i))) (r * 64 + i) x = f i := by
  have key : ∀ (l : List Nat) (x : Word), (i ∈ l ∨ x = f i) →
      placeAfter r (l.map (fun i => (i, f i))) (r * 64 + i) x = f i := by
    intro l
    induction l with
    | nil => intro x hx; simpa [placeAfter] using hx
    | cons a l ih =>
      intro x hx
      simp only [placeAfter, List.map_cons, List.foldl_cons] at ih ⊢
      by_cases ha : a = i
      · exact ih _ (.inr (by simp [ha]))
      · have : r * 64 + a ≠ r * 64 + i := by omega
        simp only [this, if_false]
        exact ih _ (hx.imp_left (fun hx => (List.mem_cons.mp hx).resolve_left (fun e => ha e.symm)))
  exact key l x (.inl h)

@[simp] theorem setReg_regs (W : Warp) (r : Nat) (vals : List (Nat × Word)) : (W.setReg r vals).regs = putLanes W.regs r vals := rfl

/-- What results leave in one place, landing in order. -/
def landed (l : List Pending) (p : Nat) (x : Word) : Word := l.foldl (fun x e => placeAfter e.reg e.vals p x) x

theorem landed_append (l₁ l₂ : List Pending) (p : Nat) (x : Word) : landed (l₁ ++ l₂) p x = landed l₂ p (landed l₁ p x) := by
  simp [landed]

theorem reg_fold (l : List Pending) (V : Warp) (r i : Nat) :
    (l.foldl (fun V p => V.setReg p.reg p.vals) V).reg r i = landed l (r * 64 + i) (V.reg r i) := by
  induction l generalizing V with
  | nil => rfl
  | cons e l ih =>
    simp only [List.foldl_cons, landed] at ih ⊢
    have hv : (V.setReg e.reg e.vals).reg r i = placeAfter e.reg e.vals (r * 64 + i) (V.reg r i) := mget_putLanes _ _ _ _
    rw [ih, hv]

theorem reg_landDue (W : Warp) (clk r i : Nat) :
    (W.landDue clk).reg r i = landed (W.pend.takeWhile (fun p => p.due ≤ clk)) (r * 64 + i) (W.reg r i) :=
  reg_fold _ _ _ _

theorem settled_eq (W : Warp) (r i : Nat) : W.settled r i = landed W.pend (r * 64 + i) (W.reg r i) := reg_fold _ _ _ _

/-! ### The order of landing (R38) -/

/-- Before a result is due it changes nothing. -/
theorem takeWhile_pendInsert_lt (l : List Pending) (p : Pending) {e : Nat} (h : e < p.due) :
    (pendInsert l p).takeWhile (fun q => q.due ≤ e) = l.takeWhile (fun q => q.due ≤ e) := by
  induction l with
  | nil => simp [pendInsert, Nat.not_le.mpr h]
  | cons q l ih =>
    simp only [pendInsert]
    split
    · rename_i hq
      simp [Nat.not_le.mpr h, Nat.not_le.mpr (Nat.lt_trans h hq)]
    · simp [List.takeWhile_cons, ih]

/-- When a result is due it lands after everything due by then. -/
theorem takeWhile_pendInsert_due (l : List Pending) (p : Pending) :
    (pendInsert l p).takeWhile (fun q => q.due ≤ p.due) = l.takeWhile (fun q => q.due ≤ p.due) ++ [p] := by
  induction l with
  | nil => simp [pendInsert]
  | cons q l ih =>
    simp only [pendInsert]
    split
    · rename_i hq
      simp [Nat.not_le.mpr hq]
    · rename_i hq
      simp [Nat.not_lt.mp hq, ih]

/-- A place that a result does not name settles as without it. -/
theorem landed_pendInsert (l : List Pending) (e : Pending) (p : Nat) (h : ∀ v ∈ e.vals, p ≠ e.reg * 64 + v.1) (x : Word) :
    landed (pendInsert l e) p x = landed l p x := by
  induction l generalizing x with
  | nil => simp [pendInsert, landed, placeAfter_other h]
  | cons q l ih =>
    simp only [pendInsert]
    split
    · simp [landed, placeAfter_other h]
    · simp only [landed, List.foldl_cons] at ih ⊢
      exact ih _

/-! ### Fixed-latency results -/

@[simp] theorem result_clk (W : Warp) (lat r : Nat) (v : List (Nat × Word)) : (W.result lat r v).clk = W.clk := by
  unfold Warp.result; split <;> rfl

@[simp] theorem result_reg (W : Warp) (lat r : Nat) (v : List (Nat × Word)) (q i : Nat) : (W.result lat r v).reg q i = W.reg q i := by
  unfold Warp.result; split <;> rfl

/-- A result changes nothing of the warp but what is on its way to the register file. -/
theorem result_eq (W : Warp) (lat r : Nat) (v : List (Nat × Word)) : W.result lat r v = { W with pend := (W.result lat r v).pend } := by
  unfold Warp.result; split <;> rfl

theorem result_pend (W : Warp) (lat r : Nat) (v : List (Nat × Word)) :
    (W.result lat r v).pend = if v = [] then W.pend else pendInsert W.pend ⟨W.clk + lat, r, v⟩ := by
  unfold Warp.result; split <;> rfl

theorem result_before (W : Warp) (lat r : Nat) (v : List (Nat × Word)) {e : Nat} (h : e < lat) (q i : Nat) :
    ((W.result lat r v).landDue (W.clk + e)).reg q i = (W.landDue (W.clk + e)).reg q i := by
  rw [reg_landDue, reg_landDue, result_reg, result_pend]
  split
  · rfl
  · rw [takeWhile_pendInsert_lt _ _ (by simpa using h)]

theorem result_settled (W : Warp) (lat r : Nat) (v : List (Nat × Word)) (q i : Nat) (h : ∀ x ∈ v, q * 64 + i ≠ r * 64 + x.1) :
    (W.result lat r v).settled q i = W.settled q i := by
  rw [settled_eq, settled_eq, result_reg, result_pend]
  split
  · rfl
  · exact landed_pendInsert _ _ _ h _

theorem result_due (W : Warp) (lat r : Nat) (v : List (Nat × Word)) (q i : Nat) :
    ((W.result lat r v).landDue (W.clk + lat)).reg q i = placeAfter r v (q * 64 + i) ((W.landDue (W.clk + lat)).reg q i) := by
  rw [reg_landDue, reg_landDue, result_reg, result_pend]
  split
  · rename_i h; subst h; rfl
  · have := takeWhile_pendInsert_due W.pend ⟨W.clk + lat, r, v⟩
    simp only at this
    rw [this, landed_append]
    rfl

/-- Reads of a warp's registers see its register file and what is on its way there, nothing else. -/
theorem landDue_congr {V W : Warp} (hr : V.regs = W.regs) (hp : V.pend = W.pend) (clk q i : Nat) :
    (V.landDue clk).reg q i = (W.landDue clk).reg q i := by
  rw [reg_landDue, reg_landDue, hp]
  simp [Warp.reg, hr]

theorem settled_congr {V W : Warp} (hr : V.regs = W.regs) (hp : V.pend = W.pend) (q i : Nat) : V.settled q i = W.settled q i := by
  rw [settled_eq, settled_eq, hp]
  simp [Warp.reg, hr]

@[simp] theorem onward_regs (c : Ctx) (W : Warp) : (c.onward W).regs = W.regs := rfl
@[simp] theorem onward_pend (c : Ctx) (W : Warp) : (c.onward W).pend = W.pend := rfl
@[simp] theorem raise_regs (W : Warp) (f : Word) (m : BitVec 16) : (W.raise f m).regs = W.regs := rfl
@[simp] theorem raise_pend (W : Warp) (f : Word) (m : BitVec 16) : (W.raise f m).pend = W.pend := rfl
@[simp] theorem raise_clk (W : Warp) (f : Word) (m : BitVec 16) : (W.raise f m).clk = W.clk := rfl

/-- Raising no flag changes nothing. -/
@[simp] theorem raise_zero (W : Warp) (m : BitVec 16) : W.raise 0#32 m = W := by simp [Warp.raise]

/-- The register file and what is on its way there do not matter to where a warp goes on. -/
theorem onward_raise_pend (c : Ctx) (W : Warp) (f : Word) (m : BitVec 16) (l : List Pending) :
    c.onward (({ W with pend := l } : Warp).raise f m) = { (c.onward W).raise f m with pend := l } := rfl

/-- A result of one register. -/
theorem wrote_one {c : Ctx} (h : mfind c.s.warps c.k = some c.W) (r : Nat) (f : Nat → Word) (flags : Word) :
    c.Wrote (c.retire false ((c.put c.s r (c.lanes.map (fun i => (i, f i)))).modWarp c.k (fun W => W.raise flags c.m)))
      (c.op.latency.getD 0) r 1 (fun _ => f) flags := by
  let lat := c.op.latency.getD 0
  let vals := c.lanes.map (fun i => (i, f i))
  have hs : c.retire false ((c.put c.s r vals).modWarp c.k (fun W => W.raise flags c.m)) =
      c.s.modWarp c.k (fun W => c.onward ((W.result lat r vals).raise flags c.m)) := by
    simp only [retire_false, Ctx.put, modWarp_modWarp]; rfl
  have hW := warp_modWarp h (fun W => c.onward ((W.result lat r vals).raise flags c.m))
  rw [hs]
  refine ⟨⟨rfl, fun j hj => find_modWarp_ne _ _ hj⟩, ?_, ?_, ?_, ?_⟩
  · intro j hj i hi _
    obtain rfl : j = 0 := by omega
    rw [hW, landDue_congr (W := c.W.result lat r vals) (by simp) (by simp), result_due]
    exact placeAfter_lane f hi _
  · intro e he q i
    rw [hW, landDue_congr (W := c.W.result lat r vals) (by simp) (by simp), result_before _ _ _ _ he]
  · intro q p hp
    rw [hW, settled_congr (W := c.W.result lat r vals) (by simp) (by simp), result_settled]
    intro v hv
    obtain ⟨i, hi, rfl⟩ := List.mem_map.mp hv
    simpa using hp 0 (by omega) i hi
  · refine ⟨(c.W.result lat r vals).pend, ?_⟩
    rw [find_modWarp h, result_eq, onward_raise_pend]

/-- A result of a pair of registers, low half first. -/
theorem wrote_two {c : Ctx} (h : mfind c.s.warps c.k = some c.W) (r : Nat) (f g : Nat → Word) (flags : Word) :
    c.Wrote (c.retire false ((c.put (c.put c.s r (c.lanes.map (fun i => (i, f i)))) (r + 1)
        (c.lanes.map (fun i => (i, g i)))).modWarp c.k (fun W => W.raise flags c.m)))
      (c.op.latency.getD 0) r 2 (fun j => if j = 0 then f else g) flags := by
  let lat := c.op.latency.getD 0
  let lo := c.lanes.map (fun i => (i, f i))
  let hi := c.lanes.map (fun i => (i, g i))
  let V := c.W.result lat r lo
  have hs : c.retire false ((c.put (c.put c.s r lo) (r + 1) hi).modWarp c.k (fun W => W.raise flags c.m)) =
      c.s.modWarp c.k (fun W => c.onward (((W.result lat r lo).result lat (r + 1) hi).raise flags c.m)) := by
    simp only [retire_false, Ctx.put, modWarp_modWarp]; rfl
  have hW := warp_modWarp h (fun W => c.onward (((W.result lat r lo).result lat (r + 1) hi).raise flags c.m))
  have hclk : V.clk = c.W.clk := result_clk _ _ _ _
  rw [hs]
  refine ⟨⟨rfl, fun j hj => find_modWarp_ne _ _ hj⟩, ?_, ?_, ?_, ?_⟩
  · intro j hj i hi' hi64
    rw [hW, landDue_congr (W := V.result lat (r + 1) hi) (by simp [V]) (by simp [V]), ← hclk, result_due, hclk, result_due]
    obtain rfl | rfl : j = 0 ∨ j = 1 := by omega
    · rw [placeAfter_other]
      · exact placeAfter_lane f hi' _
      · intro v hv
        obtain ⟨a, -, rfl⟩ := List.mem_map.mp hv
        simp only
        omega
    · exact placeAfter_lane g hi' _
  · intro e he q i
    rw [hW, landDue_congr (W := V.result lat (r + 1) hi) (by simp [V]) (by simp [V]), ← hclk, result_before _ _ _ _ he, hclk,
      result_before _ _ _ _ he]
  · intro q p hp
    rw [hW, settled_congr (W := V.result lat (r + 1) hi) (by simp [V]) (by simp [V]), result_settled, result_settled]
    · intro v hv
      obtain ⟨i, hi, rfl⟩ := List.mem_map.mp hv
      simpa using hp 0 (by omega) i hi
    · intro v hv
      obtain ⟨i, hi, rfl⟩ := List.mem_map.mp hv
      simpa using hp 1 (by omega) i hi
  · refine ⟨(V.result lat (r + 1) hi).pend, ?_⟩
    have he : V.result lat (r + 1) hi = { c.W with pend := (V.result lat (r + 1) hi).pend } := by
      rw [result_eq, show V = { c.W with pend := V.pend } from result_eq _ _ _ _]
    rw [find_modWarp h, he, onward_raise_pend]

/-- No result: only the instruction's going on. -/
theorem wrote_none {c : Ctx} (h : mfind c.s.warps c.k = some c.W) (ha : c.lanes = []) (lat r n : Nat) (f : Nat → Nat → Word) :
    c.Wrote (c.retire false c.s) lat r n f 0 := by
  have hW := warp_modWarp h c.onward
  rw [retire_false]
  refine ⟨⟨rfl, fun j hj => find_modWarp_ne _ _ hj⟩, ?_, ?_, ?_, ?_⟩
  · simp [ha]
  · intro e _ q i
    rw [hW]
    exact landDue_congr (onward_regs c c.W) (onward_pend c c.W) _ _ _
  · intro q p _
    rw [hW]
    exact settled_congr (onward_regs c c.W) (onward_pend c c.W) _ _
  · exact ⟨c.W.pend, by rw [find_modWarp h]; exact congrArg some (by simp; rfl)⟩

theorem each_wrote {c : Ctx} (h : mfind c.s.warps c.k = some c.W) (f : Nat → Word) :
    c.Wrote (c.retire false (c.each f)) (c.op.latency.getD 0) c.w.d.toNat 1 (fun _ => f) 0 := by
  have := wrote_one h c.w.d.toNat f 0
  simpa [retire_false, Ctx.put, Ctx.each, modWarp_modWarp] using this

theorem each64_wrote {c : Ctx} (h : mfind c.s.warps c.k = some c.W) (f : Nat → DWord) :
    c.Wrote (c.retire false (c.each64 f)) (c.op.latency.getD 0) c.w.d.toNat 2
      (fun j i => if j = 0 then loHalf (f i) else hiHalf (f i)) 0 := by
  have := wrote_two h c.w.d.toNat (fun i => loHalf (f i)) (fun i => hiHalf (f i)) 0
  have he : (fun j => if j = 0 then (fun i => loHalf (f i)) else (fun i => hiHalf (f i))) =
      (fun (j : Nat) i => if j = 0 then loHalf (f i) else hiHalf (f i)) := by
    funext j i; split <;> rfl
  rw [he] at this
  simpa [retire_false, Ctx.put, Ctx.each64, modWarp_modWarp] using this

theorem eachF_wrote {c : Ctx} (h : mfind c.s.warps c.k = some c.W) (f : Nat → Word × FlagSet) :
    c.Wrote (c.retire false (c.eachF f)) (c.op.latency.getD 0) c.w.d.toNat 1 (fun _ i => (f i).1)
      (laneFlags (c.lanes.map (fun i => (f i).2))) := by
  have := wrote_one h c.w.d.toNat (fun i => (f i).1) (laneFlags (c.lanes.map (fun i => (f i).2)))
  simpa [Ctx.eachF, Ctx.each] using this

end Sys2Proof.Machine
end

