-- ==== Sys2Proof/Laws/Words.lean ====
section
/-! SUPPORT. Every instruction word takes the one course of an issue, with its own behaviour. -/

namespace Sys2Proof.Machine

/-- The meaning of an instruction word is the issue of its behaviour. -/
theorem exec_word {i : Instr} {o : Op} {len : Len} {w : Fields} (h : i.word = some (o, len, w)) (s : State) :
    exec i s = run o len w (kitOf o) s := by
  cases i <;> first
    | (cases h; rfl)
    | exact absurd h (by simp [Instr.word])

/-- An instruction word needs a gang; with one it always answers a next state. -/
theorem exec_word_next {i : Instr} {o : Op} {len : Len} {w : Fields} (h : i.word = some (o, len, w)) {s : State} {g : Issue}
    (hs : s.issue = some g) : exec i s = .next ((s.issued g o len w).issue (kitOf o)) := by
  rw [exec_word h, run_issued hs]

end Sys2Proof.Machine
end

