-- ==== Sys2Proof/Tests/Slice0.lean ====
section
/-! SUPPORT. Tests: every opcode's word decodes, ill-formed words are refused, single steps, and for every statement with
hypotheses states and operands that meet them. Expected values are the manual's or worked out from its rules by hand. -/

open Sys2Proof Sys2Proof.Machine
namespace Sys2Proof.Tests
set_option maxRecDepth 100000

/-- One warp of 32 lanes on core 1 in user mode, at 0x10000, about to issue, with every register 0. -/
def bare : State := State.reset.withBareGang
/-- The gang of its eight slices. -/
def gang : Issue := ⟨1, 0xFF, 0x10000⟩
/-- Fields with registers d, a, b, c. -/
def regs (d a b c : BitVec 8) : Fields := ⟨0, 0, false, false, 1, d, ⟨a, 0, 0⟩, ⟨b, 0, 0⟩, ⟨c, 0, 0⟩, 0, 0⟩
/-- The same with MOD, EXT and IMM. -/
def forms (m : BitVec 6) (e : BitVec 8) (i : Word) (d a b c : BitVec 8) : Fields := { regs d a b c with mod := m, ext := e, imm := i }
/-- The bare state with a change to its warp. -/
def withWarp (f : Warp → Warp) : State := bare.modWarp 1 f
/-- Lane i of register r holds v. -/
def put (r i : Nat) (v : Word) (W : Warp) : Warp := W.setReg r [(i, v)]
/-- Only lane 0 is active. -/
def lone (W : Warp) : Warp := { W with cnt := (List.range 31).map (fun i => (i + 1, 1)) }

theorem clear_of {c : Ctx} (hs : c.skip = c)
    (h : (decide (mfind c.s.warps c.k = some c.W) && decide (c.m ≠ 0) && decide (c.interlock = []) &&
      (!c.W.sbchk || (c.W.early c.op c.w).isNone) && (!c.W.uchk || (c.W.nonUniform c.op c.w c.m).isNone) &&
      (c.W.poisonedRead c.op c.w c.m).isNone) = true) : c.Clear := by
  simp only [Bool.and_eq_true, Bool.or_eq_true, decide_eq_true_eq, Option.isNone_iff_eq_none, Bool.not_eq_true'] at h
  obtain ⟨⟨⟨⟨⟨h1, h2⟩, h3⟩, h4⟩, h5⟩, h6⟩ := h
  exact ⟨h1, h2, hs, h3, fun h => h4.resolve_left (by simp [h]), fun h => h5.resolve_left (by simp [h]), h6⟩

theorem plain_of {c : Ctx} (h : (!c.s.buffered c.W && c.W.twinOf.isNone && c.fork?.isNone && c.W.tx.isNone && decide (c.W.buf = []) &&
    !c.s.watched c.k) = true) : c.Plain := by
  simp only [Bool.and_eq_true, decide_eq_true_eq, Option.isNone_iff_eq_none, Bool.not_eq_true'] at h
  obtain ⟨⟨⟨⟨⟨h1, h2⟩, h3⟩, h4⟩, h5⟩, h6⟩ := h
  exact ⟨h1, h2, h3, h4, h5, h6⟩

theorem reach_of {c : Ctx} {va : Nat → DWord} {n : Nat} {write : Bool} (h : (c.lanes.all (fun i =>
    decide ((va i).toNat % n = 0) && decide ((va i).toNat < 2 ^ 48) &&
      match c.trans (va i).toNat with | some t => !write || !t.rdo | none => false)) = true) : c.Reach va n write := by
  intro i hi
  have := List.all_eq_true.1 h i hi
  simp only [Bool.and_eq_true, decide_eq_true_eq] at this
  obtain ⟨⟨h1, h2⟩, h3⟩ := this
  refine ⟨h1, h2, ?_⟩
  split at h3
  · next t ht => exact ⟨t, ht, fun hw => by simpa [hw] using h3⟩
  · exact absurd h3 (by simp)

/-- A state in which an instruction is about to issue and nothing that all have in common keeps it from its effect. -/
def Good (s : State) (o : Op) (len : Len) (w : Fields) : Prop := s.issue = some gang ∧ (s.issued gang o len w).Clear

/-- The same, where moreover a condition holds of the context. -/
def Meets (s : State) (o : Op) (len : Len) (w : Fields) (p : Ctx → Prop) : Prop := Good s o len w ∧ p (s.issued gang o len w)

/-- No window is open, no partition splits the memory, and every line of the L2 lies there, is whole and plain, and holds what HBM holds unless it is newer. -/
def plainOk (s : State) : Bool :=
  !s.partitioned && s.dies.all (fun d => d.2.winCtl == []) && s.l2.all (fun l => s.inL2 (l.1 * 128) && decide (l.2.data.length = 128) &&
    decide (s.lineFmt l.2 = none) && (decide (l.2.dirty ≠ 0) || decide (l.2.data = s.hbmBytes (l.1 * 128) 128)))

theorem mem_of_mfind {α : Type} : ∀ {m : NMap α} {k : Nat} {v : α}, mfind m k = some v → (k, v) ∈ m
  | [], _, _, h => by simp [mfind] at h
  | e :: m, k, v, h => by
    simp only [mfind] at h
    split at h
    · next he => cases h; subst he; exact List.mem_cons_self
    · exact List.mem_cons_of_mem _ (mem_of_mfind h)

theorem no_window {s : State} {a : Nat} (hv : ∀ d, (s.die d).winCtl = []) : s.windowAt a = none := by
  unfold State.windowAt
  simp only
  split
  · rfl
  · rw [Option.map_eq_none_iff, List.find?_eq_none]
    simp [hv, mget, mfind, winEn]

theorem plainMem_of {s : State} (h : plainOk s = true) : PlainMem s := by
  simp only [plainOk, Bool.and_eq_true, List.all_eq_true, beq_iff_eq, decide_eq_true_eq, Bool.or_eq_true, Bool.not_eq_true'] at h
  have line (n : Nat) (L : Line) (hl : mfind s.l2 n = some L) := h.2 _ (mem_of_mfind hl)
  refine ⟨fun a => by simp [State.homeless, h.1.1], fun a => ?_, fun n L hl => (line n L hl).1.1.1, fun n L hl => (line n L hl).1.1.2, fun n L hl => (line n L hl).1.2,
    fun n L hl hd => (line n L hl).2.resolve_left (fun hn => hn hd)⟩
  have hv (d : Nat) : (s.die d).winCtl = [] := by
    unfold State.die
    cases hd : mfind s.dies d with
    | none => rfl
    | some D => exact h.1.2 _ (mem_of_mfind hd)
  rw [State.decodedView, no_window hv]

/-- The state that an outcome goes on in. -/
def ran (o : Host.Outcome State Fault Refusal) : State :=
  match o with
  | .next t => t
  | _ => State.reset

/-! ### Decoding: each opcode's word, from Table 2 of R191 and the formats of R179 to R184 -/

theorem test_decodes_integer_1 : ∀ x ∈ ([
    (0x000000001400100800003001, .iadd ⟨0, 0, false, false, 3, 8, ⟨16, 0, 0⟩, ⟨20, 0, 0⟩, .zero, 0, 0⟩),
    (0x000000001400100800003005, .isub ⟨0, 0, false, false, 3, 8, ⟨16, 0, 0⟩, ⟨20, 0, 0⟩, .zero, 0, 0⟩),
    (0x000018001400100800003009, .iadd3 ⟨0, 0, false, false, 3, 8, ⟨16, 0, 0⟩, ⟨20, 0, 0⟩, ⟨24, 0, 0⟩, 0, 0⟩),
    (0x00000000140010080000300D, .imul ⟨0, 0, false, false, 3, 8, ⟨16, 0, 0⟩, ⟨20, 0, 0⟩, .zero, 0, 0⟩),
    (0x000000001400100800003011, .imulh ⟨0, 0, false, false, 3, 8, ⟨16, 0, 0⟩, ⟨20, 0, 0⟩, .zero, 0, 0⟩),
    (0x000018001400100800003015, .imad ⟨0, 0, false, false, 3, 8, ⟨16, 0, 0⟩, ⟨20, 0, 0⟩, ⟨24, 0, 0⟩, 0, 0⟩),
    (0x000018001400100800003019, .imadw ⟨0, 0, false, false, 3, 8, ⟨16, 0, 0⟩, ⟨20, 0, 0⟩, ⟨24, 0, 0⟩, 0, 0⟩),
    (0x000010080000301C, .iabs ⟨0, 0, false, false, 3, 8, ⟨16, 0, 0⟩, .zero, .zero, 0, 0⟩),
    (0x000000001400100800003021, .imin ⟨0, 0, false, false, 3, 8, ⟨16, 0, 0⟩, ⟨20, 0, 0⟩, .zero, 0, 0⟩),
    (0x000000001400100800003025, .imax ⟨0, 0, false, false, 3, 8, ⟨16, 0, 0⟩, ⟨20, 0, 0⟩, .zero, 0, 0⟩),
    (0x000000001400100800003029, .icmp ⟨0, 0, false, false, 3, 8, ⟨16, 0, 0⟩, ⟨20, 0, 0⟩, .zero, 0, 0⟩),
    (0x00001800140010080000302D, .sel ⟨0, 0, false, false, 3, 8, ⟨16, 0, 0⟩, ⟨20, 0, 0⟩, ⟨24, 0, 0⟩, 0, 0⟩),
    (0x000000001400100800003031, .shl ⟨0, 0, false, false, 3, 8, ⟨16, 0, 0⟩, ⟨20, 0, 0⟩, .zero, 0, 0⟩),
    (0x000000001400100800003035, .shr ⟨0, 0, false, false, 3, 8, ⟨16, 0, 0⟩, ⟨20, 0, 0⟩, .zero, 0, 0⟩),
    (0x000000001400100800003039, .sar ⟨0, 0, false, false, 3, 8, ⟨16, 0, 0⟩, ⟨20, 0, 0⟩, .zero, 0, 0⟩),
    (0x00001800140010080000303D, .shf ⟨0, 0, false, false, 3, 8, ⟨16, 0, 0⟩, ⟨20, 0, 0⟩, ⟨24, 0, 0⟩, 0, 0⟩)] : List (Nat × Instr)), decodeTableWord 128 x.1 = some x.2 := by decide

theorem test_decodes_integer_2 : ∀ x ∈ ([
    (0x000000001400100800003041, .and_ ⟨0, 0, false, false, 3, 8, ⟨16, 0, 0⟩, ⟨20, 0, 0⟩, .zero, 0, 0⟩),
    (0x000000001400100800003045, .or_ ⟨0, 0, false, false, 3, 8, ⟨16, 0, 0⟩, ⟨20, 0, 0⟩, .zero, 0, 0⟩),
    (0x000000001400100800003049, .xor_ ⟨0, 0, false, false, 3, 8, ⟨16, 0, 0⟩, ⟨20, 0, 0⟩, .zero, 0, 0⟩),
    (0x05001800140010080000304D, .bfn3 ⟨0, 0, false, false, 3, 8, ⟨16, 0, 0⟩, ⟨20, 0, 0⟩, ⟨24, 0, 0⟩, 5, 0⟩),
    (0x000018001400100800003051, .bfx ⟨0, 0, false, false, 3, 8, ⟨16, 0, 0⟩, ⟨20, 0, 0⟩, ⟨24, 0, 0⟩, 0, 0⟩),
    (0x000018001400100800003055, .bfi ⟨0, 0, false, false, 3, 8, ⟨16, 0, 0⟩, ⟨20, 0, 0⟩, ⟨24, 0, 0⟩, 0, 0⟩),
    (0x0000100800003058, .popc ⟨0, 0, false, false, 3, 8, ⟨16, 0, 0⟩, .zero, .zero, 0, 0⟩),
    (0x000010080000305C, .clz ⟨0, 0, false, false, 3, 8, ⟨16, 0, 0⟩, .zero, .zero, 0, 0⟩),
    (0x0000100800003060, .brev ⟨0, 0, false, false, 3, 8, ⟨16, 0, 0⟩, .zero, .zero, 0, 0⟩),
    (0x000018001400100800003065, .prmb ⟨0, 0, false, false, 3, 8, ⟨16, 0, 0⟩, ⟨20, 0, 0⟩, ⟨24, 0, 0⟩, 0, 0⟩),
    (0x0000100800003068, .mov ⟨0, 0, false, false, 3, 8, ⟨16, 0, 0⟩, .zero, .zero, 0, 0⟩),
    (0x0000004000000000000000080000306E, .movi ⟨0, 0, false, false, 3, 8, .zero, .zero, .zero, 0, 64⟩),
    (0x00000040000000000000000800003072, .lea ⟨0, 0, false, false, 3, 8, .zero, .zero, .zero, 0, 64⟩),
    (0x000000001400100800003075, .add64 ⟨0, 0, false, false, 3, 8, ⟨16, 0, 0⟩, ⟨20, 0, 0⟩, .zero, 0, 0⟩),
    (0x000000001400100800003079, .cmp64 ⟨0, 0, false, false, 3, 8, ⟨16, 0, 0⟩, ⟨20, 0, 0⟩, .zero, 0, 0⟩),
    (0x000010080000307C, .movx ⟨0, 0, false, false, 3, 8, ⟨16, 0, 0⟩, .zero, .zero, 0, 0⟩)] : List (Nat × Instr)), decodeTableWord 128 x.1 = some x.2 := by decide

theorem test_decodes_integer_3 : ∀ x ∈ ([
    (0x1400100000003080, .movxw ⟨0, 0, false, false, 3, 0, ⟨16, 0, 0⟩, ⟨20, 0, 0⟩, .zero, 0, 0⟩)] : List (Nat × Instr)), decodeTableWord 128 x.1 = some x.2 := by decide

theorem test_decodes_float_1 : ∀ x ∈ ([
    (0x000000001400100800003201, .fadd ⟨0, 0, false, false, 3, 8, ⟨16, 0, 0⟩, ⟨20, 0, 0⟩, .zero, 0, 0⟩),
    (0x000000001400100800003205, .fsub ⟨0, 0, false, false, 3, 8, ⟨16, 0, 0⟩, ⟨20, 0, 0⟩, .zero, 0, 0⟩),
    (0x000000001400100800003209, .fmul ⟨0, 0, false, false, 3, 8, ⟨16, 0, 0⟩, ⟨20, 0, 0⟩, .zero, 0, 0⟩),
    (0x00001800140010080000320D, .ffma ⟨0, 0, false, false, 3, 8, ⟨16, 0, 0⟩, ⟨20, 0, 0⟩, ⟨24, 0, 0⟩, 0, 0⟩),
    (0x000000001400100800003211, .fmin ⟨0, 0, false, false, 3, 8, ⟨16, 0, 0⟩, ⟨20, 0, 0⟩, .zero, 0, 0⟩),
    (0x000000001400100800003215, .fmax ⟨0, 0, false, false, 3, 8, ⟨16, 0, 0⟩, ⟨20, 0, 0⟩, .zero, 0, 0⟩),
    (0x000000001400100800003219, .fcmp ⟨0, 0, false, false, 3, 8, ⟨16, 0, 0⟩, ⟨20, 0, 0⟩, .zero, 0, 0⟩),
    (0x000010080000321C, .fclass ⟨0, 0, false, false, 3, 8, ⟨16, 0, 0⟩, .zero, .zero, 0, 0⟩),
    (0x0000100800003220, .frcp ⟨0, 0, false, false, 3, 8, ⟨16, 0, 0⟩, .zero, .zero, 0, 0⟩),
    (0x0000100800003224, .frsq ⟨0, 0, false, false, 3, 8, ⟨16, 0, 0⟩, .zero, .zero, 0, 0⟩),
    (0x0000100800003228, .fsqrt ⟨0, 0, false, false, 3, 8, ⟨16, 0, 0⟩, .zero, .zero, 0, 0⟩),
    (0x000010080000322C, .fexp2 ⟨0, 0, false, false, 3, 8, ⟨16, 0, 0⟩, .zero, .zero, 0, 0⟩),
    (0x0000100800003230, .flog2 ⟨0, 0, false, false, 3, 8, ⟨16, 0, 0⟩, .zero, .zero, 0, 0⟩),
    (0x0000100800003234, .fsin ⟨0, 0, false, false, 3, 8, ⟨16, 0, 0⟩, .zero, .zero, 0, 0⟩),
    (0x0000100800003238, .fcos ⟨0, 0, false, false, 3, 8, ⟨16, 0, 0⟩, .zero, .zero, 0, 0⟩),
    (0x000010080000323C, .ftanh ⟨0, 0, false, false, 3, 8, ⟨16, 0, 0⟩, .zero, .zero, 0, 0⟩)] : List (Nat × Instr)), decodeTableWord 128 x.1 = some x.2 := by decide

theorem test_decodes_float_2 : ∀ x ∈ ([
    (0x0000100800003240, .fsigm ⟨0, 0, false, false, 3, 8, ⟨16, 0, 0⟩, .zero, .zero, 0, 0⟩),
    (0x000018001400100800003245, .fdot2 ⟨0, 0, false, false, 3, 8, ⟨16, 0, 0⟩, ⟨20, 0, 0⟩, ⟨24, 0, 0⟩, 0, 0⟩),
    (0x000018001400100800003249, .fdot4 ⟨0, 0, false, false, 3, 8, ⟨16, 0, 0⟩, ⟨20, 0, 0⟩, ⟨24, 0, 0⟩, 0, 0⟩),
    (0x00000000140010080000324D, .fscale ⟨0, 0, false, false, 3, 8, ⟨16, 0, 0⟩, ⟨20, 0, 0⟩, .zero, 0, 0⟩),
    (0x0000100800003250, .frnd ⟨0, 0, false, false, 3, 8, ⟨16, 0, 0⟩, .zero, .zero, 0, 0⟩),
    (0x0000100800003254, .cvtf ⟨0, 0, false, false, 3, 8, ⟨16, 0, 0⟩, .zero, .zero, 0, 0⟩),
    (0x0000100800003258, .cvtfi ⟨0, 0, false, false, 3, 8, ⟨16, 0, 0⟩, .zero, .zero, 0, 0⟩),
    (0x000010080000325C, .cvtif ⟨0, 0, false, false, 3, 8, ⟨16, 0, 0⟩, .zero, .zero, 0, 0⟩),
    (0x000000001400100800003261, .pack16 ⟨0, 0, false, false, 3, 8, ⟨16, 0, 0⟩, ⟨20, 0, 0⟩, .zero, 0, 0⟩),
    (0x000000001400100800003265, .qnt ⟨0, 0, false, false, 3, 8, ⟨16, 0, 0⟩, ⟨20, 0, 0⟩, .zero, 0, 0⟩),
    (0x000000001400100800003269, .dqnt ⟨0, 0, false, false, 3, 8, ⟨16, 0, 0⟩, ⟨20, 0, 0⟩, .zero, 0, 0⟩),
    (0x000010080000326C, .mxscale ⟨0, 0, false, false, 3, 8, ⟨16, 0, 0⟩, .zero, .zero, 0, 0⟩)] : List (Nat × Instr)), decodeTableWord 128 x.1 = some x.2 := by decide

theorem test_decodes_lanes : ∀ x ∈ ([
    (0x000018001400100800003401, .shfl ⟨0, 0, false, false, 3, 8, ⟨16, 0, 0⟩, ⟨20, 0, 0⟩, ⟨24, 0, 0⟩, 0, 0⟩),
    (0x0000100800003404, .vote ⟨0, 0, false, false, 3, 8, ⟨16, 0, 0⟩, .zero, .zero, 0, 0⟩),
    (0x0000100800003408, .matchL ⟨0, 0, false, false, 3, 8, ⟨16, 0, 0⟩, .zero, .zero, 0, 0⟩),
    (0x000010080000340C, .flane ⟨0, 0, false, false, 3, 8, ⟨16, 0, 0⟩, .zero, .zero, 0, 0⟩),
    (0x0000100800003410, .wred ⟨0, 0, false, false, 3, 8, ⟨16, 0, 0⟩, .zero, .zero, 0, 0⟩),
    (0x0000100800003414, .wscan ⟨0, 0, false, false, 3, 8, ⟨16, 0, 0⟩, .zero, .zero, 0, 0⟩),
    (0x000000001400100800003419, .cmpx ⟨0, 0, false, false, 3, 8, ⟨16, 0, 0⟩, ⟨20, 0, 0⟩, .zero, 0, 0⟩),
    (0x00000000140010080000341D, .rebal ⟨0, 0, false, false, 3, 8, ⟨16, 0, 0⟩, ⟨20, 0, 0⟩, .zero, 0, 0⟩),
    (0x000000001400100800003421, .compact ⟨0, 0, false, false, 3, 8, ⟨16, 0, 0⟩, ⟨20, 0, 0⟩, .zero, 0, 0⟩)] : List (Nat × Instr)), decodeTableWord 128 x.1 = some x.2 := by decide

theorem test_decodes_control_1 : ∀ x ∈ ([
    (0x00000040000000000000000000003502, .bra ⟨0, 0, false, false, 3, 0, .zero, .zero, .zero, 0, 64⟩),
    (0x0000100000003504, .brx ⟨0, 0, false, false, 3, 0, ⟨16, 0, 0⟩, .zero, .zero, 0, 0⟩),
    (0x0000004000000000000000080000350A, .call ⟨0, 0, false, false, 3, 8, .zero, .zero, .zero, 0, 64⟩),
    (0x000010000000350C, .ret ⟨0, 0, false, false, 3, 0, ⟨16, 0, 0⟩, .zero, .zero, 0, 0⟩),
    (0x00000040000000000000100800003512, .fcall ⟨0, 0, false, false, 3, 8, ⟨16, 0, 0⟩, .zero, .zero, 0, 64⟩),
    (0x0000000000003514, .fsync ⟨0, 0, false, false, 3, 0, .zero, .zero, .zero, 0, 0⟩),
    (0x0000004000000000000010000000351A, .if_ ⟨0, 0, false, false, 3, 0, ⟨16, 0, 0⟩, .zero, .zero, 0, 64⟩),
    (0x0000004000000000000000000000351E, .else_ ⟨0, 0, false, false, 3, 0, .zero, .zero, .zero, 0, 64⟩),
    (0x0000000000003520, .endif ⟨0, 0, false, false, 3, 0, .zero, .zero, .zero, 0, 0⟩),
    (0x0000000000003524, .loop ⟨0, 0, false, false, 3, 0, .zero, .zero, .zero, 0, 0⟩),
    (0x0000004005000000000010000000352A, .break_ ⟨0, 0, false, false, 3, 0, ⟨16, 0, 0⟩, .zero, .zero, 5, 64⟩),
    (0x0000004005000000000010000000352E, .cont_ ⟨0, 0, false, false, 3, 0, ⟨16, 0, 0⟩, .zero, .zero, 5, 64⟩),
    (0xFFFFFFC0000000000000000000003532, .endloop ⟨0, 0, false, false, 3, 0, .zero, .zero, .zero, 0, 0xffffffc0⟩),
    (0x0000100000003534, .regang ⟨0, 0, false, false, 3, 0, ⟨16, 0, 0⟩, .zero, .zero, 0, 0⟩),
    (0x0000100800003538, .bar ⟨0, 0, false, false, 3, 8, ⟨16, 0, 0⟩, .zero, .zero, 0, 0⟩),
    (0x140010000000353C, .bara ⟨0, 0, false, false, 3, 0, ⟨16, 0, 0⟩, ⟨20, 0, 0⟩, .zero, 0, 0⟩)] : List (Nat × Instr)), decodeTableWord 128 x.1 = some x.2 := by decide

theorem test_decodes_control_2 : ∀ x ∈ ([
    (0x1400100800003540, .barw ⟨0, 0, false, false, 3, 8, ⟨16, 0, 0⟩, ⟨20, 0, 0⟩, .zero, 0, 0⟩),
    (0x1400100000003544, .pba ⟨0, 0, false, false, 3, 0, ⟨16, 0, 0⟩, ⟨20, 0, 0⟩, .zero, 0, 0⟩),
    (0x1400100000003548, .pbw ⟨0, 0, false, false, 3, 0, ⟨16, 0, 0⟩, ⟨20, 0, 0⟩, .zero, 0, 0⟩),
    (0x0000004000000000140010000000354E, .ivl ⟨0, 0, false, false, 3, 0, ⟨16, 0, 0⟩, ⟨20, 0, 0⟩, .zero, 0, 64⟩),
    (0x0000000000003550, .yield ⟨0, 0, false, false, 3, 0, .zero, .zero, .zero, 0, 0⟩),
    (0x0000000000003554, .nop .l64 ⟨0, 0, false, false, 3, 0, .zero, .zero, .zero, 0, 0⟩),
    (0x000000000000000000003555, .nop .l96 ⟨0, 0, false, false, 3, 0, .zero, .zero, .zero, 0, 0⟩),
    (0x00000000000000000000000000003556, .nop .l128 ⟨0, 0, false, false, 3, 0, .zero, .zero, .zero, 0, 0⟩),
    (0x0000000000003558, .exit_ ⟨0, 0, false, false, 3, 0, .zero, .zero, .zero, 0, 0⟩)] : List (Nat × Instr)), decodeTableWord 128 x.1 = some x.2 := by decide

theorem test_decodes_loads : ∀ x ∈ ([
    (0x000000001400100800003601, .ld ⟨0, 0, false, false, 3, 8, ⟨16, 0, 0⟩, ⟨20, 0, 0⟩, .zero, 0, 0⟩),
    (0x000000001400100800003605, .st ⟨0, 0, false, false, 3, 8, ⟨16, 0, 0⟩, ⟨20, 0, 0⟩, .zero, 0, 0⟩),
    (0x000000001400100800003609, .lds ⟨0, 0, false, false, 3, 8, ⟨16, 0, 0⟩, ⟨20, 0, 0⟩, .zero, 0, 0⟩),
    (0x00000000140010080000360D, .sts ⟨0, 0, false, false, 3, 8, ⟨16, 0, 0⟩, ⟨20, 0, 0⟩, .zero, 0, 0⟩),
    (0x000000001400100800003611, .lde ⟨0, 0, false, false, 3, 8, ⟨16, 0, 0⟩, ⟨20, 0, 0⟩, .zero, 0, 0⟩),
    (0x000000001400100800003615, .ste ⟨0, 0, false, false, 3, 8, ⟨16, 0, 0⟩, ⟨20, 0, 0⟩, .zero, 0, 0⟩),
    (0x000000001400100800003619, .ldc ⟨0, 0, false, false, 3, 8, ⟨16, 0, 0⟩, ⟨20, 0, 0⟩, .zero, 0, 0⟩),
    (0x000010000000361C, .pref ⟨0, 0, false, false, 3, 0, ⟨16, 0, 0⟩, .zero, .zero, 0, 0⟩),
    (0x0000100000003620, .discard ⟨0, 0, false, false, 3, 0, ⟨16, 0, 0⟩, .zero, .zero, 0, 0⟩)] : List (Nat × Instr)), decodeTableWord 128 x.1 = some x.2 := by decide

theorem test_decodes_atomics : ∀ x ∈ ([
    (0x000000001400100800003801, .amo ⟨0, 0, false, false, 3, 8, ⟨16, 0, 0⟩, ⟨20, 0, 0⟩, .zero, 0, 0⟩),
    (0x000000001400100000003805, .red ⟨0, 0, false, false, 3, 0, ⟨16, 0, 0⟩, ⟨20, 0, 0⟩, .zero, 0, 0⟩),
    (0x000000001400100800003809, .amos ⟨0, 0, false, false, 3, 8, ⟨16, 0, 0⟩, ⟨20, 0, 0⟩, .zero, 0, 0⟩),
    (0x000000080000380C, .txopen ⟨0, 0, false, false, 3, 8, .zero, .zero, .zero, 0, 0⟩),
    (0x0000000800003810, .txseal ⟨0, 0, false, false, 3, 8, .zero, .zero, .zero, 0, 0⟩),
    (0x0000100000003814, .txdrop ⟨0, 0, false, false, 3, 0, ⟨16, 0, 0⟩, .zero, .zero, 0, 0⟩),
    (0x0000000048003818, .fence ⟨18, 0, false, false, 3, 0, .zero, .zero, .zero, 0, 0⟩),
    (0x000010000000381C, .waitc ⟨0, 0, false, false, 3, 0, ⟨16, 0, 0⟩, .zero, .zero, 0, 0⟩),
    (0x000018001400100800003821, .trywait ⟨0, 0, false, false, 3, 8, ⟨16, 0, 0⟩, ⟨20, 0, 0⟩, ⟨24, 0, 0⟩, 0, 0⟩),
    (0x0000000000003824, .qsp ⟨0, 0, false, false, 3, 0, .zero, .zero, .zero, 0, 0⟩),
    (0x0000000800003828, .gpreq ⟨0, 0, false, false, 3, 8, .zero, .zero, .zero, 0, 0⟩),
    (0x000010000000382C, .gpwait ⟨0, 0, false, false, 3, 0, ⟨16, 0, 0⟩, .zero, .zero, 0, 0⟩),
    (0x000000001400100800003831, .dfree ⟨0, 0, false, false, 3, 8, ⟨16, 0, 0⟩, ⟨20, 0, 0⟩, .zero, 0, 0⟩),
    (0x0000100800003834, .palloc ⟨0, 0, false, false, 3, 8, ⟨16, 0, 0⟩, .zero, .zero, 0, 0⟩),
    (0x1400100000003838, .pfree ⟨0, 0, false, false, 3, 0, ⟨16, 0, 0⟩, ⟨20, 0, 0⟩, .zero, 0, 0⟩)] : List (Nat × Instr)), decodeTableWord 128 x.1 = some x.2 := by decide

theorem test_decodes_engines : ∀ x ∈ ([
    (0x00000040000000001400100800003902, .gather ⟨0, 0, false, false, 3, 8, ⟨16, 0, 0⟩, ⟨20, 0, 0⟩, .zero, 0, 64⟩),
    (0x00000040000000001400100800003906, .scatter ⟨0, 0, false, false, 3, 8, ⟨16, 0, 0⟩, ⟨20, 0, 0⟩, .zero, 0, 64⟩),
    (0x0000000000001800140010080000390A, .copy ⟨0, 0, false, false, 3, 8, ⟨16, 0, 0⟩, ⟨20, 0, 0⟩, ⟨24, 0, 0⟩, 0, 0⟩),
    (0x0000000000001800140010000000390E, .copyr ⟨0, 0, false, false, 3, 0, ⟨16, 0, 0⟩, ⟨20, 0, 0⟩, ⟨24, 0, 0⟩, 0, 0⟩)] : List (Nat × Instr)), decodeTableWord 128 x.1 = some x.2 := by decide

theorem test_decodes_matrix : ∀ x ∈ ([
    (0x1400100000003A00, .mcfg ⟨0, 0, false, false, 3, 0, ⟨16, 0, 0⟩, ⟨20, 0, 0⟩, .zero, 0, 0⟩),
    (0x0000100000003A04, .mlds ⟨0, 0, false, false, 3, 0, ⟨16, 0, 0⟩, .zero, .zero, 0, 0⟩),
    (0x0000000000003A08, .mswap ⟨0, 0, false, false, 3, 0, .zero, .zero, .zero, 0, 0⟩),
    (0x000018001400100800003A0D, .mloop ⟨0, 0, false, false, 3, 8, ⟨16, 0, 0⟩, ⟨20, 0, 0⟩, ⟨24, 0, 0⟩, 0, 0⟩),
    (0x0000100000003A10, .mzero ⟨0, 0, false, false, 3, 0, ⟨16, 0, 0⟩, .zero, .zero, 0, 0⟩),
    (0x0000100800003A14, .mrd ⟨0, 0, false, false, 3, 8, ⟨16, 0, 0⟩, .zero, .zero, 0, 0⟩),
    (0x000000001400100000003A19, .mst ⟨0, 0, false, false, 3, 0, ⟨16, 0, 0⟩, ⟨20, 0, 0⟩, .zero, 0, 0⟩),
    (0x000000001400100000003A1D, .macc ⟨0, 0, false, false, 3, 0, ⟨16, 0, 0⟩, ⟨20, 0, 0⟩, .zero, 0, 0⟩),
    (0x0000000800003A20, .mfence ⟨0, 0, false, false, 3, 8, .zero, .zero, .zero, 0, 0⟩),
    (0x0000100000003A24, .mwait ⟨0, 0, false, false, 3, 0, ⟨16, 0, 0⟩, .zero, .zero, 0, 0⟩),
    (0x0000100000003A28, .mmeta ⟨0, 0, false, false, 3, 0, ⟨16, 0, 0⟩, .zero, .zero, 0, 0⟩)] : List (Nat × Instr)), decodeTableWord 128 x.1 = some x.2 := by decide

theorem test_decodes_tap : ∀ x ∈ ([
    (0x000018001400100800003B01, .tapbind ⟨0, 0, false, false, 3, 8, ⟨16, 0, 0⟩, ⟨20, 0, 0⟩, ⟨24, 0, 0⟩, 0, 0⟩),
    (0x0000000000003B04, .fgath ⟨0, 0, false, false, 3, 0, .zero, .zero, .zero, 0, 0⟩),
    (0x0000000000003B08, .tapgo ⟨0, 0, false, false, 3, 0, .zero, .zero, .zero, 0, 0⟩),
    (0x0000000800003B0C, .tapwait ⟨0, 0, false, false, 3, 8, .zero, .zero, .zero, 0, 0⟩),
    (0x0000000800003B10, .fev ⟨0, 0, false, false, 3, 8, .zero, .zero, .zero, 0, 0⟩),
    (0x0000100000003B14, .frewr ⟨0, 0, false, false, 3, 0, ⟨16, 0, 0⟩, .zero, .zero, 0, 0⟩),
    (0x0000000000003B18, .frel ⟨0, 0, false, false, 3, 0, .zero, .zero, .zero, 0, 0⟩),
    (0x000000001400100800003B1D, .adpq ⟨0, 0, false, false, 3, 8, ⟨16, 0, 0⟩, ⟨20, 0, 0⟩, .zero, 0, 0⟩)] : List (Nat × Instr)), decodeTableWord 128 x.1 = some x.2 := by decide

theorem test_decodes_graph : ∀ x ∈ ([
    (0x000000001400100800003B81, .emit ⟨0, 0, false, false, 3, 8, ⟨16, 0, 0⟩, ⟨20, 0, 0⟩, .zero, 0, 0⟩),
    (0x000000001400100800003B85, .launch ⟨0, 0, false, false, 3, 8, ⟨16, 0, 0⟩, ⟨20, 0, 0⟩, .zero, 0, 0⟩),
    (0x000000001400100000003B89, .sigadd ⟨0, 0, false, false, 3, 0, ⟨16, 0, 0⟩, ⟨20, 0, 0⟩, .zero, 0, 0⟩),
    (0x0000000000003B8C, .ndone ⟨0, 0, false, false, 3, 0, .zero, .zero, .zero, 0, 0⟩)] : List (Nat × Instr)), decodeTableWord 128 x.1 = some x.2 := by decide

theorem test_decodes_collectives : ∀ x ∈ ([
    (0x00000040000018001400100800003C02, .cred ⟨0, 0, false, false, 3, 8, ⟨16, 0, 0⟩, ⟨20, 0, 0⟩, ⟨24, 0, 0⟩, 0, 64⟩),
    (0x00000040000018001400100800003C06, .cgath ⟨0, 0, false, false, 3, 8, ⟨16, 0, 0⟩, ⟨20, 0, 0⟩, ⟨24, 0, 0⟩, 0, 64⟩),
    (0x00000040050018001400100800003C0A, .cbcst ⟨0, 0, false, false, 3, 8, ⟨16, 0, 0⟩, ⟨20, 0, 0⟩, ⟨24, 0, 0⟩, 5, 64⟩),
    (0x00000040000018001400100800003C0E, .ca2a ⟨0, 0, false, false, 3, 8, ⟨16, 0, 0⟩, ⟨20, 0, 0⟩, ⟨24, 0, 0⟩, 0, 64⟩),
    (0x0000100800003C10, .cwait ⟨0, 0, false, false, 3, 8, ⟨16, 0, 0⟩, .zero, .zero, 0, 0⟩),
    (0x0000020800003C14, .viewrd ⟨0, 0, false, false, 3, 8, ⟨2, 0, 0⟩, .zero, .zero, 0, 0⟩),
    (0x0000000800003C18, .vjoin ⟨0, 0, false, false, 3, 8, .zero, .zero, .zero, 0, 0⟩),
    (0x1400100000003C1C, .vack ⟨0, 0, false, false, 3, 0, ⟨16, 0, 0⟩, ⟨20, 0, 0⟩, .zero, 0, 0⟩)] : List (Nat × Instr)), decodeTableWord 128 x.1 = some x.2 := by decide

theorem test_decodes_system : ∀ x ∈ ([
    (0x0000100000003C80, .trap ⟨0, 0, false, false, 3, 0, ⟨16, 0, 0⟩, .zero, .zero, 0, 0⟩),
    (0x0000000000003C84, .eret ⟨0, 0, false, false, 3, 0, .zero, .zero, .zero, 0, 0⟩),
    (0x0000100800003C88, .ctlr ⟨0, 0, false, false, 3, 8, ⟨16, 0, 0⟩, .zero, .zero, 0, 0⟩),
    (0x0800100000003C8C, .ctlw ⟨0, 0, false, false, 3, 0, ⟨16, 0, 0⟩, ⟨8, 0, 0⟩, .zero, 0, 0⟩),
    (0x0000000000003C90, .halt ⟨0, 0, false, false, 3, 0, .zero, .zero, .zero, 0, 0⟩),
    (0x000018001400100000003C95, .tlbinv ⟨0, 0, false, false, 3, 0, ⟨16, 0, 0⟩, ⟨20, 0, 0⟩, ⟨24, 0, 0⟩, 0, 0⟩),
    (0x000000001400100000003C99, .cacheop ⟨0, 0, false, false, 3, 0, ⟨16, 0, 0⟩, ⟨20, 0, 0⟩, .zero, 0, 0⟩),
    (0x000000001400100800003C9D, .ctxsv ⟨0, 0, false, false, 3, 8, ⟨16, 0, 0⟩, ⟨20, 0, 0⟩, .zero, 0, 0⟩),
    (0x000000001400100800003CA1, .ctxld ⟨0, 0, false, false, 3, 8, ⟨16, 0, 0⟩, ⟨20, 0, 0⟩, .zero, 0, 0⟩),
    (0x1400100000003CA4, .qend ⟨0, 0, false, false, 3, 0, ⟨16, 0, 0⟩, ⟨20, 0, 0⟩, .zero, 0, 0⟩),
    (0x0000100800003CA8, .sigr ⟨0, 0, false, false, 3, 8, ⟨16, 0, 0⟩, .zero, .zero, 0, 0⟩),
    (0x000000000000100000003CAD, .rasw ⟨0, 0, false, false, 3, 0, ⟨16, 0, 0⟩, .zero, .zero, 0, 0⟩)] : List (Nat × Instr)), decodeTableWord 128 x.1 = some x.2 := by decide

/-! ### What is ill-formed -/

/-- A short immediate. -/
def imm (n k : Nat) : Operand := ⟨BitVec.ofNat 8 n, 6, BitVec.ofNat 5 k⟩
/-- R182: a reserved MOD, and a MOD where the entry has none. -/
theorem test_wf_mod : (Instr.iadd (forms 3 0 0 1 2 3 0)).wf = false ∧ (Instr.movi (forms 1 0 5 1 0 0 0)).wf = false ∧
    (Instr.iadd (forms 2 0 0 1 2 3 0)).wf = true := by decide
/-- R183: GS or GR without GE, and a guard where the entry allows none. -/
theorem test_wf_guard : (Instr.iadd { regs 1 2 3 0 with gs := true }).wf = false ∧ (Instr.iadd { regs 1 2 3 0 with gr := 4 }).wf = false ∧
    (Instr.else_ { forms 0 0 0x20 0 0 0 0 with ge := true }).wf = false ∧ (Instr.iadd { regs 1 2 3 0 with gr := 4, ge := true }).wf = true := by decide
/-- R184: an odd pair as destination, an odd pair as source, a D where the entry has none. -/
theorem test_wf_registers : (Instr.imadw (regs 1 2 4 6)).wf = false ∧ (Instr.add64 (regs 2 3 4 0)).wf = false ∧ (Instr.yield (regs 1 0 0 0)).wf = false := by decide
/-- R32: pattern 7, a k out of range, a pattern where none is allowed, an immediate where none is allowed. -/
theorem test_wf_patterns : (Instr.mov { regs 1 2 0 0 with a := ⟨2, 7, 0⟩ }).wf = false ∧ (Instr.mov { regs 1 2 0 0 with a := ⟨2, 4, 0⟩ }).wf = false ∧
    (Instr.mov { regs 1 2 0 0 with a := ⟨2, 4, 7⟩ }).wf = false ∧ (Instr.mov { regs 1 2 0 0 with a := ⟨2, 5, 4⟩ }).wf = false ∧
    (Instr.mov { regs 1 2 0 0 with a := ⟨2, 0, 1⟩ }).wf = false ∧ (Instr.shfl { regs 1 2 4 0 with a := ⟨2, 4, 1⟩ }).wf = false ∧
    (Instr.cmp64 { regs 1 2 0 0 with b := imm 5 0 }).wf = false := by decide
/-- R180, R184: a field that the entry does not use, SPARE and IMM where it has none. -/
theorem test_wf_unused : (Instr.iadd (regs 1 2 3 4)).wf = false ∧ (Instr.iadd (forms 0 1 0 1 2 3 0)).wf = false ∧
    (Instr.iadd (forms 0 0 1 1 2 3 0)).wf = false ∧ (Instr.mov (regs 1 2 3 0)).wf = false := by decide
/-- R218, R224, R226, R241, R246, R270, R276, R279: what single entries ask for. -/
theorem test_wf_entries : (Instr.break_ (forms 0 14 0x20 0 2 0 0)).wf = false ∧ (Instr.if_ (forms 0 0 0xFFFFFFE0 0 2 0 0)).wf = false ∧
    (Instr.endloop (forms 0 0 0x20 0 0 0 0)).wf = false ∧ (Instr.fcall (forms 0 0 0x20 2 0 0 0)).wf = true ∧
    (Instr.fcall { forms 0 0 0x20 2 0 0 0 with a := ⟨8, 4, 0⟩ }).wf = false ∧ (Instr.red (forms 9 0 0 0 2 3 0)).wf = false ∧
    (Instr.amo (forms 31 0 0 4 2 6 8)).wf = false ∧ (Instr.waitc { regs 0 1 0 0 with a := ⟨1, 0, 1⟩ }).wf = false ∧
    (Instr.cred (forms 0x0D 0 8 10 2 4 6)).wf = false ∧ (Instr.viewrd (regs 1 5 0 0)).wf = false ∧ (Instr.ctlr (regs 1 0x11 0 0)).wf = false ∧
    (Instr.ctlw (regs 0 2 0x0A 0)).wf = false := by decide
/-- R29: overlapping ranges of IVL, and a range beyond the count. -/
theorem test_wf_ivl : (Instr.ivl (forms 0 0 0x0808 0 0x0400 0 0)).wf = false ∧
    decode (encodeBytes (.ivl (forms 0 0 0x08 0 0x3C 0 0))) 64 = .error 5 ∧
    decode (encodeBytes (.ivl (forms 0 0 0x04 0 0x3C 0 0))) 64 = .ok (.ivl (forms 0 0 0x04 0 0x3C 0 0)) := by decide

/-! ### The manual's worked encodings (chapters 10 to 15) -/

theorem test_worked_encodings :
    decode [0x4D, 0, 0, 0, 5, 1, 0, 2, 0, 3, 0, 0xAC] 256 = .ok (.bfn3 { forms 0 0xAC 0 5 1 2 3 with stall := 0 }) ∧
    decode [0x01, 0x16, 0x05, 0x0C, 8, 10, 0, 0, 6, 0, 0, 0] 256 =
      .ok (.ld { forms 3 0 0 8 10 0 0 with gr := 1, ge := true, stall := 1, b := imm 0 0 }) ∧
    decode [0x09, 0x08, 0x2D, 0, 0x1C, 0x10, 0, 1, 6, 0, 0, 0] 256 = .ok (.amos { regs 28 16 0 0 with gr := 11, ge := true, stall := 0, b := imm 1 0 }) ∧
    decode [0x0C, 0x84, 0, 0, 0x17, 0x16, 0, 0] 256 = .ok (.flane { regs 23 22 0 0 with stall := 8 }) ∧
    decode [0x31, 0x08, 0x0D, 0, 0x1D, 0x0C, 0, 2, 6, 0, 0, 0] 256 = .ok (.dfree { regs 29 12 0 0 with gr := 3, ge := true, stall := 0, b := imm 2 0 }) ∧
    decode [0x2C, 0x08, 0, 0, 0, 0x1E, 0, 0] 256 = .ok (.gpwait { regs 0 30 0 0 with stall := 0 }) ∧
    decode [0x0D, 0x0A, 0, 8, 0x34, 0x24, 0, 0x30, 0, 0x31, 0, 0] 256 = .ok (.mloop { forms 2 0 0 0x34 0x24 0x30 0x31 with stall := 0 }) ∧
    decode [0x02, 0x0C, 0, 0, 0x10, 0x14, 0, 0x16, 0, 0x18, 0, 0, 8, 0, 0, 0] 256 = .ok (.cred { forms 0 0 8 0x10 0x14 0x16 0x18 with stall := 0 }) := by decide

/-! ### Single steps -/

/-- The value that lane i of register r settles at after an instruction. -/
def after (i : Instr) (s : State) (r l : Nat) : Word := ((ran (exec i s)).warp 1).settled r l
/-- R200: IADD wraps, `.ss` saturates, and the source may be the destination. -/
theorem test_iadd : after (.iadd (regs 2 2 3 0)) (withWarp (fun W => put 2 5 0x7FFFFFFF (put 3 5 1 W))) 2 5 = 0x80000000 ∧
    after (.iadd (forms 1 0 0 2 2 3 0)) (withWarp (fun W => put 2 5 0x7FFFFFFF (put 3 5 1 W))) 2 5 = 0x7FFFFFFF := by decide
/-- R200: the high half of a signed and of an unsigned product. -/
theorem test_imulh : after (.imulh (regs 4 2 3 0)) (withWarp (fun W => put 2 0 0xFFFFFFFF (put 3 0 2 W))) 4 0 = 0xFFFFFFFF ∧
    after (.imulh (forms 1 0 0 4 2 3 0)) (withWarp (fun W => put 2 0 0xFFFFFFFF (put 3 0 2 W))) 4 0 = 1 := by decide
/-- R200: shifts by 31 and by more than the width. -/
theorem test_shifts : after (.sar (regs 4 2 3 0)) (withWarp (fun W => put 2 0 0x80000000 (put 3 0 40 W))) 4 0 = 0xFFFFFFFF ∧
    after (.shl (regs 4 2 3 0)) (withWarp (fun W => put 2 0 3 (put 3 0 31 W))) 4 0 = 0x80000000 := by decide
/-- R202: ADD64 carries into the high half. -/
theorem test_add64 : (let s := withWarp (fun W => put 2 0 0xFFFFFFFF (put 4 0 1 W))
    (after (.add64 (regs 6 2 4 0)) s 6 0, after (.add64 (regs 6 2 4 0)) s 7 0) = (0, 1)) := by decide
/-- R204: FADD rounds to nearest even: 2^24 + 1 stays 2^24; ∞ − ∞ is the quiet NaN. -/
theorem test_fadd : after (.fadd (regs 4 2 3 0)) (withWarp (fun W => put 2 0 0x4B800000 (put 3 0 0x3F800000 W))) 4 0 = 0x4B800000 ∧
    after (.fadd (regs 4 2 3 0)) (withWarp (fun W => put 2 0 0x7F800000 (put 3 0 0xFF800000 W))) 4 0 = 0x7FC00000 := by decide
/-- R204: FMIN takes −0 below +0 and the number beside a NaN. -/
theorem test_fmin : after (.fmin (regs 4 2 3 0)) (withWarp (fun W => put 2 0 0 (put 3 0 0x80000000 W))) 4 0 = 0x80000000 ∧
    after (.fmin (regs 4 2 3 0)) (withWarp (fun W => put 2 0 0x7FC00000 (put 3 0 0x3F800000 W))) 4 0 = 0x3F800000 := by decide
/-- R40: six clusters go out along the curve as clusters 0, 1, 5, 4, 2 and 3. -/
theorem test_curve : curveOrder 6 = [0, 1, 5, 4, 2, 3] := by decide
/-- R16, R37: a step fetches the word at the gang's address, runs it and moves past it. -/
theorem test_step_runs : ((ran (step (bare.withFetchWord 96 0x000000001400100800003001))).warp 1).slice 0 = { pc := 0x1000C, retired := 1 } := by decide

/-! ### Fetching and decoding -/

theorem witness_DecodeEncode : ∃ (i : Instr) (o : Op) (len : Len) (w : Fields), i.word = some (o, len, w) ∧ i.wf = true ∧
    o.regsBelow w 64 = true ∧ (o = .ivl → ∀ x ∈ Shape.ivlRanges w, x.2 = 0 ∨ x.1 + x.2 ≤ 64) :=
  ⟨.ivl ⟨0, 0, false, false, 0, 0, ⟨0x40, 0, 0⟩, .zero, .zero, 0, 0⟩, _, _, _, rfl, by decide, by decide, by decide⟩

theorem witness_DecodeSound : decode (leBytes 12 0x000000001400100800003001) 32 =
    .ok (.iadd ⟨0, 0, false, false, 3, 8, ⟨16, 0, 0⟩, ⟨20, 0, 0⟩, .zero, 0, 0⟩) := by decide

/-- R186: each reason at a word that shows it and no lower one. -/
theorem test_decode_reasons :
    decode (leBytes 8 3) 256 = .error 1 ∧ decode (leBytes 8 (0x021 <<< 2)) 256 = .error 2 ∧ decode (leBytes 8 0) 256 = .error 3 ∧
    decode (leBytes 12 0x141F0605) 256 = .error 4 ∧ decode (leBytes 8 (0x01A <<< 2 ||| 7 <<< 48)) 256 = .error 5 ∧
    decode (leBytes 8 (0x01A <<< 2 ||| 40 <<< 32)) 40 = .error 6 ∧ decode (leBytes 4 (0x01A <<< 2)) 256 = .error 7 ∧
    -- across the end of a block: GS without GE, and a guard register beyond the count
    decode (leBytes 4 (0x01A <<< 2 ||| 1 <<< 17)) 256 = .error 5 ∧
    decode (leBytes 4 (0x01A <<< 2 ||| 1 <<< 16 ||| 40 <<< 18)) 40 = .error 6 := by decide

theorem witness_StepRunsFetched : ∃ (s : State) (g : Issue) (tr : Trans) (i : Instr),
    let c := ({ s with issue := none } : State).gangAt g.warp g.mask g.pc
    let b := c.s.fetchBlock c.W.core (tr.phys g.pc.toNat)
    s.issue = some g ∧ g.mask ≠ 0 ∧ c.skip = c ∧ c.fetchTrans = some tr ∧ tr.xn = false ∧
    ¬ (g.pc.toNat % 32 = 28 ∧ leNat (b.2.drop 28) = fillerWord) ∧ decode (b.2.drop (g.pc.toNat % 32)) c.W.bound = .ok i ∧
    mfind (s.core c.W.core).icache (tr.phys g.pc.toNat / 32) = none ∧
    (∀ f ∈ s.flights, ∀ a ∈ f.2.accs, a.pa / 32 = tr.phys g.pc.toNat / 32 → a.stores = true → a.done = false) :=
  ⟨bare.withFetchWord 96 0x000000001400100800003001, gang, ⟨0, 0, 7, 0, 0, false, false, false⟩,
    .iadd ⟨0, 0, false, false, 3, 8, ⟨16, 0, 0⟩, ⟨20, 0, 0⟩, .zero, 0, 0⟩, by decide, by decide, rfl, by decide, rfl, by decide, by decide, by decide,
    fun _ h => nomatch h⟩

theorem witness_DecodeStops :
    (∃ (s : State) (g : Issue) (tr : Trans),
      let c := ({ s with issue := none } : State).gangAt g.warp g.mask g.pc
      let bytes := (c.s.fetchBlock c.W.core (tr.phys g.pc.toNat)).2.drop (g.pc.toNat % 32)
      s.issue = some g ∧ g.mask ≠ 0 ∧ c.skip = c ∧ c.fetchTrans = some tr ∧ tr.xn = false ∧
      ¬ (g.pc.toNat % 32 = 28 ∧ leNat bytes = fillerWord) ∧ decode bytes c.W.bound = .error 3) ∧
    ∃ (s : State) (g : Issue) (tr : Trans),
      let c := ({ s with issue := none } : State).gangAt g.warp g.mask g.pc
      let b := c.s.fetchBlock c.W.core (tr.phys g.pc.toNat)
      s.issue = some g ∧ g.mask ≠ 0 ∧ c.skip = c ∧ c.fetchTrans = some tr ∧ tr.xn = false ∧
      g.pc.toNat % 32 = 28 ∧ leNat (b.2.drop 28) = fillerWord :=
  ⟨⟨bare, gang, ⟨0, 0, 7, 0, 0, false, false, false⟩, by decide, by decide, rfl, by decide, rfl, by decide, by decide⟩,
   ⟨({ bare with issue := some ⟨1, 0xFF, 0x1001C⟩ } : State).withFetchWord 32 0x554, ⟨1, 0xFF, 0x1001C⟩, ⟨0, 0, 7, 0, 0, false, false, false⟩,
    by decide, by decide, rfl, by decide, rfl, by decide, by decide⟩⟩

/-- R186, R44: the step takes the decode fault: with no handler registered the warp is killed (R343), cause 0x104. -/
theorem test_step_decode_fault : (ran (step bare)).warps.map (fun x => (x.2.killed, x.2.ended)) = [(true, true)] := by decide

theorem witness_WordsComplete : ∃ (s t : State) (g : Issue), s.issue = some g ∧ (s.issued g .iadd .l96 (regs 1 2 3 0)).Clear ∧
    (kitOf .iadd).Lets (s.issued g .iadd .l96 (regs 1 2 3 0)) t :=
  ⟨bare, _, gang, rfl, clear_of rfl (by decide), lets_plain _ _⟩

/-! ### Arithmetic -/

theorem witness_IntegerArithmetic : Good bare .iadd .l96 (forms 1 0 0 1 2 3 0) := ⟨rfl, clear_of rfl (by decide)⟩
theorem witness_ShiftsAndLogic : Good bare .shl .l96 (regs 1 2 3 0) ∧ Good bare .movi .l128 (forms 0 0 0x42 1 0 0 0) :=
  ⟨⟨rfl, clear_of rfl (by decide)⟩, ⟨rfl, clear_of rfl (by decide)⟩⟩
theorem witness_BitFields : Good bare .bfx .l96 (forms 1 0 0 1 2 3 4) := ⟨rfl, clear_of rfl (by decide)⟩
theorem witness_PairArithmetic : Good bare .imadw .l96 (forms 1 0 0 2 4 5 6) := ⟨rfl, clear_of rfl (by decide)⟩
theorem witness_Comparisons : Good bare .icmp .l96 (forms 13 0 0 1 2 3 0) ∧
    (Good bare .fcmp .l96 (forms 6 0 0 1 2 3 0) ∧ (bare.issued gang .fcmp .l96 (forms 6 0 0 1 2 3 0)).mod ≤ 6) ∧
    Good bare .fmin .l96 (forms 8 0 0 1 2 3 0) ∧ ((Fmt.bf16, 0x7FC0) ∈ [(Fmt.fp32, 0x7FC00000), (Fmt.fp16, 0x7E00), (Fmt.bf16, 0x7FC0)] ∧
      (0xFFFF : Nat) < 2 ^ (Fmt.bf16.ebits + Fmt.bf16.fbits + 1) ∧ (Fmt.bf16.decode 0xFFFF).isNan = true) :=
  ⟨⟨rfl, clear_of rfl (by decide)⟩, ⟨⟨rfl, clear_of rfl (by decide)⟩, by decide⟩, ⟨rfl, clear_of rfl (by decide)⟩, by decide⟩
theorem witness_FloatArithmetic : Good bare .ffma .l96 (forms 7 0 0 1 2 3 4) := ⟨rfl, clear_of rfl (by decide)⟩
theorem witness_ElementaryFunctions :
    (Good bare .fsin .l64 (forms 0 0 0 1 2 0 0) ∧ ¬ ((bare.issued gang .fsin .l64 (forms 0 0 0 1 2 0 0)).W.detlvl = 3)) ∧
    let s := withWarp (fun W => { W with detlvl := 3 })
    Good s .fsin .l64 (forms 0 0 0 1 2 0 0) ∧ (s.issued gang .fsin .l64 (forms 0 0 0 1 2 0 0)).mod = 0 ∧
      (s.issued gang .fsin .l64 (forms 0 0 0 1 2 0 0)).W.detlvl = 3 :=
  ⟨⟨⟨rfl, clear_of rfl (by decide)⟩, by decide⟩, ⟨rfl, clear_of rfl (by decide)⟩, by decide, by decide⟩
theorem witness_Conversions : Good bare .cvtf .l64 (forms 0x18 0 0 1 2 0 0) ∧
    (bare.issued gang .cvtf .l64 (forms 0x18 0 0 1 2 0 0)).mod / 4 % 4 ≤ 2 ∧ (bare.issued gang .cvtf .l64 (forms 0x18 0 0 1 2 0 0)).mod / 16 ≤ 2 :=
  ⟨⟨rfl, clear_of rfl (by decide)⟩, by decide, by decide⟩
/-- R49: 0x7E is the largest number of E4M3, 448; R61: a tie goes to the even code, a sum beyond the largest finite value overflows. -/
theorem witness_ExactArithmetic : Fmt.e4m3.decode 0x7E = .fin false 14 5 ∧ ((Fmt.e4m3, 4, 3, 7, false) : Fmt × Nat × Nat × Nat × Bool) ∈
      [(Fmt.fp32, 8, 23, 127, true), (.e4m3, 4, 3, 7, false)] ∧ (0x7E : Nat) < 2 ^ (4 + 3 + 1) ∧
    ((Fmt.fp16.round .rne false (.fin false (2 ^ 11 + 1) 0)).1 = 0x6800 ∧ (Fmt.fp16.round .rne false (.fin false (2 ^ 11 + 1) 0)).2.of = false) ∧
    (Fmt.fp16.round .rne false (.fin true 1 16)).2.of = true ∧ (Fmt.fp16.round .rne false (.fin true 1 16)).1 = 0xFC00 := by decide
theorem witness_DotProducts : Good bare .fdot4 .l96 (forms 11 0 0 1 2 3 4) ∧
    (let ps : List (FVal × FVal) := [(.inf false, .fin true 1 0), (.fin false 1 0, .fin false 1 0)]
     (∀ p ∈ ps, ¬ ((p.1.isInf = true ∧ p.2.isZero = true) ∨ (p.1.isZero = true ∧ p.2.isInf = true))) ∧
     (ps.filter (fun p => p.1.isInf || p.2.isInf)).map (fun p => p.1.isNeg != p.2.isNeg) = [true]) :=
  ⟨⟨rfl, clear_of rfl (by decide)⟩, by decide⟩
theorem witness_Quantisation : Good bare .qnt .l96 (forms 11 0 0 1 2 4 0) ∧ Good bare .mxscale .l64 (forms 8 0 0 1 2 0 0) :=
  ⟨⟨rfl, clear_of rfl (by decide)⟩, ⟨rfl, clear_of rfl (by decide)⟩⟩

theorem witness_ComputedRegisters :
    (let c := bare.issued gang .movx .l64 (regs 1 2 0 0)
     Good bare .movx .l64 (regs 1 2 0 0) ∧ ∀ i ∈ c.lanes, (c.a i).toNat < c.W.bound ∧ (c.a i).toNat ∉ c.s.pendingRegs c.k ∧
       mfind c.W.poison ((c.a i).toNat * 64 + i) = none) ∧
    let s := withWarp (put 2 7 256)
    let c := s.issued gang .movxw .l64 (regs 0 2 3 0)
    Good s .movxw .l64 (regs 0 2 3 0) ∧ (∀ j ∈ c.lanes, (c.a j).toNat ∉ c.s.pendingRegs c.k) ∧
      c.lanes.find? (fun j => c.W.bound ≤ (c.a j).toNat) = some 7 :=
  ⟨⟨⟨rfl, clear_of rfl (by decide)⟩, by decide⟩, ⟨rfl, clear_of rfl (by decide)⟩, by decide, by decide⟩

/-! ### Lanes and control -/

theorem witness_LaneMoves : Meets bare .shfl .l96 (forms 3 0 0 1 2 3 4) (fun c =>
      ∀ i ∈ c.lanes, mfind c.W.poison (c.w.a.reg.toNat * 64 + i) = none) ∧
    (Good bare .vote .l64 (forms 5 0 0 1 2 0 0) ∧ 1 ≤ (bare.issued gang .vote .l64 (forms 5 0 0 1 2 0 0)).mod ∧
      (bare.issued gang .vote .l64 (forms 5 0 0 1 2 0 0)).mod ≤ 5) ∧
    (Good bare .vote .l64 (forms 0 0 0 2 2 0 0) ∧ (bare.issued gang .vote .l64 (forms 0 0 0 2 2 0 0)).mod = 0) ∧
    (Good bare .matchL .l64 (forms 1 0 0 2 2 0 0) ∧ (bare.issued gang .matchL .l64 (forms 1 0 0 2 2 0 0)).mod = 1) ∧
    (Good bare .matchL .l64 (forms 2 0 0 2 2 0 0) ∧ (bare.issued gang .matchL .l64 (forms 2 0 0 2 2 0 0)).mod = 2) :=
  ⟨⟨⟨rfl, clear_of rfl (by decide)⟩, by decide⟩, ⟨⟨rfl, clear_of rfl (by decide)⟩, by decide, by decide⟩, ⟨⟨rfl, clear_of rfl (by decide)⟩, by decide⟩,
   ⟨⟨rfl, clear_of rfl (by decide)⟩, by decide⟩, ⟨⟨rfl, clear_of rfl (by decide)⟩, by decide⟩⟩

theorem witness_LaneTrees : Meets bare .cmpx .l96 (forms 6 0 0 1 2 3 0) (fun c =>
      ∀ i ∈ c.lanes, mfind c.W.poison (c.w.a.reg.toNat * 64 + (i ^^^ ((c.b i).toNat % c.W.width))) = none) ∧
    (Good bare .wred .l64 (forms 3 0 0 1 2 0 0) ∧ (bare.issued gang .wred .l64 (forms 3 0 0 1 2 0 0)).W.width ∈ [8, 16, 32, 64] ∧
      (bare.issued gang .wred .l64 (forms 3 0 0 1 2 0 0)).mod = 3) ∧
    (Good bare .wscan .l64 (forms 11 0 0 1 2 0 0) ∧ (bare.issued gang .wscan .l64 (forms 11 0 0 1 2 0 0)).mod = 11) :=
  ⟨⟨⟨rfl, clear_of rfl (by decide)⟩, by decide⟩, ⟨⟨rfl, clear_of rfl (by decide)⟩, by decide, by decide⟩, ⟨⟨rfl, clear_of rfl (by decide)⟩, by decide⟩⟩

theorem witness_Branches :
    (let c := bare.issued gang .bra .l128 (forms 0 0 0x20 0 0 0 0)
     Good bare .bra .l128 (forms 0 0 0x20 0 0 0 0) ∧ ∀ i l, c.Takes i l → (c.pc + c.w.imm.signExtend 64).extractLsb' 0 2 = 0) ∧
    (let c := bare.issued gang .ret .l64 (regs 0 2 0 0)
     Good bare .ret .l64 (regs 0 2 0 0) ∧ (∀ l < 32, (c.a64 l &&& 0xFFFFFFFFFFFF).extractLsb' 0 2 = 0) ∧ c.W.twinOf = none) ∧
    (let c := bare.issued gang .call .l128 (forms 0 0 0x20 2 0 0 0)
     Good bare .call .l128 (forms 0 0 0x20 2 0 0 0) ∧ c.W.width ≤ 64) ∧
    let s := withWarp (fun W => { W with alloc := 2 ^ 30 })
    let c := s.issued gang .fcall .l128 (forms 0 0 0x20 2 8 0 0)
    Good s .fcall .l128 (forms 0 0 0x20 2 8 0 0) ∧ c.s.canFork c.W = false ∧ c.lanes.filter c.W.txLive = [] ∧ c.W.width ≤ 64 :=
  ⟨⟨⟨rfl, clear_of rfl (by decide)⟩, fun _ _ _ => by decide⟩, ⟨⟨rfl, clear_of rfl (by decide)⟩, by decide, by decide⟩,
   ⟨⟨rfl, clear_of rfl (by decide)⟩, by decide⟩, ⟨rfl, clear_of rfl (by decide)⟩, by decide, by decide, by decide⟩

theorem witness_StructuredControl :
    Meets bare .if_ .l128 (forms 0 0 0x20 0 2 0 0) (fun c => ∀ i ∈ c.gangLanes,
      (if c.W.count i = 0 then (if c.a i = 0 then 1 else 0) else c.W.count i + 1) ≤ 15) ∧
    Meets (withWarp lone) .else_ .l128 (forms 0 0 0x20 0 0 0 0) always ∧ Meets bare .endif .l64 (regs 0 0 0 0) always ∧
    Meets (withWarp lone) .loop .l64 (regs 0 0 0 0) (fun c => ∀ i ∈ c.gangLanes, (if c.W.count i = 0 then 0 else c.W.count i + 2) ≤ 15) ∧
    Meets bare .break_ .l128 (forms 0 13 0x20 0 2 0 0) (fun c => c.w.ext.extractLsb' 0 4 ≤ 13 ∧ ∀ i ∈ c.gangLanes, c.W.count i ≤ 15) ∧
    Meets bare .cont_ .l128 (forms 0 0 0x20 0 2 0 0) (fun c => c.w.ext.extractLsb' 0 4 ≤ 13 ∧ ∀ i ∈ c.gangLanes, c.W.count i ≤ 15) ∧
    Meets bare .endloop .l128 (forms 0 0 0x20 0 0 0 0) (fun c => ∃ i ∈ c.gangLanes, c.W.count i ≤ 1) ∧
    Meets (withWarp (fun W => { W with cnt := (List.range 32).map (fun i => (i, 2)) })) .endloop .l128 (forms 0 0 0x20 0 0 0 0)
      (fun c => ∀ i ∈ c.gangLanes, 1 < c.W.count i) :=
  ⟨⟨⟨rfl, clear_of rfl (by decide)⟩, by decide⟩, ⟨⟨rfl, clear_of rfl (by decide)⟩, trivial⟩, ⟨⟨rfl, clear_of rfl (by decide)⟩, trivial⟩,
   ⟨⟨rfl, clear_of rfl (by decide)⟩, by decide⟩, ⟨⟨rfl, clear_of rfl (by decide)⟩, by decide⟩, ⟨⟨rfl, clear_of rfl (by decide)⟩, by decide⟩,
   ⟨⟨rfl, clear_of rfl (by decide)⟩, by decide⟩, ⟨⟨rfl, clear_of rfl (by decide)⟩, by decide⟩⟩

/-- A warp whose slices wait for other slices at REGANG, and have been woken. -/
def woken : State := withWarp (fun W => W.onSlices 0xFF (fun x => { x with wait := some (.regang 0x10000 0xFF), woken := true }))

theorem witness_HintsAndExits :
    Meets bare .nop .l64 (regs 0 0 0 0) always ∧ Meets bare .yield .l64 (regs 0 0 0 0) always ∧
    Meets bare .ivl .l128 (forms 0 0 0x08 0 0x10 0 0) always ∧
    Meets bare .fsync .l64 (regs 0 0 0 0) (fun c => c.fork? = none ∧ c.lanes.filter c.W.txLive = []) ∧
    Meets woken .regang .l64 (regs 0 2 0 0) (fun c => c.fork? = none ∧ ∃ a m, c.wake = some (.regang a m)) ∧
    Meets bare .regang .l64 (regs 0 2 0 0) (fun c => c.fork? = none ∧ c.wake = none ∧ c.lanes ≠ []) ∧
    Meets bare .exit_ .l64 (regs 0 0 0 0) (fun c => c.fork? = none ∧ c.W.twinOf = none ∧ c.W.tx = none ∧ c.W.held = [] ∧
      ∀ i < 16, i < c.W.slices.length → (c.W.slice i).exited = true ∨ ∃ l, c.Takes i l) ∧
    Meets bare .exit_ .l64 { regs 0 0 0 0 with gr := 5, ge := true } (fun c => c.fork? = none ∧ c.W.twinOf = none ∧ c.W.tx = none ∧
      (∀ i l, ¬ c.Takes i l) ∧ ∃ i ∈ maskSlices c.m, i < c.W.slices.length ∧ (c.W.slice i).exited = false) :=
  ⟨⟨⟨rfl, clear_of rfl (by decide)⟩, trivial⟩, ⟨⟨rfl, clear_of rfl (by decide)⟩, trivial⟩, ⟨⟨rfl, clear_of rfl (by decide)⟩, trivial⟩,
   ⟨⟨rfl, clear_of rfl (by decide)⟩, by decide, by decide⟩, ⟨⟨rfl, clear_of rfl (by decide)⟩, by decide, _, _, rfl⟩,
   ⟨⟨rfl, clear_of rfl (by decide)⟩, by decide, by decide, by decide⟩,
   ⟨⟨rfl, clear_of rfl (by decide)⟩, by decide, by decide, by decide, by decide, fun i _ h => .inr ⟨4 * i, by
      have : i < 8 := h
      interval_cases i <;> exact ⟨by decide, by decide, by decide⟩⟩⟩,
   ⟨⟨rfl, clear_of rfl (by decide)⟩, by decide, by decide, by decide, fun i l h => absurd h.2.2 (by intro e; nomatch e), 0, by decide, by decide, by decide⟩⟩

theorem witness_ForkableCall :
    Meets bare .fcall .l128 (forms 0 0 0x20 2 8 0 0) (fun c => c.w.ge = false ∧ c.s.canFork c.W = true ∧ c.s.pendingRegs c.k = [] ∧
      c.s.nextId ≠ c.k ∧ c.W.width ≤ 64 ∧ c.lanes.filter c.W.txLive = [] ∧ (c.pc + c.w.imm.signExtend 64).extractLsb' 0 2 = 0 ∧
      ∃ i l, c.Takes i l) :=
  ⟨⟨rfl, clear_of rfl (by decide)⟩, by decide, by decide, by decide, by decide, by decide, by decide, by decide, 0, 0, by decide, by decide, by decide⟩

/-- A block of two warps whose barrier 2 is in a phase; register 2 is 2 and register 3 is 1. -/
def inPhase (x : Barrier) : State :=
  (withWarp (fun W => (List.range 32).foldl (fun W i => put 3 i 1 (put 2 i 2 W)) W)).modBlock 2 (fun B => { B with nwarps := 2, bars := [(2, x)] })

theorem witness_ControlFaults :
    (let imm (c : Ctx) (_ : Nat) : DWord := c.pc + c.w.imm.signExtend 64
     let reg (c : Ctx) (l : Nat) : DWord := c.a64 l &&& 0xFFFFFFFFFFFF
     let bad (target : Ctx → Nat → DWord) (c : Ctx) : Prop :=
       ∀ i ∈ maskSlices c.m, ∃ l, c.Takes i l ∧ (target c l).extractLsb' 0 2 ≠ 0
     Meets bare .bra .l128 (forms 0 0 0x22 0 0 0 0) (bad imm) ∧
     Meets (inPhase {}) .brx .l64 (regs 0 2 0 0) (bad reg) ∧
     Meets bare .call .l128 (forms 0 0 0x21 2 0 0 0) (bad imm)) ∧
    (let first (c : Ctx) (new : Nat → Nat → Nat) (j : Nat) : Option Nat :=
       c.gangLanes.find? (fun i => i / 4 == j && decide (15 < new i (c.W.count i)))
     let bad (new : Ctx → Nat → Nat → Nat) (c : Ctx) : Prop := ∀ j ∈ maskSlices c.m, (first c (new c) j).isSome = true
     let deep (W : Warp) : Warp := { W with cnt := (List.range 8).map (fun j => (4 * j + 1, 15)) }
     Meets (withWarp deep) .if_ .l128 (forms 0 0 0x20 0 2 0 0)
       (bad (fun c i n => if n = 0 then (if c.a i = 0 then 1 else 0) else n + 1)) ∧
     Meets (withWarp deep) .loop .l64 (regs 0 0 0 0) (bad (fun _ _ n => if n = 0 then 0 else n + 2))) ∧
    (let n (c : Ctx) : Nat := (c.a c.lead).toNat
     let count (c : Ctx) : Nat := (c.b c.lead).toNat
     let warps (c : Ctx) : Nat := ((c.s.block? c.W.block).map (·.nwarps)).getD 0
     let x (c : Ctx) : Barrier := c.s.barNow c.W.block (n c)
     let here (c : Ctx) : Prop := c.fork? = none ∧ c.lanes ≠ [] ∧ c.lanes.filter c.W.txLive = [] ∧ c.wake = none
     let sound (c : Ctx) : Prop := here c ∧ n c ≤ 15 ∧ 1 ≤ count c ∧ count c ≤ warps c
     let s16 := withWarp (fun W => (List.range 32).foldl (fun W i => put 2 i 16 W) W)
     Meets s16 .bar .l64 (regs 0 2 0 0) (fun c => here c ∧ 15 < n c) ∧
     Meets s16 .bara .l64 (regs 0 2 3 0) (fun c => here c ∧ 15 < n c) ∧
     Meets (inPhase {}) .bara .l64 (regs 0 2 4 0) (fun c => here c ∧ n c ≤ 15 ∧ (count c = 0 ∨ warps c < count c)) ∧
     Meets (inPhase {}) .barw .l64 (regs 0 2 4 0) (fun c => here c ∧ n c ≤ 15 ∧ (count c = 0 ∨ warps c < count c)) ∧
     Meets (inPhase { used := true, expect := 2 }) .bara .l64 (regs 0 2 3 0)
       (fun c => sound c ∧ (x c).used = true ∧ (x c).expect ≠ 0 ∧ (x c).expect ≠ count c) ∧
     Meets (inPhase { used := true }) .barw .l64 (regs 0 2 3 0) (fun c => sound c ∧ (x c).used = true ∧ (x c).expect = 0) ∧
     Meets (inPhase { used := true, expect := 2 }) .bar .l64 (regs 0 2 0 0)
       (fun c => here c ∧ n c ≤ 15 ∧ (x c).used = true ∧ (x c).expect ≠ 0)) := by
  have each (p : Nat → Nat → Prop) (h : ∀ i ∈ maskSlices (0xFF : BitVec 16), p i (4 * i)) :
      ∀ i ∈ maskSlices (0xFF : BitVec 16), ∃ l, p i l := fun i hi => ⟨_, h i hi⟩
  refine ⟨⟨⟨⟨rfl, clear_of rfl (by decide)⟩, each _ (by unfold Ctx.Takes; decide)⟩, ⟨⟨rfl, clear_of rfl (by decide)⟩, each _ (by unfold Ctx.Takes; decide)⟩,
    ⟨⟨rfl, clear_of rfl (by decide)⟩, each _ (by unfold Ctx.Takes; decide)⟩⟩,
   ⟨⟨⟨rfl, clear_of rfl (by decide)⟩, by decide⟩, ⟨⟨rfl, clear_of rfl (by decide)⟩, by decide⟩⟩,
   ⟨⟨rfl, clear_of rfl (by decide)⟩, by decide⟩, ⟨⟨rfl, clear_of rfl (by decide)⟩, by decide⟩, ⟨⟨rfl, clear_of rfl (by decide)⟩, by decide⟩,
   ⟨⟨rfl, clear_of rfl (by decide)⟩, by decide⟩, ⟨⟨rfl, clear_of rfl (by decide)⟩, by decide⟩, ⟨⟨rfl, clear_of rfl (by decide)⟩, by decide⟩,
   ⟨⟨rfl, clear_of rfl (by decide)⟩, by decide⟩⟩

/-! ### Memory and ordering -/

theorem witness_Loads :
    (let bytes (c : Ctx) : Nat := [1, 2, 4, 8, 16, 1, 2].getD (c.mod % 8) 16
     let addr (c : Ctx) (i : Nat) : DWord := c.a64 i + (c.b i).signExtend 64
     let arg (c : Ctx) (i : Nat) : DWord := c.W.args + BitVec.ofNat 64 (c.a i + c.b i).toNat
     let spad (c : Ctx) (i : Nat) : Nat := (c.a i + c.b i).toNat
     let ready (c : Ctx) : Prop := c.Plain ∧ c.lanes ≠ [] ∧ c.W.counter 0 < 255
     Meets bare .ld .l96 (forms 4 0 0 4 2 3 0) (fun c => ready c ∧ c.Reach (addr c) (bytes c) false) ∧
     Meets bare .ldc .l96 (forms 2 0 0 4 2 3 0) (fun c => ready c ∧ c.Reach (arg c) (bytes c) false ∧ ∀ i ∈ c.lanes, spad c i + bytes c ≤ 65536) ∧
     Meets bare .lds .l96 (forms 6 0 0 4 2 3 0) (fun c => ready c ∧ ∀ i ∈ c.lanes, spad c i % bytes c = 0 ∧
       spad c i + bytes c ≤ c.s.spadSize c.W.block ∧ c.s.spadBad c.W.block (spad c i) (bytes c) = false)) ∧
    (let place (c : Ctx) (i : Nat) : Nat × Bool :=
       let k := (c.b i).toNat
       let p := 16 * (k % 128 % 8) + k % 128 / 8
       if c.mod = 0 then (64 * (k / 128) + p / 2, p % 2 == 1) else (k / 2, k % 2 == 1)
     let elem (c : Ctx) (i : Nat) : DWord := c.a64 i + BitVec.ofNat 64 (place c i).1
     let ok (c : Ctx) : Prop := (c.Plain ∧ c.lanes ≠ [] ∧ c.W.counter 0 < 255) ∧ c.Reach (elem c) 1 false ∧
       (c.mod = 0 → ∀ i ∈ c.lanes, (c.a64 i).toNat % 64 = 0)
     Meets bare .lde .l96 (forms 0 0 0 4 2 3 0) ok ∧ Meets bare .lde .l96 (forms 1 0 0 4 2 3 0) ok) ∧
    Meets bare .pref .l64 (forms 1 0 0 0 2 0 0) (fun c => (c.Plain ∧ c.lanes ≠ [] ∧ c.W.counter 0 < 255) ∧ c.mod ≤ 1 ∧
      c.Reach c.a64 1 false ∧ (c.W.mode = .user → ∀ i ∈ c.lanes, c.s.look c.W.queue (c.a64 i).toNat = c.s.cached c.W.core c.W.queue (c.a64 i).toNat)) :=
  ⟨⟨⟨⟨rfl, clear_of rfl (by decide)⟩, ⟨plain_of (by decide), by decide, by decide⟩, reach_of (by decide)⟩, ⟨⟨rfl, clear_of rfl (by decide)⟩, ⟨plain_of (by decide), by decide, by decide⟩, reach_of (by decide), by decide⟩, ⟨⟨rfl, clear_of rfl (by decide)⟩, ⟨plain_of (by decide), by decide, by decide⟩, by decide⟩⟩,
   ⟨⟨⟨rfl, clear_of rfl (by decide)⟩, ⟨plain_of (by decide), by decide, by decide⟩, reach_of (by decide), by decide⟩, ⟨⟨rfl, clear_of rfl (by decide)⟩, ⟨plain_of (by decide), by decide, by decide⟩, reach_of (by decide), by decide⟩⟩,
   ⟨⟨rfl, clear_of rfl (by decide)⟩, ⟨plain_of (by decide), by decide, by decide⟩, by decide, reach_of (by decide), fun _ => by decide⟩⟩

theorem witness_Stores :
    (let bytes (c : Ctx) : Nat := [1, 2, 4, 8, 16].getD (c.mod % 8) 16
     let addr (c : Ctx) (i : Nat) : DWord := c.a64 i + (c.b i).signExtend 64
     let place (c : Ctx) (i : Nat) : Nat × Bool :=
       let k := (c.b i).toNat
       let p := 16 * (k % 128 % 8) + k % 128 / 8
       if c.mod = 0 then (64 * (k / 128) + p / 2, p % 2 == 1) else (k / 2, k % 2 == 1)
     let elem (c : Ctx) (i : Nat) : DWord := c.a64 i + BitVec.ofNat 64 (place c i).1
     let line (c : Ctx) (i : Nat) : DWord := c.a64 i &&& ~~~(127 : DWord)
     let ready (c : Ctx) : Prop := c.Plain ∧ c.lanes ≠ [] ∧ c.W.counter 1 < 255
     Meets bare .st .l96 (forms 4 0 0 4 2 3 0) (fun c => ready c ∧ c.mod ≤ 4 ∧ c.Reach (addr c) (bytes c) true) ∧
     Meets bare .ste .l96 (forms 1 0 0 4 2 3 0) (fun c => ready c ∧ c.Reach (elem c) 1 true ∧ (c.mod = 0 → ∀ i ∈ c.lanes, (c.a64 i).toNat % 64 = 0)) ∧
     Meets bare .discard .l64 (regs 0 2 0 0) (fun c => ready c ∧ c.Reach (line c) 1 true ∧ c.Reach c.a64 1 true)) ∧
    let word (c : Ctx) : Nat := if c.w.mod.getLsbD 4 then 8 else 4
    let ready (c : Ctx) : Prop := c.Plain ∧ c.lanes ≠ [] ∧ c.W.counter 1 < 255
    Meets bare .amo .l96 (forms 25 0 0 4 2 6 8) (fun c => c.Plain ∧ c.lanes ≠ [] ∧ c.Reach c.a64 (word c) true ∧ c.NoView c.a64) ∧
    Meets bare .red .l96 (forms 0 0 0 0 2 6 0) (fun c => ready c ∧ c.Reach c.a64 (word c) true ∧ c.NoView c.a64) :=
  ⟨⟨⟨⟨rfl, clear_of rfl (by decide)⟩, ⟨plain_of (by decide), by decide, by decide⟩, by decide, reach_of (by decide)⟩, ⟨⟨rfl, clear_of rfl (by decide)⟩, ⟨plain_of (by decide), by decide, by decide⟩, reach_of (by decide), by decide⟩, ⟨⟨rfl, clear_of rfl (by decide)⟩, ⟨plain_of (by decide), by decide, by decide⟩, reach_of (by decide), reach_of (by decide)⟩⟩,
   ⟨⟨rfl, clear_of rfl (by decide)⟩, plain_of (by decide), by decide, reach_of (by decide), by unfold Ctx.NoView; decide⟩, ⟨⟨rfl, clear_of rfl (by decide)⟩, ⟨plain_of (by decide), by decide, by decide⟩, reach_of (by decide), by unfold Ctx.NoView; decide⟩⟩

theorem witness_Scratchpad :
    (let bytes (c : Ctx) : Nat := [1, 2, 4, 8, 16].getD (c.mod % 8) 16
     let addr (c : Ctx) (i : Nat) : Nat := (c.a i + c.b i).toNat
     Meets bare .sts .l96 (forms 4 0 0 4 2 3 0) (fun c => c.Plain ∧ c.lanes ≠ [] ∧ c.W.counter 1 < 255 ∧ c.mod ≤ 4 ∧ (c.s.warp c.k).killed = false ∧
       ∀ i ∈ c.lanes, addr c i % bytes c = 0 ∧ addr c i + bytes c ≤ c.s.spadSize c.W.block)) ∧
    let word (c : Ctx) : Nat := if c.w.mod.getLsbD 4 then 8 else 4
    Meets bare .amos .l96 (forms 10 0 0 4 2 6 0) (fun c => c.Plain ∧ c.lanes ≠ [] ∧
      (∀ i ∈ c.lanes, (c.a i).toNat % word c = 0 ∧ (c.a i).toNat + word c ≤ c.s.spadSize c.W.block) ∧
      ∀ i ∈ c.lanes, c.s.spadBad c.W.block (c.a i).toNat (word c) = false) :=
  ⟨⟨⟨rfl, clear_of rfl (by decide)⟩, plain_of (by decide), by decide, by decide, by decide, by decide, by decide⟩, ⟨⟨rfl, clear_of rfl (by decide)⟩, plain_of (by decide), by decide, by decide, by decide⟩⟩

theorem witness_ValueTables : ¬ (10 ≤ 9 ∧ 9 ≤ 12) ∧
    let r : TapRule := { op := 2, feature := 5, value := 0x3F800000 }
    (([(3, 1), (5, 0x40000000)] : List (Nat × Word)).find? (fun x => x.1 == r.feature)) = some (r.feature, 0x40000000) := by decide

/-- A warp that waits at barrier 2, which register 2 names. -/
def atBarrier : State :=
  (inPhase {}).modWarp 1 (fun W => W.onSlices 0xFF (fun x => { x with wait := some (.barrier 2), woken := true }))

theorem witness_Barriers :
    (let n (c : Ctx) : Nat := (c.a c.lead).toNat
     let count (c : Ctx) : Nat := (c.b c.lead).toNat
     let now (c : Ctx) : Barrier := c.s.barNow c.W.block (n c)
     let free (c : Ctx) : Prop := c.Plain ∧ c.lanes ≠ [] ∧ c.wake = none ∧ c.s.released c.k c.s.nextId 1 = true ∧ n c ≤ 15 ∧
       (∀ h ∈ (now c).here, h.1 ≠ c.k) ∧ c.W.alive ≠ 0 ∧ c.W.alive &&& ~~~c.m = 0 ∧ (c.s.block? c.W.block).isSome = true
     let counted (c : Ctx) : Prop := 1 ≤ count c ∧ count c ≤ ((c.s.block? c.W.block).map (·.nwarps)).getD 0 ∧
       ((now c).used = true → (now c).expect = count c)
     let past (c : Ctx) : Prop := c.Plain ∧ c.lanes ≠ [] ∧ c.wake = some (.barrier (n c)) ∧ c.s.readsOut c.k c.s.nextId = false
     Meets bare .bar .l64 (regs 4 2 0 0) (fun c => free c ∧ c.s.abandoned c.W.block = false ∧ ((now c).used = true → (now c).expect = 0)) ∧
     Meets (inPhase { used := true, expect := 1 }) .bara .l64 (regs 0 2 3 0) (fun c => free c ∧ counted c) ∧
     Meets (inPhase {}) .barw .l64 (regs 4 2 3 0) (fun c => free c ∧ counted c ∧ c.s.abandoned c.W.block = false) ∧
     Meets atBarrier .bar .l64 (regs 4 2 0 0) past ∧ Meets atBarrier .barw .l64 (regs 4 2 3 0) past) ∧
    (let a (c : Ctx) : Nat := (c.a c.lead).toNat
     let word (s : State) (c : Ctx) : DWord := BitVec.ofNat 64 (leNat (s.spadRead c.W.block (a c) 8))
     let ok (c : Ctx) : Prop := c.Plain ∧ c.lanes ≠ [] ∧ c.wake = none ∧ a c % 8 = 0 ∧ a c + 8 ≤ c.s.spadSize c.W.block ∧
       c.s.spadBad c.W.block (a c) 8 = false
     let one := withWarp (put 3 0 1)
     Meets one .pba .l64 (regs 0 2 3 0) (fun c => ok c ∧ c.s.released c.k c.s.nextId 1 = true) ∧
     Meets one .pbw .l64 (regs 0 2 3 0) (fun c => ok c ∧ c.s.readsOut c.k c.s.nextId = false ∧ (word c.s c).getLsbD 32 ≠ (c.b c.lead).getLsbD 0) ∧
     Meets bare .pbw .l64 (regs 0 2 3 0) (fun c => ok c ∧ c.s.abandoned c.W.block = false ∧ (word c.s c).getLsbD 32 = (c.b c.lead).getLsbD 0)) ∧
    (let O : SpadOrder := { tick := 3, seen := [(2, [(1, 3)])] }
     1 ≠ 2 ∧ mget [] O.before 8 = [] ∧ mget 0 (mget [] O.seen 2) 1 ≤ O.tick) ∧
    (let s := bare.modBlock 2 (fun B => { B with order := { before := [(8, [(9, 0, 7)])] } })
     mfind s.kept 5 = none ∧ ∃ B, mfind s.blocks (s.warp 1).block = some B ∧ msorted B.order.before = true ∧
       B.order.hidden (s.rootOf 4 1) (mget [] B.order.before 8) = some 7) :=
  ⟨⟨⟨⟨rfl, clear_of rfl (by decide)⟩, ⟨plain_of (by decide), by decide, by decide, by decide, by decide, by decide, by decide, by decide, by decide⟩, by decide, by decide⟩, ⟨⟨rfl, clear_of rfl (by decide)⟩, ⟨plain_of (by decide), by decide, by decide, by decide, by decide, by decide, by decide, by decide, by decide⟩, by decide⟩,
    ⟨⟨rfl, clear_of rfl (by decide)⟩, ⟨plain_of (by decide), by decide, by decide, by decide, by decide, by decide, by decide, by decide, by decide⟩, by decide, by decide⟩, ⟨⟨rfl, clear_of rfl (by decide)⟩, plain_of (by decide), by decide, by decide, by decide⟩, ⟨⟨rfl, clear_of rfl (by decide)⟩, plain_of (by decide), by decide, by decide, by decide⟩⟩,
   ⟨⟨⟨rfl, clear_of rfl (by decide)⟩, ⟨plain_of (by decide), by decide, by decide, by decide, by decide, by decide⟩, by decide⟩, ⟨⟨rfl, clear_of rfl (by decide)⟩, ⟨plain_of (by decide), by decide, by decide, by decide, by decide, by decide⟩, by decide, by decide⟩, ⟨⟨rfl, clear_of rfl (by decide)⟩, ⟨plain_of (by decide), by decide, by decide, by decide, by decide, by decide⟩, by decide, by decide⟩⟩, by decide, by decide, _, rfl, by decide, by decide⟩

/-- R163: a write of another warp is kept from an operation until that warp has released it and a barrier has let this one go on. -/
theorem test_unordered_write :
    let s : State := ({ bare with warps := minsert bare.warps 7 (bare.warp 1) } : State).modBlock 2 (fun B => { B with warps := [1, 7] })
    let t := s.spadWrite 7 2 8 [5]
    (t.hideUnseen 1 9).kept = [(9, [], [(8, 0)])] ∧ (t.hideUnseen 7 9).kept = [] ∧
      (((t.releaseSpad 7).acquireSpad 2 [1]).hideUnseen 1 9).kept = [] := by decide

/-- A warp whose store has not been acknowledged. -/
def storing : State := withWarp (fun W => { W with outs := [(1, 0, false)] })

theorem witness_FencesAndWaits :
    (let scope (c : Ctx) : Nat := (c.w.mod.extractLsb' 2 3).toNat
     let rel (c : Ctx) : Bool := c.w.mod.getLsbD 1
     let acq (c : Ctx) : Bool := c.w.mod.getLsbD 0
     let here (c : Ctx) : Prop := c.Plain ∧ c.lanes ≠ [] ∧ c.wake = none
     let come (c : Ctx) : Prop :=
       (rel c = true → c.s.storesOut c.k c.s.nextId = false ∧
         (scope c = 3 → c.W.gwctd.toNat ≤ (c.s.dieTime (c.W.core / 192)).toNat) ∧
         (4 ≤ scope c → c.W.gwct.toNat ≤ (c.s.dieTime (c.W.core / 192)).toNat)) ∧
       (acq c = true → c.s.readsOut c.k c.s.nextId = false)
     let n (c : Ctx) : Nat := (c.w.a.bits.extractLsb' 0 8).toNat
     let noFault (c : Ctx) : Prop := (c.W.held.find? (fun r => r.slice == c.mod && r.whole)) = none ∧
       (c.mod = 3 → (c.s.core (c.s.mxCore c.W)).mx.err = none)
     Meets bare .fence .l64 (forms 0x13 0 0 0 0 0 0) (fun c => here c ∧ come c) ∧
     Meets (withWarp (fun W => { W with gwct := 10 ^ 9 })) .fence .l64 (forms 0x12 0 0 0 0 0 0) (fun c => here c ∧ ¬ come c) ∧
     Meets storing .waitc .l64 (forms 1 0 0 0 1 0 0) (fun c => here c ∧ c.mod ≤ 6 ∧ noFault c ∧
       (c.W.counter c.mod ≤ n c ∨ [255, 255, 63, 15, 63, 15, 15].getD c.mod 15 ≤ n c)) ∧
     Meets storing .waitc .l64 (forms 1 0 0 0 0 0 0) (fun c => here c ∧ c.mod ≤ 6 ∧ noFault c ∧ n c < c.W.counter c.mod ∧
       n c < [255, 255, 63, 15, 63, 15, 15].getD c.mod 15)) ∧
    (let home (s : State) (c : Ctx) (i : Nat) : Word :=
       BitVec.ofNat 32 (leNat (s.bytesAt ((c.tr (c.a64 i)).phys (c.a64 i).toNat) 4))
     let sound (c : Ctx) : Prop := c.Plain ∧ c.W.detlvl = 0 ∧ c.lanes ≠ [] ∧ c.Reach c.a64 4 false ∧ c.NoView c.a64 ∧
       (∀ i ∈ c.lanes, c.s.poisonedAt ((c.tr (c.a64 i)).phys (c.a64 i).toNat) 4 = false) ∧
       c.s.onWay c.k (c.lanes.map (fun i => ((c.tr (c.a64 i)).phys (c.a64 i).toNat, 4))) = false
     Meets (withWarp (put 6 3 1)) .trywait .l96 (regs 4 2 6 8) (fun c => sound c ∧ ((∃ l u n d p, c.wake = some (.words l u n d p)) ∨
       (c.wake = none ∧ ∃ i ∈ c.lanes, home c.s c i ≠ c.b i))) ∧
     Meets bare .trywait .l96 (regs 4 2 6 8) (fun c => sound c ∧ c.wake = none ∧ ∀ i ∈ c.lanes, home c.s c i = c.b i)) :=
  ⟨⟨⟨⟨rfl, clear_of rfl (by decide)⟩, ⟨plain_of (by decide), by decide, by decide⟩, by decide⟩, ⟨⟨rfl, clear_of rfl (by decide)⟩, ⟨plain_of (by decide), by decide, by decide⟩, by decide⟩, ⟨⟨rfl, clear_of rfl (by decide)⟩, ⟨plain_of (by decide), by decide, by decide⟩, by decide, by decide, by decide⟩, ⟨⟨rfl, clear_of rfl (by decide)⟩, ⟨plain_of (by decide), by decide, by decide⟩, by decide, by decide, by decide, by decide⟩⟩,
   ⟨⟨⟨rfl, clear_of rfl (by decide)⟩, ⟨plain_of (by decide), by decide, by decide, reach_of (by decide), by unfold Ctx.NoView; decide, by decide, by decide⟩, .inr ⟨by decide, by decide⟩⟩, ⟨⟨rfl, clear_of rfl (by decide)⟩, ⟨plain_of (by decide), by decide, by decide, reach_of (by decide), by unfold Ctx.NoView; decide, by decide, by decide⟩, by decide, by decide⟩⟩⟩

theorem witness_GracePeriods :
    (let here (c : Ctx) : Prop := c.Plain ∧ c.lanes ≠ [] ∧ c.wake = none ∧ c.s.readsOut c.k c.s.nextId = false
     let g (c : Ctx) (P : Partition) : Nat := min (c.a64 c.lead).toNat P.gpMax
     let asked : State := { withWarp (put 2 0 9) with parts := [(0, { dies := [0, 1, 2, 3], clusters := List.range 48, gpMax := 1 })] }
     (∃ P, Meets bare .qsp .l64 (regs 0 0 0 0) (fun c => here c ∧ mfind c.s.parts (c.s.partOfWarp c.W) = some P)) ∧
     (∃ P, Meets bare .gpreq .l64 (regs 4 0 0 0) (fun c => c.Plain ∧ c.lanes ≠ [] ∧ mfind c.s.parts (c.s.partOfWarp c.W) = some P)) ∧
     (∃ P, Meets bare .gpwait .l64 (regs 0 2 0 0) (fun c => here c ∧ mfind c.s.parts (c.s.partOfWarp c.W) = some P ∧ g c P ≤ P.gpDone)) ∧
     (∃ P, Meets asked .gpwait .l64 (regs 0 2 0 0) (fun c => here c ∧ mfind c.s.parts (c.s.partOfWarp c.W) = some P ∧ P.gpDone < g c P))) :=
  ⟨⟨_, ⟨rfl, clear_of rfl (by decide)⟩, ⟨plain_of (by decide), by decide, by decide, by decide⟩, rfl⟩, ⟨_, ⟨rfl, clear_of rfl (by decide)⟩, plain_of (by decide), by decide, rfl⟩, ⟨_, ⟨rfl, clear_of rfl (by decide)⟩, ⟨plain_of (by decide), by decide, by decide, by decide⟩, rfl, by decide⟩, ⟨_, ⟨rfl, clear_of rfl (by decide)⟩, ⟨plain_of (by decide), by decide, by decide, by decide⟩, rfl, by decide⟩⟩

/-- Pool 0 of die 0: four blocks of 64 bytes from 0; its free list starts at `head`. -/
def pooled (s : State) (head : DWord) : State :=
  s.modDie 0 (fun D => { D with poolCfg := [(0, 2 ^ 63)], poolStat := [(0, 0x400000000)], poolHead := mput 0 [] 0 head })

theorem witness_Pools :
    (let die (c : Ctx) : Nat := c.W.core / 192
     let pool (x : Word) : Nat := (x.extractLsb' 0 4).toNat
     let may (c : Ctx) (pool : Nat → Nat) (va : Nat → Option DWord) : Prop := ∀ i ∈ c.lanes, c.poolFault i (pool i) (va i) = none
     let pop (c : Ctx) : Prop := c.Plain ∧ c.lanes = [0] ∧ may c (fun i => pool (c.a i)) (fun _ => none) ∧
       (c.s.die (die c)).poolBusy (pool (c.a 0)) = false ∧ (∀ f ∈ c.s.flights, f.2.warp = c.k → ∀ a ∈ f.2.accs, ∀ p d, a.op ≠ .push p d)
     let head (c : Ctx) : DWord := mget 0 (c.s.die (die c)).poolHead (pool (c.a 0))
     Meets (pooled bare 0) .dfree .l96 (regs 4 2 6 0) (fun c => c.Plain ∧ c.lanes ≠ [] ∧ c.Reach c.a64 1 true ∧
       may c (fun i => pool (c.b i)) (fun i => some (c.a64 i))) ∧
     Meets (pooled (withWarp lone) 0) .palloc .l64 (regs 4 2 0 0) (fun c => pop c ∧ head c = 0) ∧
     (∃ tr, Meets (pooled (withWarp lone) 0x40) .palloc .l64 (regs 4 2 0 0) (fun c => pop c ∧ head c = 0x40 ∧ (0x40 : DWord) ≠ 0 ∧
       (0x40 : DWord).toNat % 64 = 0 ∧ (0x40 : DWord).toNat < 2 ^ 48 ∧ c.W.mode = .user ∧ c.s.cached c.W.core c.W.queue (0x40 : DWord).toNat = some tr ∧ tr.rdo = false ∧
       PlainMem c.s ∧ ∀ j < 8, c.s.homeless (tr.phys (0x40 : DWord).toNat + j) = false)) ∧
     Meets (pooled bare 0) .pfree .l64 (regs 0 2 6 0) (fun c => c.Plain ∧ c.lanes ≠ [] ∧ c.W.counter 1 < 255 ∧ c.Reach c.a64 1 true ∧
       may c (fun i => pool (c.b i)) (fun i => some (c.a64 i)))) :=
  ⟨⟨⟨rfl, clear_of rfl (by decide)⟩, plain_of (by decide), by decide, reach_of (by decide), by decide⟩, ⟨⟨rfl, clear_of rfl (by decide)⟩, ⟨plain_of (by decide), by decide, by decide, by decide, fun _ h => nomatch h⟩, by decide⟩,
   ⟨_, ⟨rfl, clear_of rfl (by decide)⟩, ⟨plain_of (by decide), by decide, by decide, by decide, fun _ h => nomatch h⟩, by decide, by decide, by decide, by decide, by decide, rfl, rfl, plainMem_of (by decide), by decide⟩, ⟨⟨rfl, clear_of rfl (by decide)⟩, plain_of (by decide), by decide, by decide, reach_of (by decide), by decide⟩⟩

/-- A transaction of lane 0 that has read sector 0 and buffers one byte. -/
def transaction : Tx := ⟨0x10000, 0, [(0, { reads := [(0, List.replicate 32 0)], writes := [(3, 7)], foot := [0] })], []⟩

theorem witness_Transactions :
    Meets bare .txopen .l64 (regs 4 0 0 0) (fun c => c.fork? = none ∧ c.W.tx = none ∧ c.lanes ≠ []) ∧
    Meets (withWarp (fun W => { W with tx := some transaction })) .txopen .l64 (regs 4 0 0 0)
      (fun c => c.fork? = none ∧ c.W.tx.isSome = true ∧ c.W.tmode = false) ∧
    Meets (withWarp (fun W => { W with tx := some transaction })) .txdrop .l64 (regs 0 2 0 0) (fun c => c.W.tmode = false) ∧
    ∃ (i : Nat) (l : TxLane) (x : Tx), i < 64 ∧ x.lanes = [(i, l)] ∧ l.cause = 0 ∧ l.drops = [] ∧ msorted l.writes = true ∧
      Meets (withWarp (fun W => { W with tx := some transaction })) .txseal .l64 (regs 4 0 0 0)
        (fun c => (∀ e ∈ l.writes, c.s.homeless e.1 = false) ∧ c.s.onWay c.k (c.s.txRanges c.k) = false ∧ c.W.tx = some x ∧ c.W.tmode = false ∧ c.s.buffered c.W = false ∧ c.W.twinOf = none ∧ c.fork? = none ∧
          c.s.readsOut c.k c.s.nextId = false ∧ c.W.txSlices &&& ~~~(c.W.atSeal ||| c.m) = 0 ∧ c.s.txHeld c.k = [] ∧ PlainMem c.s) :=
  ⟨⟨⟨rfl, clear_of rfl (by decide)⟩, by decide, by decide, by decide⟩, ⟨⟨rfl, clear_of rfl (by decide)⟩, by decide, by decide, by decide⟩, ⟨⟨rfl, clear_of rfl (by decide)⟩, by decide⟩,
   0, _, transaction, by decide, rfl, by decide, by decide, by decide, ⟨rfl, clear_of rfl (by decide)⟩, by decide, by decide, by decide, by decide, by decide, by decide, by decide, by decide, by decide, by decide, plainMem_of (by decide)⟩

/-- A machine of which no partition holds the memory from 1 MiB on. -/
def parted : State := { bare with partitioned := true, parts := [(0, { dies := [0], clusters := [0], top := 2 ^ 20 })] }

/-- The bare machine with a line in the L2 that holds what HBM holds, and one that is newer than HBM. -/
def lined : State := { bare with l2 := [(5, { data := List.replicate 128 0, dirty := 0xF }), (6, { data := bare.hbmBytes 768 128, dirty := 0 })] }

theorem parted_plain : PlainMem parted where
  ranges a := by
    have h (x : Nat) : parted.homeless x = (x / 2 ^ 40 % 256 == 0 && !decide (0xC000000000 ≤ x % 2 ^ 40) && !decide (x % 2 ^ 40 < 2 ^ 20)) := by
      have hs : parted.zinc.self = 0 := rfl
      have hp : parted.parts = [(0, { dies := [0], clusters := [0], top := 2 ^ 20 })] := rfl
      have hq : parted.partitioned = true := rfl
      simp only [State.homeless, State.rangeOf, hs, hp, hq, packageOf, inHostWindow]
      by_cases hx : x % 2 ^ 40 < 2 ^ 20 <;> simp only [hx, List.find?_cons, Nat.zero_le, decide_true, decide_false, Bool.and_true, Bool.and_false] <;> simp
    rw [h, h, show a / 128 * 128 / 2 ^ 40 % 256 = a / 2 ^ 40 % 256 by omega,
      show decide (0xC000000000 ≤ a / 128 * 128 % 2 ^ 40) = decide (0xC000000000 ≤ a % 2 ^ 40) from decide_eq_decide.2 (by omega),
      show decide (a / 128 * 128 % 2 ^ 40 < 2 ^ 20) = decide (a % 2 ^ 40 < 2 ^ 20) from decide_eq_decide.2 (by omega)]
  views a := by
    have hv (d : Nat) : (parted.die d).winCtl = [] := by
      unfold State.die
      cases hd : mfind parted.dies d with
      | none => rfl
      | some D => exact (by decide : ∀ x ∈ parted.dies, x.2.winCtl = []) _ (mem_of_mfind hd)
    rw [State.decodedView, no_window hv]
  home _ _ h := nomatch h
  whole _ _ h := nomatch h
  raw _ _ h := nomatch h
  clean _ _ h := nomatch h

theorem witness_ReadAfterWrite : PlainMem bare ∧ ([1, 2, 3] : List Byte).length ≤ 128 ∧ PlainMem lined ∧
    (∀ j < 3, lined.homeless (126 + j) = false) ∧ PlainMem parted ∧
    (∀ j < 3, parted.homeless (2 ^ 20 + j) = true) :=
  ⟨plainMem_of (by decide), by decide, plainMem_of (by decide), by decide, parted_plain, by decide⟩

/-! ### Engines, matrix unit and tap -/

/-- The identity page of the bare warp's queue. -/
def flat : Trans := ⟨0, 0, 7, 0, 0, false, false, false⟩
/-- The bare warp with one operation of class `cls` under number 9. -/
def engaged (cls : Nat) (op : EngOp) : State :=
  { withWarp (fun W => { W with outs := [(cls, 9, false)] }) with
    engines := [(9, { op := op, warp := 1, block := 2, cls := cls, stage := 1 })] }

/-- A layout whose rows lie 64 bytes apart. -/
def tileLayout : BitVec 96 := BitVec.ofNat 96 (64 * 2 ^ 20)

theorem witness_EngineCopies :
    (let n (c : Ctx) : Nat := 2 ^ (c.mod % 4)
     let addr (c : Ctx) (i : Nat) : DWord := c.a64 c.lead + c.w.imm.signExtend 64 +
       (if c.w.mod.getLsbD 2 then (c.b i).signExtend 64 else (c.b i).setWidth 64) * BitVec.ofNat 64 (n c)
     let spad (c : Ctx) : Nat := (c.W.dReg c.w c.lead 0).toNat
     let inside (c : Ctx) : Prop := c.Plain ∧ c.W.counter 4 < 63 ∧ ∀ i ∈ c.lanes, (addr c i).toNat % n c = 0 ∧ spad c % n c = 0 ∧
       spad c + (i + 1) * n c ≤ c.s.spadSize c.W.block ∧ (addr c i).toNat < 2 ^ 48
     let layout (c : Ctx) : BitVec 96 := c.W.dReg c.w c.lead 2 ++ c.W.dReg c.w c.lead 1 ++ c.W.dReg c.w c.lead 0
     let base (c : Ctx) : DWord := c.a64 c.lead
     let len (c : Ctx) : Nat := ((c.b c.lead).extractLsb' 0 16).toNat
     let rows (c : Ctx) : Nat := ((c.b c.lead).extractLsb' 16 8).toNat + 1
     let pitch (c : Ctx) : Nat := (c.c c.lead).toNat
     let size (c : Ctx) : Nat := (c.c c.lead).toNat
     Meets bare .gather .l128 (forms 2 0 0x40 4 2 8 0) inside ∧ Meets bare .scatter .l128 (forms 3 0 0x40 4 2 8 0) inside ∧
     Meets (withWarp (put 8 0 0x10008)) .copy .l128 (regs 4 2 8 9) (fun c => c.Plain ∧ c.lanes ≠ [] ∧ c.W.counter 2 < 63 ∧
       layoutBad (layout c) = 0 ∧ (∀ r < rows c, ∀ b < len c, layoutAddr (layout c) r 0 0 b < c.s.spadSize c.W.block) ∧
       (base c).toNat % 4 = 0 ∧ pitch c % 4 = 0 ∧ len c % 4 = 0 ∧
       ∀ r < rows c, ∀ j < len c / 4, (base c + BitVec.ofNat 64 (r * pitch c + 4 * j)).toNat < 2 ^ 48) ∧
     Meets (withWarp (fun W => put 4 0 0x100 (put 8 0 0x10 W))) .copyr .l128 (regs 0 4 6 8) (fun c => c.Plain ∧ c.lanes ≠ [] ∧
       c.W.counter 2 < 63 ∧ (size c = 0 ∨
         ((c.a64 c.lead).toNat + size c ≤ 2 ^ 48 ∧ (c.b64 c.lead).toNat + size c ≤ 2 ^ 48 ∧
           ((c.a64 c.lead).toNat + size c ≤ (c.b64 c.lead).toNat ∨ (c.b64 c.lead).toNat + size c ≤ (c.a64 c.lead).toNat))))) ∧
    let ready (s : State) (e : Engine) : Prop := mfind s.engines 9 = some e ∧ e.stage = 1 ∧ e.ran = false ∧ e.made = 0 ∧ e.mirror = none ∧
      mfind s.warps e.warp = some (s.warp 1) ∧ s.buffered (s.warp 1) = false ∧ s.watched e.warp = false ∧ s.badSectors = [] ∧ s.badHbm = [] ∧ s.holds = [] ∧
      mfind s.kept 9 = none ∧ (∀ f ∈ s.flights, f.2.warp ≠ e.warp) ∧ PlainMem s
    let copy : State := engaged 2 (.copyr 0x20000 0x30000 9)
    let gather : State := engaged 4 (.gather 0 4 8 [(0, 0x100), (3, 0x200)])
    let barred : State := { copy with tlbs := [(816, [{ flat with rdo := true }])] }
    (∃ e, ready copy e ∧ e.op = .copyr 0x20000 0x30000 9 ∧ e.cls = 2 ∧ (copy.warp 1).outs = [(2, 9, false)] ∧
      copy.engWprot e = false ∧ (∀ j < 9, copy.engPhys e (.glob (0x20000 + BitVec.ofNat 64 j)) = some (0x20000 + j) ∧
        copy.engPhys e (.glob (0x30000 + BitVec.ofNat 64 j)) = some (0x30000 + j) ∧ copy.homeless (0x20000 + j) = false)) ∧
    (∃ e, ready gather e ∧ e.op = .gather 0 4 8 [(0, 0x100), (3, 0x200)] ∧ e.cls = 4 ∧ (gather.warp 1).outs = [(4, 9, false)] ∧
      (([(0, 0x100), (3, 0x200)] : List (Nat × DWord)).map (·.1)).Nodup ∧ (gather.block? e.block).isSome = true ∧
      ∀ x ∈ [(0, (0x100 : DWord)), (3, 0x200)], ∃ pa, gather.engPhys e (.glob x.2) = some pa ∧ packageOf pa = gather.zinc.self) ∧
    (let scatter : State := engaged 4 (.scatter 0 4 8 [(0, 0x100), (3, 0x200)])
     ∃ e, ready scatter e ∧ e.op = .scatter 0 4 8 [(0, 0x100), (3, 0x200)] ∧ e.cls = 4 ∧ (scatter.warp 1).outs = [(4, 9, false)] ∧ scatter.engWprot e = false ∧
      ∀ x ∈ ([(0, 0x100), (3, 0x200)] : List (Nat × DWord)), scatter.engPhys e (.glob x.2) = some x.2.toNat ∧ scatter.spadBad e.block (8 + x.1 * 4) 4 = false ∧
        (∀ j < 4, scatter.homeless (x.2.toNat + j) = false) ∧
        ∀ y ∈ ([(0, 0x100), (3, 0x200)] : List (Nat × DWord)), y ≠ x → x.2.toNat + 4 ≤ y.2.toNat ∨ y.2.toNat + 4 ≤ x.2.toNat) ∧
    (∀ op ∈ [EngOp.copyG2s tileLayout 0x100 4 2 8, .copyS2g tileLayout 0x100 4 2 8], ∃ e, ready (engaged 2 op) e ∧ e.op = op ∧ e.cls = 2 ∧
      ((engaged 2 op).warp 1).outs = [(2, 9, false)] ∧ ((engaged 2 op).block? e.block).isSome = true ∧ (engaged 2 op).engWprot e = false ∧
      (∀ r < 2, ∀ j < 4, (engaged 2 op).engPhys e (.glob (0x100 + BitVec.ofNat 64 (r * 8 + j))) = some (0x100 + r * 8 + j) ∧
        0x100 + r * 8 + j = 0x100 + r * 8 + j / 4 * 4 + j % 4 ∧ (engaged 2 op).homeless (0x100 + r * 8 + j) = false ∧
        (engaged 2 op).spadBad e.block (layoutAddr tileLayout r 0 0 j) 1 = false) ∧
      ∀ x ∈ (List.range 2).product (List.range 4), ∀ y ∈ (List.range 2).product (List.range 4), ¬ (y.1 = x.1 ∧ y.2 = x.2) →
        layoutAddr tileLayout y.1 0 0 y.2 ≠ layoutAddr tileLayout x.1 0 0 x.2) ∧
    (∃ e tr, ready barred e ∧ e.op = .copyr 0x20000 0x30000 9 ∧ barred.engMissing e = [] ∧
      barred.engTrans e (0x20000 : DWord).toNat = some tr ∧ tr.rdo = true) :=
  ⟨⟨⟨⟨rfl, clear_of rfl (by decide)⟩, plain_of (by decide), by decide, by decide⟩, ⟨⟨rfl, clear_of rfl (by decide)⟩, plain_of (by decide), by decide, by decide⟩, ⟨⟨rfl, clear_of rfl (by decide)⟩, plain_of (by decide), by decide, by decide, by decide, by decide, by decide, by decide, by decide, by decide⟩, ⟨⟨rfl, clear_of rfl (by decide)⟩, plain_of (by decide), by decide, by decide, by decide⟩⟩,
   ⟨_, ⟨rfl, by decide, by decide, by decide, by decide, rfl, by decide, by decide, rfl, rfl, rfl, rfl, (fun _ h => nomatch h), plainMem_of (by decide)⟩, rfl, by decide, by decide, by decide, by decide⟩,
   ⟨_, ⟨rfl, by decide, by decide, by decide, by decide, rfl, by decide, by decide, rfl, rfl, rfl, rfl, (fun _ h => nomatch h), plainMem_of (by decide)⟩, rfl, by decide, by decide, by decide, by decide, fun x hx => by
      simp only [List.mem_cons, List.not_mem_nil, or_false] at hx
      rcases hx with rfl | rfl <;> exact ⟨_, rfl, by decide⟩⟩,
   ⟨_, ⟨rfl, by decide, by decide, by decide, by decide, rfl, by decide, by decide, rfl, rfl, rfl, rfl, (fun _ h => nomatch h), plainMem_of (by decide)⟩, rfl, by decide, by decide, by decide, by decide⟩,
   (fun op h => by
      simp only [List.mem_cons, List.not_mem_nil, or_false] at h
      rcases h with rfl | rfl <;>
        exact ⟨_, ⟨rfl, by decide, by decide, by decide, by decide, rfl, by decide, by decide, rfl, rfl, rfl, rfl, (fun _ h => nomatch h), plainMem_of (by decide)⟩, rfl, by decide, by decide, by decide, by decide, by decide, by decide⟩),
   ⟨_, _, ⟨rfl, by decide, by decide, by decide, by decide, rfl, by decide, by decide, rfl, rfl, rfl, rfl, (fun _ h => nomatch h), plainMem_of (by decide)⟩, rfl, by decide, rfl, by decide⟩⟩

/-- The bare warp's block owns the matrix unit of its core. -/
def owning (f : Warp → Warp) : State := (withWarp f).modCore 1 (fun C => { C with mx := { C.mx with owner := some 2 } })

theorem witness_MatrixInstructions :
    (let own (c : Ctx) : Prop := c.Plain ∧ c.lanes ≠ [] ∧ (kitOf c.op).check c = [] ∧ c.missing ((kitOf c.op).first c) = []
     Meets (owning id) .mcfg .l64 (regs 0 2 4 0) (fun c => own c ∧ c.mx.owner = some c.W.block) ∧
     Meets bare .mcfg .l64 (regs 0 2 4 0) (fun c => own c ∧ c.mx.owner = none ∧ ∀ e ∈ c.mx.queue, e.block ≠ c.W.block → e.op.ofTap = true) ∧
     Meets (owning id) .mlds .l64 (regs 0 2 0 0) own ∧ Meets (owning id) .mswap .l64 (regs 0 0 0 0) own ∧
     Meets (owning id) .mzero .l64 (regs 0 2 0 0) own ∧ Meets (owning id) .mst .l96 (regs 0 4 2 0) own ∧
     Meets (owning id) .macc .l96 (regs 0 4 2 0) own ∧ Meets (owning id) .mmeta .l64 (regs 0 2 0 0) own ∧
     Meets (owning id) .mloop .l96 (forms 0 0 0 8 4 2 3) own ∧ Meets (owning id) .mrd .l64 (regs 8 2 0 0) own ∧
     Meets (owning id) .mfence .l64 (regs 8 0 0 0) (fun c => own c ∧ c.W.counter 3 < 15 ∧ c.W.batchNo + 1 < 2 ^ 40) ∧
     Meets (owning (fun W => { put 2 0 1 W with batches := [(1, [], 9)], batchNo := 1 })) .mwait .l64 (regs 0 2 0 0)
       (fun c => own c ∧ ∃ b, c.batchOf = some b ∧ ∀ o ∈ c.W.outs, o.2.1 ≠ b.2.2) ∧
     ∃ b, Meets (owning (fun W => { put 2 0 1 W with batches := [(1, [], 9)], batchNo := 1, outs := [(3, 9, false)] })) .mwait .l64 (regs 0 2 0 0)
       (fun c => own c ∧ c.batchOf = some b ∧ ∃ o ∈ c.W.outs, o.2.1 = b.2.2)) :=
  ⟨⟨⟨rfl, clear_of rfl (by decide)⟩, ⟨plain_of (by decide), by decide, by decide⟩, by decide⟩, ⟨⟨rfl, clear_of rfl (by decide)⟩, ⟨plain_of (by decide), by decide, by decide⟩, by decide, by decide⟩, ⟨⟨rfl, clear_of rfl (by decide)⟩, plain_of (by decide), by decide, by decide⟩, ⟨⟨rfl, clear_of rfl (by decide)⟩, plain_of (by decide), by decide, by decide⟩, ⟨⟨rfl, clear_of rfl (by decide)⟩, plain_of (by decide), by decide, by decide⟩, ⟨⟨rfl, clear_of rfl (by decide)⟩, plain_of (by decide), by decide, by decide⟩, ⟨⟨rfl, clear_of rfl (by decide)⟩, plain_of (by decide), by decide, by decide⟩, ⟨⟨rfl, clear_of rfl (by decide)⟩, plain_of (by decide), by decide, by decide⟩,
   ⟨⟨rfl, clear_of rfl (by decide)⟩, plain_of (by decide), by decide, by decide⟩, ⟨⟨rfl, clear_of rfl (by decide)⟩, plain_of (by decide), by decide, by decide⟩, ⟨⟨rfl, clear_of rfl (by decide)⟩, ⟨plain_of (by decide), by decide, by decide⟩, by decide, by decide⟩, ⟨⟨rfl, clear_of rfl (by decide)⟩, ⟨plain_of (by decide), by decide, by decide⟩, _, rfl, by decide⟩, ⟨_, ⟨rfl, clear_of rfl (by decide)⟩, ⟨plain_of (by decide), by decide, by decide⟩, rfl, by decide⟩⟩

/-- One operation at the head of the matrix unit's queue of core 1. -/
def atUnit (op : MxOp) : State :=
  { bare.modCore 1 (fun C => { C with mx := { C.mx with owner := some 2, queue := [{ op := op, id := 9, warp := 1, block := 2, flight := 8, lanes := [0, 1] }] } }) with
    flights := [(8, { warp := 1, cls := 7, accs := [], dst := 4, regs := [4], ready := false })] }

theorem witness_MatrixUnit :
    (∀ op ∈ [MxOp.mswap, .mzero 5, .mrd 127 1], ∃ e q U, ((atUnit op).core 1).mx = U ∧ U.queue = e :: q ∧ (atUnit op).buffered ((atUnit op).warp e.warp) = false ∧
      e.op = op ∧ U.err = none ∧ U.accPoison = [] ∧ (mfind (atUnit op).flights e.flight).isSome = true) ∧
    let s : State := { withWarp (fun W => { W with batches := [(1, [7], 9)], outs := [(3, 9, false)] }) with
      engines := [(7, { op := .unit, warp := 1, block := 2, cls := 7, stage := 2, flags := 4 }), (9, { op := .batch [7], warp := 1, block := 2, cls := 3, stage := 1 })] }
    ∃ W e, mfind s.warps 1 = some W ∧ s.buffered W = false ∧ W.batches = [(1, [7], 9)] ∧ W.outs = [(3, 9, false)] ∧
      (∀ o ∈ [7], s.unitPending o = false) ∧ 9 ∉ [7] ∧ s.shadow W.block = false ∧ mfind s.engines 9 = some e ∧ e.cls = 3 :=
  ⟨fun op h => by
      simp only [List.mem_cons, List.not_mem_nil, or_false] at h
      rcases h with rfl | rfl | rfl <;> exact ⟨_, _, _, rfl, rfl, by decide, rfl, rfl, rfl, by decide⟩,
   _, _, rfl, by decide, rfl, rfl, by decide, by decide, by decide, rfl, rfl⟩

/-- A weight layout of one plane: 128 rows and 128 columns of E2M1 from 0x10000, its scales at 0x20000. -/
def weights : WRec := ⟨0, 0x10000, 0x20000, 128, 128, 2⟩
/-- An operation at the head of the queue of a unit with that layout; its own engine, of a store, has stage 1. -/
def working (op : MxOp) (f : MxUnit → MxUnit) : State :=
  { (atUnit op).modMx 1 (fun U => f { U with record := some weights }) with
    engines := [(9, { op := .unit, warp := 1, block := 2, cls := 7, stage := 1 })] }

theorem witness_MatrixUnit_reads :
    let reads (s : State) (e : MxEntry) (l : List (Nat × Nat)) : Prop := s.fetchLacks e.warp e.asked l = [] ∧
      s.fetchBehind e.warp e.id (l ++ s.sideRanges 1 e) = false ∧ ∀ r ∈ l, (s.fetchBytes e.warp e.id r.1 r.2).2 = false
    let at_ (s : State) (e : MxEntry) (op : MxOp) : Prop :=
      (∃ q, (s.core 1).mx.queue = e :: q) ∧ s.buffered (s.warp e.warp) = false ∧ e.op = op ∧ (s.core 1).mx.err = none
    (parseRecord 0 (leBytes 8 0x10000 ++ leBytes 8 0x20000 ++ leBytes 8 0 ++ leBytes 4 128 ++ leBytes 4 128 ++ leBytes 4 2 ++ List.replicate 28 0)).map (·.1) =
      some weights ∧
    (∃ e tr, at_ (atUnit (.mcfg 0x40 3)) e (.mcfg 0x40 3) ∧ reads (atUnit (.mcfg 0x40 3)) e [(0x40, 64)] ∧
      mfind (atUnit (.mcfg 0x40 3)).kept e.id = none ∧ (atUnit (.mcfg 0x40 3)).warpLook e.warp 0x40 = some tr ∧
      packageOf (tr.phys 0x40) = (atUnit (.mcfg 0x40 3)).zinc.self ∧ (atUnit (.mcfg 0x40 3)).homeDie (tr.phys 0x40) = ((atUnit (.mcfg 0x40 3)).warp e.warp).core / 192) ∧
    (∃ e, at_ (working (.mmeta 0x40) id) e (.mmeta 0x40) ∧ reads (working (.mmeta 0x40) id) e [(0x40, 64)]) ∧
    (∃ e, at_ (working (.mlds 0) id) e (.mlds 0) ∧ 0 < weights.planes false ∧ mfind (working (.mlds 0) id).kept e.id = none ∧
      reads (working (.mlds 0) id) e ((working (.mlds 0) id).planeRanges e.warp weights false 0) ∧
      ((working (.mlds 0) id).fetchPlane e.warp e.id weights false 0).2 = false) := by
  refine ⟨by decide, ⟨_, _, ⟨⟨_, rfl⟩, by decide, rfl, rfl⟩, ⟨by decide, by decide, by decide⟩, rfl, rfl, by decide, by decide⟩,
    ⟨_, ⟨⟨_, rfl⟩, by decide, rfl, rfl⟩, by decide, by decide, by decide⟩,
    ⟨_, ⟨⟨_, rfl⟩, by decide, rfl, rfl⟩, by decide, rfl, ⟨?_, ?_, ?_⟩, ?_⟩⟩
  · decide
  · decide
  · decide
  · decide

theorem witness_MatrixUnit_works :
    let loop : State := working (.mloop 0 tileLayout 0 0 0 0) (fun U => { U with active := { idx := some 0, known := true } })
    let narrow (op : MxOp) : State := working op (fun U => { U with record := some { weights with wfmt := 3 } })
    let plain (s : State) (e : MxEntry) : Prop := (s.core 1).mx.err = none ∧ (s.core 1).mx.accPoison = [] ∧ (s.core 1).mx.order = [] ∧ mfind s.kept e.id = none ∧
      ∀ x, mfind s.engines e.id = some x → x.block = e.block ∧ s.watched x.warp = false
    let at_ (s : State) (e : MxEntry) (op : MxOp) : Prop := (∃ q, (s.core 1).mx.queue = e :: q) ∧ s.buffered (s.warp e.warp) = false ∧ e.op = op
    (∃ e r F, at_ loop e (.mloop 0 tileLayout 0 0 0 0) ∧ plain loop e ∧ (loop.core 1).mx.record = some r ∧ (loop.core 1).mx.side = none ∧
      (loop.core 1).mx.active.idx = some 0 ∧ 32 * (stepTile 0 % 4) + 128 ≤ 128 ∧ (∀ i < stepK 0, 0 ≤ ((0 : Nat) : Int) + i * incW 0) ∧
      loop.unitRanges 1 e = [] ∧ (∀ m < stepM 0, ∀ i < stepK 0, ∀ a ∈ rowBytes tileLayout (loop.core 1).mx.afmt m (i * incA 0) ++
        rowScale tileLayout (loop.core 1).mx.afmt m (i * incA 0), loop.spadBad e.block a 1 = false) ∧ mfind loop.flights e.flight = some F) ∧
    (∃ e, at_ (narrow (.macc tileLayout 0)) e (.macc tileLayout 0) ∧ plain (narrow (.macc tileLayout 0)) e ∧ 32 * (stepTile 0 % 4) + 32 ≤ 128 ∧
      ∀ m < stepM 0, ∀ n < 32, (narrow (.macc tileLayout 0)).spadBad e.block (layoutAddr tileLayout m (n / 32) 0 (4 * (n % 32))) 4 = false) ∧
    (∃ e E, at_ (narrow (.mst tileLayout 0 3)) e (.mst tileLayout 0 3) ∧ plain (narrow (.mst tileLayout 0 3)) e ∧
      mfind (narrow (.mst tileLayout 0 3)).engines e.id = some E ∧ ((narrow (.mst tileLayout 0 3)).block? e.block).isSome = true ∧
      ((List.range (stepM 0)).flatMap (fun m => (List.range (32 * 1)).map (layoutAddr tileLayout m 0 0) ++ [layoutAddr tileLayout 128 0 0 m])).Nodup) ∧
    ∃ e, at_ (working .mswap (fun U => { U with err := some (8, 0) })) e .mswap ∧
      ((working .mswap (fun U => { U with err := some (8, 0) })).core 1).mx.err.isSome = true ∧ e.op.ofTap = false :=
  ⟨⟨_, _, _, ⟨⟨_, rfl⟩, by decide, rfl⟩, ⟨rfl, rfl, rfl, rfl, fun x h => by cases h; exact ⟨rfl, by decide⟩⟩, rfl, rfl, rfl, by decide, by decide, by decide, by decide, rfl⟩,
   ⟨_, ⟨⟨_, rfl⟩, by decide, rfl⟩, ⟨rfl, rfl, rfl, rfl, fun x h => by cases h; exact ⟨rfl, by decide⟩⟩, by decide, by decide⟩,
   ⟨_, _, ⟨⟨_, rfl⟩, by decide, rfl⟩, ⟨rfl, rfl, rfl, rfl, fun x h => by cases h; exact ⟨rfl, by decide⟩⟩, rfl, by decide, by decide⟩,
   _, ⟨⟨_, rfl⟩, by decide, rfl⟩, rfl, rfl⟩

/-- A binding of the bare block. -/
def bound : Binding := { block := 2, warp := 1, tap := 0, inp := 0, out := 0, table := 0 }
/-- The bare warp as its block's tap-handler warp, with a tap unit. -/
def tapped (T : TapUnit) : State :=
  (bare.modBlock 2 (fun B => { B with handler := some 1 })).modCore 1 (fun C => { C with tap := T })

theorem witness_TapInstructions :
    (let here (c : Ctx) : Prop := c.Plain ∧ c.lanes ≠ []
     let handler (c : Ctx) : Prop := here c ∧ (c.s.block? c.W.block).any (fun B => B.handler == some c.k) = true
     let seq (T : TapUnit) (c : Ctx) : Nat := mget 0 T.seq c.W.block
     let inp (c : Ctx) : BitVec 96 := c.W.opLayout c.w.a c.lead
     let out (c : Ctx) : BitVec 96 := c.W.opLayout c.w.b c.lead
     let tap (c : Ctx) : DWord := pairOf (c.W.dReg c.w c.lead 0) (c.W.dReg c.w c.lead 1)
     let table (c : Ctx) : Nat := (c.c c.lead).toNat
     let idle (c : Ctx) : Prop := c.W.counter 6 = 0 ∧ ∀ e ∈ c.tap.queue, e.warp ≠ c.k
     let nothing (c : Ctx) : Prop := c.reports = [] ∧ ∀ b, c.tap.binding = some b → b.block = c.W.block → b.undelivered = []
     let waits (c : Ctx) : Prop := ∀ b, c.tap.binding = some b → b.block = c.W.block → b.undelivered = [] ∨ (b.reported = true ∧ c.reports ≠ [])
     let named (c : Ctx) : List Nat := c.lanes.filter (fun i => c.b i != 0xFFFFFFFF)
     let base (c : Ctx) : DWord := c.a64 c.lead
     Meets bare .tapbind .l96 (regs 8 4 12 2) (fun c => here c ∧ seq c.tap c = 0 ∧ layoutBad (inp c) = 0 ∧ layoutBad (out c) = 0 ∧
       (tap c).toNat % 8 = 0 ∧ table c % 8 = 0 ∧ table c + 0x1400 ≤ c.s.spadSize c.W.block) ∧
     Meets (tapped { seq := [(2, 1)] }) .fgath .l64 (regs 0 0 0 0) (fun c => here c ∧ seq c.tap c = 1 ∧ c.W.counter 6 < 15) ∧
     Meets (tapped { seq := [(2, 2)] }) .tapgo .l64 (regs 0 0 0 0) (fun c => here c ∧ seq c.tap c = 2 ∧ c.W.counter 6 < 15) ∧
     Meets (tapped { binding := some bound }) .tapwait .l64 (regs 4 0 0 0) (fun c => handler c ∧ idle c ∧ nothing c) ∧
     Meets ((tapped { binding := some bound }).modWarp 1 (fun W => { W with outs := [(6, 9, false)] })) .tapwait .l64 (regs 4 0 0 0)
       (fun c => handler c ∧ c.W.counter 6 ≠ 0 ∧ waits c) ∧
     Meets (((tapped { binding := some { bound with reported := true, undelivered := [(3, [1, 2, 3, 4])] } }).modWarp 1 (fun W =>
         { W with outs := [(6, 9, false)] })).modBlock 2 (fun B => { B with tapReports := [(0x40, 4, 0xFFFF, 2)] })) .tapwait .l64 (regs 4 0 0 0)
       (fun c => handler c ∧ c.W.counter 6 ≠ 0 ∧ waits c) ∧
     (∃ b row words rest, Meets (tapped { binding := some { bound with undelivered := [(3, [1, 2, 3, 4])] } }) .fev .l64 (regs 4 0 0 0)
       (fun c => handler c ∧ c.tap.binding = some b ∧ b.block = c.W.block ∧ b.undelivered = (row, words) :: rest)) ∧
     Meets (tapped { binding := some bound }) .fev .l64 (regs 4 0 0 0)
       (fun c => handler c ∧ ∀ b, c.tap.binding = some b → b.block = c.W.block → b.undelivered = []) ∧
     (∃ b row words, Meets (tapped { binding := some { bound with current := some (3, [1, 2, 3, 4]) } }) .frewr .l64 (regs 0 2 0 0)
         (fun c => handler c ∧ c.tap.binding = some b ∧ b.block = c.W.block ∧ b.current = some (row, words)) ∧
       Meets (tapped { binding := some { bound with current := some (3, [1, 2, 3, 4]) } }) .frel .l64 (regs 0 0 0 0)
         (fun c => handler c ∧ c.tap.binding = some b ∧ b.block = c.W.block ∧ b.current = some (row, words))) ∧
     Meets (withWarp (put 4 0 0xFFFFFFFF)) .adpq .l96 (regs 8 2 4 0) (fun c => here c ∧ c.W.counter 0 < 255 ∧ (base c).toNat % 64 = 0 ∧
       (base c).toNat < 2 ^ 48 ∧ (c.trans (base c).toNat).isSome = true) ∧
     Meets (withWarp (put 3 0 0x10000)) .adpq .l96 (regs 8 2 4 0) (fun c => here c ∧ c.W.counter 0 < 255 ∧ (base c).toNat % 64 = 0 ∧
       2 ^ 48 ≤ (base c).toNat ∧ c.W.mode = .user ∧ named c ≠ [])) :=
  ⟨⟨⟨rfl, clear_of rfl (by decide)⟩, ⟨plain_of (by decide), by decide⟩, by decide, by decide, by decide, by decide, by decide, by decide⟩, ⟨⟨rfl, clear_of rfl (by decide)⟩, ⟨plain_of (by decide), by decide⟩, by decide, by decide⟩, ⟨⟨rfl, clear_of rfl (by decide)⟩, ⟨plain_of (by decide), by decide⟩, by decide, by decide⟩,
   ⟨⟨rfl, clear_of rfl (by decide)⟩, ⟨⟨plain_of (by decide), by decide⟩, by decide⟩, ⟨by decide, by decide⟩, by decide, fun b h _ => by cases h; rfl⟩, ⟨⟨rfl, clear_of rfl (by decide)⟩, ⟨⟨plain_of (by decide), by decide⟩, by decide⟩, by decide, fun b h _ => by cases h; exact .inl rfl⟩,
   ⟨⟨rfl, clear_of rfl (by decide)⟩, ⟨⟨plain_of (by decide), by decide⟩, by decide⟩, by decide, fun b h _ => by cases h; exact .inr ⟨rfl, by decide⟩⟩,
   ⟨_, _, _, _, ⟨rfl, clear_of rfl (by decide)⟩, ⟨⟨plain_of (by decide), by decide⟩, by decide⟩, rfl, by decide, rfl⟩, ⟨⟨rfl, clear_of rfl (by decide)⟩, ⟨⟨plain_of (by decide), by decide⟩, by decide⟩, fun b h _ => by cases h; rfl⟩,
   ⟨_, _, _, ⟨⟨rfl, clear_of rfl (by decide)⟩, ⟨⟨plain_of (by decide), by decide⟩, by decide⟩, rfl, by decide, rfl⟩, ⟨⟨rfl, clear_of rfl (by decide)⟩, ⟨⟨plain_of (by decide), by decide⟩, by decide⟩, rfl, by decide, rfl⟩⟩, ⟨⟨rfl, clear_of rfl (by decide)⟩, ⟨plain_of (by decide), by decide⟩, by decide, by decide, by decide, by decide⟩,
   ⟨⟨rfl, clear_of rfl (by decide)⟩, ⟨plain_of (by decide), by decide⟩, by decide, by decide, by decide, by decide, by decide⟩⟩

/-- A tap record of no features. -/
def tapRecord : TapRecord := ⟨0, 0, 0, 0, 0, 0, 0, 0, 0, 0, 0, 0, 0, 0, none, 0, 0⟩
/-- An operation of the tap unit at the head of the matrix unit's queue, counted in TP under number 9. -/
def tapAtUnit (op : MxOp) (b : Binding) : State :=
  { (withWarp (fun W => { W with outs := [(6, 9, false)] })).modCore 1 (fun C => { C with
      mx := { C.mx with queue := [{ op := op, id := 9, warp := 1, block := 2 }] }
      tap := { binding := some b } }) with
    engines := [(9, { op := .unit, warp := 1, block := 2, cls := 6, stage := 1 })] }

theorem witness_TapUnitRuns :
    (∃ e tap inp out table, ((tapped { queue := [⟨.bind 0 0 0 0, 9, 1, 2⟩] }).core 1).tap.queue = [e] ∧ e.op = .bind tap inp out table ∧
      ((tapped { queue := [⟨.bind 0 0 0 0, 9, 1, 2⟩] }).core 1).tap.binding = none) ∧
    (∃ e b row, ((tapped { queue := [⟨.frel 3, 9, 1, 2⟩], binding := some bound }).core 1).tap.queue = [e] ∧ e.op = .frel row ∧
      ((tapped { queue := [⟨.frel 3, 9, 1, 2⟩], binding := some bound }).core 1).tap.binding = some b ∧ b.block = e.block) ∧
    (let ready (s : State) (op : MxOp) (e : MxEntry) (q : List MxEntry) (b : Binding) (x : Engine) : Prop :=
       (s.core 1).mx.queue = e :: q ∧ e.op = op ∧ (s.core 1).tap.binding = some b ∧ s.buffered (s.warp e.warp) = false ∧
       mfind s.engines e.id = some x ∧ x.cls = 6 ∧ (s.warp e.warp).outs = [(6, e.id, false)] ∧ (mfind s.warps e.warp).isSome = true
     (∃ e q b x b', ready (tapAtUnit .fgath bound) .fgath e q b x ∧ (tapAtUnit .fgath bound).gather 1 e b = .ok b') ∧
     (∃ e q b x, ready (tapAtUnit .tapgo { bound with bad := 4 }) .tapgo e q b x ∧ b.bad ≠ 0) ∧
     ∃ e q b x b' tile report, ready (tapAtUnit .tapgo { bound with rd := some tapRecord }) .tapgo e q b x ∧
       (tapAtUnit .tapgo { bound with rd := some tapRecord }).tileGo 1 e b = .ok (tile, b', report) ∧ tile.outs = [] ∧
       ((((tapAtUnit .tapgo { bound with rd := some tapRecord }).block? b'.block).bind (·.handler)).any (fun k =>
         ((tapAtUnit .tapgo { bound with rd := some tapRecord }).warp k).ended)) = false ∧
       (tapAtUnit .tapgo { bound with rd := some tapRecord }).watched x.warp = false) ∧
    ((tapped { ringWait := [(0x40, 5, 0)] }).core 1).tap.ringWait = [(0x40, 5, 0)] ∧
      (∀ d < 4, (0 : DWord).toNat ≤ ((tapped { ringWait := [(0x40, 5, 0)] }).dieTime d).toNat) ∧
      mfind (tapped { ringWait := [(0x40, 5, 0)] }).holds ((0x40 : DWord).toNat / 32) = none ∧ PlainMem (tapped { ringWait := [(0x40, 5, 0)] }) ∧
      ∀ j < 4, (tapped { ringWait := [(0x40, 5, 0)] }).homeless ((0x40 : DWord).toNat + j) = false :=
  ⟨⟨_, _, _, _, _, rfl, rfl, rfl⟩, ⟨_, _, _, rfl, rfl, rfl, rfl⟩,
   ⟨⟨_, _, _, _, _, ⟨rfl, rfl, rfl, by decide, rfl, rfl, rfl, by decide⟩, rfl⟩, ⟨_, _, _, _, ⟨rfl, rfl, rfl, by decide, rfl, rfl, rfl, by decide⟩, by decide⟩,
    _, _, _, _, _, _, _, ⟨rfl, rfl, rfl, by decide, rfl, rfl, rfl, by decide⟩, rfl, rfl, by decide, by decide⟩,
   rfl, by decide, rfl, plainMem_of (by decide), by decide⟩

theorem all_some {α β : Type} {l : List α} {p q : α → Prop} [DecidablePred p] [DecidablePred q] {f : α → Option β} {r : α → β → Prop} [∀ i t, Decidable (r i t)]
    (h : (l.all (fun i => decide (p i) && decide (q i) && match f i with | some t => decide (r i t) | none => false)) = true) :
    ∀ i ∈ l, p i ∧ q i ∧ ∃ t, f i = some t ∧ r i t := by
  intro i hi
  have := List.all_eq_true.1 h i hi
  simp only [Bool.and_eq_true, decide_eq_true_eq] at this
  obtain ⟨⟨h1, h2⟩, h3⟩ := this
  refine ⟨h1, h2, ?_⟩
  split at h3
  · next t ht => exact ⟨t, ht, by simpa using h3⟩
  · exact absurd h3 (by simp)

theorem witness_UnitFaults :
    (let all (c : Ctx) (p : Nat → Prop) : Prop := c.fork? = none ∧ c.lanes.filter c.W.txLive = [] ∧
       (∀ j ∈ maskSlices c.m, ∃ i ∈ c.lanes, i / 4 = j) ∧ ∀ i ∈ c.lanes, p i
     let size (c : Ctx) : Nat := [1, 2, 4, 8, 16, 1, 2, 16].getD (c.mod % 8) 16
     let word (c : Ctx) : Nat := if c.w.mod.getLsbD 4 then 8 else 4
     let off (c : Ctx) (i : Nat) : DWord := c.a64 i + (c.b i).signExtend 64
     let spad (c : Ctx) (i : Nat) : DWord := (c.a i + c.b i).setWidth 64
     let canon (a : DWord) : Prop := a.toNat < 2 ^ 48
     let badGlobal (n : Ctx → Nat) (va : Ctx → Nat → DWord) (c : Ctx) : Prop := all c (fun i => (va c i).toNat % n c ≠ 0 ∨ ¬ canon (va c i))
     let badSpad (c : Ctx) : Prop := all c (fun i => (spad c i).toNat % size c ≠ 0 ∨ c.s.spadSize c.W.block < (spad c i).toNat + size c)
     let filled (r : Nat) (v : Word) : State := withWarp (fun W => (List.range 32).foldl (fun W i => put r i v W) W)
     let rdo (s : State) : State := { s with tlbs := [(816, [{ flat with rdo := true }])] }
     let barred (n : Ctx → Nat) (va : Ctx → Nat → DWord) (c : Ctx) : Prop := all c (fun i => (va c i).toNat % n c = 0 ∧ canon (va c i) ∧
       ∃ t, c.trans (va c i).toNat = some t ∧ t.rdo = true)
     let windowed : State := bare.modDie 0 (fun D => { D with winCtl := [(0, 0x80000004)] })
     let view (c : Ctx) : Prop := all c (fun i => (c.a64 i).toNat % word c = 0 ∧ canon (c.a64 i) ∧
       ∃ t, c.trans (c.a64 i).toNat = some t ∧ c.s.decodedView (t.phys (c.a64 i).toNat) ≠ none)
     Meets (filled 2 1) .ld .l96 (forms 2 0 0 4 2 6 0) (badGlobal size off) ∧ Meets (filled 3 0x10000) .st .l96 (forms 0 0 0 4 2 6 0) (badGlobal size off) ∧
     Meets (filled 2 4) .amo .l96 (forms 16 0 0 4 2 6 0) (badGlobal word Ctx.a64) ∧ Meets (filled 2 2) .red .l96 (forms 0 0 0 0 2 6 0) (badGlobal word Ctx.a64) ∧
     Meets (filled 2 0x60000) .lds .l96 (forms 0 0 0 4 2 6 0) badSpad ∧ Meets (filled 2 2) .sts .l96 (forms 2 0 0 4 2 6 0) badSpad ∧
     Meets windowed .amo .l96 (forms 0 0 0 4 2 6 0) view ∧ Meets windowed .red .l96 (forms 0 0 0 0 2 6 0) view ∧
     Meets (rdo bare) .st .l96 (forms 2 0 0 4 2 6 0) (barred size off) ∧
     Meets (rdo bare) .red .l96 (forms 0 0 0 0 2 6 0) (fun c => barred word Ctx.a64 c ∧ ∀ i ∈ c.lanes, c.NoView c.a64)) ∧
    (let here (c : Ctx) : Prop := c.fork? = none ∧ c.lanes ≠ [] ∧ c.lanes.filter c.W.txLive = []
     let other (c : Ctx) : Prop := here c ∧ c.mx.owner ≠ some c.W.block
     (∀ x ∈ [(Op.mlds, Len.l64), (.mswap, .l64), (.mzero, .l64), (.mloop, .l96), (.mrd, .l64), (.mst, .l96), (.macc, .l96), (.mfence, .l64),
       (.mwait, .l64), (.mmeta, .l64)], Meets bare x.1 x.2 (regs 8 4 2 4) other) ∧
     Meets (owning (put 2 0 8)) .mzero .l64 (regs 0 2 0 0) (fun c => here c ∧ c.mx.owner = some c.W.block ∧ c.missing c.mxRecords = [] ∧
       (c.mxv.record = none ∨ tileOk c.tileWidth ((c.a c.lead).toNat % 8) = true) ∧ c.a c.lead >>> 3 ≠ 0) ∧
     Meets (owning (put 2 0 1)) .mwait .l64 (regs 0 2 0 0) (fun c => here c ∧ c.mx.owner = some c.W.block ∧ c.missing c.mxRecords = [] ∧
       ∀ b ∈ c.W.batches, c.W.batchNo ≥ b.1 + 16 ∨ b.1 % 2 ^ 16 ≠ (c.a c.lead).toNat % 2 ^ 16) ∧
     (let failed (f : Warp → Warp) : State := (owning f).modMx 1 (fun U => { U with err := some (8, 0x40) })
      let stands (c : Ctx) : Prop := here c ∧ c.mx.owner = some c.W.block ∧ c.s.shadow c.W.block = false ∧ c.s.buffered c.W = false ∧
        c.missing c.mxRecords = [] ∧ c.mx.err = some (8, 0x40)
      Meets (failed (fun W => { put 2 0 1 W with batches := [(1, [], 9)], batchNo := 1 })) .mwait .l64 (regs 0 2 0 0)
        (fun c => stands c ∧ c.batchOf.isSome = true) ∧
      Meets (failed id) .mrd .l64 (regs 8 2 0 0) (fun c => stands c ∧ c.a c.lead &&& 0xFFFFF880 = 0 ∧ c.mxv.record = none))) ∧
    (let here (c : Ctx) : Prop := c.fork? = none ∧ c.lanes ≠ [] ∧ c.lanes.filter c.W.txLive = []
     let handler (c : Ctx) : Prop := (c.s.block? c.W.block).any (fun B => B.handler == some c.k) = true
     let seq (c : Ctx) : Nat := mget 0 c.tap.seq c.W.block
     let idle (c : Ctx) : Prop := ∀ b, c.tap.binding = some b → b.block = c.W.block → b.current = none
     Meets (tapped { seq := [(2, 1)] }) .tapbind .l96 (regs 8 4 12 2) (fun c => here c ∧ (seq c = 1 ∨ seq c = 2)) ∧
     Meets bare .fgath .l64 (regs 0 0 0 0) (fun c => here c ∧ seq c ≠ 1) ∧ Meets bare .tapgo .l64 (regs 0 0 0 0) (fun c => here c ∧ seq c ≠ 2) ∧
     (∀ x ∈ [Op.tapwait, .fev, .frewr, .frel], Meets bare x .l64 (regs 8 2 0 0) (fun c => ¬ handler c)) ∧
     Meets (tapped {}) .frewr .l64 (regs 0 2 0 0) (fun c => here c ∧ handler c ∧ idle c) ∧
     Meets (tapped { binding := some bound }) .frel .l64 (regs 0 0 0 0) (fun c => here c ∧ handler c ∧ idle c) ∧
     (∃ tap reason req n rest, Meets ((tapped { binding := some bound }).modBlock 2 (fun B => { B with tapReports := [(0x40, 4, 0xFFFF, 2)] })) .tapwait .l64
       (regs 8 0 0 0) (fun c => here c ∧ handler c ∧ c.s.buffered c.W = false ∧ c.W.counter 6 = 0 ∧ c.reports = (tap, reason, req, n) :: rest)) ∧
     ∃ b row words rest, Meets (tapped { binding := some { bound with undelivered := [(3, [1, 2, 3, 4])] } }) .tapwait .l64 (regs 8 0 0 0)
       (fun c => here c ∧ handler c ∧ c.s.buffered c.W = false ∧ c.reports = [] ∧ c.tap.binding = some b ∧ b.block = c.W.block ∧
         b.undelivered = (row, words) :: rest)) ∧
    (let user (c : Ctx) : Prop := c.W.mode = .user
     (∀ x ∈ [(Op.tlbinv, Len.l96), (.ctxsv, .l96), (.ctxld, .l96), (.qend, .l64)], Meets bare x.1 x.2 (regs 8 2 4 6) user) ∧
     Meets bare .cacheop .l96 (forms 3 0 0 0 2 4 0) (fun c => user c ∧ c.mod % 4 = 3)) := by
  refine ⟨⟨⟨⟨rfl, clear_of rfl (by decide)⟩, by decide⟩, ⟨⟨rfl, clear_of rfl (by decide)⟩, by decide⟩, ⟨⟨rfl, clear_of rfl (by decide)⟩, by decide⟩, ⟨⟨rfl, clear_of rfl (by decide)⟩, by decide⟩, ⟨⟨rfl, clear_of rfl (by decide)⟩, by decide⟩, ⟨⟨rfl, clear_of rfl (by decide)⟩, by decide⟩, ⟨⟨rfl, clear_of rfl (by decide)⟩, by decide, by decide, by decide, ?_⟩, ⟨⟨rfl, clear_of rfl (by decide)⟩, by decide, by decide, by decide, ?_⟩,
     ⟨⟨rfl, clear_of rfl (by decide)⟩, by decide, by decide, by decide, ?_⟩, ⟨⟨rfl, clear_of rfl (by decide)⟩, ⟨by decide, by decide, by decide, ?_⟩, fun _ _ => by unfold Ctx.NoView; decide⟩⟩,
   ⟨?_, ⟨⟨rfl, clear_of rfl (by decide)⟩, by decide⟩, ⟨⟨rfl, clear_of rfl (by decide)⟩, by decide⟩,
    ⟨⟨rfl, clear_of rfl (by decide)⟩, by decide⟩, ⟨⟨rfl, clear_of rfl (by decide)⟩, by decide⟩⟩,
   ⟨⟨⟨rfl, clear_of rfl (by decide)⟩, by decide⟩, ⟨⟨rfl, clear_of rfl (by decide)⟩, by decide⟩, ⟨⟨rfl, clear_of rfl (by decide)⟩, by decide⟩, ?_, ⟨⟨rfl, clear_of rfl (by decide)⟩, by decide, by decide, fun b h _ => nomatch h⟩, ⟨⟨rfl, clear_of rfl (by decide)⟩, by decide, by decide, fun b h _ => by cases h; rfl⟩,
    ⟨_, _, _, _, _, ⟨rfl, clear_of rfl (by decide)⟩, by decide, by decide, by decide, by decide, rfl⟩,
    _, _, _, _, ⟨rfl, clear_of rfl (by decide)⟩, by decide, by decide, by decide, rfl, rfl, by decide, rfl⟩,
   ?_, ⟨⟨rfl, clear_of rfl (by decide)⟩, by decide⟩⟩
  · exact all_some (by decide)
  · exact all_some (by decide)
  · exact all_some (by decide)
  · exact all_some (by decide)
  · intro x h
    simp only [List.mem_cons, List.not_mem_nil, or_false] at h
    rcases h with rfl | rfl | rfl | rfl | rfl | rfl | rfl | rfl | rfl | rfl <;> exact ⟨⟨rfl, clear_of rfl (by decide)⟩, by decide⟩
  · intro x h
    simp only [List.mem_cons, List.not_mem_nil, or_false] at h
    rcases h with rfl | rfl | rfl | rfl <;> exact ⟨⟨rfl, clear_of rfl (by decide)⟩, by decide⟩
  · intro x h
    simp only [List.mem_cons, List.not_mem_nil, or_false] at h
    rcases h with rfl | rfl | rfl | rfl <;> exact ⟨⟨rfl, clear_of rfl (by decide)⟩, by decide⟩

/-! ### Graphs, collectives and the system -/

/-- A stream node whose record lies at 0x400 and whose queue lies at 0x800. -/
def streamNode : Node :=
  { ntype := 3, succ := [], live := 1, work := 0, addr := 0x400, inq := 0x800, ovf := 0, rsz := 16, cap := 4, ocap := 0, coal := 1, state := 1 }
/-- Its graph runs in the bare warp's queue. -/
def streaming (f : Warp → Warp) : State := { withWarp f with graphs := [(9, { queue := 0, pkt := 0, nodes := [streamNode] })] }

theorem witness_GraphInstructions :
    (let here (c : Ctx) : Prop := c.Plain ∧ c.lanes ≠ []
     let node (c : Ctx) : DWord := c.a64 c.lead
     let rec_ (c : Ctx) : DWord := c.a64 c.lead
     let sig (c : Ctx) : DWord := c.b64 c.lead
     let emits (c : Ctx) (i : Nat) (tr : Trans) (rsz : Nat) : Prop := c.Plain ∧ c.lanes = [i] ∧ c.W.counter 1 < 255 ∧
       (node c).toNat % 64 = 0 ∧ (node c).toNat < 2 ^ 48 ∧ c.trans (node c).toNat = some tr ∧
       (c.b i).toNat % 16 = 0 ∧ (c.b i).toNat + rsz ≤ c.s.spadSize c.W.block ∧ c.s.spadBad c.W.block (c.b i).toNat rsz = false
     let may (c : Ctx) : Prop := here c ∧ c.s.released c.k c.s.nextId 4 = true ∧ (rec_ c).toNat % 256 = 0 ∧ (sig c).toNat % 8 = 0 ∧
       (rec_ c).toNat < 2 ^ 48 ∧ (sig c).toNat < 2 ^ 48
     let place (x : Node) : Nat := x.inq.toNat + x.rsz * (x.nq % x.cap)
     let others (c : Ctx) : Prop := msorted c.s.warps = true ∧ ∀ x ∈ c.s.warps, x.1 = c.k ∨ x.2.launch ≠ c.W.launch ∨ x.2.ended = true ∨ x.2.ndone = true
     let full : State := { bare with parts := [(0, { dies := [0, 1, 2, 3], clusters := List.range 48, children := List.replicate 64 (1, 0, 0, 0) })] }
     (∃ i tr, Meets (withWarp lone) .emit .l96 (regs 4 2 6 0) (fun c => emits c i tr (leNat (c.s.bytesAt (tr.phys (node c).toNat + 0x20) 2)) ∧
       c.s.nodeAt (c.s.partOfWarp c.W) (tr.phys (node c).toNat) = none)) ∧
     (∃ i tr g n x Q pm, Meets (streaming (fun W => lone (put 2 0 0x400 W))) .emit .l96 (regs 4 2 6 0) (fun c => emits c i tr x.rsz ∧
       c.s.nodeAt (c.s.partOfWarp c.W) (tr.phys (node c).toNat) = some (g, n) ∧ c.s.node? g n = some x ∧ x.accepts = true ∧
       (mfind c.s.graphs g).map (·.queue) = some Q ∧ x.useQ < x.cap ∧ PlainMem c.s ∧
       c.missing (c.emitRanges.map (·.1)) = [] ∧ c.emitHeld = [] ∧
       ∀ j < x.rsz, (c.s.cached (c.s.queueCore Q) Q (place x + j)).map (fun t => t.phys (place x + j)) = some (pm + j) ∧ c.s.homeless (pm + j) = false)) ∧
     (∃ P, Meets bare .launch .l96 (regs 4 2 6 0) (fun c => may c ∧ mfind c.s.parts (c.s.partOfWarp c.W) = some P ∧ P.children.length < 64)) ∧
     (∃ P, Meets full .launch .l96 (regs 4 2 6 0) (fun c => may c ∧ mfind c.s.parts (c.s.partOfWarp c.W) = some P ∧ 64 ≤ P.children.length)) ∧
     Meets bare .sigadd .l96 (regs 0 2 6 0) (fun c => here c ∧ c.W.counter 1 < 255 ∧ c.s.released c.k c.s.nextId 6 = true ∧ c.Reach c.a64 8 true) ∧
     Meets bare .ndone .l64 (regs 0 0 0 0) (fun c => here c ∧ c.W.stream = none) ∧
     ∃ L g n q o x Q, Meets { streaming (fun W => { W with stream := some (9, 0) }) with
         launches := [(3, { bareLaunch 0 with stream := some (9, 0, 1, 0) })] } .ndone .l64 (regs 0 0 0 0)
       (fun c => here c ∧ c.W.stream.isSome = true ∧ others c ∧ mfind c.s.launches c.W.launch = some L ∧ L.stream = some (g, n, q, o) ∧
         c.s.node? g n = some x ∧ (mfind c.s.graphs g).map (·.queue) = some Q ∧ PlainMem c.s)) :=
  ⟨⟨_, _, ⟨rfl, clear_of rfl (by decide)⟩, ⟨plain_of (by decide), rfl, by decide, by decide, by decide, rfl, by decide, by decide, by decide⟩, by decide⟩,
   ⟨_, _, _, _, _, _, _, ⟨rfl, clear_of rfl (by decide)⟩, ⟨plain_of (by decide), rfl, by decide, by decide, by decide, rfl, by decide, by decide, by decide⟩, rfl, rfl, by decide, rfl, by decide, plainMem_of (by decide), by decide, by decide, (by decide : ∀ j < 16, _ = some (0x800 + j) ∧ _)⟩,
   ⟨_, ⟨rfl, clear_of rfl (by decide)⟩, ⟨⟨plain_of (by decide), by decide⟩, by decide, by decide, by decide, by decide, by decide⟩, rfl, by decide⟩, ⟨_, ⟨rfl, clear_of rfl (by decide)⟩, ⟨⟨plain_of (by decide), by decide⟩, by decide, by decide, by decide, by decide, by decide⟩, rfl, by decide⟩,
   ⟨⟨rfl, clear_of rfl (by decide)⟩, ⟨plain_of (by decide), by decide⟩, by decide, by decide, reach_of (by decide)⟩, ⟨⟨rfl, clear_of rfl (by decide)⟩, ⟨plain_of (by decide), by decide⟩, by decide⟩, ⟨_, _, _, _, _, _, _, ⟨rfl, clear_of rfl (by decide)⟩, ⟨plain_of (by decide), by decide⟩, by decide, by decide, rfl, rfl, rfl, rfl, plainMem_of (by decide)⟩⟩

/-- The bare warp in a package that is a member of view 0 alone, with communicator 0 of it at address 0. -/
def member (f : Warp → Warp) : State :=
  { (withWarp f).homePut 0x20 [1] with zinc := { bare.zinc with member := true, bitmap := [0], ranks := [0] } }

theorem witness_ViewRead : Meets (member id) .viewrd .l64 (regs 1 3 0 0) (fun c => c.w.a.bits.toNat ≤ 4 ∧ c.s.zinc.member = true) ∧
    Meets bare .viewrd .l64 (regs 1 0 0 0) (fun c => c.s.zinc.member = false) ∧
    Meets (member id) .viewrd .l64 (regs 1 15 0 0) (fun c => 8 ≤ c.w.a.bits.toNat ∧ c.w.a.bits.toNat < 16 ∧ c.s.zinc.member = true) ∧
    (Op.fieldsOk .viewrd (regs 1 15 0 0) = true ∧ Op.fieldsOk .viewrd (regs 1 5 0 0) = false) :=
  ⟨⟨⟨rfl, clear_of rfl (by decide)⟩, by decide⟩, ⟨⟨rfl, clear_of rfl (by decide)⟩, by decide⟩, ⟨⟨rfl, clear_of rfl (by decide)⟩, by decide⟩, by decide⟩

/-- A CBCST of 4 bytes of view 7, under number 9. -/
def broadcast (stage : Nat) : Engine :=
  { op := .coll 2 0 0 0 0x20000 4 0 3 1 0 1 7 1 [0], warp := 1, block := 2, cls := 5, stage := stage, sent := true, status := 0 }

theorem witness_Collectives :
    (let here (c : Ctx) : Prop := c.Plain ∧ c.lanes ≠ []
     let a (c : Ctx) : DWord := c.a64 c.lead
     let ticket (e : Engine) (outs : List (Nat × Nat × Bool)) : State :=
       { member (fun W => { put 2 0 1 W with ticket := 1, tickets := [(1, 9)], outs := outs }) with
         engines := [(9, { e with op := .coll 2 0 0 0 0x20000 4 0 0 1 0 1 0 1 [0] })] }
     (∀ x ∈ [(Op.cred), .cgath, .cbcst, .ca2a], ∃ y, Meets (member id) x .l128 (regs 8 2 4 6) (fun c => here c ∧ c.W.counter 5 < 15 ∧ c.comm? = some y ∧
       c.missing [(a c).toNat] = [] ∧ (kitOf x).word c = [] ∧ (kitOf x).check c = [])) ∧
     (∃ op e, Meets (ticket (broadcast 2) []) .cwait .l64 (regs 4 2 0 0) (fun c => here c ∧ c.ticketOp = some (op, e) ∧ e.stage = 2 ∧
       (∀ o ∈ c.W.outs, o.2.1 ≠ op) ∧ c.missing [e.commOf.toNat] = [] ∧ (kitOf c.op).check c = [])) ∧
     (∃ op e, Meets (ticket (broadcast 1) [(5, 9, false)]) .cwait .l64 (regs 4 2 0 0) (fun c => here c ∧ c.ticketOp = some (op, e) ∧
       (e.stage ≠ 2 ∨ ∃ o ∈ c.W.outs, o.2.1 = op) ∧ c.missing [e.commOf.toNat] = [] ∧ (kitOf c.op).check c = [])) ∧
     Meets bare .vjoin .l64 (regs 4 0 0 0) (fun c => here c ∧ c.W.counter 1 < 255 ∧ c.s.zinc.member = false ∧ c.s.zinc.joining = false) ∧
     Meets (member id) .vjoin .l64 (regs 4 0 0 0) (fun c => here c ∧ c.W.counter 1 < 255 ∧ c.s.zinc.member = true) ∧
     ∃ x tr, Meets (member id) .vack .l64 (regs 0 2 4 0) (fun c => here c ∧ c.W.counter 1 < 255 ∧ c.s.zinc.member = true ∧ (c.b c.lead).toNat = c.s.zinc.view ∧
       (a c).toNat % 64 = 0 ∧ (a c).toNat < 2 ^ 48 ∧ c.trans (a c).toNat = some tr ∧ tr.rdo = false ∧ c.comm? = some x ∧
       ∀ e ∈ c.s.engines, e.2.reweigh = false)) :=
  ⟨fun x h => by
      simp only [List.mem_cons, List.not_mem_nil, or_false] at h
      rcases h with rfl | rfl | rfl | rfl <;>
        exact ⟨_, ⟨rfl, clear_of rfl (by decide)⟩, ⟨plain_of (by decide), by decide⟩, by decide, rfl, by decide, by decide, by decide⟩,
   ⟨_, _, ⟨rfl, clear_of rfl (by decide)⟩, ⟨plain_of (by decide), by decide⟩, rfl, by decide, by decide, by decide, by decide⟩, ⟨_, _, ⟨rfl, clear_of rfl (by decide)⟩, ⟨plain_of (by decide), by decide⟩, rfl, by decide, by decide, by decide⟩, ⟨⟨rfl, clear_of rfl (by decide)⟩, ⟨plain_of (by decide), by decide⟩, by decide, by decide, by decide⟩, ⟨⟨rfl, clear_of rfl (by decide)⟩, ⟨plain_of (by decide), by decide⟩, by decide, by decide⟩,
   ⟨_, _, ⟨rfl, clear_of rfl (by decide)⟩, ⟨plain_of (by decide), by decide⟩, by decide, by decide, by decide, by decide, by decide, rfl, by decide, rfl, fun _ h => nomatch h⟩⟩

/-- The same operation of another kind over elements of one byte, or of one FP32 word for a CRED. -/
def collective (kind : Nat) (sent : Bool) : Engine :=
  { broadcast 1 with op := .coll kind 0 0 0 0x20000 (if kind = 0 then 1 else 4) 0 3 1 0 1 7 1 [0], sent := sent }
/-- A contribution to it. -/
def contribution (kind : Nat) : CollMsg :=
  { view := 7, cid := 3, op := 1, rank := 0, parms := [kind, 0, if kind = 0 then 1 else 4, 0], data := [1, 2, 3, 4] }
/-- A machine that is alone in view 7, where it stands at the first operation of its communicator. -/
def collecting (e : Engine) (inbox : List CollMsg) : State :=
  { withWarp (fun W => { W with outs := [(5, 9, false)] }) with
    engines := [(9, e)]
    zinc := { bare.zinc with member := true, view := 7, bitmap := [0], ranks := [0], acked := [(7 * 64 + 3, [0])], inbox := inbox } }

theorem witness_CollectiveEvents :
    let m : CollMsg := contribution 2
    let s : State := collecting (collective 2 true) [m]
    (let z : Zinc := (collecting (collective 2 true) []).zinc
     z.member = true ∧ m.view = z.view ∧ mget 1 z.expect m.cid ≤ m.op ∧ ∀ x ∈ z.inbox, x.cid ≠ m.cid ∨ x.op ≠ m.op ∨ x.rank ≠ m.rank ∨ x.ack ≠ m.ack) ∧
    (∃ x ∈ s.zinc.inbox, x.cid = m.cid ∧ x.op = m.op ∧ x.rank = m.rank ∧ x.ack = m.ack) ∧
    (bare.zinc.member = false ∨ m.view ≠ bare.zinc.view ∨ m.op < mget 1 bare.zinc.expect m.cid) ∧
    (let ready (s : State) (e : Engine) (W : Warp) : Prop := mfind s.engines 9 = some e ∧ mfind s.warps 1 = some W ∧ e.cls = 5 ∧ e.stage = 1 ∧
       e.reweigh = false ∧ e.mirror = none ∧ e.status = 0 ∧ s.buffered W = false ∧ s.watched 1 = false ∧ s.badSectors = [] ∧
       s.badHbm = [] ∧ s.holds = [] ∧ PlainMem s ∧ W.outs = [(5, 9, false)] ∧ (∀ f ∈ s.flights, f.2.warp ≠ 1) ∧ s.zinc.member = true ∧ s.zinc.view = 7 ∧
       mget 1 s.zinc.expect 3 = 1 ∧ (∀ p ∈ [0], p ∈ mget [] s.zinc.acked (7 * 64 + 3))
     (∀ kind ∈ [0, 1, 2, 3], ∃ W, ready (collecting (collective kind false) []) (collective kind false) W ∧
       (collecting (collective kind false) []).fetchLacks 1 [] [(0, 4)] = []) ∧
     ∀ kind ∈ [0, 1, 2, 3], let s := collecting (collective kind true) [contribution kind]
       ∃ W, ready s (collective kind true) W ∧
         (∀ x ∈ s.zinc.inbox, x.cid = 3 ∧ x.op = 1 ∧ (x.ack = false → x.parms = [kind, 0, if kind = 0 then 1 else 4, 0])) ∧
         (∀ j < 1, s.zinc.inbox.find? (fun x => x.rank == j && !x.ack) = some (contribution kind) ∧ (contribution kind).bad = [] ∧
           (contribution kind).data.length = 4) ∧ (0x20000 : DWord).toNat + 4 ≤ 2 ^ 48 ∧
         ∀ j < 4, s.engTrans (collective kind true) (0x20000 + j) = some flat ∧ flat.rdo = false ∧ flat.phys (0x20000 + j) = 0x20000 + j ∧
           s.homeless (0x20000 + j) = false) := by
  refine ⟨by decide, by decide, by decide, fun kind h => ?_, fun kind h => ?_⟩ <;>
    simp only [List.mem_cons, List.not_mem_nil, or_false] at h <;> rcases h with rfl | rfl | rfl | rfl <;>
    first
      | exact ⟨_, ⟨rfl, rfl, rfl, rfl, rfl, rfl, rfl, by decide, by decide, rfl, rfl, rfl, plainMem_of (by decide), rfl, by decide, rfl, rfl, by decide, by decide⟩, by decide⟩
      | exact ⟨_, ⟨rfl, rfl, rfl, rfl, rfl, rfl, rfl, by decide, by decide, rfl, rfl, rfl, plainMem_of (by decide), rfl, by decide, rfl, rfl, by decide, by decide⟩,
          by decide, by decide, by decide, by decide⟩

/-- The bare warp in a handler. -/
def handling (f : Warp → Warp) : State := withWarp (fun W => f { W with wctl := 8, savePc := W.slices })

theorem witness_ControlWords :
    Meets bare .ctlr .l64 (regs 4 0x10 0 0) (fun c => c.w.a.bits.toNat ≤ 0x10) ∧
    Meets bare .ctlr .l64 (regs 4 0x24 0 0) (fun c => 0x20 ≤ c.w.a.bits.toNat ∧ c.w.a.bits.toNat ≤ 0x26 ∧ (c.w.a.bits.toNat = 0x24 → c.W.detlvl = 0)) ∧
    Meets (withWarp (fun W => { W with detlvl := 1 })) .ctlr .l64 (regs 4 0x24 0 0) (fun c => c.w.a.bits.toNat = 0x24 ∧ c.W.detlvl ≠ 0) ∧
    Meets bare .ctlw .l64 (regs 0 2 0x08 0) (fun c => (c.Plain ∧ c.lanes ≠ []) ∧ c.w.b.bits.toNat = 0x08) ∧
    Meets bare .ctlw .l64 (regs 0 2 0x09 0) (fun c => (c.Plain ∧ c.lanes ≠ []) ∧ c.w.b.bits.toNat = 0x09) ∧
    Meets (handling id) .ctlw .l64 (regs 0 2 0x20 0) (fun c => (c.Plain ∧ c.lanes ≠ []) ∧ c.w.b.bits.toNat = 0x20 ∧ c.W.tmode = true) ∧
    Meets bare .ctlw .l64 (regs 0 2 0x20 0) (fun c => c.w.b.bits.toNat = 0x20 ∧ c.W.tmode = false) :=
  ⟨⟨⟨rfl, clear_of rfl (by decide)⟩, by decide⟩, ⟨⟨rfl, clear_of rfl (by decide)⟩, by decide⟩, ⟨⟨rfl, clear_of rfl (by decide)⟩, by decide⟩, ⟨⟨rfl, clear_of rfl (by decide)⟩, ⟨plain_of (by decide), by decide⟩, by decide⟩, ⟨⟨rfl, clear_of rfl (by decide)⟩, ⟨plain_of (by decide), by decide⟩, by decide⟩, ⟨⟨rfl, clear_of rfl (by decide)⟩, ⟨plain_of (by decide), by decide⟩, by decide⟩, ⟨⟨rfl, clear_of rfl (by decide)⟩, by decide⟩⟩

/-- The bare warp in firmware mode. -/
def firm (f : Warp → Warp) : State := withWarp (fun W => f { W with mode := .firmware })
/-- A block that has been saved, of no warps. -/
def away : Block := { bareBlock 3 9 with warps := [], resident := false }
/-- A warp whose earlier read has returned. -/
def readBack : State := withWarp (fun W => W.onSlices 0xFF (fun x => { x with wait := some (.fence none true 0), woken := true }))

theorem witness_SystemInstructions :
    (let here (c : Ctx) : Prop := c.Plain ∧ c.lanes ≠ []
     let fw (c : Ctx) : Prop := here c ∧ c.W.mode = .firmware
     let a (c : Ctx) : Nat := (c.a64 c.lead).toNat
     let area (c : Ctx) : Prop := fw c ∧ a c % 4096 = 0 ∧ a c < 2 ^ 48
     let sel (c : Ctx) : Prop := fw c ∧ ((c.b c.lead).extractLsb' 0 8).toNat ≤ 191 ∧ c.b c.lead >>> 13 = 0
     let line (c : Ctx) : Nat := a c / 128 * 128
     let saved : State := { firm (fun W => put 2 0 0x10000 (put 4 0 7 W)) with
       blocks := bare.blocks ++ [(5, away)], contexts := [(0x10000, { block := 5, mx := none, tap := none })] }
     let saved : State := saved.homePut 0x10000 ((saved.contextHeader away).take 12)
     let open_ : State := { firm id with queues := [(0, { bareQueue with open_ := [0] })] }
     Meets (firm id) .tlbinv .l96 (regs 0 2 4 6) (fun c => fw c ∧ c.s.walks = [] ∧ c.s.released c.k c.s.nextId 4 = true ∧
       (c.mod % 4 < 2 → (c.c c.lead).toNat ≤ 4095)) ∧
     (∃ tr, Meets (withWarp (put 4 0 128)) .cacheop .l96 (forms 2 0 0 0 2 4 0) (fun c => here c ∧ c.mod % 4 ≤ 2 ∧ a c < 2 ^ 48 ∧
       c.s.storesOut c.k c.s.nextId = false ∧ 0 < (c.b c.lead).toNat ∧ a c % 128 + (c.b c.lead).toNat ≤ 128 ∧ c.trans (line c) = some tr ∧ PlainMem c.s)) ∧
     Meets (firm (fun W => put 2 0 5 (put 4 0 2 W))) .ctxsv .l96 (regs 8 2 4 0) (fun c => sel c ∧ ∀ b ∈ c.s.blocks, b.2.alive = true → b.2.resident = true →
       b.2.core = c.W.core / 192 * 192 + ((c.b c.lead).extractLsb' 0 8).toNat → b.2.slot ≠ ((c.b c.lead).extractLsb' 8 5).toNat) ∧
     (∃ b, Meets (firm (put 4 0 1)) .ctxsv .l96 (regs 8 2 4 0) (fun c => sel c ∧ area c ∧ c.selBlock = some b ∧ (let s := (c.s.stopBlock b).abortTxs b
       s.drained b = true ∧ ((s.abortBlock b).block? b).any (·.alive) = true))) ∧
     Meets (firm id) .ctxld .l96 (regs 8 2 4 0) (fun c => area c ∧ (c.b c.lead).toNat ≤ 191 ∧ (c.s.contextAt (a c) = none ∨ c.s.loadBlock c.trans (c.W.core / 192 * 192 + (c.b c.lead).toNat) (a c) = none)) ∧
     (∃ s', Meets saved .ctxld .l96 (regs 8 2 4 0) (fun c => area c ∧ (c.b c.lead).toNat ≤ 191 ∧
       c.s.loadBlock c.trans (c.W.core / 192 * 192 + (c.b c.lead).toNat) (a c) = some s')) ∧
     (∃ Q n, Meets open_ .qend .l64 (regs 0 2 4 0) (fun c => fw c ∧ c.W.counter 1 < 255 ∧ mfind c.s.queues (c.a c.lead).toNat = some Q ∧ Q.open_ = [n] ∧
       n % 2 ^ 32 = (c.b c.lead).toNat ∧ Q.sigs = [] ∧ Q.done = [] ∧ Q.rptr = BitVec.ofNat 64 n)) ∧
     Meets (firm id) .qend .l64 (regs 0 2 4 0) (fun c => fw c ∧ c.W.counter 1 < 255 ∧ ∀ Q, mfind c.s.queues (c.a c.lead).toNat = some Q → ∀ n ∈ Q.open_, n % 2 ^ 32 ≠ (c.b c.lead).toNat) ∧
     Meets readBack .sigr .l64 (regs 4 2 0 0) (fun c => here c ∧ c.Reach c.a64 8 false ∧ ∃ n, c.wake = some (.fence none true n)) ∧
     Meets bare .sigr .l64 (regs 4 2 0 0) (fun c => here c ∧ c.Reach c.a64 8 false ∧ c.W.counter 0 < 255 ∧ c.wake = none) ∧
     (∃ tr, Meets bare .rasw .l96 (regs 0 2 0 0) (fun c => here c ∧ c.W.counter 1 < 255 ∧ c.W.mode = .user ∧ a c % 64 = 0 ∧ a c < 2 ^ 48 ∧ (∀ f ∈ c.s.flights, f.2.warp ≠ c.k) ∧
       ∀ j < 64, c.s.cached c.W.core c.W.queue (a c + j) = some tr)) ∧
     Meets bare .halt .l64 (regs 0 0 0 0) (fun c => here c ∧ c.W.ended = false ∧ ∀ L, mfind c.s.launches c.W.launch = some L → L.redund = false ∧ L.stream = none)) :=
  ⟨⟨⟨rfl, clear_of rfl (by decide)⟩, ⟨⟨plain_of (by decide), by decide⟩, by decide⟩, by decide, by decide, by decide⟩, ⟨_, ⟨rfl, clear_of rfl (by decide)⟩, ⟨plain_of (by decide), by decide⟩, by decide, by decide, by decide, by decide, by decide, rfl, plainMem_of (by decide)⟩,
   ⟨⟨rfl, clear_of rfl (by decide)⟩, ⟨⟨⟨plain_of (by decide), by decide⟩, by decide⟩, by decide, by decide⟩, by decide⟩, ⟨_, ⟨rfl, clear_of rfl (by decide)⟩, ⟨⟨⟨plain_of (by decide), by decide⟩, by decide⟩, by decide, by decide⟩, ⟨⟨⟨plain_of (by decide), by decide⟩, by decide⟩, by decide, by decide⟩, rfl, by decide⟩,
   ⟨⟨rfl, clear_of rfl (by decide)⟩, ⟨⟨⟨plain_of (by decide), by decide⟩, by decide⟩, by decide, by decide⟩, by decide, .inl rfl⟩, ⟨_, ⟨rfl, clear_of rfl (by decide)⟩, ⟨⟨⟨plain_of (by decide), by decide⟩, by decide⟩, by decide, by decide⟩, by decide, rfl⟩,
   ⟨_, _, ⟨rfl, clear_of rfl (by decide)⟩, ⟨⟨plain_of (by decide), by decide⟩, by decide⟩, by decide, rfl, rfl, by decide, rfl, rfl, rfl⟩, ⟨⟨rfl, clear_of rfl (by decide)⟩, ⟨⟨plain_of (by decide), by decide⟩, by decide⟩, by decide, fun Q h => by cases h; decide⟩,
   ⟨⟨rfl, clear_of rfl (by decide)⟩, ⟨plain_of (by decide), by decide⟩, reach_of (by decide), _, rfl⟩, ⟨⟨rfl, clear_of rfl (by decide)⟩, ⟨plain_of (by decide), by decide⟩, reach_of (by decide), by decide, by decide⟩, ⟨flat, ⟨rfl, clear_of rfl (by decide)⟩, ⟨plain_of (by decide), by decide⟩, by decide, by decide, by decide, by decide, fun _ h => (by nomatch h), by decide⟩,
   ⟨⟨rfl, clear_of rfl (by decide)⟩, ⟨plain_of (by decide), by decide⟩, by decide, fun L h => by cases h; exact ⟨rfl, rfl⟩⟩⟩

/-- The header of a code object for a handler of 16 registers whose entry is at `+0x80`. -/
def handlerHead : List Byte :=
  leBytes 4 0x314F5A4B ++ leBytes 4 0x0100 ++ leBytes 4 0x80 ++ leBytes 4 0x20 ++ leBytes 4 16 ++ List.replicate 108 0
/-- A handler for cause 0x60 is registered at 0x40000. -/
def registered (s : State) : State := (s.homePut 0x300 (leBytes 8 0x40000)).homePut 0x40000 handlerHead

theorem witness_Traps :
    (∃ W Q h b H, mfind (registered bare).warps 1 = some W ∧ W.tmode = false ∧ W.tx = none ∧ 0x60 < 0x100 ∧ mfind (registered bare).queues W.queue = some Q ∧
      (registered bare).virtNat W.queue (Q.handlers.toNat + 8 * 0x60) 8 = some h ∧ h ≠ 0 ∧ (registered bare).virtBytes W.queue h 128 = some b ∧
      codeHead b = some H ∧ H.regs ≤ W.regCount ∧ (∀ x ∈ W.slices, x.tests = none) ∧ W.ended = false ∧ W.twinOf = none) ∧
    (let s := registered (withWarp (fun W => W.onSlices 0xFF (fun x => { x with wait := some (.words [(0, 0x100, 0x100, 5)] none 3 4 0x10010) })))
     ∃ W entry n x l dst next, mfind s.warps 1 = some W ∧ W.slices.length ≤ 16 ∧ W.tx = none ∧ W.pend = [] ∧ s.handlerFor W 0x60 = .ok (entry, n) ∧
       s.testsBad 1 = none ∧ W.slices[0]? = some x ∧ x.tests = some (l, dst, next) ∧ ∀ y ∈ l, y.1 / 4 = 0 ∧ ∀ z ∈ l, z.1 = y.1 → z = y) ∧
    (let acts (c : Ctx) (i l : Nat) : Prop := i ∈ maskSlices c.m ∧ c.lanes.find? (fun x => x / 4 == i) = some l ∧ ∀ x ∈ c.lanes, i ≤ x / 4
     let handler (c : Ctx) (cause : Nat) (entry : DWord) : Prop := ∃ Q h b H, mfind c.s.queues c.W.queue = some Q ∧
       c.s.virtNat c.W.queue (Q.handlers.toNat + 8 * cause) 8 = some h ∧ h ≠ 0 ∧ c.s.virtBytes c.W.queue h 128 = some b ∧
       codeHead b = some H ∧ H.regs ≤ c.W.regCount ∧ entry = BitVec.ofNat 64 (h + H.entry)
     (∃ i l entry, Meets (registered bare) .trap .l64 (regs 0 7 0 0) (fun c => c.Plain ∧ acts c i l ∧ c.W.tmode = false ∧ c.W.held = [] ∧ handler c 0x60 entry ∧ ∀ x ∈ c.W.slices, x.tests = none)) ∧
     Meets (handling (fun W => { W with shadow := [(64, 5)] })) .eret .l64 (regs 0 0 0 0) (fun c => c.Plain ∧ c.lanes ≠ [] ∧ c.W.tmode = true ∧ c.W.latched = [] ∧
       c.W.savePc.length = c.W.slices.length ∧ msorted c.W.shadow = true ∧ (∀ e ∈ c.W.shadow, e.1 < 256) ∧ ∀ h ∈ c.s.holds, h.2.1 ≠ c.k) ∧
     Meets bare .eret .l64 (regs 0 0 0 0) (fun c => c.W.tmode = false ∧ c.W.mode = .user)) ∧
    ((handling id).warp 1).tmode = true ∧
    (bare.virtNat 0 (bareQueue.handlers.toNat + 8 * 0x60) 8 = some 0 ∧ (bare.warp 1).ended = false ∧ (bare.warp 1).twinOf = none ∧
      ∀ L, mfind bare.launches (bare.warp 1).launch = some L → L.redund = false) ∧
    (let s := bare.homePut 0x300 (leBytes 8 0x40000)
     ∃ h b, s.virtNat 0 (bareQueue.handlers.toNat + 8 * 0x60) 8 = some h ∧ h ≠ 0 ∧ s.virtBytes 0 h 128 = some b ∧ codeHead b = none) :=
  ⟨⟨_, _, _, _, _, rfl, by decide, rfl, by decide, rfl, rfl, by decide, rfl, rfl, by decide, by decide, by decide, by decide⟩,
   ⟨_, _, _, _, _, _, _, rfl, by decide, rfl, rfl, rfl, by decide, rfl, rfl, by decide⟩,
   ⟨⟨0, 0, _, ⟨rfl, clear_of rfl (by decide)⟩, plain_of (by decide), ⟨by decide, by decide, by decide⟩, by decide, by decide, ⟨_, _, _, _, rfl, rfl, by decide, rfl, rfl, by decide, rfl⟩, by decide⟩, ⟨⟨rfl, clear_of rfl (by decide)⟩, plain_of (by decide), by decide, by decide, by decide, by decide, by decide, by decide, fun _ h => nomatch h⟩, ⟨⟨rfl, clear_of rfl (by decide)⟩, by decide, by decide⟩⟩,
   by decide, ⟨by decide, by decide, by decide, fun L h => by cases h; rfl⟩, ⟨_, _, rfl, by decide, rfl, by decide⟩⟩

/-! ### Events -/

/-- The bare state with every slice of its warp waiting. -/
def waiting (c : Cond) : State := withWarp (fun W => W.onSlices 0xFF (fun x => { x with wait := some c }))

theorem witness_WaitEvents :
    (∃ W, mfind (waiting (.regang 0x10000 0xFF)).warps 1 = some W ∧ W.slices.length ≤ 16 ∧ (W.slice 0).wait = some (.regang 0x10000 0xFF) ∧
      (W.slice 0).exited = false ∧ ∀ j < 16, inMask (0xFF : BitVec 16) j = true → (W.slice j).exited = true ∨ (W.slice j).wait = some (.regang 0x10000 0xFF)) ∧
    (let full : State := inPhase { used := true, expect := 1, arrived := [1] }
     let open_ : State := inPhase { used := true, expect := 2, arrived := [1] }
     let parted : State := inPhase { used := true, expect := 1, arrived := [1], here := [(1, 1)] }
     ((parted.bar 2 2).here ≠ [] ∧ (parted.bar 2 2).expect ≠ 0) ∧ ∃ B C, mfind full.blocks 2 = some B ∧ msorted full.warps = true ∧ (B.bar 2).used = true ∧ (∀ k ∈ (B.bar 2).arrived, full.buffered (full.warp k) = false) ∧
       (B.bar 2).expect ≠ 0 ∧ (B.bar 2).expect ≤ (B.bar 2).arrived.length ∧ mfind open_.blocks 2 = some C ∧ ¬ (C.bar 2).expect ≤ (C.bar 2).arrived.length) ∧
    (let V : Warp := { bareWarp 0 2 3 with working := [(0, 256)] }
     let s : State := withWarp (fun W => { W with working := [(0, 8)], fast := false })
     let t : State := { s with warps := s.warps ++ [(7, V)] }
     ∃ W, mfind s.warps 1 = some W ∧ msorted s.warps = true ∧ W.fast = false ∧ W.ended = false ∧ s.resident W = true ∧
       ((s.setsHeld W.slotNo).map (fun x => x.2.setBytes)).sum + W.setBytes ≤ 32768 ∧ msorted t.warps = true ∧ t.resident W = true ∧
       t.setsHeld W.slotNo = [(7, V)] ∧ V.fresh = false ∧ 32768 < V.setBytes + W.setBytes ∧ W.setBytes ≤ 32768) ∧
    (∃ W, mfind (waiting (.fence (some 4) true 9)).warps 1 = some W ∧ (W.slice 0).wait = some (.fence (some 4) true 9) ∧
      (waiting (.fence (some 4) true 9)).released 1 9 4 = true ∧ (waiting (.fence (some 4) true 9)).readsOut 1 9 = false) ∧
    (∃ W, mfind (waiting (.words [(0, 0, 0, 0)] (some 0) 3 4 0x10010)).warps 1 = some W ∧ (waiting (.words [(0, 0, 0, 0)] (some 0) 3 4 0x10010)).buffered W = false ∧
      (W.slice 0).wait = some (.words [(0, 0, 0, 0)] (some 0) 3 4 0x10010) ∧ (0 : DWord) ≤ (waiting (.words [(0, 0, 0, 0)] (some 0) 3 4 0x10010)).dieTime (W.core / 192)) ∧
    (let P (l : List Nat) : Partition := { dies := [0], clusters := [0], gpNow := some 1, gpWait := l }
     let s (l : List Nat) : State := { withWarp (fun W => { W with quiet := 1 }) with parts := [(0, P l)] }
     let d : State := { (pooled (s []) 0x80).modDie 0 (fun D => { D with dfree := [(0x40, 0, 1, 0, 3)] }) with parts := [(0, P [])] }
     (s [1]).inGpwait 1 = false ∧ (∀ f ∈ (s [1]).faults, f.pool = none) ∧ mfind d.parts 0 = some (P []) ∧
       (d.die 0).dfree = [(0x40, 0, 1, 0, 3)] ∧ (∀ j < 8, d.homeless (flat.phys (0x40 : DWord).toNat + j) = false) ∧ d.look (mget 0 (d.die 0).poolQref 0).toNat (0x40 : DWord).toNat = some flat ∧
       plainOk d = true) ∧
    (let s : State := withWarp (fun W => { W with watchdog := 2 ^ 32 })
     ∃ W, mfind s.warps 1 = some W ∧ W.ended = false ∧ W.started = true ∧ W.forks = [] ∧ (s.die (W.core / 192)).wdogCfg.getLsbD 31 = true ∧
       2 ^ (max 20 (min 40 ((s.die (W.core / 192)).wdogCfg.extractLsb' 0 6).toNat)) ≤ W.watchdog) :=
  ⟨⟨_, rfl, by decide, rfl, by decide, by decide⟩, ⟨by decide, _, _, rfl, by decide, by decide, by decide, by decide, by decide, rfl, by decide⟩, ⟨_, rfl, by decide, by decide, by decide, by decide, by decide, by decide, by decide, by decide, by decide, by decide, by decide⟩,
   ⟨_, rfl, rfl, by decide, by decide⟩, ⟨_, rfl, by decide, rfl, by decide⟩, by decide, ⟨_, rfl, by decide, by decide, by decide, by decide, by decide⟩⟩

/-- A store, an atomic or a load of the bare warp on its way as operation 9 of class `cls`. -/
def flying (cls : Nat) (land : Landing) (a : Access) : State :=
  { withWarp (fun W => { W with outs := [(cls, 9, false)] }) with flights := [(9, { warp := 1, cls := cls, accs := [a], dst := 4, land := land })] }

theorem witness_MemoryEvents :
    (let quiet (s : State) (F : Flight) : Prop := s.watched F.warp = false ∧ s.badSectors = [] ∧ s.badHbm = [] ∧ plainOk s = true ∧ s.holds = [] ∧
       s.buffered (s.warp F.warp) = false ∧ (s.warp F.warp).tx = none ∧ (s.warp F.warp).ended = false ∧ (s.warp F.warp).killed = false
     let close (s : State) (W : Warp) (a : Access) : Prop := packageOf a.pa = s.zinc.self ∧ s.homeDie a.pa = W.core / 192 ∧ inHostWindow a.pa = false ∧
       ∀ j < 128, s.homeless (a.pa + j) = false
     (∀ a ∈ ([{ lane := 0, va := 0, pa := 0, n := 2, op := .write [1, 2] }, { lane := 0, va := 0, pa := 0, n := 8, op := .rmw 9 true 5 0 }] : List Access),
       ∃ F, mfind (flying 1 .none a).flights 9 = some F ∧ F.accs[0]? = some a ∧ a.done = false ∧ F.held = false ∧ a.stores = true ∧ a.adpq = false ∧ F.inOrder = false ∧
         quiet (flying 1 .none a) F ∧ (flying 1 .none a).behind 9 0 a F.warp = false ∧ close (flying 1 .none a) ((flying 1 .none a).warp F.warp) a) ∧
     (let a : Access := { lane := 0, va := 0, pa := 0, n := 4, op := .read }
      let s : State := { flying 0 (.ext 2) a with copies := [(copyKey 1 0, ⟨List.replicate 32 7, 100, false, 0, 0, none⟩)] }
      ∃ F, mfind s.flights 9 = some F ∧ F.accs = [a] ∧ F.held = false ∧ quiet s F ∧ s.behind 9 0 a F.warp = false ∧ close s (s.warp F.warp) a ∧
        mfind s.copies (copyKey (s.warp F.warp).core (a.pa / 32)) = some ⟨List.replicate 32 7, 100, false, 0, 0, none⟩ ∧ (s.dieTime 0).toNat < (100 : DWord).toNat ∧
        mfind (flying 0 (.ext 2) a).copies (copyKey ((flying 0 (.ext 2) a).warp F.warp).core (a.pa / 32)) = none ∧
        (((flying 0 (.ext 2) a).die 0).leaseCls a.lc).extractLsb' 0 20 ≠ 0)) ∧
    (let a : Access := { lane := 3, va := 0, pa := 0, n := 4, op := .read, done := true, value := [1, 2, 3, 4] }
     ∃ F W, mfind (flying 0 (.ext 2) a).flights 9 = some F ∧ mfind (flying 0 (.ext 2) a).warps F.warp = some W ∧ F.round = false ∧ W.ended = false ∧
       (flying 0 (.ext 2) a).buffered W = false ∧ F.cls = 0 ∧ F.ready = true ∧ F.held = false ∧ F.vals = [] ∧ F.land = .ext 2 ∧ W.outs = [(0, 9, false)] ∧
       mfind (flying 0 (.ext 2) a).engines 9 = none) ∧
    (let a : Access := { lane := 3, va := 0, pa := 0, n := 4, op := .write [1], done := true }
     ∃ F W, mfind (flying 1 .none a).flights 9 = some F ∧ mfind (flying 1 .none a).warps F.warp = some W ∧ F.round = false ∧ W.ended = false ∧
       (flying 1 .none a).buffered W = false ∧ F.cls = 1 ∧ F.land = .none ∧ W.quietDue = [] ∧ W.forks = [] ∧ W.outs = [(1, 9, false)] ∧ mfind (flying 1 .none a).engines 9 = none) ∧
    (let s : State := { bare with copies := [(0, ⟨[], 0, false, 0, 0, none⟩), (1, ⟨[], 1, false, 0, 0, none⟩)] }
     (s.copies[0]? = some (0, ⟨[], 0, false, 0, 0, none⟩) ∧ (0 : DWord) ≤ s.dieTime 0) ∧ s.copies[1]? = some (1, ⟨[], 1, false, 0, 0, none⟩) ∧ s.dieTime 0 < (1 : DWord)) ∧
    (∃ l, ({ bare with walks := [⟨0, 5, 1, [1]⟩] } : State).walks[0]? = some ⟨0, 5, 1, [1]⟩ ∧ ({ bare with walks := [⟨0, 5, 1, [1]⟩] } : State).walk 0 (5 * 4096) = .error l) ∧
    (∃ tr, ({ (bare.homePut 0 (leBytes 8 0x1001)).homePut 0x1000 (leBytes 8 0xE02) with walks := [⟨0, 0, 1, [1]⟩] } : State).walk 0 0 = .ok tr) ∧
    (let w : Walk := ⟨0, 5, 1, [1]⟩
     let s : State := { bare with walks := List.replicate 65 w }
     s.walks[64]? = some w ∧ 64 ≤ ((s.walks.take 64).filter (fun x => x.die == w.die)).length ∧ ((s.walks.take 63).filter (fun x => x.die == w.die)).length < 64) ∧
    (let s : State := { (waiting (.pages [0x5123])).modDie 0 (fun D => { D with firmware := true }) with faults := [⟨0, 5, 2, none, [1]⟩] }
     ∃ W, s.faults[0]? = some ⟨0, 5, 2, none, [1]⟩ ∧ s.served 0 = true ∧ mfind s.warps 1 = some W ∧ W.queue = 0 ∧ W.ended = false ∧ W.forks = [] ∧
       (∀ y ∈ s.warps, y.2.twinOf = none) ∧ (∀ L ∈ s.launches, L.2.redund = false) ∧ (W.slice 0).exited = false ∧ (W.slice 0).wait = some (.pages [0x5123]) ∧ ∃ p ∈ [0x5123], p / 4096 = 5) ∧
    (let s : State := { (pooled bare 0).modDie 0 (fun D => { D with firmware := true }) with faults := [⟨0, 0, 2, some (0, 0, 0x40), []⟩] }
     s.faults[0]? = some ⟨0, 0, 2, some (0, 0, 0x40), []⟩ ∧ s.served 0 = true ∧ s.look 0 (0x40 : DWord).toNat = some flat) ∧
    (∃ B W, mfind bare.blocks 2 = some B ∧ 5 * 4 < B.size ∧ mfind bare.warps 1 = some W ∧ 255 < W.alloc ∧ 31 < W.width) :=
  ⟨⟨fun a h => by
      simp only [List.mem_cons, List.not_mem_nil, or_false] at h
      rcases h with rfl | rfl <;> exact ⟨_, rfl, rfl, rfl, rfl, by decide, by decide, rfl, by decide, by decide, by decide⟩,
    _, rfl, rfl, rfl, by decide, by decide, by decide, by decide, by decide, by decide, by decide⟩,
   ⟨_, _, rfl, rfl, rfl, by decide, by decide, rfl, rfl, rfl, rfl, rfl, rfl, rfl⟩, ⟨_, _, rfl, rfl, rfl, by decide, by decide, rfl, rfl, rfl, rfl, rfl, rfl⟩, by decide, ⟨_, rfl, rfl⟩, ⟨_, rfl⟩, by decide,
   ⟨_, rfl, by decide, rfl, by decide, by decide, by decide, by decide, by decide, by decide, rfl, by decide⟩, by decide, ⟨_, _, rfl, by decide, rfl, by decide, by decide⟩⟩

/-- The bare launch at D1 in its first round. -/
def rounds (f : Warp → Warp) (g : Launch → Launch) : State :=
  { withWarp (fun W => f { W with detlvl := 1 }) with launches := [(3, g { bareLaunch 0 with dets := 1, next := 1, n := 1 })] }

theorem witness_RoundEvents :
    (let s : State := { bare with issue := none }
     s.issue = none ∧ msorted s.warps = true ∧ (∀ x ∈ s.warps, x.2.slices.length ≤ 16) ∧ (s.eligible 4).map (·.1) = [1]) ∧
    (let s : State := withWarp (fun W => { W with started := false })
     ∃ B W, mfind s.blocks 2 = some B ∧ B.alive = true ∧ B.warps[0]? = some 1 ∧ mfind s.warps 1 = some W ∧ W.started = false) ∧
    (∀ n ∈ [4095, 4096], ∃ W Q, mfind (rounds (fun W => W.onSlices 0xFF (fun x => { x with retired := n })) id).warps 1 = some W ∧
      mfind (rounds (fun W => W.onSlices 0xFF (fun x => { x with retired := n })) id).queues W.queue = some Q ∧ W.twinOf = none ∧ W.started = true ∧
      W.ended = false ∧ (rounds (fun W => W.onSlices 0xFF (fun x => { x with retired := n })) id).buffered W = true ∧ W.qdone = false ∧ W.forks = [] ∧
      (∀ b ∈ (rounds (fun W => W.onSlices 0xFF (fun x => { x with retired := n })) id).blocks, b.2.twinBlock = none) ∧
      (if n = 4096 then ∀ i < W.slices.length, Q.quant ≤ (W.slice i).retired
       else ∃ i < W.slices.length, (W.slice i).exited = false ∧ (W.slice i).wait = none ∧ (W.slice i).retired < Q.quant)) ∧
    (∀ d ∈ [Deferred.spad [(0, [1])], .flight 9], let s : State := rounds (fun W => { W with qdone := true, buf := [d] }) id
      ∃ L W, mfind s.launches 3 = some L ∧ L.dets ≠ 0 ∧ L.committed = false ∧ L.next ≠ 0 ∧ L.next = L.n ∧ L.done = false ∧ L.redund = false ∧
        s.warps = [(1, W)] ∧ W.launch = 3 ∧ W.twinOf = none ∧ W.qdone = true ∧ W.killed = false ∧ W.ended = false ∧ W.ndone = false ∧ W.outs = [] ∧ W.buf = [d] ∧
        (∀ b ∈ s.blocks, b.2.twinBlock = none ∧ b.2.primary = true) ∧ s.watched 1 = false ∧ s.badSectors = [] ∧ s.badHbm = [] ∧ s.holds = [] ∧ plainOk s = true) ∧
    (let a : Access := { lane := 0, va := 0x40, pa := 0x40, n := 2, op := .write [1, 2] }
     let s : State := { rounds (fun W => { W with qdone := true, buf := [.flight 9] }) id with flights := [(9, { warp := 1, cls := 1, accs := [a] })] }
     ∃ F, mfind s.flights 9 = some F ∧ F.warp = 1 ∧ F.accs = [a] ∧ a.op = .write [1, 2] ∧ a.done = false ∧ ∀ j < 2, s.homeless (a.pa + j) = false) ∧
    (let s : State := { rounds id (fun L => { L with committed := true }) with parts := [(0, { dies := [0], clusters := [0], children := [(1, 0, 0, 5)] })] }
     ∃ p ∈ s.parts, ∃ c ∈ p.2.children, (s.warp c.1).launch = 3) ∧
    (let s : State := rounds id (fun L => { L with committed := true })
     (∀ p ∈ s.parts, ∀ c ∈ p.2.children, (s.warp c.1).launch ≠ 3) ∧ ∃ L W, mfind s.launches 3 = some L ∧ L.committed = true ∧ s.pastAll L.gwct = true ∧ s.warps = [(1, W)] ∧ W.launch = 3 ∧ W.twinOf = none ∧ W.ended = false ∧
       W.swapped = false ∧ W.killed = false ∧ s.flights = [] ∧ (∀ b ∈ s.blocks, b.2.twinBlock = none ∧ b.2.bars = []) ∧ (∀ c, (s.core c).tap.ringWait = []) ∧ (∀ x ∈ W.slices, x.wait = none) ∧
       (∀ x ∈ W.savePc, x.wait = none) ∧ (rounds id (fun L => { L with committed := true, gwct := 10 ^ 9 })).pastAll (10 ^ 9) = false) ∧
    (let s (t : DWord) : State := { (rounds id id).modDie 0 (fun D => { D with firmware := true }) with time := t }
     (rounds id id).served 0 = false ∧ (s 1000000000).served 0 = true ∧ ∃ L, L.queue = 0 ∧ mfind (s 999999999).launches 3 = some L ∧ L.dets ≠ 0 ∧ L.done = false ∧ L.committed = false ∧ L.stuck = false ∧ L.next ≠ 0 ∧
       (s 999999999).time.toNat < L.began.toNat + 1000000000 ∧ L.began.toNat + 1000000000 ≤ (s 1000000000).time.toNat) :=
  ⟨by decide, ⟨_, _, rfl, by decide, by decide, rfl, by decide⟩, fun n h => by
      simp only [List.mem_cons, List.not_mem_nil, or_false] at h
      rcases h with rfl | rfl <;> exact ⟨_, _, rfl, rfl, by decide, by decide, by decide, by decide, by decide, by decide, by decide, by decide⟩,
   fun d h => by
      simp only [List.mem_cons, List.not_mem_nil, or_false] at h
      rcases h with rfl | rfl <;> exact ⟨_, _, rfl, by decide, rfl, by decide, rfl, rfl, rfl, rfl, rfl, rfl, rfl, rfl, rfl, rfl, rfl, rfl, by decide, by decide, rfl, rfl, rfl, by decide⟩,
   ⟨_, rfl, rfl, rfl, rfl, rfl, by decide⟩, by decide, ⟨by decide, _, _, rfl, rfl, by decide, rfl, rfl, rfl, rfl, rfl, rfl, rfl, by decide, fun _ => rfl, by decide, by decide, by decide⟩, ⟨by decide, by decide, _, rfl, rfl, by decide, rfl, rfl, rfl, by decide, by decide, by decide⟩⟩

/-- Queue 0 served by the firmware: its ring lies at 0x1000, its descriptor at 0x2000 and one packet waits. -/
def queued (pkt : List Byte) : State :=
  let Q : Queue := { bareQueue with ring := 0x1000, desc := 0x2000, wptr := 1 }
  let s : State := (bare.modDie 0 (fun D => { D with firmware := true })).homePut 0x1000 pkt
  { s with queues := [(0, Q)], launches := [], blocks := [], warps := [], issue := none, island := { s.island with state := 4 } }
/-- A packet of a type: bytes 2 and 3, then five fields of 8 bytes. -/
def packet (type h a b c d e : Nat) : List Byte :=
  leBytes 2 type ++ leBytes 2 h ++ leBytes 4 0 ++ leBytes 8 a ++ leBytes 8 b ++ leBytes 8 c ++ leBytes 8 d ++ leBytes 8 e ++ leBytes 16 0
/-- A launch record of one warp of 32 lanes at 0x5000 and its code object at 0x6000. -/
def launchable (s : State) : State :=
  (s.homePut 0x5000 (leBytes 8 0x6000 ++ leBytes 8 0 ++ leBytes 4 0 ++ [32, 1, 1, 0] ++ leBytes 4 1)).homePut 0x6000
    (leBytes 4 0x314F5A4B ++ leBytes 4 0x0100 ++ leBytes 4 0x80 ++ leBytes 4 0x20 ++ [16, 0, 32, 1])

theorem witness_QueueEvents :
    (let s : State := { queued [] with queues := [], tlbs := [] }
     let r : QueueReg := { func := 0, desc := 0x2000, root := 0 }
     let t : State := { ((queued []).homePut 0x2000 (leBytes 8 0x1000 ++ leBytes 8 4)) with queues := [] }
     (∃ q, s.freeQueue = some q ∧ s.readQueue q r = none) ∧ driverVersions { r with abi := (2, 3) } = none ∧ driverVersions r = some (1, 1) ∧
     ∃ Q v, mfind t.queues 0 = none ∧ t.readQueue 0 r = some Q ∧ (t.die (t.partDie Q.part)).firmware = true ∧
       ({ t with queues := minsert t.queues 0 { Q with abi := 1, fmt := 1 } } : State).virtNat 0 (Q.desc + 0x10) 8 = some v ∧ (BitVec.ofNat 64 v - Q.rptr).toNat ≤ 2 ^ Q.log2n) ∧
    (let far : State := (queued []).homePut 0x2010 (leBytes 8 17)
     ∃ Q, mfind far.queues 0 = some Q ∧ ¬ ((mfind far.parts Q.part).isSome = true ∧ (2 = 0 ∨ 2 = Q.part + 1)) ∧ (mfind far.parts Q.part).isSome = true ∧
       (queued []).virtNat 0 (Q.desc + 0x10) 8 = some 0 ∧ far.virtNat 0 (Q.desc + 0x10) 8 = some 17 ∧ ¬ (BitVec.ofNat 64 17 - Q.rptr).toNat ≤ 2 ^ Q.log2n ∧
       far.queues = [(0, Q)] ∧ far.served 0 = true) ∧
    (let Q : Queue := { bareQueue with desc := 0x2000, open_ := [0], next := 1, wptr := 1, sigs := [(0, 0x3000)] }
     let s (L : Launch) : State := { (queued []).homePut 0x3000 (leBytes 8 1) with queues := [(0, Q)], launches := [(3, L)] }
     let L : Launch := { bareLaunch 0 with done := true, failed := false, n := 1, retired := 1 }
     (L.done = true ∧ Q.waiting = none ∧ Q.rptr = BitVec.ofNat 64 0 ∧ (s L).engines = [] ∧ (s L).graphs = [] ∧ plainOk (s L) = true ∧ (s L).bytesAt 0x3000 8 = leBytes 8 1 ∧
       (∀ j < 8, ((s L).cached ((s L).queueCore 0) 0 (0x3000 + j)).map (fun t => t.phys (0x3000 + j)) = some (0x3000 + j)) ∧
       (∀ j < 8, ((s L).cached ((s L).queueCore 0) 0 (Q.desc + 0x18 + j)).map (fun t => t.phys (Q.desc + 0x18 + j)) = some (0x2018 + j)) ∧
       ∀ j < 8, (s L).homeless (0x3000 + j) = false ∧ (s L).homeless (0x2018 + j) = false) ∧
     ({ L with done := false, retired := 0 } : Launch).retired < L.n) :=
  ⟨⟨⟨_, rfl, by decide⟩, by decide, by decide, _, _, rfl, rfl, by decide, rfl, by decide⟩, ⟨_, rfl, by decide, by decide, by decide, by decide, by decide, rfl, by decide⟩, by decide⟩

/-- A queue whose next packet may start. -/
def ReadyAt (s : State) (q : Nat) (Q : Queue) (b : List Byte) : Prop :=
  s.queues = [(q, Q)] ∧ s.served q = true ∧ Q.stopped = false ∧ Q.waiting = none ∧ Q.gang = none ∧ Q.swapped = false ∧ Q.draining = none ∧
    Q.next - Q.rptr < Q.wptr - Q.rptr ∧ s.packetAt q Q.next = some b ∧ (pktBar b = true → Q.rptr = Q.next)
/-- A queue whose next packet is p and finds its tables and records. -/
def readied (p : List Byte) : State :=
  let s := launchable ((queued p).homePut 0x7000 (leBytes 8 0x5001 ++ leBytes 8 0 ++ leBytes 8 0x5000))
  if p.getD 0 0 = 5 then launchable ((queued p).homePut 0x7000 (leBytes 8 0x5000))
  else if p.getD 0 0 = 6 then launchable ((queued p).homePut 0x7000 ([1, 0] ++ leBytes 14 0 ++ leBytes 8 0x5000)) else s

theorem ready_first (p : List Byte) (h : p ∈ [packet 1 0 0x5000 0 0 0 0, packet 2 0 0x7000 0x8000 64 0 0, packet 3 1 0x7000 5 0 0 0]) :
    ∃ Q, ReadyAt (readied p) 0 Q p ∧ (readied p).invalid 0 p = 0 ∧ (readied p).hasRoom 0 p = true := by
  simp only [List.mem_cons, List.not_mem_nil, or_false] at h
  rcases h with rfl | rfl | rfl <;> exact ⟨_, ⟨rfl, by decide, rfl, rfl, rfl, rfl, rfl, by decide, by decide, by decide⟩, by decide, by decide +kernel⟩

theorem ready_last (p : List Byte) (h : p ∈ [packet 4 1 0x7000 0 0 0 0, packet 5 1 0x7000 0 0 0 0, packet 6 0 0x7000 0 0 0 0]) :
    ∃ Q, ReadyAt (readied p) 0 Q p ∧ (readied p).invalid 0 p = 0 ∧ (readied p).hasRoom 0 p = true := by
  simp only [List.mem_cons, List.not_mem_nil, or_false] at h
  rcases h with rfl | rfl | rfl <;> exact ⟨_, ⟨rfl, by decide, rfl, rfl, rfl, rfl, rfl, by decide, by decide, by decide⟩, by decide, by decide +kernel⟩

theorem witness_PacketEvents :
    ((∃ Q b, ReadyAt (queued (packet 1 0 0x5080 0 0 0 0)) 0 Q b ∧ fieldAt b 0 1 = 1 ∧ (queued (packet 1 0 0x5080 0 0 0 0)).invalid 0 b ≠ 0) ∧
     (∀ p ∈ [packet 1 0 0x5000 0 0 0 0, packet 2 0 0x7000 0x8000 64 0 0, packet 3 1 0x7000 5 0 0 0, packet 4 1 0x7000 0 0 0 0, packet 5 1 0x7000 0 0 0 0,
         packet 6 0 0x7000 0 0 0 0],
       ∃ Q, ReadyAt (readied p) 0 Q p ∧ (readied p).invalid 0 p = 0 ∧ (readied p).hasRoom 0 p = true)) ∧
    (∃ r H, (launchable (queued [])).readLaunch 0 0x5000 = .ok (r, H)) ∧
    (∃ l, (launchable ((queued []).homePut 0x7000 ([1, 0] ++ leBytes 14 0 ++ leBytes 8 0x5000))).readNodes 0 0x7000 1 = .ok l) ∧
    (let s (v : Nat) : State := { (queued []).homePut 0x7000 (leBytes 8 v) with
       queues := [(0, { bareQueue with waiting := some [(0x7000, 5)], next := 1, open_ := [0], rptr := 0 })] }
     ((s 6).served 0 = true ∧ (s 6).signal 0 0x7000 = some 6 ∧ (6 : DWord).toInt > (5 : Word).toInt) ∧
       ((s 5).signal 0 0x7000 = some 5 ∧ (5 : DWord).toInt ≤ (5 : Word).toInt)) ∧
    (let s (mask n : Nat) : State := { launchable ((queued []).homePut 0x7000 (leBytes 8 0x5000)) with
       queues := [(0, { bareQueue with gang := some (mask, 0x7000, n) })] }
     (mfind (s 4 0).parts 2 = none ∧ (s 4 0).served 0 = true) ∧
     (∃ r H, (s 1 999).virtNat 0 0x7000 8 = some 0x5000 ∧ (s 1 999).readLaunch 0 0x5000 = .ok (r, H) ∧
       (∀ x ∈ (s 1 999).queues, (s 1 999).priority x.1 ≤ (s 1 999).priority 0) ∧
       ((s 1 999).placeBeside 0 ((s 1 999).mkLaunch 0 0 0 0x5000 r H)).isSome = true ∧
       (let none_ : State := { s 1 999 with parts := [(0, { dies := [0, 1, 2, 3], clusters := [] })] }
        none_.readLaunch 0 0x5000 = .ok (r, H) ∧ (none_.placeBeside 0 (none_.mkLaunch 0 0 0 0x5000 r H)).isNone = true) ∧
       (let L := (s 1 999).mkLaunch 0 0 0 0x5000 r H
        let u := (((s 1 999).modQueue 0 (fun Q => { Q with gang := none, gangHeld := [] })).opened 0 0).addLaunch { L with pkt := 0, ready := (s 1 999).time }
        (u.placeBeside (s 1 999).nextId { L with pkt := 0, ready := (s 1 999).time }).isSome = true))) :=
  ⟨⟨⟨_, _, ⟨rfl, by decide, rfl, rfl, rfl, rfl, rfl, by decide, rfl, by decide⟩, by decide, by decide⟩, fun p h => (List.mem_append (s := [_, _, _]).mp h).elim (ready_first p) (ready_last p)⟩,
   ⟨_, _, rfl⟩, ⟨_, rfl⟩, by decide, by decide, ⟨_, _, by decide, rfl, by decide, by decide, ⟨rfl, by decide⟩, by decide⟩⟩

theorem witness_LaunchEvents :
    (let node (live coal state : Nat) : Node := { streamNode with live := live, coal := coal, state := state, ntype := 1, work := 0x5000 }
     let s (x : Node) : State := { launchable (queued []) with graphs := [(9, { queue := 0, pkt := 0, nodes := [x] })] }
     let t : State := { s (node 0 0 0) with graphs := [(9, { queue := 0, pkt := 0, nodes := [{ node 0 0 0 with work := 0x5001 }] })] }
     (∀ x ∈ [node 1 0 0, node 0 0 0, node 0 0 1, node 1 2 1], ∃ G, mfind (s x).graphs 9 = some G ∧ G.nodes[0]? = some x ∧ G.failed = false ∧ (s x).launches = []) ∧
     (∃ r H, (s (node 0 0 0)).readLaunch 0 (0x5000 : DWord).toNat = .ok (r, H)) ∧ (∃ e, t.readLaunch 0 (0x5001 : DWord).toNat = .error e) ∧
     ((s (node 1 2 1)).presentRecs (node 1 2 1)).length < 2 ∧
     let full : Node := { node 1 1 1 with recs := [(false, 0, 0, 0)] }
     1 ≤ ((s full).presentRecs full).length) ∧
    (let s (a : Nat) : State := { launchable (queued []) with
       warps := bare.warps, launches := bare.launches, parts := [(0, { dies := [0, 1, 2, 3], clusters := List.range 48, children := [(1, BitVec.ofNat 64 a, 0, 5)] })] }
     ∃ P W L r H e, mfind (s 0x5000).parts 0 = some P ∧ P.children = [(1, 0x5000, 0, 5)] ∧ mfind (s 0x5000).warps 1 = some W ∧
       mfind (s 0x5000).launches W.launch = some L ∧ (s 0x5000).readLaunch W.queue (0x5000 : DWord).toNat = .ok (r, H) ∧
       (s 0x5000).nextId ≠ W.launch ∧ (s 0x5001).readLaunch W.queue (0x5001 : DWord).toNat = .error e) ∧
    (let L : Launch := { bareLaunch 0 with n := 2, next := 0, blocks := 1, warps := 1, width := 32, regs := 16 }
     let s (spad : Nat) : State := { queued [] with launches := [(3, { L with spad := spad })] }
     ∃ Q P, mfind (s 0).launches 3 = some { L with spad := 0 } ∧ mfind (s 0).queues L.queue = some Q ∧ mfind (s 0).parts L.part = some P ∧
       P.clusters.contains 0 = true ∧ L.dets = 0 ∧ L.redund = false ∧ L.done = false ∧ L.aborted = false ∧ L.committed = false ∧ L.next < L.n ∧ L.ready ≤ (s 0).time ∧
       Q.swapped = false ∧ Q.draining = none ∧ (∀ x ∈ (s 0).queues, x.2.gang = none) ∧
       (((List.range 16).map (0 * 16 + ·)).filter (fun c => c % 192 != 0)).find?
         (fun c => (s 0).roomOn c (blockRegs L.roles L.width L.warps L.regs L.budget) 0 L.levels L.parent.isSome) = some 1 ∧
       ∀ c ∈ ((List.range 16).map (0 * 16 + ·)).filter (fun c => c % 192 != 0),
         (s 0x60001).roomOn c (blockRegs L.roles L.width L.warps L.regs L.budget) 0x60001 L.levels L.parent.isSome = false) ∧
    (let L (l : List Nat) : Launch := { bareLaunch 0 with exits := l }
     (L [0, 1]).dets = 0 ∧ (L [0, 1]).done = false ∧ (L [0, 1]).stream = none ∧ (L []).exits = [] ∧ (L [0, 1]).exits = 0 :: [1] ∧ ∀ x ∈ bare.warps, x.2.buf = []) ∧
    (let low : Queue := { bareQueue with preempt := true, save := 0x8000 }
     let high : Queue := { bareQueue with ring := 0x1000, desc := 0x2000, wptr := 1, qpri := 5 }
     let s (Q : Queue) (f : Warp → Warp) : State := { launchable (queued (packet 1 0 0x5000 0 0 0 0)) with
       queues := [(0, Q), (1, high)], parts := [(0, { dies := [0, 1, 2, 3], clusters := [] })], launches := bare.launches, blocks := [(2, { bareBlock 3 1 with size := 0 })]
       warps := (withWarp f).warps, tlbs := [(816, [flat, { flat with queue := 1 }])], time := 1000000 }
     let gone (W : Warp) : Warp := { W with swapped := true, regCount := 8, alloc := 8, width := 8, slices := W.slices.take 2 }
     let drain : Queue := { low with draining := some 0 }
     ((s low id).served 0 = true ∧ low.swapped = false ∧ low.draining = none ∧ low.preempt = true ∧ (s low id).queueBlocks 0 ≠ [] ∧
       (∃ x X, mfind (s low id).queues x = some X ∧ (s low id).priority 0 < (s low id).priority x ∧ (s low id).wants x X 0 = true ∧ (x, X.next) ∉ low.spared) ∧
       ∀ y ∈ (s low id).queues, y.1 = 0 ∨ (s low id).priority 0 ≤ (s low id).priority y.1 ∨ y.2.preempt = false) ∧
     ((s drain gone).queueStopped 0 = true ∧ ((s drain gone).abortQueueTxs 0).queueDrained 0 = true ∧ (s drain gone).stopQueueBlocks 0 = s drain gone ∧
       ((((s drain gone).abortQueueTxs 0).abortQueueBlocks 0).saveQueue 0).isSome = true) ∧
     (({ s { low with swapped := true } gone with queues := [(0, { low with swapped := true })] } : State).outranked 0 = false ∧
       (({ s { low with swapped := true } gone with queues := [(0, { low with swapped := true })] } : State).restoreQueue 0).isSome = true) ∧
     ((0 : DWord).toNat + 1000000 ≤ (s drain gone).time.toNat ∧
       (s drain (fun W => { gone W with outs := [(1, 9, false)] })).queueStopped 0 = true ∧
       (s drain (fun W => { gone W with outs := [(1, 9, false)] })).queueIssuedOver 0 = false)) :=
  ⟨⟨fun x h => by
      simp only [List.mem_cons, List.not_mem_nil, or_false] at h
      rcases h with rfl | rfl | rfl | rfl <;> exact ⟨_, rfl, rfl, rfl, rfl⟩,
    ⟨_, _, rfl⟩, ⟨_, rfl⟩, by decide, by decide⟩,
   ⟨_, _, _, _, _, _, rfl, rfl, rfl, rfl, rfl, by decide, rfl⟩, ⟨_, _, rfl, rfl, rfl, by decide, by decide, by decide, by decide, by decide, by decide, by decide, by decide, by decide, by decide, by decide, by decide, by decide⟩, by decide,
   ⟨⟨by decide, rfl, rfl, rfl, by decide, ⟨1, _, rfl, by decide, by decide, by decide⟩, by decide⟩, ⟨by decide, by decide, rfl, by decide⟩, by decide, by decide⟩⟩

theorem witness_DieRegisters :
    (let s (cfg : DWord) : State := bare.modDie 0 (fun D => { D with poolCfg := [(0, cfg)], poolStat := [(0, 0x200000000)] })
     let en (t : State) : Bool := (mget 0 (t.die 0).poolCfg 0).getLsbD 63
     let busy (t : State) : Bool := (mget 0 (t.die 0).poolCfg 0).getLsbD 62
     en (s 0) = false ∧ (en (s (2 ^ 63)) = true ∧ busy (s (2 ^ 63)) = false) ∧ (en (s (3 * 2 ^ 62)) = true ∧ busy (s (3 * 2 ^ 62)) = true) ∧
     ({ s (3 * 2 ^ 62) with tlbs := [] } : State).look 0 0 = none ∧ plainOk (s (3 * 2 ^ 62)) = true ∧
     (s (3 * 2 ^ 62)).cached ((s (3 * 2 ^ 62)).queueCore 0) 0 0x47 = some flat ∧ (s (3 * 2 ^ 62) |>.die 0).poolCount 0 = 2) ∧
    (let s (ctl : Word) : State := bare.modDie 3 (fun D => { D with winCtl := [(31, ctl)], winClosing := [31] })
     (mget 0 ((s 0).die 3).winCtl 31).getLsbD 31 = false ∧ (mget 0 ((s 0x80000002).die 3).winCtl 31).getLsbD 31 = true ∧
     31 ∈ ((s 0x80000002).die 3).winClosing ∧ (∀ l ∈ (s 0x80000002).l2, l.2.dirty = 0)) ∧
    (let r : RasRec := { type := 5 }
     let s (ctl head : Word) : State := bare.modDie 1 (fun D => { D with rasQueue := [r], rasCtl := ctl, rasHead := head, rasBase := 0x8000 })
     ((s 6 0).die 1).rasQueue = [r] ∧ ((s 6 0).die 1).rasWritten = [] ∧ ((s 6 0).die 1).rasCtl.getLsbD 31 = false ∧
     (((s 0x80000006 64).die 1).rasCtl.getLsbD 31 = true ∧ (((s 0x80000006 64).die 1).rasHead - ((s 0x80000006 64).die 1).rasTail).toNat = 64) ∧
     (((s 0x80000006 63).die 1).rasHead - ((s 0x80000006 63).die 1).rasTail).toNat ≠ 64 ∧ plainOk (s 0x80000006 63) = true ∧ r.raw = [] ∧
       (∀ j < 64, (s 0x80000006 63).homeless (((s 0x80000006 63).die 1).rasBase.toNat + 64 * (((s 0x80000006 63).die 1).rasHead.toNat % 64) + j) = false)) ∧
    (let l : List RasRec := [{ type := 5, core := 200 }]
     let r : RasRec := { type := 5, core := 300 }
     let x : RasRec := { type := 9 }
     (∀ y ∈ l, y.tick = r.tick → y.source ≤ r.source) ∧ x.tick = r.tick ∧ r.source < x.source) ∧
    (let s (t : DWord) : State := bare.modDie 1 (fun D => { D with rasWritten := [t] })
     (s 1).dieTime 1 < 1 ∧ 0 ≤ (s 0).dieTime 1) ∧
    (∀ p ∈ [packet 2 0 0x7000 0x8000 64 0 0, packet 4 1 0x7000 0 0 0 0], ∃ Q b,
      let s : State := (queued p).homePut 0x2010 (leBytes 8 1)
      s.queues = [(0, Q)] ∧ s.partDie Q.part = 0 ∧ (mfind s.parts Q.part).isSome = true ∧ s.island.state = 4 ∧
      s.virtNat 0 (Q.desc + 0x10) 8 = some Q.wptr.toNat ∧ (Q.wptr - Q.rptr).toNat ≤ 2 ^ Q.log2n ∧ s.nextReady 0 = some (some b) ∧ s.invalid 0 b = 0) ∧
    (mfind bare.parts (5 - 1) = none ∧ bare.partitioned = false ∧ 0xBFFFFFFFFF + 1 ≤ 0xC000000000 ∧ plainOk bare = true ∧ bare.heldByOther 0 0x100 4 = false ∧
     ({ bare with holds := [(8, 1, 0)] } : State).heldByOther 0 0x100 4 = true) :=
  ⟨by decide, by decide, by decide, by decide, by decide, fun p h => by
      simp only [List.mem_cons, List.not_mem_nil, or_false] at h
      rcases h with rfl | rfl <;> exact ⟨_, _, rfl, rfl, by decide, by decide, by decide, by decide, rfl, by decide⟩, by decide⟩

/-- Package 0 of a view of packages 0 to 3, each the neighbour of every other. -/
def ring : Zinc :=
  { bare.zinc with
    member := true, view := 4, bitmap := [0, 1, 2, 3], ranks := [0, 1, 2, 3]
    neighbours := [(0, [1, 2, 3]), (1, [0, 2, 3]), (2, [0, 1, 3]), (3, [0, 1, 2])] }
/-- A view message for the next view. -/
def nextView (src view : Nat) (l : List Nat) : ViewMsg := ⟨src, view, l, 0, l, [], []⟩

theorem near_of {l : List (Nat × List Nat)} (z : Zinc) (h : z.neighbours = l) (hl : ∀ x ∈ l, x.2.Nodup) (x : Nat) : (z.near x).Nodup := by
  unfold Zinc.near
  cases hf : z.neighbours.find? (fun y => y.1 == x) with
  | none => exact List.nodup_nil
  | some y => exact hl y (h ▸ List.mem_of_find?_eq_some hf)

theorem witness_FabricEvents :
    (let s (z : Zinc) : State := { bare with zinc := z }
     ((3 ≤ 3 ∧ 2 ≤ 2 ∧ 2 ≤ 9) ∧ 3 < 4 ∧ mfind bare.island.ports 63 = none ∧
       mfind ({ bare.island with ports := [(63, 3)] } : Island).ports 63 = some 3) ∧
     ((bare.die 0).firmware = false ∧ (∀ x, mfind bare.island.liveness 0 = some x → x.toNat + 150000 < (bare.dieTime 0).toNat) ∧
       ((queued []).die 0).firmware = true) ∧
     (∀ n ∈ [0, 2], (s { ring with misses := mput 0 [] 1 n }).isNear 1 = true ∧ ring.suspects = [] ∧ ring.joins = [] ∧ (∀ x, (ring.near x).Nodup) ∧
       ring.bitmap = (List.range 256).filter ring.bitmap.contains ∧ mget 0 (mput 0 [] 1 n) 1 = n) ∧
     (let z : Zinc := { ring with suspects := [(1, 0)], proposal := some (nextView 0 5 [0, 2, 3]) }
      z.proposal ≠ none ∧ z.member = true ∧ z.quorum 1 = false ∧ ({ z with suspects := [(1, 0), (1, 2)] } : Zinc).quorum 1 = true) ∧
     (let z (n : Nat) : Zinc := { ring with suspects := [(1, 0), (1, 2)], misses := [(1, n)], resetSent := [(1, 0)] }
      let t : State := { s (z 9) with time := 300000000 }
      mfind t.zinc.resetSent 1 = some 0 ∧ (0 : DWord).toNat + 300000000 ≤ t.time.toNat ∧ t.zinc.quorum 1 = true ∧ mget 0 t.zinc.misses 1 ≠ 0 ∧ t.zinc.member = true ∧
        mget 0 (z 0).misses 1 = 0) ∧
     (let z : Zinc := { ring with proposal := some (nextView 0 5 [0, 2, 3]), acks := [0, 2] }
      ring.member = true ∧ (nextView 1 7 [0, 1]).view ≠ ring.view + 1 ∧ (nextView 1 5 [0, 1]).view = ring.view + 1 ∧ ring.self ∈ (nextView 1 5 [0, 1]).bitmap ∧
        (nextView 1 5 [0, 1]).src ≠ ring.self ∧ ring.proposal = none ∧ ring.ackedTo = none ∧ (s ring).engines = [] ∧
        (nextView 1 5 [0, 1]).bitmap = (List.range 256).filter (nextView 1 5 [0, 1]).bitmap.contains ∧ ring.self ∉ (nextView 1 5 [1, 2]).bitmap ∧
        z.proposal = some (nextView 0 5 [0, 2, 3]) ∧ (∃ p ∈ [0, 2, 3], p ≠ 2 ∧ p ∉ z.acks) ∧ (∀ p ∈ [0, 2, 3], p = 3 ∨ p ∈ z.acks) ∧
        ∃ p ∈ [0, 2, 3], p ∈ z.acks ∧ p ≠ z.self) ∧
     (ring.member = true ∧ 7 ∉ ring.bitmap ∧ ring.view ≤ 0 + 255 ∧ ring.leader = ring.self ∧ ({ ring with leader := 2 } : Zinc).leader ≠ ring.self)) :=
  ⟨by decide, ⟨by decide, (by intro x h; nomatch h), by decide⟩, fun n h => by
      refine ⟨?_, rfl, rfl, near_of ring rfl (by decide), by decide, ?_⟩ <;>
        simp only [List.mem_cons, List.not_mem_nil, or_false] at h <;> rcases h with rfl | rfl <;> decide,
    by decide, by decide, by decide, by decide⟩

theorem witness_FabricEvents_views :
    (let two : Zinc := { ring with self := 2, proposal := some (nextView 2 5 [0, 2, 3]) }
     let m := nextView 1 5 [0, 1, 3]
     two.member = true ∧ m.view = two.view + 1 ∧ two.self ∉ m.bitmap ∧ m.src ≠ two.self ∧ two.ackedTo = none ∧ ∀ x ∈ two.proposal, m.src ≤ x.src) ∧
    (let held : Zinc := { ring with joins := [(7, 3)] }
     let m : ViewMsg := { nextView 1 5 [0, 1] with leader := 1 }
     held.member = true ∧ m.view = held.view + 1 ∧ held.self ∈ m.bitmap ∧ m.leader ≠ held.self ∧ (7, 3) ∈ held.joins ∧ 7 ∉ m.bitmap) ∧
    (let gone (joining : Bool) : Zinc := { ring with member := false, jview := 3, joining := joining }
     let m : ViewMsg := { nextView 1 5 [0, 1] with past := [(3, [0, 1, 2]), (4, [0, 1])] }
     (gone false).jview ≠ 0 ∧ (gone true).jview.toNat < m.view ∧ (gone true).self ∈ m.bitmap ∧ (gone true).suspects = [] ∧ (gone true).joins = [] ∧
       m.bitmap = (List.range 256).filter m.bitmap.contains ∧ (gone true).history.length + m.past.length ≤ 255) ∧
    (let under (at_ : DWord) : Zinc := { ring with proposal := some (nextView 0 5 [0, 2, 3]), acks := [0, 2], proposedAt := at_ }
     let s (at_ : DWord) : State := { bare with zinc := under at_, time := 10000 }
     (s 1).time.toNat < (under 1).proposedAt.toNat + 10000 ∧ (under 0).proposedAt.toNat + 10000 ≤ (s 0).time.toNat ∧
       (under 0).leader = (under 0).self ∧ (under 0).proposal ≠ none) := by decide

/-- A further copy of a RESET acted on is told by its key (R368). -/
theorem witness_FabricEvents_copy :
    let m : ResetMsg := ⟨0, 1, 4, 1, 1000000, 0⟩
    let m : ResetMsg := { m with tag := resetTag ring.key m }
    let s : State := { bare with zinc := { ring with resetTime := [(1, 1000000)], resetsActed := [(4, 1)] } }
    s.resetOk m = false ∧ (m.view.toNat, m.level.toNat) ∈ s.zinc.resetsActed ∧ m.target.toNat = s.zinc.self ∧ s.resetKey m = some ring.key ∧
      resetTag ring.key m = m.tag := by decide

/-- R368: the island accepts a RESET of the view's key, 1 ms away at most, and no older one of its sender. -/
theorem test_reset_accepted :
    let m (lv : BitVec 8) (t : DWord) : ResetMsg := ⟨0, 1, 4, lv, t, 0⟩
    let tagged (m : ResetMsg) : ResetMsg := { m with tag := resetTag ring.key m }
    let s : State := { bare with zinc := ring }
    s.resetOk (tagged (m 1 1000000)) = true ∧ s.resetOk (tagged (m 2 1000001)) = false ∧ s.engines = [] ∧ (4, 1) ∉ s.zinc.resetsActed := by decide

theorem witness_BootEvents :
    bare.island.state = 0 ∧
    (let s (n : BitVec 4) : State := { bare with island := { bare.island with state := n } }
     (s 1).island.state = 1 ∧ (s 2).island.state = 2 ∧ partsOk [] = true ∧ partsOk [(0, 1, [12, 13], 0, 2 ^ 30), (1, 3, [36], 2 ^ 30, 2 ^ 31)] = true) ∧
    ((queued []).island.state = 4 ∧ 8 ≤ 8 ∧ 23 ≤ 23) ∧
    (bare.island.active = 0 ∧ bare.island.missed < 3 ∧ 3 ≤ ({ bare.island with missed := 3 } : Island).missed) ∧
    (bare.island.spdm < 1 ∧ ({ bare.island with spdm := 2 } : Island).spdm = 2 ∧ ¬ ({ bare.island with spdm := 3 } : Island).spdm < 3 ∧ bare.island.fuses * 2 ^ 20 + bare.island.flashCount < 2 ^ 30 ∧
      bare.island.flashCount < 2 ^ 20 ∧ 2 ^ 30 ≤ ({ bare.island with fuses := 1024 } : Island).fuses * 2 ^ 20) ∧
    ((queued []).time.toNat < 86400000000000 ∧ mfind (queued []).island.ports 0 = none ∧ ((queued []).die 0).firmware = true ∧ ((queued []).die 1).firmware = false) := by
  decide

theorem witness_MemoryCanonical : ∃ t, Memory.wf bare = true ∧ step bare = .next t := ⟨_, by decide, rfl⟩

end Sys2Proof.Tests
end

/-! Memory that is homed nowhere (R71): a write to it is lost, so that linking a pool there links nothing. -/

namespace Sys2Proof.Machine

/-! ### Bytes that are homed nowhere -/

theorem inL2_of_homeless {s : State} {a : Nat} (h : s.homeless a = true) : s.inL2 a = false := by
  simp [State.inL2, h]

theorem decodedView_of_homeless {s : State} {a : Nat} (h : s.homeless a = true) : s.decodedView a = none := by
  simp [State.decodedView, State.windowAt, inL2_of_homeless h]

/-- Where no line holds it, such a byte reads as a free value. -/
theorem byteAt_of_homeless {s : State} {a : Nat} (hl : mfind s.l2 (a / 128) = none) (h : s.homeless a = true) :
    s.byteAt a = Config.freeByte (2 ^ 40) a := by
  simp [State.byteAt, hl, decodedView_of_homeless h, State.hbm, h]

theorem keepMem_of_unread {s : State} (hu : s.unread = []) (a n : Nat) : s.keepMem a n = s := by
  simp [State.keepMem, hu]

section Unwritten

variable {s : State} (hl : s.l2 = []) (hu : s.unread = [])
include hl

theorem fillFor_of_homeless {line : Nat} (svc : Nat) (h : s.homeless (line * 128) = true) : s.fillFor svc line = s := by
  simp [State.fillFor, hl, mfind, inL2_of_homeless h]

include hu

theorem underPutLine_of_homeless {a : Nat} (bs : List Byte) (h : s.homeless a = true) : s.underPutLine a bs = s := by
  simp [State.underPutLine, keepMem_of_unread hu, hl, mfind, h]

variable (hr : ∀ a, s.homeless a = s.homeless (a / 128 * 128))
include hr

theorem homePut_of_homeless {a : Nat} (b : Byte) (h : s.homeless a = true) : s.homePut a [b] = s := by
  have hfill : s.fillFor noClass (a / 128) = s := fillFor_of_homeless hl noClass (hr a ▸ h)
  have htake : [b].take (128 - a % 128) = [b] := List.take_of_length_le (by simp; omega)
  have hfits : [b].length ≤ 128 - a % 128 := by simp; omega
  simp only [State.homePut, State.homePutFor, State.homePutLineFor, hfill, htake, hfits, inL2_of_homeless h,
    underPutLine_of_homeless hl hu [b] h, if_true, Bool.false_and, Bool.false_eq_true, if_false, List.cons_ne_nil]

/-- Bytes written through a page table to places that are homed nowhere change nothing. -/
theorem virtPut_of_homeless {q va : Nat} (bs : List Byte)
    (h : ∀ j < bs.length, ∀ t, s.look q (va + j) = some t → s.homeless (t.phys (va + j)) = true) :
    s.virtPut q va bs = s := by
  refine List.foldlRecOn (motive := (· = s)) _ _ rfl fun u hu' ⟨b, j⟩ hb => ?_
  subst u
  have hj : j < bs.length := (List.mem_zipIdx' hb).1
  cases ht : s.look q (va + j) with
  | none => rfl
  | some t => simpa using homePut_of_homeless hl hu hr b (h j hj t ht)

/-- Linking a pool all of whose blocks are homed nowhere changes nothing. -/
theorem poolLink_of_homeless {die n : Nat}
    (h : ∀ i < (s.die die).poolCount n, ∀ j < 8, ∀ t,
      s.look (mget 0 (s.die die).poolQref n).toNat ((s.die die).poolBlockAt n i + j) = some t →
        s.homeless (t.phys ((s.die die).poolBlockAt n i + j)) = true) :
    s.poolLink die n = s := by
  refine List.foldlRecOn (motive := (· = s)) _ _ rfl ?_
  rintro _ rfl i hi
  exact virtPut_of_homeless hl hu hr _ (h i (List.mem_range.1 hi))

end Unwritten

/-- What the linking of a pool changes beside its blocks' links lies in the dies' registers. -/
theorem poolLinkDone_only_dies {s t : State} {die n : Nat} (hlink : s.poolLink die n = s)
    (h : exec (.poolLinkDone die n) s = .next t) : t = { s with dies := t.dies } := by
  change execPoolLinkDone die n s = .next t at h
  simp only [execPoolLinkDone, hlink] at h
  injection h with h
  split at h
  · exact h ▸ rfl
  · split at h <;> exact h ▸ rfl

/-! ### A pool in memory that is homed nowhere -/

/-- The page of the first 16 GiB, virtual as physical. -/
def lowPage : Trans := ⟨0, 0, 7, 0, 0, false, false, false⟩

/-- The word of a pool that is enabled and being linked, of blocks of 64 bytes from 1 MiB on. -/
def linkingWord : DWord := 0xC000000000100000

/-- In partitioned mode, with no partition's memory range set, the linking of die 0's pool 0 of `cnt` blocks is about to be done, through a page
that the firmware core's TLB holds. -/
def unhomedPool (cnt : Nat) : State :=
  { State.reset with
    partitioned := true
    dies := [(0, { poolCfg := [(0, linkingWord)], poolStat := [(0, BitVec.ofNat 64 (cnt * 2 ^ 32))] })]
    tlbs := [(0, [lowPage])] }

theorem unhomedPool_homeless (cnt a : Nat) : (unhomedPool cnt).homeless a = (packageOf a == 0 && !inHostWindow a) := by
  simp [State.homeless, State.rangeOf, unhomedPool, State.reset]

theorem unhomedPool_homeless_low (cnt : Nat) {a : Nat} (h : a < 2 ^ 34) : (unhomedPool cnt).homeless a = true := by
  simp only [unhomedPool_homeless, packageOf, inHostWindow, Bool.and_eq_true, beq_iff_eq, Bool.not_eq_true', decide_eq_false_iff_not]
  omega

theorem unhomedPool_plainMem (cnt : Nat) : PlainMem (unhomedPool cnt) where
  ranges a := by
    simp only [unhomedPool_homeless, packageOf, inHostWindow, show a / 128 * 128 / 2 ^ 40 = a / 2 ^ 40 by omega,
      show (0xC000000000 ≤ a / 128 * 128 % 2 ^ 40) ↔ (0xC000000000 ≤ a % 2 ^ 40) by omega]
  views a := by
    cases h : (unhomedPool cnt).homeless a with
    | true => exact decodedView_of_homeless h
    | false =>
      have : (unhomedPool cnt).inL2 a = false := by
        rw [unhomedPool_homeless] at h
        simp [State.inL2, unhomedPool, State.reset, h]
      simp [State.decodedView, State.windowAt, this]
  home _ _ h := nomatch h
  whole _ _ h := nomatch h
  raw _ _ h := nomatch h
  clean _ _ h := nomatch h

theorem lowPage_phys {va : Nat} (h : va < 2 ^ 34) : lowPage.phys va = va := by
  simpa [Trans.phys, lowPage, pageSize] using h

theorem unhomedPool_cached (cnt : Nat) {va : Nat} (h : va < 2 ^ 34) : (unhomedPool cnt).cached 0 0 va = some lowPage := by
  have hpage : va / pageSize lowPage.size = 0 := Nat.div_eq_of_lt h
  have htlb : (unhomedPool cnt).tlbAt 0 0 va = some lowPage := by
    simp only [State.tlbAt, show mget [] (unhomedPool cnt).tlbs 0 = [lowPage] from rfl, List.find?_cons, hpage]
    rfl
  simp [State.cached, tlbsOf, htlb]

theorem unhomedPool_poolCfg (cnt : Nat) : mget 0 ((unhomedPool cnt).die 0).poolCfg 0 = linkingWord := rfl

theorem unhomedPool_poolBase (cnt : Nat) : ((unhomedPool cnt).die 0).poolBase 0 = 2 ^ 20 := by
  rw [Die.poolBase, unhomedPool_poolCfg]
  simp [linkingWord]

theorem linkingWord_blockSize : 2 ^ ((linkingWord.extractLsb' 52 4).toNat + 6) = 64 := by simp [linkingWord]

theorem unhomedPool_poolBlockAt (cnt i : Nat) : ((unhomedPool cnt).die 0).poolBlockAt 0 i = 2 ^ 20 + i * 64 := by
  rw [Die.poolBlockAt, unhomedPool_poolBase, Die.poolBlock, unhomedPool_poolCfg, linkingWord_blockSize]

theorem unhomedPool_poolCount {cnt : Nat} (h : cnt ≤ 2) : ((unhomedPool cnt).die 0).poolCount 0 = cnt := by
  interval_cases cnt <;> rfl

theorem unhomedPool_queueCore (cnt : Nat) : (unhomedPool cnt).queueCore 0 = 0 := by
  simp [State.queueCore, State.partDie, unhomedPool, State.reset, mfind]

theorem unhomedPool_queue (cnt : Nat) : (mget 0 ((unhomedPool cnt).die 0).poolQref 0).toNat = 0 := rfl

theorem unhomedPool_look (cnt : Nat) {va : Nat} (h : va < 2 ^ 34) : (unhomedPool cnt).look 0 va = some lowPage := by
  rw [State.look, State.lookFor, unhomedPool_queueCore, unhomedPool_cached cnt h]

theorem unhomedPool_poolLink {cnt : Nat} (h : cnt ≤ 2) : (unhomedPool cnt).poolLink 0 0 = unhomedPool cnt := by
  refine poolLink_of_homeless rfl rfl (unhomedPool_plainMem cnt).ranges fun i hi j hj t ht => ?_
  rw [unhomedPool_poolCount h] at hi
  have hlow : 2 ^ 20 + i * 64 + j < 2 ^ 34 := by omega
  rw [unhomedPool_poolBlockAt, unhomedPool_queue, unhomedPool_look cnt hlow] at ht
  rw [unhomedPool_poolBlockAt, ← Option.some.inj ht, lowPage_phys hlow]
  exact unhomedPool_homeless_low cnt hlow

/-- What the statement asks of the pool's first link, and what stands there: the free bytes that no write reaches. -/
theorem dieRegisters_free_link (h : Obligations.DieRegisters) {cnt : Nat} (h0 : 0 < cnt) (h2 : cnt ≤ 2) :
    (List.range 8).map (fun j => Config.freeByte (2 ^ 40) (2 ^ 20 + j)) = leBytes 8 (if 1 = cnt then 0 else 2 ^ 20 + 64) := by
  obtain ⟨hpool, -⟩ := h
  obtain ⟨-, -, -, -, -, -, hdone⟩ := hpool (unhomedPool cnt) 0 0 (by decide) (by decide)
  simp only [unhomedPool_poolCount h2, unhomedPool_poolCfg, unhomedPool_poolBase, unhomedPool_queue, unhomedPool_queueCore,
    linkingWord_blockSize] at hdone
  have hcached (i : Nat) (hi : i < cnt) (j : Nat) (hj : j < 8) :
      ((unhomedPool cnt).cached 0 0 (2 ^ 20 + i * 64 + j)).map (fun t => t.phys (2 ^ 20 + i * 64 + j)) = some (2 ^ 20 + i * 64 + j) := by
    have hlow : 2 ^ 20 + i * 64 + j < 2 ^ 34 := by omega
    rw [unhomedPool_cached cnt hlow, Option.map_some, lowPage_phys hlow]
  obtain ⟨t, hexec, -, -, -, hlinks, -⟩ := hdone (2 ^ 20) (by decide) (unhomedPool_plainMem cnt) hcached
  have ht : t = { unhomedPool cnt with dies := t.dies } := poolLinkDone_only_dies (unhomedPool_poolLink h2) hexec
  have hfree (j : Nat) (hj : j < 8) : t.byteAt (2 ^ 20 + j) = Config.freeByte (2 ^ 40) (2 ^ 20 + j) := by
    rw [ht]
    exact byteAt_of_homeless rfl (unhomedPool_homeless_low cnt (by omega))
  calc (List.range 8).map (fun j => Config.freeByte (2 ^ 40) (2 ^ 20 + j))
      = t.bytesAt (2 ^ 20) 8 := (List.map_congr_left fun j hj => hfree j (List.mem_range.1 hj)).symm
    _ = leBytes 8 (if 1 = cnt then 0 else 2 ^ 20 + 64) := by simpa using hlinks 0 h0

/-- Refutes O56: the clause of a pool's linking does not ask that the blocks have homes, and memory that is homed nowhere takes no
write (R71). In partitioned mode with no partition's range set, a pool of one block and one of two read the same free bytes at their first
block after the linking, where the clause asks for the end of the list and for the address of the second block. -/
theorem not_dieRegisters : ¬ Obligations.DieRegisters := fun h =>
  absurd ((dieRegisters_free_link h (cnt := 1) (by decide) (by decide)).symm.trans
    (dieRegisters_free_link h (cnt := 2) (by decide) (by decide))) (by decide)

end Sys2Proof.Machine

/-! Writing at the home of plain memory (R65, R75, R79, R80): the bytes written read back and no other byte changes, whichever line
a fill displaces from the L2. -/

namespace Sys2Proof.Machine

/-! ### What a step of memory leaves alone -/

/-- A step of memory: it changes the bytes behind the L2 and its lines, their poison and what operations keep of them, and of the
dies no window's place. -/
structure MemoryStep (s t : State) : Prop where
  rest : t = { s with dies := t.dies, mem := t.mem, host := t.host, l2 := t.l2, uses := t.uses, badSectors := t.badSectors,
                      badHbm := t.badHbm, kept := t.kept }
  ctl : ∀ d, (t.die d).winCtl = (s.die d).winCtl
  view : ∀ d, (t.die d).winView = (s.die d).winView
  sound : s.badSectors = [] → s.badHbm = [] → t.badSectors = [] ∧ t.badHbm = []

theorem MemoryStep.refl (s : State) : MemoryStep s s := ⟨rfl, fun _ => rfl, fun _ => rfl, fun h h' => ⟨h, h'⟩⟩

theorem MemoryStep.trans {s t u : State} (h : MemoryStep s t) (h' : MemoryStep t u) : MemoryStep s u where
  rest := h'.rest.trans (by rw [h.rest])
  ctl d := (h'.ctl d).trans (h.ctl d)
  view d := (h'.view d).trans (h.view d)
  sound hs hb := have ⟨hs', hb'⟩ := h.sound hs hb; h'.sound hs' hb'

namespace MemoryStep

variable {s t : State} (h : MemoryStep s t)
include h

theorem zinc : t.zinc = s.zinc := by rw [h.rest]
theorem parts : t.parts = s.parts := by rw [h.rest]
theorem partitioned : t.partitioned = s.partitioned := by rw [h.rest]
theorem island : t.island = s.island := by rw [h.rest]
theorem epoch : t.epoch = s.epoch := by rw [h.rest]
theorem warps : t.warps = s.warps := by rw [h.rest]
theorem blocks : t.blocks = s.blocks := by rw [h.rest]
theorem launches : t.launches = s.launches := by rw [h.rest]
theorem flights : t.flights = s.flights := by rw [h.rest]

theorem homeless (a : Nat) : t.homeless a = s.homeless a := by
  rw [State.homeless, State.homeless, State.rangeOf, State.rangeOf, h.zinc, h.parts, h.partitioned]

theorem overHost (a : Nat) : t.overHost a = s.overHost a := by rw [State.overHost, State.overHost, h.zinc]

theorem busAddr (a : Nat) : t.busAddr a = s.busAddr a := by rw [State.busAddr, State.busAddr, h.island]

theorem inL2 (a : Nat) : t.inL2 a = s.inL2 a := by rw [State.inL2, State.inL2, h.zinc, h.homeless]

theorem homeDie (a : Nat) : t.homeDie a = s.homeDie a := by
  rw [State.homeDie, State.homeDie, State.rangeOf, State.rangeOf, h.zinc, h.parts, h.partitioned]

theorem windowAt (a : Nat) : t.windowAt a = s.windowAt a := by
  rw [State.windowAt, State.windowAt, h.homeDie, h.inL2, h.ctl, h.view]

theorem winFmtAt (w : Nat) : t.winFmtAt w = s.winFmtAt w := by rw [State.winFmtAt, State.winFmtAt, h.ctl]

theorem decodedView (a : Nat) : t.decodedView a = s.decodedView a := by
  rw [State.decodedView, State.decodedView, h.windowAt]
  simp only [h.winFmtAt]

theorem lineFmt (L : Line) : t.lineFmt L = s.lineFmt L := by
  rw [State.lineFmt, State.lineFmt]
  simp only [h.winFmtAt]

/-- What the memory behind the L2 holds depends on nothing else. -/
theorem hbm (hm : t.mem = s.mem) (hh : t.host = s.host) (a : Nat) : t.hbm a = s.hbm a := by
  rw [State.hbm, State.hbm, h.homeless, h.overHost, h.busAddr, h.epoch, hm, hh]

end MemoryStep

/-! ### Lines of plain memory -/

/-- A line that may stand in the L2 of plain memory. -/
structure GoodLine (s : State) (n : Nat) (L : Line) : Prop where
  home : s.inL2 (n * 128) = true
  whole : L.data.length = 128
  raw : s.lineFmt L = none
  clean : L.dirty = 0 → L.data = s.hbmBytes (n * 128) 128

theorem PlainMem.line {s : State} (h : PlainMem s) {n : Nat} {L : Line} (hL : mfind s.l2 n = some L) : GoodLine s n L :=
  ⟨h.home n L hL, h.whole n L hL, h.raw n L hL, h.clean n L hL⟩

theorem PlainMem.of_lines {s t : State} (h : PlainMem s) (hst : MemoryStep s t) (hl : ∀ n L, mfind t.l2 n = some L → GoodLine t n L) :
    PlainMem t where
  ranges a := by rw [hst.homeless, hst.homeless]; exact h.ranges a
  views a := by rw [hst.decodedView]; exact h.views a
  home n L hL := (hl n L hL).home
  whole n L hL := (hl n L hL).whole
  raw n L hL := (hl n L hL).raw
  clean n L hL := (hl n L hL).clean

/-- Whether a line is good depends on the bytes behind it alone. -/
theorem GoodLine.of_hbm {s t : State} {n : Nat} {L : Line} (h : GoodLine s n L) (hst : MemoryStep s t)
    (hb : ∀ j < 128, t.hbm (n * 128 + j) = s.hbm (n * 128 + j)) : GoodLine t n L where
  home := by rw [hst.inL2]; exact h.home
  whole := h.whole
  raw := by rw [hst.lineFmt]; exact h.raw
  clean hd := by
    rw [h.clean hd]
    exact List.map_congr_left fun j hj => (hb j (List.mem_range.1 hj)).symm

theorem byteAt_eq_plainByte {s : State} (h : PlainMem s) (a : Nat) : s.byteAt a = s.plainByte a := by
  rw [State.byteAt, State.plainByte, h.views a]

theorem plainByte_line {s : State} {a : Nat} {L : Line} (h : mfind s.l2 (a / 128) = some L) :
    s.plainByte a = L.data.getD (a % 128) 0 := by
  rw [State.plainByte, h]

theorem plainByte_none {s : State} {a : Nat} (h : mfind s.l2 (a / 128) = none) : s.plainByte a = s.hbm a := by
  rw [State.plainByte, h]

theorem getD_hbmBytes (s : State) (a n : Nat) {j : Nat} (h : j < n) : (s.hbmBytes a n).getD j 0 = s.hbm (a + j) := by
  simp [State.hbmBytes, h]

theorem overHost_line (s : State) (a : Nat) : s.overHost a = s.overHost (a / 128 * 128) := by
  have hwin : inHostWindow a = inHostWindow (a / 128 * 128) := decide_eq_decide.2 (by omega)
  rw [State.overHost, State.overHost, hwin, show a / 128 * 128 / 2 ^ 40 = a / 2 ^ 40 by omega]

theorem inL2_line {s : State} (h : PlainMem s) (a : Nat) : s.inL2 a = s.inL2 (a / 128 * 128) := by
  have hwin : inHostWindow a = inHostWindow (a / 128 * 128) := decide_eq_decide.2 (by omega)
  rw [State.inL2, State.inL2, hwin, h.ranges a, packageOf, packageOf, show a / 128 * 128 / 2 ^ 40 = a / 2 ^ 40 by omega]

theorem inL2_homed {s : State} {a : Nat} (h : s.inL2 a = true) : s.homeless a = false ∧ s.overHost a = false := by
  simp only [State.inL2, Bool.and_eq_true, Bool.not_eq_true'] at h
  exact ⟨h.2, by rw [State.overHost, h.1.2, Bool.false_and]⟩

/-! ### Bytes over other bytes -/

/-- Some bytes from an address on, over what stands there. -/
def overlay (f : Nat → Byte) (a : Nat) (bs : List Byte) (x : Nat) : Byte :=
  if a ≤ x ∧ x < a + bs.length then bs.getD (x - a) 0 else f x

theorem overlay_out {f : Nat → Byte} {a x : Nat} {bs : List Byte} (h : x < a ∨ a + bs.length ≤ x) : overlay f a bs x = f x :=
  if_neg (by omega)

theorem overlay_in (f : Nat → Byte) (a : Nat) {bs : List Byte} {j : Nat} (h : j < bs.length) : overlay f a bs (a + j) = bs.getD j 0 := by
  rw [overlay, if_pos (by omega), Nat.add_sub_cancel_left]

theorem overlay_nil (f : Nat → Byte) (a : Nat) : overlay f a [] = f := funext fun _ => overlay_out (by simp; omega)

theorem overlay_cons (f : Nat → Byte) (a : Nat) (b : Byte) (bs : List Byte) : overlay f a (b :: bs) = overlay (overlay f a [b]) (a + 1) bs := by
  funext x
  by_cases hx : a ≤ x ∧ x < a + (b :: bs).length
  · obtain ⟨j, rfl⟩ := Nat.exists_eq_add_of_le hx.1
    rw [List.length_cons] at hx
    rw [overlay_in f a (by simpa using hx.2)]
    cases j with
    | zero => rw [overlay_out (by omega), overlay, if_pos (by simp)]; simp
    | succ j => rw [show a + (j + 1) = a + 1 + j by omega, overlay_in _ _ (by omega)]; simp
  · rw [List.length_cons] at hx
    rw [overlay_out (by simp; omega), overlay_out (by omega), overlay_out (by simp; omega)]

/-- Two runs that follow each other are one. -/
theorem overlay_append (f : Nat → Byte) (a : Nat) (bs cs : List Byte) : overlay (overlay f a bs) (a + bs.length) cs = overlay f a (bs ++ cs) := by
  induction bs generalizing f a with
  | nil => rw [overlay_nil]; rfl
  | cons b bs ih =>
    rw [overlay_cons f a b bs, List.cons_append, overlay_cons f a b (bs ++ cs), ← ih (overlay f a [b]) (a + 1), List.length_cons,
      Nat.add_right_comm a 1, Nat.add_assoc a]

/-! ### The memory behind the L2 -/

theorem cellGet_cellPut (d : Nat → Byte) (m : List Host.Cell) (a : Nat) (v : Byte) (x : Nat) :
    cellGet d (cellPut d m a v) x = if x = a then v else cellGet d m x := by
  split
  · next h => rw [h, cellGet_cellPut_self]
  · next h => exact cellGet_cellPut_ne m v h

/-- The host window names each byte of host memory once. -/
theorem busAddr_inj {s : State} {a x : Nat} (ha : s.overHost a = true) (hx : s.overHost x = true) (h : s.busAddr a = s.busAddr x) : a = x := by
  simp only [State.overHost, inHostWindow, Bool.and_eq_true, decide_eq_true_eq, beq_iff_eq] at ha hx
  simp only [State.busAddr] at h
  omega

theorem overlay_congr {f g : Nat → Byte} {x : Nat} (h : f x = g x) (a : Nat) (bs : List Byte) : overlay f a bs x = overlay g a bs x := by
  rw [overlay, overlay, h]

theorem cellGet_hostFold {s : State} {x : Nat} (hx : s.overHost x = true) (a : Nat) (bs : List Byte) (n : Nat) (m : List Host.Cell)
    (ha : ∀ j < bs.length, s.overHost (a + n + j) = true) :
    cellGet (fun _ => 0) ((bs.zipIdx n).foldl (fun m b => cellPut (fun _ => 0) m (s.busAddr (a + b.2)) b.1) m) (s.busAddr x) =
      overlay (fun y => cellGet (fun _ => 0) m (s.busAddr y)) (a + n) bs x := by
  induction bs generalizing n m with
  | nil => rw [overlay_nil]; rfl
  | cons b bs ih =>
    have hstep := ih (n + 1) (cellPut (fun _ => 0) m (s.busAddr (a + n)) b) fun j hj => by
      have := ha (j + 1) (by simpa using hj)
      rwa [show a + n + (j + 1) = a + (n + 1) + j by omega] at this
    have hfirst : s.overHost (a + n) = true := ha 0 (by simp)
    rw [overlay_cons]
    refine hstep.trans (overlay_congr ?_ (a + n + 1) bs)
    rw [cellGet_cellPut]
    by_cases he : x = a + n
    · rw [if_pos (by rw [he]), he]
      simp [overlay]
    · rw [if_neg fun hb => he (busAddr_inj hx hfirst hb), overlay_out (by simp; omega)]

/-- What a write to the memory behind the L2 leaves there, where all its bytes lie on one side of the host window. -/
theorem hbm_hbmPut {s : State} {a : Nat} {bs : List Byte} (hh : ∀ j < bs.length, s.homeless (a + j) = false)
    (ho : ∀ j < bs.length, s.overHost (a + j) = false) (x : Nat) : (s.hbmPut a bs).hbm x = overlay s.hbm a bs x := by
  by_cases hx : a ≤ x ∧ x < a + bs.length
  · obtain ⟨j, rfl⟩ := Nat.exists_eq_add_of_le hx.1
    have hj : j < bs.length := by omega
    rw [hbm_hbmPut_in s bs hj (hh j hj) (ho j hj), overlay_in _ _ hj]
  · rw [hbm_hbmPut_out s bs (by omega), overlay_out (by omega)]

theorem hbm_hostPut {s : State} {a : Nat} {bs : List Byte} (hh : ∀ j < bs.length, s.homeless (a + j) = false)
    (ho : ∀ j < bs.length, s.overHost (a + j) = true) (x : Nat) : (s.hostPut a bs).hbm x = overlay s.hbm a bs x := by
  have hread : (s.hostPut a bs).hbm x = if s.homeless x then Config.freeByte (2 ^ 40) x
      else if s.overHost x then cellGet (fun _ => 0) (s.hostPut a bs).host (s.busAddr x) else cellGet (unwritten s.epoch) s.mem x := rfl
  by_cases hx : s.homeless x = false ∧ s.overHost x = true
  · rw [hread, if_neg (by simp [hx.1]), if_pos hx.2]
    refine (cellGet_hostFold hx.2 a bs 0 s.host ho).trans (overlay_congr ?_ a bs)
    simp [State.hbm, hx.1, hx.2]
  · rw [overlay_out]
    · rw [hread, State.hbm]
      split
      · rfl
      · next hhome => rw [if_neg fun h => hx ⟨by simpa using hhome, h⟩, if_neg fun h => hx ⟨by simpa using hhome, h⟩]
    · by_contra hin
      obtain ⟨j, rfl⟩ := Nat.exists_eq_add_of_le (show a ≤ x by omega)
      exact hx ⟨hh j (by omega), ho j (by omega)⟩

/-! ### What a step leaves of plain memory -/

/-- A step of memory that leaves plain memory in which every byte reads as f says. -/
structure Leaves (s t : State) (f : Nat → Byte) : Prop where
  step : MemoryStep s t
  plain : PlainMem t
  bytes : ∀ x, t.byteAt x = f x

theorem Leaves.trans {s t u : State} {f g : Nat → Byte} (h : Leaves s t f) (h' : Leaves t u g) : Leaves s u g :=
  ⟨h.step.trans h'.step, h'.plain, h'.bytes⟩

/-- Poison, what is kept and the order of use do not matter to plain memory. -/
theorem leaves_same {s t : State} (hp : PlainMem s) (hst : MemoryStep s t) (hm : t.mem = s.mem) (hh : t.host = s.host) (hl : t.l2 = s.l2) :
    Leaves s t s.byteAt := by
  have hbm := hst.hbm hm hh
  have hplain : PlainMem t := hp.of_lines hst fun n L hL => (hp.line (hl ▸ hL)).of_hbm hst fun j _ => hbm _
  refine ⟨hst, hplain, fun x => ?_⟩
  rw [byteAt_eq_plainByte hplain, byteAt_eq_plainByte hp, State.plainByte, State.plainByte, hl, hbm]

/-- Setting a good line of the L2. -/
theorem leaves_setLine {s t : State} (hp : PlainMem s) (hst : MemoryStep s t) (hm : t.mem = s.mem) (hh : t.host = s.host) {n : Nat} {L : Line}
    (hl : t.l2 = minsert s.l2 n L) (hL : GoodLine s n L) :
    Leaves s t (fun x => if x / 128 = n then L.data.getD (x % 128) 0 else s.byteAt x) := by
  have hbm := hst.hbm hm hh
  have hfind (k : Nat) : mfind t.l2 k = if k = n then some L else mfind s.l2 k := by
    rw [hl]
    split
    · next h => rw [h, mfind_minsert_self]
    · next h => exact mfind_minsert_ne _ _ h
  have hplain : PlainMem t := hp.of_lines hst fun k K hK => by
    rw [hfind] at hK
    split at hK
    · next h => cases hK; subst h; exact hL.of_hbm hst fun j _ => hbm _
    · exact (hp.line hK).of_hbm hst fun j _ => hbm _
  refine ⟨hst, hplain, fun x => ?_⟩
  rw [byteAt_eq_plainByte hplain]
  split
  · next h => exact plainByte_line (by rw [hfind, if_pos h])
  · next h => rw [byteAt_eq_plainByte hp, State.plainByte, State.plainByte, hfind, if_neg h, hbm]

/-- Changing the memory behind the L2 within a line that the L2 does not hold. -/
theorem leaves_behind {s t : State} (hp : PlainMem s) (hst : MemoryStep s t) (hl : t.l2 = s.l2) {a : Nat} {bs : List Byte}
    (hfit : a % 128 + bs.length ≤ 128) (hnone : mfind s.l2 (a / 128) = none) (hb : ∀ x, t.hbm x = overlay s.hbm a bs x) :
    Leaves s t (overlay s.byteAt a bs) := by
  have hother {x : Nat} (hx : x / 128 ≠ a / 128) (f : Nat → Byte) : overlay f a bs x = f x := overlay_out (by omega)
  have hplain : PlainMem t := hp.of_lines hst fun n L hL => by
    have hn : n ≠ a / 128 := by
      rintro rfl
      rw [hl, hnone] at hL
      cases hL
    exact (hp.line (hl ▸ hL)).of_hbm hst fun j hj => by rw [hb, hother (by omega)]
  refine ⟨hst, hplain, fun x => ?_⟩
  rw [byteAt_eq_plainByte hplain]
  by_cases hx : x / 128 = a / 128
  · have hs : mfind s.l2 (x / 128) = none := by rw [hx, hnone]
    rw [plainByte_none (by rw [hl, hs]), hb]
    exact overlay_congr (by rw [byteAt_eq_plainByte hp, plainByte_none hs]) a bs
  · rw [hother hx, byteAt_eq_plainByte hp, State.plainByte, State.plainByte, hl, hb, hother hx]

/-! ### Dies, changed one by one -/

theorem die_modDie_self (s : State) (d : Nat) (f : Die → Die) : (s.modDie d f).die d = f (s.die d) := by
  simp [State.die, State.modDie]

theorem die_modDie_ne (s : State) {d x : Nat} (f : Die → Die) (h : x ≠ d) : (s.modDie d f).die x = s.die x := by
  simp [State.die, State.modDie, mfind_minsert_ne, h]

/-- A change of a die that leaves its windows alone is a step of memory. -/
theorem step_modDie (s : State) (d : Nat) {f : Die → Die} (hc : ∀ D, (f D).winCtl = D.winCtl) (hv : ∀ D, (f D).winView = D.winView) :
    MemoryStep s (s.modDie d f) where
  rest := rfl
  ctl e := by
    by_cases h : e = d
    · rw [h, die_modDie_self, hc]
    · rw [die_modDie_ne s f h]
  view e := by
    by_cases h : e = d
    · rw [h, die_modDie_self, hv]
    · rw [die_modDie_ne s f h]
  sound h h' := ⟨h, h'⟩

/-! ### Lines that enter the L2 and leave it (R75, R79, R80) -/

theorem windowAt_undecoded {s : State} {a w : Nat} (h : s.decodedView a = none) (hw : s.windowAt a = some w) : winFmt (s.winFmtAt w) = none := by
  have hlow : ¬ 4 ≤ s.winFmtAt w := fun h4 => by simp [State.decodedView, hw, h4] at h
  have hall : ∀ n < 4, winFmt n = none := by decide
  exact hall _ (Nat.not_le.1 hlow)

theorem enterLine_leaves {s : State} (hp : PlainMem s) {n : Nat} (way : Nat) (hin : s.inL2 (n * 128) = true) (hnone : mfind s.l2 n = none) :
    Leaves s (s.enterLine n way) s.byteAt ∧ (mfind (s.enterLine n way).l2 n).isSome = true := by
  let L : Line := ⟨s.hbmBytes (n * 128) 128, 0, s.windowAt (n * 128), way, s.uses⟩
  have heq : s.enterLine n way = { s with uses := s.uses + 1, l2 := minsert s.l2 n L } := by
    simp only [State.enterLine, hp.views, State.lineBytes, hnone, State.freshLine]
    rfl
  have hL : GoodLine s n L := by
    refine ⟨hin, by simp [L, State.hbmBytes], ?_, fun _ => rfl⟩
    cases hw : s.windowAt (n * 128) with
    | none => simp [State.lineFmt, L, hw]
    | some w => simp [State.lineFmt, L, hw, windowAt_undecoded (hp.views _) hw]
  rw [heq]
  refine ⟨?_, by simp⟩
  obtain ⟨hst, hplain, hbytes⟩ := leaves_setLine (t := { s with uses := s.uses + 1, l2 := minsert s.l2 n L }) hp
    ⟨rfl, fun _ => rfl, fun _ => rfl, fun h h' => ⟨h, h'⟩⟩ rfl rfl rfl hL
  refine ⟨hst, hplain, fun x => (hbytes x).trans ?_⟩
  split
  · next h =>
    subst h
    rw [byteAt_eq_plainByte hp, plainByte_none hnone, getD_hbmBytes s _ _ (Nat.mod_lt x (by decide)), Nat.div_add_mod']
  · rfl

theorem settlePoison_step (s : State) (n : Nat) : MemoryStep s (s.settlePoison n) := by
  unfold State.settlePoison
  split
  · exact .refl s
  · next h =>
    refine ⟨rfl, fun _ => rfl, fun _ => rfl, fun hs hb => ?_⟩
    simp [hs, hb] at h

theorem syncPoison_step (s : State) (n : Nat) : MemoryStep s (s.syncPoison n) := by
  unfold State.syncPoison
  split
  · exact .refl s
  · next h =>
    refine ⟨rfl, fun _ => rfl, fun _ => rfl, fun hs hb => ?_⟩
    simp [hs, hb] at h

theorem settlePoison_rest (s : State) (n : Nat) : s.settlePoison n = { s with badHbm := (s.settlePoison n).badHbm } := by
  unfold State.settlePoison
  split <;> rfl

theorem syncPoison_rest (s : State) (n : Nat) : s.syncPoison n = { s with badSectors := (s.syncPoison n).badSectors } := by
  unfold State.syncPoison
  split <;> rfl

/-- Writing a line back puts what the line holds behind the L2, and leaves the lines as they are. -/
theorem writeBack_behind {s : State} (hp : PlainMem s) (n : Nat) : MemoryStep s (s.writeBack n) ∧ (s.writeBack n).l2 = s.l2 ∧
    ∀ x, (s.writeBack n).hbm x = if x / 128 = n then s.byteAt x else s.hbm x := by
  cases hL : mfind s.l2 n with
  | none =>
    have heq : s.writeBack n = s := by simp [State.writeBack, hL]
    rw [heq]
    refine ⟨.refl s, rfl, fun x => ?_⟩
    split
    · next h => rw [byteAt_eq_plainByte hp, plainByte_none (by rw [h, hL])]
    · rfl
  | some L =>
    obtain ⟨hin, hwhole, hraw, hclean⟩ := hp.line hL
    have hbyte {x : Nat} (h : x / 128 = n) : s.byteAt x = L.data.getD (x % 128) 0 := by
      rw [byteAt_eq_plainByte hp, plainByte_line (by rw [h, hL])]
    by_cases hd : L.dirty = 0
    · have heq : s.writeBack n = s := by simp [State.writeBack, hL, hraw, hd]
      rw [heq]
      refine ⟨.refl s, rfl, fun x => ?_⟩
      split
      · next h =>
        rw [hbyte h, hclean hd, getD_hbmBytes s _ _ (Nat.mod_lt x (by decide)), ← h, Nat.div_add_mod']
      · rfl
    · have heq : s.writeBack n = (s.hbmPut (n * 128) L.data).settlePoison n := by
        simp only [State.writeBack, hL, hraw, if_neg hd]
      have hput : MemoryStep s (s.hbmPut (n * 128) L.data) := ⟨rfl, fun _ => rfl, fun _ => rfl, fun h h' => ⟨h, h'⟩⟩
      have hsettle := settlePoison_step (s.hbmPut (n * 128) L.data) n
      have hline (j : Nat) (hj : j < L.data.length) : s.homeless (n * 128 + j) = false ∧ s.overHost (n * 128 + j) = false := by
        rw [hp.ranges, overHost_line, show (n * 128 + j) / 128 * 128 = n * 128 by omega]
        exact inL2_homed hin
      rw [heq]
      refine ⟨hput.trans hsettle, by rw [settlePoison_rest]; rfl, fun x => ?_⟩
      rw [hsettle.hbm (by rw [settlePoison_rest]) (by rw [settlePoison_rest]),
        hbm_hbmPut (fun j hj => (hline j hj).1) (fun j hj => (hline j hj).2)]
      split
      · next h => rw [hbyte h, overlay, if_pos (by omega), show x - n * 128 = x % 128 by omega]
      · exact overlay_out (by omega)

/-- A line that leaves the L2 changes no byte. -/
theorem evictLine_leaves {s : State} (hp : PlainMem s) (n : Nat) :
    Leaves s (s.evictLine n) s.byteAt ∧ mfind (s.evictLine n).l2 n = none ∧
      ∀ k, k ≠ n → mfind (s.evictLine n).l2 k = mfind s.l2 k := by
  obtain ⟨hback, hl, hbm⟩ := writeBack_behind hp n
  let u : State := { s.writeBack n with l2 := merase (s.writeBack n).l2 n }
  have hdrop : MemoryStep (s.writeBack n) u := ⟨rfl, fun _ => rfl, fun _ => rfl, fun h h' => ⟨h, h'⟩⟩
  have hsync := syncPoison_step u n
  have hshadow : MemoryStep (u.syncPoison n) (s.evictLine n) := step_modDie _ _
    (f := fun D => { D with raceShadow := D.raceShadow.filter (fun e => e.1 / 4 != n) }) (fun _ => rfl) (fun _ => rfl)
  have hfrom : MemoryStep (s.writeBack n) (s.evictLine n) := (hdrop.trans hsync).trans hshadow
  have hl' : (s.evictLine n).l2 = merase s.l2 n := by
    show (u.syncPoison n).l2 = _
    rw [syncPoison_rest, ← hl]
  have hbm' (x : Nat) : (s.evictLine n).hbm x = if x / 128 = n then s.byteAt x else s.hbm x := by
    rw [← hbm x]
    refine hfrom.hbm ?_ ?_ x
    · show (u.syncPoison n).mem = _
      rw [syncPoison_rest]
    · show (u.syncPoison n).host = _
      rw [syncPoison_rest]
  have hgone : mfind (s.evictLine n).l2 n = none := by rw [hl', mfind_merase_self]
  have hkeep {k : Nat} (h : k ≠ n) : mfind (s.evictLine n).l2 k = mfind s.l2 k := by rw [hl', mfind_merase_ne _ h]
  have hplain : PlainMem (s.evictLine n) := hp.of_lines (hback.trans hfrom) fun k K hK => by
    have hk : k ≠ n := by
      rintro rfl
      rw [hgone] at hK
      cases hK
    exact (hp.line (hkeep hk ▸ hK)).of_hbm (hback.trans hfrom) fun j hj => by rw [hbm', if_neg (by omega)]
  refine ⟨⟨hback.trans hfrom, hplain, fun x => ?_⟩, hgone, fun k => hkeep⟩
  rw [byteAt_eq_plainByte hplain]
  by_cases h : x / 128 = n
  · rw [plainByte_none (by rw [h, hgone]), hbm', if_pos h]
  · rw [byteAt_eq_plainByte hp, State.plainByte, State.plainByte, hkeep h, hbm', if_neg h]

/-- A fill of any class changes no byte, whichever line it displaces. -/
theorem fillFor_leaves {s : State} (hp : PlainMem s) (svc n : Nat) : Leaves s (s.fillFor svc n) s.byteAt := by
  unfold State.fillFor
  cases hL : mfind s.l2 n with
  | some L =>
    obtain ⟨hst, hplain, hbytes⟩ := leaves_setLine (t := { s with uses := s.uses + 1, l2 := minsert s.l2 n { L with used := s.uses } }) hp
      ⟨rfl, fun _ => rfl, fun _ => rfl, fun h h' => ⟨h, h'⟩⟩ rfl rfl rfl
      (⟨(hp.line hL).home, (hp.line hL).whole, (hp.line hL).raw, (hp.line hL).clean⟩ : GoodLine s n { L with used := s.uses })
    refine ⟨hst, hplain, fun x => (hbytes x).trans ?_⟩
    split
    · next h => rw [byteAt_eq_plainByte hp, plainByte_line (by rw [h, hL])]
    · rfl
  | none =>
    have hstay : Leaves s s s.byteAt := ⟨.refl s, hp, fun _ => rfl⟩
    dsimp only
    split
    · exact hstay
    · next hin =>
      have hin : s.inL2 (n * 128) = true := by simpa using hin
      split
      · exact hstay
      · exact (enterLine_leaves hp _ hin hL).1
      · next w v _ =>
        obtain ⟨hevict, hgone, hkeep⟩ := evictLine_leaves hp v
        have hnone : mfind (s.evictLine v).l2 n = none := by
          by_cases h : n = v
          · rw [h, hgone]
          · rw [hkeep n h, hL]
        have henter := (enterLine_leaves hevict.plain w (by rw [hevict.step.inL2]; exact hin) hnone).1
        exact hevict.trans ⟨henter.step, henter.plain, fun x => (henter.bytes x).trans (hevict.bytes x)⟩

/-! ### Writes (R65, R75) -/

theorem keepMem_step (s : State) (a n : Nat) : MemoryStep s (s.keepMem a n) ∧ (s.keepMem a n).mem = s.mem ∧ (s.keepMem a n).host = s.host ∧
    (s.keepMem a n).l2 = s.l2 := by
  unfold State.keepMem
  split
  · exact ⟨.refl s, rfl, rfl, rfl⟩
  · exact ⟨⟨rfl, fun _ => rfl, fun _ => rfl, fun h h' => ⟨h, h'⟩⟩, rfl, rfl, rfl⟩

theorem keepMem_leaves {s : State} (hp : PlainMem s) (a n : Nat) : Leaves s (s.keepMem a n) s.byteAt :=
  have ⟨hst, hm, hh, hl⟩ := keepMem_step s a n
  leaves_same hp hst hm hh hl

/-- The sectors of a line one by one. -/
theorem sectors_ne_zero : ∀ c₀ c₁ c₂ c₃ : Bool, (c₀ || c₁ || c₂ || c₃) = true →
    [(0, c₀), (1, c₁), (2, c₂), (3, c₃)].foldl (fun m x => if x.2 then m ||| ((1 : BitVec 4) <<< (x.1 : Nat)) else m) 0 ≠ 0 := by decide

/-- A written sector of a line is dirty. -/
theorem dirtyMask_ne_zero {off n : Nat} (hoff : off < 128) (hn : 0 < n) : dirtyMask off n ≠ 0 := by
  refine sectors_ne_zero (off < 32 * 0 + 32 && 32 * 0 < off + n) (off < 32 * 1 + 32 && 32 * 1 < off + n)
    (off < 32 * 2 + 32 && 32 * 2 < off + n) (off < 32 * 3 + 32 && 32 * 3 < off + n) ?_
  simp only [Bool.or_eq_true, Bool.and_eq_true, decide_eq_true_eq]
  omega

theorem spliceBytes_within {l bs : List Byte} {off : Nat} (h : off + bs.length ≤ l.length) :
    spliceBytes l off bs = l.take off ++ bs ++ l.drop (off + bs.length) := by
  rw [spliceBytes, Nat.sub_eq_zero_of_le (by omega), List.replicate_zero, List.append_nil]

theorem length_spliceBytes {l bs : List Byte} {off : Nat} (h : off + bs.length ≤ l.length) : (spliceBytes l off bs).length = l.length := by
  simp only [spliceBytes_within h, List.length_append, List.length_take, List.length_drop]
  omega

theorem getD_spliceBytes {l bs : List Byte} {off : Nat} (h : off + bs.length ≤ l.length) (j : Nat) :
    (spliceBytes l off bs).getD j 0 = overlay (fun j => l.getD j 0) off bs j := by
  simp only [spliceBytes_within h, overlay, List.getD_eq_getElem?_getD, List.getElem?_append, List.length_append, List.length_take,
    List.getElem?_take, List.getElem?_drop, Nat.min_eq_left (show off ≤ l.length by omega)]
  by_cases hlow : j < off
  · rw [if_pos (by omega), if_pos hlow, if_pos hlow, if_neg (by omega)]
  · by_cases hin : j < off + bs.length
    · rw [if_pos hin, if_neg hlow, if_pos (by omega)]
    · rw [if_neg hin, if_neg (by omega), show off + bs.length + (j - (off + bs.length)) = j by omega]

/-- A line with bytes written into it. -/
def Line.written (L : Line) (off : Nat) (bs : List Byte) : Line :=
  { L with data := spliceBytes L.data off bs, dirty := L.dirty ||| dirtyMask off bs.length }

/-- What a write past the caches does to a line that the L2 holds. -/
theorem underPutLine_line {s : State} {a : Nat} {bs : List Byte} {L : Line} (h : mfind (s.keepMem a bs.length).l2 (a / 128) = some L) :
    s.underPutLine a bs =
      { s.keepMem a bs.length with l2 := minsert (s.keepMem a bs.length).l2 (a / 128) (L.written (a % 128) bs) } := by
  simp only [State.underPutLine, h]
  rfl

/-- What a write past the caches does behind the L2. -/
theorem underPutLine_behind {s : State} {a : Nat} {bs : List Byte} (h : mfind (s.keepMem a bs.length).l2 (a / 128) = none)
    (hhome : (s.keepMem a bs.length).homeless a = false) :
    s.underPutLine a bs = if (s.keepMem a bs.length).overHost a then (s.keepMem a bs.length).hostPut a bs
      else (s.keepMem a bs.length).hbmPut a bs := by
  simp only [State.underPutLine, h, hhome, Bool.false_eq_true, if_false]

/-- A write into a line that the L2 holds. -/
theorem splice_leaves {u : State} (hp : PlainMem u) {a : Nat} {bs : List Byte} (hfit : a % 128 + bs.length ≤ 128) (hne : bs ≠ [])
    {L : Line} (hL : mfind u.l2 (a / 128) = some L) :
    Leaves u { u with l2 := minsert u.l2 (a / 128) (L.written (a % 128) bs) } (overlay u.byteAt a bs) := by
  obtain ⟨hin, hwhole, hraw, -⟩ := hp.line hL
  have hK : GoodLine u (a / 128) (L.written (a % 128) bs) := by
    refine ⟨hin, (length_spliceBytes (by omega)).trans hwhole, hraw, fun hd => ?_⟩
    exact absurd (BitVec.or_eq_zero_iff.1 hd).2 (dirtyMask_ne_zero (Nat.mod_lt a (by decide)) (List.length_pos_iff.2 hne))
  obtain ⟨hst, hplain, hb⟩ := leaves_setLine (t := { u with l2 := minsert u.l2 (a / 128) (L.written (a % 128) bs) }) hp
    ⟨rfl, fun _ => rfl, fun _ => rfl, fun h h' => ⟨h, h'⟩⟩ rfl rfl rfl hK
  refine ⟨hst, hplain, fun x => (hb x).trans ?_⟩
  split
  · next h =>
    have hline : u.byteAt x = L.data.getD (x % 128) 0 := by
      rw [byteAt_eq_plainByte hp, plainByte_line (by rw [h, hL])]
    rw [Line.written, getD_spliceBytes (by omega), overlay, overlay, hline]
    by_cases hx : a ≤ x ∧ x < a + bs.length
    · rw [if_pos (by omega), if_pos hx, show x % 128 - a % 128 = x - a by omega]
    · rw [if_neg (by omega), if_neg hx]
  · next h => exact (overlay_out (by omega)).symm

/-- Bytes written past the caches within one line. -/
theorem underPutLine_leaves {s : State} (hp : PlainMem s) {a : Nat} {bs : List Byte} (hfit : a % 128 + bs.length ≤ 128) (hne : bs ≠ [])
    (hhome : s.homeless a = false) : Leaves s (s.underPutLine a bs) (overlay s.byteAt a bs) := by
  obtain ⟨hkeep, hp', hbytes⟩ := keepMem_leaves hp a bs.length
  have hhome' : (s.keepMem a bs.length).homeless a = false := by rw [hkeep.homeless, hhome]
  suffices h : Leaves (s.keepMem a bs.length) (s.underPutLine a bs) (overlay (s.keepMem a bs.length).byteAt a bs) from
    ⟨hkeep.trans h.step, h.plain, fun x => (h.bytes x).trans (overlay_congr (hbytes x) a bs)⟩
  cases hL : mfind (s.keepMem a bs.length).l2 (a / 128) with
  | some L => exact underPutLine_line hL ▸ splice_leaves hp' hfit hne hL
  | none =>
    rw [underPutLine_behind hL hhome']
    have hline (j : Nat) (hj : j < bs.length) : (s.keepMem a bs.length).homeless (a + j) = false ∧
        (s.keepMem a bs.length).overHost (a + j) = (s.keepMem a bs.length).overHost a := by
      have he : (a + j) / 128 * 128 = a / 128 * 128 := by omega
      rw [hp'.ranges, overHost_line, he, ← hp'.ranges, ← overHost_line]
      exact ⟨hhome', rfl⟩
    split
    · next ho =>
      exact leaves_behind (t := (s.keepMem a bs.length).hostPut a bs) hp' ⟨rfl, fun _ => rfl, fun _ => rfl, fun h h' => ⟨h, h'⟩⟩ rfl hfit hL
        (hbm_hostPut (fun j hj => (hline j hj).1) (fun j hj => (hline j hj).2.trans ho))
    · next ho =>
      exact leaves_behind (t := (s.keepMem a bs.length).hbmPut a bs) hp' ⟨rfl, fun _ => rfl, fun _ => rfl, fun h h' => ⟨h, h'⟩⟩ rfl hfit hL
        (hbm_hbmPut (fun j hj => (hline j hj).1) (fun j hj => (hline j hj).2.trans (by simpa using ho)))

/-- Bytes written at their home within one line, for any class. -/
theorem homePutLineFor_leaves {s : State} (hp : PlainMem s) (svc : Nat) {a : Nat} {bs : List Byte} (hfit : a % 128 + bs.length ≤ 128)
    (hne : bs ≠ []) (hhome : s.homeless a = false) : Leaves s (s.homePutLineFor svc a bs) (overlay s.byteAt a bs) := by
  obtain ⟨hfill, hp', hbytes⟩ := fillFor_leaves hp svc (a / 128)
  let u := s.fillFor svc (a / 128)
  have hhome' : u.homeless a = false := by rw [hfill.homeless, hhome]
  suffices h : Leaves u (s.homePutLineFor svc a bs) (overlay u.byteAt a bs) from
    ⟨hfill.trans h.step, h.plain, fun x => (h.bytes x).trans (overlay_congr (hbytes x) a bs)⟩
  unfold State.homePutLineFor
  dsimp only
  split
  · next h =>
    simp only [Bool.and_eq_true, Option.isNone_iff_eq_none] at h
    obtain ⟨hin, hnone⟩ := h
    have henter := (enterLine_leaves hp' 16 (inL2_line hp' a ▸ hin) hnone).1
    have hput := underPutLine_leaves henter.plain hfit hne (by rw [henter.step.homeless, hhome'])
    have hevict := (evictLine_leaves hput.plain (a / 128)).1
    exact ⟨(henter.step.trans hput.step).trans hevict.step, hevict.plain,
      fun x => (hevict.bytes x).trans ((hput.bytes x).trans (overlay_congr (henter.bytes x) a bs))⟩
  · exact underPutLine_leaves hp' hfit hne hhome'

/-- Bytes written at their home, in one line or across two, for any class. -/
theorem homePutFor_leaves {s : State} (hp : PlainMem s) (svc : Nat) {a : Nat} {bs : List Byte} (hlen : bs.length ≤ 128)
    (hhome : ∀ j < bs.length, s.homeless (a + j) = false) : Leaves s (s.homePutFor svc a bs) (overlay s.byteAt a bs) := by
  by_cases hnil : bs = []
  · subst hnil
    rw [overlay_nil]
    exact ⟨.refl s, hp, fun _ => rfl⟩
  let n := 128 - a % 128
  have hpos : 0 < bs.length := List.length_pos_iff.2 hnil
  have hfirst : Leaves s (s.homePutLineFor svc a (bs.take n)) (overlay s.byteAt a (bs.take n)) :=
    homePutLineFor_leaves hp svc (by rw [List.length_take]; omega) (by simp [hnil, n]; omega) (hhome 0 hpos)
  simp only [State.homePutFor, if_neg hnil]
  split
  · next h =>
    rwa [List.take_of_length_le h] at hfirst ⊢
  · next h =>
    have hsecond := homePutLineFor_leaves hfirst.plain svc (a := a + n) (bs := bs.drop n) (by rw [List.length_drop]; omega)
      (by simpa using h) (by rw [hfirst.step.homeless]; exact hhome n (by omega))
    refine ⟨hfirst.step.trans hsecond.step, hsecond.plain, fun x => ?_⟩
    have htake : (bs.take n).length = n := by rw [List.length_take]; omega
    have happend := congrFun (overlay_append s.byteAt a (bs.take n) (bs.drop n)) x
    rw [htake, List.take_append_drop] at happend
    rw [hsecond.bytes x, ← happend]
    exact overlay_congr (hfirst.bytes x) _ _

end Sys2Proof.Machine

/-! An issue slot's choice (R16, R18, R132): the groups of ready slices, the warp that a slot chooses and how the others grow older. -/

namespace Sys2Proof

variable {α : Type}

/-! ### Entries of a sorted map -/

theorem mfind_of_mem {m : NMap α} (hs : msorted m = true) {k : Nat} {v : α} (h : (k, v) ∈ m) : mfind m k = some v := by
  induction m with
  | nil => cases h
  | cons e m ih =>
    obtain ⟨q, x⟩ := e
    obtain ⟨hlow, hm⟩ := msorted_cons.1 hs
    rcases List.mem_cons.1 h with h | h
    · cases h; simp [mfind]
    · have hq : k ≠ q := Nat.ne_of_gt (hlow _ h)
      rw [mfind, if_neg hq, ih hm h]

/-- A change of every entry's value changes what each key holds. -/
theorem mfind_map (m : NMap α) (g : Nat × α → α) (k : Nat) :
    mfind (m.map (fun e => (e.1, g e))) k = (mfind m k).map (fun v => g (k, v)) := by
  induction m with
  | nil => rfl
  | cons e m ih =>
    obtain ⟨q, x⟩ := e
    by_cases h : k = q
    · subst h; simp [mfind]
    · simp [mfind, h, ih]

theorem nodup_keys_of_msorted {m : NMap α} (hs : msorted m = true) : (m.map (·.1)).Nodup := by
  induction m with
  | nil => simp
  | cons e m ih =>
    obtain ⟨hlow, hm⟩ := msorted_cons.1 hs
    rw [List.map_cons, List.nodup_cons]
    refine ⟨fun hmem => ?_, ih hm⟩
    obtain ⟨x, hx, he⟩ := List.mem_map.1 hmem
    exact Nat.ne_of_gt (hlow x hx) he

namespace Machine

/-! ### Masks of slices -/

theorem inMask_sliceBit (i j : Nat) : inMask (sliceBit i) j = true ↔ j = i ∧ j < 16 := by
  have hbit : inMask (sliceBit i) j = (decide (j < 16) && (2 ^ i).testBit j) := by
    rw [← Nat.one_shiftLeft]
    exact BitVec.getLsbD_ofNat 16 (1 <<< i) j
  rw [hbit, Nat.testBit_two_pow, Bool.and_eq_true, decide_eq_true_eq, decide_eq_true_eq, and_comm, eq_comm]

theorem inMask_maskOf (l : List Nat) (j : Nat) : inMask (maskOf l) j = true ↔ j ∈ l ∧ j < 16 := by
  have go (l : List Nat) (m : BitVec 16) :
      inMask (l.foldl (fun m i => m ||| sliceBit i) m) j = true ↔ inMask m j = true ∨ (j ∈ l ∧ j < 16) := by
    induction l generalizing m with
    | nil => simp
    | cons i l ih =>
      have hor : inMask (m ||| sliceBit i) j = true ↔ inMask m j = true ∨ (j = i ∧ j < 16) := by
        rw [← inMask_sliceBit]
        simp [inMask]
      rw [List.foldl_cons, ih, hor, List.mem_cons]
      tauto
  rw [maskOf, go]
  simp [inMask]

/-! ### Slices that stand at one instruction (R16, R18) -/

section Groups

variable (W : Warp)

theorem sameGroup_iff (i j : Nat) : W.sameGroup i j = true ↔ (W.slice i).pc = (W.slice j).pc ∧ (W.slice i).kept = (W.slice j).kept ∧
    ∀ f ∈ W.forks, inMask f.gang i = inMask f.gang j := by
  simp [Warp.sameGroup, and_assoc]

theorem sameGroup_refl (i : Nat) : W.sameGroup i i = true := by simp [sameGroup_iff]

variable {W}

theorem sameGroup_symm {i j : Nat} (h : W.sameGroup i j = true) : W.sameGroup j i = true := by
  rw [sameGroup_iff] at h ⊢
  exact ⟨h.1.symm, h.2.1.symm, fun f hf => (h.2.2 f hf).symm⟩

theorem sameGroup_trans {i j k : Nat} (h : W.sameGroup i j = true) (h' : W.sameGroup j k = true) : W.sameGroup i k = true := by
  rw [sameGroup_iff] at h h' ⊢
  exact ⟨h.1.trans h'.1, h.2.1.trans h'.2.1, fun f hf => (h.2.2 f hf).trans (h'.2.2 f hf)⟩

variable (W)

/-- Whether a slice stands at the instruction of a group's first. -/
def Stands (g : List Nat) (i : Nat) : Bool := W.sameGroup (g.headD 0) i

/-- Two groups do not stand at one instruction. -/
def Apart (g h : List Nat) : Prop := Stands W g (h.headD 0) = false

/-- Each of some slices is in one of the groups, each group holds those that stand with its first, and groups are apart. -/
structure Grouped (l : List Nat) (gs : List (List Nat)) : Prop where
  head : ∀ g ∈ gs, g ≠ [] ∧ g.headD 0 ∈ l
  mem : ∀ g ∈ gs, ∀ j, j ∈ g ↔ j ∈ l ∧ Stands W g j = true
  cover : ∀ i ∈ l, ∃ g ∈ gs, Stands W g i = true
  apart : gs.Pairwise (Apart W)

variable {W}

theorem Apart.stands {g h : List Nat} {i : Nat} (ha : Apart W g h) (hi : Stands W g i = true) : Stands W h i = false :=
  Bool.eq_false_iff.2 fun hh => Bool.eq_false_iff.1 ha (sameGroup_trans hi (sameGroup_symm hh))

variable (W) in
/-- What a group becomes when a slice joins those with which it stands. -/
def joined (i : Nat) (g : List Nat) : List Nat := if Stands W g i then g ++ [i] else g

theorem joined_ne_nil (i : Nat) {g : List Nat} (h : g ≠ []) : joined W i g ≠ [] := by
  unfold joined
  split
  · simp
  · exact h

theorem headD_joined (i : Nat) {g : List Nat} (h : g ≠ []) : (joined W i g).headD 0 = g.headD 0 := by
  cases g with
  | nil => exact absurd rfl h
  | cons a g =>
    unfold joined
    split <;> rfl

theorem stands_joined (i j : Nat) {g : List Nat} (h : g ≠ []) : Stands W (joined W i g) j = Stands W g j := by
  rw [Stands, headD_joined i h, Stands]

theorem mem_joined (i j : Nat) (g : List Nat) : j ∈ joined W i g ↔ j ∈ g ∨ (j = i ∧ Stands W g i = true) := by
  unfold joined
  split
  · next h => simp [h]
  · next h => simp [h]

/-- Where groups are apart, a slice joins the one with which it stands, or makes one of its own. -/
theorem joinGroup_eq {gs : List (List Nat)} (i : Nat) (h : gs.Pairwise (Apart W)) :
    W.joinGroup i gs = gs.map (joined W i) ++ (if gs.any (Stands W · i) then [] else [[i]]) := by
  induction gs with
  | nil => rfl
  | cons g gs ih =>
    obtain ⟨hg, hgs⟩ := List.pairwise_cons.1 h
    rw [show W.joinGroup i (g :: gs) = if Stands W g i then (g ++ [i]) :: gs else g :: W.joinGroup i gs from rfl]
    by_cases hi : Stands W g i = true
    · have hothers : gs.map (joined W i) = gs.map id :=
        List.map_congr_left fun k hk => by simp [joined, (hg k hk).stands hi]
      simp [hi, hothers, joined]
    · simp [hi, ih hgs, joined]

/-- A slice that stands with no group makes one of its own. -/
theorem mem_ite_any {gs : List (List Nat)} {i : Nat} {g : List Nat} (hg : g ∈ (if gs.any (Stands W · i) then [] else [[i]])) :
    g = [i] ∧ ∀ k ∈ gs, Stands W k i = false := by
  split at hg
  · cases hg
  · next hany => exact ⟨List.mem_singleton.1 hg, by simpa using hany⟩

theorem Grouped.join {l : List Nat} {gs : List (List Nat)} (h : Grouped W l gs) (i : Nat) :
    Grouped W (l ++ [i]) (W.joinGroup i gs) := by
  rw [joinGroup_eq i h.apart]
  constructor
  case head =>
    intro g hg
    rcases List.mem_append.1 hg with hg | hg
    · obtain ⟨k, hk, rfl⟩ := List.mem_map.1 hg
      obtain ⟨hne, hmem⟩ := h.head k hk
      exact ⟨joined_ne_nil i hne, by rw [headD_joined i hne]; exact List.mem_append_left _ hmem⟩
    · obtain ⟨rfl, -⟩ := mem_ite_any hg
      simp
  case mem =>
    intro g hg j
    rw [List.mem_append, List.mem_singleton]
    rcases List.mem_append.1 hg with hg | hg
    · obtain ⟨k, hk, rfl⟩ := List.mem_map.1 hg
      rw [stands_joined i j (h.head k hk).1, mem_joined, h.mem k hk]
      constructor
      · rintro (⟨hj, hs⟩ | ⟨rfl, hs⟩)
        · exact ⟨.inl hj, hs⟩
        · exact ⟨.inr rfl, hs⟩
      · rintro ⟨hj | rfl, hs⟩
        · exact .inl ⟨hj, hs⟩
        · exact .inr ⟨rfl, hs⟩
    · obtain ⟨rfl, hapart⟩ := mem_ite_any hg
      rw [List.mem_singleton]
      constructor
      · rintro rfl
        exact ⟨.inr rfl, sameGroup_refl W j⟩
      · rintro ⟨hj | hj, hs⟩
        · obtain ⟨k, hk, hkj⟩ := h.cover j hj
          exact absurd (sameGroup_trans hkj (sameGroup_symm hs)) (Bool.eq_false_iff.1 (hapart k hk))
        · exact hj
  case cover =>
    intro j hj
    by_cases hold : ∃ g ∈ gs, Stands W g j = true
    · obtain ⟨g, hg, hs⟩ := hold
      exact ⟨joined W i g, List.mem_append_left _ (List.mem_map_of_mem hg), by rw [stands_joined i j (h.head g hg).1]; exact hs⟩
    · obtain rfl : j = i := by
        rcases List.mem_append.1 hj with hj | hj
        · exact absurd (h.cover j hj) hold
        · exact List.mem_singleton.1 hj
      refine ⟨[j], List.mem_append_right _ ?_, sameGroup_refl W j⟩
      rw [if_neg (by simpa using hold)]
      exact List.mem_singleton.2 rfl
  case apart =>
    rw [List.pairwise_append]
    refine ⟨?_, ?_, fun g hg k hk => ?_⟩
    · rw [List.pairwise_map]
      exact h.apart.imp_of_mem fun {g k} hg hk hgk => by
        rw [Apart, stands_joined i _ (h.head g hg).1, headD_joined i (h.head k hk).1]
        exact hgk
    · split <;> simp
    · obtain ⟨g', hg', rfl⟩ := List.mem_map.1 hg
      obtain ⟨rfl, hapart⟩ := mem_ite_any hk
      rw [Apart, stands_joined i _ (h.head g' hg').1]
      exact hapart g' hg'

theorem grouped_foldl (l : List Nat) {done : List Nat} {gs : List (List Nat)} (h : Grouped W done gs) :
    Grouped W (done ++ l) (l.foldl (fun gs i => W.joinGroup i gs) gs) := by
  induction l generalizing done gs with
  | nil => simpa using h
  | cons i l ih =>
    have := ih (h.join i)
    rwa [List.append_assoc] at this

theorem groups_grouped (s : State) (k : Nat) : Grouped (s.warp k) (s.readySlices k) (s.groups k) :=
  grouped_foldl (s.readySlices k) (done := []) ⟨by simp, by simp, by simp, .nil⟩

end Groups

/-- Where a slice of a warp is ready, a group of the ready slices that stand at one instruction issues next. -/
theorem nextGroup_some {s : State} {k : Nat} (h : s.readySlices k ≠ []) : ∃ g, s.nextGroup k = some g ∧ g.headD 0 ∈ s.readySlices k ∧
    ∀ j, j ∈ g ↔ j ∈ s.readySlices k ∧ (s.warp k).sameGroup (g.headD 0) j = true := by
  have hgroups := groups_grouped s k
  obtain ⟨g, hnext, hg⟩ : ∃ g, s.nextGroup k = some g ∧ g ∈ s.groups k := by
    unfold State.nextGroup
    dsimp only
    split
    · next g hfind => exact ⟨g, rfl, List.mem_of_find?_eq_some hfind⟩
    · obtain ⟨i, hi⟩ := List.exists_mem_of_ne_nil _ h
      obtain ⟨g, hg, -⟩ := hgroups.cover i hi
      cases hgs : s.groups k with
      | nil => rw [hgs] at hg; cases hg
      | cons g gs => exact ⟨g, rfl, List.mem_cons_self⟩
  exact ⟨g, hnext, (hgroups.head g hg).2, hgroups.mem g hg⟩

theorem lt_of_mem_readySlices {s : State} {k i : Nat} (h : i ∈ s.readySlices k) : i < (s.warp k).slices.length := by
  obtain ⟨x, hx, rfl⟩ := List.mem_map.1 h
  exact (List.mem_zipIdx' (List.mem_of_mem_filter hx)).1

/-! ### The warp that a slot chooses (R132) -/

/-- Whether a slot chooses one warp before another: by the step of R132, then by age, then by position. -/
def GoesBefore (x y : Nat × Warp) : Prop :=
  x.2.selectStep < y.2.selectStep ∨
    (x.2.selectStep = y.2.selectStep ∧ (y.2.age < x.2.age ∨ (y.2.age = x.2.age ∧ x.1 ≤ y.1)))

theorem GoesBefore.trans {x y z : Nat × Warp} (h : GoesBefore x y) (h' : GoesBefore y z) : GoesBefore x z := by
  unfold GoesBefore at *
  omega

theorem GoesBefore.position {x y : Nat × Warp} (h : GoesBefore x y) (h' : GoesBefore y x) : x.1 = y.1 := by
  unfold GoesBefore at *
  omega

/-- The chosen warp goes before every other, where positions rise. -/
theorem chooseWarp_some {es : List (Nat × Warp)} (hs : msorted es = true) (h : es ≠ []) :
    ∃ e, chooseWarp es = some e ∧ e ∈ es ∧ ∀ x ∈ es, GoesBefore e x := by
  induction es with
  | nil => exact absurd rfl h
  | cons x l ih =>
    obtain ⟨hlow, hl⟩ := msorted_cons.1 hs
    have hself : GoesBefore x x := .inr ⟨rfl, .inr ⟨rfl, Nat.le_refl _⟩⟩
    rcases l with _ | ⟨a, l⟩
    · exact ⟨x, rfl, List.mem_cons_self, fun y hy => by rw [List.mem_singleton.1 hy]; exact hself⟩
    · obtain ⟨y, hchoose, hy, hfirst⟩ := ih hl (List.cons_ne_nil a l)
      have hxy : x.1 < y.1 := hlow y hy
      rw [chooseWarp, hchoose]
      dsimp only
      split
      · next hbetter =>
        have hx : GoesBefore x y := by
          simp only [Bool.or_eq_true, decide_eq_true_eq, Bool.and_eq_true, beq_iff_eq] at hbetter
          unfold GoesBefore
          omega
        exact ⟨x, rfl, List.mem_cons_self, fun z hz => (List.mem_cons.1 hz).elim (fun h => h ▸ hself) fun hz => hx.trans (hfirst z hz)⟩
      · next hworse =>
        have hx : GoesBefore y x := by
          simp only [Bool.or_eq_true, decide_eq_true_eq, Bool.and_eq_true, beq_iff_eq] at hworse
          unfold GoesBefore
          omega
        exact ⟨y, rfl, List.mem_cons_of_mem _ hy, fun z hz => (List.mem_cons.1 hz).elim (fun h => h ▸ hx) (hfirst z)⟩

theorem eligible_readySlices {s : State} {slot : Nat} {e : Nat × Warp} (h : e ∈ s.eligible slot) : s.readySlices e.1 ≠ [] := by
  have := (List.mem_filter.1 h).2
  simp only [Bool.and_eq_true, bne_iff_ne, ne_eq] at this
  exact this.2

theorem eligible_slotNo {s : State} {slot : Nat} {e : Nat × Warp} (h : e ∈ s.eligible slot) : e.2.slotNo = slot := by
  have := (List.mem_filter.1 h).2
  simp only [Bool.and_eq_true, beq_iff_eq] at this
  exact this.1.1

theorem find_eligible {s : State} (hs : msorted s.warps = true) {slot : Nat} {e : Nat × Warp} (h : e ∈ s.eligible slot) :
    mfind s.warps e.1 = some e.2 :=
  mfind_of_mem hs (List.mem_of_mem_filter h)

/-! ### Growing older -/

/-- What a cycle of a slot takes from its warps' stalls. -/
def State.ticked (s : State) (slot : Nat) : State :=
  { s with warps := s.warps.map (fun x =>
      if x.2.slotNo = slot then (x.1, { x.2 with yielded := false, stall := x.2.stall - 1 }) else x) }

theorem find_ticked {s : State} {slot : Nat} {k : Nat} {W : Warp} (h : mfind s.warps k = some W) (hW : W.slotNo = slot) :
    mfind (s.ticked slot).warps k = some { W with yielded := false, stall := W.stall - 1 } := by
  have hmap : (s.ticked slot).warps = s.warps.map (fun x =>
      (x.1, if x.2.slotNo = slot then { x.2 with yielded := false, stall := x.2.stall - 1 } else x.2)) :=
    List.map_congr_left fun x _ => by split <;> rfl
  rw [hmap, mfind_map, h, Option.map_some, if_pos hW]

/-- What choosing the group g of the warp k does to one of the eligible warps. -/
def Warp.chosen (W : Warp) (k : Nat) (g : List Nat) (cycle j : Nat) : Warp :=
  if j = k then { W with age := 0, lastGroup := g.headD 0, lastIssue := cycle } else { W with age := min 255 (W.age + 1) }

/-- The eligible warps of a choice, each changed in turn. -/
def State.aged (s : State) (k : Nat) (g : List Nat) (es : List (Nat × Warp)) : State :=
  es.foldl (fun s e => s.modWarp e.1 (fun W => W.chosen k g s.cycle e.1)) s

theorem aged_rest (s : State) (k : Nat) (g : List Nat) (es : List (Nat × Warp)) : s.aged k g es = { s with warps := (s.aged k g es).warps } := by
  induction es generalizing s with
  | nil => rfl
  | cons e es ih => exact ih (s.modWarp e.1 (fun W => W.chosen k g s.cycle e.1))

theorem find_aged_other (s : State) (k : Nat) (g : List Nat) {es : List (Nat × Warp)} {j : Nat} (h : j ∉ es.map (·.1)) :
    mfind (s.aged k g es).warps j = mfind s.warps j := by
  induction es generalizing s with
  | nil => rfl
  | cons e es ih =>
    rw [List.map_cons, List.mem_cons, not_or] at h
    exact (ih (s.modWarp e.1 (fun W => W.chosen k g s.cycle e.1)) h.2).trans (find_modWarp_ne s _ h.1)

theorem find_aged (s : State) (k : Nat) (g : List Nat) {es : List (Nat × Warp)} (hes : (es.map (·.1)).Nodup) {e : Nat × Warp} (h : e ∈ es)
    {W : Warp} (hW : mfind s.warps e.1 = some W) : mfind (s.aged k g es).warps e.1 = some (W.chosen k g s.cycle e.1) := by
  induction es generalizing s with
  | nil => cases h
  | cons x es ih =>
    rw [List.map_cons, List.nodup_cons] at hes
    let u := s.modWarp x.1 (fun W => W.chosen k g s.cycle x.1)
    rcases List.mem_cons.1 h with rfl | h
    · exact (find_aged_other u k g hes.1).trans (find_modWarp hW _)
    · have hx : e.1 ≠ x.1 := fun hx => hes.1 (hx ▸ List.mem_map_of_mem h)
      exact ih u hes.2 h ((find_modWarp_ne s _ hx).trans hW)

theorem select_none {s : State} {slot : Nat} (h : s.eligible slot = []) : s.select slot = s.ticked slot := by
  simp only [State.select, h, chooseWarp]
  rfl

theorem select_some {s : State} {slot : Nat} {e : Nat × Warp} {g : List Nat} (he : chooseWarp (s.eligible slot) = some e)
    (hg : s.nextGroup e.1 = some g) : s.select slot =
      { (s.ticked slot).aged e.1 g (s.eligible slot) with issue := some ⟨e.1, maskOf g, (e.2.slice (g.headD 0)).pc⟩ } := by
  simp only [State.select, he, hg]
  rfl

/-- A choice changes the warps and forms a gang. -/
theorem select_rest (s : State) (slot : Nat) : s.select slot = { s with warps := (s.select slot).warps, issue := (s.select slot).issue } := by
  cases he : chooseWarp (s.eligible slot) with
  | none =>
    simp only [State.select, he]
  | some e =>
    cases hg : s.nextGroup e.1 with
    | none => simp only [State.select, he, hg]
    | some g =>
      rw [select_some he hg, aged_rest]
      rfl

/-- What the choice of the first of the eligible warps leaves: its gang, and every warp's age. -/
theorem select_first {s : State} {slot : Nat} (hs : msorted s.warps = true) (hlen : ∀ x ∈ s.warps, x.2.slices.length ≤ 16)
    {e : Nat × Warp} (he : e ∈ s.eligible slot) (hfirst : ∀ x ∈ s.eligible slot, GoesBefore e x) :
    ∃ i ∈ s.readySlices e.1, ∃ m, (s.select slot).issue = some ⟨e.1, m, (e.2.slice i).pc⟩ ∧
      (∀ j, inMask m j = true ↔ j ∈ s.readySlices e.1 ∧ e.2.sameGroup i j = true) ∧ ((s.select slot).warp e.1).age = 0 ∧
      ∀ x ∈ s.eligible slot, x.1 ≠ e.1 → ((s.select slot).warp x.1).age = min 255 (x.2.age + 1) := by
  have hes : msorted (s.eligible slot) = true := msorted_filter _ hs
  have hwarp : s.warp e.1 = e.2 := warp_of_find (find_eligible hs he)
  obtain ⟨y, hchoose, hy, hyfirst⟩ := chooseWarp_some hes (List.ne_nil_of_mem he)
  obtain rfl : y = e := by
    have hkey : y.1 = e.1 := (hyfirst e he).position (hfirst y hy)
    have hval : some y.2 = some e.2 := by rw [← find_eligible hs hy, hkey, find_eligible hs he]
    exact Prod.ext hkey (Option.some.inj hval)
  obtain ⟨g, hnext, hhead, hmem⟩ := nextGroup_some (eligible_readySlices he)
  rw [hwarp] at hmem
  rw [select_some hchoose hnext]
  have hfind (x : Nat × Warp) (hx : x ∈ s.eligible slot) :=
    find_aged (s.ticked slot) y.1 g (nodup_keys_of_msorted hes) hx (find_ticked (find_eligible hs hx) (eligible_slotNo hx))
  refine ⟨g.headD 0, hhead, maskOf g, rfl, fun j => ?_, ?_, fun x hx hne => ?_⟩
  · rw [inMask_maskOf, hmem, and_iff_left_iff_imp]
    rintro ⟨hj, -⟩
    have := lt_of_mem_readySlices hj
    rw [hwarp] at this
    exact Nat.lt_of_lt_of_le this (hlen _ (List.mem_of_mem_filter hy))
  · exact congrArg Warp.age ((warp_of_find (hfind y hy)).trans (if_pos rfl))
  · exact congrArg Warp.age ((warp_of_find (hfind x hx)).trans (if_neg hne))

end Machine
end Sys2Proof

/-! Rounds (R8, R15, R111, R112, R127, R132, R361): a slot's cycle, a warp's start, the end of a quantum, commits and starts of
rounds. -/

namespace Sys2Proof.Machine

/-! ### A slot's cycle (R132) -/

/-- A cycle as the warps of a slot find it: a later time, and a cycle more. -/
def State.later (s : State) (dt : Nat) : State := { s with time := s.time + BitVec.ofNat 64 dt, cycle := s.cycle + 1 }

theorem exec_issueCycle {s : State} (slot dt : Nat) (h : s.issue = none) :
    exec (.issueCycle slot dt) s = .next ((s.later dt).select slot) :=
  congrArg Host.Outcome.next (if_neg (by simp [h]))

/-- The four steps of R132, spelled out. -/
theorem selectStep_eq (W : Warp) : W.selectStep = if W.tmode then 0 else if W.age = 255 then 1
    else if W.role = .copy ∨ W.role = .matrix ∨ W.role = .epilogue then 2 else 3 := by
  unfold Warp.selectStep
  split
  · rfl
  split
  · simp_all
  · cases hr : W.role <;> simp_all

/-- The gang that a slot's cycle forms, and the ages it leaves. -/
theorem issueCycle_choice (s : State) (slot dt : Nat) (hissue : s.issue = none) (hs : msorted s.warps = true)
    (hlen : ∀ x ∈ s.warps, x.2.slices.length ≤ 16) :
    ∃ t, exec (.issueCycle slot dt) s = .next t ∧ t = { s.later dt with warps := t.warps, issue := t.issue } ∧
      ((s.later dt).eligible slot = [] → t.issue = none) ∧
      ∀ e ∈ (s.later dt).eligible slot, (∀ x ∈ (s.later dt).eligible slot, GoesBefore e x) →
        ∃ i ∈ (s.later dt).readySlices e.1, ∃ m, t.issue = some ⟨e.1, m, (e.2.slice i).pc⟩ ∧
          (∀ j, inMask m j = true ↔ j ∈ (s.later dt).readySlices e.1 ∧ e.2.sameGroup i j = true) ∧ (t.warp e.1).age = 0 ∧
          ∀ x ∈ (s.later dt).eligible slot, x.1 ≠ e.1 → (t.warp x.1).age = min 255 (x.2.age + 1) := by
  refine ⟨(s.later dt).select slot, exec_issueCycle slot dt hissue, select_rest _ slot, fun hes => ?_,
    fun e he hfirst => select_first (s := s.later dt) hs hlen he hfirst⟩
  rw [select_none hes]
  exact hissue

/-! ### Starting a warp (R15) -/

theorem warpStart_starts (s : State) (b i k : Nat) (B : Block) (W : Warp) (hB : mfind s.blocks b = some B) (halive : B.alive = true)
    (hk : B.warps[i]? = some k) (hW : mfind s.warps k = some W) (hstarted : W.started = false) :
    ∃ t, exec (.warpStart b i) s = .next t ∧ t = { s with warps := t.warps } ∧
      mfind t.warps k = some { W with started := true, slot := i % 4 } ∧ ∀ j, j ≠ k → mfind t.warps j = mfind s.warps j := by
  have hexec : exec (.warpStart b i) s = .next (s.modWarp k (fun W => { W with started := true, slot := i % 4 })) := by
    show execWarpStart b i s = _
    simp [execWarpStart, State.block?, hB, halive, hk, warp_of_find hW, hstarted]
  exact ⟨_, hexec, modWarp_rest s k _, find_modWarp hW _, fun j hj => find_modWarp_ne s _ hj⟩

/-! ### The end of a quantum (R111) -/

theorem rootOf_self {s : State} {k : Nat} (h : (s.warp k).twinOf = none) (n : Nat) : s.rootOf n k = k := by
  cases n with
  | zero => rfl
  | succ n => simp only [State.rootOf, h]

theorem primaryOf_none {s : State} {b : Nat} (h : ∀ B, mfind s.blocks b = some B → B.twinBlock = none) : s.primaryOf b = none := by
  unfold State.primaryOf State.block?
  cases hB : mfind s.blocks b with
  | none => rfl
  | some B => simp [h B hB]

theorem endQuantum_plain {s : State} {k : Nat} (htwin : (s.warp k).twinOf = none) {W : Warp} (hW : mfind s.warps k = some W)
    (hforks : W.forks = []) : mfind (s.endQuantum k).warps k = some { W with qdone := true, watchdog := 0 } ∧
      (s.endQuantum k = { s with warps := (s.endQuantum k).warps }) ∧ ∀ j, j ≠ k → mfind (s.endQuantum k).warps j = mfind s.warps j := by
  simp only [State.endQuantum, rootOf_self htwin]
  exact ⟨by rw [find_modWarp hW]; simp [hforks], modWarp_rest s k _, fun j hj => find_modWarp_ne s _ hj⟩

/-- What R111 asks of a warp whose quantum may end, its slices apart. -/
structure MayEnd (s : State) (k : Nat) (W : Warp) (Q : Queue) : Prop where
  warp : mfind s.warps k = some W
  queue : mfind s.queues W.queue = some Q
  twin : W.twinOf = none
  started : W.started = true
  ended : W.ended = false
  buffered : s.buffered W = true
  qdone : W.qdone = false
  forks : W.forks = []

theorem MayEnd.canEnd_iff {s : State} {k : Nat} {W : Warp} {Q : Queue} (h : MayEnd s k W Q) :
    s.canEnd k = true ↔ ∀ i < W.slices.length, s.sliceDone k i = true := by
  simp [State.canEnd, warp_of_find h.warp, h.twin, h.started, h.ended, h.buffered, h.qdone, h.forks]

theorem MayEnd.atQuantum_iff {s : State} {k : Nat} {W : Warp} {Q : Queue} (h : MayEnd s k W Q) (x : Slice) :
    s.atQuantum W x = true ↔ Q.quant ≤ x.retired := by
  simp [State.atQuantum, State.quantumOf, h.queue, h.twin, h.buffered]

theorem MayEnd.sliceDone {s : State} {k : Nat} {W : Warp} {Q : Queue} (h : MayEnd s k W Q) {i : Nat}
    (hi : (W.slice i).exited = true ∨ Q.quant ≤ (W.slice i).retired) : s.sliceDone k i = true := by
  rw [State.sliceDone, warp_of_find h.warp]
  rcases hi with hi | hi
  · simp [hi]
  · simp [(h.atQuantum_iff _).2 hi]

theorem MayEnd.not_sliceDone {s : State} {k : Nat} {W : Warp} {Q : Queue} (h : MayEnd s k W Q) {i : Nat} (he : (W.slice i).exited = false)
    (hw : (W.slice i).wait = none) (hr : (W.slice i).retired < Q.quant) : s.sliceDone k i = false := by
  have hq : s.atQuantum W (W.slice i) = false := by
    rw [Bool.eq_false_iff, ne_eq, h.atQuantum_iff]
    omega
  simp [State.sliceDone, warp_of_find h.warp, he, hw, hq]

theorem quantumEnd_ends {s : State} {k : Nat} {W : Warp} {Q : Queue} (h : MayEnd s k W Q)
    (hblock : ∀ B, mfind s.blocks W.block = some B → B.twinBlock = none)
    (hdone : ∀ i < W.slices.length, (W.slice i).exited = true ∨ Q.quant ≤ (W.slice i).retired) :
    ∃ t, exec (.quantumEnd k) s = .next t ∧ t = { s with warps := t.warps } ∧
      mfind t.warps k = some { W with qdone := true, watchdog := 0 } ∧ ∀ j, j ≠ k → mfind t.warps j = mfind s.warps j := by
  obtain ⟨hself, hrest, hother⟩ := endQuantum_plain (by rw [warp_of_find h.warp, h.twin]) h.warp h.forks
  have hcan : s.canEnd k = true := h.canEnd_iff.2 fun i hi => h.sliceDone (hdone i hi)
  have hprimary : (s.endQuantum k).primaryOf ((s.endQuantum k).warp k).block = none := by
    rw [warp_of_find hself]
    exact primaryOf_none (by rw [hrest]; exact hblock)
  have hexec : exec (.quantumEnd k) s = .next (s.endQuantum k) := by
    show execQuantumEnd k s = _
    simp [execQuantumEnd, hcan, hprimary]
  exact ⟨_, hexec, hrest, hself, hother⟩

theorem quantumEnd_waits {s : State} {k : Nat} {W : Warp} {Q : Queue} (h : MayEnd s k W Q)
    (hblock : ∀ B, mfind s.blocks W.block = some B → B.twinBlock = none)
    (hlive : ∃ i < W.slices.length, (W.slice i).exited = false ∧ (W.slice i).wait = none ∧ (W.slice i).retired < Q.quant) :
    exec (.quantumEnd k) s = .next s := by
  obtain ⟨i, hi, he, hw, hr⟩ := hlive
  have hcan : ¬ s.canEnd k = true := fun hcan => by
    have hdone := h.canEnd_iff.1 hcan i hi
    rw [h.not_sliceDone he hw hr] at hdone
    cases hdone
  have hprimary : s.primaryOf (s.warp k).block = none := by
    rw [warp_of_find h.warp]
    exact primaryOf_none hblock
  show execQuantumEnd k s = _
  simp [execQuantumEnd, hcan, hprimary]

/-! ### A round that lasts a second (R361) -/

theorem find_modLaunch {s : State} {l : Nat} {L : Launch} (h : mfind s.launches l = some L) (f : Launch → Launch) :
    mfind (s.modLaunch l f).launches l = some (f L) := by simp [State.modLaunch, h]

theorem mem_rasInsert (r : RasRec) (l : List RasRec) : r ∈ rasInsert r l := by
  induction l with
  | nil => simp [rasInsert]
  | cons x l ih =>
    rw [rasInsert]
    split
    · simp
    · simp [ih]

theorem roundStuck_waits {s : State} {l : Nat} {L : Launch} (hL : mfind s.launches l = some L)
    (h : s.time.toNat < L.began.toNat + 1000000000 ∨ s.served L.queue = false) : exec (.roundStuckTimeout l) s = .next s := by
  show execRoundStuckTimeout l s = _
  have hguard : (L.dets = 0 || L.done || L.committed || L.stuck || L.next = 0 || s.time.toNat < L.began.toNat + 1000000000 ||
      !s.served L.queue : Bool) = true := by
    rcases h with h | h <;> simp [h]
  simp only [execRoundStuckTimeout, hL, hguard, if_true]

theorem roundStuck_reports {s : State} {l : Nat} {L : Launch} (hL : mfind s.launches l = some L) (hdets : L.dets ≠ 0) (hdone : L.done = false)
    (hcommitted : L.committed = false) (hstuck : L.stuck = false) (hnext : L.next ≠ 0) (hserved : s.served L.queue = true)
    (htime : L.began.toNat + 1000000000 ≤ s.time.toNat) :
    ∃ t, exec (.roundStuckTimeout l) s = .next t ∧ t = { s with launches := t.launches, dies := t.dies } ∧
      mfind t.launches l = some { L with stuck := true } ∧
      ∃ r ∈ (t.die (s.partDie (s.partOf L.queue))).rasQueue, r.type = 0x0B ∧ r.queue = L.queue ∧ r.info0 = BitVec.ofNat 32 L.round := by
  let u := s.modLaunch l (fun L => { L with stuck := true })
  let r : RasRec := { type := 0x0B, queue := L.queue, part := L.part, pkt := BitVec.ofNat 32 L.pkt, info0 := BitVec.ofNat 32 L.round }
  have hexec : exec (.roundStuckTimeout l) s = .next (u.ras (s.partDie (s.partOf L.queue)) r) := by
    show execRoundStuckTimeout l s = _
    simp only [execRoundStuckTimeout, hL, hdets, hdone, hcommitted, hstuck, hnext, hserved, Nat.not_lt.2 htime]
    rfl
  refine ⟨_, hexec, rfl, find_modLaunch hL _, { r with tick := (u.time, u.cycle) }, ?_, rfl, rfl, rfl⟩
  rw [State.ras, die_modDie_self]
  exact mem_rasInsert _ _

end Sys2Proof.Machine

namespace Sys2Proof

/-- What a map finds stands in it. -/
theorem mem_of_find {α : Type} {m : NMap α} {k : Nat} {v : α} (h : mfind m k = some v) : (k, v) ∈ m := by
  induction m with
  | nil => cases h
  | cons e m ih =>
    rw [mfind] at h
    split at h
    · next he => cases h; subst he; exact List.mem_cons_self
    · exact List.mem_cons_of_mem _ (ih h)

/-- What a change of one entry leaves in a map. -/
theorem mem_mupdate {α : Type} {m : NMap α} {q : Nat} {f : α → α} {e : Nat × α} (h : e ∈ mupdate m q f) :
    e ∈ m ∨ ∃ v, (q, v) ∈ m ∧ e = (q, f v) := by
  unfold mupdate at h
  cases hv : mfind m q with
  | none => rw [hv] at h; exact .inl h
  | some v =>
    rw [hv] at h
    rcases mem_minsert h with rfl | h
    · exact .inr ⟨v, mem_of_find hv, rfl⟩
    · exact .inl h

namespace Machine

/-! ### The start of a round (R112, R113) -/

theorem startBars_none {s : State} (h : ∀ b ∈ s.blocks, b.2.bars = []) (b : Nat) : s.startBars b = s := by
  unfold State.startBars State.block?
  cases hB : mfind s.blocks b with
  | none => rfl
  | some B =>
    have hbars : B.bars = [] := h _ (mem_of_find hB)
    simp [hbars]

/-- The matrix units of the cores of a launch's blocks, where none has a redundant copy. -/
theorem nextRound_rest (s : State) (bs : List (Nat × Block)) (h : ∀ b ∈ bs, b.2.twinBlock = none) :
    ∃ cores, bs.foldl (fun (s : State) (b : Nat × Block) =>
      let s := s.modMx b.2.core MxUnit.nextRound
      if b.2.twinBlock.isSome && b.2.alive then s.nextQuantum b.1 else s) s = { s with cores := cores } := by
  induction bs generalizing s with
  | nil => exact ⟨s.cores, rfl⟩
  | cons b bs ih =>
    obtain ⟨cores, hcores⟩ := ih (s.modMx b.2.core MxUnit.nextRound) fun x hx => h x (List.mem_cons_of_mem _ hx)
    refine ⟨cores, ?_⟩
    simp only [List.foldl_cons, h b List.mem_cons_self, Option.isSome_none, Bool.false_and, Bool.false_eq_true, if_false]
    exact hcores

theorem byWid_singleton (s : State) (k : Nat) : s.byWid [k] = [k] := rfl

/-- What the start of a round does to a warp in which nothing waits. -/
def Warp.begun (W : Warp) : Warp :=
  { W.settleLate with
    slices := W.slices.map (fun x => { x with retired := 0 })
    savePc := W.savePc.map (fun x => { x with retired := 0 })
    forks := W.forks.map (fun x => { x with base := x.base.map (fun _ => 0) })
    qwait := false
    qdone := W.killed
    watchdog := 0 }

theorem startWait_none (s : State) (k : Nat) {x : Slice} (h : x.wait = none) : s.startWait k x = x := by
  simp only [State.startWait, h]

theorem slice_begun (W : Warp) {i : Nat} (hi : i < W.slices.length) : W.begun.slice i = { W.slice i with retired := 0 } := by
  simp [Warp.begun, Warp.slice, hi]

/-- The only warp of a package, with no access under way, begins its round. -/
theorem startWarp_begun {s : State} {k : Nat} {W : Warp} (hwarps : s.warps = [(k, W)]) (hflights : s.flights = []) (htwin : W.twinOf = none)
    (hended : W.ended = false) (hslices : ∀ x ∈ W.slices, x.wait = none) (hsaved : ∀ x ∈ W.savePc, x.wait = none) :
    s.startWarp k = s.modWarp k (fun _ => W.begun) := by
  have hfind : mfind s.warps k = some W := by simp [hwarps, mfind]
  have hwarp : s.warp k = W := warp_of_find hfind
  have hfamily : s.family k = [k] := by simp [State.family, hwarps, hended, rootOf_self (hwarp ▸ htwin)]
  have hmap (l : List Slice) (hl : ∀ x ∈ l, x.wait = none) :
      l.map (fun x => { s.startWait k x with retired := 0 }) = l.map (fun x => { x with retired := 0 }) :=
    List.map_congr_left fun x hx => by rw [startWait_none s k (hl x hx)]
  have hstart : s.startWarp k = s.modWarp k (fun W => { W.settleLate with
      slices := W.slices.map (fun x => { s.startWait k x with retired := 0 })
      savePc := W.savePc.map (fun x => { s.startWait k x with retired := 0 })
      forks := W.forks.map (fun x => { x with base := x.base.map (fun _ => 0) })
      qwait := false
      qdone := W.killed
      watchdog := 0 }) := by
    simp only [State.startWarp, hflights, List.filter_nil, List.map_nil, List.foldl_nil, hwarp, hended, Bool.false_eq_true, if_false, hfamily,
      List.foldl_cons]
  rw [hstart]
  simp only [State.modWarp, mupdate, hfind, hmap W.slices hslices, hmap W.savePc hsaved]
  rfl

theorem roundStart_waits {s : State} {l : Nat} {L : Launch} (hL : mfind s.launches l = some L)
    (h : s.pastAll L.gwct = false ∨ ∃ p ∈ s.parts, ∃ c ∈ p.2.children, (s.warp c.1).launch = l) : exec (.roundStart l) s = .next s := by
  have hdue (hc : ∃ p ∈ s.parts, ∃ c ∈ p.2.children, (s.warp c.1).launch = l) : s.childrenDue l = true := by
    simpa only [State.childrenDue, List.any_eq_true, beq_iff_eq] using hc
  show execRoundStart l s = _
  simp only [execRoundStart, hL]
  rw [if_pos]
  rcases h with h | h
  · simp [h]
  · simp [hdue h]

/-- A round starts. -/
theorem roundStart_starts {s : State} {l : Nat} {L : Launch} {k : Nat} {W : Warp} (hL : mfind s.launches l = some L)
    (hcommitted : L.committed = true) (hchildren : ∀ p ∈ s.parts, ∀ c ∈ p.2.children, (s.warp c.1).launch ≠ l)
    (hpast : s.pastAll L.gwct = true) (hwarps : s.warps = [(k, W)]) (hl : W.launch = l) (htwin : W.twinOf = none) (hended : W.ended = false)
    (hswapped : W.swapped = false) (hkilled : W.killed = false) (hflights : s.flights = [])
    (hblocks : ∀ b ∈ s.blocks, b.2.twinBlock = none ∧ b.2.bars = []) (hring : ∀ c, (s.core c).tap.ringWait = [])
    (hslices : ∀ x ∈ W.slices, x.wait = none) (hsaved : ∀ x ∈ W.savePc, x.wait = none) :
    ∃ t, exec (.roundStart l) s = .next t ∧
      mfind t.launches l = some { L with round := L.round + 1, began := s.time, committed := false, stuck := false } ∧
      (t.warp k).qdone = false ∧ (t.warp k).regs = W.regs ∧
      (∀ i < W.slices.length, (t.warp k).slice i = { W.slice i with retired := 0 }) ∧ t.mem = s.mem := by
  let u := s.modLaunch l (fun L => { L with round := L.round + 1, began := s.time, committed := false, stuck := false })
  have hdue : s.childrenDue l = false := by
    simpa [State.childrenDue] using hchildren
  have hks : u.byWid ((u.warps.filter (fun x => x.2.launch == l && x.2.twinOf.isNone)).map (·.1)) = [k] := by
    simp [u, State.modLaunch, hwarps, hl, htwin, byWid_singleton]
  have hbars : (s.blocksOf l).foldl (fun (s : State) (b : Nat × Block) => s.startBars b.1) u = u :=
    List.foldl_fixed' (fun b => startBars_none (s := u) (fun b hb => (hblocks b hb).2) b.1) _
  have hwarp : u.startWarp k = u.modWarp k (fun _ => W.begun) := startWarp_begun hwarps hflights htwin hended hslices hsaved
  obtain ⟨cores, hcores⟩ := nextRound_rest (u.modWarp k (fun _ => W.begun)) (s.blocksOf l)
    fun b hb => (hblocks b (List.mem_of_mem_filter hb)).1
  have hexec : exec (.roundStart l) s = .next { u.modWarp k (fun _ => W.begun) with cores := cores } := by
    show execRoundStart l s = _
    simp only [execRoundStart, hL]
    rw [if_neg (by simp [hcommitted, hpast, hdue, hwarps, hswapped, hring]), ← hcores]
    dsimp only
    rw [hbars, hks, List.foldl_cons, List.foldl_nil, hwarp]
  have hbegun : ({ u.modWarp k (fun _ => W.begun) with cores := cores } : State).warp k = W.begun :=
    warp_modWarp (s := u) (W := W) (by simp [u, State.modLaunch, hwarps, mfind]) _
  refine ⟨_, hexec, find_modLaunch hL _, ?_, ?_, fun i hi => ?_, rfl⟩
  · rw [hbegun]
    exact hkilled
  · rw [hbegun]
    rfl
  · rw [hbegun, slice_begun W hi]

/-! ### The commit of a lone warp's round (R112, R127) -/

/-- A round of a launch that the package's only warp has ended, where nothing holds its commit. -/
structure LoneRound (s : State) (l : Nat) (L : Launch) (k : Nat) (W : Warp) : Prop where
  launch : mfind s.launches l = some L
  dets : L.dets ≠ 0
  committed : L.committed = false
  next : L.next ≠ 0
  whole : L.next = L.n
  done : L.done = false
  redund : L.redund = false
  warps : s.warps = [(k, W)]
  mine : W.launch = l
  twin : W.twinOf = none
  qdone : W.qdone = true
  killed : W.killed = false
  ended : W.ended = false
  ndone : W.ndone = false
  outs : W.outs = []
  blocks : ∀ b ∈ s.blocks, b.2.twinBlock = none
  holds : s.holds = []

/-- What the store step of a commit makes of the only entry of a buffer, where the entry has nothing else to do. -/
structure StoresOnly (s t : State) (k : Nat) (d : Deferred) : Prop where
  store : s.commitStore k d = t
  warps : t.warps = s.warps
  launches : t.launches = s.launches
  blocks : ∀ b ∈ t.blocks, b.2.twinBlock = none
  atomic : t.commitAtomic k d = t
  transaction : ∀ c, t.commitSeal c d = t
  engine : t.sendDeferred k false d = t
  rows : s.rowLacks [k] = []

theorem settle_of_outs {W : Warp} (h : W.outs = []) : W.settle = W := by
  cases W
  cases h
  rfl

theorem modWarp_same {s : State} {k : Nat} {W : Warp} (h : s.warps = [(k, W)]) : s.modWarp k (fun _ => W) = s := by
  have hw : (s.modWarp k (fun _ => W)).warps = s.warps := by simp [State.modWarp, mupdate, minsert, mfind, h]
  rw [modWarp_rest, hw]

theorem warp_of_single {s : State} {k : Nat} {W : Warp} (h : s.warps = [(k, W)]) : s.warp k = W :=
  warp_of_find (by simp [h, mfind])

/-- A warp with no engine operation under way has none that a boundary makes visible. -/
theorem commitEngines_none {s : State} {k : Nat} {W : Warp} (h : s.warps = [(k, W)]) (houts : W.outs = []) : s.commitEngines k = s := by
  have hw := warp_of_single h
  have hvisible : (s.warp k).visible = [] := by simp [hw, Warp.visible, houts]
  have hbefore : (s.warp k).outs = [] := by rw [hw, houts]
  have hsettle : (s.warp k).settle = W := by rw [hw, settle_of_outs houts]
  simp only [State.commitEngines, hvisible, List.foldl_nil, State.settleWarp, hbefore, List.map_nil, List.filter_nil, hsettle]
  exact modWarp_same h

theorem LoneRound.roundOver {s : State} {l : Nat} {L : Launch} {k : Nat} {W : Warp} (h : LoneRound s l L k W) : s.roundOver l = true := by
  have hblocks : (s.blocksOf l).all (fun b => b.2.twinBlock.isNone || !b.2.primary || !b.2.alive || b.2.agreed) = true :=
    List.all_eq_true.2 fun b hb => by simp [h.blocks b (List.mem_of_mem_filter hb)]
  simp [State.roundOver, h.warps, h.qdone, hblocks]

theorem shadow_none {s : State} (h : ∀ b ∈ s.blocks, b.2.twinBlock = none) (b : Nat) : s.shadow b = false := by
  unfold State.shadow State.block?
  cases hB : mfind s.blocks b with
  | none => rfl
  | some B =>
    have htwin : B.twinBlock = none := h _ (mem_of_find hB)
    simp [htwin]

theorem LoneRound.roundWarps {s : State} {l : Nat} {L : Launch} {k : Nat} {W : Warp} (h : LoneRound s l L k W) : s.roundWarps l = [k] := by
  simp [State.roundWarps, h.warps, h.mine, h.twin, h.ended, shadow_none h.blocks, byWid_singleton]

theorem LoneRound.commitAll {s t : State} {l : Nat} {L : Launch} {k : Nat} {W : Warp} (h : LoneRound s l L k W) {d : Deferred}
    (hbuf : W.buf = [d]) (ht : StoresOnly s t k d) : s.commitAll [k] false = t.modWarp k (fun W => { W with buf := [] }) := by
  have hw : s.warp k = W := warp_of_single h.warps
  have htw : t.warps = [(k, W)] := ht.warps.trans h.warps
  have hkilled : (s.warp k).killed = false := by rw [hw, h.killed]
  have hkilled' : (t.warp k).killed = false := by rw [warp_of_single htw, h.killed]
  have horder : s.commitOrder [k] = [k] := if_pos h.holds
  have hcommit : s.commitWarp k [] [d] = t := by
    simp only [State.commitWarp, List.foldl_cons, List.foldl_nil, hkilled, Bool.false_eq_true, if_false, ht.store, hkilled', ht.atomic,
      ht.transaction]
    exact commitEngines_none htw h.outs
  simp only [State.commitAll, horder, List.map_cons, List.map_nil, List.foldl_cons, List.foldl_nil, Bool.false_eq_true, if_false, hw, hbuf,
    Option.map_none, Option.getD_none, hcommit, ht.engine]

theorem foldl_noCopies (s : State) (bs : List (Nat × Block)) (h : ∀ b ∈ bs, b.2.twinBlock = none) :
    bs.foldl (fun (s : State) (b : Nat × Block) => match b.2.twinBlock with
      | some t => if b.2.primary then s.endCopies b.1 t else s
      | none => s) s = s := by
  induction bs with
  | nil => rfl
  | cons b bs ih =>
    rw [List.foldl_cons, h b List.mem_cons_self]
    exact ih fun x hx => h x (List.mem_cons_of_mem _ hx)

/-- A lone warp's round commits its store. -/
theorem LoneRound.commits {s t : State} {l : Nat} {L : Launch} {k : Nat} {W : Warp} (h : LoneRound s l L k W) {d : Deferred}
    (hbuf : W.buf = [d]) (ht : StoresOnly s t k d) : ∃ g, exec (.roundCommit l) s =
      .next ((t.modWarp k (fun W => { W with buf := [] })).modLaunch l (fun L => { L with committed := true, gwct := g })) := by
  let u := t.modWarp k (fun W => { W with buf := [] })
  have hu : u.warps = [(k, { W with buf := [] })] := by
    simp [u, State.modWarp, mupdate, minsert, mfind, ht.warps, h.warps]
  have hndone : u.ndoneOver l = u := if_neg (by simp [hu, h.mine, h.ended, h.ndone, h.twin])
  refine ⟨u.writesOver [k], ?_⟩
  show execRoundCommit l s = _
  have hwave : s.waveStarted l L = true := by simp [State.waveStarted, h.whole]
  simp only [execRoundCommit, h.launch]
  rw [if_neg (by simp [h.dets, h.committed, h.next, h.done, hwave, h.roundOver, State.commitHeld, h.holds]),
    h.roundWarps, ht.rows, if_neg (by simp), h.redund, h.commitAll hbuf ht, hndone]
  exact congrArg Host.Outcome.next (foldl_noCopies _ _ fun b hb => ht.blocks b (List.mem_of_mem_filter hb))

theorem roundCommit_waits {s : State} {l : Nat} {L : Launch} (hL : mfind s.launches l = some L)
    (h : ∃ x ∈ s.warps, x.2.launch = l ∧ x.2.ended = false ∧ x.2.twinOf = none ∧ x.2.qdone = false) :
    exec (.roundCommit l) s = .next s := by
  obtain ⟨x, hx, hl, hended, htwin, hqdone⟩ := h
  have hover : s.roundOver l = false := by
    rw [State.roundOver, Bool.and_eq_false_iff]
    exact .inl (List.all_eq_false.2 ⟨x, hx, by simp [hl, hended, htwin, hqdone]⟩)
  show execRoundCommit l s = _
  simp only [execRoundCommit, hL]
  rw [if_pos (by simp [hover])]

/-! ### Scratchpad stores of a commit -/

theorem raceSpad_unwatched {s : State} {k : Nat} (h : s.watched k = false) (store : Bool) (a : Nat) : s.raceSpad k store a = s := by
  simp [State.raceSpad, State.raceSpadAs, h]

theorem keepSpad_rest (s : State) (b a : Nat) (bs : List Byte) (sees : Nat → Bool) :
    s.keepSpad b a bs sees = { s with kept := (s.keepSpad b a bs sees).kept } := by
  unfold State.keepSpad
  split <;> rfl

theorem spadWrite_rest (s : State) (k b a : Nat) (bs : List Byte) :
    s.spadWrite k b a bs = { s with blocks := (s.spadWrite k b a bs).blocks, kept := (s.spadWrite k b a bs).kept } := by
  rw [State.spadWrite, State.spadWriteFor, keepSpad_rest]
  rfl

theorem spadWrite_twinBlock {s : State} (h : ∀ b ∈ s.blocks, b.2.twinBlock = none) (k b a : Nat) (bs : List Byte) :
    ∀ x ∈ (s.spadWrite k b a bs).blocks, x.2.twinBlock = none := by
  intro x hx
  rw [State.spadWrite, State.spadWriteFor, keepSpad_rest] at hx
  rcases mem_mupdate hx with hx | ⟨B, hB, rfl⟩
  · exact h x hx
  · exact (h (b, B) hB : B.twinBlock = none)

theorem spad_spadWrite {s : State} {b : Nat} {B : Block} (h : mfind s.blocks b = some B) (k a : Nat) (bs : List Byte) :
    (s.spadWrite k b a bs).spad b = spadPut B.spad a bs := by
  rw [State.spadWrite, State.spadWriteFor, keepSpad_rest]
  simp [State.spad, State.modBlock, h]

theorem rowLacks_none {s : State} {k : Nat} {W : Warp} {d : Deferred} (hw : s.warp k = W) (hbuf : W.buf = [d]) (hd : ∀ core e, d ≠ .tap core e) :
    s.rowLacks [k] = [] := by
  simp only [State.rowLacks, List.flatMap_cons, List.flatMap_nil, hw, hbuf, List.append_nil]
  cases d with
  | tap core e => exact absurd rfl (hd core e)
  | _ => rfl

theorem storesOnly_spad {s : State} {l : Nat} {L : Launch} {k : Nat} {W : Warp} (h : LoneRound s l L k W) {a : Nat} {bs : List Byte}
    (hbuf : W.buf = [.spad [(a, bs)]]) (hwatched : s.watched k = false) :
    StoresOnly s (s.spadWrite k W.block a bs) k (.spad [(a, bs)]) where
  store := by
    have hw : s.warp k = W := warp_of_single h.warps
    simp only [State.commitStore, List.foldl_cons, List.foldl_nil, raceSpad_unwatched hwatched, hw, h.killed, Bool.false_eq_true, if_false]
  warps := by rw [spadWrite_rest]
  launches := by rw [spadWrite_rest]
  blocks := spadWrite_twinBlock h.blocks k W.block a bs
  atomic := rfl
  transaction _ := rfl
  engine := rfl
  rows := rowLacks_none (warp_of_single h.warps) hbuf fun _ _ => nofun

theorem roundCommit_spad {s : State} {l : Nat} {L : Launch} {k : Nat} {W : Warp} (h : LoneRound s l L k W) {a : Nat} {bs : List Byte}
    (hbuf : W.buf = [.spad [(a, bs)]]) (hwatched : s.watched k = false) :
    ∃ t, exec (.roundCommit l) s = .next t ∧ (mfind t.launches l).map (·.committed) = some true ∧ (t.warp k).buf = [] ∧
      (∀ B, mfind s.blocks W.block = some B → t.spad W.block = spadPut B.spad a bs) ∧ t.mem = s.mem ∧ t.l2 = s.l2 := by
  have ht := storesOnly_spad h hbuf hwatched
  obtain ⟨g, hexec⟩ := h.commits hbuf ht
  refine ⟨_, hexec, ?_, ?_, fun B hB => spad_spadWrite hB k a bs, ?_, ?_⟩
  · rw [find_modLaunch (ht.launches ▸ h.launch)]
    rfl
  · exact congrArg Warp.buf (warp_modWarp (W := W) (by simp [ht.warps, h.warps, mfind]) _)
  · show (s.spadWrite k W.block a bs).mem = _
    rw [spadWrite_rest]
  · show (s.spadWrite k W.block a bs).l2 = _
    rw [spadWrite_rest]

/-! ### Global stores of a commit -/

theorem PlainMem.aside {s : State} (h : PlainMem s) (flights : NMap Flight) (sent : List Msg) :
    PlainMem { s with flights := flights, sent := sent } :=
  ⟨h.ranges, h.views, h.home, h.whole, h.raw, h.clean⟩

theorem askFar_rest (s : State) (pa : Nat) (x : Nat → Sent) : s.askFar pa x = { s with sent := (s.askFar pa x).sent } := by
  unfold State.askFar
  split <;> rfl

theorem foldl_dropCopy_rest (s : State) (core a : Nat) (js : List Nat) : js.foldl (fun s j =>
    if core / 16 * 16 + j = core then s else s.dropCopy (core / 16 * 16 + j) (a / 32)) s = { s with copies := (js.foldl (fun (s : State) j =>
      if core / 16 * 16 + j = core then s else s.dropCopy (core / 16 * 16 + j) (a / 32)) s).copies } := by
  induction js generalizing s with
  | nil => rfl
  | cons j js ih =>
    rw [List.foldl_cons, ih]
    split <;> rfl

theorem storeSnoop_rest (s : State) (core a : Nat) (bs : List Byte) :
    s.storeSnoop core a bs = { s with copies := (s.storeSnoop core a bs).copies } := by
  rw [State.storeSnoop, foldl_dropCopy_rest]
  rfl

theorem clearPoison_none {s : State} (h : s.badSectors = []) (a n : Nat) : s.clearPoison a n = s := if_pos h

/-- The one store of a flight that a commit performs. -/
structure LoneStore (s : State) (f k : Nat) (F : Flight) (a : Access) (bs : List Byte) : Prop where
  flight : mfind s.flights f = some F
  warp : F.warp = k
  accs : F.accs = [a]
  op : a.op = .write bs
  short : bs.length ≤ 128
  homed : ∀ j < bs.length, s.homeless (a.pa + j) = false
  watched : s.watched k = false
  killed : (s.warp k).killed = false
  sectors : s.badSectors = []
  hbm : s.badHbm = []
  plain : PlainMem s

/-- The state and the access that a write leaves at its home. -/
theorem atHome_write (s : State) (core svc : Nat) {a : Access} {bs : List Byte} (h : a.op = .write bs) : ∃ g,
    (s.atHome core svc a).1 = (((s.askFar a.pa g).homePutFor svc a.pa bs).clearPoison a.pa bs.length).storeSnoop core a.pa bs ∧
      (s.atHome core svc a).2.op = .write bs := by
  simp only [State.atHome, h]
  exact ⟨_, rfl, trivial⟩

/-- What a store's commit leaves: its bytes at their home, and its flight, which holds the store still. -/
structure Stored (s t : State) (f : Nat) (a : Access) (bs : List Byte) : Prop where
  warps : t.warps = s.warps
  blocks : t.blocks = s.blocks
  launches : t.launches = s.launches
  flight : ∃ F, mfind t.flights f = some F ∧ F.plain = true
  bytes : ∀ x, t.byteAt x = overlay s.byteAt a.pa bs x

namespace LoneStore

variable {s : State} {f k : Nat} {F : Flight} {a : Access} {bs : List Byte} (h : LoneStore s f k F a bs)
include h

/-- A write at its home, with its flight on its way: what memory holds afterwards. -/
theorem homePut (flights : NMap Flight) (g : Nat → Sent) (svc : Nat) :
    ∃ v, (({ s with flights := flights } : State).askFar a.pa g).homePutFor svc a.pa bs = v ∧ v.badSectors = [] ∧ v.warps = s.warps ∧
      v.blocks = s.blocks ∧ v.launches = s.launches ∧ v.flights = flights ∧ ∀ x, v.byteAt x = overlay s.byteAt a.pa bs x := by
  let u := ({ s with flights := flights } : State).askFar a.pa g
  have hu : u = { s with flights := flights, sent := u.sent } := askFar_rest _ a.pa g
  have hplain : PlainMem u := hu ▸ h.plain.aside flights u.sent
  have hbyte : u.byteAt = s.byteAt := by rw [hu]; rfl
  obtain ⟨hst, -, hbytes⟩ := homePutFor_leaves hplain svc h.short (by rw [hu]; exact h.homed)
  refine ⟨_, rfl, (hst.sound (by rw [hu]; exact h.sectors) (by rw [hu]; exact h.hbm)).1, ?_, ?_, ?_, ?_, fun x => hbyte ▸ hbytes x⟩
  · rw [hst.warps, hu]
  · rw [hst.blocks, hu]
  · rw [hst.launches, hu]
  · rw [hst.flights, hu]

theorem plain_flight : F.plain = true := by simp [Flight.plain, h.accs, h.op]

/-- A store's commit. -/
theorem commitFlight : Stored s (s.commitFlight f) f a bs := by
  let u := s.modFlight f (fun F => { F with held := false })
  have hadpq : [a].any (·.adpq) = false := by simp [Access.adpq, h.op]
  have hkilled : (u.warp F.warp).killed = false := by rw [h.warp]; exact h.killed
  have hrace : ∀ va, u.raceCheck F.warp true va a.pa = u := fun va => by
    have hw : u.watched F.warp = false := by rw [h.warp]; exact h.watched
    simp [State.raceCheck, State.raceCheckAs, hw]
  have harrive : u.arriveAt F.warp a = u.atHome (u.warp F.warp).core (u.warp F.warp).svc a := by
    simp [State.arriveAt, h.op, hrace, hkilled]
  obtain ⟨g, hhome, hop⟩ := atHome_write u (u.warp F.warp).core (u.warp F.warp).svc h.op
  obtain ⟨v, hv, hsectors, hwarps, hblocks, hlaunches, hflights, hbytes⟩ := h.homePut u.flights g (u.warp F.warp).svc
  rw [show ({ s with flights := u.flights } : State) = u from rfl] at hv
  rw [hv, clearPoison_none hsectors, storeSnoop_rest] at hhome
  let a' := (u.atHome (u.warp F.warp).core (u.warp F.warp).svc a).2
  have hcommit : s.commitFlight f = State.setAccess { v with copies := (v.storeSnoop (u.warp F.warp).core a.pa bs).copies } f 0 a' := by
    have hcover (t : State) (ht : t.badSectors = []) : t.coverStores f = t := if_pos ht
    have hsignal (t : State) : t.signalled F a = t := by simp only [State.signalled, h.op]
    simp only [State.commitFlight, h.flight, hadpq, h.accs, List.zipIdx_cons, List.zipIdx_nil, List.foldl_cons, List.foldl_nil,
      Bool.false_eq_true, if_false, hsignal]
    rw [if_neg (by rw [show State.warp (s.modFlight f _) = u.warp from rfl, hkilled]; exact Bool.false_ne_true)]
    rw [show State.arriveAt (s.modFlight f _) = u.arriveAt from rfl, harrive, hhome]
    exact hcover _ hsectors
  have hflight : mfind (s.commitFlight f).flights f = some { F with held := false, accs := [a'] } := by
    rw [hcommit]
    simp [State.setAccess, State.modFlight, hflights, u, h.flight, h.accs]
  refine ⟨?_, ?_, ?_, ⟨_, hflight, by simp [Flight.plain, a', hop]⟩, fun x => ?_⟩
  · rw [hcommit]; exact hwarps
  · rw [hcommit]; exact hblocks
  · rw [hcommit]; exact hlaunches
  · rw [hcommit]; exact hbytes x

end LoneStore

theorem storesOnly_flight {s : State} {l : Nat} {L : Launch} {k : Nat} {W : Warp} (h : LoneRound s l L k W) {f : Nat} {F : Flight} {a : Access}
    {bs : List Byte} (hbuf : W.buf = [.flight f]) (hf : LoneStore s f k F a bs) : StoresOnly s (s.commitFlight f) k (.flight f) where
  store := by simp [State.commitStore, hf.flight, hf.plain_flight]
  warps := hf.commitFlight.warps
  launches := hf.commitFlight.launches
  blocks := by rw [hf.commitFlight.blocks]; exact h.blocks
  atomic := by
    obtain ⟨G, hG, hplain⟩ := hf.commitFlight.flight
    simp [State.commitAtomic, hG, hplain]
  transaction _ := rfl
  engine := rfl
  rows := rowLacks_none (warp_of_single h.warps) hbuf fun _ _ => nofun

theorem roundCommit_flight {s : State} {l : Nat} {L : Launch} {k : Nat} {W : Warp} (h : LoneRound s l L k W) {f : Nat} {F : Flight} {a : Access}
    {bs : List Byte} (hbuf : W.buf = [.flight f]) (hf : LoneStore s f k F a bs) :
    ∃ t, exec (.roundCommit l) s = .next t ∧ (mfind t.launches l).map (·.committed) = some true ∧ (t.warp k).buf = [] ∧
      t.bytesAt a.pa bs.length = bs ∧ ∀ x, x < a.pa ∨ a.pa + bs.length ≤ x → t.byteAt x = s.byteAt x := by
  have ht := storesOnly_flight h hbuf hf
  obtain ⟨g, hexec⟩ := h.commits hbuf ht
  have hbytes (x : Nat) : State.byteAt (State.modLaunch ((s.commitFlight f).modWarp k (fun W => { W with buf := [] })) l
      (fun L => { L with committed := true, gwct := g })) x = overlay s.byteAt a.pa bs x := hf.commitFlight.bytes x
  refine ⟨_, hexec, ?_, ?_, ?_, fun x hx => (hbytes x).trans (overlay_out hx)⟩
  · rw [find_modLaunch (ht.launches ▸ h.launch)]
    rfl
  · exact congrArg Warp.buf (warp_modWarp (W := W) (by simp [ht.warps, h.warps, mfind]) _)
  · refine List.ext_getElem (by simp [State.bytesAt]) fun j _ hj => ?_
    simp only [State.bytesAt, List.getElem_map, List.getElem_range, hbytes, overlay_in _ _ hj]
    simp [hj]

/-! ### The obligation -/

/-- Settles O52: the cycle of a slot, the start of a warp, the end of a quantum, the commit of a round, the start of the next and the
report of one that lasts too long, each by its own lemma. -/
theorem roundEvents : Obligations.RoundEvents := by
  unfold Obligations.RoundEvents
  refine ⟨fun s slot dt hissue hs hlen => ?_, warpStart_starts, ?_, ?_, ?_, ?_⟩
  · obtain ⟨t, hexec, ht, hnone, hfirst⟩ := issueCycle_choice s slot dt hissue hs hlen
    refine ⟨t, hexec, ht, hnone, fun e he hbefore => hfirst e he fun x hx => ?_⟩
    unfold GoesBefore
    rw [selectStep_eq, selectStep_eq]
    exact hbefore x hx
  · intro s k W Q hW hQ htwin hstarted hended hbuffered hqdone hforks hblock
    have h : MayEnd s k W Q := ⟨hW, hQ, htwin, hstarted, hended, hbuffered, hqdone, hforks⟩
    exact ⟨quantumEnd_ends h hblock, quantumEnd_waits h hblock⟩
  · intro s l L hL hdets
    refine ⟨roundCommit_waits hL, ?_⟩
    intro k W hcommitted hnext hwhole hdone hredund hwarps hl htwin hqdone hkilled hended hndone houts hblocks hwatched hsectors hhbm hholds hplain
    have h : LoneRound s l L k W := ⟨hL, hdets, hcommitted, hnext, hwhole, hdone, hredund, hwarps, hl, htwin, hqdone, hkilled, hended, hndone,
      houts, fun b hb => (hblocks b hb).1, hholds⟩
    refine ⟨fun a bs hbuf => roundCommit_spad h hbuf hwatched, ?_⟩
    intro f F a bs hbuf hF hwarp haccs hop _ hshort hhomed
    have hlive : (s.warp k).killed = false := by rw [warp_of_single hwarps, hkilled]
    exact roundCommit_flight h hbuf ⟨hF, hwarp, haccs, hop, hshort, hhomed, hwatched, hlive, hsectors, hhbm, hplain⟩
  · intro s l L hL hcommitted
    refine ⟨fun h => roundStart_waits hL (.inl h), fun h => roundStart_waits hL (.inr h), ?_⟩
    intro k W hchildren hpast hwarps hl htwin hended hswapped hkilled hflights hblocks hring hslices hsaved
    exact roundStart_starts hL hcommitted hchildren hpast hwarps hl htwin hended hswapped hkilled hflights hblocks hring hslices hsaved
  · intro s l L hL hdets hdone hcommitted hstuck hnext
    exact ⟨roundStuck_waits hL, roundStuck_reports hL hdets hdone hcommitted hstuck hnext⟩

end Machine
end Sys2Proof

/-! Boot, attestation and health (R307 to R314): what each event leaves, in terms of the measurement registers and the dies. -/

namespace Sys2Proof.Machine

/-! ### Measurement registers (R309) -/

/-- Register j of J is that of I, extended with v. -/
def Island.Extended (I J : Island) (j : Nat) (v : List Byte) : Prop := J.mregAt j = sha256 (I.mregAt j ++ sha256 v)

/-- Only the island and what is sent differ. -/
def OnlyIsland (s t : State) : Prop := t = { s with island := t.island, sent := t.sent }

theorem onlyIsland_modIsland₂ (s : State) (f g : Island → Island) : OnlyIsland s ((s.modIsland f).modIsland g) := rfl

theorem onlyIsland_modIsland₃ (s : State) (f g h : Island → Island) :
    OnlyIsland s (((s.modIsland f).modIsland g).modIsland h) := rfl

theorem extended_extend (I : Island) (j : Nat) (v : List Byte) : I.Extended (I.extend j v) j v := mget_mput_self _ _ _

theorem mregAt_extend_ne (I : Island) {j k : Nat} (v : List Byte) (h : k ≠ j) : (I.extend j v).mregAt k = I.mregAt k :=
  mget_mput_ne _ _ h

/-- Extending a register after others extends it as it was. -/
theorem Island.Extended.of_mregAt {I J K : Island} {j : Nat} {v : List Byte} (h : J.mregAt j = I.mregAt j) (hK : J.Extended K j v) :
    I.Extended K j v := hK.trans (by rw [h])

/-- What else changes of the island does not matter to its registers. -/
theorem Island.Extended.of_mreg {I J K : Island} {j : Nat} {v : List Byte} (h : I.Extended J j v) (hm : K.mreg = J.mreg) :
    I.Extended K j v := by
  rw [Island.Extended, Island.mregAt, hm]
  exact h

/-! ### The first stage (R307, R308) -/

theorem powerOn_unused {s : State} (h : s.island.state = 0) : s.powerOn false = s := by
  simp [State.powerOn, h]

/-- The island once the ROM has measured itself. -/
def Island.romMeasured (I : Island) : Island := I.extend 0 Config.romDigest

theorem firstStage_measures (I : Island) (image : List Byte) :
    I.Extended (I.romMeasured.firstStage image) 0 Config.romDigest ∧ I.Extended (I.romMeasured.firstStage image) 1 image :=
  ⟨(mregAt_extend_ne I.romMeasured image (by decide)).trans (extended_extend I 0 _),
    (extended_extend I.romMeasured 1 image).of_mregAt (mregAt_extend_ne I _ (by decide))⟩

theorem exec_boot (a b : BootCopy) {s : State} (h : s.island.state = 0) :
    exec (.boot a b false) s = .next (
      if imageFault a.image = 0 then { s with island := s.island.romMeasured.firstStage a.image }
      else if imageFault b.image = 0 then { s with island := s.island.romMeasured.firstStage b.image }
      else ({ s with island := s.island.romMeasured } : State).bootFails 1) := by
  simp only [exec, execBoot, powerOn_unused h]
  rfl

theorem boot_measures_and_runs (a b : BootCopy) {s : State} (h : s.island.state = 0) :
    ∃ t, exec (.boot a b false) s = .next t ∧ OnlyIsland s t ∧ s.island.Extended t.island 0 Config.romDigest ∧
      if imageFault a.image = 0 then t.island.state = 1 ∧ t.island.fetchWait = 1 ∧ s.island.Extended t.island 1 a.image ∧
        t.island.slice = some (.firstStage a.image)
      else if imageFault b.image = 0 then t.island.state = 1 ∧ t.island.fetchWait = 1 ∧ s.island.Extended t.island 1 b.image ∧
        t.island.slice = some (.firstStage b.image)
      else t.island.state = 5 ∧ t.island.slice = none ∧ t.island.err = 1 ∧ t.island.mregAt 1 = s.island.mregAt 1 := by
  refine ⟨_, exec_boot a b h, ?_⟩
  have runs (image : List Byte) := firstStage_measures s.island image
  split
  · exact ⟨rfl, (runs _).1, rfl, rfl, (runs _).2, rfl⟩
  · split
    · exact ⟨rfl, (runs _).1, rfl, rfl, (runs _).2, rfl⟩
    · exact ⟨rfl, extended_extend s.island 0 _, rfl, rfl, rfl, mregAt_extend_ne s.island _ (by decide)⟩

/-- Where flash has lost its contents, a fuse stands for the signatures that it counted (R311). -/
theorem boot_flash_lost (a b : BootCopy) {s : State} (h : s.island.state = 0) :
    ∃ t, exec (.boot a b true) s = .next t ∧ t.island.flashCount = 0 ∧ t.island.fuses = s.island.fuses + 1 := by
  have hp : s.powerOn true = { s with island := { s.island with flashCount := 0, fuses := s.island.fuses + 1 } } := by
    simp [State.powerOn, h, State.modIsland]
  simp only [exec, execBoot, hp]
  refine ⟨_, rfl, ?_⟩
  split
  · exact ⟨rfl, rfl⟩
  · split <;> exact ⟨rfl, rfl⟩

/-! ### Dies, changed one by one -/

/-- Changing some dies, each once. -/
def State.modDies (s : State) (l : List Nat) (f : Nat → Die → Die) : State := l.foldl (fun s d => s.modDie d (f d)) s

theorem modDies_rest (s : State) (l : List Nat) (f : Nat → Die → Die) : s.modDies l f = { s with dies := (s.modDies l f).dies } := by
  induction l generalizing s with
  | nil => rfl
  | cons d l ih => exact ih (s.modDie d (f d))

section ModDies

variable (s : State) (l : List Nat) (f : Nat → Die → Die)

@[simp] theorem modDies_island : (s.modDies l f).island = s.island := by rw [modDies_rest]
@[simp] theorem modDies_parts : (s.modDies l f).parts = s.parts := by rw [modDies_rest]
@[simp] theorem modDies_partitioned : (s.modDies l f).partitioned = s.partitioned := by rw [modDies_rest]
@[simp] theorem modDies_zinc : (s.modDies l f).zinc = s.zinc := by rw [modDies_rest]
@[simp] theorem modDies_mem : (s.modDies l f).mem = s.mem := by rw [modDies_rest]

end ModDies

theorem die_modDies_other (s : State) {l : List Nat} (f : Nat → Die → Die) {x : Nat} (h : x ∉ l) :
    (s.modDies l f).die x = s.die x := by
  induction l generalizing s with
  | nil => rfl
  | cons d l ih =>
    rw [List.mem_cons, not_or] at h
    exact (ih (s.modDie d (f d)) h.2).trans (die_modDie_ne s (f d) h.1)

theorem die_modDies (s : State) {l : List Nat} (hl : l.Nodup) (f : Nat → Die → Die) {d : Nat} (h : d ∈ l) :
    (s.modDies l f).die d = f d (s.die d) := by
  induction l generalizing s with
  | nil => cases h
  | cons e l ih =>
    rw [List.nodup_cons] at hl
    by_cases he : d = e
    · subst he
      exact (die_modDies_other (s.modDie d (f d)) f hl.1).trans (die_modDie_self s d (f d))
    · exact (ih (s.modDie e (f e)) hl.2 ((List.mem_cons.1 h).resolve_left he)).trans (by rw [die_modDie_ne s (f e) he])

/-! ### The firmware image (R307 steps 2 to 5) -/

theorem fetching_iff {I : Island} : I.fetching = true ↔ I.state = 1 ∨ I.state = 2 := by
  simp [Island.fetching]

theorem exec_bootFetchRetry {s : State} (h : s.island.fetching = true) :
    exec .bootFetchRetry s =
      .next { s with island := { s.island with state := 2, fetchWait := min 64 (2 * s.island.fetchWait) } } := by
  simp only [exec, execBootFetchRetry, h, if_true]
  rfl

/-- What an image sets of a die when its firmware core starts. -/
def dieStarted (m : FirmwareImage) (d : Nat) (D : Die) : Die :=
  { m.svc.foldl (fun (D : Die) x => D.write (.svcCfg d (x.1 % 16)) (x.2.setWidth 64)) D with firmware := true }

/-- The island when it fetches an image, once the image's location is measured. -/
def Island.fetched (I : Island) (m : FirmwareImage) : Island := { I.extend 2 m.url with state := 3 }

/-- The island once the configuration of an image is measured. -/
def Island.configured (I : Island) (m : FirmwareImage) : Island :=
  { I.extend 4 (Config.configBytes m.parts m.svc) with state := 4, slice := none }

/-- The state once an image that verifies is measured. -/
def State.loaded (s : State) (m : FirmwareImage) : State :=
  (s.modIsland (fun I => I.fetched m)).modIsland (fun I => I.extend 3 m.image)

/-- The state before the firmware cores start: the configuration is measured and the partitions are formed. -/
def State.formed (s : State) (m : FirmwareImage) : State :=
  { (s.loaded m).modIsland (fun I => I.configured m) with
    parts := imageParts m
    partitioned := m.parts != []
    zinc := { s.zinc with self := m.number % 256 } }

theorem exec_firmwareFetchDone (m : FirmwareImage) {s : State} (h : s.island.fetching = true) (hp : partsOk m.parts = true) :
    exec (.firmwareFetchDone m) s = .next (
      if imageFault m.image ≠ 0 then (s.modIsland (fun I => I.fetched m)).bootFails (imageFault m.image)
      else if !m.started then (s.loaded m).bootFails 5
      else (s.formed m).modDies (List.range 4) (dieStarted m)) := by
  have hgo : ¬(!s.island.fetching || !partsOk m.parts) = true := by simp [h, hp]
  exact congrArg Host.Outcome.next (if_neg hgo)

theorem fetched_measures (I : Island) (m : FirmwareImage) : I.Extended (I.fetched m) 2 m.url := extended_extend I 2 m.url

theorem loaded_measures (s : State) (m : FirmwareImage) :
    s.island.Extended (s.loaded m).island 2 m.url ∧ s.island.Extended (s.loaded m).island 3 m.image :=
  ⟨(mregAt_extend_ne (s.island.fetched m) m.image (by decide)).trans (fetched_measures s.island m),
    (extended_extend (s.island.fetched m) 3 m.image).of_mregAt (mregAt_extend_ne s.island m.url (by decide))⟩

theorem formed_measures (s : State) (m : FirmwareImage) :
    s.island.Extended (s.formed m).island 2 m.url ∧ s.island.Extended (s.formed m).island 3 m.image ∧
      s.island.Extended (s.formed m).island 4 (Config.configBytes m.parts m.svc) := by
  have keeps (j : Nat) (h : j ≠ 4) : (s.formed m).island.mregAt j = (s.loaded m).island.mregAt j :=
    mregAt_extend_ne (s.loaded m).island _ h
  obtain ⟨h2, h3⟩ := loaded_measures s m
  have h4 : (s.loaded m).island.mregAt 4 = s.island.mregAt 4 :=
    (mregAt_extend_ne (s.island.fetched m) m.image (by decide)).trans (mregAt_extend_ne s.island m.url (by decide))
  exact ⟨(keeps 2 (by decide)).trans h2, (keeps 3 (by decide)).trans h3,
    (extended_extend (s.loaded m).island 4 _).of_mregAt h4⟩

/-- An entry among several that are set one after the other, each under a key of its own. -/
theorem mfind_foldl_minsert {α β : Type} {l : List β} {key : β → Nat} (val : β → α) (hl : (l.map key).Nodup) {p : β} (hp : p ∈ l)
    (m : NMap α) : mfind (l.foldl (fun acc p => minsert acc (key p) (val p)) m) (key p) = some (val p) := by
  have keeps (l : List β) {k : Nat} (hk : k ∉ l.map key) (m : NMap α) :
      mfind (l.foldl (fun acc p => minsert acc (key p) (val p)) m) k = mfind m k := by
    induction l generalizing m with
    | nil => rfl
    | cons q l ih =>
      rw [List.map_cons, List.mem_cons, not_or] at hk
      rw [List.foldl_cons, ih hk.2, mfind_minsert_ne m _ hk.1]
  induction l generalizing m with
  | nil => cases hp
  | cons q l ih =>
    rw [List.map_cons, List.nodup_cons] at hl
    rw [List.foldl_cons]
    rcases List.mem_cons.1 hp with rfl | hp
    · rw [keeps l hl.1, mfind_minsert_self]
    · exact ih hl.2 hp _

theorem nodup_of_partsOk {l : List (Nat × Nat × List Nat × Nat × Nat)} (h : partsOk l = true) : (l.map (·.1)).Nodup := by
  simp only [partsOk, Bool.and_eq_true, decide_eq_true_eq] at h
  exact h.1.1.2

theorem mfind_imageParts {m : FirmwareImage} (h : partsOk m.parts = true) {p : Nat × Nat × List Nat × Nat × Nat} (hp : p ∈ m.parts) :
    mfind (imageParts m) p.1 = some { dies := [p.2.1], clusters := p.2.2.1, base := p.2.2.2.1, top := p.2.2.2.2 } := by
  rw [imageParts, if_neg (List.ne_nil_of_mem hp)]
  exact mfind_foldl_minsert (key := (·.1)) _ (nodup_of_partsOk h) hp []

theorem svcCfg_dieStarted {m : FirmwareImage} {n : Nat} {v : Word} (h : m.svc = [(n, v)]) (hn : n < 16) (d : Nat) (D : Die) :
    mget 0xFFFF1010 (dieStarted m d D).svcCfg n = v &&& 0xFFFFFFF8 := by
  simp only [dieStarted, h, List.foldl_cons, List.foldl_nil, Die.write, Nat.mod_eq_of_lt hn, mget_mput_self]
  congr 1
  simp [loHalf]

/-- The state once the firmware cores of all four dies run. -/
def State.running (s : State) (m : FirmwareImage) : State := (s.formed m).modDies (List.range 4) (dieStarted m)

theorem die_running (s : State) (m : FirmwareImage) {d : Nat} (h : d < 4) :
    (s.running m).die d = dieStarted m d ((s.formed m).die d) :=
  die_modDies _ List.nodup_range _ (List.mem_range.2 h)

theorem formed_starts (m : FirmwareImage) (s : State) (hp : partsOk m.parts = true) :
    let t := s.running m
    s.island.Extended t.island 2 m.url ∧ s.island.Extended t.island 3 m.image ∧
      t.island.state = 4 ∧ t.island.slice = none ∧ s.island.Extended t.island 4 (Config.configBytes m.parts m.svc) ∧
      (∀ d < 4, (t.die d).firmware = true) ∧
      (m.parts = [] → t.partitioned = false ∧ t.parts = [(0, { dies := [0, 1, 2, 3], clusters := List.range 48 })]) ∧
      (∀ p ∈ m.parts, mfind t.parts p.1 = some { dies := [p.2.1], clusters := p.2.2.1, base := p.2.2.2.1, top := p.2.2.2.2 }) ∧
      (∀ n v, m.svc = [(n, v)] → n < 16 → ∀ d < 4, mget 0xFFFF1010 (t.die d).svcCfg n = v &&& 0xFFFFFFF8) ∧
      t.zinc.self = m.number % 256 ∧ t.mem = s.mem := by
  obtain ⟨h2, h3, h4⟩ := formed_measures s m
  simp only [State.running, modDies_island, modDies_parts, modDies_partitioned, modDies_zinc, modDies_mem]
  refine ⟨h2, h3, rfl, rfl, h4, fun d hd => congrArg Die.firmware (die_running s m hd), fun hm => by simp [State.formed, imageParts, hm],
    fun p hmem => mfind_imageParts hp hmem, fun n v hv hn d hd => ?_, rfl, rfl⟩
  rw [show ((s.formed m).modDies (List.range 4) (dieStarted m)).die d = _ from die_running s m hd]
  exact svcCfg_dieStarted hv hn d _

section Outcomes

variable {m : FirmwareImage} {s : State} (h : s.island.fetching = true) (hp : partsOk m.parts = true)
include h hp

theorem firmwareFetchDone_unverified (hv : imageFault m.image ≠ 0) :
    exec (.firmwareFetchDone m) s = .next ((s.modIsland (fun I => I.fetched m)).bootFails (imageFault m.image)) := by
  rw [exec_firmwareFetchDone m h hp, if_pos hv]

theorem firmwareFetchDone_stuck (hv : imageFault m.image = 0) (hs : m.started = false) :
    exec (.firmwareFetchDone m) s = .next ((s.loaded m).bootFails 5) := by
  rw [exec_firmwareFetchDone m h hp, if_neg (not_not_intro hv), hs]
  rfl

theorem firmwareFetchDone_starts (hv : imageFault m.image = 0) (hs : m.started = true) :
    exec (.firmwareFetchDone m) s = .next (s.running m) := by
  rw [exec_firmwareFetchDone m h hp, if_neg (not_not_intro hv), hs]
  rfl

end Outcomes

theorem firmwareFetchDone_measures_and_starts (m : FirmwareImage) {s : State} (h : s.island.fetching = true)
    (hp : partsOk m.parts = true) :
    ∃ t, exec (.firmwareFetchDone m) s = .next t ∧ s.island.Extended t.island 2 m.url ∧
      if imageFault m.image ≠ 0 then OnlyIsland s t ∧ t.island.state = 5 ∧ t.island.err = imageFault m.image
      else s.island.Extended t.island 3 m.image ∧
        if m.started = false then OnlyIsland s t ∧ t.island.state = 5 ∧ t.island.err = 5
        else t.island.state = 4 ∧ t.island.slice = none ∧ s.island.Extended t.island 4 (Config.configBytes m.parts m.svc) ∧
          (∀ d < 4, (t.die d).firmware = true) ∧
          (m.parts = [] → t.partitioned = false ∧ t.parts = [(0, { dies := [0, 1, 2, 3], clusters := List.range 48 })]) ∧
          (∀ p ∈ m.parts, mfind t.parts p.1 = some { dies := [p.2.1], clusters := p.2.2.1, base := p.2.2.2.1, top := p.2.2.2.2 }) ∧
          (∀ n v, m.svc = [(n, v)] → n < 16 → ∀ d < 4, mget 0xFFFF1010 (t.die d).svcCfg n = v &&& 0xFFFFFFF8) ∧
          t.zinc.self = m.number % 256 ∧ t.mem = s.mem := by
  by_cases hv : imageFault m.image = 0
  · simp only [if_neg (not_not_intro hv)]
    by_cases hs : m.started = false
    · simp only [if_pos hs]
      obtain ⟨h2, h3⟩ := loaded_measures s m
      exact ⟨_, firmwareFetchDone_stuck h hp hv hs, h2.of_mreg rfl, h3.of_mreg rfl, onlyIsland_modIsland₃ _ _ _ _, rfl, rfl⟩
    · simp only [if_neg hs]
      obtain ⟨h2, hrest⟩ := formed_starts m s hp
      exact ⟨_, firmwareFetchDone_starts h hp hv (Bool.not_eq_false _ ▸ hs), h2, hrest⟩
  · simp only [if_pos (show imageFault m.image ≠ 0 from hv)]
    exact ⟨_, firmwareFetchDone_unverified h hp hv, (fetched_measures s.island m).of_mreg rfl, onlyIsland_modIsland₂ _ _ _, rfl, rfl⟩

theorem mregExtend_extends (s : State) (j : Nat) (v : List Byte) (h8 : 8 ≤ j) (h23 : j ≤ 23) (h4 : s.island.state = 4) :
    ∃ t, exec (.mregExtend j v) s = .next t ∧ OnlyIsland s t ∧ s.island.Extended t.island j v ∧
      ∀ k, k ≠ j → t.island.mregAt k = s.island.mregAt k :=
  ⟨s.modIsland (fun I => I.extend j v), congrArg Host.Outcome.next (if_pos ⟨h8, h23, h4⟩), rfl, extended_extend s.island j v,
    fun _ hk => mregAt_extend_ne s.island v hk⟩

theorem mregExtend_out_of_range (s : State) (j : Nat) (v : List Byte) (h : j < 8 ∨ 23 < j) : exec (.mregExtend j v) s = .next s :=
  congrArg Host.Outcome.next (if_neg (by omega))

/-! ### The standby island (R310) -/

section Standby

variable {s : State} (h : s.island.active = 0)
include h

theorem exec_islandHeartbeat (arrives : Bool) : exec (.islandHeartbeat arrives) s = .next (
    if arrives then ({ s with island := { s.island with missed := 0 } } : State).send .heartbeat
    else { s with island := { s.island with missed := s.island.missed + 1 } }) := by
  refine congrArg Host.Outcome.next ((if_neg (not_not_intro h)).trans ?_)
  rfl

omit h in
theorem islandTakeover_early (hm : s.island.missed < 3) : exec .islandTakeover s = .next s := by
  simp [exec, execIslandTakeover, hm]

theorem islandTakeover_takes_over (hm : 3 ≤ s.island.missed) :
    ∃ t r, exec .islandTakeover s = .next t ∧ t.island.active = 3 ∧
      s.island.Extended t.island 7 (leBytes 8 (s.dieTime 3).toNat) ∧
      (t.die 3).rasQueue = rasInsert r (s.die 3).rasQueue ∧ r.type = 0x0A := by
  have hgo : (decide (s.island.active ≠ 0) || decide (s.island.missed < 3)) = false := by simp [h, hm]
  simp only [exec, execIslandTakeover, hgo, Bool.false_eq_true, if_false]
  exact ⟨_, _, rfl, rfl, extended_extend s.island 7 _, congrArg Die.rasQueue (die_modDie_self _ 3 _), rfl⟩

end Standby

/-! ### Attestation (R311, R312) -/

section Attestation

variable {s : State}

theorem spdmAnswer_congr {f g : Island → Island} (h : f s.island = g s.island) (code : Nat) (body : List Byte) :
    s.spdmAnswer f code body = s.spdmAnswer g code body := by
  rw [State.spdmAnswer, State.modIsland, h]
  rfl

theorem exec_getVersion (s : State) : exec .getVersion s = .next (s.spdmOpen 1 [] 0x84 0x04 [0, 0, 0, 1, 0, 0x13]) := rfl

theorem getCapabilities_out_of_turn (h : s.island.spdm ≠ 1) : exec .getCapabilities s = .next (s.spdmError 4) :=
  congrArg Host.Outcome.next (if_pos h)

theorem getCapabilities_opens (h : s.island.spdm = 1) : exec .getCapabilities s =
    .next (s.spdmOpen 2 s.island.vca 0xE1 0x61 ([0, 0, 0, 0x12, 0, 0, 0] ++ Config.spdmLimits)) :=
  congrArg Host.Outcome.next (if_neg (not_not_intro h))

theorem negotiateAlgorithms_out_of_turn (h : s.island.spdm ≠ 2) : exec .negotiateAlgorithms s = .next (s.spdmError 4) :=
  congrArg Host.Outcome.next (if_pos h)

theorem negotiateAlgorithms_opens (h : s.island.spdm = 2) : exec .negotiateAlgorithms s =
    .next (s.spdmOpen 3 s.island.vca 0xE3 0x63 ([0, 0, 40, 0, 1, 0, 2, 0, 0, 0, 0, 0, 0, 0, 1, 0, 0, 0] ++ List.replicate 12 0 ++
      [1, 0, 0, 0] ++ leBytes 4 Config.hssAlgorithm.toNat)) :=
  congrArg Host.Outcome.next (if_neg (not_not_intro h))

section Unopened

variable (h : s.island.spdm < 3)
include h

theorem getDigests_out_of_turn : exec .getDigests s = .next (s.spdmError 4) := congrArg Host.Outcome.next (if_pos h)

theorem getCertificate_out_of_turn (slot off len : Nat) : exec (.getCertificate slot off len) s = .next (s.spdmError 4) :=
  congrArg Host.Outcome.next (if_pos h)

theorem getMeasurements_out_of_turn (index : Nat) (sign : Bool) (nonce : List Byte) :
    exec (.getMeasurements index sign nonce) s = .next (s.spdmError 4) :=
  congrArg Host.Outcome.next (if_pos h)

end Unopened

variable (h : 3 ≤ s.island.spdm)
include h

theorem getDigests_answers : exec .getDigests s =
    .next (s.spdmAnswer (fun I => { I with transcript := [] }) 0x01 (1 :: 1 :: sha256 Config.certificate)) :=
  congrArg Host.Outcome.next (if_neg (Nat.not_lt.2 h))

theorem getCertificate_other_slot {slot : Nat} (hslot : slot ≠ 0) (off len : Nat) :
    exec (.getCertificate slot off len) s = .next (s.spdmError 1) :=
  congrArg Host.Outcome.next ((if_neg (Nat.not_lt.2 h)).trans (if_pos hslot))

theorem getCertificate_answers (off len : Nat) : exec (.getCertificate 0 off len) s =
    .next (s.spdmAnswer (fun I => { I with transcript := [] }) 0x02
      (0 :: 0 :: leBytes 2 ((Config.certificate.drop off).take len).length ++
        leBytes 2 (Config.certificate.length - off - ((Config.certificate.drop off).take len).length) ++
        (Config.certificate.drop off).take len)) :=
  congrArg Host.Outcome.next ((if_neg (Nat.not_lt.2 h)).trans (if_neg (not_not_intro rfl)))

theorem getMeasurements_other_index {index : Nat} (hi : 24 < index) (hall : index ≠ 255) (sign : Bool) (nonce : List Byte) :
    exec (.getMeasurements index sign nonce) s = .next (s.spdmError 1) :=
  congrArg Host.Outcome.next ((if_neg (Nat.not_lt.2 h)).trans (if_pos (by simp [hi, hall])))

variable {index : Nat} (hi : index ≤ 24 ∨ index = 255)
include hi

/-- The measurements that the request for a block index gets. -/
def State.report (s : State) (index : Nat) : List Byte :=
  s.island.measurements index ((List.range 32).map (Config.freeByte (s.fresh + 1))) (Config.spdmFields s.fresh)

/-- The measurement messages up to that request's answer. -/
def State.reported (s : State) (index : Nat) (sign : Bool) (nonce : List Byte) : List Byte :=
  s.island.transcript ++
    spdmExchange 0xE0 (measureRequest index sign nonce (Config.spdmFields s.fresh)) 0x60 (s.report index)

theorem getMeasurements_plain (nonce : List Byte) : exec (.getMeasurements index false nonce) s =
    .next (s.spdmAnswer (fun I => { I with transcript := s.reported index false nonce }) 0x60 (s.report index)) :=
  congrArg Host.Outcome.next ((if_neg (Nat.not_lt.2 h)).trans (if_neg (by simpa using fun hl => hi.resolve_left (Nat.not_le.2 hl))))

theorem getMeasurements_signed (nonce : List Byte) (hn : s.island.sigNo < 2 ^ 30) : exec (.getMeasurements index true nonce) s =
    .next (s.spdmAnswer (fun I => { I.countSig with transcript := [] }) 0x60
      (s.report index ++ Config.hssSignature s.island.sigNo (s.island.vca ++ s.reported index true nonce))) :=
  congrArg Host.Outcome.next ((if_neg (Nat.not_lt.2 h)).trans ((if_neg (by simpa using fun hl => hi.resolve_left (Nat.not_le.2 hl))).trans
    (if_neg (by simpa using hn))))

theorem getMeasurements_exhausted (nonce : List Byte) (hn : 2 ^ 30 ≤ s.island.sigNo) :
    exec (.getMeasurements index true nonce) s = .next (s.spdmError 5) :=
  congrArg Host.Outcome.next ((if_neg (Nat.not_lt.2 h)).trans ((if_neg (by simpa using fun hl => hi.resolve_left (Nat.not_le.2 hl))).trans
    (if_pos (by simpa using hn))))

end Attestation

/-- The registers that a block index names: 0 asks for their number, 255 for all, j + 1 for register j (SPDM 1.3). -/
theorem measured_of {i : Nat} {js : List Nat}
    (h : (i = 0 ∧ js = []) ∨ (i = 255 ∧ js = List.range 24) ∨ (1 ≤ i ∧ i ≤ 24 ∧ js = [i - 1])) :
    measured i = js ∧ (i ≤ 24 ∨ i = 255) := by
  rcases h with ⟨rfl, rfl⟩ | ⟨rfl, rfl⟩ | ⟨h1, h24, rfl⟩
  · exact ⟨rfl, .inl (by decide)⟩
  · exact ⟨rfl, .inr rfl⟩
  · exact ⟨(if_neg (by omega)).trans (if_neg (by omega)), .inl h24⟩

theorem foldr_block (I : Island) (js : List Nat) : js.foldr (fun j acc => I.block j ++ acc) [] = js.flatMap I.block := by
  induction js with
  | nil => rfl
  | cons j js ih => rw [List.foldr_cons, ih, List.flatMap_cons]

theorem measurements_eq (I : Island) {i : Nat} {js : List Nat} (h : measured i = js) (nonce context : List Byte) :
    I.measurements i nonce context =
      let record : List Byte := js.flatMap (fun j => [BitVec.ofNat 8 (j + 1), 1, 35, 0, 1, 32, 0] ++ I.mregAt j)
      [if i = 0 then 24 else 0, 0, BitVec.ofNat 8 js.length] ++ leBytes 3 record.length ++ record ++ nonce ++ [0, 0] ++ context := by
  rw [Island.measurements, h, foldr_block]
  rfl

/-- A signature is counted: the fuses hold the high part, flash the low 20 bits (R311). -/
theorem countSig_counts (I : Island) :
    ∃ fuses flash, fuses * 2 ^ 20 + flash = I.sigNo + 1 ∧ I.countSig = { I with fuses := fuses, flashCount := flash } := by
  by_cases hf : I.flashCount + 1 = 2 ^ 20
  · exact ⟨I.fuses + 1, 0, by rw [Island.sigNo]; omega, if_pos hf⟩
  · exact ⟨I.fuses, I.flashCount + 1, by rw [Island.sigNo]; omega, if_neg hf⟩

/-! ### Health, power and the return from reset (R313, R314, R368, R369) -/

theorem healthUpdate_rewrites (h : Health) {s : State} (h4 : s.island.state = 4) :
    ∃ t, exec (.healthUpdate h) s = .next t ∧ OnlyIsland s t ∧ t.sent = s.sent ∧ t.island.health.power = h.power ∧
      (s.time.toNat < 86400000000000 → t.island.health.eol = List.replicate 4 0xFFFFFFFF) ∧
      ∀ p < 64, (mfind s.island.ports p = none → t.island.health.eye.getD p 0 = 0) ∧
        ((mfind s.island.ports p).isSome = true → t.island.health.eye.getD p 0 = h.eye.getD p 0) := by
  refine ⟨_, congrArg Host.Outcome.next (if_neg (not_not_intro h4)), rfl, rfl, rfl, fun hyoung => ?_,
    fun p hp => ⟨fun hdown => ?_, fun hup => ?_⟩⟩
  · simp [State.modIsland, Nat.not_le.2 hyoung]
  · simp [State.modIsland, hp, hdown]
  · simp [State.modIsland, hp, hup]

theorem powerBudgetAdjust_sets {s : State} {d : Nat} {budget : BitVec 6} (hd : d < 4) (h8 : 8 ≤ budget.toNat) (h32 : budget.toNat ≤ 32)
    (hf : (s.die d).firmware = true) : ∃ t, exec (.powerBudgetAdjust d budget) s = .next t ∧ t = { s with dies := t.dies } ∧
      (t.die d).mxGov = budget.setWidth 32 :=
  ⟨_, congrArg Host.Outcome.next (if_pos ⟨hd, h8, h32, hf⟩), rfl, congrArg Die.mxGov (die_modDie_self s d _)⟩

theorem powerBudgetAdjust_too_low (s : State) (d : Nat) {budget : BitVec 6} (h : budget.toNat < 8) :
    exec (.powerBudgetAdjust d budget) s = .next s :=
  congrArg Host.Outcome.next (if_neg (by omega))

theorem firmwareReturn_running {s : State} {d : Nat} (h : (s.die d).firmware = true) : exec (.firmwareReturn d) s = .next s :=
  congrArg Host.Outcome.next (if_pos (by simp [h]))

theorem firmwareReturn_returns {s : State} {d : Nat} (hd : d < 4) (h4 : s.island.state = 4) (h : (s.die d).firmware = false) :
    ∃ t, exec (.firmwareReturn d) s = .next t ∧ t = { s with dies := t.dies, island := t.island } ∧ (t.die d).firmware = true ∧
      (t.die d).tin = none ∧ ∀ x, x ≠ d → t.die x = s.die x :=
  ⟨_, congrArg Host.Outcome.next (if_neg (by simp [h, h4, hd])), rfl, congrArg Die.firmware (die_modDie_self _ d _),
    congrArg Die.tin (die_modDie_self _ d _), fun _ hx => die_modDie_ne _ _ hx⟩

/-- Settles O58: each event's equation, with what it extends of the registers and what it changes of the dies. -/
theorem bootEvents : Obligations.BootEvents := by
  unfold Obligations.BootEvents
  intro mreg extended same code
  have hcode : code = imageFault := by
    funext b
    simp [code, imageFault]
  clear_value code
  subst hcode
  refine ⟨fun a b s h => ⟨boot_measures_and_runs a b h, boot_flash_lost a b h⟩,
    fun s m h hp => ⟨exec_bootFetchRetry (fetching_iff.2 h), firmwareFetchDone_measures_and_starts m (fetching_iff.2 h) hp⟩,
    fun s j v => ⟨mregExtend_extends s j v, mregExtend_out_of_range s j v⟩,
    fun s h => ⟨exec_islandHeartbeat h true, exec_islandHeartbeat h false, islandTakeover_early, islandTakeover_takes_over h⟩,
    fun s => ?_,
    fun s h d budget hd h4 => ⟨healthUpdate_rewrites h h4, powerBudgetAdjust_sets hd, powerBudgetAdjust_too_low s d,
      firmwareReturn_running, firmwareReturn_returns hd h4⟩⟩
  refine ⟨exec_getVersion s, getCapabilities_out_of_turn, getCapabilities_opens, negotiateAlgorithms_out_of_turn,
    negotiateAlgorithms_opens, fun h => ⟨getDigests_out_of_turn h, getCertificate_out_of_turn h, getMeasurements_out_of_turn h⟩,
    fun h => ⟨getDigests_answers h, fun slot off len hs => getCertificate_other_slot h hs off len,
      fun off len => ⟨_, rfl, getCertificate_answers h off len⟩,
      fun i sign nonce hi hall => getMeasurements_other_index h hi hall sign nonce, fun i js nonce hjs => ?_⟩⟩
  obtain ⟨hm, hi⟩ := measured_of hjs
  have hreport : s.report i = _ := measurements_eq s.island hm _ _
  refine ⟨?_, fun hn _ => ?_, fun hn => getMeasurements_exhausted h hi nonce hn⟩
  · have hplain := getMeasurements_plain h hi nonce
    rw [State.reported, hreport] at hplain
    exact hplain
  · have hsigned := getMeasurements_signed h hi nonce hn
    obtain ⟨fuses, flash, hcount, hI⟩ := countSig_counts s.island
    rw [State.reported, hreport, spdmAnswer_congr (g := fun I => { I with transcript := [], fuses := fuses, flashCount := flash })
      (by rw [hI])] at hsigned
    exact ⟨fuses, flash, hcount, hsigned⟩

end Sys2Proof.Machine

/-! Fetch (R16, R187) and words that complete (R37, R44, R318). -/

namespace Sys2Proof.Machine

/-- Settles O7: every word's meaning is the issue of its behaviour, and an issue that nothing stops has its effect and leaves. -/
theorem wordsComplete : Obligations.WordsComplete := by
  unfold Obligations.WordsComplete
  intro i o len w s t g hi hs c hc hK
  rw [exec_word hi, run_moved hs hc hK]

/-- A fetch whose block decodes where the gang stands answers the instruction, with the gang formed again. -/
theorem fetch_decoded {c : Ctx} {tr : Trans} {i : Instr} (fuel : Nat) (htr : c.fetchTrans = some tr) (hxn : tr.xn = false)
    (hfill : ¬ (c.pc.toNat % 32 = 28 ∧ leNat ((c.s.fetchBlock c.W.core (tr.phys c.pc.toNat)).2.drop (c.pc.toNat % 32)) = fillerWord))
    (hdec : decode ((c.s.fetchBlock c.W.core (tr.phys c.pc.toNat)).2.drop (c.pc.toNat % 32)) c.W.bound = .ok i) :
    c.fetch (fuel + 1) =
      ({ (c.s.fetchBlock c.W.core (tr.phys c.pc.toNat)).1 with issue := some ⟨c.k, c.m, c.pc⟩ }, some i) := by
  simp only [Ctx.fetch, htr, hxn, Bool.false_eq_true, if_false, Bool.and_eq_true, decide_eq_true_eq, hfill, hdec]

/-- A formed gang that no TXSEAL takes aside fetches at its address. -/
theorem fetch_gang {s : State} {g : Issue} (hs : s.issue = some g) (hm : g.mask ≠ 0)
    (hskip : (({ s with issue := none } : State).gangAt g.warp g.mask g.pc).skip =
      ({ s with issue := none } : State).gangAt g.warp g.mask g.pc) :
    s.fetch = (({ s with issue := none } : State).gangAt g.warp g.mask g.pc).fetch 2 := by
  simp only [State.fetch, hs, hskip]
  exact if_neg hm

/-- Where no store has come to a block in part, the fetch path finds the block's bytes as memory holds them (R195). -/
theorem codeBytes_whole {s : State} {b : Nat}
    (h : ∀ f ∈ s.flights, ∀ a ∈ f.2.accs, a.pa / 32 = b → a.stores = true → a.done = false) :
    s.codeBytes b = s.bytesAt (b * 32) 32 := by
  have hhalf : ∀ f ∈ s.flights, f.2.accs.any (fun a => a.done && a.stores && a.pa / 32 == b) = false := by
    intro f hf
    rw [List.any_eq_false]
    intro a ha hc
    simp only [Bool.and_eq_true, beq_iff_eq] at hc
    obtain ⟨⟨hd, hst⟩, hb⟩ := hc
    exact absurd (h f hf a ha hb hst) (by simp [hd])
  have hfold : ∀ (l : NMap Flight) (acc : List Byte), (∀ f ∈ l, f.2.accs.any (fun a => a.done && a.stores && a.pa / 32 == b) = false) →
      l.foldl (fun acc f => if (f.2.accs.any (fun a => a.done && a.stores && a.pa / 32 == b) &&
        f.2.accs.any (fun a => !a.done && a.pa / 32 == b)) = true
        then (f.2.accs.filter (fun a => !a.done)).foldl (s.accOver (b * 32)) acc else acc) acc = acc := by
    intro l acc hl
    induction l with
    | nil => rfl
    | cons f l ih =>
      rw [List.foldl_cons, hl f (by simp), Bool.false_and, if_neg Bool.false_ne_true]
      exact ih fun f hf => hl f (List.mem_cons_of_mem _ hf)
  exact hfold _ _ hhalf

/-- A block that the instruction cache does not hold comes from memory. -/
theorem fetchBlock_missing {s : State} {core pa : Nat} (h : mfind (s.core core).icache (pa / 32) = none) :
    (s.fetchBlock core pa).2 = s.codeBytes (pa / 32) := by
  simp only [State.fetchBlock, h]

/-- The step of a formed gang runs the instruction that its fetch finds. -/
theorem step_fetched {s t : State} {g : Issue} {i : Instr} (hs : s.issue = some g) (hf : s.fetch = (t, some i)) :
    step s = exec i t := by
  simp only [step, hs, hf]

/-- Settles O5: the step of a formed gang is its fetch, and the block fetched is the cache's or memory's. -/
theorem stepRunsFetched : Obligations.StepRunsFetched := by
  unfold Obligations.StepRunsFetched
  intro s g tr i c b hs hm hskip htr hxn hfill hdec
  refine ⟨?_, fun hcache hflights => ?_⟩
  · have hfetch := fetch_decoded 1 htr hxn (fun h => hfill ⟨h.1, h.1 ▸ h.2⟩) hdec
    exact step_fetched hs ((fetch_gang hs hm hskip).trans hfetch)
  · have hb : b.2 = c.s.codeBytes (tr.phys g.pc.toNat / 32) := fetchBlock_missing hcache
    exact hb.trans (codeBytes_whole (s := c.s) hflights)
end Sys2Proof.Machine

/-! Control flow (R16 to R25, R188, R217 to R229): where the slices of a gang go on, which faults an instruction latches, and the
course of an issue that waits or faults. -/

namespace Sys2Proof.Machine

/-! ### Slices of a warp -/

theorem mem_maskSlices {m : BitVec 16} {i : Nat} : i ∈ maskSlices m ↔ inMask m i = true := by
  simp only [maskSlices, List.mem_filter, List.mem_range, inMask]
  exact ⟨fun h => h.2, fun h => ⟨BitVec.lt_of_getLsbD h, h⟩⟩

theorem lt_of_inMask {m : BitVec 16} {i : Nat} (h : inMask m i = true) : i < 16 := BitVec.lt_of_getLsbD h

theorem maskOf_maskSlices (m : BitVec 16) : maskOf (maskSlices m) = m := by
  refine BitVec.eq_of_getLsbD_eq fun i hi => Bool.eq_iff_iff.2 ?_
  show inMask (maskOf (maskSlices m)) i = true ↔ inMask m i = true
  rw [inMask_maskOf, mem_maskSlices]
  exact ⟨fun h => h.1, fun h => ⟨h, hi⟩⟩

theorem maskSlices_ne_nil {m : BitVec 16} (h : m ≠ 0) : maskSlices m ≠ [] := fun hm => h (by
  rw [← maskOf_maskSlices m, hm]; rfl)

theorem mem_lanesIn {m : BitVec 16} {width i : Nat} : i ∈ lanesIn m width ↔ i < width ∧ inMask m (i / 4) = true := by
  simp [lanesIn, inMask]

/-- A warp with its slices changed one by one. -/
def Warp.mapSlice (W : Warp) (f : Nat → Slice → Slice) : Warp := { W with slices := W.slices.zipIdx.map (fun x => f x.2 x.1) }

theorem length_mapSlice (W : Warp) (f : Nat → Slice → Slice) : (W.mapSlice f).slices.length = W.slices.length := by
  simp [Warp.mapSlice]

theorem slice_mapSlice (W : Warp) (f : Nat → Slice → Slice) {i : Nat} (h : i < W.slices.length) :
    (W.mapSlice f).slice i = f i (W.slice i) := by
  simp [Warp.mapSlice, Warp.slice, h]

theorem slice_beyond {W : Warp} {i : Nat} (h : W.slices.length ≤ i) : W.slice i = { pc := 0, exited := true } := by
  simp [Warp.slice, h]

theorem mapSlice_congr (W : Warp) {f g : Nat → Slice → Slice} (h : ∀ i < W.slices.length, f i (W.slice i) = g i (W.slice i)) :
    W.mapSlice f = W.mapSlice g := by
  unfold Warp.mapSlice
  congr 1
  refine List.ext_getElem (by simp) fun i hi _ => ?_
  have hi : i < W.slices.length := by simpa using hi
  have hs : W.slice i = W.slices[i] := by simp [Warp.slice, hi]
  simpa [← hs] using h i hi

theorem onSlices_eq (W : Warp) (m : BitVec 16) (f : Slice → Slice) :
    W.onSlices m f = W.mapSlice (fun i x => if inMask m i then f x else x) := rfl

theorem slice_onSlices (W : Warp) (m : BitVec 16) (f : Slice → Slice) {i : Nat} (h : i < W.slices.length) :
    (W.onSlices m f).slice i = if inMask m i then f (W.slice i) else W.slice i := by
  rw [onSlices_eq, slice_mapSlice W _ h]

theorem slice_onSlices_other (W : Warp) {m : BitVec 16} (f : Slice → Slice) {i : Nat} (h : inMask m i = false) :
    (W.onSlices m f).slice i = W.slice i := by
  by_cases hi : i < W.slices.length
  · rw [slice_onSlices W m f hi, h]; rfl
  · rw [slice_beyond (Nat.not_lt.1 hi), slice_beyond (W := W.onSlices m f)]
    rw [onSlices_eq, length_mapSlice]
    exact Nat.not_lt.1 hi

/-! ### Going on (R23, R37) -/

theorem modWarp_const {s : State} {k : Nat} {W : Warp} (h : mfind s.warps k = some W) (f : Warp → Warp) :
    s.modWarp k f = s.modWarp k (fun _ => f W) := by
  simp [State.modWarp, mupdate, h]

/-- The slices of the gang each at an address of their own, waiting for nothing. -/
def Ctx.sendTo (c : Ctx) (pc : Nat → DWord) (W : Warp) : Warp :=
  W.mapSlice (fun i x => if inMask c.m i then { x with pc := pc i, wait := none, woken := false } else x)

theorem length_sendTo (c : Ctx) (pc : Nat → DWord) (W : Warp) : (c.sendTo pc W).slices.length = W.slices.length := length_mapSlice W _

theorem slice_sendTo (c : Ctx) (pc : Nat → DWord) (W : Warp) {i : Nat} (h : i < W.slices.length) : (c.sendTo pc W).slice i =
    if inMask c.m i then { W.slice i with pc := pc i, wait := none, woken := false } else W.slice i := by
  rw [Ctx.sendTo, slice_mapSlice W _ h]

/-- The addresses at which a branch leaves the slices of its gang. -/
def Ctx.branchPc (c : Ctx) (target : Nat → DWord) (i : Nat) : DWord :=
  match c.takers.find? (fun t => t.1 == i) with
  | some t => target t.2
  | none => c.next

theorem branch_eq (c : Ctx) (s : State) (target : Nat → DWord) : c.branch s target = s.modWarp c.k (c.sendTo (c.branchPc target)) := rfl

theorem goto_eq (c : Ctx) (s : State) (a : DWord) : c.goto s a = s.modWarp c.k (c.sendTo (fun _ => a)) := rfl

theorem Ctx.Went.congr {c : Ctx} {t : State} {pc pc' : Nat → DWord} {f g : Warp → Warp} (h : c.Went t pc f)
    (hpc : ∀ i, inMask c.m i = true → pc i = pc' i) (hf : f (c.onward c.W) = g (c.onward c.W)) : c.Went t pc' g where
  toOnlyWarp := h.toOnlyWarp
  warp := by rw [← hf]; exact h.warp
  here i hi hm := by rw [h.here i hi hm, hpc i hm]
  there := h.there

/-- A warp after an instruction that has set the program counters itself (R37, R111, R337). -/
def Ctx.retired (c : Ctx) (W : Warp) : Warp :=
  { (W.onSlices c.m (fun x => { x with
      wait := if x.wait.isSome then x.wait else none
      woken := x.wait.isSome && x.woken
      retired := if W.twinOf.isSome then x.retired else x.retired + 1 })) with
    clk := W.clk + c.w.stall.toNat
    stall := c.w.stall.toNat
    watchdog := W.watchdog + (if c.s.wdogOn c.W then ((maskSlices c.m).length + 7) / 8 else 0)
    fresh := false }

theorem retire_true (c : Ctx) (s : State) : c.retire true s = s.modWarp c.k c.retired := rfl

theorem slice_retired (c : Ctx) (W : Warp) (i : Nat) : (c.retired W).slice i = (W.onSlices c.m (fun x => { x with
      wait := if x.wait.isSome then x.wait else none
      woken := x.wait.isSome && x.woken
      retired := if W.twinOf.isSome then x.retired else x.retired + 1 })).slice i := rfl

theorem slice_onward (c : Ctx) (W : Warp) (i : Nat) : (c.onward W).slice i = (W.onSlices c.m (fun x => { x with
      pc := c.next
      wait := none
      woken := false
      retired := if W.twinOf.isSome then x.retired else x.retired + 1 })).slice i := rfl

/-- What an instruction that sets the program counters itself leaves of its warp, where it changes counters and results beside
them: the rest is as after any instruction. -/
theorem went_jump {c : Ctx} (h : mfind c.s.warps c.k = some c.W) (pc : Nat → DWord) (p : List Pending) (n : NMap Nat) :
    c.Went (c.retire true (c.s.modWarp c.k (fun _ => { c.sendTo pc c.W with pend := p, cnt := n }))) pc
      (fun W => { W with pend := p, cnt := n }) := by
  let V : Warp := { c.sendTo pc c.W with pend := p, cnt := n }
  have hlen : V.slices.length = c.W.slices.length := length_sendTo c pc c.W
  have hsent {i : Nat} (hi : i < c.W.slices.length) : V.slice i =
      if inMask c.m i then { c.W.slice i with pc := pc i, wait := none, woken := false } else c.W.slice i :=
    slice_sendTo c pc c.W hi
  have hret : c.retire true (c.s.modWarp c.k (fun _ => V)) = c.s.modWarp c.k (fun _ => c.retired V) := modWarp_modWarp ..
  rw [hret]
  have hwarp : (c.s.modWarp c.k (fun _ => c.retired V)).warp c.k = c.retired V := warp_modWarp h _
  refine ⟨⟨rfl, fun j hj => find_modWarp_ne _ _ hj⟩, ⟨(c.retired V).slices, find_modWarp h _⟩, fun i hi hm => ?_, fun i hm => ?_⟩
  · rw [hwarp, slice_retired, slice_onSlices V _ _ (hlen ▸ hi), hsent hi, slice_onward, slice_onSlices c.W _ _ hi]
    simp only [hm, if_true]
    rfl
  · rw [hwarp, slice_retired, slice_onSlices_other V _ hm]
    by_cases hi : i < c.W.slices.length
    · rw [hsent hi, hm]; rfl
    · rw [slice_beyond (Nat.not_lt.1 hi), slice_beyond (hlen ▸ Nat.not_lt.1 hi)]

/-- What an instruction that goes on to the next one leaves of its warp. -/
theorem went_next {c : Ctx} (h : mfind c.s.warps c.k = some c.W) {s : State} {V : Warp} {f : Warp → Warp}
    (hs : s = c.s.modWarp c.k (fun _ => V)) (hf : { f (c.onward c.W) with slices := (c.onward c.W).slices } = c.onward V) :
    c.Went (c.retire false s) (fun _ => c.next) f := by
  have hret : c.retire false s = c.s.modWarp c.k (fun _ => c.onward V) := by rw [hs]; exact modWarp_modWarp ..
  have hslices : (c.onward V).slices = (c.onward c.W).slices := by rw [← hf]
  have hslice (i : Nat) : (c.onward V).slice i = (c.onward c.W).slice i := by rw [Warp.slice, hslices, Warp.slice]
  rw [hret]
  have hwarp : (c.s.modWarp c.k (fun _ => c.onward V)).warp c.k = c.onward V := warp_modWarp h _
  refine ⟨⟨rfl, fun j hj => find_modWarp_ne _ _ hj⟩, ⟨(c.onward c.W).slices, by rw [find_modWarp h, hf]⟩, fun i hi hm => ?_, fun i hm => ?_⟩
  · rw [hwarp, hslice, slice_onward, slice_onSlices c.W _ _ hi, hm]
    rfl
  · rw [hwarp, hslice, slice_onward, slice_onSlices_other c.W _ hm]

/-! ### Words that complete -/

theorem missing_nil (c : Ctx) : c.missing [] = [] := by simp [Ctx.missing, onePerPage]

/-- An instruction that has nothing of its own to wait for or to translate goes through where its checks pass. -/
theorem lets_checked {K : Kit} {c : Ctx} (hword : K.word c = []) (hfork : K.fork = true ∨ c.fork? = none ∨ c.acts = false)
    (hhold : K.hold c = none) (htx : K.tx = true ∨ c.lanes.filter c.W.txLive = []) (hcheck : K.check c = []) (hfirst : K.first c = [])
    (hpages : K.pages c = []) (hwprot : K.wprot c = []) (hbad : K.bad c = none) (hwait : K.wait c = (c.s, none))
    (hlate : K.late (c.moved c.s) = none) : K.Lets c c.s :=
  ⟨hword, hfork, hhold, htx, hcheck, hbad, by rw [hfirst, hpages]; exact missing_nil c, hwprot, hwait, hlate⟩

/-- A word runs where its behaviour lets it through and its effect leaves what is asked. -/
theorem runs_of {ok : Ctx → Prop} {I : Fields → Instr} {o : Op} {len : Len} {post : Ctx → State → Prop}
    (hI : ∀ w, (I w).word = some (o, len, w))
    (h : ∀ c : Ctx, c.op = o → c.len = len → c.Clear → ok c → (kitOf o).Lets c c.s ∧ post c (c.retire (kitOf o).jumps ((kitOf o).eff c))) :
    Runs ok I o len post := by
  intro s g w hs hc hok
  obtain ⟨hlets, hpost⟩ := h (s.issued g o len w) rfl rfl hc hok
  exact ⟨_, by rw [exec_word (hI w), run_goes hs hc hlets], hpost⟩

end Sys2Proof.Machine

/-! Branches (R23, R217, R226): which slices take one, where they go and the link that a call leaves. -/

namespace Sys2Proof.Machine

/-! ### The slices that take a branch -/

/-- The slice and lane with which a slice takes a branch, if it does. -/
def Ctx.taker (c : Ctx) (i : Nat) : Option (Nat × Nat) :=
  match c.sliceLead i with
  | some l => if c.W.guardHolds c.w l then some (i, l) else none
  | none => none

theorem takers_eq (c : Ctx) : c.takers = (maskSlices c.m).filterMap c.taker := rfl

theorem taker_eq_some {c : Ctx} {i : Nat} {t : Nat × Nat} :
    c.taker i = some t ↔ t.1 = i ∧ c.sliceLead i = some t.2 ∧ c.W.guardHolds c.w t.2 = true := by
  obtain ⟨j, l⟩ := t
  unfold Ctx.taker
  cases c.sliceLead i with
  | none => simp
  | some x =>
    by_cases hg : c.W.guardHolds c.w x = true
    · simp only [hg, if_true, Option.some.injEq, Prod.mk.injEq]
      constructor
      · rintro ⟨rfl, rfl⟩; exact ⟨rfl, rfl, hg⟩
      · rintro ⟨rfl, rfl, -⟩; exact ⟨rfl, rfl⟩
    · simp only [hg, if_false, Option.some.injEq, reduceCtorEq, false_iff]
      rintro ⟨-, rfl, h⟩
      exact hg h

theorem mem_takers {c : Ctx} {t : Nat × Nat} : t ∈ c.takers ↔ c.Takes t.1 t.2 := by
  rw [takers_eq, List.mem_filterMap]
  constructor
  · rintro ⟨i, hi, ht⟩
    obtain ⟨rfl, hl, hg⟩ := taker_eq_some.1 ht
    exact ⟨mem_maskSlices.1 hi, hl, hg⟩
  · rintro ⟨hm, hl, hg⟩
    exact ⟨t.1, mem_maskSlices.2 hm, taker_eq_some.2 ⟨rfl, hl, hg⟩⟩

theorem inMask_takerMask {c : Ctx} {i : Nat} : inMask c.takerMask i = true ↔ ∃ l, c.Takes i l := by
  rw [Ctx.takerMask, inMask_maskOf, List.mem_map]
  constructor
  · rintro ⟨⟨t, ht, rfl⟩, -⟩
    exact ⟨t.2, mem_takers.1 ht⟩
  · rintro ⟨l, h⟩
    exact ⟨⟨(i, l), mem_takers.2 h, rfl⟩, lt_of_inMask h.1⟩

/-- Among entries that carry the key they were made from, the first with a key is the one made from it. -/
theorem find?_filterMap_key {β : Type} {l : List Nat} {g : Nat → Option (Nat × β)} (hg : ∀ j t, g j = some t → t.1 = j) {i : Nat}
    (hi : i ∈ l) : (l.filterMap g).find? (fun t => t.1 == i) = g i := by
  induction l with
  | nil => cases hi
  | cons a l ih =>
    by_cases ha : a = i
    · subst ha
      cases hga : g a with
      | some t => simp [hga, hg a t hga]
      | none =>
        have hnone : ∀ t ∈ l.filterMap g, ¬ (t.1 == a) = true := fun t ht hta => by
          obtain ⟨j, -, hj⟩ := List.mem_filterMap.1 ht
          rw [← hg j t hj, beq_iff_eq.1 hta, hga] at hj
          cases hj
        rw [List.filterMap_cons_none hga]
        exact List.find?_eq_none.2 hnone
    · have hl := ih ((List.mem_cons.1 hi).resolve_left (fun h => ha h.symm))
      cases hga : g a with
      | none => simpa [List.filterMap_cons, hga] using hl
      | some t => simpa [List.filterMap_cons, hga, hg a t hga, ha] using hl

theorem branchPc_eq {c : Ctx} (target : Nat → DWord) {i : Nat} (hi : inMask c.m i = true) :
    c.branchPc target i = match c.sliceLead i with
      | some l => if c.W.guardHolds c.w l then target l else c.next
      | none => c.next := by
  have hfind : c.takers.find? (fun t => t.1 == i) = c.taker i :=
    find?_filterMap_key (fun j t ht => (taker_eq_some.1 ht).1) (mem_maskSlices.2 hi)
  rw [Ctx.branchPc, hfind, Ctx.taker]
  cases c.sliceLead i with
  | none => rfl
  | some l => by_cases hg : c.W.guardHolds c.w l = true <;> simp [hg]

theorem targetFaults_nil {c : Ctx} {target : Nat → DWord} (h : ∀ i l, c.Takes i l → (target l).extractLsb' 0 2 = 0) :
    c.targetFaults target = [] := by
  rw [Ctx.targetFaults, List.filterMap_eq_nil_iff]
  intro t ht
  rw [if_pos (h t.1 t.2 (mem_takers.1 ht))]

/-! ### The link of a call -/

section Pair

variable (W : Warp) (lat r : Nat) (l : List Nat) (f g : Nat → Word)

/-- A warp with a result of two registers on its way, low half first. -/
def Warp.resultPair : Warp := (W.result lat r (l.map (fun i => (i, f i)))).result lat (r + 1) (l.map (fun i => (i, g i)))

theorem resultPair_eq : W.resultPair lat r l f g = { W with pend := (W.resultPair lat r l f g).pend } := by
  rw [Warp.resultPair, result_eq, result_eq W]

theorem resultPair_lands {i : Nat} (hi : i ∈ l) (h64 : i < 64) :
    ((W.resultPair lat r l f g).landDue (W.clk + lat)).reg r i = f i ∧
      ((W.resultPair lat r l f g).landDue (W.clk + lat)).reg (r + 1) i = g i := by
  have hclk : (W.result lat r (l.map (fun i => (i, f i)))).clk = W.clk := result_clk _ _ _ _
  have hdue (q : Nat) : ((W.resultPair lat r l f g).landDue (W.clk + lat)).reg q i =
      placeAfter (r + 1) (l.map (fun i => (i, g i))) (q * 64 + i)
        (placeAfter r (l.map (fun i => (i, f i))) (q * 64 + i) ((W.landDue (W.clk + lat)).reg q i)) := by
    rw [Warp.resultPair, ← hclk, result_due, hclk, result_due]
  constructor
  · rw [hdue, placeAfter_other, placeAfter_lane f hi]
    intro v hv
    obtain ⟨a, -, rfl⟩ := List.mem_map.1 hv
    simp only
    omega
  · rw [hdue, placeAfter_lane g hi]

theorem resultPair_settled {q p : Nat} (h : ∀ a ∈ l, q * 64 + p ≠ r * 64 + a ∧ q * 64 + p ≠ (r + 1) * 64 + a) :
    (W.resultPair lat r l f g).settled q p = W.settled q p := by
  rw [Warp.resultPair, result_settled, result_settled]
  · intro v hv
    obtain ⟨a, ha, rfl⟩ := List.mem_map.1 hv
    exact (h a ha).1
  · intro v hv
    obtain ⟨a, ha, rfl⟩ := List.mem_map.1 hv
    exact (h a ha).2

end Pair

theorem mem_callLanes {c : Ctx} {i : Nat} : i ∈ c.callLanes ↔ i < c.W.width ∧ (∃ l, c.Takes (i / 4) l) ∧ c.W.active i = true := by
  rw [Ctx.callLanes, List.mem_filter, mem_lanesIn, inMask_takerMask, and_assoc]

/-- The address at which a slice of the gang goes on after a branch (R23). -/
def Ctx.goesTo (c : Ctx) (target : Nat → DWord) (i : Nat) : DWord :=
  match c.sliceLead i with
  | some l => if c.W.guardHolds c.w l then target l else c.next
  | none => c.next

/-- A branch sends the slices that take it to their targets and the others on. -/
theorem went_branch {c : Ctx} (h : mfind c.s.warps c.k = some c.W) (target : Nat → DWord) :
    c.Went (c.retire true (c.branch c.s target)) (c.goesTo target) id := by
  have hjump := went_jump h (c.branchPc target) c.W.pend c.W.cnt
  rw [show c.branch c.s target = c.s.modWarp c.k (fun _ => c.sendTo (c.branchPc target) c.W) from modWarp_const h _]
  exact hjump.congr (fun i hi => branchPc_eq target hi) rfl

/-- A call is a branch that leaves its link in every active lane of the slices that take it. -/
theorem went_call {c : Ctx} (h : mfind c.s.warps c.k = some c.W) (hlat : c.op.latency.getD 0 = 4) (hwidth : c.W.width ≤ 64)
    (target : Nat → DWord) (link : DWord) {t : State} (ht : t = c.retire true (c.putLink (c.branch c.s target) link)) :
    c.Went t (c.goesTo target) (fun W => { W with pend := (t.warp c.k).pend }) ∧
    (∀ i < 64, (∃ l, c.Takes (i / 4) l) → i < c.W.width → c.W.active i = true →
      ((t.warp c.k).landDue (c.W.clk + 4)).reg c.w.d.toNat i = loHalf link ∧
      ((t.warp c.k).landDue (c.W.clk + 4)).reg (c.w.d.toNat + 1) i = hiHalf link) ∧
    (∀ q p, p < 64 → (q ≠ c.w.d.toNat ∧ q ≠ c.w.d.toNat + 1) ∨ (¬ ∃ l, c.Takes (p / 4) l) ∨ c.W.active p = false →
      (t.warp c.k).settled q p = c.W.settled q p) := by
  let linked (W : Warp) : Warp := W.resultPair 4 c.w.d.toNat c.callLanes (fun _ => loHalf link) (fun _ => hiHalf link)
  let V : Warp := { c.sendTo (c.branchPc target) c.W with pend := (linked c.W).pend, cnt := c.W.cnt }
  have hV : linked (c.sendTo (c.branchPc target) c.W) = V := by
    rw [show linked (c.sendTo (c.branchPc target) c.W) = _ from resultPair_eq ..]
    simp only [V, linked, Warp.resultPair, result_pend, result_clk]
    rfl
  have hput : c.putLink (c.branch c.s target) link = c.s.modWarp c.k (fun _ => V) := by
    rw [Ctx.putLink, Ctx.put, Ctx.put, hlat, modWarp_modWarp, branch_eq, modWarp_modWarp, modWarp_const h, ← hV]
    rfl
  have hjump := went_jump h (c.branchPc target) (linked c.W).pend c.W.cnt
  have ht' : t = c.s.modWarp c.k (fun _ => c.retired V) := by
    rw [ht, hput, retire_true, modWarp_modWarp]
  have hwarp : t.warp c.k = c.retired V := by rw [ht', warp_modWarp h]
  have hland (clk q i : Nat) : ((t.warp c.k).landDue clk).reg q i = ((linked c.W).landDue clk).reg q i := by
    rw [hwarp]
    exact landDue_congr (V := c.retired V) (W := linked c.W) (by simp only [linked]; rw [resultPair_eq]; rfl) rfl clk q i
  have hsettled (q i : Nat) : (t.warp c.k).settled q i = (linked c.W).settled q i := by
    rw [hwarp]
    exact settled_congr (V := c.retired V) (W := linked c.W) (by simp only [linked]; rw [resultPair_eq]; rfl) rfl q i
  refine ⟨?_, fun i hi htake hw hact => ?_, fun q p hp hout => ?_⟩
  · rw [ht, hput]
    refine hjump.congr (fun i hi => branchPc_eq target hi) ?_
    rw [← hput, ← ht, hwarp]
    rfl
  · rw [hland, hland]
    exact resultPair_lands c.W 4 c.w.d.toNat c.callLanes _ _ (mem_callLanes.2 ⟨hw, htake, hact⟩) hi
  · rw [hsettled]
    refine resultPair_settled c.W 4 c.w.d.toNat c.callLanes _ _ fun a ha => ?_
    obtain ⟨haw, htake, hact⟩ := mem_callLanes.1 ha
    rcases hout with ⟨h1, h2⟩ | hout
    · omega
    · have hap : a ≠ p := by
        rintro rfl
        rcases hout with hout | hout
        · exact hout htake
        · rw [hact] at hout; cases hout
      omega

theorem takers_endingSlices {c : Ctx} (h : c.W.twinOf = none) : c.endingSlices = 0 := by
  simp [Ctx.endingSlices, h]

theorem onSlices_none (W : Warp) (f : Slice → Slice) : W.onSlices 0 f = W := by
  rw [onSlices_eq]
  have : W.mapSlice (fun i x => if inMask 0 i then f x else x) = W.mapSlice (fun _ x => x) := by
    refine mapSlice_congr W fun i _ => if_neg ?_
    simp [inMask]
  rw [this]
  simp [Warp.mapSlice]

/-- A RET of a warp that is no twin is a branch. -/
theorem ret_eff {c : Ctx} (h : c.W.twinOf = none) : kitRet.eff c = c.branch c.s c.regTarget := by
  simp only [kitRet, takers_endingSlices h, ne_eq, not_true_eq_false, decide_false, Bool.false_and, Bool.false_eq_true, if_false,
    onSlices_none]
  rw [branch_eq, modWarp_modWarp]

theorem next_of_l128 {c : Ctx} (h : c.len = .l128) : c.next = c.pc + 16 := by
  rw [Ctx.next, h]
  rfl

/-- Settles O22: each word passes its checks where the targets are aligned, and its effect is a branch or a call. -/
theorem branches : Obligations.Branches := by
  unfold Obligations.Branches
  refine ⟨runs_of (fun _ => rfl) fun c _ _ hc hok => ?_, runs_of (fun _ => rfl) fun c _ _ hc hok => ?_,
    runs_of (fun _ => rfl) fun c _ _ hc hok => ?_, runs_of (fun _ => rfl) fun c hop hlen hc hok => ?_,
    runs_of (fun _ => rfl) fun c hop hlen hc hok => ?_⟩
  · exact ⟨lets_checked rfl (.inl rfl) rfl (.inl rfl) (targetFaults_nil hok) rfl rfl rfl rfl rfl rfl, went_branch hc.listed _⟩
  · exact ⟨lets_checked rfl (.inl rfl) rfl (.inl rfl) (targetFaults_nil hok) rfl rfl rfl rfl rfl rfl, went_branch hc.listed _⟩
  · obtain ⟨hal, htwin⟩ := hok
    have hhold : kitRet.hold c = none := if_pos (takers_endingSlices htwin)
    refine ⟨lets_checked rfl (.inl rfl) hhold (.inl rfl) (targetFaults_nil hal) rfl rfl rfl rfl rfl rfl, ?_⟩
    rw [show (kitOf .ret).eff c = _ from ret_eff htwin]
    exact went_branch hc.listed _
  · obtain ⟨hw, hal⟩ := hok
    refine ⟨lets_checked rfl (.inl rfl) rfl (.inl rfl) (targetFaults_nil hal) rfl rfl rfl rfl rfl rfl, ?_⟩
    exact went_call hc.listed (by rw [hop]; rfl) hw _ _ (by rw [← next_of_l128 hlen]; rfl)
  · obtain ⟨hw, hal, hfork, htx⟩ := hok
    have hhold : kitFcall.hold c = none := if_neg (by simp [hfork])
    have heff : kitFcall.eff c = c.putLink (c.branch c.s (fun _ => c.immTarget)) c.next := if_neg (by simp [hfork])
    refine ⟨lets_checked rfl (.inl rfl) hhold (.inr htx) (targetFaults_nil hal) rfl rfl rfl rfl rfl rfl, ?_⟩
    exact went_call hc.listed (by rw [hop]; rfl) hw _ _ (by rw [← next_of_l128 hlen]; exact congrArg (c.retire true) heff)

end Sys2Proof.Machine

/-! Structured control (R19 to R21, R218): the counters that each form leaves in the lanes of its gang, and where the gang goes on. -/

namespace Sys2Proof.Machine

/-- What writes of values that do not depend on what was written leave in a map. -/
theorem mget_foldl_mput (l : List Nat) (v : Nat → Nat) (m : NMap Nat) (i : Nat) :
    mget 0 (l.foldl (fun m i => mput 0 m i (v i)) m) i = if i ∈ l then v i else mget 0 m i := by
  induction l generalizing m with
  | nil => simp
  | cons a l ih =>
    rw [List.foldl_cons, ih]
    by_cases hi : i ∈ l
    · simp [hi]
    · by_cases ha : i = a
      · subst ha; simp [hi]
      · simp [hi, ha, mget_mput_ne]

/-- The counters of the warp once structured control has changed those of the gang (R19 Table 2). -/
def Ctx.newCnt (c : Ctx) (f : Nat → Nat → Nat) : NMap Nat := c.gangLanes.foldl (fun m i => mput 0 m i (f i (c.W.count i))) c.W.cnt

theorem mget_newCnt (c : Ctx) (f : Nat → Nat → Nat) (i : Nat) :
    mget 0 (c.newCnt f) i = if i ∈ c.gangLanes then f i (c.W.count i) else c.W.count i := mget_foldl_mput _ _ _ _

theorem counters_eq {c : Ctx} (h : mfind c.s.warps c.k = some c.W) (f : Nat → Nat → Nat) :
    c.counters f = c.s.modWarp c.k (fun _ => { c.W with cnt := c.newCnt f }) := modWarp_const h _

/-- The gang has gone on at `pc` with new counters in its lanes, those of other slices as they were. -/
def Ctx.Leaves (c : Ctx) (t : State) (new : Nat → Nat → Nat) (pc : DWord) : Prop :=
  c.Went t (fun _ => pc) (fun W => { W with cnt := (t.warp c.k).cnt }) ∧
  (∀ i ∈ c.gangLanes, (t.warp c.k).count i = new i (c.W.count i)) ∧
  ∀ i, i ∉ c.gangLanes → (t.warp c.k).count i = c.W.count i

theorem leaves_of_cnt {c : Ctx} {t : State} {f : Nat → Nat → Nat} {pc : DWord} {g : Warp → Warp} (hcnt : (t.warp c.k).cnt = c.newCnt f)
    (hw : c.Went t (fun _ => pc) g) (hg : g (c.onward c.W) = { c.onward c.W with cnt := c.newCnt f }) : c.Leaves t f pc := by
  refine ⟨hw.congr (fun _ _ => rfl) (by rw [hg, hcnt]), fun i hi => ?_, fun i hi => ?_⟩
  · rw [Warp.count, hcnt, mget_newCnt, if_pos hi]
  · rw [Warp.count, hcnt, mget_newCnt, if_neg hi]

theorem Ctx.Leaves.congr {c : Ctx} {t : State} {f g : Nat → Nat → Nat} {pc : DWord} (h : c.Leaves t f pc)
    (hfg : ∀ i ∈ c.gangLanes, f i (c.W.count i) = g i (c.W.count i)) : c.Leaves t g pc :=
  ⟨h.1, fun i hi => (h.2.1 i hi).trans (hfg i hi), h.2.2⟩

/-- Structured control that sends its gang to an address. -/
theorem leaves_goto {c : Ctx} (h : mfind c.s.warps c.k = some c.W) (f : Nat → Nat → Nat) (a : DWord) :
    c.Leaves (c.retire true (c.goto (c.counters f) a)) f a := by
  have hgoto : c.goto (c.counters f) a = c.s.modWarp c.k (fun _ => { c.sendTo (fun _ => a) c.W with pend := c.W.pend, cnt := c.newCnt f }) := by
    rw [counters_eq h, goto_eq, modWarp_modWarp]
    rfl
  have hjump := went_jump h (fun _ => a) c.W.pend (c.newCnt f)
  rw [hgoto]
  refine leaves_of_cnt ?_ hjump rfl
  rw [retire_true, modWarp_modWarp, warp_modWarp h]
  rfl

/-- Structured control after which the gang goes on at the next instruction. -/
theorem leaves_next {c : Ctx} (h : mfind c.s.warps c.k = some c.W) (f : Nat → Nat → Nat) :
    c.Leaves (c.retire false (c.counters f)) f c.next := by
  refine leaves_of_cnt (g := fun W => { W with cnt := c.newCnt f }) ?_ (went_next h (counters_eq h f) rfl) rfl
  rw [retire_false, counters_eq h, modWarp_modWarp, warp_modWarp h]
  rfl

/-- Where the lanes of the gang come out active, or at a depth above 0, the gang goes on at the next instruction, else at the offset (R21). -/
theorem leaves_structured {c : Ctx} (h : mfind c.s.warps c.k = some c.W) (f : Nat → Nat → Nat) :
    c.Leaves (c.retire true (c.structured f)) f
      (if (∃ i ∈ c.gangLanes, f i (c.W.count i) = 0) ∨ c.w.ext.extractLsb' 0 4 ≠ 0 then c.next else c.immTarget) := by
  have hactive : c.someActive (c.counters f) = true ↔ ∃ i ∈ c.gangLanes, f i (c.W.count i) = 0 := by
    rw [Ctx.someActive, List.any_eq_true, counters_eq h, warp_modWarp h]
    refine exists_congr fun i => and_congr_right fun hi => ?_
    rw [beq_iff_eq, Warp.count, mget_newCnt, if_pos hi]
  have hstructured : c.structured f = c.goto (c.counters f)
      (if (∃ i ∈ c.gangLanes, f i (c.W.count i) = 0) ∨ c.w.ext.extractLsb' 0 4 ≠ 0 then c.next else c.immTarget) := by
    unfold Ctx.structured
    simp only [Bool.or_eq_true, hactive, decide_eq_true_eq]
  rw [hstructured]
  exact leaves_goto h f _

theorem nestFaults_nil {c : Ctx} {f : Nat → Nat → Nat} (h : ∀ i ∈ c.gangLanes, f i (c.W.count i) ≤ 15) : c.nestFaults f = [] := by
  rw [Ctx.nestFaults, List.map_eq_nil_iff, List.filter_eq_nil_iff]
  intro i hi
  simpa using h i hi

/-- IF as Table 2 of R19 gives it. -/
theorem ifCnt_eq (c : Ctx) (i n : Nat) : c.ifCnt i n = if n = 0 then (if c.a i = 0 then 1 else 0) else n + 1 := by
  by_cases h : c.a i = 0 <;> simp [Ctx.ifCnt, h]

theorem leaveCnt_eq (c : Ctx) (extra i n : Nat) :
    c.leaveCnt extra i n = if n = 0 ∧ c.a i ≠ 0 then (c.w.ext.extractLsb' 0 4).toNat + extra else n := by
  simp [Ctx.leaveCnt]

/-- No counter passes 15 where BREAK or CONT leaves a loop at a depth of at most 13. -/
theorem leaveCnt_le {c : Ctx} {extra i n : Nat} (he : extra ≤ 2) (hd : c.w.ext.extractLsb' 0 4 ≤ 13) (hn : n ≤ 15) :
    c.leaveCnt extra i n ≤ 15 := by
  have hd' : (c.w.ext.extractLsb' 0 4).toNat ≤ 13 := hd
  rw [leaveCnt_eq]
  split <;> omega

/-- An instruction whose only check is that of its nesting. -/
theorem lets_nest {K : Kit} {c : Ctx} (hK : K = { check := K.check, eff := K.eff, jumps := K.jumps }) (hcheck : K.check c = []) : K.Lets c c.s := by
  rw [hK]
  exact lets_checked rfl (.inl rfl) rfl (.inl rfl) hcheck rfl rfl rfl rfl rfl rfl

/-- Whether ENDLOOP sends a lane of the gang back (R20). -/
theorem endloop_back (c : Ctx) : c.gangLanes.any (fun i => c.W.count i ≤ 1) = true ↔ ∃ i ∈ c.gangLanes, c.W.count i ≤ 1 := by
  simp

/-- Settles O23: the counters and addresses of each form are those of its effect. -/
theorem structuredControl : Obligations.StructuredControl := by
  unfold Obligations.StructuredControl
  intro offset leaves forward if_ else_ loop leave
  have hforward {c : Ctx} (h : mfind c.s.warps c.k = some c.W) (f : Ctx → Nat → Nat → Nat) :
      forward f c (c.retire true (c.structured (f c))) := leaves_structured h (f c)
  have hleave (extra : Nat) (c : Ctx) : c.leaveCnt extra = leave extra c := funext fun i => funext fun n => leaveCnt_eq c extra i n
  have hif (c : Ctx) : c.ifCnt = if_ c := funext fun i => funext fun n => ifCnt_eq c i n
  refine ⟨runs_of (fun _ => rfl) fun c _ _ hc hok => ⟨lets_nest rfl ?ifChecks, ?ifLeaves⟩, runs_of (fun _ => rfl) fun c _ _ hc _ => ⟨lets_nest rfl rfl, ?elseLeaves⟩,
    runs_of (fun _ => rfl) fun c _ _ hc _ => ⟨lets_nest rfl rfl, ?endifLeaves⟩, runs_of (fun _ => rfl) fun c _ _ hc hok => ⟨lets_nest rfl ?loopChecks, ?loopLeaves⟩,
    runs_of (fun _ => rfl) fun c _ _ hc hok => ⟨lets_nest rfl ?breakChecks, ?breakLeaves⟩, runs_of (fun _ => rfl) fun c _ _ hc hok => ⟨lets_nest rfl ?contChecks, ?contLeaves⟩,
    runs_of (fun _ => rfl) fun c _ _ hc _ => ⟨lets_nest rfl rfl, ?endloopLeaves⟩⟩
  case ifChecks => exact nestFaults_nil (f := c.ifCnt) (by rw [hif]; exact hok)
  case ifLeaves =>
    have := hforward hc.listed if_
    rwa [← hif] at this
  case elseLeaves => exact hforward hc.listed else_
  case endifLeaves => exact leaves_next hc.listed _
  case loopChecks => exact nestFaults_nil hok
  case loopLeaves => exact leaves_next hc.listed _
  case breakChecks => exact nestFaults_nil fun i hi => leaveCnt_le (by decide) hok.1 (hok.2 i hi)
  case breakLeaves =>
    have := hforward hc.listed (leave 2)
    rwa [← hleave] at this
  case contChecks => exact nestFaults_nil fun i hi => leaveCnt_le (by decide) hok.1 (hok.2 i hi)
  case contLeaves =>
    have := hforward hc.listed (leave 1)
    rwa [← hleave] at this
  case endloopLeaves =>
    have hend : kitEndloop.eff c = c.goto (c.counters (fun _ n => if n ≤ 1 then 0 else
        if c.gangLanes.any (fun i => c.W.count i ≤ 1) then n else n - 2))
        (if c.gangLanes.any (fun i => c.W.count i ≤ 1) then c.immTarget else c.next) := rfl
    have hleaves := leaves_goto hc.listed (fun _ n => if n ≤ 1 then 0 else
        if c.gangLanes.any (fun i => c.W.count i ≤ 1) then n else n - 2)
        (if c.gangLanes.any (fun i => c.W.count i ≤ 1) then c.immTarget else c.next)
    rw [← hend] at hleaves
    constructor
    · intro hback
      rw [if_pos ((endloop_back c).2 hback)] at hleaves
      refine hleaves.congr fun i _ => ?_
      simp only [(endloop_back c).2 hback, if_true]
      split <;> split <;> omega
    · intro hon
      have hback : ¬ (c.gangLanes.any (fun i => c.W.count i ≤ 1) = true) := by
        rw [endloop_back]
        rintro ⟨i, hi, hle⟩
        exact absurd (hon i hi) (Nat.not_lt.2 hle)
      rw [if_neg hback] at hleaves
      refine Ctx.Leaves.congr (g := fun _ n => n - 2) hleaves fun i hi => ?_
      simp only [Nat.not_le.2 (hon i hi), hback, Bool.false_eq_true, if_false]

end Sys2Proof.Machine

/-! What a write at its home leaves alone, in any memory (R65, R75, R80): everything but the bytes and lines of memory, their
poison, what operations keep of them, and of the dies the flags of their windows and the race detector's entries. -/

namespace Sys2Proof.Machine

/-- A step of memory, in any memory. -/
structure OnlyMemory (s t : State) : Prop where
  rest : t = { s with
    dies := t.dies, mem := t.mem, host := t.host, l2 := t.l2, uses := t.uses, badSectors := t.badSectors, badHbm := t.badHbm, kept := t.kept }
  die : ∀ d, t.die d = { s.die d with winCtl := (t.die d).winCtl, raceShadow := (t.die d).raceShadow }

theorem OnlyMemory.refl (s : State) : OnlyMemory s s := ⟨rfl, fun _ => rfl⟩

theorem OnlyMemory.trans {s t u : State} (h : OnlyMemory s t) (h' : OnlyMemory t u) : OnlyMemory s u where
  rest := h'.rest.trans (by rw [h.rest])
  die d := (h'.die d).trans (by rw [h.die d])

/-- A step that leaves the dies alone. -/
theorem OnlyMemory.of_rest {s t : State} (h : t = { s with
    mem := t.mem, host := t.host, l2 := t.l2, uses := t.uses, badSectors := t.badSectors, badHbm := t.badHbm, kept := t.kept }) :
    OnlyMemory s t where
  rest := h.trans (by rw [h])
  die d := by
    have : t.die d = s.die d := by rw [State.die, State.die, h]
    rw [this]

theorem OnlyMemory.foldl {α : Type} {f : State → α → State} (h : ∀ s x, OnlyMemory s (f s x)) (l : List α) (s : State) :
    OnlyMemory s (l.foldl f s) := by
  induction l generalizing s with
  | nil => exact .refl s
  | cons x l ih => exact (h s x).trans (ih (f s x))

theorem onlyMemory_modDie (s : State) (d : Nat) {f : Die → Die} (h : ∀ D, f D = { D with winCtl := (f D).winCtl, raceShadow := (f D).raceShadow }) :
    OnlyMemory s (s.modDie d f) where
  rest := rfl
  die x := by
    by_cases hx : x = d
    · subst hx
      rw [die_modDie_self]
      exact h _
    · rw [die_modDie_ne s f hx]

theorem addPoison_onlyMemory (s : State) (k : Nat) : OnlyMemory s (s.addPoison k) := by
  unfold State.addPoison
  split
  · exact .refl s
  · exact .of_rest rfl

theorem underPutLine_onlyMemory (s : State) (a : Nat) (bs : List Byte) : OnlyMemory s (s.underPutLine a bs) := by
  have hkeep : OnlyMemory s (s.keepMem a bs.length) := by
    unfold State.keepMem
    split
    · exact .refl s
    · exact .of_rest rfl
  refine hkeep.trans ?_
  unfold State.underPutLine
  dsimp only
  split
  · exact .of_rest rfl
  · split
    · exact .refl _
    · split
      · exact .of_rest rfl
      · exact .of_rest rfl

theorem underPut_onlyMemory (s : State) (a : Nat) (bs : List Byte) : OnlyMemory s (s.underPut a bs) := by
  have hfirst : OnlyMemory s (if bs = [] then s else s.underPutLine a (bs.take (128 - a % 128))) := by
    split
    · exact .refl s
    · exact underPutLine_onlyMemory _ _ _
  unfold State.underPut
  dsimp only
  split
  · exact hfirst
  · exact hfirst.trans (underPutLine_onlyMemory _ _ _)

theorem settlePoison_onlyMemory (s : State) (n : Nat) : OnlyMemory s (s.settlePoison n) := .of_rest (by rw [settlePoison_rest])

theorem syncPoison_onlyMemory (s : State) (n : Nat) : OnlyMemory s (s.syncPoison n) := .of_rest (by rw [syncPoison_rest])

theorem writeBack_onlyMemory (s : State) (n : Nat) : OnlyMemory s (s.writeBack n) := by
  unfold State.writeBack
  split
  · exact .refl s
  · split
    · split
      · exact .refl s
      · exact OnlyMemory.trans (.of_rest rfl) (settlePoison_onlyMemory _ _)
    · next w F _ =>
      refine OnlyMemory.foldl (fun s j => ?_) _ s
      split
      · exact .refl s
      · dsimp only
        have hscale {u v : State} (h : OnlyMemory u v) (p : Prop) [Decidable p] (a : Nat) (bs : List Byte) :
            OnlyMemory u (if p then v else v.underPut a bs) := by
          split
          · exact h
          · exact h.trans (underPut_onlyMemory _ _ _)
        have hpoison {u v : State} (h : OnlyMemory u v) (p : Prop) [Decidable p] (l : List (Nat × Nat)) :
            OnlyMemory u (if p then l.foldl (fun s r => s.addPoison (r.1 / 32)) v else v) := by
          split
          · exact h.trans (.foldl (fun s r => addPoison_onlyMemory s _) l v)
          · exact h
        split
        · exact (hpoison (hscale (underPut_onlyMemory _ _ _) _ _ _) _ _).trans (onlyMemory_modDie _ _ fun _ => rfl)
        · exact hpoison (hscale (underPut_onlyMemory _ _ _) _ _ _) _ _

theorem evictLine_onlyMemory (s : State) (n : Nat) : OnlyMemory s (s.evictLine n) := by
  have hdrop : OnlyMemory s (State.syncPoison { s.writeBack n with l2 := merase (s.writeBack n).l2 n } n) :=
    ((writeBack_onlyMemory s n).trans (.of_rest rfl)).trans (syncPoison_onlyMemory _ n)
  unfold State.evictLine
  exact hdrop.trans (onlyMemory_modDie _ _ fun _ => rfl)

theorem enterLine_onlyMemory (s : State) (n way : Nat) : OnlyMemory s (s.enterLine n way) := by
  unfold State.enterLine
  dsimp only
  split
  · exact OnlyMemory.trans (.foldl (fun s k => addPoison_onlyMemory s k) _ s) (.of_rest rfl)
  · exact .of_rest rfl

theorem fillFor_onlyMemory (s : State) (svc n : Nat) : OnlyMemory s (s.fillFor svc n) := by
  unfold State.fillFor
  split
  · exact .of_rest rfl
  · split
    · exact .refl s
    · split
      · exact .refl s
      · exact enterLine_onlyMemory _ _ _
      · exact (evictLine_onlyMemory _ _).trans (enterLine_onlyMemory _ _ _)

theorem homePutLineFor_onlyMemory (s : State) (svc a : Nat) (bs : List Byte) : OnlyMemory s (s.homePutLineFor svc a bs) := by
  refine (fillFor_onlyMemory s svc (a / 128)).trans ?_
  unfold State.homePutLineFor
  dsimp only
  split
  · exact ((enterLine_onlyMemory _ _ _).trans (underPutLine_onlyMemory _ _ _)).trans (evictLine_onlyMemory _ _)
  · exact underPutLine_onlyMemory _ _ _

/-- A write at its home, for any class and in any memory. -/
theorem homePutFor_onlyMemory (s : State) (svc a : Nat) (bs : List Byte) : OnlyMemory s (s.homePutFor svc a bs) := by
  have hfirst : OnlyMemory s (if bs = [] then s else s.homePutLineFor svc a (bs.take (128 - a % 128))) := by
    split
    · exact .refl s
    · exact homePutLineFor_onlyMemory _ _ _ _
  unfold State.homePutFor
  dsimp only
  split
  · exact hfirst
  · exact hfirst.trans (homePutLineFor_onlyMemory _ _ _ _)

theorem homePut_onlyMemory (s : State) (a : Nat) (bs : List Byte) : OnlyMemory s (s.homePut a bs) := homePutFor_onlyMemory s _ a bs

end Sys2Proof.Machine

/-! A full phase that no event completes (R127, R220). -/

namespace Sys2Proof.Machine

/-- A warp of determinism level 1 that has ended. -/
def endedWarp : Warp := {
  queue := 0, pkt := 0, launch := 0, block := 0, core := 0, slot := 0, wid := 0, bid := 0, width := 64, regCount := 8, alloc := 8
  slices := [], detlvl := 1, ended := true }

/-- A block whose only warp has ended and whose barrier 0 is in use. -/
def endedBlock : Block := {
  launch := 0, cluster := 0, core := 0, slot := 0, warps := [1], nwarps := 1, size := 0, bars := [(0, { used := true })] }

/-- The reset state with that block and its warp. -/
def endedState : State := { State.reset with blocks := [(0, endedBlock)], warps := [(1, endedWarp)] }

/-- The barrier's phase has its arrivals, for the only warp has ended; but the block's arrivals wait for the round's end. -/
theorem endedState_phase : endedState.phaseFull 0 0 = true ∧ endedState.phaseReady 0 0 = false := by decide

/-- Refutes O50: a phase completes at once only where its block's first warp is not buffered (R127), and the clause of barriers asks
that of the warps that have arrived. At determinism level 1 a barrier in use that no warp has reached is full once the block's
warps have ended, and the event leaves it in use, where the clause asks for a barrier at rest. -/
theorem not_waitEvents : ¬ Obligations.WaitEvents := by
  unfold Obligations.WaitEvents
  rintro ⟨-, hbar, -⟩
  have hstay : exec (.barrierPhaseComplete 0 0) endedState = .next endedState := by
    show Host.Outcome.next (if endedState.phaseReady 0 0 then _ else endedState) = _
    rw [endedState_phase.2]
    rfl
  obtain ⟨hfull, -⟩ := hbar endedState 0 0 endedBlock rfl rfl rfl (fun k hk => by cases hk)
  obtain ⟨t, ht, -, hbarAt, -⟩ := hfull (by decide)
  rw [hstay] at ht
  cases ht
  exact absurd hbarAt (by decide)

end Sys2Proof.Machine

/-! Ends of warps and blocks (R131, R225, R268, R343): what a warp's end leaves alone. -/

namespace Sys2Proof.Machine

/-- A step that ends warps: beside memory it changes warps, blocks, launches, the graph nodes whose places become free, the units of
the cores and the partitions' grace periods. -/
structure Ending (s t : State) : Prop where
  rest : t = { s with
    dies := t.dies, mem := t.mem, host := t.host, l2 := t.l2, uses := t.uses, badSectors := t.badSectors, badHbm := t.badHbm, kept := t.kept
    warps := t.warps, blocks := t.blocks, launches := t.launches, graphs := t.graphs, cores := t.cores, parts := t.parts, fresh := t.fresh }
  die : ∀ d, t.die d = { s.die d with winCtl := (t.die d).winCtl, raceShadow := (t.die d).raceShadow }

theorem Ending.refl (s : State) : Ending s s := ⟨rfl, fun _ => rfl⟩

theorem Ending.trans {s t u : State} (h : Ending s t) (h' : Ending t u) : Ending s u where
  rest := h'.rest.trans (by rw [h.rest])
  die d := (h'.die d).trans (by rw [h.die d])

theorem OnlyMemory.ending {s t : State} (h : OnlyMemory s t) : Ending s t where
  rest := h.rest.trans (by rw [h.rest])
  die := h.die

/-- A step that leaves the memory and the dies alone. -/
theorem Ending.of_rest {s t : State} (h : t = { s with
    warps := t.warps, blocks := t.blocks, launches := t.launches, graphs := t.graphs, cores := t.cores, parts := t.parts, fresh := t.fresh }) :
    Ending s t where
  rest := h.trans (by rw [h])
  die d := by
    have : t.die d = s.die d := by rw [State.die, State.die, h]
    rw [this]

/-! ### Quiescent points -/

theorem quiescent_rest (s : State) (k : Nat) :
    s.quiescent k = { s with warps := (s.quiescent k).warps, parts := (s.quiescent k).parts } := by
  unfold State.quiescent
  dsimp only
  split <;> rfl

theorem quietCheck_rest (s : State) (k : Nat) :
    s.quietCheck k = { s with warps := (s.quietCheck k).warps, parts := (s.quietCheck k).parts } := by
  unfold State.quietCheck
  dsimp only
  split
  · rfl
  · exact (quiescent_rest _ k).trans rfl

theorem quietPoint_rest (s : State) (k : Nat) :
    s.quietPoint k = { s with warps := (s.quietPoint k).warps, parts := (s.quietPoint k).parts } :=
  (quietCheck_rest _ k).trans rfl

/-- What a quiescent point changes of its warp. -/
def Warp.Quieter (W V : Warp) : Prop := V = { W with quietDue := V.quietDue, watchdog := V.watchdog, quiet := V.quiet }

theorem Warp.Quieter.trans {U V W : Warp} (h : Warp.Quieter U V) (h' : Warp.Quieter V W) : Warp.Quieter U W :=
  Eq.trans h' (by rw [h])

/-- A change of a warp to what a quiescent point keeps there. -/
def Warp.Quiet (f : Warp → Warp) : Prop := ∀ W, Warp.Quieter W (f W)

theorem Warp.Quiet.comp {f g : Warp → Warp} (hf : Warp.Quiet f) (hg : Warp.Quiet g) : Warp.Quiet (fun W => g (f W)) :=
  fun W => (hf W).trans (hg (f W))

theorem quiescent_warps (s : State) (k : Nat) : ∃ f, (s.quiescent k).warps = mupdate s.warps k f ∧ Warp.Quiet f := by
  unfold State.quiescent
  dsimp only
  split
  · exact ⟨_, rfl, fun _ => rfl⟩
  · exact ⟨_, rfl, fun _ => rfl⟩

theorem modWarp_of_eq {s t : State} {k : Nat} {f g : Warp → Warp} (h : t.warps = mupdate (s.modWarp k f).warps k g) :
    t.warps = mupdate s.warps k (fun W => g (f W)) :=
  h.trans (congrArg State.warps (modWarp_modWarp s k f g))

theorem quietPoint_warps (s : State) (k : Nat) : ∃ f, (s.quietPoint k).warps = mupdate s.warps k f ∧ Warp.Quiet f := by
  unfold State.quietPoint State.quietCheck
  dsimp only
  split
  · exact ⟨_, rfl, fun _ => rfl⟩
  · obtain ⟨f, hf, hquiet⟩ := quiescent_warps ((s.modWarp k (fun W => { W with quietDue := s.nextId :: W.quietDue })).modWarp k
      (fun W => { W with quietDue := _ })) k
    exact ⟨_, modWarp_of_eq (modWarp_of_eq hf), Warp.Quiet.comp (fun _ => rfl) (Warp.Quiet.comp (fun _ => rfl) hquiet)⟩

/-! ### Places of stream nodes -/

theorem freePlaces_of_none {s : State} {l : Nat} (h : (mfind s.launches l).bind (·.stream) = none) : s.freePlaces l = s := by
  unfold State.freePlaces
  split
  · rfl
  · next L hL =>
    rw [hL] at h
    have hstream : L.stream = none := h
    rw [hstream]

/-- The counts of a launch's places go back to its stream node. -/
def State.givesBack (s : State) (l g n q o : Nat) : State :=
  (s.modNode g n (fun x => { x with useQ := x.useQ - q, useO := x.useO - o })).modLaunch l (fun L => { L with stream := some (g, n, 0, 0) })

/-- The places of a launch become free byte by byte. -/
theorem freePlaces_of_some {s : State} {l g n q o : Nat} {L : Launch} (hL : mfind s.launches l = some L) (hstream : L.stream = some (g, n, q, o))
    (hheld : q + o ≠ 0) :
    s.freePlaces l =
      (((L.places.flatMap (fun p => (List.range (((s.node? g n).map (·.rsz)).getD 0)).filterMap (fun j =>
          (s.givesBack l g n q o).physOf (((mfind s.graphs g).map (·.queue)).getD 0) (p.toNat + j)))).zipIdx.foldl
        (fun s x => s.homePut x.1 [Config.freeByte s.fresh x.2]) (s.givesBack l g n q o))).freshen := by
  simp only [State.freePlaces, State.givesBack, hL, hstream, hheld, if_false]

theorem freeBytes_onlyMemory (l : List (Nat × Nat)) (s : State) :
    OnlyMemory s (l.foldl (fun s x => s.homePut x.1 [Config.freeByte s.fresh x.2]) s) := .foldl (fun s x => homePut_onlyMemory s x.1 _) l s

theorem freePlaces_ending (s : State) (l : Nat) : Ending s (s.freePlaces l) := by
  unfold State.freePlaces
  split
  · exact .refl s
  · split
    · exact .refl s
    · dsimp only
      split
      · exact .of_rest rfl
      · exact Ending.trans (.trans (.of_rest rfl) (freeBytes_onlyMemory _ _).ending) (.of_rest rfl)

theorem freePlaces_warps (s : State) (l : Nat) : (s.freePlaces l).warps = s.warps := by
  unfold State.freePlaces
  split
  · rfl
  · split
    · rfl
    · dsimp only
      split
      · rfl
      · exact (congrArg State.warps (freeBytes_onlyMemory _ _).rest).trans rfl

theorem ndoneOver_of_none {s : State} {l : Nat} (h : (mfind s.launches l).bind (·.stream) = none) : s.ndoneOver l = s := by
  unfold State.ndoneOver
  split
  · exact freePlaces_of_none h
  · rfl

theorem ndoneOver_ending (s : State) (l : Nat) : Ending s (s.ndoneOver l) := by
  unfold State.ndoneOver
  split
  · exact freePlaces_ending s l
  · exact .refl s

theorem ndoneOver_warps (s : State) (l : Nat) : (s.ndoneOver l).warps = s.warps := by
  unfold State.ndoneOver
  split
  · exact freePlaces_warps s l
  · rfl

/-! ### The end of a block and of a warp -/

theorem endBlock_rest (s : State) (b : Nat) : s.endBlock b = { s with
    blocks := (s.endBlock b).blocks, cores := (s.endBlock b).cores, launches := (s.endBlock b).launches } := by
  unfold State.endBlock
  split
  · rfl
  · split
    · dsimp only
      split <;> rfl
    · rfl

theorem endBlock_ending (s : State) (b : Nat) : Ending s (s.endBlock b) := .of_rest (by rw [endBlock_rest])

/-- The state in which a warp's end comes to the places of its launch. -/
def State.endingWarp (s : State) (k : Nat) : State :=
  let W := s.warp k
  let s := s.modWarp k (fun W => { W with ended := true, slices := W.slices.map (fun x => { x with exited := true, wait := none }) })
  let s := s.quietPoint k
  let s := s.modLaunch W.launch (fun L => { L with exitRound := L.round })
  if (s.block? W.block).any (fun B => B.handler == some k) then s.modTap W.core (fun T =>
    if T.binding.any (fun b => b.block == W.block) then freeHolds T else T) else s

/-- The state in which a warp's end comes to its block. -/
def State.endedWarp (s : State) (k : Nat) : State :=
  if (s.endingWarp k).buffered (s.warp k) then s.endingWarp k else (s.endingWarp k).ndoneOver (s.warp k).launch

theorem endWarp_eq (s : State) (k : Nat) : s.endWarp k =
    if (s.warp k).twinOf.isSome || (((mfind (s.endedWarp k).launches (s.warp k).launch).map (·.redund)).getD false && !(s.warp k).killed)
    then s.endedWarp k else (s.endedWarp k).endBlock (s.warp k).block := rfl

theorem endingWarp_rest (s : State) (k : Nat) : s.endingWarp k = { s with
    warps := (s.endingWarp k).warps, parts := (s.endingWarp k).parts, launches := (s.endingWarp k).launches
    cores := (s.endingWarp k).cores } := by
  unfold State.endingWarp
  dsimp only
  rw [quietPoint_rest]
  split <;> rfl

/-- A warp's end. -/
def Warp.end_ (W : Warp) : Warp := { W with ended := true, slices := W.slices.map (fun x => { x with exited := true, wait := none }) }

theorem endingWarp_warps (s : State) (k : Nat) : ∃ f, (s.endingWarp k).warps = mupdate s.warps k (fun W => f W.end_) ∧ Warp.Quiet f := by
  obtain ⟨f, hf, hquiet⟩ := quietPoint_warps (s.modWarp k Warp.end_) k
  refine ⟨f, ?_, hquiet⟩
  rw [← modWarp_of_eq hf]
  unfold State.endingWarp
  dsimp only
  split <;> rfl

theorem endingWarp_launches (s : State) (k : Nat) :
    (s.endingWarp k).launches = mupdate s.launches (s.warp k).launch (fun L => { L with exitRound := L.round }) := by
  have hrest := congrArg State.launches (quietPoint_rest (s.modWarp k Warp.end_) k)
  unfold State.endingWarp
  dsimp only
  split <;> exact congrArg (fun m => mupdate m (s.warp k).launch (fun L => { L with exitRound := L.round })) hrest

theorem endingWarp_stream (s : State) (k l : Nat) :
    (mfind (s.endingWarp k).launches l).bind (·.stream) = (mfind s.launches l).bind (·.stream) := by
  rw [endingWarp_launches]
  by_cases hl : l = (s.warp k).launch
  · subst hl
    rw [mfind_mupdate_self]
    cases mfind s.launches (s.warp k).launch <;> rfl
  · rw [mfind_mupdate_ne _ _ hl]

theorem endedWarp_of_none {s : State} {k : Nat} (h : (mfind s.launches (s.warp k).launch).bind (·.stream) = none) :
    s.endedWarp k = s.endingWarp k := by
  unfold State.endedWarp
  split
  · rfl
  · exact ndoneOver_of_none ((endingWarp_stream s k _).trans h)

theorem endedWarp_ending (s : State) (k : Nat) : Ending s (s.endedWarp k) := by
  have h : Ending s (s.endingWarp k) := .of_rest (by rw [endingWarp_rest])
  unfold State.endedWarp
  split
  · exact h
  · exact h.trans (ndoneOver_ending _ _)

theorem endedWarp_warps (s : State) (k : Nat) : (s.endedWarp k).warps = (s.endingWarp k).warps := by
  unfold State.endedWarp
  split
  · rfl
  · exact ndoneOver_warps _ _

theorem endWarp_ending (s : State) (k : Nat) : Ending s (s.endWarp k) := by
  rw [endWarp_eq]
  split
  · exact endedWarp_ending s k
  · exact (endedWarp_ending s k).trans (endBlock_ending _ _)

/-- What a warp's end leaves of the warps. -/
theorem endWarp_warps (s : State) (k : Nat) : ∃ f, (s.endWarp k).warps = mupdate s.warps k (fun W => f W.end_) ∧ Warp.Quiet f := by
  have h : (s.endWarp k).warps = (s.endingWarp k).warps := by
    rw [endWarp_eq]
    split
    · exact endedWarp_warps s k
    · rw [endBlock_rest]
      exact endedWarp_warps s k
  rw [h]
  exact endingWarp_warps s k

/-- Where the warp's launch holds no places, its end touches no memory. -/
theorem endWarp_of_none {s : State} {k : Nat} (h : (mfind s.launches (s.warp k).launch).bind (·.stream) = none) : s.endWarp k = { s with
    warps := (s.endWarp k).warps, parts := (s.endWarp k).parts, launches := (s.endWarp k).launches, cores := (s.endWarp k).cores
    blocks := (s.endWarp k).blocks } := by
  rw [endWarp_eq, endedWarp_of_none h]
  split
  · rw [endingWarp_rest]
  · rw [endBlock_rest, endingWarp_rest]

end Sys2Proof.Machine

/-! A kill that frees the places of another launch (R47, R131, R343). -/

namespace Sys2Proof.Machine

/-! ### The kill of one warp -/

/-- A killed warp, before it ends. -/
def Warp.kill (W : Warp) : Warp :=
  { W with killed := true, tx := none, saveTx := none, forks := [], buf := W.buf.filter Deferred.engines, latched := [], qdone := true }

/-- The state in which a killed warp ends. -/
def State.killing (s : State) (k : Nat) : State :=
  let W := s.warp k
  let s := { s with
    holds := s.holds.filter (fun h => h.2.1 != k)
    flights := s.flights.filter (fun f => !(f.2.warp == k && f.2.held)) }
  let s := s.modWarp k Warp.kill
  let s := s.modBlock W.block (fun B => { B with abandoned := true })
  s.modLaunch W.launch (fun L => { L with kills := true })

theorem killOne_eq (s : State) (k : Nat) : s.killOne k = (s.killing k).endWarp k := rfl

theorem killing_rest (s : State) (k : Nat) : s.killing k = { s with
    holds := (s.killing k).holds, flights := (s.killing k).flights, warps := (s.killing k).warps, blocks := (s.killing k).blocks
    launches := (s.killing k).launches } := rfl

theorem killing_warps (s : State) (k : Nat) : (s.killing k).warps = mupdate s.warps k Warp.kill := rfl

theorem killing_launch (s : State) (k : Nat) : ((s.killing k).warp k).launch = (s.warp k).launch := by
  unfold State.warp
  rw [killing_warps, mfind_mupdate_self]
  cases mfind s.warps k <;> rfl

/-- What the kill of one warp leaves of the warps. -/
theorem killOne_warps (s : State) (k : Nat) : ∃ f, (s.killOne k).warps = mupdate s.warps k (fun W => f W.kill.end_) ∧ Warp.Quiet f := by
  obtain ⟨f, hf, hquiet⟩ := endWarp_warps (s.killing k) k
  exact ⟨f, modWarp_of_eq (s := s) (f := Warp.kill) hf, hquiet⟩

/-! ### Launches without places -/

/-- A launch holds no places of a stream node. -/
def State.placeless (s : State) (l : Nat) : Prop := (mfind s.launches l).bind (·.stream) = none

theorem State.placeless.of_launches {s t : State} {l : Nat} (h : s.placeless l) (ht : t.launches = s.launches) : t.placeless l := by
  unfold State.placeless
  rw [ht]
  exact h

theorem State.placeless.modLaunch {s : State} {l : Nat} (h : s.placeless l) (q : Nat) {f : Launch → Launch}
    (hf : ∀ L, mfind s.launches q = some L → L.stream = none → (f L).stream = none) : (s.modLaunch q f).placeless l := by
  unfold State.placeless State.modLaunch at *
  dsimp only
  by_cases hl : l = q
  · subst hl
    rw [mfind_mupdate_self]
    cases hL : mfind s.launches l with
    | none => rfl
    | some L =>
      rw [hL] at h
      exact hf L hL h
  · rw [mfind_mupdate_ne _ _ hl]
    exact h

theorem State.placeless.endBlock {s : State} {l : Nat} (h : s.placeless l) (b : Nat) : (s.endBlock b).placeless l := by
  unfold State.endBlock
  split
  · exact h
  · split
    · dsimp only
      split
      · exact h.of_launches rfl
      · exact (h.of_launches rfl).modLaunch _ fun _ _ hL => hL
    · exact h

theorem State.placeless.freePlaces {s : State} {l : Nat} (h : s.placeless l) (q : Nat) : (s.freePlaces q).placeless l := by
  unfold State.freePlaces
  split
  · exact h
  · next L hL =>
    split
    · exact h
    · next g n a o hstream =>
      have hfree : ((s.modNode g n (fun x => { x with useQ := x.useQ - a, useO := x.useO - o })).modLaunch q
          (fun L => { L with stream := some (g, n, 0, 0) })).placeless l :=
        (h.of_launches rfl).modLaunch q fun M hM hnone => by
          have hsame : L = M := Option.some.inj (hL.symm.trans hM)
          rw [← hsame, hstream] at hnone
          cases hnone
      dsimp only
      split
      · exact hfree
      · exact hfree.of_launches ((congrArg State.launches (freeBytes_onlyMemory _ _).rest).trans rfl)

theorem State.placeless.ndoneOver {s : State} {l : Nat} (h : s.placeless l) (q : Nat) : (s.ndoneOver q).placeless l := by
  unfold State.ndoneOver
  split
  · exact h.freePlaces q
  · exact h

theorem State.placeless.endWarp {s : State} {l : Nat} (h : s.placeless l) (k : Nat) : (s.endWarp k).placeless l := by
  have hending : (s.endingWarp k).placeless l := (endingWarp_stream s k l).trans h
  have hended : (s.endedWarp k).placeless l := by
    unfold State.endedWarp
    split
    · exact hending
    · exact hending.ndoneOver _
  rw [endWarp_eq]
  split
  · exact hended
  · exact hended.endBlock _

theorem State.placeless.killing {s : State} {l : Nat} (h : s.placeless l) (k : Nat) : (s.killing k).placeless l :=
  (h.of_launches rfl).modLaunch _ fun _ _ hL => hL

theorem State.placeless.killOne {s : State} {l : Nat} (h : s.placeless l) (k : Nat) : (s.killOne k).placeless l :=
  (h.killing k).endWarp k

/-- The kill of a warp whose launch holds no places touches no memory. -/
theorem killOne_mem {s : State} {k : Nat} (h : s.placeless (s.warp k).launch) : (s.killOne k).mem = s.mem := by
  have hkill : (s.killing k).placeless ((s.killing k).warp k).launch := by
    rw [killing_launch]
    exact h.killing k
  rw [killOne_eq, endWarp_of_none hkill]
  rfl

/-! ### The counterexample -/

/-- A page of package 1, in the translation that the places are reached by. -/
def farPage : Trans := { queue := 0, vpage := 0, size := 7, frame := 2 ^ 40, lc := 0, uc := false, xn := false, rdo := false }

/-- A warp in TMODE. -/
def handlerWarp : Warp := {
  queue := 0, pkt := 0, launch := 0, block := 0, core := 0, slot := 0, wid := 0, bid := 0, width := 64, regCount := 8, alloc := 8
  slices := [], wctl := 8 }

/-- A twin of warp 2 that names a launch of its own. -/
def strayTwin : Warp := { handlerWarp with launch := 5, wctl := 0, twinOf := some 2 }

/-- A launch whose cluster holds one place of its stream node's queue. -/
def streamLaunch : Launch := {
  queue := 0, pkt := 0, part := 0, record := 0, code := 0, args := 0, entry := 0, spad := 0, width := 64, warps := 1, blocks := 1
  redund := false, wave := 1, roles := 0, budget := [], regs := 8, n := 1, stream := some (0, 0, 1, 0), places := [0] }

/-- A stream node with one record place, which is in use. -/
def placeNode : Node := {
  ntype := 1, succ := [], live := 0, work := 0, addr := 0, inq := 0, ovf := 0, rsz := 1, cap := 1, ocap := 0, coal := 1, useQ := 1 }

/-- A queue whose descriptor names no handler table of its own. -/
def plainQueue : Queue := {
  func := 0, desc := 0, root := 0, ring := 0, log2n := 0, quant := 0, part := 0, preempt := false, qdet := 0, qsvc := 0, qpri := 0
  handlers := 0, save := 0 }

/-- Warp 2 is in TMODE and its twin holds a place of a stream node's queue, in which `v` stands. -/
def strayState (v : Byte) : State := {
  State.reset with
  warps := [(1, strayTwin), (2, handlerWarp)], launches := [(5, streamLaunch)], queues := [(0, plainQueue)]
  graphs := [(0, { queue := 0, pkt := 0, nodes := [placeNode] })], tlbs := [(0, [farPage])], mem := [(2 ^ 40, v)] }

def strayRec : TrapRec := { slice := 0, lane := 0, cause := 0 }

/-- A byte that no cache of this package holds and no operation keeps is written where it lies. -/
theorem homePut_far {s : State} {a : Nat} {b : Byte} (hl2 : mfind s.l2 (a / 128) = none) (hline : s.inL2 (a / 128 * 128) = false)
    (hin : s.inL2 a = false) (hkeep : s.unread = []) (hhome : s.homeless a = false) (hhost : s.overHost a = false) :
    s.homePut a [b] = s.hbmPut a [b] := by
  have hlen : ([b] : List Byte).length ≤ 128 - a % 128 := by
    have : a % 128 < 128 := Nat.mod_lt _ (by decide)
    simp only [List.length_singleton]
    omega
  have hfill : s.fillFor noClass (a / 128) = s := by simp [State.fillFor, hl2, hline]
  have hput : s.homePutLineFor noClass a [b] = s.hbmPut a [b] := by
    simp [State.homePutLineFor, hfill, hin, State.underPutLine, State.keepMem, hkeep, hl2, hhome, hhost]
  unfold State.homePut State.homePutFor
  simp only [if_pos hlen, List.take_of_length_le hlen, hput, reduceCtorEq, if_false]

theorem strayState_deadly (v : Byte) : (strayState v).deadly 2 [strayRec] = some (strayRec, 0x105) := by
  have hmode : ((strayState v).warp 2).tmode = true := show BitVec.getLsbD (8 : Word) 3 = true by decide
  simp [State.deadly, State.killCause, strayRec, userCause, State.handlerFor, hmode]

theorem strayState_family (v : Byte) : (strayState v).family 2 = [1, 2] := rfl

/-- The state in which the twin's end comes to the places of its launch. -/
def strayEnd (v : Byte) : State := ((strayState v).killing 1).endingWarp 1

theorem strayEnd_rest (v : Byte) : strayEnd v = { strayState v with
    holds := (strayEnd v).holds, flights := (strayEnd v).flights, warps := (strayEnd v).warps, blocks := (strayEnd v).blocks
    launches := (strayEnd v).launches, parts := (strayEnd v).parts, cores := (strayEnd v).cores } := by
  rw [strayEnd, endingWarp_rest, killing_rest]

theorem strayEnd_launches (v : Byte) : (strayEnd v).launches = [(5, { streamLaunch with kills := true, exitRound := 0 })] :=
  (endingWarp_launches _ _).trans rfl

/-- The state in which the place becomes free. -/
def strayFree (v : Byte) : State := (strayEnd v).givesBack 5 0 0 1 0

theorem strayFree_rest (v : Byte) : strayFree v = { strayState v with
    holds := (strayEnd v).holds, flights := (strayEnd v).flights, warps := (strayEnd v).warps, blocks := (strayEnd v).blocks
    launches := (strayFree v).launches, graphs := (strayFree v).graphs, parts := (strayEnd v).parts, cores := (strayEnd v).cores } := by
  have h := strayEnd_rest v
  rw [strayFree, State.givesBack, State.modLaunch, State.modNode, State.modGraph]
  rw [h]

theorem strayEnd_parts (v : Byte) : (strayEnd v).parts = [] := rfl

theorem strayFree_queueCore (v : Byte) : (strayFree v).queueCore 0 = 0 := by
  have hparts : (strayFree v).parts = [] := strayEnd_parts v
  simp [State.queueCore, State.partDie, hparts, mfind]

theorem strayFree_physOf (v : Byte) : (strayFree v).physOf 0 0 = some (2 ^ 40) := by
  have htlb : (strayFree v).tlbAt 0 0 0 = some farPage := by rw [strayFree_rest]; rfl
  have hcached : (strayFree v).cached 0 0 0 = some farPage := by simp [State.cached, tlbsOf, htlb]
  rw [State.physOf, State.look, State.lookFor, strayFree_queueCore, hcached]
  rfl

theorem strayFree_homePut (v b : Byte) : (strayFree v).homePut (2 ^ 40) [b] = (strayFree v).hbmPut (2 ^ 40) [b] := by
  apply homePut_far <;> rw [strayFree_rest] <;> rfl

theorem strayFree_homePut_mem (v : Byte) : ((strayFree v).homePut (2 ^ 40) [Config.freeByte (strayFree v).fresh 0]).mem =
    cellPut (unwritten 0) [(2 ^ 40, v)] (2 ^ 40) (Config.freeByte 0 0) := by
  rw [strayFree_homePut, strayFree_rest]
  rfl

/-- The places of the twin's launch become free: the byte in the place is a free one. -/
theorem strayEnd_freePlaces (v : Byte) :
    ((strayEnd v).freePlaces 5).mem = cellPut (unwritten 0) [(2 ^ 40, v)] (2 ^ 40) (Config.freeByte 0 0) := by
  have hlaunch : mfind (strayEnd v).launches 5 = some { streamLaunch with kills := true, exitRound := 0 } := by
    rw [strayEnd_launches]
    rfl
  have hqueue : ((mfind (strayEnd v).graphs 0).map (·.queue)).getD 0 = 0 := by
    rw [strayEnd_rest]
    rfl
  have hsize : (((strayEnd v).node? 0 0).map (·.rsz)).getD 0 = 1 := by
    rw [strayEnd_rest]
    rfl
  have hplace : ([0] : List DWord).flatMap (fun p => (List.range 1).filterMap (fun j => (strayFree v).physOf 0 (p.toNat + j))) = [2 ^ 40] := by
    simp [strayFree_physOf]
  rw [freePlaces_of_some hlaunch rfl (by decide), hqueue, hsize, ← strayFree,
    show ({ streamLaunch with kills := true, exitRound := 0 } : Launch).places = [0] from rfl, hplace]
  simp only [List.zipIdx_singleton, List.foldl_cons, List.foldl_nil, State.freshen, strayFree_homePut_mem]

theorem strayState_killOne_mem (v : Byte) :
    ((strayState v).killOne 1).mem = cellPut (unwritten 0) [(2 ^ 40, v)] (2 ^ 40) (Config.freeByte 0 0) := by
  have hbuf : (strayEnd v).buffered (((strayState v).killing 1).warp 1) = false := rfl
  have hall : (strayEnd v).warps.all (fun x => x.2.launch != 5 || x.2.ended || x.2.ndone || x.2.twinOf.isSome) = true := rfl
  have htwin : (((strayState v).killing 1).warp 1).twinOf.isSome = true := rfl
  have hend : ((strayState v).killing 1).endedWarp 1 = (strayEnd v).freePlaces 5 := by
    have hlaunch : (((strayState v).killing 1).warp 1).launch = 5 := rfl
    rw [State.endedWarp, hlaunch, if_neg (by rw [← strayEnd, hbuf]; decide), State.ndoneOver, ← strayEnd, if_pos hall]
  rw [killOne_eq, endWarp_eq, htwin, Bool.true_or, if_pos rfl, hend, strayEnd_freePlaces]

theorem strayState_trap (v : Byte) : (strayState v).trap 2 [strayRec] = (strayState v).kill 2 0x105 0 0 none := by
  unfold State.trap
  simp only [strayState_deadly]
  rfl

theorem strayState_redundant (v : Byte) : (strayState v).redundant 2 0x105 = false := rfl

/-- The other warp is as it was once the twin is dead. -/
theorem strayState_killOne_warp (v : Byte) : mfind ((strayState v).killOne 1).warps 2 = some handlerWarp := by
  obtain ⟨f, hf, -⟩ := killOne_warps (strayState v) 1
  rw [hf, mfind_mupdate_ne _ _ (by decide)]
  rfl

theorem kill_mem {s : State} {k cause lane : Nat} {va : DWord} {pa : Option Nat} (h : s.redundant k cause = false) :
    (s.kill k cause lane va pa).mem = ((s.family k).foldl State.killOne s).mem := by
  rw [State.kill, h]
  simp only [Bool.false_eq_true, if_false, State.ras, State.modDie]
  rw [endBlock_rest]

/-- The kill of warp 2 has killed its twin first, whose place has become free. -/
theorem strayState_trap_mem (v : Byte) :
    ((strayState v).trap 2 [strayRec]).mem = cellPut (unwritten 0) [(2 ^ 40, v)] (2 ^ 40) (Config.freeByte 0 0) := by
  have hplace : ((strayState v).killOne 1).placeless (((strayState v).killOne 1).warp 2).launch := by
    have hnone : (strayState v).placeless handlerWarp.launch := rfl
    rw [warp_of_find (strayState_killOne_warp v)]
    exact hnone.killOne 1
  rw [strayState_trap, kill_mem (strayState_redundant v), strayState_family, List.foldl_cons, List.foldl_cons, List.foldl_nil,
    killOne_mem hplace, strayState_killOne_mem]

/-- Refutes O49: the clause of the kills asks that memory stays as it was where the killed warp's own launch holds no places of a stream
node. But a kill ends the warp's twins as well (R343), each in the launch that it names, and the places of that launch become free
(R131, R268). Here the twin's launch holds a place: with 1 and with 2 in that place before the kill, the same free byte is in it
after. -/
theorem not_traps : ¬ Obligations.Traps := by
  unfold Obligations.Traps
  rintro ⟨-, -, -, -, -, hkills⟩
  have hmem (v : Byte) : ((strayState v).trap 2 [strayRec]).mem = [(2 ^ 40, v)] := by
    obtain ⟨htmode, -⟩ := hkills (strayState v) 2 handlerWarp strayRec plainQueue rfl rfl rfl (by decide) (fun L hL => by cases hL) rfl
    obtain ⟨-, -, hmem, -⟩ := htmode (by decide)
    exact hmem fun L hL => by cases hL
  have hbyte (v : Byte) : v = Config.freeByte 0 0 := by
    have h := congrArg (fun m => cellGet (unwritten 0) m (2 ^ 40)) ((strayState_trap_mem v).symm.trans (hmem v))
    rw [cellGet_cellPut_self] at h
    exact h.symm
  exact absurd ((hbyte 1).trans (hbyte 2).symm) (by decide)

end Sys2Proof.Machine

/-! Faults that stop the whole gang (R44, R318, R331): what is latched, and the course of an issue that faults in every slice; with it the
faults of control flow and of barriers (R21, R188, R217, R220). -/

namespace Sys2Proof.Machine

/-! ### What is latched -/

theorem latch_eq_filterMap {x : TrapRec} {cs : List TrapRec} (h : x.whole = false) :
    latch (x :: cs) = (List.range 16).filterMap (fun i => (x :: cs).find? (fun y => y.slice == i)) := by
  rw [latch, h, if_neg Bool.false_ne_true]
  generalize List.range 16 = l
  induction l with
  | nil => rfl
  | cons i l ih =>
    rw [List.foldr_cons, ih, List.filterMap_cons]
    split <;> rename_i hi <;> rw [hi]

/-- Where every slice of a mask has a fault of its own, the first of each is latched. -/
theorem latch_slices {m : BitVec 16} {r : Nat → TrapRec} {cs : List TrapRec} (hm : m ≠ 0) (hown : ∀ x ∈ cs, x.whole = false ∧ inMask m x.slice = true)
    (hfind : ∀ i ∈ maskSlices m, cs.find? (fun x => x.slice == i) = some (r i)) : latch cs = (maskSlices m).map r := by
  have hlist : (List.range 16).filterMap (fun i => cs.find? (fun x => x.slice == i)) = (maskSlices m).map r := by
    rw [maskSlices, ← List.filterMap_eq_map, ← List.filterMap_eq_filter, List.filterMap_filterMap]
    refine List.filterMap_congr fun i hi => ?_
    by_cases hin : inMask m i = true
    · have := hfind i (mem_maskSlices.2 hin)
      simp only [inMask] at hin
      simp [Option.guard, hin, this]
    · have hnone : cs.find? (fun x => x.slice == i) = none := List.find?_eq_none.2 fun x hx hslice => by
        rw [← beq_iff_eq.1 hslice] at hin
        exact hin (hown x hx).2
      simp only [inMask] at hin
      simp [Option.guard, hin, hnone]
  cases cs with
  | nil =>
    obtain ⟨i, hi⟩ := List.exists_mem_of_ne_nil _ (maskSlices_ne_nil hm)
    cases hfind i hi
  | cons x cs =>
    rw [latch_eq_filterMap (hown x (List.mem_cons_self ..)).1, hlist]

/-- The faults of the slices of a mask, one of each. -/
structure PerSlice (m : BitVec 16) (r : Nat → TrapRec) : Prop where
  gang  : m ≠ 0
  slice : ∀ i ∈ maskSlices m, (r i).slice = i
  own   : ∀ i ∈ maskSlices m, (r i).whole = false

theorem PerSlice.latches {m : BitVec 16} {r : Nat → TrapRec} (h : PerSlice m r) : latch ((maskSlices m).map r) = (maskSlices m).map r := by
  refine latch_slices h.gang (fun x hx => ?_) fun i hi => ?_
  · obtain ⟨i, hi, rfl⟩ := List.mem_map.1 hx
    exact ⟨h.own i hi, by rw [h.slice i hi]; exact mem_maskSlices.1 hi⟩
  · have hkey : (maskSlices m).find? (fun j => (r j).slice == i) = some i := by
      rw [List.find?_congr (p₂ := fun j => j == i) fun j hj => by rw [h.slice j hj]]
      obtain ⟨j, hj⟩ := Option.isSome_iff_exists.1 (List.find?_isSome.2 ⟨i, hi, beq_self_eq_true i⟩ : ((maskSlices m).find? (fun j => j == i)).isSome = true)
      have hsame : (j == i) = true := List.find?_some (p := fun j => j == i) hj
      rw [hj, beq_iff_eq.1 hsame]
    rw [List.find?_map]
    exact congrArg (Option.map r) hkey

theorem PerSlice.stops {c : Ctx} {r : Nat → TrapRec} (h : PerSlice c.m r) : faultMask c ((maskSlices c.m).map r) = c.m := by
  have hslices : ((maskSlices c.m).map r).map (·.slice) = maskSlices c.m := by
    rw [List.map_map]
    exact (List.map_congr_left h.slice).trans (List.map_id _)
  obtain ⟨i, l, hl⟩ := List.exists_cons_of_ne_nil (maskSlices_ne_nil h.gang)
  have hwhole : (r i).whole = false := h.own i (by rw [hl]; exact List.mem_cons_self ..)
  have hmask : faultMask c ((maskSlices c.m).map r) = maskOf (((maskSlices c.m).map r).map (·.slice)) := by
    rw [hl, List.map_cons, faultMask, hwhole, if_neg Bool.false_ne_true]
  rw [hmask, hslices, maskOf_maskSlices]

/-! ### An issue that faults in every slice -/

/-- An instruction's checks latch faults in every slice of the gang. -/
structure Kit.Stops (K : Kit) (c : Ctx) (rs : List TrapRec) : Prop where
  word  : K.word c = []
  fork  : K.fork = true ∨ c.fork? = none
  hold  : K.hold c = none
  tx    : K.tx = true ∨ c.lanes.filter c.W.txLive = []
  found : rs ≠ []
  check : latch (K.check c) = rs
  again : latch rs = rs
  all   : faultMask c rs = c.m
  first : K.first c = []
  bad   : K.bad { c with m := 0 } = none
  wait  : K.wait { c with m := 0 } = (c.s, none)

theorem perform_faults {c : Ctx} {K : Kit} {rs : List TrapRec} (hc : c.Clear) (hK : K.Stops c rs) : c.perform K = c.fault c.s rs := by
  have hnone : c.m &&& ~~~c.m = 0 := by simp
  have hfinish : c.finish K rs = c.fault c.s rs := by
    simp only [Ctx.finish, hK.all, hnone, if_true, hK.found, if_false]
  have hself : ({ c with W := c.s.warp c.k } : Ctx) = c := by rw [warp_of_find hc.listed]
  simp only [Ctx.perform, hc.uniFaults, List.nil_append, hK.check, hK.all, hnone, hK.first, if_true, List.append_nil, missing_nil, hK.again,
    hK.bad, hK.wait, hself, hfinish, ite_self]

theorem issue_faults {c : Ctx} {K : Kit} {rs : List TrapRec} (hc : c.Clear) (hK : K.Stops c rs) : c.issue K = c.fault c.s rs := by
  have he : (if c.W.sbchk then c.W.early c.op c.w else none) = none := by
    split
    · next hs => exact hc.notEarly hs
    · rfl
  have hd : c.disallow K = c := by
    unfold Ctx.disallow
    rcases hK.tx with ht | ht
    · simp [ht]
    · rw [ht]; split <;> rfl
  have hv : (!K.fork && c.fork?.isSome && c.acts) = false := by
    rcases hK.fork with hf | hf <;> simp [hf]
  simp only [Ctx.issue, hc.noSkip, hc.slices, if_false, hc.landed, he, hK.word, hv, hK.hold, hc.clean, hd, Bool.false_eq_true]
  exact perform_faults hc hK

/-- A word faults where its checks latch faults in every slice. -/
theorem faults_of {bad : Ctx → Prop} {I : Fields → Instr} {o : Op} {len : Len} {rs : Ctx → List TrapRec}
    (hI : ∀ w, (I w).word = some (o, len, w)) (h : ∀ c : Ctx, c.op = o → c.Clear → bad c → (kitOf o).Stops c (rs c)) :
    Faults bad I o len rs := by
  intro s g w hs hc hbad
  rw [exec_word (hI w), run_issued hs, issue_faults hc (h _ rfl hc hbad)]

/-! ### Control flow -/

theorem stops_slices {K : Kit} {c : Ctx} {r : Nat → TrapRec} (h : PerSlice c.m r)
    (hK : K = { check := K.check, eff := K.eff, jumps := K.jumps }) (hcheck : latch (K.check c) = (maskSlices c.m).map r) :
    K.Stops c ((maskSlices c.m).map r) := by
  rw [hK]
  exact ⟨rfl, .inl rfl, rfl, .inl rfl, fun hnil => maskSlices_ne_nil h.gang (List.map_eq_nil_iff.1 hnil), hcheck, h.latches, h.stops, rfl, rfl, rfl⟩

/-- The fault of a misaligned target in a slice. -/
def Ctx.targetFault (c : Ctx) (target : Nat → DWord) (i : Nat) : TrapRec :=
  { c.flt ((c.sliceLead i).getD 0) 6 with taddr := target ((c.sliceLead i).getD 0) }

theorem div_of_sliceLead {c : Ctx} {i l : Nat} (h : c.sliceLead i = some l) : l / 4 = i :=
  ((inMask_sliceBit i (l / 4)).1 (mem_lanesIn.1 (List.mem_of_find?_eq_some h)).2).1

theorem targetFaults_all {c : Ctx} {target : Nat → DWord} (hm : c.m ≠ 0)
    (h : ∀ i ∈ maskSlices c.m, ∃ l, c.Takes i l ∧ (target l).extractLsb' 0 2 ≠ 0) :
    PerSlice c.m (c.targetFault target) ∧ c.targetFaults target = (maskSlices c.m).map (c.targetFault target) := by
  refine ⟨⟨hm, fun i hi => ?_, fun _ _ => rfl⟩, ?_⟩
  · obtain ⟨l, ⟨-, hl, -⟩, -⟩ := h i hi
    show (c.sliceLead i).getD 0 / 4 = i
    rw [hl]
    exact div_of_sliceLead hl
  · have hown : ∀ i ∈ maskSlices c.m, (c.taker i).bind (fun t =>
        if (target t.2).extractLsb' 0 2 = 0 then none else some { c.flt t.2 6 with taddr := target t.2 }) = some (c.targetFault target i) := by
      intro i hi
      obtain ⟨l, ⟨hin, hl, hg⟩, hbad⟩ := h i hi
      have htaker : c.taker i = some (i, l) := taker_eq_some.2 ⟨rfl, hl, hg⟩
      rw [htaker, Option.bind_some, if_neg hbad, Ctx.targetFault, hl, Option.getD_some]
    rw [Ctx.targetFaults, takers_eq, List.filterMap_filterMap, List.filterMap_congr hown]
    exact congrFun List.filterMap_eq_map _

/-- The first lane of a slice whose counter would pass 15. -/
def Ctx.firstNest (c : Ctx) (f : Nat → Nat → Nat) (j : Nat) : Option Nat :=
  c.gangLanes.find? (fun i => i / 4 == j && decide (15 < f i (c.W.count i)))

/-- The nesting fault of a slice. -/
def Ctx.nestFault (c : Ctx) (f : Nat → Nat → Nat) (j : Nat) : TrapRec :=
  let i := (c.firstNest f j).getD 0
  { c.flt i 2 with info0 := BitVec.ofNat 32 (c.W.count i) }

theorem nestFaults_all {c : Ctx} {f : Nat → Nat → Nat} (hm : c.m ≠ 0) (h : ∀ j ∈ maskSlices c.m, (c.firstNest f j).isSome = true) :
    PerSlice c.m (c.nestFault f) ∧ latch (c.nestFaults f) = (maskSlices c.m).map (c.nestFault f) := by
  refine ⟨⟨hm, fun j hj => ?_, fun _ _ => rfl⟩, latch_slices hm (fun x hx => ?_) fun j hj => ?_⟩
  · obtain ⟨i, hi⟩ := Option.isSome_iff_exists.1 (h j hj)
    have hslice := List.find?_some hi
    simp only [Bool.and_eq_true, beq_iff_eq] at hslice
    show (c.firstNest f j).getD 0 / 4 = j
    rw [hi]
    exact hslice.1
  · obtain ⟨i, hi, rfl⟩ := List.mem_map.1 hx
    have hgang := (List.mem_filter.1 (List.mem_filter.1 hi).1).1
    exact ⟨rfl, (mem_lanesIn.1 hgang).2⟩
  · obtain ⟨i, hi⟩ := Option.isSome_iff_exists.1 (h j hj)
    have hlane : (c.gangLanes.filter (fun i => 15 < f i (c.W.count i))).find? (fun i => i / 4 == j) = some i := by
      rw [List.find?_filter, ← hi, Ctx.firstNest]
      exact List.find?_congr fun i _ => by simp [Bool.and_comm, Bool.beq_eq_decide_eq]
    rw [Ctx.nestFaults, List.find?_map]
    refine (congrArg (Option.map _) hlane).trans ?_
    simp [Ctx.nestFault, hi]

theorem faults_branch {I : Fields → Instr} {o : Op} {len : Len} {target : Ctx → Nat → DWord} (hI : ∀ w, (I w).word = some (o, len, w))
    (hK : kitOf o = { check := (kitOf o).check, eff := (kitOf o).eff, jumps := (kitOf o).jumps })
    (hcheck : ∀ c, (kitOf o).check c = c.targetFaults (target c)) :
    Faults (fun c => ∀ i ∈ maskSlices c.m, ∃ l, c.Takes i l ∧ (target c l).extractLsb' 0 2 ≠ 0) I o len
      (fun c => (maskSlices c.m).map (c.targetFault (target c))) :=
  faults_of hI fun c _ hc hbad => by
    obtain ⟨hown, hall⟩ := targetFaults_all hc.slices hbad
    exact stops_slices hown hK (by rw [hcheck, hall, hown.latches])

theorem faults_nest {I : Fields → Instr} {o : Op} {len : Len} {f g : Ctx → Nat → Nat → Nat} (hI : ∀ w, (I w).word = some (o, len, w))
    (hK : kitOf o = { check := (kitOf o).check, eff := (kitOf o).eff, jumps := (kitOf o).jumps })
    (hcheck : ∀ c, (kitOf o).check c = c.nestFaults (g c)) (hfg : ∀ c i n, g c i n = f c i n) :
    Faults (fun c => ∀ j ∈ maskSlices c.m, (c.firstNest (f c) j).isSome = true) I o len (fun c => (maskSlices c.m).map (c.nestFault (f c))) :=
  faults_of hI fun c _ hc hbad => by
    have hsame : g c = f c := funext fun i => funext fun n => hfg c i n
    obtain ⟨hown, hall⟩ := nestFaults_all hc.slices hbad
    exact stops_slices hown hK (by rw [hcheck, hsame, hall])

/-! ### Barriers -/

/-- A barrier instruction acts for the first time, outside continuations and transactions. -/
structure Ctx.Arrives (c : Ctx) : Prop where
  noFork : c.fork? = none
  acting : c.lanes ≠ []
  noTx   : c.lanes.filter c.W.txLive = []
  first  : c.wake = none

theorem acts_nowhere (c : Ctx) : ({ c with m := 0 } : Ctx).acts = false := by
  have hnone : lanesIn 0#16 c.W.width = [] := by simp [lanesIn]
  simp [Ctx.acts, Ctx.lanes, Warp.actLanes, hnone]

section
variable {c : Ctx} (h : c.Arrives)
include h

theorem barCheck_first (counted : Bool) (expect : Nat) :
    c.barCheck counted expect =
      if 15 < (c.a c.lead).toNat then c.barFault 1
      else if counted && (expect = 0 || ((c.s.block? c.W.block).map (·.nwarps)).getD 0 < expect) then c.barFault 2
      else if counted && (c.s.barNow c.W.block (c.a c.lead).toNat).used && (c.s.barNow c.W.block (c.a c.lead).toNat).expect ≠ 0 &&
        (c.s.barNow c.W.block (c.a c.lead).toNat).expect ≠ expect then c.barFault 3
      else if (c.s.barNow c.W.block (c.a c.lead).toNat).used && decide ((c.s.barNow c.W.block (c.a c.lead).toNat).expect = 0) == counted
        then c.barFault 4
      else [] := by
  have hacts : c.acts = true := by simpa [Ctx.acts] using h.acting
  simp only [Ctx.barCheck, h.first, hacts, Bool.not_true, Bool.false_eq_true, if_false]

theorem barCheck_number (hn : 15 < (c.a c.lead).toNat) (counted : Bool) (expect : Nat) : c.barCheck counted expect = c.barFault 1 := by
  rw [barCheck_first h, if_pos hn]

variable (hn : (c.a c.lead).toNat ≤ 15)
include hn

theorem barCheck_count {expect : Nat} (he : expect = 0 ∨ ((c.s.block? c.W.block).map (·.nwarps)).getD 0 < expect) :
    c.barCheck true expect = c.barFault 2 := by
  rw [barCheck_first h, if_neg (Nat.not_lt.2 hn), if_pos (by simpa using he)]

theorem barCheck_kind_bar (hused : (c.s.barNow c.W.block (c.a c.lead).toNat).used = true)
    (hkind : (c.s.barNow c.W.block (c.a c.lead).toNat).expect ≠ 0) : c.barCheck false 0 = c.barFault 4 := by
  rw [barCheck_first h, if_neg (Nat.not_lt.2 hn)]
  simp [hused, hkind]

variable {expect : Nat} (h1 : 1 ≤ expect) (hcount : expect ≤ ((c.s.block? c.W.block).map (·.nwarps)).getD 0)
  (hused : (c.s.barNow c.W.block (c.a c.lead).toNat).used = true)
include h1 hcount hused

theorem barCheck_differs (hkind : (c.s.barNow c.W.block (c.a c.lead).toNat).expect ≠ 0)
    (hdiff : (c.s.barNow c.W.block (c.a c.lead).toNat).expect ≠ expect) : c.barCheck true expect = c.barFault 3 := by
  have he : ¬ (expect = 0 ∨ ((c.s.block? c.W.block).map (·.nwarps)).getD 0 < expect) := by omega
  rw [barCheck_first h, if_neg (Nat.not_lt.2 hn), if_neg (by simpa using he), if_pos (by simp [hused, hkind, hdiff])]

theorem barCheck_kind_counted (hkind : (c.s.barNow c.W.block (c.a c.lead).toNat).expect = 0) : c.barCheck true expect = c.barFault 4 := by
  have he : ¬ (expect = 0 ∨ ((c.s.block? c.W.block).map (·.nwarps)).getD 0 < expect) := by omega
  rw [barCheck_first h, if_neg (Nat.not_lt.2 hn), if_neg (by simpa using he), if_neg (by simp [hkind]), if_pos (by simp [hused, hkind])]

end

/-- The behaviour of a barrier instruction, but for what it does once it has arrived. -/
structure Kit.Barrier (K : Kit) (counted : Bool) (expect : Ctx → Nat) : Prop where
  word  : ∀ c, K.word c = []
  hold  : ∀ c, K.hold c = none
  first : ∀ c, K.first c = []
  bad   : ∀ c, K.bad c = none
  check : ∀ c, K.check c = c.barCheck counted (expect c)
  wait  : ∀ c : Ctx, c.acts = false → K.wait c = (c.s, none)

theorem barWait_idle {c : Ctx} (h : c.acts = false) (expect : Nat) : c.barWait expect = (c.s, none) := by simp [Ctx.barWait, h]

theorem kitBar_barrier : kitBar.Barrier false (fun _ => 0) :=
  ⟨fun _ => rfl, fun _ => rfl, fun _ => rfl, fun _ => rfl, fun _ => rfl, fun _ h => barWait_idle h 0⟩

theorem kitBara_barrier : kitBara.Barrier true Ctx.barCount :=
  ⟨fun _ => rfl, fun _ => rfl, fun _ => rfl, fun _ => rfl, fun _ => rfl, fun _ h => by simp [kitBara, h]⟩

theorem kitBarw_barrier : kitBarw.Barrier true Ctx.barCount :=
  ⟨fun _ => rfl, fun _ => rfl, fun _ => rfl, fun _ => rfl, fun _ => rfl, fun c h => barWait_idle h c.barCount⟩

/-- A barrier instruction whose checks find a fault on arrival. -/
theorem faults_barrier {bad : Ctx → Prop} {I : Fields → Instr} {o : Op} {len : Len} {counted : Bool} {expect : Ctx → Nat} {reason : Nat}
    (hI : ∀ w, (I w).word = some (o, len, w)) (hK : (kitOf o).Barrier counted expect)
    (hbad : ∀ c, bad c → c.Arrives ∧ c.barCheck counted (expect c) = c.barFault reason) :
    Faults bad I o len (fun c => c.barFault reason) :=
  faults_of hI fun c _ _ hc => by
    obtain ⟨harr, hcheck⟩ := hbad c hc
    exact ⟨hK.word c, .inr harr.noFork, hK.hold c, .inr harr.noTx, by simp [Ctx.barFault], by rw [hK.check, hcheck]; rfl, rfl, rfl,
      hK.first c, hK.bad _, hK.wait _ (acts_nowhere c)⟩

/-- Settles O26: the first fault of each slice is latched, and where every slice of the gang has one nothing else happens. -/
theorem controlFaults : Obligations.ControlFaults := by
  unfold Obligations.ControlFaults
  refine ⟨⟨?_, ?_, ?_⟩, ⟨?_, ?_⟩, ?_, ?_, ?_, ?_, ?_, ?_, ?_⟩
  · exact faults_branch (fun _ => rfl) rfl fun _ => rfl
  · exact faults_branch (fun _ => rfl) rfl fun _ => rfl
  · exact faults_branch (fun _ => rfl) rfl fun _ => rfl
  · exact faults_nest (f := fun c i n => if n = 0 then (if c.a i = 0 then 1 else 0) else n + 1) (g := Ctx.ifCnt) (fun _ => rfl) rfl (fun _ => rfl) ifCnt_eq
  · exact faults_nest (f := fun _ _ n => if n = 0 then 0 else n + 2) (g := fun _ _ n => if n = 0 then 0 else n + 2) (fun _ => rfl) rfl (fun _ => rfl) fun _ _ _ => rfl
  · exact faults_barrier (fun _ => rfl) kitBar_barrier fun c ⟨⟨hfork, hacts, htx, hwake⟩, hn⟩ =>
      ⟨⟨hfork, hacts, htx, hwake⟩, barCheck_number ⟨hfork, hacts, htx, hwake⟩ hn _ _⟩
  · exact faults_barrier (fun _ => rfl) kitBara_barrier fun c ⟨⟨hfork, hacts, htx, hwake⟩, hn⟩ =>
      ⟨⟨hfork, hacts, htx, hwake⟩, barCheck_number ⟨hfork, hacts, htx, hwake⟩ hn _ _⟩
  · exact faults_barrier (fun _ => rfl) kitBara_barrier fun c ⟨⟨hfork, hacts, htx, hwake⟩, hn, hcount⟩ =>
      ⟨⟨hfork, hacts, htx, hwake⟩, barCheck_count ⟨hfork, hacts, htx, hwake⟩ hn hcount⟩
  · exact faults_barrier (fun _ => rfl) kitBarw_barrier fun c ⟨⟨hfork, hacts, htx, hwake⟩, hn, hcount⟩ =>
      ⟨⟨hfork, hacts, htx, hwake⟩, barCheck_count ⟨hfork, hacts, htx, hwake⟩ hn hcount⟩
  · exact faults_barrier (fun _ => rfl) kitBara_barrier fun c ⟨⟨⟨hfork, hacts, htx, hwake⟩, hn, h1, hcount⟩, hused, hkind, hdiff⟩ =>
      ⟨⟨hfork, hacts, htx, hwake⟩, barCheck_differs ⟨hfork, hacts, htx, hwake⟩ hn h1 hcount hused hkind hdiff⟩
  · exact faults_barrier (fun _ => rfl) kitBarw_barrier fun c ⟨⟨⟨hfork, hacts, htx, hwake⟩, hn, h1, hcount⟩, hused, hkind⟩ =>
      ⟨⟨hfork, hacts, htx, hwake⟩, barCheck_kind_counted ⟨hfork, hacts, htx, hwake⟩ hn h1 hcount hused hkind⟩
  · exact faults_barrier (fun _ => rfl) kitBar_barrier fun c ⟨⟨hfork, hacts, htx, hwake⟩, hn, hused, hkind⟩ =>
      ⟨⟨hfork, hacts, htx, hwake⟩, barCheck_kind_bar ⟨hfork, hacts, htx, hwake⟩ hn hused hkind⟩

end Sys2Proof.Machine

/-! Hints, REGANG and EXIT (R24, R29, R225, R227): what leaves the gang at the next instruction, what stops it and what ends it. -/

namespace Sys2Proof.Machine

/-! ### Going on and waiting -/

/-- An instruction that changes nothing goes on to the next one. -/
theorem went_same {c : Ctx} (h : mfind c.s.warps c.k = some c.W) : c.Went (c.retire false c.s) (fun _ => c.next) id := by
  have hsame : c.retire false c.s = c.retire false (c.s.modWarp c.k (fun _ => c.W)) := by
    rw [retire_false, retire_false, modWarp_modWarp]
    exact modWarp_const h _
  rw [hsame]
  exact went_next h rfl rfl

/-- The gang goes on at an address. -/
theorem went_goto {c : Ctx} (h : mfind c.s.warps c.k = some c.W) (a : DWord) : c.Went (c.retire true (c.goto c.s a)) (fun _ => a) id := by
  rw [goto_eq, modWarp_const h]
  exact (went_jump h (fun _ => a) c.W.pend c.W.cnt).congr (fun _ _ => rfl) rfl

/-- An instruction passes its checks and then waits for a condition. -/
structure Kit.Waits (K : Kit) (c : Ctx) (t : State) (why : Cond) : Prop where
  word  : K.word c = []
  fork  : K.fork = true ∨ c.fork? = none
  hold  : K.hold c = none
  tx    : K.tx = true ∨ c.lanes.filter c.W.txLive = []
  check : K.check c = []
  bad   : K.bad c = none
  first : K.first c = []
  pages : K.pages c = []
  wprot : K.wprot c = []
  wait  : K.wait c = (t, some why)

theorem perform_waits {c : Ctx} {K : Kit} {t : State} {why : Cond} (hc : c.Clear) (hK : K.Waits c t why) : c.perform K = c.stop t why := by
  simp only [Ctx.perform, hc.uniFaults, hK.check, List.append_nil, latch_nil, faultMask_nil, keep_mask, hK.bad, hK.first, hK.pages, ite_self,
    missing_nil, if_true, hc.slices, if_false, hK.wprot, hK.wait, deadly_nil, Option.isSome_none, Bool.false_eq_true]

theorem issue_waits {c : Ctx} {K : Kit} {t : State} {why : Cond} (hc : c.Clear) (hK : K.Waits c t why) : c.issue K = c.stop t why := by
  have he : (if c.W.sbchk then c.W.early c.op c.w else none) = none := by
    split
    · next hs => exact hc.notEarly hs
    · rfl
  have hd : c.disallow K = c := by
    unfold Ctx.disallow
    rcases hK.tx with ht | ht
    · simp [ht]
    · rw [ht]; split <;> rfl
  have hv : (!K.fork && c.fork?.isSome && c.acts) = false := by
    rcases hK.fork with hf | hf <;> simp [hf]
  simp only [Ctx.issue, hc.noSkip, hc.slices, if_false, hc.landed, he, hK.word, hv, hK.hold, hc.clean, hd, Bool.false_eq_true]
  exact perform_waits hc hK

/-! ### Slices that have not exited -/

theorem inMask_alive {W : Warp} {i : Nat} : inMask W.alive i = true ↔ (i < W.slices.length ∧ (W.slice i).exited = false) ∧ i < 16 := by
  rw [Warp.alive, inMask_maskOf, List.mem_map]
  refine and_congr_left fun _ => ⟨?_, fun ⟨hi, hx⟩ => ?_⟩
  · rintro ⟨⟨x, j⟩, hx, rfl⟩
    obtain ⟨hmem, hex⟩ := List.mem_filter.1 hx
    have hget : W.slices[j]? = some x := List.mem_zipIdx_iff_getElem?.1 hmem
    obtain ⟨hj, -⟩ := List.getElem?_eq_some_iff.1 hget
    exact ⟨hj, by simpa [Warp.slice, List.getD_eq_getElem?_getD, hget] using hex⟩
  · have hget : W.slices[i]? = some (W.slice i) := by
      rw [Warp.slice, List.getD_eq_getElem?_getD, List.getElem?_eq_getElem hi, Option.getD_some]
    exact ⟨(W.slice i, i), List.mem_filter.2 ⟨List.mem_zipIdx_iff_getElem?.2 hget, by simp [hx]⟩, rfl⟩

theorem alive_eq_zero {W : Warp} (h : ∀ i < 16, i < W.slices.length → (W.slice i).exited = true) : W.alive = 0 := by
  refine BitVec.eq_of_getLsbD_eq fun i hi => ?_
  have hnot : ¬ inMask W.alive i = true := fun hin => by
    obtain ⟨⟨hlt, hx⟩, -⟩ := inMask_alive.1 hin
    rw [h i hi hlt] at hx
    cases hx
  simpa [inMask] using hnot

theorem alive_ne_zero {W : Warp} {i : Nat} (hi : i < 16) (hlt : i < W.slices.length) (hx : (W.slice i).exited = false) : W.alive ≠ 0 := fun h0 => by
  have hin := inMask_alive.2 ⟨⟨hlt, hx⟩, hi⟩
  rw [h0] at hin
  simp [inMask] at hin

/-! ### EXIT -/

/-- The warp once EXIT has ended the slices that take it. -/
def Ctx.exiting (c : Ctx) : Warp :=
  (c.sendTo (fun _ => c.next) c.W).onSlices c.takerMask (fun x => { x with pc := c.pc, exited := true, wait := none, woken := false })

section
variable {c : Ctx} (h : mfind c.s.warps c.k = some c.W) (htx : c.W.tx = none)
include h htx

theorem exit_slices : (c.goto c.s c.next).modWarp c.k (fun W =>
      (W.onSlices c.takerMask (fun x => { x with pc := c.pc, exited := true, wait := none, woken := false })).dropTx c.takerMask) =
    c.s.modWarp c.k (fun _ => c.exiting) := by
  have hdrop : c.exiting.dropTx c.takerMask = c.exiting := by rw [Warp.dropTx, show c.exiting.tx = none from htx]
  rw [goto_eq, modWarp_modWarp, modWarp_const h]
  exact congrArg (fun V => c.s.modWarp c.k (fun _ => V)) hdrop

/-- An EXIT that leaves no slice. -/
theorem exit_eff_last (hheld : c.W.held = []) (hlast : c.exiting.alive = 0) :
    kitExit.eff c = (c.s.modWarp c.k (fun _ => c.exiting)).endWarp c.k := by
  simp only [kitExit, htx, List.foldl_nil, exit_slices h htx, warp_modWarp h, hlast, ne_eq, not_true_eq_false, if_false, hheld]

/-- An EXIT that no slice takes. -/
theorem exit_eff_idle (hidle : c.takerMask = 0) (halive : c.exiting.alive ≠ 0) :
    kitExit.eff c = c.s.modWarp c.k (fun _ => c.exiting) := by
  simp only [kitExit, htx, List.foldl_nil, exit_slices h htx, warp_modWarp h, halive, ne_eq, not_false_eq_true, if_true, if_pos hidle]

end

theorem length_exiting (c : Ctx) : c.exiting.slices.length = c.W.slices.length := by
  rw [Ctx.exiting, onSlices_eq, length_mapSlice, length_sendTo]

theorem exited_exiting {c : Ctx} {i : Nat} (hi : i < c.W.slices.length) :
    (c.exiting.slice i).exited = (inMask c.takerMask i || (c.W.slice i).exited) := by
  rw [Ctx.exiting, slice_onSlices _ _ _ (by rwa [length_sendTo]), slice_sendTo _ _ _ hi]
  by_cases ht : inMask c.takerMask i = true
  · simp [ht]
  · by_cases hm : inMask c.m i = true <;> simp [ht, hm]

/-- An EXIT that leaves no slice ends the warp. -/
theorem exit_ends {c : Ctx} (h : mfind c.s.warps c.k = some c.W) :
    let t := c.retire true ((c.s.modWarp c.k (fun _ => c.exiting)).endWarp c.k)
    ((t.warp c.k).ended = true ∧ (∀ x ∈ (t.warp c.k).slices, x.exited = true) ∧
      ((mfind c.s.launches c.W.launch).bind (·.stream) = none → t.mem = c.s.mem ∧ t.l2 = c.s.l2) ∧
      t.flights = c.s.flights ∧ t.engines = c.s.engines) := by
  intro t
  let s₂ := c.s.modWarp c.k (fun _ => c.exiting)
  have hfind : mfind s₂.warps c.k = some c.exiting := find_modWarp h _
  obtain ⟨f, hf, hquiet⟩ := endWarp_warps s₂ c.k
  have hend : mfind (s₂.endWarp c.k).warps c.k = some (f c.exiting.end_) := by rw [hf, mfind_mupdate_self, hfind]; rfl
  have hwarp : t.warp c.k = c.retired (f c.exiting.end_) := warp_modWarp hend _
  have hending : Ending s₂ (s₂.endWarp c.k) := endWarp_ending _ _
  refine ⟨?_, ?_, fun hnone => ?_, ?_, ?_⟩
  · rw [hwarp, hquiet c.exiting.end_]
    rfl
  · have hall : ∀ x ∈ (f c.exiting.end_).slices, x.exited = true := fun x hx => by
      rw [hquiet c.exiting.end_] at hx
      obtain ⟨y, -, rfl⟩ := List.mem_map.1 hx
      rfl
    rw [hwarp]
    intro x hx
    obtain ⟨⟨y, i⟩, hy, rfl⟩ := List.mem_map.1 hx
    have hold : y.exited = true := hall y (List.fst_mem_of_mem_zipIdx hy)
    dsimp only
    split <;> exact hold
  · have hplace : (mfind s₂.launches (s₂.warp c.k).launch).bind (·.stream) = none := by
      rw [warp_of_find hfind]
      exact hnone
    have hrest := endWarp_of_none hplace
    exact ⟨(congrArg State.mem hrest).trans rfl, (congrArg State.l2 hrest).trans rfl⟩
  · exact (congrArg State.flights hending.rest).trans rfl
  · exact (congrArg State.engines hending.rest).trans rfl

/-! ### The statement -/

/-- Settles O24: each hint goes on to the next instruction, a first REGANG stops the gang, and EXIT ends the slices that take it. -/
theorem hintsAndExits : Obligations.HintsAndExits := by
  unfold Obligations.HintsAndExits
  refine ⟨⟨?_, ?_, ?_, ?_, ?_, ?_⟩, ?_, ?_⟩
  · exact fun len => runs_of (fun _ => rfl) fun c _ _ hc _ => ⟨lets_plain _ c, went_same hc.listed⟩
  · exact runs_of (fun _ => rfl) fun c _ _ hc _ => ⟨lets_plain _ c, went_next hc.listed (modWarp_const hc.listed _) rfl⟩
  · refine runs_of (fun _ => rfl) fun c _ _ hc _ => ⟨lets_plain _ c, went_next hc.listed (modWarp_const hc.listed _) ?_⟩
    have hset : (Shape.ivlRanges c.w).filter (fun r => r.2 ≠ 0) = (Shape.ivlRanges c.w).filter (fun r => r.2 != 0) :=
      List.filter_congr fun r _ => (decide_not).trans rfl
    exact congrArg (fun set : List (Nat × Nat) => { c.onward c.W with working := set, fast := set.isEmpty }) hset
  · exact runs_of (fun _ => rfl) fun c _ _ hc ⟨hfork, htx⟩ =>
      ⟨lets_checked rfl (.inl rfl) (by simp [kitOf, kitFsync, hfork]) (.inr htx) rfl rfl rfl rfl rfl rfl rfl, went_same hc.listed⟩
  · exact runs_of (fun _ => rfl) fun c _ _ hc ⟨hfork, a, m, hwake⟩ =>
      ⟨lets_checked rfl (.inr (.inl hfork)) rfl (.inl rfl) rfl rfl rfl rfl rfl (by simp [kitOf, kitRegang, hwake]) rfl, went_same hc.listed⟩
  · rintro s g w hs hc ⟨hfork, hwake, hacts⟩
    let c := s.issued g .regang .l64 w
    have hact : c.acts = true := by simpa [Ctx.acts] using hacts
    have hwaits : kitRegang.Waits c (c.s.progress c.k) (.regang c.pc ((c.a c.lead).extractLsb' 0 16 ||| c.m)) :=
      ⟨rfl, .inr hfork, rfl, .inl rfl, rfl, rfl, rfl, rfl, rfl, by simp [kitRegang, c, hwake, hact]⟩
    have hwarp : c.stop (c.s.progress c.k) (.regang c.pc ((c.a c.lead).extractLsb' 0 16 ||| c.m)) = c.s.modWarp c.k
        (fun W => c.stopped { W with watchdog := 0 } (.regang c.pc ((c.a c.lead).extractLsb' 0 16 ||| c.m))) := modWarp_modWarp ..
    refine ⟨_, by rw [exec_word rfl, run_issued hs, show kitOf .regang = kitRegang from rfl, issue_waits hc hwaits, hwarp],
      ⟨rfl, fun j hj => find_modWarp_ne _ _ hj⟩, find_modWarp hc.listed _⟩
  · refine runs_of (fun _ => rfl) fun c _ _ hc ⟨hfork, htwin, htx, hheld, hall⟩ => ⟨?_, ?_⟩
    · exact lets_checked rfl (.inr (.inl hfork)) rfl (.inl rfl) (by simp [kitOf, kitExit, htwin]) rfl rfl rfl rfl rfl rfl
    · have hnone : c.exiting.alive = 0 := alive_eq_zero fun i hi hlt => by
        rw [length_exiting] at hlt
        rw [exited_exiting hlt]
        rcases hall i hi hlt with hx | htake
        · rw [hx, Bool.or_true]
        · rw [inMask_takerMask.2 htake, Bool.true_or]
      have heff : (kitOf .exit_).eff c = (c.s.modWarp c.k (fun _ => c.exiting)).endWarp c.k := by
        exact exit_eff_last hc.listed htx hheld hnone
      rw [heff]
      exact exit_ends hc.listed
  · refine runs_of (fun _ => rfl) fun c _ _ hc ⟨hfork, htwin, htx, hnone, i, hi, hlt, hx⟩ => ⟨?_, ?_⟩
    · exact lets_checked rfl (.inr (.inl hfork)) rfl (.inl rfl) (by simp [kitOf, kitExit, htwin]) rfl rfl rfl rfl rfl rfl
    · have hout : c.takerMask = 0 := BitVec.eq_of_getLsbD_eq fun j _ => by
        have hj : ¬ inMask c.takerMask j = true := fun h => by
          obtain ⟨l, hl⟩ := inMask_takerMask.1 h
          exact hnone j l hl
        simpa [inMask] using hj
      have hstay : c.exiting = c.sendTo (fun _ => c.next) c.W := by rw [Ctx.exiting, hout, onSlices_none]
      have halive : c.exiting.alive ≠ 0 := by
        have hin := mem_maskSlices.1 hi
        refine alive_ne_zero (lt_of_inMask hin) (by rwa [length_exiting]) ?_
        rw [exited_exiting hlt, hout, hx]
        simp [inMask]
      have heff : (kitOf .exit_).eff c = c.goto c.s c.next := by
        show kitExit.eff c = _
        rw [exit_eff_idle hc.listed htx hout halive, hstay, goto_eq]
        exact (modWarp_const hc.listed _).symm
      rw [heff]
      exact went_goto hc.listed c.next

end Sys2Proof.Machine

/-! The events of accesses on their way (R87 to R93, R340): leases that run out, walks that end and data that are marked. -/

namespace Sys2Proof.Machine

/-! ### Leases -/

theorem exec_leaseExpiry {s : State} {n key : Nat} {c : Copy} (h : s.copies[n]? = some (key, c)) :
    exec (.leaseExpiry n) s = .next
      (if s.past (if key / 2 ^ 43 < 768 then key / 2 ^ 43 / 192 else key / 2 ^ 43 - 768) c.expiry then { s with copies := merase s.copies key } else s) := by
  show Host.Outcome.next _ = _
  simp only [h]

theorem past_iff (s : State) (d : Nat) (t : DWord) : s.past d t = true ↔ t ≤ s.dieTime d := by
  simp [State.past, BitVec.le_def]

/-- A copy lapses exactly when its lease has run out (R89). -/
theorem leaseExpiry_lapses {s : State} {n key : Nat} {c : Copy} (h : s.copies[n]? = some (key, c)) :
    let die := if key / 2 ^ 43 < 768 then key / 2 ^ 43 / 192 else key / 2 ^ 43 - 768
    (c.expiry ≤ s.dieTime die → ∃ t, exec (.leaseExpiry n) s = .next t ∧ t = { s with copies := t.copies } ∧
      mfind t.copies key = none ∧ ∀ x, x ≠ key → mfind t.copies x = mfind s.copies x) ∧
    (s.dieTime die < c.expiry → exec (.leaseExpiry n) s = .next s) := by
  intro die
  rw [exec_leaseExpiry h]
  refine ⟨fun hpast => ⟨_, by rw [if_pos ((past_iff s die _).2 hpast)], rfl, mfind_merase_self _ _, fun x hx => mfind_merase_ne _ hx⟩, fun hlive => ?_⟩
  rw [if_neg]
  intro hpast
  exact absurd ((past_iff s die _).1 hpast) (by simpa using hlive)

/-! ### Translations that enter the TLBs -/

/-- Translations have entered TLBs: `tr` is in those of `ps`, each holds beside it only what it held, and the others hold what they
held. -/
structure Entered (s t : State) (ps : List Nat) (tr : Trans) : Prop where
  rest   : t = { s with tlbs := t.tlbs, fresh := t.fresh }
  there  : ∀ p ∈ ps, tr ∈ mget [] t.tlbs p
  only   : ∀ p, ∀ x ∈ mget [] t.tlbs p, x = tr ∨ x ∈ mget [] s.tlbs p
  kept   : ∀ p, tr ∈ mget [] s.tlbs p → tr ∈ mget [] t.tlbs p
  others : ∀ p, p ∉ ps → mget [] t.tlbs p = mget [] s.tlbs p

theorem Entered.refl (s : State) (tr : Trans) : Entered s s [] tr :=
  ⟨rfl, fun _ h => absurd h List.not_mem_nil, fun _ _ h => .inr h, fun _ h => h, fun _ _ => rfl⟩

theorem Entered.trans {s t u : State} {ps qs : List Nat} {tr : Trans} (h : Entered s t ps tr) (h' : Entered t u qs tr) :
    Entered s u (ps ++ qs) tr where
  rest := h'.rest.trans (by rw [h.rest])
  there p hp := by
    rcases List.mem_append.1 hp with hp | hp
    · exact h'.kept p (h.there p hp)
    · exact h'.there p hp
  only p x hx := by
    rcases h'.only p x hx with hx | hx
    · exact .inl hx
    · exact h.only p x hx
  kept p hp := h'.kept p (h.kept p hp)
  others p hp := by
    rw [List.mem_append, not_or] at hp
    rw [h'.others p hp.2, h.others p hp.1]

theorem entered_insert {s : State} {p : Nat} {tr : Trans} {l : List Trans} (hl : ∀ x ∈ l, x ∈ mget [] s.tlbs p)
    (hnew : tr ∉ mget [] s.tlbs p) (n : Nat) : Entered s { s with tlbs := minsert s.tlbs p (l ++ [tr]), fresh := n } [p] tr := by
  have hself : mget [] (minsert s.tlbs p (l ++ [tr])) p = l ++ [tr] := by rw [mget, mfind_minsert_self]; rfl
  have hother {q : Nat} (hq : q ≠ p) : mget [] (minsert s.tlbs p (l ++ [tr])) q = mget [] s.tlbs q := by
    rw [mget, mfind_minsert_ne _ _ hq]
    rfl
  refine ⟨rfl, fun q hq => ?_, fun q x hx => ?_, fun q hq => ?_, fun q hq => hother (by simpa using hq)⟩
  · obtain rfl := List.mem_singleton.1 hq
    show tr ∈ mget [] (minsert s.tlbs q (l ++ [tr])) q
    rw [hself]
    exact List.mem_append_right _ (List.mem_singleton_self tr)
  · by_cases hq : q = p
    · subst hq
      rw [hself] at hx
      rcases List.mem_append.1 hx with hx | hx
      · exact .inr (hl x hx)
      · exact .inl (List.mem_singleton.1 hx)
    · rw [hother hq] at hx
      exact .inr hx
  · have hne : q ≠ p := fun e => hnew (e ▸ hq)
    exact (hother hne).symm ▸ hq

theorem enterTlb_entered (s : State) (p : Nat) (tr : Trans) : Entered s (s.enterTlb p tr) [p] tr := by
  unfold State.enterTlb
  dsimp only
  by_cases hin : tr ∈ mget [] s.tlbs p
  · rw [if_pos (List.contains_iff_mem.2 hin)]
    exact ⟨rfl, fun q hq => by rwa [List.mem_singleton.1 hq], fun _ _ h => .inr h, fun _ h => h, fun _ _ => rfl⟩
  · rw [if_neg fun h => hin (List.contains_iff_mem.1 h)]
    split
    · exact entered_insert (fun _ hx => hx) hin s.fresh
    · exact entered_insert (fun _ hx => List.mem_of_mem_eraseIdx hx) hin _

theorem foldl_entered {α : Type} {f : State → α → State} {ps : α → List Nat} {tr : Trans} (hf : ∀ s x, Entered s (f s x) (ps x) tr) (l : List α) (s : State) :
    Entered s (l.foldl f s) (l.flatMap ps) tr := by
  induction l generalizing s with
  | nil => exact .refl s tr
  | cons x l ih =>
    rw [List.foldl_cons, List.flatMap_cons]
    exact (hf s x).trans (ih _)

theorem addTrans_entered (s : State) (core : Nat) (tr : Trans) : Entered s (s.addTrans core tr) (tlbsOf core) tr := by
  have h := foldl_entered (fun s p => enterTlb_entered s p tr) (tlbsOf core) s
  rwa [List.flatMap_singleton'] at h

/-- A translation enters the TLBs in which some cores look. -/
theorem addTrans_all_entered (s : State) (cores : List Nat) (tr : Trans) :
    Entered s (cores.foldl (fun s c => s.addTrans c tr) s) (cores.flatMap tlbsOf) tr :=
  foldl_entered (fun s c => addTrans_entered s c tr) cores s

/-! ### Walks -/

theorem runningWalk_eq {s : State} {n : Nat} {w : Walk} (h : s.walks[n]? = some w) :
    s.runningWalk n = if ((s.walks.take n).filter (fun x => x.die == w.die)).length < 64 then some w else none := by
  rw [State.runningWalk, h]
  rfl

section
variable (s : State) (ws : List Walk)

theorem byteAt_walks (a : Nat) : ({ s with walks := ws } : State).byteAt a = s.byteAt a := rfl

theorem pte_walks (va table level : Nat) : ({ s with walks := ws } : State).pte va table level = s.pte va table level := by
  have h : (fun j => ({ s with walks := ws } : State).byteAt (table + 8 * (va / 2 ^ (12 + 9 * level) % 512) + j)) =
      fun j => s.byteAt (table + 8 * (va / 2 ^ (12 + 9 * level) % 512) + j) := funext fun _ => byteAt_walks s ws _
  rw [State.pte, State.pte, State.bytesAt, State.bytesAt, h]

theorem leafEntry_walks (q va level : Nat) (e : DWord) : ({ s with walks := ws } : State).leafEntry q va level e = s.leafEntry q va level e := rfl

theorem walkFrom_walks (q va level table : Nat) : ({ s with walks := ws } : State).walkFrom q va level table = s.walkFrom q va level table := by
  induction level generalizing table with
  | zero => simp only [State.walkFrom, pte_walks, leafEntry_walks]
  | succ k ih =>
    simp only [State.walkFrom, pte_walks, leafEntry_walks, ih]
    rfl

/-- What a walk finds depends on no other walk. -/
theorem walk_walks (q va : Nat) : ({ s with walks := ws } : State).walk q va = s.walk q va := by
  simp only [State.walk, walkFrom_walks]
  rfl

end

/-- A walk that its die does not run waits; one that it runs ends in a translation or in a fault that goes to the firmware (R88). -/
theorem tlbWalkComplete_ends {s : State} {n : Nat} {w : Walk} (h : s.walks[n]? = some w) :
    (64 ≤ ((s.walks.take n).filter (fun x => x.die == w.die)).length → exec (.tlbWalkComplete n) s = .next s) ∧
    (((s.walks.take n).filter (fun x => x.die == w.die)).length < 64 →
      (∀ tr, s.walk w.queue (w.vpn * 4096) = .ok tr → ∃ t, exec (.tlbWalkComplete n) s = .next t ∧
        Entered { s with walks := s.walks.eraseIdx n } t (w.cores.flatMap tlbsOf) tr) ∧
      ∀ l, s.walk w.queue (w.vpn * 4096) = .error l → exec (.tlbWalkComplete n) s =
        .next { s with walks := s.walks.eraseIdx n, faults := s.faults ++ [⟨w.queue, w.vpn, l, none, w.cores⟩] }) := by
  have hrun := runningWalk_eq h
  refine ⟨fun hfull => ?_, fun hroom => ⟨fun tr htr => ?_, fun l hl => ?_⟩⟩
  · rw [if_neg (Nat.not_lt.2 hfull)] at hrun
    show Host.Outcome.next _ = _
    simp only [hrun]
  · rw [if_pos hroom] at hrun
    refine ⟨_, ?_, addTrans_all_entered _ w.cores tr⟩
    show Host.Outcome.next _ = _
    simp only [hrun, walk_walks, htr]
  · rw [if_pos hroom] at hrun
    show Host.Outcome.next _ = _
    simp only [hrun, walk_walks, hl]

/-! ### Marked data (R340) -/

/-- A sector of memory is marked. -/
theorem eccMem_marks (s : State) (sector : Nat) : ∃ t, exec (.eccUncorrectable (.mem sector)) s = .next t ∧
    t.poisonedAt (32 * sector) 32 = true ∧ t.mem = s.mem ∧ t.l2 = s.l2 := by
  have hin : sector ∈ (s.addPoison sector).badSectors := by
    unfold State.addPoison
    split
    · next h => exact List.contains_iff_mem.1 h
    · exact List.mem_cons_self ..
  have hrest : s.addPoison sector = { s with badSectors := (s.addPoison sector).badSectors } := by
    unfold State.addPoison
    split <;> rfl
  have hmem : (s.addPoison sector).mem = s.mem := by rw [hrest]
  have hl2 : (s.addPoison sector).l2 = s.l2 := by rw [hrest]
  have hbad (u : State) (hu : sector ∈ u.badSectors) : u.poisonedAt (32 * sector) 32 = true := by
    have hmarked : u.markedAt (32 * sector) 32 = true := List.any_eq_true.2 ⟨sector, hu, by simp⟩
    rw [State.poisonedAt, if_neg (List.ne_nil_of_mem hu), hmarked, Bool.true_or]
  by_cases hnone : ((mfind (s.addPoison sector).l2 (sector / 4)).isSome || (s.addPoison sector).badHbm.contains sector) = true
  · exact ⟨s.addPoison sector, congrArg Host.Outcome.next (if_pos hnone), hbad _ hin, hmem, hl2⟩
  · exact ⟨{ s.addPoison sector with badHbm := sector :: (s.addPoison sector).badHbm }, congrArg Host.Outcome.next (if_neg hnone), hbad _ hin,
      hmem, hl2⟩

/-- A word of a scratchpad is marked. -/
theorem eccSpad_marks {s : State} {b w : Nat} {B : Block} (h : mfind s.blocks b = some B) (hw : w * 4 < B.size) :
    ∃ t, exec (.eccUncorrectable (.spad b w)) s = .next t ∧ t.spadBad b (4 * w) 4 = true ∧ t.spad b = s.spad b ∧ t.warps = s.warps := by
  let mark (B : Block) : Block :=
    if w * 4 < B.size && !B.spadPoison.contains w then { B with spadPoison := w :: B.spadPoison } else B
  have hfind : mfind (s.modBlock b mark).blocks b = some (mark B) := by rw [State.modBlock, mfind_mupdate_self, h]; rfl
  have hmark : w ∈ (mark B).spadPoison ∧ (mark B).spad = B.spad := by
    dsimp only [mark]
    split
    · exact ⟨List.mem_cons_self .., rfl⟩
    · next hnot => exact ⟨by simpa [hw] using hnot, rfl⟩
  refine ⟨s.modBlock b mark, rfl, ?_, ?_, rfl⟩
  · rw [State.spadBad, hfind]
    exact List.any_eq_true.2 ⟨w, hmark.1, by simp⟩
  · rw [State.spad, State.spad, hfind, h]
    exact hmark.2

/-- A lane of a register is marked. -/
theorem eccReg_marks {s : State} {k r i : Nat} {W : Warp} (h : mfind s.warps k = some W) (hr : r < W.alloc) (hi : i < W.width) :
    ∃ t, exec (.eccUncorrectable (.reg k r i)) s = .next t ∧ mget false (t.warp k).poison (r * 64 + i) = true ∧ (t.warp k).regs = W.regs ∧
      t.blocks = s.blocks := by
  let mark (W : Warp) : Warp := if r < W.alloc && i < W.width then { W with poison := minsert W.poison (r * 64 + i) true } else W
  have hmark : mark W = { W with poison := minsert W.poison (r * 64 + i) true } := if_pos (by simp [hr, hi])
  refine ⟨s.modWarp k mark, rfl, ?_, ?_, rfl⟩
  · rw [warp_modWarp h, hmark]
    simp [mget]
  · rw [warp_modWarp h, hmark]

theorem core_modCore (s : State) (core : Nat) (f : Core → Core) : (s.modCore core f).core core = f (s.core core) := by
  rw [State.core, modCore_cores, mfind_minsert_self]
  rfl

/-- A cell of the accumulator is marked. -/
theorem eccAcc_marks (s : State) (core : Nat) {cell : Nat} (h : cell < 32768) : ∃ t, exec (.eccUncorrectable (.acc core cell)) s = .next t ∧
    cell ∈ (t.core core).mx.accPoison ∧ (t.core core).mx.acc = (s.core core).mx.acc := by
  let mark (U : MxUnit) : MxUnit := if cell < 32768 && !U.accPoison.contains cell then { U with accPoison := cell :: U.accPoison } else U
  have hmark (U : MxUnit) : cell ∈ (mark U).accPoison ∧ (mark U).acc = U.acc := by
    dsimp only [mark]
    split
    · exact ⟨List.mem_cons_self .., rfl⟩
    · next hnot => exact ⟨by simpa [h] using hnot, rfl⟩
  refine ⟨s.modMx core mark, rfl, ?_⟩
  rw [State.modMx, core_modCore]
  exact hmark _

end Sys2Proof.Machine

/-! Returns and acknowledgements (R37, R92, R97): what a flight that has all it waits for leaves in its warp. -/

namespace Sys2Proof.Machine

theorem exec_loadReturn {s : State} {f : Nat} {F : Flight} (h : mfind s.flights f = some F) :
    exec (.loadReturn f) s = .next (if F.cls ≠ 1 && F.complete && !F.round then s.landFlight f else s) := by
  show Host.Outcome.next _ = _
  simp only [h]

theorem exec_storeAck {s : State} {f : Nat} {F : Flight} (h : mfind s.flights f = some F) :
    exec (.storeAck f) s = .next (if F.cls = 1 && F.complete && !F.round then s.landFlight f else s) := by
  show Host.Outcome.next _ = _
  simp only [h]

theorem complete_single {F : Flight} {a : Access} (haccs : F.accs = [a]) (hready : F.ready = true) (hheld : F.held = false)
    (hdone : a.done = true) : F.complete = true := by
  simp [Flight.complete, haccs, hready, hheld, hdone]

theorem not_complete {F : Flight} (h : ∃ a ∈ F.accs, a.done = false) : F.complete = false := by
  obtain ⟨a, ha, hdone⟩ := h
  have hall : F.accs.all (·.done) = false := List.all_eq_false.2 ⟨a, ha, by simp [hdone]⟩
  rw [Flight.complete, hall, Bool.and_false]

/-- What a quiescent point that is passed leaves of the warps. -/
theorem quietCheck_warps (s : State) (k : Nat) :
    (s.quietCheck k).warps = s.warps ∨ ∃ f, (s.quietCheck k).warps = mupdate s.warps k f ∧ Warp.Quiet f := by
  unfold State.quietCheck
  dsimp only
  split
  · exact .inl rfl
  · obtain ⟨f, hf, hquiet⟩ := quiescent_warps (s.modWarp k (fun V => { V with
      quietDue := (s.warp k).quietDue.filter (fun n => s.readsOut k n) })) k
    exact .inr ⟨_, modWarp_of_eq hf, Warp.Quiet.comp (fun _ => rfl) hquiet⟩

theorem quietCheck_warp {s : State} {k : Nat} {W : Warp} (h : mfind s.warps k = some W) :
    (∃ V, mfind (s.quietCheck k).warps k = some V ∧ Warp.Quieter W V) ∧
      ∀ j, j ≠ k → mfind (s.quietCheck k).warps j = mfind s.warps j := by
  rcases quietCheck_warps s k with hsame | ⟨f, hf, hquiet⟩
  · rw [hsame]
    exact ⟨⟨W, h, rfl⟩, fun _ _ => rfl⟩
  · rw [hf]
    exact ⟨⟨f W, by rw [mfind_mupdate_self, h]; rfl, hquiet W⟩, fun j hj => mfind_mupdate_ne _ _ hj⟩

theorem opVisible_unknown {s : State} {k op : Nat} (h : mfind s.engines op = none) : s.opVisible k op = s := by
  rw [State.opVisible, h]

/-- The one operation that a warp has issued completes: nothing is outstanding. -/
theorem completeOp_single {s : State} {k op cls : Nat} {W : Warp} (h : mfind s.warps k = some W) (houts : W.outs = [(cls, op, false)])
    (hbuf : s.buffered W = false) (heng : mfind s.engines op = none) :
    s.completeOp k op = s.modWarp k (fun _ => { W with outs := [] }) := by
  have hmark : s.modWarp k (fun W => { W with outs := W.outs.map (fun o => if o.2.1 = op then (o.1, o.2.1, true) else o) }) =
      s.modWarp k (fun _ => { W with outs := [(cls, op, true)] }) := by
    rw [modWarp_const h]
    simp [houts]
  have hfind : mfind (s.modWarp k (fun _ => { W with outs := [(cls, op, true)] })).warps k = some { W with outs := [(cls, op, true)] } :=
    find_modWarp h _
  have hstill : (s.modWarp k (fun _ => { W with outs := [(cls, op, true)] })).buffered { W with outs := [(cls, op, true)] } = false := hbuf
  rw [State.completeOp, hmark]
  simp only [warp_of_find hfind, hstill, Bool.false_eq_true, if_false, State.settleWarp, Warp.settle, settleOuts, List.contains_nil, Bool.not_false,
    Bool.and_self, if_true, List.map_cons, List.map_nil, List.any_nil, List.filter_cons, List.filter_nil, List.foldl_cons, List.foldl_nil,
    modWarp_modWarp]
  exact opVisible_unknown heng

/-! ### Landing -/

/-- What a flight leaves in its warp where nothing that it brings is poisoned. -/
def Flight.landsIn (F : Flight) (W : Warp) : Warp :=
  F.accs.foldl (fun (W : Warp) (a : Access) => (W.completion a.gwct a.gwctd).raise a.flags (sliceBit (a.lane / 4))) (W.landVals F.values)

/-- A change of a warp to what a flight brings. -/
def Warp.Landed (W V : Warp) : Prop :=
  V = { W with regs := V.regs, poison := V.poison, gwct := V.gwct, gwctd := V.gwctd, fflags := V.fflags, forks := V.forks }

theorem Warp.Landed.trans {U V W : Warp} (h : Warp.Landed U V) (h' : Warp.Landed V W) : Warp.Landed U W := Eq.trans h' (by rw [h])

theorem foldl_landed {α : Type} {f : Warp → α → Warp} (hf : ∀ W x, Warp.Landed W (f W x)) (l : List α) (W : Warp) :
    Warp.Landed W (l.foldl f W) := by
  induction l generalizing W with
  | nil => rfl
  | cons x l ih => exact (hf W x).trans (ih _)

theorem landsIn_landed (F : Flight) (W : Warp) : Warp.Landed W (F.landsIn W) := by
  have hset : ∀ (W : Warp) (v : Nat × Nat × Word), Warp.Landed W (W.setReg v.1 [(v.2.1, v.2.2)]) := fun _ _ => rfl
  have hacc : ∀ (W : Warp) (a : Access), Warp.Landed W ((W.completion a.gwct a.gwctd).raise a.flags (sliceBit (a.lane / 4))) := fun _ _ => rfl
  exact (foldl_landed hset F.values W).trans (foldl_landed hacc F.accs _)

/-- A flight is no longer on its way. -/
def State.arrived (s : State) (f : Nat) : State := { s with flights := merase s.flights f }

section
variable {s : State} {f : Nat} {F : Flight} {W : Warp} (hF : mfind s.flights f = some F) (hW : mfind s.warps F.warp = some W)
  (hbuf : s.buffered W = false) (hcls : F.cls < 7) (hclean : F.land = .none ∨ F.accs.find? (·.bad) = none)
  (houts : W.outs = [(F.cls, f, false)]) (heng : mfind s.engines f = none)
include hF hW hbuf hcls hclean houts heng

/-- The one operation that a warp has issued lands. -/
theorem landFlight_single :
    s.landFlight f = ((s.arrived f).modWarp F.warp (fun _ => { F.landsIn W with outs := [] })).quietCheck F.warp := by
  have hbad : (if F.land = .none then none else F.accs.find? (·.bad)) = none := by
    split
    · rfl
    · next hn => exact hclean.resolve_left hn
  have hfound : mfind (s.arrived f).warps F.warp = some W := hW
  have hout : (F.landsIn W).outs = [(F.cls, f, false)] := (congrArg Warp.outs (landsIn_landed F W)).trans houts
  have hdirect : ((s.arrived f).modWarp F.warp F.landsIn).buffered (F.landsIn W) = false := by
    rw [landsIn_landed F W]
    exact hbuf
  have hdone := completeOp_single (find_modWarp hfound F.landsIn) hout hdirect heng
  rw [modWarp_modWarp] at hdone
  unfold State.landFlight
  simp only [hF, hbad, if_pos hcls]
  exact congrArg (fun u : State => u.quietCheck F.warp) hdone

end

/-! ### The registers of a load -/

/-- What values leave in one place of a register file. -/
def landsAt (p : Nat) (vals : List (Nat × Nat × Word)) (x : Word) : Word := vals.foldl (fun x v => if v.1 * 64 + v.2.1 = p then v.2.2 else x) x

theorem reg_landVals (vals : List (Nat × Nat × Word)) (W : Warp) (q i : Nat) : (W.landVals vals).reg q i = landsAt (q * 64 + i) vals (W.reg q i) := by
  induction vals generalizing W with
  | nil => rfl
  | cons v vals ih =>
    have hset : (W.setReg v.1 [(v.2.1, v.2.2)]).reg q i = if v.1 * 64 + v.2.1 = q * 64 + i then v.2.2 else W.reg q i :=
      mget_putLanes W.regs v.1 [(v.2.1, v.2.2)] (q * 64 + i)
    rw [landsAt, List.foldl_cons, ← hset]
    exact ih _

/-- The words of a lane for consecutive registers. -/
def laneWords (d lane n : Nat) (l : List Word) : List (Nat × Nat × Word) := (l.zipIdx n).map (fun x => (d + x.2, lane, x.1))

theorem landsAt_other {d lane p : Nat} {l : List Word} {n : Nat} (h : ∀ x < l.length, p ≠ (d + n + x) * 64 + lane) (y : Word) :
    landsAt p (laneWords d lane n l) y = y := by
  induction l generalizing n y with
  | nil => rfl
  | cons w l ih =>
    have hfirst : (d + n) * 64 + lane ≠ p := fun e => h 0 (by simp) (by rw [← e, Nat.add_zero])
    rw [laneWords, List.zipIdx_cons, List.map_cons, landsAt, List.foldl_cons, if_neg hfirst]
    refine ih (fun x hx e => h (x + 1) (by simpa using hx) ?_) y
    rw [e]
    ring

theorem landsAt_word {d lane : Nat} {l : List Word} {n x : Nat} (hx : x < l.length) (y : Word) :
    landsAt ((d + n + x) * 64 + lane) (laneWords d lane n l) y = l.getD x 0 := by
  induction l generalizing n x y with
  | nil => cases hx
  | cons w l ih =>
    rw [laneWords, List.zipIdx_cons, List.map_cons, landsAt, List.foldl_cons]
    cases x with
    | zero =>
      rw [if_pos (by rw [Nat.add_zero])]
      exact landsAt_other (n := n + 1) (fun z _ e => by omega) w
    | succ x =>
      have hplace : (d + n + (x + 1)) * 64 + lane = (d + (n + 1) + x) * 64 + lane := by ring
      rw [hplace]
      exact ih (by simpa using hx) _

theorem values_ext {F : Flight} {a : Access} {size : Nat} (haccs : F.accs = [a]) (hvals : F.vals = []) (hland : F.land = .ext size) :
    F.values = laneWords F.dst a.lane 0 (extendVal size a.value) := by
  simp [Flight.values, haccs, hvals, hland, landWords, laneWords]

theorem values_none {F : Flight} (hvals : F.vals = []) (hland : F.land = .none) : F.values = [] := by
  have hnone (l : List Access) : l.foldr (fun a acc =>
      (landWords .none ((F.elemHi.find? (fun e => e.1 == a.lane)).any (·.2)) a.value).zipIdx.map (fun x => (F.dst + x.2, a.lane, x.1)) ++ acc)
      ([] : List (Nat × Nat × Word)) = [] := by
    induction l with
    | nil => rfl
    | cons a l ih => rw [List.foldr_cons, ih]; rfl
  rw [Flight.values, hvals, hland]
  exact hnone F.accs

/-! ### The statement's clauses -/

section
variable {s : State} {f : Nat} {F : Flight} {W : Warp} {a : Access} (hF : mfind s.flights f = some F) (hW : mfind s.warps F.warp = some W)
  (hround : F.round = false) (hbuf : s.buffered W = false) (haccs : F.accs = [a]) (hready : F.ready = true) (hheld : F.held = false)
  (hvals : F.vals = []) (hdone : a.done = true) (heng : mfind s.engines f = none)
include hF hW hround hbuf haccs hready hheld hvals hdone heng

/-- A load of one lane returns. -/
theorem loadReturn_lands {size : Nat} (hcls : F.cls = 0) (hland : F.land = .ext size) (hbad : a.bad = false) (houts : W.outs = [(0, f, false)]) :
    ∃ t, exec (.loadReturn f) s = .next t ∧ mfind t.flights f = none ∧ (t.warp F.warp).outs = [] ∧
      (∀ x < (extendVal size a.value).length, (t.warp F.warp).reg (F.dst + x) a.lane = (extendVal size a.value).getD x 0) ∧
      (∀ q i, (∀ x < (extendVal size a.value).length, q * 64 + i ≠ (F.dst + x) * 64 + a.lane) → (t.warp F.warp).reg q i = W.reg q i) ∧
      t.mem = s.mem ∧ t.l2 = s.l2 ∧ ∀ j, j ≠ F.warp → mfind t.warps j = mfind s.warps j := by
  let u := (s.arrived f).modWarp F.warp (fun _ => { F.landsIn W with outs := [] })
  have hu : mfind u.warps F.warp = some { F.landsIn W with outs := [] } := find_modWarp (s := s.arrived f) hW _
  have hexec : exec (.loadReturn f) s = .next (u.quietCheck F.warp) := by
    rw [exec_loadReturn hF, if_pos (by simp [hcls, complete_single haccs hready hheld hdone, hround]),
      landFlight_single hF hW hbuf (by rw [hcls]; decide) (.inr (by rw [haccs]; simp [hbad])) (by rw [houts, hcls]) heng]
  obtain ⟨⟨V, hV, hquiet⟩, hothers⟩ := quietCheck_warp hu
  have hrest := quietCheck_rest u F.warp
  have hwarp : (u.quietCheck F.warp).warp F.warp = V := warp_of_find hV
  have hreg (q i : Nat) : V.reg q i = landsAt (q * 64 + i) (laneWords F.dst a.lane 0 (extendVal size a.value)) (W.reg q i) := by
    rw [← values_ext haccs hvals hland, ← reg_landVals, hquiet]
    simp only [Flight.landsIn, haccs, List.foldl_cons, List.foldl_nil]
    rfl
  refine ⟨_, hexec, ?_, ?_, fun x hx => ?_, fun q i hqi => ?_, ?_, ?_, fun j hj => ?_⟩
  · rw [hrest]
    exact mfind_merase_self _ _
  · rw [hwarp, hquiet]
  · have hword := landsAt_word (d := F.dst) (lane := a.lane) (n := 0) hx (W.reg (F.dst + x) a.lane)
    rw [Nat.add_zero] at hword
    rw [hwarp, hreg, hword]
  · have hother := landsAt_other (d := F.dst) (lane := a.lane) (p := q * 64 + i) (l := extendVal size a.value) (n := 0)
      (fun x hx => by rw [Nat.add_zero]; exact hqi x hx) (W.reg q i)
    rw [hwarp, hreg, hother]
  · rw [hrest]; rfl
  · rw [hrest]; rfl
  · rw [hothers j hj]
    exact find_modWarp_ne (s.arrived f) _ hj

/-- A store of one access is acknowledged. -/
theorem storeAck_lands (hcls : F.cls = 1) (hland : F.land = .none) (hdue : W.quietDue = []) (hforks : W.forks = [])
    (houts : W.outs = [(1, f, false)]) :
    ∃ t, exec (.storeAck f) s = .next t ∧ mfind t.flights f = none ∧ t.mem = s.mem ∧
      mfind t.warps F.warp = some { W with outs := [], gwct := gwctMax W.gwct a.gwct, gwctd := gwctMax W.gwctd a.gwctd
                                           fflags := (W.raise a.flags).fflags } := by
  let u := (s.arrived f).modWarp F.warp (fun _ => { F.landsIn W with outs := [] })
  have hu : mfind u.warps F.warp = some { F.landsIn W with outs := [] } := find_modWarp (s := s.arrived f) hW _
  have hlands : F.landsIn W = { W with gwct := gwctMax W.gwct a.gwct, gwctd := gwctMax W.gwctd a.gwctd, fflags := (W.raise a.flags).fflags } := by
    simp only [Flight.landsIn, haccs, values_none hvals hland, List.foldl_cons, List.foldl_nil, Warp.landVals, Warp.completion, Warp.raise, hforks,
      List.map_nil]
  have hquiet : u.quietCheck F.warp = u := by
    have hnone : (u.warp F.warp).quietDue = [] := by rw [warp_of_find hu, hlands]; exact hdue
    simp only [State.quietCheck, hnone, List.filter_nil, if_true]
  have hexec : exec (.storeAck f) s = .next u := by
    rw [exec_storeAck hF, if_pos (by simp [hcls, complete_single haccs hready hheld hdone, hround]),
      landFlight_single hF hW hbuf (by rw [hcls]; decide) (.inl hland) (by rw [houts, hcls]) heng, hquiet]
  refine ⟨u, hexec, mfind_merase_self _ _, rfl, ?_⟩
  rw [hu, hlands]

end

end Sys2Proof.Machine

/-! Writes and atomics at their homes (R69, R92, R93): what they leave of memory, of the caches of their cluster and of their flight. -/

namespace Sys2Proof.Machine

theorem length_leBytes (n x : Nat) : (leBytes n x).length = n := by
  induction n generalizing x with
  | zero => rfl
  | succ n ih => rw [leBytes, List.length_cons, ih]

/-! ### What a write leaves of its cluster's copies -/

theorem copyKey_inj {c d sector : Nat} : copyKey c sector = copyKey d sector ↔ c = d := by
  unfold copyKey
  omega

theorem mfind_updateCopy_none {s : State} {key : Nat} (h : mfind s.copies key = none) (cache a : Nat) (bs : List Byte) :
    mfind (s.updateCopy cache a bs).copies key = none := by
  unfold State.updateCopy
  dsimp only
  by_cases hk : key = copyKey cache (a / 32)
  · subst hk
    rw [mfind_mupdate_self, h]
    rfl
  · rw [mfind_mupdate_ne _ _ hk, h]

theorem mfind_dropCopies {core c sector : Nat} {js : List Nat} (s : State) (hne : c ≠ core)
    (h : mfind s.copies (copyKey c sector) = none ∨ ∃ j ∈ js, core / 16 * 16 + j = c) :
    mfind (js.foldl (fun s j => if core / 16 * 16 + j = core then s else s.dropCopy (core / 16 * 16 + j) sector) s).copies (copyKey c sector) = none := by
  induction js generalizing s with
  | nil => simpa using h
  | cons j js ih =>
    rw [List.foldl_cons]
    by_cases hj : core / 16 * 16 + j = c
    · refine ih _ (.inl ?_)
      rw [if_neg (by rwa [hj]), hj]
      exact mfind_merase_self _ _
    · refine ih _ ?_
      rcases h with h | ⟨i, hi, hic⟩
      · refine .inl ?_
        split
        · exact h
        · exact (mfind_merase_ne _ fun e => hj (copyKey_inj.1 e).symm).trans h
      · rcases List.mem_cons.1 hi with rfl | hi
        · exact absurd hic hj
        · exact .inr ⟨i, hi, hic⟩

/-- A store drops its sector from the other L1s of its cluster (R69, R93). -/
theorem storeSnoop_drops (s : State) (a : Nat) (bs : List Byte) {core c : Nat} (hne : c ≠ core) (hcluster : c / 16 = core / 16) :
    mfind (s.storeSnoop core a bs).copies (copyKey c (a / 32)) = none := by
  unfold State.storeSnoop
  refine mfind_updateCopy_none (mfind_updateCopy_none (mfind_dropCopies s hne (.inr ⟨c % 16, List.mem_range.2 (Nat.mod_lt _ (by decide)), ?_⟩)) _ _ _) _ _ _
  rw [← hcluster]
  omega

/-! ### Completion times (R92) -/

/-- The completion times of a write at a home in the writer's die. -/
theorem completionTimes_here {s : State} {a die : Nat} (hself : packageOf a = s.zinc.self) (hdie : s.homeDie a = die) (hhost : inHostWindow a = false) :
    s.completionTimes a die =
      ([s.dieTime die, (s.stampsOf (a / 128)).dies.getD die 0].foldl later 0 + BitVec.ofNat 64 Config.epsilon,
       (s.dieTime die :: (s.stampsOf (a / 128)).other :: (s.stampsOf (a / 128)).dies).foldl later 0 + BitVec.ofNat 64 Config.epsilon) := by
  have hzero (t : DWord) : later 0#64 t = t := by
    unfold later
    split
    · rfl
    · next h => exact (BitVec.eq_of_toNat_eq (by simpa using h)).symm
  simp [State.completionTimes, hself, hdie, hhost, hzero]

theorem completionTimes_memory {s t : State} (hm : MemoryStep s t) (ho : OnlyMemory s t) (a die : Nat) :
    t.completionTimes a die = s.completionTimes a die := by
  have htime (d : Nat) : t.dieTime d = s.dieTime d := by
    rw [State.dieTime, State.dieTime, ho.die d, ho.rest]
  have hstamps : t.stampsOf (a / 128) = s.stampsOf (a / 128) := by rw [State.stampsOf, State.stampsOf, ho.rest]
  simp only [State.completionTimes, hm.homeDie, htime, hstamps, hm.zinc]

/-! ### At the home -/

/-- Copies and their leases are no part of plain memory. -/
theorem PlainMem.withCopies {s : State} (h : PlainMem s) (copies : NMap Copy) : PlainMem { s with copies := copies } :=
  ⟨h.ranges, h.views, h.home, h.whole, h.raw, h.clean⟩

/-- What a write of a warp's access leaves at its home. -/
structure Written (core : Nat) (s t : State) (pa : Nat) (bs : List Byte) : Prop where
  memory  : ∃ u copies, OnlyMemory { s with copies := copies } u ∧ t = { u with copies := t.copies }
  sectors : t.badSectors = []
  bytes   : ∀ x, t.byteAt x = overlay s.byteAt pa bs x
  drops   : ∀ c, c ≠ core → c / 16 = core / 16 → mfind t.copies (copyKey c (pa / 32)) = none

section
variable {s : State} {pa core svc : Nat} (hp : PlainMem s) (hsectors : s.badSectors = []) (hhbm : s.badHbm = [])
include hp hsectors hhbm

/-- A write at its home, whichever copies there are. -/
theorem homePut_written {bs : List Byte} (hlen : bs.length ≤ 128) (hhome : ∀ j < bs.length, s.homeless (pa + j) = false) (copies : NMap Copy) :
    Written core s ((State.homePutFor { s with copies := copies } svc pa bs).storeSnoop core pa bs) pa bs ∧
      ∀ die, (State.homePutFor { s with copies := copies } svc pa bs).completionTimes pa die = s.completionTimes pa die := by
  let u : State := { s with copies := copies }
  obtain ⟨hstep, -, hbytes⟩ := homePutFor_leaves (s := u) (hp.withCopies copies) svc hlen hhome
  have honly : OnlyMemory u (u.homePutFor svc pa bs) := homePutFor_onlyMemory u svc pa bs
  have hsnoop := storeSnoop_rest (u.homePutFor svc pa bs) core pa bs
  refine ⟨⟨⟨_, copies, honly, hsnoop⟩, ?_, fun x => ?_, fun c => storeSnoop_drops _ _ _⟩, fun die => completionTimes_memory hstep honly pa die⟩
  · rw [hsnoop]
    exact (hstep.sound hsectors hhbm).1
  · rw [hsnoop]
    exact hbytes x

end

namespace Written

variable {core : Nat} {s t : State} {pa : Nat} {bs : List Byte} (h : Written core s t pa bs)
include h

theorem flights : t.flights = s.flights := by
  obtain ⟨u, copies, ho, ht⟩ := h.memory
  rw [ht, ho.rest]

theorem warps : t.warps = s.warps := by
  obtain ⟨u, copies, ho, ht⟩ := h.memory
  rw [ht, ho.rest]

theorem read : t.bytesAt pa bs.length = bs := by
  refine List.ext_getElem (by simp [State.bytesAt]) fun j _ hj => ?_
  simp only [State.bytesAt, List.getElem_map, List.getElem_range, h.bytes, overlay_in _ _ hj]
  simp [hj]

end Written

theorem askFar_here {s : State} {pa : Nat} (h : packageOf pa = s.zinc.self) (x : Nat → Sent) : s.askFar pa x = s := by
  simp [State.askFar, h]

/-- The access whose operation has taken place at its home, with its completion times (R92). -/
def Access.completes (a : Access) (t : DWord × DWord) : Access := { a with done := true, gwctd := t.1, gwct := t.2 }

/-- A write whose home is in this package. -/
theorem atHome_write_here {s : State} {a : Access} {bs : List Byte} (hop : a.op = .write bs) (hself : packageOf a.pa = s.zinc.self) (core svc : Nat)
    (hclean : (s.homePutFor svc a.pa bs).badSectors = []) :
    s.atHome core svc a = ((s.homePutFor svc a.pa bs).storeSnoop core a.pa bs,
      a.completes ((s.homePutFor svc a.pa bs).completionTimes a.pa (core / 192))) := by
  simp only [State.atHome, hop, askFar_here hself, clearPoison_none hclean, Access.completes]

/-- The state in which an atomic operation reads its word: the core's copies of the sector are gone. -/
def State.dropTwo (s : State) (core sector : Nat) : State := (s.dropCopy core sector).dropCopy (768 + core / 192) sector

/-- An atomic operation whose home is in this package. -/
theorem atHome_rmw_here {s : State} {a : Access} {kind : Nat} {wide : Bool} {b c : DWord} (hop : a.op = .rmw kind wide b c)
    (hself : packageOf a.pa = s.zinc.self) (core svc : Nat) (hclean : s.badSectors = []) :
    let n := if wide then 8 else 4
    let old := s.bytesAt a.pa n
    let new := amoNew kind wide (BitVec.ofNat 64 (leNat old)) b c
    s.atHome core svc a = (((s.dropTwo core (a.pa / 32)).homePutFor svc a.pa (leBytes n new.1.toNat)).storeSnoop core a.pa (leBytes n new.1.toNat),
      { a.completes (((s.dropTwo core (a.pa / 32)).homePutFor svc a.pa (leBytes n new.1.toNat)).completionTimes a.pa (core / 192)) with
        value := old, flags := new.2.bits }) := by
  intro n old new
  have hfar (x : Nat → Sent) : (s.dropTwo core (a.pa / 32)).askFar a.pa x = s.dropTwo core (a.pa / 32) := askFar_here (s := s.dropTwo core (a.pa / 32)) hself x
  have hpoison : (s.dropTwo core (a.pa / 32)).poisonedAt a.pa n = false := if_pos hclean
  have hold : (s.dropTwo core (a.pa / 32)).bytesAt a.pa n = old := rfl
  rw [State.dropTwo] at hfar hpoison hold ⊢
  simp only [State.atHome, hop, hfar]
  rw [if_neg (by rw [hpoison]; exact Bool.false_ne_true)]
  simp only [Access.completes, hop]
  rfl

/-! ### Arrival -/

/-- A store-class access of a flight stands before its home, in this die and in plain memory, and nothing watches or holds it. -/
structure Arrives (s : State) (f j : Nat) (F : Flight) (a : Access) : Prop where
  flight  : mfind s.flights f = some F
  access  : F.accs[j]? = some a
  waiting : a.done = false
  free    : F.held = false
  stores  : a.stores = true
  own     : a.adpq = false
  unseen  : s.watched F.warp = false
  sectors : s.badSectors = []
  hbm     : s.badHbm = []
  plain   : PlainMem s
  holds   : s.holds = []
  alive   : (s.warp F.warp).killed = false
  first   : s.behind f j a F.warp = false
  self    : packageOf a.pa = s.zinc.self
  die     : s.homeDie a.pa = (s.warp F.warp).core / 192
  outside : inHostWindow a.pa = false
  homed   : ∀ i < 128, s.homeless (a.pa + i) = false

theorem exec_arrival {s : State} {f j : Nat} {F : Flight} {a : Access} (hF : mfind s.flights f = some F) (ha : F.accs[j]? = some a) :
    exec (.homeWriteArrival (.flight f) j) s = .next
      (if a.done || !a.stores || a.adpq || F.held || s.behind f j a F.warp || s.heldStore F.warp a.lane f a.span.1 a.span.2 then s
       else (((s.arriveAt F.warp a).1.setAccess f j (s.arriveAt F.warp a).2).coverStores f).signalled F a) := by
  show Host.Outcome.next _ = _
  simp only [hF, ha]

/-- An access waits behind older ones of its warp to its bytes (R94). -/
theorem arrival_waits {s : State} {f j : Nat} {F : Flight} {a : Access} (hF : mfind s.flights f = some F) (ha : F.accs[j]? = some a)
    (hbehind : s.behind f j a F.warp = true) : exec (.homeWriteArrival (.flight f) j) s = .next s := by
  rw [exec_arrival hF ha, hbehind, Bool.or_true, Bool.true_or, if_pos rfl]

/-- What an arrival leaves: bytes at their home, the cluster's other copies gone, and the access done. -/
structure Arrived (s t : State) (f j : Nat) (F : Flight) (pa : Nat) (bs : List Byte) (b : Access) : Prop where
  read   : t.bytesAt pa bs.length = bs
  frame  : ∀ x, x < pa ∨ pa + bs.length ≤ x → t.byteAt x = s.byteAt x
  warps  : t.warps = s.warps
  drops  : ∀ c, c ≠ (s.warp F.warp).core → c / 16 = (s.warp F.warp).core / 16 → mfind t.copies (copyKey c (pa / 32)) = none
  flight : mfind t.flights f = some { F with accs := F.accs.set j b }

namespace Arrives

variable {s : State} {f j : Nat} {F : Flight} {a : Access} (h : Arrives s f j F a)
include h

/-- The access's operation at its home is what its arrival leaves. -/
theorem arrived {v : State} {bs : List Byte} {b : Access} (hw : Written (s.warp F.warp).core s v a.pa bs)
    (hat : s.atHome (s.warp F.warp).core (s.warp F.warp).svc a = (v, b)) (hpush : ∀ pool die, a.op ≠ .push pool die)
    (hsignal : ∀ t : State, t.signalled F a = t) :
    ∃ t, exec (.homeWriteArrival (.flight f) j) s = .next t ∧ Arrived s t f j F a.pa bs b := by
  have hrace (va : DWord) : s.raceCheck F.warp true va a.pa = s := by simp [State.raceCheck, State.raceCheckAs, h.unseen]
  have harrive : s.arriveAt F.warp a = (v, b) := by
    rw [← hat]
    cases hop : a.op <;> simp [State.arriveAt, hop, hrace, h.alive]
    exact absurd hop (hpush _ _)
  have hcover : (v.setAccess f j b).coverStores f = v.setAccess f j b := if_pos hw.sectors
  have hheld : s.heldStore F.warp a.lane f a.span.1 a.span.2 = false := by simp [State.heldStore, h.holds]
  refine ⟨v.setAccess f j b, ?_, hw.read, fun x hx => (hw.bytes x).trans (overlay_out hx), hw.warps, hw.drops, ?_⟩
  · rw [exec_arrival h.flight h.access, h.waiting, h.stores, h.own, h.free, h.first, hheld, harrive]
    simp only [Bool.not_true, Bool.or_self, Bool.false_eq_true, if_false, hcover, hsignal]
  · rw [State.setAccess, State.modFlight, hw.flights, mfind_mupdate_self, h.flight]
    rfl

/-- A write arrives. -/
theorem write {bs : List Byte} (hop : a.op = .write bs) (hlen : bs.length ≤ 128) :
    ∃ t, exec (.homeWriteArrival (.flight f) j) s = .next t ∧
      Arrived s t f j F a.pa bs (a.completes (s.completionTimes a.pa ((s.warp F.warp).core / 192))) := by
  obtain ⟨hw, htimes⟩ := homePut_written (core := (s.warp F.warp).core) (svc := (s.warp F.warp).svc) h.plain h.sectors h.hbm hlen
    (fun i hi => h.homed i (by omega)) s.copies
  have hclean : (s.homePutFor (s.warp F.warp).svc a.pa bs).badSectors = [] := by
    have hbad := hw.sectors
    rwa [storeSnoop_rest] at hbad
  have hat := atHome_write_here hop h.self (s.warp F.warp).core (s.warp F.warp).svc hclean
  exact h.arrived hw (by rw [hat, ← htimes]) (by simp [hop]) fun t => by simp only [State.signalled, hop]

/-- An atomic operation arrives. -/
theorem atomic {kind : Nat} {wide : Bool} {b c : DWord} (hop : a.op = .rmw kind wide b c) (horder : F.inOrder = false) :
    let n := if wide then 8 else 4
    let old := s.bytesAt a.pa n
    let new := amoNew kind wide (BitVec.ofNat 64 (leNat old)) b c
    ∃ t, exec (.homeWriteArrival (.flight f) j) s = .next t ∧ Arrived s t f j F a.pa (leBytes n new.1.toNat)
      { a.completes (s.completionTimes a.pa ((s.warp F.warp).core / 192)) with value := old, flags := new.2.bits } := by
  intro n old new
  have hlen : (leBytes n new.1.toNat).length ≤ 8 := by
    rw [length_leBytes]
    dsimp only [n]
    split <;> decide
  obtain ⟨hw, htimes⟩ := homePut_written (core := (s.warp F.warp).core) (svc := (s.warp F.warp).svc) h.plain h.sectors h.hbm
    (le_trans hlen (by decide)) (fun i hi => h.homed i (by omega)) (s.dropTwo (s.warp F.warp).core (a.pa / 32)).copies
  have hat := atHome_rmw_here hop h.self (s.warp F.warp).core (s.warp F.warp).svc h.sectors
  exact h.arrived hw (by rw [hat, ← htimes]; rfl) (by simp [hop]) fun t => by simp [State.signalled, hop, horder]

end Arrives

end Sys2Proof.Machine

/-! Fills (R69, R70, R89): a load that a live copy serves, and one that its home serves and grants a lease. -/

namespace Sys2Proof.Machine

/-- A load's only access waits for its sector, in this die and in plain memory, past no cache, and nothing watches or holds it. -/
structure Fills (s : State) (f : Nat) (F : Flight) (a : Access) : Prop where
  flight  : mfind s.flights f = some F
  single  : F.accs = [a]
  waiting : a.done = false
  free    : F.held = false
  read    : a.op = .read
  cached  : a.uc = false
  keep    : a.keep = 0
  alone   : a.mine = []
  clean   : a.bad = false
  unseen  : s.watched F.warp = false
  sectors : s.badSectors = []
  hbm     : s.badHbm = []
  plain   : PlainMem s
  noTx    : (s.warp F.warp).tx = none
  first   : s.behind f 0 a F.warp = false
  self    : packageOf a.pa = s.zinc.self
  die     : s.homeDie a.pa = (s.warp F.warp).core / 192
  outside : inHostWindow a.pa = false

theorem useL1_rest (s : State) (core sector : Nat) (first : Bool) : s.useL1 core sector first = { s with copies := (s.useL1 core sector first).copies } := by
  unfold State.useL1
  split <;> rfl

theorem foldl_dropCopy_only (s : State) (cache : Nat) (g : Nat → Nat) (js : List Nat) :
    js.foldl (fun s j => s.dropCopy cache (g j)) s = { s with copies := (js.foldl (fun (s : State) j => s.dropCopy cache (g j)) s).copies } := by
  induction js generalizing s with
  | nil => rfl
  | cons j js ih => rw [List.foldl_cons, ih]; rfl

theorem dropLine_rest (s : State) (cache line : Nat) : s.dropLine cache line = { s with copies := (s.dropLine cache line).copies } :=
  foldl_dropCopy_only s cache _ _

/-- A sector that enters an L1 is there, and nothing but copies and the free choice changes. -/
theorem enterL1_enters (s : State) (core sector : Nat) (first : Bool) (c : Copy) :
    (∃ copies fresh, s.enterL1 core sector first c = { s with copies := copies, fresh := fresh }) ∧
      mfind (s.enterL1 core sector first c).copies (copyKey core sector) = some { c with way := if first then 1 else 0, used := 0 } := by
  unfold State.enterL1
  dsimp only
  split
  · exact ⟨⟨_, _, rfl⟩, mfind_minsert_self _ _ _⟩
  · split
    · rw [dropLine_rest]
      exact ⟨⟨_, _, rfl⟩, mfind_minsert_self _ _ _⟩
    · rw [State.freshNow, dropLine_rest]
      exact ⟨⟨_, _, rfl⟩, mfind_minsert_self _ _ _⟩

theorem leaseFor_here {s : State} {pa die lc : Nat} (hself : packageOf pa = s.zinc.self) (hdie : s.homeDie pa = die) :
    s.leaseFor pa die lc = (((s.die die).leaseCls lc).extractLsb' 0 20).toNat := by
  simp [State.leaseFor, hself, hdie]

/-- The copy that a home grants of a sector (R89). -/
def State.grants (s : State) (sector : Nat) (expiry : DWord) : Copy :=
  { data := s.bytesAt (sector * 32) 32, expiry := expiry, bad := s.poisonedAt (sector * 32) 32 }

/-- A load that no cache serves, at a home in the core's die. -/
theorem serveRead_home {s u : State} {core svc : Nat} {a : Access} (hbypass : a.bypass = false)
    (hcopy : s.copyAt core (core / 192) (a.pa / 32) = none) (hself : packageOf a.pa = s.zinc.self) (hdie : s.homeDie a.pa = core / 192)
    (hkeep : a.keep = 0) (hu : s.fillFor svc (a.pa / 128) = u) (hself' : packageOf a.pa = u.zinc.self) :
    s.serveRead core svc a =
      (if u.leaseFor a.pa (core / 192) a.lc = 0 then u
       else State.enterL1
         (u.stamp a.pa (core / 192) (u.dieTime (u.homeDie a.pa) + BitVec.ofNat 64 (u.leaseFor a.pa (core / 192) a.lc))) core (a.pa / 32) false
         (u.grants (a.pa / 32) (u.dieTime (u.homeDie a.pa) + BitVec.ofNat 64 (u.leaseFor a.pa (core / 192) a.lc))),
       s.bytesAt a.pa a.n, s.poisonedAt a.pa a.n) := by
  have hremote : (packageOf a.pa != s.zinc.self || s.homeDie a.pa != core / 192) = false := by simp [hself, hdie]
  have hask (x : Nat → Sent) : u.askFar a.pa x = u := askFar_here hself' x
  simp only [State.serveRead, hbypass, Bool.false_eq_true, if_false, hcopy, hremote, hu, hask, hkeep, Nat.zero_ne_one, decide_false,
    Bool.false_or, decide_eq_true_eq, State.grants, show ¬ (0 = 3) by decide]
  split <;> rfl

/-- What serving a load leaves: memory reads as it did, and what is not memory's or a cache's is as it was. -/
structure Served (s t : State) : Prop where
  bytes   : ∀ x, t.byteAt x = s.byteAt x
  warps   : t.warps = s.warps
  flights : t.flights = s.flights

namespace Fills

variable {s : State} {f : Nat} {F : Flight} {a : Access} (h : Fills s f F a)
include h

theorem bypass : a.bypass = false := by simp [Access.bypass, h.cached, h.outside, h.keep]

/-- The load is served, and its access is done with what it has read. -/
theorem exec_fill {t : State} {v : List Byte} (hserve : s.serveRead (s.warp F.warp).core (s.warp F.warp).svc a = (t, v, false)) :
    exec (.lineFill f 0 none) s = .next (t.setAccess f 0 { a with done := true, value := v }) := by
  have htx : s.inTx f F a = false := by simp [State.inTx, h.noTx]
  have hwaits : s.fillWaits f 0 F a = false := by simp [State.fillWaits, h.first, htx]
  have hrace (va : DWord) : s.raceCheck F.warp false va a.pa = s := by simp [State.raceCheck, State.raceCheckAs, h.unseen]
  have hone : s.fillOne f 0 = t.setAccess f 0 { a with done := true, value := v } := by
    have hset : ({ a with done := true, value := overCells a.pa v a.mine, bad := false } : Access) = { a with done := true, value := v } := by
      rw [h.alone, ← h.clean]
      rfl
    simp only [State.fillOne, h.flight, h.single, List.getElem?_cons_zero, hrace, ite_self, hserve, htx, Bool.false_eq_true, if_false, hset]
  show Host.Outcome.next _ = _
  simp [h.flight, h.single, h.waiting, h.free, hwaits, h.read, hone]

/-- What the statement says of a load that has been served. -/
theorem served {t : State} {v : List Byte} (hserve : s.serveRead (s.warp F.warp).core (s.warp F.warp).svc a = (t, v, false)) (ht : Served s t) :
    ∃ u, exec (.lineFill f 0 none) s = .next u ∧ (mfind u.flights f = some { F with accs := [{ a with done := true, value := v }] } ∧
      (∀ x, u.byteAt x = s.byteAt x) ∧ u.warps = s.warps) ∧ u.copies = t.copies := by
  refine ⟨_, h.exec_fill hserve, ⟨?_, ht.bytes, ht.warps⟩, rfl⟩
  rw [State.setAccess, State.modFlight, ht.flights, mfind_mupdate_self, h.flight, Option.map_some, h.single]
  rfl

/-- A live copy in the core's L1 serves the load (R69). -/
theorem hit {c : Copy} (hc : mfind s.copies (copyKey (s.warp F.warp).core (a.pa / 32)) = some c) (hgood : c.bad = false)
    (hlive : (s.dieTime ((s.warp F.warp).core / 192)).toNat < c.expiry.toNat) :
    ∃ u, exec (.lineFill f 0 none) s = .next u ∧
      mfind u.flights f = some { F with accs := [{ a with done := true, value := (c.data.drop (a.pa % 32)).take a.n }] } ∧
      (∀ x, u.byteAt x = s.byteAt x) ∧ u.warps = s.warps := by
  have hcopy : s.copyAt (s.warp F.warp).core ((s.warp F.warp).core / 192) (a.pa / 32) = some c := by simp [State.copyAt, hc, hlive]
  have hserve : s.serveRead (s.warp F.warp).core (s.warp F.warp).svc a =
      (s.useL1 (s.warp F.warp).core (a.pa / 32) (a.keep == 4), (c.data.drop (a.pa % 32)).take a.n, false) := by
    simp only [State.serveRead, h.bypass, Bool.false_eq_true, if_false, hcopy, hgood]
  obtain ⟨u, hexec, hu, -⟩ := h.served hserve (by rw [useL1_rest]; exact ⟨fun _ => rfl, rfl, rfl⟩)
  exact ⟨u, hexec, hu⟩

/-- The home serves the load and grants a lease (R70, R89). -/
theorem miss (hc : mfind s.copies (copyKey (s.warp F.warp).core (a.pa / 32)) = none) :
    let die := (s.warp F.warp).core / 192
    let lease := (((s.die die).leaseCls a.lc).extractLsb' 0 20).toNat
    ∃ u, exec (.lineFill f 0 none) s = .next u ∧ (mfind u.flights f = some { F with accs := [{ a with done := true, value := s.bytesAt a.pa a.n }] } ∧
      (∀ x, u.byteAt x = s.byteAt x) ∧ u.warps = s.warps) ∧
      (lease ≠ 0 → (mfind u.copies (copyKey (s.warp F.warp).core (a.pa / 32))).map (fun c => (c.data, c.expiry, c.bad)) =
        some (s.bytesAt (a.pa / 32 * 32) 32, s.dieTime die + BitVec.ofNat 64 lease, false)) := by
  intro die lease
  obtain ⟨u, hu⟩ : ∃ u, s.fillFor (s.warp F.warp).svc (a.pa / 128) = u := ⟨_, rfl⟩
  obtain ⟨hstep, -, hbytes⟩ : Leaves s u s.byteAt := hu ▸ fillFor_leaves h.plain _ _
  have honly : OnlyMemory s u := hu ▸ fillFor_onlyMemory s _ _
  have hcopy : s.copyAt (s.warp F.warp).core die (a.pa / 32) = none := by simp only [State.copyAt, hc]
  have hself : packageOf a.pa = u.zinc.self := by rw [hstep.zinc, h.self]
  have hdie : u.homeDie a.pa = die := (hstep.homeDie _).trans h.die
  have htime : u.dieTime (u.homeDie a.pa) = s.dieTime die := by rw [hdie, State.dieTime, State.dieTime, honly.die die, honly.rest]
  have hlease : u.leaseFor a.pa die a.lc = lease := by
    rw [leaseFor_here hself hdie, honly.die die]
    rfl
  have hgrants (e : DWord) : u.grants (a.pa / 32) e = { data := s.bytesAt (a.pa / 32 * 32) 32, expiry := e, bad := false } := by
    have hread : u.bytesAt (a.pa / 32 * 32) 32 = s.bytesAt (a.pa / 32 * 32) 32 := List.map_congr_left fun j _ => hbytes _
    have hgood : u.poisonedAt (a.pa / 32 * 32) 32 = false := if_pos (hstep.sound h.sectors h.hbm).1
    rw [State.grants, hread, hgood]
  have hserve := serveRead_home h.bypass hcopy h.self h.die h.keep hu hself
  rw [htime, hlease, hgrants, show s.poisonedAt a.pa a.n = false from if_pos h.sectors] at hserve
  obtain ⟨⟨copies, fresh, hv⟩, hentered⟩ := enterL1_enters (u.stamp a.pa die (s.dieTime die + BitVec.ofNat 64 lease)) (s.warp F.warp).core
    (a.pa / 32) false { data := s.bytesAt (a.pa / 32 * 32) 32, expiry := s.dieTime die + BitVec.ofNat 64 lease, bad := false }
  obtain ⟨w, hexec, hw, hcopies⟩ := h.served hserve (by
    split
    · exact ⟨hbytes, hstep.warps, hstep.flights⟩
    · rw [hv]
      exact ⟨hbytes, hstep.warps, hstep.flights⟩)
  refine ⟨w, hexec, hw, fun hpos => ?_⟩
  rw [hcopies, if_neg hpos, hentered]
  rfl

end Fills

end Sys2Proof.Machine

/-! Page faults (R110, R343 to R346): a page that is there is found, and one that is not kills the warps that wait for it. -/

namespace Sys2Proof.Machine

/-! ### What no kill takes back -/

/-- A step after which the page faults are the same, every record still waits to be written, and dead warps are dead. -/
structure Keeps (s t : State) : Prop where
  faults  : t.faults = s.faults
  records : ∀ d, ∀ r ∈ (s.die d).rasQueue, r ∈ (t.die d).rasQueue
  warps   : ∀ k W, mfind s.warps k = some W → ∃ V, mfind t.warps k = some V ∧ (W.killed = true → V.killed = true) ∧ (W.ended = true → V.ended = true)

theorem Keeps.refl (s : State) : Keeps s s := ⟨rfl, fun _ _ h => h, fun _ W h => ⟨W, h, id, id⟩⟩

theorem Keeps.trans {s t u : State} (h : Keeps s t) (h' : Keeps t u) : Keeps s u where
  faults := h'.faults.trans h.faults
  records d r hr := h'.records d r (h.records d r hr)
  warps k W hW := by
    obtain ⟨V, hV, hk, he⟩ := h.warps k W hW
    obtain ⟨U, hU, hk', he'⟩ := h'.warps k V hV
    exact ⟨U, hU, fun h => hk' (hk h), fun h => he' (he h)⟩

theorem Keeps.foldl {α : Type} {f : State → α → State} (h : ∀ s x, Keeps s (f s x)) (l : List α) (s : State) : Keeps s (l.foldl f s) := by
  induction l generalizing s with
  | nil => exact .refl s
  | cons x l ih => exact (h s x).trans (ih (f s x))

theorem Keeps.ite {s t u : State} {p : Prop} [Decidable p] (ht : Keeps s t) (hu : Keeps s u) : Keeps s (if p then t else u) := by
  split
  · exact ht
  · exact hu

/-- A step that leaves the warps, the dies and the page faults alone. -/
theorem Keeps.of_same {s t : State} (hf : t.faults = s.faults) (hd : t.dies = s.dies) (hw : t.warps = s.warps) : Keeps s t where
  faults := hf
  records d r hr := by rwa [State.die, hd]
  warps k W hW := ⟨W, by rwa [hw], id, id⟩

/-- A step that changes one warp, which stays dead if it was. -/
theorem Keeps.of_warp {s t : State} {j : Nat} {f : Warp → Warp} (hf : t.faults = s.faults) (hd : t.dies = s.dies)
    (hw : t.warps = mupdate s.warps j f) (hk : ∀ W, mfind s.warps j = some W → W.killed = true → (f W).killed = true)
    (he : ∀ W, mfind s.warps j = some W → W.ended = true → (f W).ended = true) : Keeps s t where
  faults := hf
  records d r hr := by rwa [State.die, hd]
  warps k W hW := by
    rw [hw]
    by_cases hkj : k = j
    · subst hkj
      exact ⟨f W, by rw [mfind_mupdate_self, hW]; rfl, hk W hW, he W hW⟩
    · exact ⟨W, by rw [mfind_mupdate_ne _ _ hkj, hW], id, id⟩

theorem mem_rasInsert_of_mem {r x : RasRec} {l : List RasRec} (h : r ∈ l) : r ∈ rasInsert x l := by
  induction l with
  | nil => cases h
  | cons y l ih =>
    rw [rasInsert]
    split
    · exact List.mem_cons_of_mem _ h
    · rcases List.mem_cons.1 h with rfl | h
      · exact List.mem_cons_self ..
      · exact List.mem_cons_of_mem _ (ih h)

theorem ras_keeps (s : State) (d : Nat) (r : RasRec) : Keeps s (s.ras d r) where
  faults := rfl
  records x y hy := by
    by_cases hx : x = d
    · subst hx
      rw [State.ras, die_modDie_self]
      exact mem_rasInsert_of_mem hy
    · rwa [State.ras, die_modDie_ne _ _ hx]
  warps k W hW := ⟨W, hW, id, id⟩

/-! ### Kills -/

theorem endBlock_keeps (s : State) (b : Nat) : Keeps s (s.endBlock b) := by
  have h := endBlock_rest s b
  exact .of_same (by rw [h]) (by rw [h]) (by rw [h])

theorem killOne_keeps (s : State) (k : Nat) : Keeps s (s.killOne k) where
  faults := (congrArg State.faults (endWarp_ending (s.killing k) k).rest).trans rfl
  records d r hr := by
    rw [killOne_eq, (endWarp_ending (s.killing k) k).die d]
    exact hr
  warps := by
    obtain ⟨f, hf, hquiet⟩ := killOne_warps s k
    refine (Keeps.of_warp (s := s) (t := { s with warps := (s.killOne k).warps }) rfl rfl hf (fun W _ _ => ?_) fun W _ _ => ?_).warps
    · rw [hquiet W.kill.end_]
      rfl
    · rw [hquiet W.kill.end_]
      rfl

theorem kill_keeps (s : State) (k cause lane : Nat) (va : DWord) (pa : Option Nat) (info2 : Nat) : Keeps s (s.kill k cause lane va pa info2) := by
  unfold State.kill
  split
  · unfold State.doom
    refine .foldl (fun s j => ?_) _ _
    exact .of_warp rfl rfl rfl (fun _ _ h => h) fun _ _ h => h
  · exact ((Keeps.foldl killOne_keeps _ _).trans (endBlock_keeps _ _)).trans (ras_keeps _ _ _)

theorem killTrans_keeps (s : State) (k lane : Nat) (va : DWord) (level : Nat) : Keeps s (s.killTrans k lane va level) := by
  unfold State.killTrans
  split
  · exact .refl s
  · exact kill_keeps ..

/-! ### Operations that end -/

theorem quietCheck_keeps (s : State) (k : Nat) : Keeps s (s.quietCheck k) := by
  have hrest := quietCheck_rest s k
  rcases quietCheck_warps s k with hsame | ⟨f, hf, hquiet⟩
  · exact .of_same (by rw [hrest]) (by rw [hrest]) hsame
  · refine .of_warp (by rw [hrest]) (by rw [hrest]) hf (fun W _ h => ?_) fun W _ h => ?_
    · rw [hquiet W]
      exact h
    · rw [hquiet W]
      exact h

theorem opVisible_keeps (s : State) (k op : Nat) : Keeps s (s.opVisible k op) := by
  unfold State.opVisible
  split
  · exact .refl s
  · dsimp only
    split <;> exact .of_warp rfl rfl rfl (fun _ _ h => h) fun _ _ h => h

theorem settleWarp_keeps (s : State) (k : Nat) : Keeps s (s.settleWarp k) := by
  have hsettle : Keeps s (s.modWarp k (fun _ => (s.warp k).settle)) := by
    refine .of_warp rfl rfl rfl (fun W hW h => ?_) fun W hW h => ?_
    · rw [warp_of_find hW]
      exact h
    · rw [warp_of_find hW]
      exact h
  exact hsettle.trans (.foldl (fun s o => opVisible_keeps s k o) _ _)

theorem completeOp_keeps (s : State) (k op : Nat) : Keeps s (s.completeOp k op) := by
  have hmark : Keeps s (s.modWarp k (fun W => { W with outs := W.outs.map (fun o => if o.2.1 = op then (o.1, o.2.1, true) else o) })) :=
    .of_warp rfl rfl rfl (fun _ _ h => h) fun _ _ h => h
  unfold State.completeOp
  dsimp only
  split
  · exact hmark
  · exact hmark.trans (settleWarp_keeps _ _)

theorem mirrorDone_keeps (s : State) (op : Nat) : Keeps s (s.mirrorDone op) := by
  unfold State.mirrorDone
  split
  · exact .refl s
  · split
    · exact .refl s
    · dsimp only
      refine Keeps.trans ?_ (completeOp_keeps _ _ _)
      exact .of_warp rfl rfl rfl (fun _ _ h => h) fun _ _ h => h

theorem collEnd_keeps (s : State) (op : Nat) (status : Word) : Keeps s (s.collEnd op status) := by
  unfold State.collEnd
  split
  · exact .refl s
  · refine (Keeps.trans ?_ (completeOp_keeps _ _ _)).trans (mirrorDone_keeps _ _)
    exact .of_same rfl rfl rfl

theorem mirrorUnit_keeps (s : State) (op : Nat) : Keeps s (s.mirrorUnit op) := by
  unfold State.mirrorUnit
  split
  · exact .refl s
  · split
    · exact .refl s
    · exact .of_same rfl rfl rfl

theorem leaveUnit_keeps (s : State) (core : Nat) (e : MxEntry) (late : Bool) : Keeps s (s.leaveUnit core e late) := by
  have hmirror (u : State) (h : Keeps s u) : Keeps s (u.mirrorUnit e.id) := h.trans (mirrorUnit_keeps _ _)
  unfold State.leaveUnit
  dsimp only
  split
  · refine (hmirror _ ?_).trans (.of_same rfl rfl rfl)
    exact .of_same rfl rfl rfl
  · refine hmirror _ ?_
    exact .of_same rfl rfl rfl

theorem tapDone_keeps (s : State) (core : Nat) (e : MxEntry) (f : FlagSet) (g : DWord) (late : Bool) : Keeps s (s.tapDone core e f g late) := by
  unfold State.tapDone
  dsimp only
  refine ((Keeps.trans ?_ (leaveUnit_keeps _ _ _ _)).trans (completeOp_keeps _ _ _)).trans (mirrorDone_keeps _ _)
  exact .of_same rfl rfl rfl

/-! ### What waits elsewhere for a page that is lost -/

section
variable (s : State) (queue vpn level : Nat)

theorem pageEngine_keeps (op : Nat) : Keeps s (s.pageEngine queue vpn level op) := by
  unfold State.pageEngine
  split
  · exact .refl s
  · split
    · exact .refl s
    · split
      · exact .ite ((killTrans_keeps ..).trans (collEnd_keeps ..)) (.refl s)
      · split
        · exact .refl s
        · split
          · exact .of_same rfl rfl rfl
          · exact (killTrans_keeps ..).trans (.of_same rfl rfl rfl)

theorem pageUnit_keeps (core : Nat) : Keeps s (s.pageUnit queue vpn level core) := by
  have htap (u : State) (h : Keeps s u) (p : Prop) [Decidable p] (f : TapUnit → TapUnit) : Keeps s (if p then u.modTap core f else u) :=
    .ite (h.trans (.of_same rfl rfl rfl)) h
  unfold State.pageUnit
  split
  · exact .refl s
  · dsimp only
    split
    · split
      · exact .refl s
      · refine .ite (.refl s) (Keeps.trans ?_ (tapDone_keeps _ _ _ _ _ _))
        exact htap _ (killTrans_keeps ..) _ _
    · split
      · exact .refl s
      · refine .ite (.refl s) (Keeps.trans ?_ (tapDone_keeps _ _ _ _ _ _))
        exact htap _ (killTrans_keeps ..) _ _
    · exact .ite (.refl s) ((killTrans_keeps ..).trans (leaveUnit_keeps ..))

theorem pageRows_keeps (core : Nat) : Keeps s (s.pageRows queue vpn level core) := by
  unfold State.pageRows
  refine .foldl (fun s e => ?_) _ _
  split
  · split
    · exact .refl s
    · exact (killTrans_keeps ..).trans (.of_same rfl rfl rfl)
  · exact .refl s

theorem pageCommit_keeps : Keeps s (s.pageCommit queue vpn level) := by
  unfold State.pageCommit
  refine .foldl (fun s x => ?_) _ _
  split
  · exact killTrans_keeps ..
  · exact .refl s

theorem pageAdpq_keeps (f : Nat) : Keeps s (s.pageAdpq queue vpn level f) := by
  have hdone (u : State) (h : Keeps s u) (k : Nat) :
      Keeps s ((State.completeOp { u with flights := merase u.flights f } k f).quietCheck k) := by
    refine h.trans (Keeps.trans (Keeps.trans ?_ (completeOp_keeps _ _ _)) (quietCheck_keeps _ _))
    exact .of_same rfl rfl rfl
  unfold State.pageAdpq
  split
  · exact .refl s
  · dsimp only
    split
    · exact .refl s
    · exact .ite (.refl s) (hdone _ (killTrans_keeps ..) _)

theorem pageKill_keeps (k : Nat) : Keeps s (s.pageKill vpn level k) := by
  unfold State.pageKill
  split
  · exact .refl s
  · dsimp only
    split
    · exact .of_warp rfl rfl rfl (fun _ _ h => h) fun _ _ h => h
    · exact killTrans_keeps ..

end

/-! ### The kill of a warp of its own -/

/-- No launch is redundant. -/
def State.noRedund (s : State) : Prop := ∀ L ∈ s.launches, L.2.redund = false

theorem State.noRedund.of_launches {s t : State} (h : s.noRedund) (ht : t.launches = s.launches) : t.noRedund := by
  unfold State.noRedund
  rw [ht]
  exact h

theorem State.noRedund.modLaunch {s : State} (h : s.noRedund) (q : Nat) {f : Launch → Launch} (hf : ∀ L, (f L).redund = L.redund) :
    (s.modLaunch q f).noRedund := by
  intro e he
  rcases mem_mupdate he with he | ⟨L, hL, rfl⟩
  · exact h e he
  · exact (hf L).trans (h _ hL)

theorem State.noRedund.endBlock {s : State} (h : s.noRedund) (b : Nat) : (s.endBlock b).noRedund := by
  unfold State.endBlock
  split
  · exact h
  · split
    · dsimp only
      split
      · exact h.of_launches rfl
      · exact State.noRedund.modLaunch (h.of_launches rfl) _ fun _ => rfl
    · exact h

theorem State.noRedund.freePlaces {s : State} (h : s.noRedund) (l : Nat) : (s.freePlaces l).noRedund := by
  unfold State.freePlaces
  split
  · exact h
  · split
    · exact h
    · next g n a o hstream =>
      have hback : ((s.modNode g n (fun x => { x with useQ := x.useQ - a, useO := x.useO - o })).modLaunch l
          (fun L => { L with stream := some (g, n, 0, 0) })).noRedund := State.noRedund.modLaunch (h.of_launches rfl) l fun _ => rfl
      dsimp only
      split
      · exact hback
      · exact State.noRedund.of_launches hback ((congrArg State.launches (freeBytes_onlyMemory _ _).rest).trans rfl)

theorem State.noRedund.endWarp {s : State} (h : s.noRedund) (k : Nat) : (s.endWarp k).noRedund := by
  have hending : (s.endingWarp k).noRedund := by
    unfold State.noRedund
    rw [endingWarp_launches]
    exact h.modLaunch _ fun _ => rfl
  have hended : (s.endedWarp k).noRedund := by
    unfold State.endedWarp
    split
    · exact hending
    · unfold State.ndoneOver
      split
      · exact hending.freePlaces _
      · exact hending
  rw [endWarp_eq]
  split
  · exact hended
  · exact hended.endBlock _

theorem killing_launches (s : State) (k : Nat) :
    (s.killing k).launches = mupdate s.launches (s.warp k).launch (fun L => { L with kills := true }) := rfl

theorem State.noRedund.killOne {s : State} (h : s.noRedund) (k : Nat) : (s.killOne k).noRedund := by
  have hkilling : (s.killing k).noRedund := by
    unfold State.noRedund
    rw [killing_launches]
    exact h.modLaunch _ fun _ => rfl
  rw [killOne_eq]
  exact hkilling.endWarp k

/-- No warp is a twin. -/
def State.noTwins (s : State) : Prop := ∀ y ∈ s.warps, y.2.twinOf = none

theorem State.noTwins.warp {s : State} (h : s.noTwins) (k : Nat) : (s.warp k).twinOf = none := by
  unfold State.warp
  cases hW : mfind s.warps k with
  | none => rfl
  | some W => exact h _ (mem_of_find hW)

theorem State.noTwins.killOne {s : State} (h : s.noTwins) (k : Nat) : (s.killOne k).noTwins := by
  obtain ⟨f, hf, hquiet⟩ := killOne_warps s k
  intro y hy
  rw [hf] at hy
  rcases mem_mupdate hy with hy | ⟨W, hW, rfl⟩
  · exact h y hy
  · show (f W.kill.end_).twinOf = none
    rw [hquiet W.kill.end_]
    exact h _ hW

/-- Where no warp is a twin, a kill ends one warp alone. -/
theorem State.noTwins.mem_family {s : State} (h : s.noTwins) {k x : Nat} : x ∈ s.family k ↔ x = k ∧ ∃ W, (k, W) ∈ s.warps ∧ W.ended = false := by
  simp only [State.family, rootOf_self (h.warp _), List.mem_map, List.mem_filter, Bool.and_eq_true, Bool.not_eq_true', beq_iff_eq]
  constructor
  · rintro ⟨⟨j, W⟩, ⟨hW, halive, rfl⟩, rfl⟩
    exact ⟨rfl, W, hW, halive⟩
  · rintro ⟨rfl, W, hW, halive⟩
    exact ⟨(x, W), ⟨hW, halive, rfl⟩, rfl⟩

/-- A warp of a state with neither twins nor redundant launches. -/
structure Lone (s : State) (k : Nat) (W : Warp) : Prop where
  listed : mfind s.warps k = some W
  twins  : s.noTwins
  redund : s.noRedund

/-- The warp has been killed, with a record of the form that is asked for. -/
structure Dead (s : State) (k core : Nat) (p : RasRec → Prop) : Prop where
  warp   : ∃ V, mfind s.warps k = some V ∧ V.killed = true ∧ V.ended = true
  record : ∃ r ∈ (s.die (core / 192)).rasQueue, p r

theorem Dead.keeps {s t : State} {k core : Nat} {p : RasRec → Prop} (h : Dead s k core p) (ht : Keeps s t) : Dead t k core p where
  warp := by
    obtain ⟨V, hV, hk, he⟩ := h.warp
    obtain ⟨U, hU, hk', he'⟩ := ht.warps k V hV
    exact ⟨U, hU, hk' hk, he' he⟩
  record := by
    obtain ⟨r, hr, hp⟩ := h.record
    exact ⟨r, ht.records _ r hr, hp⟩

namespace Lone

variable {s : State} {k : Nat} {W : Warp} (h : Lone s k W)
include h

theorem not_redundant (j cause : Nat) : s.redundant j cause = false := by
  have hall : ((mfind s.launches (s.warp j).launch).map (·.redund)).getD false = false := by
    cases hL : mfind s.launches (s.warp j).launch with
    | none => rfl
    | some L => exact h.redund _ (mem_of_find hL)
  rw [State.redundant, hall, Bool.and_false]

/-- The kill of another warp leaves this one. -/
theorem killOnes {j : Nat} (hj : j ≠ k) {l : List Nat} (hl : ∀ x ∈ l, x = j) : Lone (l.foldl State.killOne s) k W := by
  induction l generalizing s with
  | nil => exact h
  | cons x l ih =>
    have hx : x = j := hl x (List.mem_cons_self ..)
    refine ih ⟨?_, h.twins.killOne x, h.redund.killOne x⟩ fun y hy => hl y (List.mem_cons_of_mem _ hy)
    obtain ⟨f, hf, -⟩ := killOne_warps s x
    rw [hf, mfind_mupdate_ne _ _ (by rw [hx]; exact hj.symm), h.listed]

theorem kill_other {j : Nat} (hj : j ≠ k) (cause lane : Nat) (va : DWord) (pa : Option Nat) (info2 : Nat) :
    Lone (s.kill j cause lane va pa info2) k W := by
  have hone := h.killOnes hj fun x hx => (h.twins.mem_family.1 hx).1
  have hrest := endBlock_rest ((s.family j).foldl State.killOne s) (s.warp j).block
  rw [State.kill, h.not_redundant]
  refine ⟨?_, ?_, State.noRedund.of_launches (hone.redund.endBlock (s.warp j).block) rfl⟩
  · exact (congrArg (mfind · k) (congrArg State.warps hrest)).trans hone.listed
  · intro y hy
    exact hone.twins y ((congrArg State.warps hrest).subst (motive := fun l => y ∈ l) hy)

theorem killTrans_other {j : Nat} (hj : j ≠ k) (lane : Nat) (va : DWord) (level : Nat) : Lone (s.killTrans j lane va level) k W := by
  unfold State.killTrans
  split
  · exact h
  · exact h.kill_other hj ..

theorem stopFork_other {j : Nat} (hj : j ≠ k) (g : Fork) (f : Fork → Fork) : Lone (s.stopFork j g f) k W where
  listed := (mfind_mupdate_ne _ _ hj.symm).trans h.listed
  twins y hy := by
    rcases mem_mupdate hy with hy | ⟨V, hV, rfl⟩
    · exact h.twins y hy
    · have hnone := h.twins (j, V) hV
      exact hnone
  redund := h.redund

theorem pageKill_other {j : Nat} (hj : j ≠ k) (vpn level : Nat) : Lone (s.pageKill vpn level j) k W := by
  unfold State.pageKill
  split
  · exact h
  · dsimp only
    split
    · exact h.stopFork_other hj _ _
    · exact h.killTrans_other hj ..

/-- Its own kill leaves the warp dead, with a record. -/
theorem kill_self (halive : W.ended = false) (cause lane : Nat) (va : DWord) (info2 : Nat) :
    Dead (s.kill k cause lane va none info2) k W.core
      (fun r => r.type = 1 ∧ r.cause = cause ∧ r.wid = W.wid ∧ r.info2 = BitVec.ofNat 32 info2 ∧ r.va = va) := by
  have hall : ∀ x ∈ s.family k, x = k := fun x hx => (h.twins.mem_family.1 hx).1
  have hself : k ∈ s.family k := h.twins.mem_family.2 ⟨rfl, W, mem_of_find h.listed, halive⟩
  have hfirst : ∃ V, mfind (s.killOne k).warps k = some V ∧ V.killed = true ∧ V.ended = true := by
    obtain ⟨f, hf, hquiet⟩ := killOne_warps s k
    refine ⟨f W.kill.end_, by rw [hf, mfind_mupdate_self, h.listed]; rfl, ?_, ?_⟩
    · rw [hquiet W.kill.end_]
      rfl
    · rw [hquiet W.kill.end_]
      rfl
  obtain ⟨l, hl⟩ : ∃ l, s.family k = k :: l := by
    cases hfam : s.family k with
    | nil => rw [hfam] at hself; cases hself
    | cons x l => exact ⟨l, by rw [hall x (hfam ▸ List.mem_cons_self ..)]⟩
  rw [State.kill, h.not_redundant, warp_of_find h.listed, hl]
  constructor
  · obtain ⟨V, hV, hk, he⟩ := hfirst
    obtain ⟨U, hU, hk', he'⟩ := ((Keeps.foldl killOne_keeps l (s.killOne k)).trans (endBlock_keeps _ W.block)).warps k V hV
    exact ⟨U, hU, hk' hk, he' he⟩
  · refine ⟨_, by
      simp only [Bool.false_eq_true, if_false, State.ras, die_modDie_self]
      exact mem_rasInsert .., rfl, rfl, rfl, rfl, rfl⟩

end Lone

/-! ### Warps that wait for a page that is lost -/

/-- What `waitsPage` lists: the slices that wait for the page, each with its first address there. -/
theorem mem_waitsPage {W : Warp} {vpn i a : Nat} : (i, a) ∈ W.waitsPage vpn ↔ ∃ x l, W.slices[i]? = some x ∧ x.exited = false ∧
    x.wait = some (.pages l) ∧ l.find? (fun a => a / 4096 == vpn) = some a := by
  simp only [Warp.waitsPage, List.mem_filterMap, Prod.exists, List.mem_zipIdx_iff_getElem?]
  constructor
  · rintro ⟨x, j, hx, hsome⟩
    split at hsome
    · cases hsome
    · next hin =>
      split at hsome
      · next l hwait =>
        obtain ⟨b, hb, hpair⟩ := Option.map_eq_some_iff.1 hsome
        cases hpair
        exact ⟨x, l, hx, by simpa using hin, hwait, hb⟩
      · cases hsome
  · rintro ⟨x, l, hx, hin, hwait, ha⟩
    exact ⟨x, i, hx, by simp [hin, hwait, ha]⟩

theorem slice_of_getElem? {W : Warp} {i : Nat} {x : Slice} (h : W.slices[i]? = some x) : W.slice i = x := by
  rw [Warp.slice, List.getD_eq_getElem?_getD, h]
  rfl

theorem waitsPage_waits {W : Warp} {vpn i a : Nat} (h : (i, a) ∈ W.waitsPage vpn) :
    ∃ l, (W.slice i).wait = some (.pages l) ∧ a ∈ l ∧ a / 4096 = vpn := by
  obtain ⟨x, l, hx, -, hwait, ha⟩ := mem_waitsPage.1 h
  exact ⟨l, by rw [slice_of_getElem? hx, hwait], List.mem_of_find?_eq_some ha, by simpa using List.find?_some ha⟩

theorem waitsPage_ne_nil {W : Warp} {vpn i : Nat} {l : List Nat} (hi : i < W.slices.length) (hin : (W.slice i).exited = false)
    (hwait : (W.slice i).wait = some (.pages l)) (hl : ∃ p ∈ l, p / 4096 = vpn) : W.waitsPage vpn ≠ [] := by
  have hx := List.getElem?_eq_getElem hi
  obtain ⟨p, hp, hvpn⟩ := hl
  cases hfind : l.find? (fun a => a / 4096 == vpn) with
  | none => exact absurd hvpn (by simpa using List.find?_eq_none.1 hfind p hp)
  | some a =>
    rw [slice_of_getElem? hx] at hin hwait
    exact List.ne_nil_of_mem (mem_waitsPage.2 ⟨_, l, hx, hin, hwait, hfind⟩)

/-- The record of a warp that is killed for a page: the address is one that a slice of it waits for. -/
def pageRecord (W : Warp) (vpn level : Nat) (r : RasRec) : Prop :=
  r.type = 1 ∧ r.cause = 0x101 ∧ r.wid = W.wid ∧ r.info2 = BitVec.ofNat 32 level ∧
    ∃ j l p, (W.slice j).wait = some (.pages l) ∧ p ∈ l ∧ p / 4096 = vpn ∧ r.va = BitVec.ofNat 64 p

theorem Dead.imp {s : State} {k core : Nat} {p q : RasRec → Prop} (h : Dead s k core p) (hpq : ∀ r, p r → q r) : Dead s k core q where
  warp := h.warp
  record := by
    obtain ⟨r, hr, hp⟩ := h.record
    exact ⟨r, hr, hpq r hp⟩

section
variable {s : State} {k : Nat} {W : Warp} {vpn level : Nat} (h : Lone s k W) (halive : W.ended = false) (hforks : W.forks = [])
  (hwaits : W.waitsPage vpn ≠ [])
include h halive hforks hwaits

theorem pageKill_self : Dead (s.pageKill vpn level k) k W.core (pageRecord W vpn level) := by
  unfold State.pageKill
  rw [warp_of_find h.listed, hforks]
  split
  · next hnil => exact absurd hnil hwaits
  · next i a l hl =>
    have hpage := waitsPage_waits (hl ▸ List.mem_cons_self ..)
    have hkill := h.kill_self halive 0x101 (4 * i) (BitVec.ofNat 64 a) level
    simp only [List.reverse_nil, List.find?_nil, State.killTrans, warp_of_find h.listed, halive]
    refine hkill.imp fun r hr => ?_
    obtain ⟨htype, hcause, hwid, hlevel, hva⟩ := hr
    obtain ⟨l, hl, ha, hvpn⟩ := hpage
    exact ⟨htype, hcause, hwid, hlevel, i, l, a, hl, ha, hvpn, hva⟩

theorem pageKills_self {l : List Nat} (hk : k ∈ l) : Dead (l.foldl (fun s j => s.pageKill vpn level j) s) k W.core (pageRecord W vpn level) := by
  induction l generalizing s with
  | nil => cases hk
  | cons j l ih =>
    rw [List.foldl_cons]
    by_cases hj : j = k
    · subst hj
      exact (pageKill_self h halive hforks hwaits).keeps (.foldl (fun s j => pageKill_keeps s vpn level j) _ _)
    · exact ih (h.pageKill_other hj vpn level) ((List.mem_cons.1 hk).resolve_left fun e => hj e.symm)

end

/-! ### A page that is lost -/

/-- What follows the warps that wait for the page themselves. -/
def State.pageElse (s : State) (queue vpn level : Nat) : State :=
  let s := (s.engines.map (·.1)).foldl (fun s op => s.pageEngine queue vpn level op) s
  let s := (s.cores.map (·.1)).foldl (fun s c => (s.pageUnit queue vpn level c).pageRows queue vpn level c) s
  let s := s.pageCommit queue vpn level
  (s.flights.map (·.1)).foldl (fun s f => s.pageAdpq queue vpn level f) s

theorem pageLost_eq (s : State) (queue vpn level : Nat) : s.pageLost queue vpn level =
    (((s.warps.filter (fun x => x.2.queue == queue && !x.2.ended)).map (·.1)).foldl (fun s k => s.pageKill vpn level k) s).pageElse queue vpn level :=
  rfl

theorem pageElse_keeps (s : State) (queue vpn level : Nat) : Keeps s (s.pageElse queue vpn level) :=
  (((Keeps.foldl (fun s op => pageEngine_keeps s queue vpn level op) _ _).trans
    (.foldl (fun s c => (pageUnit_keeps s queue vpn level c).trans (pageRows_keeps _ queue vpn level c)) _ _)).trans
    (pageCommit_keeps _ queue vpn level)).trans (.foldl (fun s f => pageAdpq_keeps s queue vpn level f) _ _)

theorem pageLost_keeps (s : State) (queue vpn level : Nat) : Keeps s (s.pageLost queue vpn level) := by
  rw [pageLost_eq]
  exact (Keeps.foldl (fun s k => pageKill_keeps s vpn level k) _ _).trans (pageElse_keeps _ _ _ _)

theorem pageLost_kills {s : State} {k : Nat} {W : Warp} {vpn level : Nat} (h : Lone s k W) (halive : W.ended = false) (hforks : W.forks = [])
    (hwaits : W.waitsPage vpn ≠ []) : Dead (s.pageLost W.queue vpn level) k W.core (pageRecord W vpn level) := by
  have hlisted : k ∈ (s.warps.filter (fun x => x.2.queue == W.queue && !x.2.ended)).map (·.1) :=
    List.mem_map.2 ⟨(k, W), List.mem_filter.2 ⟨mem_of_find h.listed, by simp [halive]⟩, rfl⟩
  rw [pageLost_eq]
  exact (pageKills_self h halive hforks hwaits hlisted).keeps (pageElse_keeps _ _ _ _)

/-! ### The firmware's answers -/

section
variable {s : State} {n : Nat} {x : PageFault} (h : s.faults[n]? = some x) (hserved : s.served x.queue = true)
include h hserved

/-- A page that is there enters the TLBs of the cores that wait for it. -/
theorem pageFault_found (hpool : x.pool = none) {tr : Trans} (htr : s.walk x.queue (x.vpn * 4096) = .ok tr) :
    ∃ t, exec (.pageFaultResolved n true) s = .next t ∧ Entered { s with faults := s.faults.eraseIdx n } t (x.cores.flatMap tlbsOf) tr := by
  refine ⟨_, ?_, addTrans_all_entered _ x.cores tr⟩
  show Host.Outcome.next _ = _
  simp only [h, hserved, hpool, htr, Bool.not_true, Bool.false_eq_true, if_false, if_true]

/-- A page that is not there is lost to all that wait for it. -/
theorem exec_pageFault_lost (hpool : x.pool = none) :
    exec (.pageFaultResolved n false) s = .next (({ s with faults := s.faults.eraseIdx n } : State).pageLost x.queue x.vpn x.level) := by
  show Host.Outcome.next _ = _
  simp only [h, hserved, hpool, Bool.not_true, Bool.false_eq_true, if_false]

/-- A deferred push whose page is there stays on its list. -/
theorem poolFault_found {d pool : Nat} {va : DWord} (hpool : x.pool = some (d, pool, va)) {tr : Trans} (htr : s.look x.queue va.toNat = some tr) :
    exec (.pageFaultResolved n true) s = .next { s with faults := s.faults.eraseIdx n } := by
  show Host.Outcome.next _ = _
  simp only [h, hserved, hpool, htr, Bool.not_true, Bool.false_eq_true, if_false, if_true]

theorem exec_poolFault_lost {d pool : Nat} {va : DWord} (hpool : x.pool = some (d, pool, va)) :
    exec (.pageFaultResolved n false) s = .next ((({ s with faults := s.faults.eraseIdx n } : State).modDie d (fun D =>
      { D with dfree := D.dfree.eraseP (fun e => e.1 == va && e.2.1 == pool && e.2.2.1 != 0) })).poolRecord d pool x.queue va) := by
  show Host.Outcome.next _ = _
  simp only [h, hserved, hpool, Bool.not_true, Bool.false_eq_true, if_false]

/-- A deferred push whose page is not there leaves its list, with a record. -/
theorem poolFault_lost {d pool : Nat} {va : DWord} (hpool : x.pool = some (d, pool, va)) :
    ∃ t, exec (.pageFaultResolved n false) s = .next t ∧ t.faults = s.faults.eraseIdx n ∧
      (t.die d).dfree = (s.die d).dfree.eraseP (fun e => e.1 == va && e.2.1 == pool && e.2.2.1 != 0) ∧
      ∃ r ∈ (t.die d).rasQueue, r.type = 0x0C ∧ r.sub = 1 ∧ r.cause = 0x101 ∧ r.va = va ∧ r.info0 = BitVec.ofNat 32 pool := by
  refine ⟨_, exec_poolFault_lost h hserved hpool, rfl, ?_, ?_⟩
  · rw [State.poolRecord, State.ras, die_modDie_self, die_modDie_self]
    rfl
  · rw [State.poolRecord, State.ras, die_modDie_self]
    exact ⟨_, mem_rasInsert .., rfl, rfl, rfl, rfl, rfl⟩

end

end Sys2Proof.Machine

/-! The events of accesses on their way: the statement. -/

namespace Sys2Proof.Machine

/-- A translation that has entered the TLBs of some cores. -/
theorem Entered.cores {s t : State} {cores : List Nat} {tr : Trans} (h : Entered s t (cores.flatMap tlbsOf) tr) :
    (∀ c ∈ cores, ∀ p ∈ tlbsOf c, tr ∈ mget [] t.tlbs p) ∧ (∀ p, ∀ x ∈ mget [] t.tlbs p, x = tr ∨ x ∈ mget [] s.tlbs p) ∧
      ∀ p, (∀ c ∈ cores, p ∉ tlbsOf c) → mget [] t.tlbs p = mget [] s.tlbs p := by
  refine ⟨fun c hc p hp => h.there p (List.mem_flatMap.2 ⟨c, hc, hp⟩), h.only, fun p hp => h.others p fun hin => ?_⟩
  obtain ⟨c, hc, hpc⟩ := List.mem_flatMap.1 hin
  exact hp c hc hpc

/-- The completion times that a close access gets are those of its own die's home. -/
theorem Arrives.times {s : State} {f j : Nat} {F : Flight} {a : Access} (h : Arrives s f j F a) :
    s.completionTimes a.pa ((s.warp F.warp).core / 192) =
      ([s.dieTime ((s.warp F.warp).core / 192), (s.stampsOf (a.pa / 128)).dies.getD ((s.warp F.warp).core / 192) 0].foldl later 0 +
          BitVec.ofNat 64 Config.epsilon,
       (s.dieTime ((s.warp F.warp).core / 192) :: (s.stampsOf (a.pa / 128)).other :: (s.stampsOf (a.pa / 128)).dies).foldl later 0 +
          BitVec.ofNat 64 Config.epsilon) :=
  completionTimes_here h.self h.die h.outside

/-- A warp that waits for a page which the firmware finds missing is killed. -/
theorem pageFault_kills {s : State} {n : Nat} {x : PageFault} (hx : s.faults[n]? = some x) (hserved : s.served x.queue = true) (hpool : x.pool = none)
    {k : Nat} {W : Warp} (h : Lone s k W) (hqueue : W.queue = x.queue) (halive : W.ended = false) (hforks : W.forks = [])
    (hwaits : W.waitsPage x.vpn ≠ []) :
    ∃ t, exec (.pageFaultResolved n false) s = .next t ∧ t.faults = s.faults.eraseIdx n ∧ (t.warp k).killed = true ∧ (t.warp k).ended = true ∧
      ∃ r ∈ (t.die (W.core / 192)).rasQueue, pageRecord W x.vpn x.level r := by
  have hlone : Lone { s with faults := s.faults.eraseIdx n } k W := ⟨h.listed, h.twins, h.redund⟩
  obtain ⟨⟨V, hV, hkilled, hended⟩, hrecord⟩ := pageLost_kills (level := x.level) hlone halive hforks hwaits
  rw [hqueue] at hV hrecord
  refine ⟨_, exec_pageFault_lost hx hserved hpool, (pageLost_keeps _ _ _ _).faults, ?_, ?_, hrecord⟩
  · rwa [warp_of_find hV]
  · rwa [warp_of_find hV]

/-- Settles O51: each event's lemma; the write and the atomic are the two arrivals of one access, a load is served by a copy or by its
home, and a page that is missing kills by induction on the warps that wait for it. -/
theorem memoryEvents : Obligations.MemoryEvents := by
  unfold Obligations.MemoryEvents
  intro quiet close last enters
  refine ⟨fun s f j F a hF ha hwaiting hfree hstores hown => ⟨arrival_waits hF ha, fun hquiet hfirst hclose => ?_⟩,
    fun s f F a hF haccs hwaiting hfree hread hcached hkeep hmine hbad hquiet hfirst hclose => ?_,
    fun s f F W hF hW hround _ hbuf => ⟨fun hopen => ⟨?_, ?_⟩, ?_, ?_⟩,
    fun s n key c hc => leaseExpiry_lapses hc,
    fun s n w hw => ?_,
    fun s n x hx hserved => ⟨fun hpool => ⟨fun tr htr => ?_, fun k W i ps hW hqueue halive hforks htwins hredund hi hin hwait hps => ?_⟩,
      fun d pool va hpool => ⟨fun tr htr => poolFault_found hx hserved hpool htr, poolFault_lost hx hserved hpool⟩⟩,
    fun s => ⟨eccMem_marks s, fun b w B hB hw => eccSpad_marks hB hw, fun k r i W hW hr hi => eccReg_marks hW hr hi,
      fun core cell hcell => eccAcc_marks s core hcell⟩⟩
  · obtain ⟨hunseen, hsectors, hhbm, hplain, hholds, -, -, -, halive⟩ := hquiet
    obtain ⟨hself, hdie, houtside, hhomed⟩ := hclose
    have h : Arrives s f j F a := ⟨hF, ha, hwaiting, hfree, hstores, hown, hunseen, hsectors, hhbm, hplain, hholds, halive, hfirst, hself, hdie,
      houtside, hhomed⟩
    refine ⟨fun bs hop hlen => ?_, fun kind wide b c hop horder => ?_⟩
    · obtain ⟨t, hexec, ht⟩ := h.write hop hlen
      have hflight := ht.flight
      rw [h.times] at hflight
      exact ⟨t, hexec, ⟨ht.read, ht.frame, ht.warps, ht.drops⟩, hflight⟩
    · obtain ⟨t, hexec, ht⟩ := h.atomic hop horder
      have hflight := ht.flight
      rw [h.times] at hflight
      exact ⟨t, hexec, ⟨ht.read, ht.frame, ht.warps, ht.drops⟩, hflight⟩
  · obtain ⟨hunseen, hsectors, hhbm, hplain, -, -, htx, -, -⟩ := hquiet
    obtain ⟨hself, hdie, houtside, -⟩ := hclose
    have h : Fills s f F a := ⟨hF, haccs, hwaiting, hfree, hread, hcached, hkeep, hmine, hbad, hunseen, hsectors, hhbm, hplain, htx, hfirst, hself,
      hdie, houtside⟩
    exact ⟨fun c hc hgood hlive => h.hit hc hgood hlive, h.miss⟩
  · rw [exec_loadReturn hF, not_complete hopen, Bool.and_false, Bool.false_and, if_neg Bool.false_ne_true]
  · rw [exec_storeAck hF, not_complete hopen, Bool.and_false, Bool.false_and, if_neg Bool.false_ne_true]
  · intro a size haccs hcls hready hheld hvals hland hdone hbad _ houts heng
    exact loadReturn_lands hF hW hround hbuf haccs hready hheld hvals hdone heng hcls hland hbad houts
  · intro a haccs hcls hready hheld hvals hland hdone hdue hforks houts heng
    exact storeAck_lands hF hW hround hbuf haccs hready hheld hvals hdone heng hcls hland hdue hforks houts
  · obtain ⟨hfull, hroom⟩ := tlbWalkComplete_ends hw
    refine ⟨hfull, fun hlt => ⟨fun tr htr => ?_, (hroom hlt).2⟩⟩
    obtain ⟨t, hexec, ht⟩ := (hroom hlt).1 tr htr
    exact ⟨t, hexec, ht.rest, ht.cores⟩
  · obtain ⟨t, hexec, ht⟩ := pageFault_found hx hserved hpool htr
    exact ⟨t, hexec, ht.rest, ht.cores⟩
  · exact pageFault_kills hx hserved hpool ⟨hW, htwins, hredund⟩ hqueue halive hforks (waitsPage_ne_nil hi hin hwait hps)

end Sys2Proof.Machine

/-! Words with a result of a fixed latency (R36, R62), and checks of the word alone (R318, R319). -/

namespace Sys2Proof.Machine

/-- A word completes where its behaviour lets it through and its effect leaves the result asked. -/
theorem computes_of {ok : Ctx → Prop} {I : Fields → Instr} {o : Op} {len : Len} {lat n : Nat} {f : Ctx → Nat → Nat → Word}
    {flags : Ctx → Word} (hI : ∀ w, (I w).word = some (o, len, w))
    (h : ∀ c : Ctx, c.op = o → c.Clear → ok c → (kitOf o).Lets c c.s ∧
      c.Wrote (c.retire (kitOf o).jumps ((kitOf o).eff c)) lat c.w.d.toNat n (f c) (flags c)) :
    Computes ok I o len lat n f flags :=
  runs_of (post := fun c t => c.Wrote t lat c.w.d.toNat n (f c) (flags c)) hI fun c ho _ hc hok => h c ho hc hok

/-- A word whose effect is a float result in each acting lane (R62). -/
theorem givesFloat_of {ok : Ctx → Prop} {I : Fields → Instr} {o : Op} {len : Len} {lat : Nat} {f F : Ctx → Nat → Word × FlagSet}
    (hI : ∀ w, (I w).word = some (o, len, w)) (hkit : kitOf o = { eff := fun c => c.eachF (F c) }) (hlat : o.latency = some lat)
    (hf : ∀ c i, ok c → F c i = f c i) : GivesFloat ok I o len lat f := by
  refine computes_of hI fun c ho hc hok => ?_
  have hF : F c = f c := funext fun i => hf c i hok
  have hwrote := eachF_wrote hc.listed (f c)
  rw [ho, hlat, ← hF] at hwrote
  rw [hkit, ← hF]
  exact ⟨lets_plain _ c, hwrote⟩

theorem Ctx.Clear.early {c : Ctx} (hc : c.Clear) : (if c.W.sbchk then c.W.early c.op c.w else none) = none := by
  split
  · next hs => exact hc.notEarly hs
  · rfl

/-- A check of the word alone that fails comes before every other (R318, R319). -/
theorem faults_of_word {bad : Ctx → Prop} {I : Fields → Instr} {o : Op} {len : Len} {r : Ctx → TrapRec}
    (hI : ∀ w, (I w).word = some (o, len, w)) (h : ∀ c : Ctx, bad c → (kitOf o).word c = [r c]) :
    Faults bad I o len (fun c => [r c]) := by
  intro s g w hs hc hbad
  rw [exec_word (hI w), run_issued hs]
  simp only [Ctx.issue, hc.noSkip, hc.slices, if_false, hc.landed, hc.early, h _ hbad]

/-! ### Control words (R279, R280) -/

/-- A check of CTLR alone fails only for the lease clock at D1 and above. -/
theorem word_ctlr {c : Ctx} (h : c.w.a.bits.toNat = 0x24 → c.W.detlvl = 0) : kitCtlr.word c = [] := by
  refine if_neg fun hbad => ?_
  simp only [Bool.and_eq_true, decide_eq_true_eq] at hbad
  have := h hbad.1
  omega

theorem lets_ctlr {c : Ctx} (h : c.w.a.bits.toNat = 0x24 → c.W.detlvl = 0) : kitCtlr.Lets c c.s :=
  lets_checked (word_ctlr h) (.inl rfl) rfl (.inl rfl) rfl rfl rfl rfl rfl rfl rfl

/-- The 32-bit control words by number (Table 8). -/
theorem word32_eq (c : Ctx) {n : Nat} (h : n ≤ 0x10) (i : Nat) : c.word32 n i =
    [BitVec.ofNat 32 i, BitVec.ofNat 32 (i / 4), c.W.wid, c.W.bid, BitVec.ofNat 32 c.W.detlvl, BitVec.ofNat 32 c.W.svc, c.W.ncnt, c.mx.mxstall,
      c.W.wctl, c.W.fflags, c.W.tcause, c.W.tslice, c.W.tlane, c.W.tinfo0, c.W.tinfo1, c.W.tinfo2, c.W.tinfo3].getD n 0 := by
  interval_cases n <;> rfl

/-- The 64-bit control words by number (Table 8). -/
theorem word64_eq (c : Ctx) {n : Nat} (hlo : 0x20 ≤ n) (hhi : n ≤ 0x26) : c.word64 n =
    [c.W.tpc, c.W.taddr, c.W.gwct, c.W.gwctd, c.s.dieTime (c.W.core / 192), c.W.args, c.W.nin].getD (n - 0x20) 0 := by
  interval_cases n <;> rfl

/-- What CTLW leaves of a warp, no open FCALL noting a write of the flags. -/
theorem ctlw_writes {c : Ctx} (hc : c.Clear) (hacts : c.lanes ≠ []) (hfork : c.fork? = none)
    (hword : kitCtlw.word c = []) :
    kitCtlw.Lets c c.s ∧ c.OnlyWarp (c.retire kitCtlw.jumps (kitCtlw.eff c)) ∧
      mfind (c.retire kitCtlw.jumps (kitCtlw.eff c)).warps c.k =
        some (c.onward (c.W.writeWord c.w.b.bits.toNat (c.a c.lead) (c.a64 c.lead))) := by
  have hforks : (if c.w.b.bits.toNat = 0x09 then c.W.forks.map (fun f => if f.meets c.m then { f with flagsSet := true } else f)
      else c.W.forks) = c.W.forks := by
    split
    · refine (List.map_congr_left fun f hf => if_neg ?_).trans (List.map_id' _)
      exact List.find?_eq_none.1 hfork f (List.mem_reverse.2 hf)
    · rfl
  have hkeep : (c.W.writeWord c.w.b.bits.toNat (c.a c.lead) (c.a64 c.lead)).forks = c.W.forks := by
    unfold Warp.writeWord
    split <;> rfl
  have heff : kitCtlw.eff c = c.s.modWarp c.k (fun _ => c.W.writeWord c.w.b.bits.toNat (c.a c.lead) (c.a64 c.lead)) := by
    have hact : (!c.acts) = false := by simpa [Ctx.acts] using hacts
    show (if !c.acts then c.s else _) = _
    rw [hact, if_neg Bool.false_ne_true, modWarp_const hc.listed]
    rw [hforks, ← hkeep]
  have hret : c.retire kitCtlw.jumps (kitCtlw.eff c) =
      c.s.modWarp c.k (fun _ => c.onward (c.W.writeWord c.w.b.bits.toNat (c.a c.lead) (c.a64 c.lead))) := by
    rw [heff]
    exact modWarp_modWarp ..
  rw [hret]
  exact ⟨lets_checked hword (.inl rfl) rfl (.inl rfl) rfl rfl rfl rfl rfl rfl rfl, ⟨rfl, fun j hj => find_modWarp_ne _ _ hj⟩, find_modWarp hc.listed _⟩

theorem word_ctlw {c : Ctx} (h : c.w.b.bits.toNat = 0x20 → c.W.tmode = true) : kitCtlw.word c = [] := by
  refine if_neg fun hbad => ?_
  simp only [Bool.and_eq_true, decide_eq_true_eq, Bool.not_eq_true'] at hbad
  rw [h hbad.1] at hbad
  exact absurd hbad.2 (by simp)

/-- CTLW completes with its write where the word may be written. -/
theorem ctlw_runs {ok : Ctx → Prop} {n : Nat}
    (hok : ∀ c, ok c → c.Plain ∧ c.lanes ≠ [] ∧ c.w.b.bits.toNat = n ∧ (n = 0x20 → c.W.tmode = true)) :
    Runs ok .ctlw .ctlw .l64 (fun c t => c.OnlyWarp t ∧ mfind t.warps c.k = some (c.onward (c.W.writeWord n (c.a c.lead) (c.a64 c.lead)))) := by
  refine runs_of (fun _ => rfl) fun c _ _ hc hc' => ?_
  obtain ⟨hplain, hacts, rfl, htmode⟩ := hok c hc'
  exact ctlw_writes hc hacts hplain.noFork (word_ctlw htmode)

/-- Settles O47: CTLR reads the word that its number names, CTLW's write is `Warp.writeWord`, and the two traps are checks of the word
alone. -/
theorem controlWords : Obligations.ControlWords := by
  unfold Obligations.ControlWords
  intro n m here writes
  refine ⟨computes_of (fun _ => rfl) fun c ho hc hok => ?_, computes_of (fun _ => rfl) fun c ho hc hok => ?_,
    faults_of_word (fun _ => rfl) fun c hbad => ?_, ctlw_runs (n := 0x08) fun c hok => ?_, ctlw_runs (n := 0x09) fun c hok => ?_,
    ctlw_runs (n := 0x20) fun c hok => ?_, faults_of_word (fun _ => rfl) fun c hbad => ?_⟩
  · have hn : c.w.a.bits.toNat ≤ 0x10 := hok
    have hwrote := each_wrote hc.listed (c.word32 c.w.a.bits.toNat)
    have heff : kitCtlr.eff c = c.each (c.word32 c.w.a.bits.toNat) := if_pos (Nat.lt_of_le_of_lt hn (by decide))
    rw [← heff, ho, funext (word32_eq c hn)] at hwrote
    exact ⟨lets_ctlr (by omega), hwrote⟩
  · obtain ⟨hlo, hhi, hclock⟩ : 0x20 ≤ c.w.a.bits.toNat ∧ c.w.a.bits.toNat ≤ 0x26 ∧ (c.w.a.bits.toNat = 0x24 → c.W.detlvl = 0) := hok
    have hwrote := each64_wrote hc.listed (fun _ => c.word64 c.w.a.bits.toNat)
    have heff : kitCtlr.eff c = c.each64 (fun _ => c.word64 c.w.a.bits.toNat) := if_neg (Nat.not_lt.2 hlo)
    rw [← heff, ho, word64_eq c hlo hhi] at hwrote
    exact ⟨lets_ctlr hclock, hwrote⟩
  · obtain ⟨hn, hlevel⟩ : c.w.a.bits.toNat = 0x24 ∧ c.W.detlvl ≠ 0 := hbad
    exact if_pos (by simp [hn, Nat.one_le_iff_ne_zero.2 hlevel])
  · obtain ⟨⟨hplain, hacts⟩, hn⟩ := hok
    exact ⟨hplain, hacts, hn, fun h => absurd h (by decide)⟩
  · obtain ⟨⟨hplain, hacts⟩, hn⟩ := hok
    exact ⟨hplain, hacts, hn, fun h => absurd h (by decide)⟩
  · obtain ⟨⟨hplain, hacts⟩, hn, htmode⟩ := hok
    exact ⟨hplain, hacts, hn, fun _ => htmode⟩
  · obtain ⟨hn, htmode⟩ : c.w.b.bits.toNat = 0x20 ∧ c.W.tmode = false := hbad
    exact if_pos (by simp [hn, htmode])

end Sys2Proof.Machine

/-! Float arithmetic and conversions (R61, R202, R207), a word's result in each acting lane. -/

namespace Sys2Proof

theorem FlagSet.or_clear (f : FlagSet) : f.or {} = f := by simp [FlagSet.or]

theorem FlagSet.none_or (f : FlagSet) : FlagSet.none.or f = f := by simp [FlagSet.or, FlagSet.none]

theorem FVal.isSnan_of_not_nan {x : FVal} (h : x.isNan = false) : x.isSnan = false := by
  cases x with
  | nan n s f => cases h
  | inf n => rfl
  | fin n m e => rfl

end Sys2Proof

namespace Sys2Proof.Machine

/-! ### Forms with one rounding (R61, R202) -/

/-- A form's halves are taken by division where the model takes them as bit fields (R202). -/
theorem packed_eq (m : Nat) (f : Fmt → List Nat → Nat × FlagSet) (xs : List Word) : packed m f xs =
    (let F := if m / 4 % 4 = 1 then Fmt.fp16 else Fmt.bf16
     if m / 4 % 4 = 0 then (BitVec.ofNat 32 (f Fmt.fp32 (xs.map (·.toNat))).1, (f Fmt.fp32 (xs.map (·.toNat))).2)
     else
       let lo := f F (xs.map (·.toNat % 65536))
       let hi := f F (xs.map (·.toNat / 65536))
       (BitVec.ofNat 32 (lo.1 + 65536 * hi.1), lo.2.or hi.2)) := by
  have hlo : xs.map (fun x => (x.extractLsb' 0 16).toNat) = xs.map (·.toNat % 65536) :=
    List.map_congr_left fun x _ => by simp
  have hhi : xs.map (fun x => (x.extractLsb' 16 16).toNat) = xs.map (·.toNat / 65536) :=
    List.map_congr_left fun x _ => by
      have := x.isLt
      simp only [BitVec.extractLsb'_toNat, Nat.shiftRight_eq_div_pow]
      omega
  unfold packed
  simp only [hlo, hhi]
  split
  · next h => simp [h]
  · next h => simp [h]
  · next h0 h1 => rw [if_neg h0, if_neg h1]

/-- Settles O14: each form is its exact operation and one rounding, on FP32 or on each half. -/
theorem floatArithmetic : Obligations.FloatArithmetic := by
  unfold Obligations.FloatArithmetic
  exact ⟨givesFloat_of (fun _ => rfl) rfl rfl fun _ _ _ => packed_eq .., givesFloat_of (fun _ => rfl) rfl rfl fun _ _ _ => packed_eq ..,
    givesFloat_of (fun _ => rfl) rfl rfl fun _ _ _ => packed_eq .., givesFloat_of (fun _ => rfl) rfl rfl fun _ _ _ => packed_eq ..⟩

/-! ### Scaling and integral values -/

theorem fscale_eq (F : Fmt) (mode : RMode) (a : Nat) (b : Int) :
    F.fscale mode a b = F.round mode false ((F.decode a).scale b) := by
  unfold Fmt.fscale
  cases F.decode a with
  | nan n s f => rfl
  | inf n => rfl
  | fin n m e => rfl

/-- FRND by what its operand is. -/
theorem frnd_eq (mode : RMode) (a : Word) : asWord (Fmt.fp32.frnd mode a.toNat) =
    match Fmt.fp32.decode a.toNat with
    | .nan _ s _ => (0x7FC00000, { nv := s })
    | .inf n => (if n then 0xFF800000 else 0x7F800000, {})
    | .fin n m e => (if 0 ≤ e then a else BitVec.ofNat 32 (Fmt.fp32.round mode false (.fin n (roundInt mode n m e).1 0)).1, {}) := by
  unfold Fmt.frnd
  cases Fmt.fp32.decode a.toNat with
  | nan n s f => cases s <;> rfl
  | inf n => cases n <;> rfl
  | fin n m e =>
    by_cases he : 0 ≤ e
    · simp [he, asWord, FlagSet.none]
    · simp [he, asWord, FlagSet.none, Fmt.round]

/-! ### Conversions (R207) -/

/-- The format of a code of CVTF, as a list. -/
theorem cvtFmt_eq (n : Nat) : cvtFmt n = [Fmt.fp32, Fmt.fp16, Fmt.bf16].getD n Fmt.bf16 := by
  match n with
  | 0 | 1 | 2 | n + 3 => rfl

theorem cvtFmt_nan (n : Nat) : (cvtFmt n).nan = true := by
  unfold cvtFmt
  split <;> rfl

/-- A conversion's own NV for a signalling NaN is the rounding's already where the format has NaNs (R51). -/
theorem round_or_snan {F : Fmt} (hF : F.nan = true) (mode : RMode) (sat : Bool) (x : FVal) :
    (F.round mode sat x).2.or { nv := x.isSnan } = (F.round mode sat x).2 := by
  cases x with
  | nan n s f => simp [Fmt.round, hF, FVal.isSnan, FlagSet.or]
  | inf n => exact FlagSet.or_clear _
  | fin n m e => exact FlagSet.or_clear _

/-- CVTF by what its operand is: widening keeps a NaN's sign and high fraction bits. -/
theorem cvtfVal_eq (src dst : Nat) (mode : RMode) (a : Word) : cvtfVal src dst mode a =
    match (cvtFmt src).decode (if src = 0 then a.toNat else a.toNat % 65536) with
    | .nan n s f =>
      if src ≠ 0 ∧ dst = 0 then
        (BitVec.ofNat 32 ((if n then 2 ^ 31 else 0) + 0x7F800000 + (f * 2 ^ (23 - (cvtFmt src).fbits) ||| 2 ^ 22)), { nv := s })
      else (BitVec.ofNat 32 (cvtFmt dst).canon, { nv := s })
    | x => asWord ((cvtFmt dst).round (if src ≠ 0 ∧ dst = 0 then .rne else mode) false x) := by
  have hcode : (a.extractLsb' 0 16).toNat = a.toNat % 65536 := by simp
  unfold cvtfVal
  rw [hcode]
  generalize (if src = 0 then a.toNat else a.toNat % 65536) = code
  by_cases hwide : src ≠ 0 ∧ dst = 0
  · obtain ⟨hsrc, rfl⟩ := hwide
    simp only [hsrc, ne_eq, not_false_eq_true, and_self, if_true, decide_true, Bool.and_self, Fmt.widen]
    cases (cvtFmt src).decode code with
    | nan n s f =>
      have hsum (x y z : Nat) : x + y + z = z + x + y := by omega
      cases n <;> exact congrArg (fun c => (BitVec.ofNat 32 c, ({ nv := s } : FlagSet))) (hsum ..)
    | inf n => rfl
    | fin n m e => rfl
  · have hcond : (decide (dst = 0) && decide (src ≠ 0)) = false := by
      simpa [and_comm] using hwide
    simp only [hcond, Bool.false_eq_true, if_false, hwide, round_or_snan (cvtFmt_nan dst)]
    cases (cvtFmt src).decode code with
    | nan n s f => simp [Fmt.round, asWord, cvtFmt_nan]
    | inf n => rfl
    | fin n m e => rfl

/-- CVTFI saturates a finite value at the ends of its range. -/
theorem cvtfi_eq (mode : RMode) (uns : Bool) (a : Word) : cvtfi mode uns a =
    (let lo : Int := if uns then 0 else -2147483648
     let hi : Int := if uns then 4294967295 else 2147483647
     match Fmt.fp32.decode a.toNat with
     | .nan _ _ _ => (0, { nv := true })
     | .inf n => (BitVec.ofInt 32 (if n then lo else hi), { nv := true })
     | .fin n m e =>
       let q := roundInt mode n m e
       let v : Int := if n then -(q.1 : Int) else q.1
       (BitVec.ofInt 32 (max lo (min hi v)), if v < lo ∨ hi < v then { nv := true } else { nx := q.2 })) := by
  unfold cvtfi
  cases Fmt.fp32.decode a.toNat with
  | nan n s f => rfl
  | inf n => rfl
  | fin n m e =>
    simp only [Int.reducePow, Int.reduceNeg, Int.reduceSub]
    generalize hv : (if n then -((roundInt mode n m e).1 : Int) else ((roundInt mode n m e).1 : Int)) = v
    generalize hlo : (if uns then (0 : Int) else -2147483648) = lo
    generalize hhi : (if uns then (4294967295 : Int) else 2147483647) = hi
    have hle : lo ≤ hi := by cases uns <;> simp [← hlo, ← hhi]
    by_cases h1 : v < lo
    · simp [h1, FlagSet.invalid, max_eq_left (le_of_lt (lt_of_le_of_lt (min_le_right hi v) h1))]
    · by_cases h2 : hi < v
      · simp [h1, h2, FlagSet.invalid, min_eq_left (le_of_lt h2), max_eq_right hle]
      · simp [h1, h2, min_eq_right (not_lt.1 h2), max_eq_right (not_lt.1 h1)]

/-- PACK16's two conversions raise what their roundings raise. -/
theorem pack16Val_eq (bf : Bool) (mode : RMode) (a b : Word) : pack16Val bf mode a b =
    (let G := if bf then Fmt.bf16 else Fmt.fp16
     let lo := G.round mode false (Fmt.fp32.decode a.toNat)
     let hi := G.round mode false (Fmt.fp32.decode b.toNat)
     (BitVec.ofNat 32 (lo.1 + 65536 * hi.1), lo.2.or hi.2)) := by
  have hnan : (if bf then Fmt.bf16 else Fmt.fp16).nan = true := by cases bf <;> rfl
  simp only [pack16Val, asWord, round_or_snan hnan]

/-- Settles O16: each word's value is rewritten to what its entry gives, by what its operand is. -/
theorem conversions : Obligations.Conversions := by
  unfold Obligations.Conversions
  refine ⟨givesFloat_of (fun _ => rfl) rfl rfl fun _ _ _ => congrArg asWord (fscale_eq ..), givesFloat_of (fun _ => rfl) rfl rfl fun _ _ _ => frnd_eq ..,
    givesFloat_of (fun _ => rfl) rfl rfl fun c i hok => ?_, givesFloat_of (fun _ => rfl) rfl rfl fun _ _ _ => cvtfi_eq ..,
    givesFloat_of (fun _ => rfl) rfl rfl fun _ _ _ => rfl, givesFloat_of (fun _ => rfl) rfl rfl fun _ _ _ => pack16Val_eq ..⟩
  have hdst : c.mod / 16 % 4 = c.mod / 16 := Nat.mod_eq_of_lt (by have := hok.2; omega)
  rw [cvtfVal_eq, hdst]
  simp only [cvtFmt_eq]
  by_cases hsrc : c.mod / 4 % 4 = 0
  · simp only [hsrc, if_true]
    rfl
  · simp only [hsrc, if_false]
    rfl

end Sys2Proof.Machine

/-! FDOT2 and FDOT4 (R61, R63): what their products are, which flags they raise, and the outcome by the infinities and NaNs among them. -/

namespace Sys2Proof

/-! ### Flags together (R62) -/

theorem FlagSet.nv_or (a b : FlagSet) : (a.or b).nv = (a.nv || b.nv) := rfl

theorem FlagSet.nv_all (l : List FlagSet) : (FlagSet.all l).nv = l.any (·.nv) := by
  have fold (x : FlagSet) : (l.foldl FlagSet.or x).nv = (x.nv || l.any (·.nv)) := by
    induction l generalizing x with
    | nil => simp
    | cons f l ih => rw [List.foldl_cons, ih, FlagSet.nv_or, List.any_cons, Bool.or_assoc]
  exact fold _

theorem FlagSet.all_clear {l : List FlagSet} (h : ∀ f ∈ l, f = {}) : FlagSet.all l = {} := by
  have fold : ∀ {l : List FlagSet}, (∀ f ∈ l, f = {}) → ∀ x, l.foldl FlagSet.or x = x := by
    intro l hl x
    induction l with
    | nil => rfl
    | cons f l ih =>
      rw [List.foldl_cons, hl f (List.mem_cons_self ..), FlagSet.or_clear]
      exact ih fun g hg => hl g (List.mem_cons_of_mem _ hg)
  exact fold h _

/-! ### Products -/

/-- An infinity times a zero. -/
def FVal.Clash (x y : FVal) : Prop := (x.isInf = true ∧ y.isZero = true) ∨ (x.isZero = true ∧ y.isInf = true)

theorem FVal.mul_nan {x y : FVal} (h : (x.isNan || y.isNan) = true) : (x.mul y).1.isNan = true := by
  rw [FVal.mul, if_pos h]
  rfl

theorem FVal.isNan_of_isInf {x : FVal} (h : x.isInf = true) : x.isNan = false := by
  cases x with
  | nan n s f => cases h
  | inf n => rfl
  | fin n m e => rfl

theorem FVal.isNan_of_isZero {x : FVal} (h : x.isZero = true) : x.isNan = false := by
  cases x with
  | nan n s f => cases h
  | inf n => rfl
  | fin n m e => rfl

theorem FVal.isZero_of_isInf {x : FVal} (h : x.isInf = true) : x.isZero = false := by
  cases x with
  | nan n s f => cases h
  | inf n => rfl
  | fin n m e => cases h

theorem FVal.mul_clash {x y : FVal} (h : x.Clash y) : x.mul y = (.nan false false 0, FlagSet.invalid) := by
  rcases h with ⟨hx, hy⟩ | ⟨hx, hy⟩
  · simp [FVal.mul, isNan_of_isInf hx, isNan_of_isZero hy, hx, hy]
  · simp [FVal.mul, isNan_of_isZero hx, isNan_of_isInf hy, hx, hy]

theorem FVal.mul_inf {x y : FVal} (hnan : (x.isNan || y.isNan) = false) (hclash : ¬ x.Clash y) (h : (x.isInf || y.isInf) = true) :
    x.mul y = (.inf (x.isNeg != y.isNeg), {}) := by
  have hzero : (x.isZero || y.isZero) = false := by
    rcases Bool.or_eq_true_iff.1 h with hx | hy
    · rw [isZero_of_isInf hx, Bool.false_or]
      exact Bool.eq_false_iff.2 fun hy => hclash (.inl ⟨hx, hy⟩)
    · rw [isZero_of_isInf hy, Bool.or_false]
      exact Bool.eq_false_iff.2 fun hx => hclash (.inr ⟨hx, hy⟩)
  simp only [FVal.mul, hnan, h, hzero, if_true, Bool.false_eq_true, if_false]
  rfl

theorem FVal.mul_fin {x y : FVal} (hnan : (x.isNan || y.isNan) = false) (h : (x.isInf || y.isInf) = false) :
    x.mul y = (FVal.mulFin x y, {}) := by
  simp only [FVal.mul, hnan, h, Bool.false_eq_true, if_false]
  rfl

/-! ### The outcome by its terms -/

/-- The terms of a dot product: the products and the addend. -/
def dotTerms (ps : List (FVal × FVal)) (c : FVal) : List FVal := ps.map (fun p => (p.1.mul p.2).1) ++ [c]

/-- The flags of a dot product's operands and products. -/
def dotFlags (ps : List (FVal × FVal)) (c : FVal) : FlagSet :=
  FlagSet.all ({ nv := ps.any (fun p => p.1.isNan || p.2.isNan) || c.isSnan } :: ps.map (fun p => (p.1.mul p.2).2))

section

variable {mode : RMode} {ps : List (FVal × FVal)} {c : FVal}

theorem fdot_eq : fdot mode ps c =
    if (dotTerms ps c).any FVal.isNan then (0x7FC00000, dotFlags ps c)
    else
      let infs := (dotTerms ps c).filter FVal.isInf
      if infs.any FVal.isNeg && infs.any (fun v => !v.isNeg) then (0x7FC00000, (dotFlags ps c).or FlagSet.invalid)
      else if infs ≠ [] then (BitVec.ofNat 32 (Fmt.fp32.infCode + (if infs.any FVal.isNeg then Fmt.fp32.signBit else 0)), dotFlags ps c)
      else
        let x := Fmt.fp32.round mode false (sumFin (dotTerms ps c))
        (BitVec.ofNat 32 x.1, (dotFlags ps c).or x.2) := by
  simp only [fdot, List.map_map, Function.comp_def]
  rfl

theorem mem_infs_neg (n : Bool) (l : List FVal) : ((l.filter FVal.isInf).any (fun v => v.isNeg == n)) = true ↔ FVal.inf n ∈ l := by
  simp only [List.any_eq_true, List.mem_filter, beq_iff_eq]
  constructor
  · rintro ⟨x, ⟨hx, hinf⟩, hneg⟩
    cases x with
    | inf m => exact hneg ▸ hx
    | nan n s f => cases hinf
    | fin n m e => cases hinf
  · exact fun h => ⟨_, ⟨h, rfl⟩, rfl⟩

theorem infs_neg (l : List FVal) : (l.filter FVal.isInf).any FVal.isNeg = true ↔ FVal.inf true ∈ l := by
  rw [← mem_infs_neg]
  simp

theorem infs_pos (l : List FVal) : (l.filter FVal.isInf).any (fun v => !v.isNeg) = true ↔ FVal.inf false ∈ l := by
  rw [← mem_infs_neg]
  simp

theorem fdot_nv (h : (dotFlags ps c).nv = true) : (fdot mode ps c).2.nv = true := by
  rw [fdot_eq]
  split
  · exact h
  · simp only
    split
    · rw [FlagSet.nv_or, h]; rfl
    · split
      · exact h
      · rw [FlagSet.nv_or, h]; rfl

theorem fdot_of_nan (h : (dotTerms ps c).any FVal.isNan = true) : (fdot mode ps c).1 = 0x7FC00000 := by
  rw [fdot_eq, if_pos h]

theorem fdot_of_opposite (hnan : (dotTerms ps c).any FVal.isNan = false) (hneg : .inf true ∈ dotTerms ps c) (hpos : .inf false ∈ dotTerms ps c) :
    fdot mode ps c = (0x7FC00000, (dotFlags ps c).or FlagSet.invalid) := by
  rw [fdot_eq, hnan, if_neg Bool.false_ne_true]
  simp only [(infs_neg _).2 hneg, (infs_pos _).2 hpos, Bool.and_self, if_true]

theorem fdot_of_inf {n : Bool} (hnan : (dotTerms ps c).any FVal.isNan = false) (h : .inf n ∈ dotTerms ps c) (hother : .inf (!n) ∉ dotTerms ps c) :
    fdot mode ps c = (if n then 0xFF800000 else 0x7F800000, dotFlags ps c) := by
  have hsome : (dotTerms ps c).filter FVal.isInf ≠ [] := List.ne_nil_of_mem (List.mem_filter.2 ⟨h, rfl⟩)
  rw [fdot_eq, hnan, if_neg Bool.false_ne_true]
  cases n with
  | true =>
    have hpos : ((dotTerms ps c).filter FVal.isInf).any (fun v => !v.isNeg) = false := Bool.eq_false_iff.2 fun hp => hother ((infs_pos _).1 hp)
    simp only [(infs_neg _).2 h, hpos, Bool.and_false, Bool.false_eq_true, if_false, ne_eq, hsome, not_false_eq_true, if_true]
    rfl
  | false =>
    have hneg : ((dotTerms ps c).filter FVal.isInf).any FVal.isNeg = false := Bool.eq_false_iff.2 fun hp => hother ((infs_neg _).1 hp)
    simp only [hneg, Bool.false_and, Bool.false_eq_true, if_false, ne_eq, hsome, not_false_eq_true, if_true]
    rfl

theorem fdot_of_fin (hnan : (dotTerms ps c).any FVal.isNan = false) (hinf : ∀ x ∈ dotTerms ps c, x.isInf = false) :
    fdot mode ps c = (BitVec.ofNat 32 (Fmt.fp32.round mode false (sumFin (dotTerms ps c))).1,
      (dotFlags ps c).or (Fmt.fp32.round mode false (sumFin (dotTerms ps c))).2) := by
  have hnone : (dotTerms ps c).filter FVal.isInf = [] := List.filter_eq_nil_iff.2 fun x hx => by simp [hinf x hx]
  rw [fdot_eq, hnan, if_neg Bool.false_ne_true]
  simp only [hnone, List.any_nil, Bool.and_self, Bool.false_eq_true, if_false, ne_eq, not_true_eq_false]

/-! ### The operands of a dot product -/

/-- Every value that enters a dot product. -/
def dotVals (ps : List (FVal × FVal)) (c : FVal) : List FVal := c :: (ps.map Prod.fst ++ ps.map Prod.snd)

/-- No operand is a NaN and no product an infinity times a zero. -/
structure DotClean (ps : List (FVal × FVal)) (c : FVal) : Prop where
  pair  : ∀ p ∈ ps, (p.1.isNan || p.2.isNan) = false
  last  : c.isNan = false
  clash : ∀ p ∈ ps, ¬ p.1.Clash p.2

theorem pair_of_vals {q : FVal → Bool} (h : (dotVals ps c).any q = false) : (∀ p ∈ ps, (q p.1 || q p.2) = false) ∧ q c = false := by
  simp only [dotVals, List.any_eq_false, List.mem_cons, List.mem_append, List.mem_map] at h
  refine ⟨fun p hp => ?_, by simpa using h c (.inl rfl)⟩
  have h1 := h p.1 (.inr (.inl ⟨p, hp, rfl⟩))
  have h2 := h p.2 (.inr (.inr ⟨p, hp, rfl⟩))
  rw [Bool.not_eq_true] at h1 h2
  rw [h1, h2]
  rfl

theorem dotClean_of (hnan : (dotVals ps c).any FVal.isNan = false) (hclash : ∀ p ∈ ps, ¬ p.1.Clash p.2) : DotClean ps c :=
  ⟨(pair_of_vals hnan).1, (pair_of_vals hnan).2, hclash⟩

/-- The product of a pair that is no NaN and no clash. -/
theorem DotClean.mul (h : DotClean ps c) {p : FVal × FVal} (hp : p ∈ ps) : p.1.mul p.2 =
    (if p.1.isInf || p.2.isInf then .inf (p.1.isNeg != p.2.isNeg) else FVal.mulFin p.1 p.2, {}) := by
  split
  · next hinf => exact FVal.mul_inf (h.pair p hp) (h.clash p hp) hinf
  · next hinf => exact FVal.mul_fin (h.pair p hp) (Bool.eq_false_iff.2 hinf)

theorem DotClean.noNan (h : DotClean ps c) : (dotTerms ps c).any FVal.isNan = false := by
  simp only [dotTerms, List.any_eq_false, List.mem_append, List.mem_map, List.mem_singleton]
  rintro x (⟨p, hp, rfl⟩ | rfl)
  · rw [h.mul hp]
    split <;> simp [FVal.isNan, FVal.mulFin]
  · simp [h.last]

theorem DotClean.noFlags (h : DotClean ps c) : dotFlags ps c = {} := by
  refine FlagSet.all_clear fun f hf => ?_
  rcases List.mem_cons.1 hf with rfl | hf
  · have hbad : ps.any (fun p => p.1.isNan || p.2.isNan) = false := List.any_eq_false.2 fun p hp => by simp [h.pair p hp]
    rw [hbad, FVal.isSnan_of_not_nan h.last]
    rfl
  · obtain ⟨p, hp, rfl⟩ := List.mem_map.1 hf
    rw [h.mul hp]

/-- The signs of the infinities among the products and the addend. -/
def dotSigns (ps : List (FVal × FVal)) (c : FVal) : List Bool :=
  ((ps.filter (fun p => p.1.isInf || p.2.isInf)).map (fun p => p.1.isNeg != p.2.isNeg)) ++ (if c.isInf then [c.isNeg] else [])

theorem DotClean.inf_mem (h : DotClean ps c) (n : Bool) : .inf n ∈ dotTerms ps c ↔ n ∈ dotSigns ps c := by
  have hlast : .inf n = c ↔ n ∈ (if c.isInf then [c.isNeg] else []) := by
    cases c <;> simp [FVal.isInf, FVal.isNeg]
  simp only [dotTerms, dotSigns, List.mem_append, List.mem_singleton, List.mem_map, List.mem_filter, hlast]
  refine or_congr_left ⟨fun ⟨p, hp, heq⟩ => ⟨p, ⟨hp, ?_⟩, ?_⟩, fun ⟨p, ⟨hp, hinf⟩, heq⟩ => ⟨p, hp, ?_⟩⟩
  · rw [h.mul hp] at heq
    exact by_contra fun hinf => by simp [hinf, FVal.mulFin] at heq
  · rw [h.mul hp] at heq
    split at heq
    · exact FVal.inf.inj heq
    · simp [FVal.mulFin] at heq
  · rw [h.mul hp, if_pos hinf, heq]

/-! ### The statement's clauses -/

/-- A NaN among the operands gives the canonical NaN, with NV but where the addend alone is a quiet NaN. -/
theorem fdot_nan (h : (dotVals ps c).any FVal.isNan = true) : (fdot mode ps c).1 = 0x7FC00000 ∧
    (c.isSnan = true ∨ ps.any (fun p => p.1.isNan || p.2.isNan) = true → (fdot mode ps c).2.nv = true) := by
  refine ⟨fdot_of_nan ?_, fun hnv => fdot_nv ?_⟩
  · simp only [dotVals, List.any_eq_true, List.mem_cons, List.mem_append, List.mem_map] at h
    simp only [dotTerms, List.any_eq_true, List.mem_append, List.mem_map, List.mem_singleton]
    obtain ⟨x, rfl | ⟨p, hp, rfl⟩ | ⟨p, hp, rfl⟩, hx⟩ := h
    · exact ⟨x, .inr rfl, hx⟩
    · exact ⟨_, .inl ⟨p, hp, rfl⟩, FVal.mul_nan (by rw [hx, Bool.true_or])⟩
    · exact ⟨_, .inl ⟨p, hp, rfl⟩, FVal.mul_nan (by rw [hx, Bool.or_true])⟩
  · rw [dotFlags, FlagSet.nv_all, List.any_cons]
    rcases hnv with hnv | hnv <;> simp [hnv]

/-- An infinity times zero gives the canonical NaN with NV. -/
theorem fdot_clash (h : ∃ p ∈ ps, p.1.Clash p.2) : (fdot mode ps c).1 = 0x7FC00000 ∧ (fdot mode ps c).2.nv = true := by
  obtain ⟨p, hp, hclash⟩ := h
  refine ⟨fdot_of_nan ?_, fdot_nv ?_⟩
  · refine List.any_eq_true.2 ⟨_, List.mem_append_left _ (List.mem_map_of_mem hp), ?_⟩
    rw [FVal.mul_clash hclash]
    rfl
  · rw [dotFlags, FlagSet.nv_all, List.any_eq_true]
    refine ⟨_, List.mem_cons_of_mem _ (List.mem_map_of_mem hp), ?_⟩
    rw [FVal.mul_clash hclash]
    rfl

/-- Infinities of opposite sign give the canonical NaN with NV; those of one sign that infinity with no flag. -/
theorem fdot_signs (hnan : (dotVals ps c).any FVal.isNan = false) (hclash : ∀ p ∈ ps, ¬ p.1.Clash p.2) :
    (true ∈ dotSigns ps c → false ∈ dotSigns ps c → (fdot mode ps c).1 = 0x7FC00000 ∧ (fdot mode ps c).2.nv = true) ∧
      (true ∈ dotSigns ps c → false ∉ dotSigns ps c → fdot mode ps c = (0xFF800000, {})) ∧
      (false ∈ dotSigns ps c → true ∉ dotSigns ps c → fdot mode ps c = (0x7F800000, {})) := by
  have h := dotClean_of hnan hclash
  simp only [← h.inf_mem]
  refine ⟨fun hneg hpos => ?_, fun hneg hpos => ?_, fun hpos hneg => ?_⟩
  · rw [fdot_of_opposite h.noNan hneg hpos, FlagSet.nv_or]
    exact ⟨rfl, Bool.or_true _⟩
  · rw [fdot_of_inf h.noNan hneg hpos, h.noFlags]
    rfl
  · rw [fdot_of_inf h.noNan hpos hneg, h.noFlags]
    rfl

/-- Finite operands give the exact sum of the exact products and the addend, rounded once. -/
theorem fdot_finite (h : (dotVals ps c).all (fun v => !v.isNan && !v.isInf) = true) : fdot mode ps c =
    (let x := Fmt.fp32.round mode false ((ps.map (fun p => FVal.mulFin p.1 p.2) ++ [c]).foldl (FVal.addFin .rne) (.fin false 0 0))
     (BitVec.ofNat 32 x.1, x.2)) := by
  simp only [List.all_eq_true, Bool.and_eq_true, Bool.not_eq_true'] at h
  have hnan : (dotVals ps c).any FVal.isNan = false := List.any_eq_false.2 fun v hv => by simp [(h v hv).1]
  have hnoinf : (dotVals ps c).any FVal.isInf = false := List.any_eq_false.2 fun v hv => by simp [(h v hv).2]
  obtain ⟨hpair, hlast⟩ := pair_of_vals hnoinf
  have hclean : DotClean ps c := dotClean_of hnan fun p hp hclash => by
    have := hpair p hp
    rcases hclash with ⟨hinf, -⟩ | ⟨-, hinf⟩ <;> simp [hinf] at this
  have hterms : dotTerms ps c = ps.map (fun p => FVal.mulFin p.1 p.2) ++ [c] := by
    rw [dotTerms, List.map_congr_left fun p hp => by rw [hclean.mul hp, hpair p hp, if_neg Bool.false_ne_true]]
  have hinf : ∀ x ∈ dotTerms ps c, x.isInf = false := by
    rw [hterms]
    intro x hx
    rcases List.mem_append.1 hx with hx | hx
    · obtain ⟨p, -, rfl⟩ := List.mem_map.1 hx
      rfl
    · rw [List.mem_singleton.1 hx, hlast]
  rw [fdot_of_fin hclean.noNan hinf, hclean.noFlags, hterms]
  exact congrArg (Prod.mk _) (FlagSet.none_or _)

end

end Sys2Proof

namespace Sys2Proof.Machine

/-- The elements of two words, paired. -/
theorem elemPairs_eq (F G : Fmt) (n : Nat) (a b : Word) : elemPairs F G n a b =
    ((List.range n).map (fun j => F.decode (a.toNat / 2 ^ (F.width * j) % 2 ^ F.width))).zip
      ((List.range n).map (fun j => G.decode (b.toNat / 2 ^ (G.width * j) % 2 ^ G.width))) := by
  simp only [elemPairs, List.zip_map', BitVec.extractLsb'_toNat, Nat.shiftRight_eq_div_pow]

/-- Settles O18: the outcome of `fdot` by its operands, for the elements of each form. -/
theorem dotProducts : Obligations.DotProducts := by
  unfold Obligations.DotProducts
  intro result elems
  have hresult (mode : RMode) (ps : List (FVal × FVal)) (c : FVal) : result mode ps c (fdot mode ps c) :=
    ⟨fdot_nan, fdot_clash, fdot_signs, fdot_finite⟩
  refine ⟨⟨_, givesFloat_of (fun _ => rfl) rfl rfl fun _ _ _ => rfl, fun c i => ?_⟩,
    ⟨_, givesFloat_of (fun _ => rfl) rfl rfl fun _ _ _ => rfl, fun c i => ?_⟩⟩
  · simp only [elemPairs_eq]
    exact hresult ..
  · simp only [elemPairs_eq]
    exact hresult ..

end Sys2Proof.Machine

/-! CMPX reads its partner's A through A's pattern (R32, R33, R215): a poisoned register that only the partner's pattern reaches kills the
warp (R340, R341). -/

namespace Sys2Proof.Machine

/-! ### A word that consumes poison -/

/-- An instruction that has nothing of its own but the poison that it consumes stops there, and has no effect. -/
theorem issue_poisoned {c : Ctx} {bad : Ctx → Option (Nat × DWord × Option Nat)} {eff : Ctx → State} (hc : c.Clear) {lane : Nat} {va : DWord}
    {pa : Option Nat} (hbad : bad c = some (lane, va, pa)) : c.issue { bad := bad, eff := eff } = c.poisoned lane va pa := by
  simp only [Ctx.issue, hc.noSkip, hc.slices, if_false, hc.landed, hc.early, Bool.not_true, Bool.false_and, Bool.false_eq_true, hc.clean,
    Ctx.disallow, if_true, Ctx.perform, hc.uniFaults, List.append_nil, latch_nil, faultMask_nil, keep_mask, ite_self, deadly_nil,
    Option.isSome_none, hbad]

/-- Where no continuation holds the poison for its verdict, the warp that consumes it is killed. -/
theorem poisoned_kills {c : Ctx} (hfork : c.fork? = none) (h : Lone c.s c.k c.W) (halive : c.W.ended = false) (lane : Nat) (va : DWord) :
    ((c.poisoned lane va none).warp c.k).killed = true := by
  obtain ⟨V, hV, hkilled, -⟩ := (h.kill_self halive 0x102 lane va 0).warp
  rw [Ctx.poisoned, hfork]
  simp only [State.killPoison, ite_self]
  rw [warp_of_find hV, hkilled]

/-- A warp that has its result is killed only where it was before. -/
theorem Ctx.Wrote.killed {c : Ctx} {t : State} {lat r n : Nat} {f : Nat → Nat → Word} {flags : Word} (h : c.Wrote t lat r n f flags) :
    (t.warp c.k).killed = c.W.killed := by
  obtain ⟨l, hl⟩ := h.warp
  rw [warp_of_find hl]
  rfl

/-! ### The counterexample -/

/-- `CMPX v1, v2, 1` whose A takes its lane's value from the next lane (pattern 1 with k = 1). -/
def rotatedCmpx : Fields := {
  mod := 0, gr := 0, gs := false, ge := false, stall := 1, d := 1
  a := { reg := 2, pat := 1, k := 1 }, b := { reg := 1, pat := 6, k := 0 }, c := .zero, ext := 0, imm := 0 }

/-- It is a well-formed word: CMPX's A may have a pattern, where SHFL's may not (R212). -/
theorem rotatedCmpx_wf : (Instr.cmpx rotatedCmpx).wf = true := by decide

/-- A warp about to issue, of which lane 0 alone is active; register 2 of lane 2 is poisoned. -/
def poisonedNeighbour : State := State.reset.withBareGang.modWarp 1 (fun W =>
  { W with cnt := (List.range 31).map (fun i => (i + 1, 1)), poison := [(2 * 64 + 2, true)] })

/-- Its gang. -/
def neighbourGang : Issue := ⟨1, 0xFF, 0x10000⟩

/-- The context in which CMPX issues there. -/
def neighbourCtx : Ctx := poisonedNeighbour.issued neighbourGang .cmpx .l96 rotatedCmpx

theorem neighbourCtx_clear : neighbourCtx.Clear where
  listed := rfl
  slices := by decide
  noSkip := rfl
  landed := by decide
  notEarly h := absurd h (by decide)
  uniform h := absurd h (by decide)
  clean := by decide

/-- The partner is lane 1, whose own register is sound; what its pattern reads is lane 2's. -/
theorem neighbourCtx_bad : kitCmpx.bad neighbourCtx = some (0, 0, none) := by decide

theorem neighbourCtx_lone : Lone neighbourCtx.s neighbourCtx.k neighbourCtx.W where
  listed := rfl
  twins := by unfold State.noTwins; decide
  redund := by unfold State.noRedund; decide

/-- Refutes O21: the clause of CMPX asks that no acting lane's partner holds poison in its own lane of A's register. But both values
go through A's pattern (R32, R33): under the rotation by one, lane 0 reads lane 1 for itself and lane 2 for its partner, lane 1. Lane 2's
register is poisoned, which the clause lets pass, and CMPX consumes it: the warp is killed (R340, R341), where the clause asks that
it goes on with a result. -/
theorem not_laneTrees : ¬ Obligations.LaneTrees := by
  unfold Obligations.LaneTrees
  rintro ⟨⟨v, hcmpx, -⟩, -⟩
  have hpremise : ∀ i ∈ neighbourCtx.lanes, mfind neighbourCtx.W.poison
      (neighbourCtx.w.a.reg.toNat * 64 + (i ^^^ ((neighbourCtx.b i).toNat % neighbourCtx.W.width))) = none := by decide
  obtain ⟨t, ht, hwrote⟩ := hcmpx poisonedNeighbour neighbourGang rotatedCmpx rfl neighbourCtx_clear hpremise
  have hissue : neighbourCtx.issue kitCmpx = neighbourCtx.poisoned 0 0 none := issue_poisoned neighbourCtx_clear neighbourCtx_bad
  have hexec : exec (.cmpx rotatedCmpx) poisonedNeighbour = .next (neighbourCtx.poisoned 0 0 none) := by
    rw [← hissue]
    exact exec_word_next rfl rfl
  rw [hexec] at ht
  cases ht
  have hkilled := poisoned_kills (c := neighbourCtx) (by decide) neighbourCtx_lone rfl 0 0
  exact absurd (hkilled.symm.trans hwrote.killed) (by decide)

end Sys2Proof.Machine

/-! The rationals that finite values stand for: sums, products, order and scaling (R63). -/

namespace Sys2Proof

/-- The rational that a finite value stands for. -/
def FVal.rat (x : FVal) : Rat := x.sm * (2 : Rat) ^ x.ex

namespace FVal

theorem rat_ofInt (z : Bool) (m e : Int) : (ofInt z m e).rat = m * (2 : Rat) ^ e := by
  unfold ofInt
  split
  · next h => simp [rat, sm, h]
  · next h =>
    have hsm : (fin (m < 0) m.natAbs e).sm = m := by
      simp only [sm, decide_eq_true_eq]
      split <;> omega
    rw [rat, hsm]
    rfl

/-- A mantissa brought to a smaller exponent. -/
theorem shift_rat (m : Int) {e k : Int} (h : e ≤ k) : ((m * 2 ^ (k - e).toNat : Int) : Rat) * (2 : Rat) ^ e = m * (2 : Rat) ^ k := by
  have hpow : ((2 : Rat) ^ (k - e).toNat) * (2 : Rat) ^ e = (2 : Rat) ^ k := by
    rw [← zpow_natCast, ← zpow_add₀ (by norm_num), Int.toNat_of_nonneg (by omega)]
    congr 1
    omega
  push_cast
  rw [mul_assoc, hpow]

theorem rat_addFin (mode : RMode) (x y : FVal) : (addFin mode x y).rat = x.rat + y.rat := by
  rw [addFin, rat_ofInt, Int.cast_add, add_mul, shift_rat _ (min_le_left _ _), shift_rat _ (min_le_right _ _)]
  rfl

theorem sm_mulFin (n n' : Bool) (m m' : Nat) (e e' : Int) : (mulFin (fin n m e) (fin n' m' e')).sm = (fin n m e).sm * (fin n' m' e').sm := by
  cases n <;> cases n' <;> simp [mulFin, sm, isNeg]

theorem rat_mulFin (n n' : Bool) (m m' : Nat) (e e' : Int) : (mulFin (fin n m e) (fin n' m' e')).rat = (fin n m e).rat * (fin n' m' e').rat := by
  have hpow : (2 : Rat) ^ (e + e') = (2 : Rat) ^ e * (2 : Rat) ^ e' := zpow_add₀ (by norm_num) _ _
  rw [rat, sm_mulFin, Int.cast_mul]
  show _ * (2 : Rat) ^ (e + e') = _
  rw [hpow]
  exact mul_mul_mul_comm ..

theorem lt_iff (n n' : Bool) (m m' : Nat) (e e' : Int) : (fin n m e).lt (fin n' m' e') = true ↔ (fin n m e).rat < (fin n' m' e').rat := by
  have hpos : (0 : Rat) < (2 : Rat) ^ (min e e') := zpow_pos (by norm_num) _
  have hx : (fin n m e).rat = _ := (shift_rat (fin n m e).sm (min_le_left e e')).symm
  have hy : (fin n' m' e').rat = _ := (shift_rat (fin n' m' e').sm (min_le_right e e')).symm
  rw [hx, hy, mul_lt_mul_iff_left₀ hpos, Int.cast_lt]
  exact decide_eq_true_iff

theorem eq_iff (n n' : Bool) (m m' : Nat) (e e' : Int) : (fin n m e).eq (fin n' m' e') = true ↔ (fin n m e).rat = (fin n' m' e').rat := by
  simp only [eq, Bool.and_eq_true, Bool.not_eq_true', ← Bool.not_eq_true, lt_iff, not_lt]
  exact ⟨fun ⟨h1, h2⟩ => le_antisymm h2 h1, fun h => ⟨h.ge, h.le⟩⟩

theorem rat_scale (n : Bool) (m : Nat) (e k : Int) : ((fin n m e).scale k).rat = (fin n m e).rat * (2 : Rat) ^ k := by
  have hpow : (2 : Rat) ^ (e + k) = (2 : Rat) ^ e * (2 : Rat) ^ k := zpow_add₀ (by norm_num) _ _
  show _ * (2 : Rat) ^ (e + k) = _ * (2 : Rat) ^ e * _
  rw [hpow, mul_assoc]
  rfl

end FVal

end Sys2Proof

/-! The codes of a format (R49): what each stands for, and the grid of magnitudes that the codes without their sign form. -/

namespace Sys2Proof

/-! ### Signs -/

/-- A sign as a factor. -/
def sgn (n : Bool) : Rat := if n then -1 else 1

theorem sgn_false : sgn false = 1 := rfl

theorem sgn_true : sgn true = -1 := rfl

theorem abs_sgn (n : Bool) (x : Rat) : |sgn n * x| = |x| := by
  cases n <;> simp [sgn]

theorem sgn_sub_sgn (n : Bool) (x y : Rat) : |sgn n * x - sgn n * y| = |x - y| := by
  rw [← mul_sub, abs_sgn]

theorem sgn_sgn (n : Bool) (x : Rat) : sgn n * (sgn n * x) = x := by
  cases n <;> simp [sgn]

theorem sgn_sub (n : Bool) (x z : Rat) : |sgn n * x - z| = |x - sgn n * z| := by
  rw [← abs_sgn n (x - sgn n * z), mul_sub, sgn_sgn]

theorem eq_sgn (n : Bool) {z y : Rat} : sgn n * z = y ↔ z = sgn n * y :=
  ⟨fun h => by rw [← h, sgn_sgn], fun h => by rw [h, sgn_sgn]⟩

theorem sgn_inj (n : Bool) {x y : Rat} : sgn n * x = sgn n * y ↔ x = y := by
  rw [eq_sgn, sgn_sgn]

theorem FVal.rat_fin (n : Bool) (m : Nat) (e : Int) : (FVal.fin n m e).rat = sgn n * (m * (2 : Rat) ^ e) := by
  cases n <;> simp [FVal.rat, FVal.sm, FVal.ex, sgn]

/-! ### Formats -/

/-- Neither a NaN nor an infinity. -/
def FVal.Finite (x : FVal) : Prop := x.isNan = false ∧ x.isInf = false

/-- A format with its row of Table 1: bits of exponent and fraction, bias, and whether it has infinities. E4M3 alone has a NaN and no infinity. -/
structure Fmt.Row (F : Fmt) (eb fb bias : Nat) (special : Bool) : Prop where
  ebits : F.ebits = eb
  fbits : F.fbits = fb
  bias  : F.bias = bias
  inf   : F.inf = special
  exps  : 1 ≤ eb
  frac  : 1 ≤ fb
  e4m3  : eb = 4 ↔ special = false ∧ F.nan = true
  three : eb = 4 → fb = 3

namespace Fmt

variable {F : Fmt}

/-! ### What a code stands for -/

/-- What a sign, an exponent field and a fraction field stand for. -/
def parts (F : Fmt) (n : Bool) (e f : Nat) : FVal :=
  if F.inf && e == F.emax then (if f = 0 then .inf n else .nan n (f < 2 ^ (F.fbits - 1)) f)
  else if !F.inf && F.nan && e == F.emax && f == 2 ^ F.fbits - 1 then .nan n false f
  else if e = 0 then .fin n f (1 - (F.bias : Int) - F.fbits)
  else .fin n (f + 2 ^ F.fbits) ((e : Int) - F.bias - F.fbits)

theorem decode_parts (F : Fmt) (code : Nat) : F.decode code =
    F.parts (code / F.signBit % 2 = 1) (code / 2 ^ F.fbits % 2 ^ F.ebits) (code % 2 ^ F.fbits) := rfl

/-- The fields of a NaN. -/
def NanFields (F : Fmt) (e f : Nat) : Prop :=
  e = F.emax ∧ ((F.inf = true ∧ f ≠ 0) ∨ (F.inf = false ∧ F.nan = true ∧ f = 2 ^ F.fbits - 1))

/-- The fields of an infinity. -/
def InfFields (F : Fmt) (e f : Nat) : Prop := F.inf = true ∧ e = F.emax ∧ f = 0

theorem parts_nan {n : Bool} {e f : Nat} (h : F.NanFields e f) :
    F.parts n e f = .nan n (F.inf && decide (f < 2 ^ (F.fbits - 1))) f := by
  obtain ⟨rfl, ⟨hinf, hf⟩ | ⟨hinf, hnan, rfl⟩⟩ := h
  · simp [parts, hinf, hf]
  · simp [parts, hinf, hnan]

theorem parts_inf {n : Bool} {e f : Nat} (h : F.InfFields e f) : F.parts n e f = .inf n := by
  obtain ⟨hinf, rfl, rfl⟩ := h
  simp [parts, hinf]

theorem parts_fin {n : Bool} {e f : Nat} (hnan : ¬ F.NanFields e f) (hinf : ¬ F.InfFields e f) : F.parts n e f =
    if e = 0 then .fin n f (1 - (F.bias : Int) - F.fbits) else .fin n (f + 2 ^ F.fbits) ((e : Int) - F.bias - F.fbits) := by
  unfold parts
  rw [if_neg, if_neg]
  · simp only [Bool.and_eq_true, Bool.not_eq_true', beq_iff_eq]
    rintro ⟨⟨⟨hi, hn⟩, he⟩, hf⟩
    exact hnan ⟨he, .inr ⟨hi, hn, hf⟩⟩
  · simp only [Bool.and_eq_true, beq_iff_eq]
    rintro ⟨hi, he⟩
    by_cases hf : f = 0
    · exact hinf ⟨hi, he, hf⟩
    · exact hnan ⟨he, .inl ⟨hi, hf⟩⟩

/-- Fields are those of a NaN, of an infinity or of a number. -/
theorem parts_cases (F : Fmt) (n : Bool) (e f : Nat) :
    (F.NanFields e f ∧ ¬ F.InfFields e f ∧ F.parts n e f = .nan n (F.inf && decide (f < 2 ^ (F.fbits - 1))) f) ∨
    (¬ F.NanFields e f ∧ F.InfFields e f ∧ F.parts n e f = .inf n) ∨
    (¬ F.NanFields e f ∧ ¬ F.InfFields e f ∧ F.parts n e f =
      if e = 0 then .fin n f (1 - (F.bias : Int) - F.fbits) else .fin n (f + 2 ^ F.fbits) ((e : Int) - F.bias - F.fbits)) := by
  by_cases hinf : F.InfFields e f
  · have hnan : ¬ F.NanFields e f := by
      rintro ⟨-, ⟨-, hf⟩ | ⟨hi, -⟩⟩
      · exact hf hinf.2.2
      · rw [hinf.1] at hi
        cases hi
    exact .inr (.inl ⟨hnan, hinf, parts_inf hinf⟩)
  · by_cases hnan : F.NanFields e f
    · exact .inl ⟨hnan, hinf, parts_nan hnan⟩
    · exact .inr (.inr ⟨hnan, hinf, parts_fin hnan hinf⟩)

theorem parts_isNan (n : Bool) (e f : Nat) : (F.parts n e f).isNan = true ↔ F.NanFields e f := by
  obtain ⟨hnan, -, hparts⟩ | ⟨hnan, -, hparts⟩ | ⟨hnan, -, hparts⟩ := F.parts_cases n e f
  · simp [hparts, hnan, FVal.isNan]
  · simp [hparts, hnan, FVal.isNan]
  · rw [hparts]
    split <;> simp [hnan, FVal.isNan]

theorem parts_isInf (n : Bool) (e f : Nat) : (F.parts n e f).isInf = true ↔ F.InfFields e f := by
  obtain ⟨-, hinf, hparts⟩ | ⟨-, hinf, hparts⟩ | ⟨-, hinf, hparts⟩ := F.parts_cases n e f
  · simp [hparts, hinf, FVal.isInf]
  · simp [hparts, hinf, FVal.isInf]
  · rw [hparts]
    split <;> simp [hinf, FVal.isInf]

theorem parts_isNeg (n : Bool) (e f : Nat) : (F.parts n e f).isNeg = n := by
  obtain ⟨-, -, hparts⟩ | ⟨-, -, hparts⟩ | ⟨-, -, hparts⟩ := F.parts_cases n e f
  · rw [hparts]; rfl
  · rw [hparts]; rfl
  · rw [hparts]
    split <;> rfl

theorem parts_isSnan (hinf : F.inf = true) (n : Bool) (e f : Nat) :
    (F.parts n e f).isSnan = true ↔ F.NanFields e f ∧ f < 2 ^ (F.fbits - 1) := by
  obtain ⟨hnan, -, hparts⟩ | ⟨hnan, -, hparts⟩ | ⟨hnan, -, hparts⟩ := F.parts_cases n e f
  · simp [hparts, hnan, hinf, FVal.isSnan]
  · simp [hparts, hnan, FVal.isSnan]
  · rw [hparts]
    split <;> simp [hnan, FVal.isSnan]

theorem parts_finite (n : Bool) (e f : Nat) : (F.parts n e f).Finite ↔ ¬ F.NanFields e f ∧ ¬ F.InfFields e f := by
  rw [FVal.Finite, Bool.eq_false_iff, Bool.eq_false_iff, Ne, Ne, parts_isNan, parts_isInf]

/-- The rational of a number's fields (R49). -/
theorem parts_rat {n : Bool} {e f : Nat} (h : (F.parts n e f).Finite) : (F.parts n e f).rat = sgn n *
    (if e = 0 then (f : Rat) * 2 ^ (1 - (F.bias : Int) - F.fbits) else (2 ^ F.fbits + f : Rat) * 2 ^ ((e : Int) - F.bias - F.fbits)) := by
  obtain ⟨hnan, hinf⟩ := (parts_finite n e f).1 h
  rw [parts_fin hnan hinf]
  split
  · rw [FVal.rat_fin]
  · rw [FVal.rat_fin]
    push_cast
    rw [add_comm (f : Rat)]

/-- The sign bit of a code. -/
theorem sign_iff {code : Nat} (h : code < 2 ^ (F.ebits + F.fbits + 1)) :
    decide (code / F.signBit % 2 = 1) = true ↔ 2 ^ (F.ebits + F.fbits) ≤ code := by
  have hpos : 0 < 2 ^ (F.ebits + F.fbits) := Nat.two_pow_pos _
  have hlt : code / 2 ^ (F.ebits + F.fbits) < 2 := Nat.div_lt_of_lt_mul (by rw [← pow_succ]; exact h)
  have hle : 1 ≤ code / 2 ^ (F.ebits + F.fbits) ↔ 2 ^ (F.ebits + F.fbits) ≤ code := by
    rw [Nat.le_div_iff_mul_le hpos, one_mul]
  rw [decide_eq_true_iff, ← hle, signBit]
  generalize code / 2 ^ (F.ebits + F.fbits) = q at hlt
  omega

/-- The NaNs of Table 1. -/
theorem Row.nanFields {eb fb bias : Nat} {special : Bool} (h : F.Row eb fb bias special) (e f : Nat) : F.NanFields e f ↔
    (special = true ∧ e = 2 ^ eb - 1 ∧ f ≠ 0) ∨ (eb = 4 ∧ e = 15 ∧ f = 7) := by
  obtain ⟨rfl, rfl, rfl, rfl, -, -, he4m3, hthree⟩ := h
  unfold NanFields
  constructor
  · rintro ⟨rfl, ⟨hinf, hf⟩ | ⟨hinf, hnan, rfl⟩⟩
    · exact .inl ⟨hinf, rfl, hf⟩
    · have hfour := he4m3.2 ⟨hinf, hnan⟩
      exact .inr ⟨hfour, by rw [emax, hfour]; rfl, by rw [hthree hfour]; rfl⟩
  · rintro (⟨hinf, he, hf⟩ | ⟨hfour, rfl, rfl⟩)
    · exact ⟨he, .inl ⟨hinf, hf⟩⟩
    · obtain ⟨hinf, hnan⟩ := he4m3.1 hfour
      exact ⟨by rw [emax, hfour]; rfl, .inr ⟨hinf, hnan, by rw [hthree hfour]; rfl⟩⟩

theorem Row.infFields {eb fb bias : Nat} {special : Bool} (h : F.Row eb fb bias special) (e f : Nat) : F.InfFields e f ↔
    special = true ∧ e = 2 ^ eb - 1 ∧ f = 0 := by
  obtain ⟨rfl, rfl, rfl, rfl, -⟩ := h
  exact Iff.rfl

/-- What a code stands for, by its fields (R49). -/
theorem Row.decode {eb fb bias : Nat} {special : Bool} (h : F.Row eb fb bias special) {code : Nat} (hcode : code < 2 ^ (eb + fb + 1)) :
    let f : Nat := code % 2 ^ fb
    let e : Nat := code / 2 ^ fb % 2 ^ eb
    let top : Nat := 2 ^ eb - 1
    let x := F.decode code
    let nan := (special = true ∧ e = top ∧ f ≠ 0) ∨ (eb = 4 ∧ e = 15 ∧ f = 7)
    (x.isNan = true ↔ nan) ∧ (x.isInf = true ↔ special = true ∧ e = top ∧ f = 0) ∧ (x.isNeg = true ↔ 2 ^ (eb + fb) ≤ code) ∧
      (special = true → (x.isSnan = true ↔ nan ∧ f < 2 ^ (fb - 1))) ∧
      (x.Finite → x.rat = (if 2 ^ (eb + fb) ≤ code then -1 else 1) *
        (if e = 0 then (f : Rat) * 2 ^ (1 - (bias : Int) - fb) else (2 ^ fb + f : Rat) * 2 ^ ((e : Int) - bias - fb))) := by
  intro f e top x nan
  have hnan := h.nanFields e f
  have hinf := h.infFields e f
  obtain ⟨rfl, rfl, rfl, rfl, -⟩ := h
  have hx : x = F.parts (decide (code / F.signBit % 2 = 1)) e f := rfl
  have hsign := sign_iff hcode
  rw [hx, parts_isNan, parts_isInf, parts_isNeg, hsign]
  refine ⟨hnan, hinf, Iff.rfl, fun hspecial => ?_, fun hfin => ?_⟩
  · rw [parts_isSnan hspecial, hnan]
  · rw [parts_rat hfin, sgn]
    simp only [hsign]

end Fmt

end Sys2Proof

/-! The grid of a format's magnitudes: the rationals of the codes without their sign, in ascending order (R49). -/

namespace Sys2Proof

/-! ### Magnitudes in units of the smallest one -/

/-- The magnitude of a code without its sign, in units of the format's smallest one, under fb bits of fraction. -/
def gridUnits (fb c : Nat) : Nat := if c / 2 ^ fb = 0 then c % 2 ^ fb else (c % 2 ^ fb + 2 ^ fb) * 2 ^ (c / 2 ^ fb - 1)

/-- A mantissa n of the j-th binade, the end of the binade included. -/
theorem gridUnits_add {fb j n : Nat} (hn : n ≤ 2 ^ (fb + 1)) (hj : j = 0 ∨ 2 ^ fb ≤ n) : gridUnits fb (j * 2 ^ fb + n) = n * 2 ^ j := by
  have hpos : 0 < 2 ^ fb := Nat.two_pow_pos fb
  rw [pow_succ] at hn
  unfold gridUnits
  rw [show j * 2 ^ fb + n = n + 2 ^ fb * j by ring, Nat.add_mul_div_left _ _ hpos, Nat.add_mul_mod_self_left]
  by_cases hsmall : n < 2 ^ fb
  · obtain rfl : j = 0 := hj.resolve_right (not_le.2 hsmall)
    rw [Nat.div_eq_of_lt hsmall, Nat.mod_eq_of_lt hsmall]
    simp
  · by_cases hend : n = 2 ^ fb * 2
    · rw [hend, Nat.mul_div_cancel_left _ hpos, Nat.mul_mod_right, if_neg (by omega), show 2 + j - 1 = j + 1 by omega, pow_succ]
      ring
    · have hdiv : n / 2 ^ fb = 1 := by
        rw [Nat.div_eq_iff hpos]
        omega
      have hmod : n % 2 ^ fb + 2 ^ fb = n := by
        have := Nat.div_add_mod n (2 ^ fb)
        rw [hdiv, mul_one] at this
        omega
      rw [hdiv, hmod, if_neg (by omega), Nat.add_sub_cancel_left]

/-- A code without its sign as a mantissa of its binade. -/
theorem exists_binade (fb c : Nat) : ∃ j n, c = j * 2 ^ fb + n ∧ n < 2 ^ (fb + 1) ∧ (j = 0 ∨ 2 ^ fb ≤ n) := by
  have hpos : 0 < 2 ^ fb := Nat.two_pow_pos fb
  have hsplit := Nat.div_add_mod c (2 ^ fb)
  have hmod := Nat.mod_lt c hpos
  rw [pow_succ]
  cases he : c / 2 ^ fb with
  | zero => exact ⟨0, c, by simp, by rw [he] at hsplit; omega, .inl rfl⟩
  | succ j =>
    refine ⟨j, 2 ^ fb + c % 2 ^ fb, ?_, by omega, .inr (Nat.le_add_right ..)⟩
    rw [he] at hsplit
    rw [← hsplit]
    simp only [Nat.mul_add_mod_self_left, Nat.mod_mod]
    ring

theorem gridUnits_strictMono (fb : Nat) : StrictMono (gridUnits fb) := by
  refine strictMono_nat_of_lt_succ fun c => ?_
  obtain ⟨j, n, rfl, hn, hj⟩ := exists_binade fb c
  rw [gridUnits_add hn.le hj, Nat.add_assoc, gridUnits_add hn (hj.imp_right fun h => Nat.le_succ_of_le h)]
  exact Nat.mul_lt_mul_of_pos_right (Nat.lt_succ_self n) (Nat.two_pow_pos j)

namespace Fmt

variable {F : Fmt}

/-! ### The grid -/

/-- The exponent of the smallest magnitude. -/
def unitExp (F : Fmt) : Int := 1 - (F.bias : Int) - F.fbits

/-- The magnitude of a code without its sign, the codes past the finite ones continuing the last binades. -/
def grid (F : Fmt) (c : Nat) : Rat := gridUnits F.fbits c * (2 : Rat) ^ F.unitExp

theorem unit_pos (F : Fmt) : (0 : Rat) < (2 : Rat) ^ F.unitExp := zpow_pos (by norm_num) _

theorem grid_strictMono (F : Fmt) : StrictMono F.grid := fun _ _ h =>
  mul_lt_mul_of_pos_right (Nat.cast_lt.2 (gridUnits_strictMono F.fbits h)) F.unit_pos

theorem grid_nonneg (F : Fmt) (c : Nat) : 0 ≤ F.grid c := mul_nonneg (Nat.cast_nonneg _) F.unit_pos.le

theorem grid_zero (F : Fmt) : F.grid 0 = 0 := by simp [grid, gridUnits]

/-- A mantissa n of the j-th binade. -/
theorem grid_add {j n : Nat} (hn : n ≤ 2 ^ (F.fbits + 1)) (hj : j = 0 ∨ 2 ^ F.fbits ≤ n) :
    F.grid (j * 2 ^ F.fbits + n) = n * (2 : Rat) ^ (F.unitExp + j) := by
  rw [grid, gridUnits_add hn hj, zpow_add₀ (by norm_num), zpow_natCast]
  push_cast
  ring

/-- The grid by the fields of a number (R49). -/
theorem grid_fields (F : Fmt) (c : Nat) : F.grid c = if c / 2 ^ F.fbits = 0 then ((c % 2 ^ F.fbits : Nat) : Rat) * 2 ^ (1 - (F.bias : Int) - F.fbits)
    else (2 ^ F.fbits + (c % 2 ^ F.fbits : Nat) : Rat) * 2 ^ (((c / 2 ^ F.fbits : Nat) : Int) - F.bias - F.fbits) := by
  unfold grid gridUnits
  split
  · rfl
  · next he =>
    have hexp : (2 : Rat) ^ (((c / 2 ^ F.fbits : Nat) : Int) - F.bias - F.fbits) = (2 : Rat) ^ (c / 2 ^ F.fbits - 1) * (2 : Rat) ^ F.unitExp := by
      rw [← zpow_natCast, ← zpow_add₀ (by norm_num), unitExp, Nat.cast_sub (Nat.one_le_iff_ne_zero.2 he)]
      congr 1
      push_cast
      ring
    rw [hexp]
    push_cast
    ring

/-! ### Codes with a sign -/

/-- A code from its sign and the rest. -/
def signed (F : Fmt) (n : Bool) (c : Nat) : Nat := c + (if n then F.signBit else 0)

theorem exists_signed {code : Nat} (h : code < 2 ^ (F.ebits + F.fbits + 1)) : ∃ n c, c < F.signBit ∧ code = F.signed n c := by
  rw [pow_succ] at h
  by_cases hs : F.signBit ≤ code
  · refine ⟨true, code - F.signBit, ?_, ?_⟩
    · unfold signBit at hs ⊢
      omega
    · simp only [signed, if_true]
      omega
  · exact ⟨false, code, not_le.1 hs, rfl⟩

/-- The fields of a code from its sign and the rest. -/
theorem decode_signed (n : Bool) {c : Nat} (h : c < F.signBit) : F.decode (F.signed n c) = F.parts n (c / 2 ^ F.fbits) (c % 2 ^ F.fbits) := by
  have hpos : 0 < 2 ^ F.fbits := Nat.two_pow_pos _
  have hsome : 0 < F.signBit := Nat.two_pow_pos _
  have hbit : F.signBit = 2 ^ F.fbits * 2 ^ F.ebits := by rw [signBit, pow_add, mul_comm]
  have hexp : c / 2 ^ F.fbits < 2 ^ F.ebits := Nat.div_lt_of_lt_mul (hbit ▸ h)
  have hsign : F.signed n c = c + F.signBit * n.toNat := by cases n <;> simp [signed]
  have hneg : decide (F.signed n c / F.signBit % 2 = 1) = n := by
    rw [hsign, Nat.add_mul_div_left _ _ hsome, Nat.div_eq_of_lt h]
    cases n <;> rfl
  rw [decode_parts, hneg, hsign, hbit, mul_assoc, Nat.add_mul_div_left _ _ hpos, Nat.add_mul_mod_self_left, Nat.add_mul_mod_self_left,
    Nat.mod_eq_of_lt hexp]

theorem isNeg_signed (n : Bool) {c : Nat} (hc : c < F.signBit) : (F.decode (F.signed n c)).isNeg = n := by
  rw [decode_signed n hc, parts_isNeg]

/-- The sign bit's weight in codes of one exponent. -/
theorem signBit_eq (F : Fmt) : F.signBit = (F.emax + 1) * 2 ^ F.fbits := by
  rw [signBit, pow_add, emax, Nat.sub_add_cancel (Nat.two_pow_pos _)]

section

variable {eb fb bias : Nat} {special : Bool} (h : F.Row eb fb bias special)
include h

theorem Row.two_le : 1 ≤ F.emax ∧ 2 ≤ 2 ^ F.fbits := by
  obtain ⟨rfl, rfl, -, -, hexps, hfrac, -⟩ := h
  have hE := Nat.pow_le_pow_right (n := 2) (by decide) hexps
  have hP := Nat.pow_le_pow_right (n := 2) (by decide) hfrac
  rw [pow_one] at hE hP
  exact ⟨by unfold emax; omega, hP⟩

/-- The largest finite magnitude lies one below the code of infinity, one below the only NaN, or at the end. -/
theorem Row.maxFinite_eq : F.maxFinite = if F.inf then F.emax * 2 ^ F.fbits - 1 else if F.nan then (F.emax + 1) * 2 ^ F.fbits - 2
    else (F.emax + 1) * 2 ^ F.fbits - 1 := by
  obtain ⟨hE, hP⟩ := h.two_le
  obtain ⟨t, ht⟩ := Nat.exists_eq_add_of_le' hE
  unfold maxFinite
  rw [ht, Nat.add_sub_cancel, Nat.succ_mul (t + 1), Nat.succ_mul t]
  split
  · omega
  · split <;> omega

theorem Row.maxFinite_lt : F.maxFinite < F.signBit := by
  obtain ⟨hE, hP⟩ := h.two_le
  rw [h.maxFinite_eq, signBit_eq, Nat.succ_mul]
  split
  · omega
  · split <;> omega

/-- The codes of numbers are those up to the largest. -/
theorem Row.finite_iff (n : Bool) {c : Nat} (hc : c < F.signBit) : (F.decode (F.signed n c)).Finite ↔ c ≤ F.maxFinite := by
  obtain ⟨hE, hP⟩ := h.two_le
  have hsplit := Nat.div_add_mod' c (2 ^ F.fbits)
  have hmod : c % 2 ^ F.fbits < 2 ^ F.fbits := Nat.mod_lt c (by omega)
  have hle : c / 2 ^ F.fbits ≤ F.emax := Nat.lt_succ_iff.1 ((Nat.div_lt_iff_lt_mul (by omega)).2 (signBit_eq F ▸ hc))
  rw [decode_signed n hc, parts_finite, h.maxFinite_eq, NanFields, InfFields, Nat.succ_mul]
  generalize c / 2 ^ F.fbits = e at hsplit hle
  generalize c % 2 ^ F.fbits = f at hsplit hmod
  subst hsplit
  have hlow : e < F.emax → e * 2 ^ F.fbits + 2 ^ F.fbits ≤ F.emax * 2 ^ F.fbits := fun he => by
    rw [← Nat.succ_mul]
    exact Nat.mul_le_mul_right _ he
  rcases Nat.lt_or_eq_of_le hle with he | rfl
  · have := hlow he
    refine iff_of_true ⟨fun hn => absurd hn.1 he.ne, fun hi => absurd hi.2.1 he.ne⟩ ?_
    split
    · omega
    · split <;> omega
  · have hone : 2 ^ F.fbits ≤ F.emax * 2 ^ F.fbits := Nat.le_mul_of_pos_left _ hE
    cases F.inf with
    | true =>
      simp only [true_and, if_true, Bool.true_eq_false, false_and, or_false, ne_eq]
      omega
    | false =>
      cases F.nan with
      | true =>
        simp only [true_and, if_true, Bool.false_eq_true, if_false, false_and, false_or, not_false_eq_true, and_true]
        omega
      | false =>
        simp only [true_and, Bool.false_eq_true, if_false, false_and, and_false, or_false, not_false_eq_true, and_self, true_iff]
        omega

/-- A code of a number stands for a value of the grid with its sign. -/
theorem Row.rat_signed (n : Bool) {c : Nat} (hc : c ≤ F.maxFinite) : (F.decode (F.signed n c)).rat = sgn n * F.grid c := by
  have hlt : c < F.signBit := lt_of_le_of_lt hc h.maxFinite_lt
  have hfin := (h.finite_iff n hlt).2 hc
  rw [decode_signed n hlt] at hfin ⊢
  rw [parts_rat hfin, grid_fields]

/-- The code of infinity stands for one, where the format has any. -/
theorem Row.decode_infCode (hinf : F.inf = true) (n : Bool) : F.infCode < F.signBit ∧ F.decode (F.signed n F.infCode) = .inf n := by
  obtain ⟨hE, hP⟩ := h.two_le
  have hlt : F.infCode < F.signBit := by
    rw [signBit_eq, infCode, Nat.succ_mul]
    omega
  refine ⟨hlt, ?_⟩
  rw [decode_signed n hlt, infCode, Nat.mul_div_cancel _ (by omega), Nat.mul_mod_left]
  exact parts_inf ⟨hinf, rfl, rfl⟩

/-- Every code of a number is a value of the grid, up to the largest, with a sign. -/
theorem Row.exists_grid {code : Nat} (hcode : code < 2 ^ (F.ebits + F.fbits + 1)) (hfin : (F.decode code).Finite) :
    ∃ (n : Bool) (c : Nat), c ≤ F.maxFinite ∧ (F.decode code).rat = sgn n * F.grid c := by
  obtain ⟨n, c, hc, rfl⟩ := exists_signed hcode
  have hmax := (h.finite_iff n hc).1 hfin
  exact ⟨n, c, hmax, h.rat_signed n hmax⟩

end

end Fmt
end Sys2Proof

/-! The one rounding of R61: between which two codes a magnitude lies, and which of them each mode takes. -/

namespace Sys2Proof

/-! ### A number shifted right -/

/-- q is x rounded down, and `rest` tells where in the unit above it x lies: at its foot, at its middle or above it. -/
structure RestOf (x : Rat) (q rest : Nat) : Prop where
  below : (q : Rat) ≤ x
  above : x < q + 1
  foot  : rest = 0 ↔ x = q
  half  : rest = 2 ↔ 2 * x = q + (q + 1)
  upper : rest = 3 ↔ q + (q + 1) < 2 * x

/-- A number that lies r parts of 2h above q. -/
theorem restOf_parts {x : Rat} {q r h : Nat} (hx : x * (2 * h) = q * (2 * h) + r) (hh : 0 < h) (hr : r < 2 * h) :
    RestOf x q (if r = 0 then 0 else if r < h then 1 else if r = h then 2 else 3) := by
  have hpos : (0 : Rat) < 2 * h := by exact_mod_cast Nat.mul_pos two_pos hh
  have hlt : (r : Rat) < 2 * h := by exact_mod_cast hr
  have hle : (0 : Rat) ≤ r := Nat.cast_nonneg r
  have hgap : (x - q) * (2 * h) = r := by linarith
  have hlow : (q : Rat) ≤ x := sub_nonneg.1 (nonneg_of_mul_nonneg_left (hgap ▸ hle) hpos)
  have hfoot : r = 0 ↔ x = q := by
    rw [← sub_eq_zero (a := x), ← Nat.cast_eq_zero (R := Rat), ← hgap, mul_eq_zero, or_iff_left hpos.ne']
  have hhalf : r = h ↔ 2 * x = q + (q + 1) := by
    rw [← Nat.cast_inj (R := Rat), ← hgap]
    constructor <;> intro heq <;> nlinarith
  have hover : h < r ↔ q + (q + 1) < 2 * x := by
    rw [← Nat.cast_lt (α := Rat), ← hgap]
    constructor <;> intro heq <;> nlinarith
  refine ⟨hlow, ?_, ?_, ?_, ?_⟩
  · have : (x - q) * (2 * h) < 1 * (2 * h) := by rw [hgap, one_mul]; exact hlt
    linarith [lt_of_mul_lt_mul_right this hpos.le]
  · rw [← hfoot]; grind
  · rw [← hhalf]; grind
  · rw [← hover]; grind

theorem restOf_shiftRest (m : Nat) (s : Int) : RestOf (m * (2 : Rat) ^ s) (shiftRest m s).1 (shiftRest m s).2 := by
  unfold shiftRest
  by_cases hs : 0 ≤ s
  · rw [if_pos hs]
    have hx : (m : Rat) * (2 : Rat) ^ s = (m <<< s.toNat : Nat) := by
      rw [Nat.shiftLeft_eq, Nat.cast_mul, Nat.cast_pow, Nat.cast_ofNat, ← zpow_natCast, Int.toNat_of_nonneg hs]
    rw [hx]
    exact ⟨le_rfl, lt_add_one _, iff_of_true rfl rfl, iff_of_false (fun h => by cases h) (by linarith),
      iff_of_false (fun h => by cases h) (by linarith)⟩
  · rw [if_neg hs]
    obtain ⟨k, hk⟩ : ∃ k : Nat, (-s).toNat = k + 1 := ⟨(-s).toNat - 1, by omega⟩
    have hexp : s = -((k + 1 : Nat) : Int) := by omega
    have hdiv : m >>> (k + 1) = m / 2 ^ (k + 1) := Nat.shiftRight_eq_div_pow ..
    have hrest : m - (m / 2 ^ (k + 1)) <<< (k + 1) = m % 2 ^ (k + 1) := by
      rw [Nat.shiftLeft_eq, Nat.mod_eq_sub_div_mul]
    have hhalf : 1 <<< (k + 1 - 1) = 2 ^ k := by rw [Nat.shiftLeft_eq, one_mul, Nat.add_sub_cancel]
    simp only [hk, hdiv, hrest, hhalf]
    have hpow : 2 * ((2 ^ k : Nat) : Rat) = 2 ^ (k + 1) := by push_cast; ring
    refine restOf_parts ?_ (Nat.two_pow_pos k) (by rw [← pow_succ']; exact Nat.mod_lt _ (Nat.two_pow_pos _))
    rw [hpow, hexp, zpow_neg, zpow_natCast, inv_mul_cancel_right₀ (by positivity)]
    exact_mod_cast (Nat.div_add_mod' m (2 ^ (k + 1))).symm

end Sys2Proof

/-! Rounding to a format's grid (R61): the neighbours of a magnitude and the code taken, and the model's `roundFin` in these terms. -/

namespace Sys2Proof

/-- The modes that take the neighbour away from zero, for a sign. -/
def RMode.Away (mode : RMode) (n : Bool) : Prop := (mode = .rdn ∧ n = true) ∨ (mode = .rup ∧ n = false)

/-! ### Which modes round a magnitude up -/

theorem RMode.up_foot (mode : RMode) (n : Bool) (q : Nat) : mode.up n q 0 = false := by
  cases mode <;> simp [RMode.up]

theorem RMode.up_near (n : Bool) (q rest : Nat) : RMode.rne.up n q rest = true ↔ rest = 3 ∨ (rest = 2 ∧ q % 2 = 1) := by
  simp [RMode.up]

theorem RMode.up_away {mode : RMode} {n : Bool} (h : mode.Away n) (q : Nat) {rest : Nat} (hrest : rest ≠ 0) : mode.up n q rest = true := by
  rcases h with ⟨rfl, rfl⟩ | ⟨rfl, rfl⟩ <;> simp [RMode.up, hrest]

theorem RMode.up_toward {mode : RMode} {n : Bool} (hmode : mode ≠ .rne) (h : ¬ mode.Away n) (q rest : Nat) : mode.up n q rest = false := by
  cases mode with
  | rne => exact absurd rfl hmode
  | rz => rfl
  | rdn =>
    have hn : n = false := Bool.eq_false_iff.2 fun hn => h (.inl ⟨rfl, hn⟩)
    rw [hn]
    rfl
  | rup =>
    have hn : n = true := eq_true_of_ne_false fun hn => h (.inr ⟨rfl, hn⟩)
    rw [hn]
    rfl

/-! ### The neighbours and the one taken -/

/-- A magnitude x lies between the codes lo and lo + 1, c is the one of them that the mode takes, and `nx` tells that x is neither. -/
structure Fmt.Rounds (F : Fmt) (mode : RMode) (n : Bool) (x : Rat) (lo c : Nat) (nx : Bool) : Prop where
  below   : F.grid lo ≤ x
  above   : x < F.grid (lo + 1)
  exact   : nx = false → x = F.grid lo ∧ c = lo
  inexact : nx = true → F.grid lo < x
  near    : mode = .rne → nx = true → (2 * x < F.grid lo + F.grid (lo + 1) ∧ c = lo) ∨
    (F.grid lo + F.grid (lo + 1) < 2 * x ∧ c = lo + 1) ∨ (2 * x = F.grid lo + F.grid (lo + 1) ∧ c % 2 = 0 ∧ (c = lo ∨ c = lo + 1))
  away    : mode.Away n → nx = true → c = lo + 1
  toward  : mode ≠ .rne → ¬ mode.Away n → c = lo

theorem roundInt_eq (mode : RMode) (n : Bool) (m : Nat) (s : Int) : roundInt mode n m s =
    ((shiftRest m s).1 + (if mode.up n (shiftRest m s).1 (shiftRest m s).2 then 1 else 0), decide ((shiftRest m s).2 ≠ 0)) := by
  unfold roundInt
  obtain ⟨q, rest⟩ := shiftRest m s
  dsimp only
  cases mode.up n q rest <;> rfl

namespace Fmt

variable {F : Fmt}

/-- A mantissa q with its rest, rounded in its binade. -/
theorem rounds_of_rest (hfrac : 1 ≤ F.fbits) (mode : RMode) (n : Bool) {y : Rat} {j q rest : Nat} (h : RestOf y q rest)
    (hq : q < 2 ^ (F.fbits + 1)) (hj : j = 0 ∨ 2 ^ F.fbits ≤ q) :
    F.Rounds mode n (y * (2 : Rat) ^ (F.unitExp + j)) (j * 2 ^ F.fbits + q) (j * 2 ^ F.fbits + (q + if mode.up n q rest then 1 else 0))
      (decide (rest ≠ 0)) := by
  have hpos : (0 : Rat) < (2 : Rat) ^ (F.unitExp + j) := zpow_pos (by norm_num) _
  have hlo : F.grid (j * 2 ^ F.fbits + q) = q * (2 : Rat) ^ (F.unitExp + j) := grid_add hq.le hj
  have hhi : F.grid (j * 2 ^ F.fbits + q + 1) = (q + 1) * (2 : Rat) ^ (F.unitExp + j) := by
    rw [Nat.add_assoc, grid_add hq (hj.imp_right Nat.le_succ_of_le)]
    push_cast
    rfl
  have heven : (j * 2 ^ F.fbits + q) % 2 = q % 2 := by
    have : 2 ∣ j * 2 ^ F.fbits := Dvd.dvd.mul_left (dvd_pow_self 2 (by omega)) j
    omega
  have hsum : F.grid (j * 2 ^ F.fbits + q) + F.grid (j * 2 ^ F.fbits + q + 1) = (q + (q + 1)) * (2 : Rat) ^ (F.unitExp + j) := by
    rw [hlo, hhi]
    ring
  have hlow : q < y ↔ rest ≠ 0 := by
    rw [Ne, h.foot, lt_iff_le_and_ne, eq_comm]
    exact and_iff_right h.below
  refine ⟨?_, ?_, fun hnx => ?_, fun hnx => ?_, fun hmode hnx => ?_, fun haway hnx => ?_, fun hmode haway => ?_⟩
  · rw [hlo]
    exact mul_le_mul_of_nonneg_right h.below hpos.le
  · rw [hhi]
    exact mul_lt_mul_of_pos_right h.above hpos
  · obtain rfl : rest = 0 := by simpa using hnx
    exact ⟨by rw [hlo, h.foot.1 rfl], by rw [RMode.up_foot]; rfl⟩
  · rw [hlo]
    exact mul_lt_mul_of_pos_right (hlow.2 (by simpa using hnx)) hpos
  · subst hmode
    rw [hsum, ← mul_assoc, mul_lt_mul_iff_left₀ hpos, mul_lt_mul_iff_left₀ hpos, mul_left_inj' hpos.ne', ← h.half, ← h.upper]
    simp only [RMode.up_near]
    rcases lt_trichotomy (2 * y) (q + (q + 1)) with hlt | heq | hgt
    · have h2 : rest ≠ 2 := fun h2 => hlt.ne (h.half.1 h2)
      have h3 : rest ≠ 3 := fun h3 => hlt.asymm (h.upper.1 h3)
      exact .inl ⟨hlt, by rw [if_neg (by simp [h2, h3]), Nat.add_zero]⟩
    · have h2 := h.half.2 heq
      refine .inr (.inr ⟨h2, ?_⟩)
      by_cases hodd : q % 2 = 1
      · rw [if_pos (.inr ⟨h2, hodd⟩)]
        exact ⟨by omega, .inr rfl⟩
      · rw [if_neg (by simp [h2, hodd])]
        exact ⟨by omega, .inl rfl⟩
    · have h3 := h.upper.2 hgt
      rw [if_pos (.inl h3)]
      exact .inr (.inl ⟨h3, rfl⟩)
  · rw [RMode.up_away haway q (by simpa using hnx)]
    rfl
  · rw [RMode.up_toward hmode haway]
    rfl

/-- A number's leading bit. -/
theorem leading_bit {m : Nat} (hm : m ≠ 0) (k : Int) : (2 : Rat) ^ (k + Nat.log2 m) ≤ m * (2 : Rat) ^ k ∧
    m * (2 : Rat) ^ k < (2 : Rat) ^ (k + Nat.log2 m + 1) := by
  have hpos : (0 : Rat) < (2 : Rat) ^ k := zpow_pos (by norm_num) _
  have hlow : ((2 ^ Nat.log2 m : Nat) : Rat) ≤ m := Nat.cast_le.2 (Nat.log2_self_le hm)
  have hhigh : (m : Rat) < ((2 ^ (Nat.log2 m + 1) : Nat) : Rat) := Nat.cast_lt.2 Nat.lt_log2_self
  rw [add_assoc, zpow_add₀ (by norm_num), zpow_add₀ (by norm_num), mul_comm, mul_comm ((2 : Rat) ^ k)]
  constructor
  · refine mul_le_mul_of_nonneg_right ?_ hpos.le
    rw [zpow_natCast]
    exact_mod_cast hlow
  · refine mul_lt_mul_of_pos_right ?_ hpos
    have : ((Nat.log2 m : Int) + 1) = ((Nat.log2 m + 1 : Nat) : Int) := by push_cast; rfl
    rw [this, zpow_natCast]
    exact_mod_cast hhigh

/-- The model's rounding in units of the grid: the quantum is the unit of the magnitude's binade. -/
theorem roundFin_eq (mode : RMode) (sat n : Bool) {m : Nat} (hm : m ≠ 0) (k : Int) : ∃ tiny : Bool,
    (tiny = true → k + Nat.log2 m < 1 - (F.bias : Int)) ∧ F.roundFin mode sat n m k =
      (let quantum := max (k + Nat.log2 m - F.fbits) F.unitExp
       let r := roundInt mode n m (k - quantum)
       let c := (quantum - F.unitExp).toNat * 2 ^ F.fbits + r.1
       if F.maxFinite < c then F.overflow mode sat n else (F.signed n c, { uf := tiny && r.2, nx := r.2 })) := by
  have htop : k + (bitLen m : Int) - 1 = k + Nat.log2 m := by
    rw [bitLen, if_neg hm]
    push_cast
    ring
  refine ⟨decide (k + Nat.log2 m < 1 - (F.bias : Int)) && !(decide (k + Nat.log2 m = 1 - (F.bias : Int) - 1) &&
    decide ((roundInt mode n m (k - (k + Nat.log2 m - F.fbits))).1 = 2 ^ (F.fbits + 1))), fun ht => ?_, ?_⟩
  · exact of_decide_eq_true (Bool.and_eq_true_iff.1 ht).1
  · have hunit (q : Int) : q + F.fbits - (1 - (F.bias : Int)) = q - F.unitExp := by
      unfold unitExp
      ring
    rw [roundFin, if_neg hm]
    simp only [htop, hunit]
    rfl

/-- The model's rounding takes one of a magnitude's neighbours, whose code it answers with NX and UF, or an overflow beyond the
largest finite magnitude. -/
theorem roundFin_rounds (hfrac : 1 ≤ F.fbits) (mode : RMode) (sat n : Bool) (m : Nat) (k : Int) : ∃ lo c nx uf,
    F.Rounds mode n (m * (2 : Rat) ^ k) lo c nx ∧ (uf = true → nx = true ∧ m * (2 : Rat) ^ k < (2 : Rat) ^ (1 - (F.bias : Int))) ∧
      F.roundFin mode sat n m k = if F.maxFinite < c then F.overflow mode sat n else (F.signed n c, { uf := uf, nx := nx }) := by
  by_cases hm : m = 0
  · subst hm
    have hx : ((0 : Nat) : Rat) * (2 : Rat) ^ k = F.grid 0 := by rw [Nat.cast_zero, zero_mul, grid_zero]
    refine ⟨0, 0, false, false, ⟨hx.ge, by rw [hx]; exact F.grid_strictMono Nat.zero_lt_one, fun _ => ⟨hx, rfl⟩, fun h => (nomatch h),
      fun _ h => (nomatch h), fun _ h => (nomatch h), fun _ _ => rfl⟩, fun h => (nomatch h), ?_⟩
    simp [roundFin, signed, FlagSet.none]
  · obtain ⟨tiny, htiny, hround⟩ := F.roundFin_eq mode sat n hm k
    dsimp only at hround
    rw [roundInt_eq] at hround
    generalize hquantum : max (k + Nat.log2 m - F.fbits) F.unitExp = quantum at hround
    obtain ⟨j, rfl⟩ : ∃ j : Nat, quantum = F.unitExp + j := ⟨(quantum - F.unitExp).toNat, by omega⟩
    have hrest := restOf_shiftRest m (k - (F.unitExp + j))
    generalize (shiftRest m (k - (F.unitExp + j))).1 = q at hrest hround
    generalize (shiftRest m (k - (F.unitExp + j))).2 = rest at hrest hround
    obtain ⟨hlow, hhigh⟩ := leading_bit hm (k - (F.unitExp + j))
    have hq : q < 2 ^ (F.fbits + 1) := by
      have hexp : k - (F.unitExp + j) + Nat.log2 m + 1 ≤ ((F.fbits + 1 : Nat) : Int) := by omega
      have hlt := (hrest.below.trans_lt hhigh).trans_le (zpow_le_zpow_right₀ one_le_two hexp)
      rw [zpow_natCast] at hlt
      exact_mod_cast hlt
    have hj : j = 0 ∨ 2 ^ F.fbits ≤ q := by
      refine or_iff_not_imp_left.2 fun hj => ?_
      have hexp : k - (F.unitExp + j) + Nat.log2 m = (F.fbits : Int) := by omega
      have hlt := hlow.trans_lt hrest.above
      rw [hexp, zpow_natCast] at hlt
      exact Nat.lt_succ_iff.1 (by exact_mod_cast hlt)
    have hx : (m : Rat) * (2 : Rat) ^ k = m * (2 : Rat) ^ (k - (F.unitExp + j)) * (2 : Rat) ^ (F.unitExp + j) := by
      rw [mul_assoc, ← zpow_add₀ two_ne_zero, sub_add_cancel]
    have hrounds := rounds_of_rest hfrac mode n hrest hq hj
    rw [← hx] at hrounds
    rw [add_sub_cancel_left, Int.toNat_natCast] at hround
    refine ⟨_, _, _, _, hrounds, fun huf => ?_, hround⟩
    obtain ⟨ht, hnx⟩ := Bool.and_eq_true_iff.1 huf
    exact ⟨hnx, (leading_bit hm k).2.trans_le (zpow_le_zpow_right₀ one_le_two (htiny ht))⟩

end Fmt
end Sys2Proof

/-! What rounding to a format promises (R61, R62): the nearest number or the last on the mode's side, the flags, and what an overflow answers. -/

namespace Sys2Proof

/-! ### Two neighbours and a value that does not lie between them -/

section

variable {a b x z : Rat} (h0 : 0 ≤ a) (ha : a ≤ x) (hb : x < b) (hz : |z| ≤ a ∨ b ≤ |z|)
include h0 ha hz

theorem nearest_low (h : 2 * x ≤ a + b) : |x - a| ≤ |x - z| := by
  have hx := abs_of_nonneg (h0.trans ha)
  have h1 := abs_sub_abs_le_abs_sub x z
  have h2 := abs_sub_abs_le_abs_sub z x
  rw [abs_sub_comm z x] at h2
  rw [abs_of_nonneg (sub_nonneg.2 ha)]
  rcases hz with hz | hz <;> linarith

include hb in
theorem nearest_high (h : a + b ≤ 2 * x) : |x - b| ≤ |x - z| := by
  have hx := abs_of_nonneg (h0.trans ha)
  have h1 := abs_sub_abs_le_abs_sub x z
  have h2 := abs_sub_abs_le_abs_sub z x
  rw [abs_sub_comm z x] at h2
  rw [abs_of_neg (sub_neg.2 hb)]
  rcases hz with hz | hz <;> linarith

theorem eq_low (h : 2 * x < a + b) (heq : |x - a| = |x - z|) : z = a := by
  have hx := abs_of_nonneg (h0.trans ha)
  have h1 := abs_sub_abs_le_abs_sub x z
  have h2 := abs_sub_abs_le_abs_sub z x
  rw [abs_sub_comm z x] at h2
  rw [abs_of_nonneg (sub_nonneg.2 ha)] at heq
  have habs : |z| = a := by rcases hz with hz | hz <;> linarith
  rcases eq_or_eq_neg_of_abs_eq habs with rfl | rfl
  · rfl
  · rw [sub_neg_eq_add, abs_of_nonneg (by linarith)] at heq
    linarith

include hb in
theorem eq_high (h : a + b < 2 * x) (heq : |x - b| = |x - z|) : z = b := by
  have hx := abs_of_nonneg (h0.trans ha)
  have h1 := abs_sub_abs_le_abs_sub x z
  have h2 := abs_sub_abs_le_abs_sub z x
  rw [abs_sub_comm z x] at h2
  rw [abs_of_neg (sub_neg.2 hb)] at heq
  have habs : |z| = b := by rcases hz with hz | hz <;> linarith
  rcases eq_or_eq_neg_of_abs_eq habs with rfl | rfl
  · rfl
  · rw [sub_neg_eq_add, abs_of_nonneg (by linarith)] at heq
    linarith

end

namespace Fmt

variable {F : Fmt}

/-! ### What a rounding takes -/

namespace Rounds

variable {mode : RMode} {n : Bool} {x : Rat} {lo c : Nat} {nx : Bool} (h : F.Rounds mode n x lo c nx)
include h

theorem nonneg : 0 ≤ x := (F.grid_nonneg lo).trans h.below

theorem taken : c = lo ∨ (nx = true ∧ c = lo + 1) := by
  cases nx with
  | false => exact .inl (h.exact rfl).2
  | true =>
    by_cases hmode : mode = .rne
    · rcases h.near hmode rfl with ⟨-, hc⟩ | ⟨-, hc⟩ | ⟨-, -, hc | hc⟩
      · exact .inl hc
      · exact .inr ⟨rfl, hc⟩
      · exact .inl hc
      · exact .inr ⟨rfl, hc⟩
    · by_cases haway : mode.Away n
      · exact .inr ⟨rfl, h.away haway rfl⟩
      · exact .inl (h.toward hmode haway)

/-- NX tells that the code taken differs from the magnitude. -/
theorem nx_iff : nx = true ↔ F.grid c ≠ x := by
  cases nx with
  | false =>
    obtain ⟨hx, hc⟩ := h.exact rfl
    exact iff_of_false Bool.false_ne_true (not_not.2 (by rw [hc, hx]))
  | true =>
    refine iff_of_true rfl ?_
    rcases h.taken with rfl | ⟨-, rfl⟩
    · exact (h.inexact rfl).ne
    · exact h.above.ne'

/-- What is rounded beyond a code is larger than that code. -/
theorem lt_of_lt {k : Nat} (hk : k < c) : F.grid k < x := by
  rcases h.taken with rfl | ⟨hnx, rfl⟩
  · exact (F.grid_strictMono hk).trans_le h.below
  · exact (F.grid_strictMono.monotone (Nat.lt_succ_iff.1 hk)).trans_lt (h.inexact hnx)

section

variable {z : Rat} (hz : |z| ≤ F.grid lo ∨ F.grid (lo + 1) ≤ |z|)
include hz

/-- To nearest: none is nearer, and an even code is taken of two that are as near. -/
theorem nearest (hmode : mode = .rne) : |x - F.grid c| ≤ |x - z| ∧ (|x - F.grid c| = |x - z| → z ≠ F.grid c → c % 2 = 0) := by
  have h0 := F.grid_nonneg lo
  cases nx with
  | false =>
    obtain ⟨hx, hc⟩ := h.exact rfl
    rw [hc, ← hx, sub_self, abs_zero]
    exact ⟨abs_nonneg _, fun heq hne => absurd (sub_eq_zero.1 (abs_eq_zero.1 heq.symm)).symm hne⟩
  | true =>
    rcases h.near hmode rfl with ⟨hlt, rfl⟩ | ⟨hgt, rfl⟩ | ⟨htie, heven, hc⟩
    · exact ⟨nearest_low h0 h.below hz hlt.le, fun heq hne => absurd (eq_low h0 h.below hz hlt heq) hne⟩
    · exact ⟨nearest_high h0 h.below h.above hz hgt.le, fun heq hne => absurd (eq_high h0 h.below h.above hz hgt heq) hne⟩
    · refine ⟨?_, fun _ _ => heven⟩
      rcases hc with rfl | rfl
      · exact nearest_low h0 h.below hz htie.le
      · exact nearest_high h0 h.below h.above hz htie.ge

/-- Toward zero: the last one not beyond the magnitude. -/
theorem last_below (hc : c = lo) : F.grid c ≤ x ∧ (|z| ≤ x → |z| ≤ F.grid c) ∧ (z ≤ x → z ≤ F.grid c) := by
  rw [hc]
  have hbelow : |z| ≤ x → |z| ≤ F.grid lo := fun hle => hz.resolve_right fun hge => absurd (hge.trans hle) (not_le.2 h.above)
  refine ⟨h.below, hbelow, fun hle => ?_⟩
  rcases le_total 0 z with hpos | hneg
  · rw [← abs_of_nonneg hpos] at hle ⊢
    exact hbelow hle
  · exact hneg.trans (F.grid_nonneg lo)

/-- Away from zero: the first one that reaches the magnitude. -/
theorem first_above (hc : nx = true → c = lo + 1) : x ≤ F.grid c ∧ (x ≤ z → F.grid c ≤ z) := by
  cases nx with
  | false =>
    obtain ⟨hx, hc⟩ := h.exact rfl
    rw [hc, ← hx]
    exact ⟨le_rfl, id⟩
  | true =>
    rw [hc rfl]
    refine ⟨h.above.le, fun hle => ?_⟩
    rw [abs_of_nonneg (h.nonneg.trans hle)] at hz
    exact hz.resolve_left fun hlow => absurd (hle.trans hlow) (not_le.2 (h.inexact rfl))

end

end Rounds

/-! ### Numbers between neighbours -/

section

variable {eb fb bias : Nat} {special : Bool} (hrow : F.Row eb fb bias special)
include hrow

/-- No number of the format lies between neighbours of the grid. -/
theorem Row.no_between (lo : Nat) {code : Nat} (hcode : code < 2 ^ (F.ebits + F.fbits + 1)) (hfin : (F.decode code).Finite) :
    |(F.decode code).rat| ≤ F.grid lo ∨ F.grid (lo + 1) ≤ |(F.decode code).rat| := by
  obtain ⟨n, c, -, hrat⟩ := hrow.exists_grid hcode hfin
  rw [hrat, abs_sgn, abs_of_nonneg (F.grid_nonneg c)]
  rcases Nat.lt_or_ge lo c with hlt | hge
  · exact .inr (F.grid_strictMono.monotone hlt)
  · exact .inl (F.grid_strictMono.monotone hge)

theorem Row.signed_even (n : Bool) {c : Nat} (hc : c % 2 = 0) : F.signed n c % 2 = 0 := by
  have hbit : 2 ∣ F.signBit := dvd_pow_self 2 (by have := hrow.exps; have := hrow.ebits; omega)
  unfold signed
  split <;> omega

end

/-! ### Overflow -/

end Fmt

/-- Whether a mode takes an overflow to infinity, where the format has one. -/
def RMode.toInf (mode : RMode) (n : Bool) : Bool :=
  match mode with
  | .rne => true
  | .rz => false
  | .rdn => n
  | .rup => !n

theorem RMode.toInf_iff (mode : RMode) (n : Bool) : mode.toInf n = true ↔ mode = .rne ∨ mode.Away n := by
  cases mode <;> simp [RMode.toInf, RMode.Away]

namespace Fmt

variable {F : Fmt}

theorem overflow_eq (F : Fmt) (mode : RMode) (sat n : Bool) : F.overflow mode sat n =
    (F.signed n (if sat || !F.inf || !mode.toInf n then F.maxFinite else F.infCode), { of := true, nx := true }) := rfl

theorem overflow_inf {mode : RMode} {sat n : Bool} (h : sat = false ∧ F.inf = true ∧ (mode = .rne ∨ mode.Away n)) :
    F.overflow mode sat n = (F.signed n F.infCode, { of := true, nx := true }) := by
  obtain ⟨hsat, hinf, hmode⟩ := h
  rw [overflow_eq, hsat, hinf, (mode.toInf_iff n).2 hmode]
  rfl

theorem overflow_max {mode : RMode} {sat n : Bool} (h : ¬ (sat = false ∧ F.inf = true ∧ (mode = .rne ∨ mode.Away n))) :
    F.overflow mode sat n = (F.signed n F.maxFinite, { of := true, nx := true }) := by
  rw [← RMode.toInf_iff] at h
  rw [overflow_eq, if_pos (by_contra fun hn => h (by simpa [and_assoc] using hn))]

/-! ### The clauses of the statement -/

section

variable {eb fb bias : Nat} {special : Bool} (h : F.Row eb fb bias special) {n nx : Bool} {x : Rat} {lo c code : Nat}
  (hcode : code < 2 ^ (F.ebits + F.fbits + 1)) (hfin : (F.decode code).Finite)
include h hcode hfin

theorem Row.rounded_rne (hr : F.Rounds .rne n x lo c nx) : |sgn n * x - sgn n * F.grid c| ≤ |sgn n * x - (F.decode code).rat| ∧
    (|sgn n * x - sgn n * F.grid c| = |sgn n * x - (F.decode code).rat| → (F.decode code).rat ≠ sgn n * F.grid c → F.signed n c % 2 = 0) := by
  have hz : |sgn n * (F.decode code).rat| ≤ F.grid lo ∨ F.grid (lo + 1) ≤ |sgn n * (F.decode code).rat| := by
    rw [abs_sgn]
    exact h.no_between lo hcode hfin
  obtain ⟨hnear, heven⟩ := hr.nearest hz rfl
  rw [sgn_sub_sgn, sgn_sub]
  exact ⟨hnear, fun heq hne => h.signed_even n (heven heq fun hz => hne ((eq_sgn n).1 hz))⟩

theorem Row.rounded_rz (hr : F.Rounds .rz n x lo c nx) : |sgn n * F.grid c| ≤ |sgn n * x| ∧
    (|(F.decode code).rat| ≤ |sgn n * x| → |(F.decode code).rat| ≤ |sgn n * F.grid c|) := by
  obtain ⟨hle, hlast, -⟩ := hr.last_below (h.no_between lo hcode hfin) (hr.toward (by decide) (by simp [RMode.Away]))
  rw [abs_sgn, abs_sgn, abs_of_nonneg hr.nonneg, abs_of_nonneg (F.grid_nonneg c)]
  exact ⟨hle, hlast⟩

theorem Row.rounded_rdn (hr : F.Rounds .rdn n x lo c nx) : sgn n * F.grid c ≤ sgn n * x ∧
    ((F.decode code).rat ≤ sgn n * x → (F.decode code).rat ≤ sgn n * F.grid c) := by
  have hz := h.no_between lo hcode hfin
  cases n with
  | false =>
    obtain ⟨hle, -, hlast⟩ := hr.last_below hz (hr.toward (by decide) (by simp [RMode.Away]))
    rw [sgn_false, one_mul, one_mul]
    exact ⟨hle, hlast⟩
  | true =>
    rw [← abs_neg] at hz
    obtain ⟨hle, hfirst⟩ := hr.first_above hz (hr.away (.inl ⟨rfl, rfl⟩))
    rw [sgn_true, neg_one_mul, neg_one_mul]
    exact ⟨neg_le_neg hle, fun hlow => le_neg.1 (hfirst (le_neg.1 hlow))⟩

theorem Row.rounded_rup (hr : F.Rounds .rup n x lo c nx) : sgn n * x ≤ sgn n * F.grid c ∧
    (sgn n * x ≤ (F.decode code).rat → sgn n * F.grid c ≤ (F.decode code).rat) := by
  have hz := h.no_between lo hcode hfin
  cases n with
  | false =>
    obtain ⟨hle, hfirst⟩ := hr.first_above hz (hr.away (.inr ⟨rfl, rfl⟩))
    rw [sgn_false, one_mul, one_mul]
    exact ⟨hle, hfirst⟩
  | true =>
    rw [← abs_neg] at hz
    obtain ⟨hle, -, hlast⟩ := hr.last_below hz (hr.toward (by decide) (by simp [RMode.Away]))
    rw [sgn_true, neg_one_mul, neg_one_mul]
    exact ⟨neg_le_neg hle, fun hhigh => neg_le.1 (hlast (neg_le.1 hhigh))⟩

end

end Fmt
end Sys2Proof

/-! Decoding, rounding and exact arithmetic (R49, R61 to R63): the statement. -/

namespace Sys2Proof

/-! ### Rounding by its outcome -/

namespace Fmt

variable {F : Fmt}

section

variable {eb fb bias : Nat} {special : Bool} (h : F.Row eb fb bias special) (mode : RMode) (sat n : Bool) (m : Nat) (k : Int)
include h

/-- A number is rounded to a code of the grid, or beyond the largest one, which is an overflow. -/
theorem Row.roundFin_cases : ∃ lo c nx, F.Rounds mode n (m * (2 : Rat) ^ k) lo c nx ∧
    ((c ≤ F.maxFinite ∧ ∃ uf, (uf = true → nx = true ∧ m * (2 : Rat) ^ k < (2 : Rat) ^ (1 - (F.bias : Int))) ∧
        F.roundFin mode sat n m k = (F.signed n c, { uf := uf, nx := nx })) ∨
      (F.grid F.maxFinite < m * (2 : Rat) ^ k ∧ F.roundFin mode sat n m k = F.overflow mode sat n)) := by
  obtain ⟨lo, c, nx, uf, hr, huf, hround⟩ := F.roundFin_rounds (by rw [h.fbits]; exact h.frac) mode sat n m k
  refine ⟨lo, c, nx, hr, ?_⟩
  by_cases hc : F.maxFinite < c
  · rw [if_pos hc] at hround
    exact .inr ⟨hr.lt_of_lt hc, hround⟩
  · rw [if_neg hc] at hround
    exact .inl ⟨not_lt.1 hc, uf, huf, hround⟩

theorem Row.rat_maxFinite : (F.decode F.maxFinite).rat = F.grid F.maxFinite := by
  have hrat := h.rat_signed false le_rfl
  rwa [sgn_false, one_mul] at hrat

/-- What an overflow answers (R61). -/
theorem Row.overflow_cases : (F.decode (F.overflow mode sat n).1).isNeg = n ∧
    (sat = false ∧ special = true ∧ (mode = .rne ∨ mode.Away n) → (F.decode (F.overflow mode sat n).1).isInf = true) ∧
    (¬ (sat = false ∧ special = true ∧ (mode = .rne ∨ mode.Away n)) → |(F.decode (F.overflow mode sat n).1).rat| = F.grid F.maxFinite) := by
  obtain rfl := h.inf
  by_cases hinf : sat = false ∧ F.inf = true ∧ (mode = .rne ∨ mode.Away n)
  · rw [overflow_inf hinf, (h.decode_infCode hinf.2.1 n).2]
    exact ⟨rfl, fun _ => rfl, fun hmax => absurd hinf hmax⟩
  · rw [overflow_max hinf, isNeg_signed n h.maxFinite_lt, h.rat_signed n le_rfl, abs_sgn, abs_of_nonneg (F.grid_nonneg _)]
    exact ⟨rfl, fun hinf' => absurd hinf' hinf, fun _ => rfl⟩

end

end Fmt

/-! ### The formats of Table 1 -/

/-- The formats with their rows: bits of exponent and fraction, bias, and whether the all-ones exponent means infinity and NaN. -/
def tableOne : List (Fmt × Nat × Nat × Nat × Bool) :=
  [(.fp32, 8, 23, 127, true), (.fp16, 5, 10, 15, true), (.bf16, 8, 7, 127, true), (.e4m3, 4, 3, 7, false), (.e5m2, 5, 2, 15, true),
    (.e2m1, 2, 1, 1, false)]

theorem row_of_mem {F : Fmt} {eb fb bias : Nat} {special : Bool} (h : (F, eb, fb, bias, special) ∈ tableOne) : F.Row eb fb bias special := by
  simp only [tableOne, List.mem_cons, Prod.mk.injEq, List.not_mem_nil, or_false] at h
  obtain ⟨rfl, rfl, rfl, rfl, rfl⟩ | ⟨rfl, rfl, rfl, rfl, rfl⟩ | ⟨rfl, rfl, rfl, rfl, rfl⟩ | ⟨rfl, rfl, rfl, rfl, rfl⟩ |
    ⟨rfl, rfl, rfl, rfl, rfl⟩ | ⟨rfl, rfl, rfl, rfl, rfl⟩ := h <;>
  exact ⟨rfl, rfl, rfl, rfl, by decide, by decide, by decide, by decide⟩

/-- Settles O17: a format's numbers are a grid in ascending order, and rounding takes one of the two neighbours that `Fmt.Rounds`
tells; sums, products and order are those of `FVal.rat`. -/
theorem exactArithmetic : Obligations.ExactArithmetic := by
  unfold Obligations.ExactArithmetic
  intro rat fin formats
  refine ⟨fun F eb fb bias special hmem code hcode => (row_of_mem hmem).decode hcode,
    fun F eb fb bias special hmem mode sat n m k => ?_,
    fun mode n n' m m' e e' => ⟨FVal.rat_addFin .., FVal.rat_mulFin .., FVal.lt_iff .., FVal.eq_iff .., FVal.rat_scale n m e⟩⟩
  have h : F.Row eb fb bias special := row_of_mem hmem
  intro x r y largest away
  have hx : x = sgn n * (m * (2 : Rat) ^ k) := FVal.rat_fin n m k
  have hlargest : largest = F.grid F.maxFinite := h.rat_maxFinite
  obtain ⟨lo, c, nx, hr, ⟨hc, uf, huf, hround⟩ | ⟨hlt, hround⟩⟩ := h.roundFin_cases mode sat n m k
  · have hres : r = (F.signed n c, { uf := uf, nx := nx }) := hround
    have hbound : c < F.signBit := lt_of_le_of_lt hc h.maxFinite_lt
    have hy : y = sgn n * F.grid c := by
      show (F.decode r.1).rat = _
      rw [hres, h.rat_signed n hc]
    have habs : |x| = m * (2 : Rat) ^ k := by rw [hx, abs_sgn, abs_of_nonneg hr.nonneg]
    refine ⟨by rw [hres], by rw [hres], fun hu => ?_, fun _ => ⟨?_, ?_, ?_, fun code hcode hfin => ?_⟩, fun ho => ?_⟩
    · rw [hres] at hu ⊢
      rw [habs, ← h.bias]
      exact huf hu
    · show (F.decode r.1).Finite
      rw [hres]
      exact (h.finite_iff n hbound).2 hc
    · rw [hres]
      exact Fmt.isNeg_signed n hbound
    · rw [hres, hy, hx, Ne, sgn_inj]
      exact hr.nx_iff
    · have hcode' : code < 2 ^ (F.ebits + F.fbits + 1) := by rw [h.ebits, h.fbits]; exact hcode
      rw [hres, hy, hx]
      cases mode with
      | rne => exact h.rounded_rne hcode' hfin hr
      | rz => exact h.rounded_rz hcode' hfin hr
      | rdn => exact h.rounded_rdn hcode' hfin hr
      | rup => exact h.rounded_rup hcode' hfin hr
    · rw [hres] at ho
      cases ho
  · have hres : r = F.overflow mode sat n := hround
    have habs : |x| = m * (2 : Rat) ^ k := by rw [hx, abs_sgn, abs_of_nonneg hr.nonneg]
    obtain ⟨hneg, hinf, hmax⟩ := h.overflow_cases mode sat n
    refine ⟨by rw [hres]; rfl, by rw [hres]; rfl, fun hu => ?_, fun ho => ?_, fun _ => ⟨by rw [hlargest, habs]; exact hlt, by rw [hres]; rfl, ?_, ?_⟩⟩
    · rw [hres] at hu
      cases hu
    · rw [hres] at ho
      cases ho
    · rw [hres]
      exact hneg
    · split
      · next hgoes =>
        rw [hres]
        exact hinf hgoes
      · next hstays =>
        show |(F.decode r.1).rat| = largest
        rw [hres, hlargest]
        exact hmax hstays

end Sys2Proof


/-! What a write at the home leaves where only some of its bytes have one (R65, R71): the statement on reads after writes. -/

namespace Sys2Proof.Machine

/-! ### Writes where no byte has a home (R71) -/

theorem underPutLine_homeless_leaves {s : State} (hp : PlainMem s) {a : Nat} (bs : List Byte) (h : s.homeless a = true) :
    Leaves s (s.underPutLine a bs) s.byteAt := by
  have hkeep := keepMem_leaves hp a bs.length
  have hnone : mfind (s.keepMem a bs.length).l2 (a / 128) = none := by
    rw [(keepMem_step s a bs.length).2.2.2]
    cases hL : mfind s.l2 (a / 128) with
    | none => rfl
    | some L => exact absurd (hp.home _ _ hL) (by rw [← inL2_line hp a, inL2_of_homeless h]; decide)
  have hsame : s.underPutLine a bs = s.keepMem a bs.length := by
    simp only [State.underPutLine, hnone, hkeep.step.homeless, h, if_true]
  exact hsame ▸ hkeep

theorem homePutLineFor_homeless_leaves {s : State} (hp : PlainMem s) (svc : Nat) {a : Nat} (bs : List Byte) (h : s.homeless a = true) :
    Leaves s (s.homePutLineFor svc a bs) s.byteAt := by
  have hfill := fillFor_leaves hp svc (a / 128)
  have h' : (s.fillFor svc (a / 128)).homeless a = true := by rw [hfill.step.homeless, h]
  have hput := underPutLine_homeless_leaves hfill.plain bs h'
  have hsame : s.homePutLineFor svc a bs = (s.fillFor svc (a / 128)).underPutLine a bs := by
    simp only [State.homePutLineFor, inL2_of_homeless h', Bool.false_and, Bool.false_eq_true, if_false]
  exact hsame ▸ ⟨hfill.step.trans hput.step, hput.plain, fun x => (hput.bytes x).trans (hfill.bytes x)⟩

/-- The bytes of memory with others written over those that have a home. -/
def State.overlayHomed (s : State) (a : Nat) (bs : List Byte) (x : Nat) : Byte :=
  if s.homeless x then s.byteAt x else overlay s.byteAt a bs x

/-- Within one line either every byte has a home or none has. -/
theorem homePutLineFor_leaves_homed {s : State} (hp : PlainMem s) (svc : Nat) {a : Nat} {bs : List Byte} (hfit : a % 128 + bs.length ≤ 128)
    (hne : bs ≠ []) : Leaves s (s.homePutLineFor svc a bs) (s.overlayHomed a bs) := by
  have hline {x : Nat} (hx : a ≤ x ∧ x < a + bs.length) : s.homeless x = s.homeless a := by
    rw [hp.ranges x, hp.ranges a, show x / 128 = a / 128 by omega]
  cases h : s.homeless a with
  | true =>
    obtain ⟨hstep, hplain, hbytes⟩ := homePutLineFor_homeless_leaves hp svc bs h
    refine ⟨hstep, hplain, fun x => (hbytes x).trans ?_⟩
    by_cases hx : a ≤ x ∧ x < a + bs.length
    · rw [State.overlayHomed, if_pos (by rw [hline hx, h])]
    · rw [State.overlayHomed, overlay_out (by omega), ite_self]
  | false =>
    obtain ⟨hstep, hplain, hbytes⟩ := homePutLineFor_leaves hp svc hfit hne h
    refine ⟨hstep, hplain, fun x => (hbytes x).trans ?_⟩
    by_cases hx : a ≤ x ∧ x < a + bs.length
    · rw [State.overlayHomed, if_neg (by rw [hline hx, h]; decide)]
    · rw [State.overlayHomed, overlay_out (by omega), ite_self]

/-- Bytes written at their home, in one line or across two, for any class: those that have one are there. -/
theorem homePutFor_leaves_homed {s : State} (hp : PlainMem s) (svc : Nat) {a : Nat} {bs : List Byte} (hlen : bs.length ≤ 128) :
    Leaves s (s.homePutFor svc a bs) (s.overlayHomed a bs) := by
  by_cases hnil : bs = []
  · subst hnil
    refine ⟨.refl s, hp, fun x => ?_⟩
    rw [State.overlayHomed, overlay_nil, ite_self]
    rfl
  let n := 128 - a % 128
  have hfirst : Leaves s (s.homePutLineFor svc a (bs.take n)) (s.overlayHomed a (bs.take n)) :=
    homePutLineFor_leaves_homed hp svc (by rw [List.length_take]; omega) (by simp [hnil, n]; omega)
  simp only [State.homePutFor, if_neg hnil]
  split
  · next h =>
    rwa [List.take_of_length_le h] at hfirst ⊢
  · next h =>
    have hsecond := homePutLineFor_leaves_homed hfirst.plain svc (a := a + n) (bs := bs.drop n) (by rw [List.length_drop]; omega)
      (by simpa using h)
    refine ⟨hfirst.step.trans hsecond.step, hsecond.plain, fun x => (hsecond.bytes x).trans ?_⟩
    have htake : (bs.take n).length = n := by rw [List.length_take]; omega
    have happend := congrFun (overlay_append s.byteAt a (bs.take n) (bs.drop n)) x
    rw [htake, List.take_append_drop] at happend
    rw [State.overlayHomed, hfirst.step.homeless, State.overlayHomed, hfirst.bytes x]
    split
    · next hx => rw [State.overlayHomed, if_pos hx]
    · next hx =>
      rw [← happend]
      exact overlay_congr ((hfirst.bytes x).trans (by rw [State.overlayHomed, if_neg hx])) _ _

/-- Settles O36: a write's outcome by the homes of its bytes, and what the other steps of memory leave. -/
theorem readAfterWrite : Obligations.ReadAfterWrite := by
  unfold Obligations.ReadAfterWrite
  refine ⟨fun s svc a bs hp hlen => ?_, fun s line hp => ?_, fun s svc line hp => ?_⟩
  · obtain ⟨-, hplain, hbytes⟩ := homePutFor_leaves_homed hp svc (a := a) hlen
    refine ⟨fun hhome => ?_, fun hnone x => ?_, hplain, fun x hx => ?_⟩
    · refine List.ext_getElem (by simp [State.bytesAt]) fun j _ hj => ?_
      simp only [State.bytesAt, List.getElem_map, List.getElem_range]
      rw [hbytes, State.overlayHomed, if_neg (by rw [hhome j hj]; decide), overlay_in _ _ hj, List.getD_eq_getElem]
    · rw [hbytes, State.overlayHomed]
      split
      · rfl
      · next hx =>
        refine overlay_out (by_contra fun hin => hx ?_)
        have := hnone (x - a) (by omega)
        rwa [Nat.add_sub_cancel' (by omega)] at this
    · rw [hbytes, State.overlayHomed, overlay_out hx, ite_self]
  · obtain ⟨⟨-, hplain, hbytes⟩, hnone, -⟩ := evictLine_leaves hp line
    exact ⟨hnone, hplain, hbytes⟩
  · obtain ⟨-, hplain, hbytes⟩ := fillFor_leaves hp svc line
    exact ⟨hplain, hbytes⟩

end Sys2Proof.Machine

/-! What power-on leaves (R73, R79, R89, R109, R178, R309, R337, R352, R365). -/

namespace Sys2Proof.Machine

theorem die_reset (d : Nat) : State.reset.die d = {} := rfl

/-- Without a write to it, LEASE_CLS_n reads as R89 Table 2 gives it. -/
theorem leaseCls_reset (c : Nat) : ({} : Die).leaseCls c = leaseReset c := rfl

/-- The classes of R89 Table 2 that share one row. -/
theorem leaseReset_shared {c : Nat} (h : c = 0 ∨ (4 ≤ c ∧ c ≤ 7)) : leaseReset c = 8000#64 <<< 40 ||| 4000#64 <<< 20 ||| 500 := by
  obtain rfl | ⟨hlo, hhi⟩ := h
  · rfl
  · interval_cases c <;> rfl

/-- Settles O59: each value is the one that the reset state lists or, where it lists none, the default of its table. -/
theorem resetState : Obligations.ResetState := by
  unfold Obligations.ResetState
  refine ⟨rfl, fun _ => rfl, rfl, rfl, rfl, fun _ => rfl, rfl, reset_wf, fun d => ?_⟩
  rw [die_reset]
  refine ⟨fun _ => ⟨rfl, rfl, rfl, rfl⟩, fun _ => ⟨rfl, rfl, rfl⟩, ?_, by decide, by decide, rfl, ?_,
    rfl, rfl, rfl, rfl, rfl, rfl, rfl, rfl, rfl⟩
  · rintro c _ hc rfl
    rw [leaseCls_reset, leaseReset_shared hc]
    decide
  · rintro n _ rfl
    rw [mget_nil]
    decide

end Sys2Proof.Machine

/-! Every step keeps memory in its canonical form (O60). A lemma for each function of the model that yields a state says that it
keeps the form: most change no memory, and the others write through `hbmPut`, `hostPut`, a level-2 reset or power-on. The lemmas
stand in the order of the model's files; `h.f` reads "what `f` makes of a state with canonical memory has canonical memory". -/

namespace Sys2Proof.Machine

/- Most lemmas cite the one before: elaborated in order, they do not each hold a thread that waits for it. -/
set_option Elab.async false

/-! ### Canonical states and outcomes -/

/-- Memory in its canonical form. -/
def State.Canonical (s : State) : Prop := Memory.wf s = true

/-- A next state, where there is one, has its memory in canonical form. -/
def Kept (o : Host.Outcome State Fault Refusal) : Prop := ∀ t, o = .next t → t.Canonical

/-- A state, where there is one, has its memory in canonical form. -/
def State.KeptSome (o : Option State) : Prop := ∀ t, o = some t → t.Canonical

/-- A state that comes with a result, where there is one, has its memory in canonical form. -/
def State.KeptFst {α : Type} (o : Option (State × α)) : Prop := ∀ t, o = some t → t.1.Canonical

/-- Every part of a behaviour that yields a state keeps the canonical form of memory. -/
structure Kit.Keeps (K : Kit) : Prop where
  eff : ∀ {c : Ctx}, c.s.Canonical → (K.eff c).Canonical
  wait : ∀ {c : Ctx}, c.s.Canonical → (K.wait c).1.Canonical := by exact fun h => h
  spoilt : ∀ {c : Ctx}, c.s.Canonical → (K.spoilt c).Canonical := by exact fun h => h
  late : ∀ {c : Ctx} {t : State × List TrapRec}, c.s.Canonical → K.late c = some t → t.1.Canonical := by
    exact fun _ h => nomatch h

theorem Kept.next {s : State} (h : s.Canonical) : Kept (.next s) := fun _ ht => by cases ht; exact h

theorem Kept.fault {f : Fault} : Kept (.fault f) := fun _ ht => by cases ht

theorem State.KeptSome.none : KeptSome .none := fun _ ht => nomatch ht

theorem State.KeptSome.some {s : State} (h : s.Canonical) : KeptSome (.some s) := fun _ ht => by cases ht; exact h

theorem State.KeptFst.none {α : Type} : KeptFst (.none : Option (State × α)) := fun _ ht => nomatch ht

theorem State.KeptFst.some {α : Type} {p : State × α} (h : p.1.Canonical) : KeptFst (.some p) :=
  fun _ ht => by cases ht; exact h

/-! ### How a state is put together -/

namespace State.Canonical

theorem of_fst {α : Type} {p : State × α} {t : State} {x : α} (h : p.1.Canonical) (ht : p = (t, x)) : t.Canonical := by
  subst ht; exact h

theorem pair {s : State} {α : Type} {x : α} (h : s.Canonical) : (s, x).1.Canonical := h

theorem ite {s t : State} {p : Prop} [Decidable p] (hs : s.Canonical) (ht : t.Canonical) : (if p then s else t).Canonical := by
  split <;> assumption

theorem ite_fst {α : Type} {x y : State × α} {p : Prop} [Decidable p] (hx : x.1.Canonical) (hy : y.1.Canonical) :
    (if p then x else y).1.Canonical := by
  split <;> assumption

theorem foldl {α : Type} {f : State → α → State} {s : State} {l : List α} (h : s.Canonical)
    (hf : ∀ {s x}, s.Canonical → (f s x).Canonical) : (l.foldl f s).Canonical :=
  List.foldlRecOn (motive := State.Canonical) l f h fun _ hs _ _ => hf hs

theorem foldl_fst {α β : Type} {f : State × β → α → State × β} {p : State × β} {l : List α} (h : p.1.Canonical)
    (hf : ∀ {p x}, p.1.Canonical → (f p x).1.Canonical) : (l.foldl f p).1.Canonical :=
  List.foldlRecOn (motive := fun p => p.1.Canonical) l f h fun _ hs _ _ => hf hs

/-- A change of anything but the two memories and the count of resets. -/
theorem update {s : State} (h : s.Canonical) {issue agenda fresh nextId cycle turn time warps blocks cores launches queues graphs
    parts partitioned engines flights dies tlbs walks faults l2 uses badSectors badHbm retiredFrames copies stamps holds contexts
    zinc island kept sent} : State.Canonical { s with
      issue := issue, agenda := agenda, fresh := fresh, nextId := nextId, cycle := cycle, turn := turn, time := time, warps := warps
      blocks := blocks, cores := cores, launches := launches, queues := queues, graphs := graphs, parts := parts
      partitioned := partitioned, engines := engines, flights := flights, dies := dies, tlbs := tlbs, walks := walks
      faults := faults, l2 := l2, uses := uses, badSectors := badSectors, badHbm := badHbm, retiredFrames := retiredFrames
      copies := copies, stamps := stamps, holds := holds, contexts := contexts, zinc := zinc, island := island, kept := kept
      sent := sent } := h

theorem hbmPut {s : State} (h : s.Canonical) {a : ℕ} {bs : List Byte} : (s.hbmPut a bs).Canonical := hbmPut_wf h a bs

theorem hostPut {s : State} (h : s.Canonical) {a : ℕ} {bs : List Byte} : (s.hostPut a bs).Canonical := hostPut_wf h a bs

theorem resetPackage {s : State} (h : s.Canonical) : s.resetPackage.Canonical := resetPackage_wf h

end State.Canonical

/-! ### Memory -/

theorem State.Canonical.send {s : State} {x : Sent} (h : s.Canonical) : (s.send x).Canonical := h

theorem State.Canonical.askFar {s : State} {pa : ℕ} {x : ℕ → Sent} (h : s.Canonical) : (s.askFar pa x).Canonical :=
  .ite h h

theorem State.Canonical.sendAll {s : State} {l : List Sent} (h : s.Canonical) : (s.sendAll l).Canonical :=
  .foldl h fun h₁ => h₁

theorem State.Canonical.modDie {s : State} {d : ℕ} {f : Die → Die} (h : s.Canonical) : (s.modDie d f).Canonical :=
  h

theorem State.Canonical.clearPoison {s : State} {a n : ℕ} (h : s.Canonical) : (s.clearPoison a n).Canonical :=
  .ite h h

theorem State.Canonical.coverPoison {s : State} {l : List (ℕ × ℕ)} (h : s.Canonical) : (s.coverPoison l).Canonical := by
  unfold State.coverPoison
  split
  · exact h
  · exact .foldl h fun h₁ => h₁.clearPoison

theorem State.Canonical.addPoison {s : State} {k : ℕ} (h : s.Canonical) : (s.addPoison k).Canonical :=
  .ite h h

theorem State.Canonical.syncPoison {s : State} {line : ℕ} (h : s.Canonical) : (s.syncPoison line).Canonical :=
  .ite h h

theorem State.Canonical.settlePoison {s : State} {line : ℕ} (h : s.Canonical) : (s.settlePoison line).Canonical :=
  .ite h h

theorem State.Canonical.keepMem {s : State} {a n : ℕ} (h : s.Canonical) : (s.keepMem a n).Canonical := by
  unfold State.keepMem
  split <;> exact h

theorem State.Canonical.keepNone {s : State} {sees : ℕ → Bool} {a n : ℕ} (h : s.Canonical) :
    (s.keepNone sees a n).Canonical :=
  h

theorem State.Canonical.underPutLine {s : State} {a : ℕ} {bs : List Byte} (h : s.Canonical) :
    (s.underPutLine a bs).Canonical := by
  unfold State.underPutLine
  extract_lets +onlyGivenNames s₁
  have h₁ : s₁.Canonical := h.keepMem
  split
  · exact h₁
  · exact .ite h₁ (.ite h₁.hostPut h₁.hbmPut)

theorem State.Canonical.underPut {s : State} {a : ℕ} {bs : List Byte} (h : s.Canonical) : (s.underPut a bs).Canonical := by
  unfold State.underPut
  extract_lets +onlyGivenNames n s1₁
  have h₁ : s1₁.Canonical := .ite h h.underPutLine
  exact .ite h₁ h₁.underPutLine

theorem State.Canonical.writeBack {s : State} {line : ℕ} (h : s.Canonical) : (s.writeBack line).Canonical := by
  unfold State.writeBack
  split
  · exact h
  · split
    · exact .ite h h.hbmPut.settlePoison
    · extract_lets +onlyGivenNames D off
      refine .foldl h fun h₁ => ?_
      split
      · exact h₁
      · extract_lets +onlyGivenNames i
        split
        · extract_lets +onlyGivenNames s₂ s₃ s₄ bits
          have h₂ : s₂.Canonical := h₁.underPut
          have h₃ : s₃.Canonical := .ite h₂ h₂.underPut
          have h₄ : s₄.Canonical := .ite (.foldl h₃ fun h₄ => h₄.addPoison) h₃
          exact .ite h₄ h₄

theorem State.Canonical.cleanLine {s : State} {line : ℕ} (h : s.Canonical) : (s.cleanLine line).Canonical :=
  .update (.writeBack h)

theorem State.Canonical.evictLine {s : State} {line : ℕ} (h : s.Canonical) : (s.evictLine line).Canonical :=
  .modDie (.syncPoison (.update (.writeBack h)))

theorem State.Canonical.discardLine {s : State} {line : ℕ} (h : s.Canonical) : (s.discardLine line).Canonical := by
  unfold State.discardLine
  split
  · exact h
  · exact .syncPoison (.update (.keepMem h))

theorem State.Canonical.enterLine {s : State} {line way : ℕ} (h : s.Canonical) : (s.enterLine line way).Canonical := by
  unfold State.enterLine
  extract_lets +onlyGivenNames s₁
  have h₁ : s₁.Canonical := by
    unfold s₁
    split
    · exact .foldl h fun h₁ => h₁.addPoison
    · exact h
  exact h₁

theorem State.Canonical.fillFor {s : State} {svc line : ℕ} (h : s.Canonical) : (s.fillFor svc line).Canonical := by
  unfold State.fillFor
  split
  · exact h
  · split
    · exact h
    · split
      · exact h
      · exact h.enterLine
      · exact h.evictLine.enterLine

theorem State.Canonical.homePutLineFor {s : State} {svc a : ℕ} {bs : List Byte} (h : s.Canonical) :
    (s.homePutLineFor svc a bs).Canonical := by
  unfold State.homePutLineFor
  extract_lets +onlyGivenNames s₁
  have h₁ : s₁.Canonical := h.fillFor
  exact .ite h₁.enterLine.underPutLine.evictLine h₁.underPutLine

theorem State.Canonical.homePutFor {s : State} {svc a : ℕ} {bs : List Byte} (h : s.Canonical) :
    (s.homePutFor svc a bs).Canonical := by
  unfold State.homePutFor
  extract_lets +onlyGivenNames n s1₁
  have h₁ : s1₁.Canonical := .ite h h.homePutLineFor
  exact .ite h₁ h₁.homePutLineFor

theorem State.Canonical.homePut {s : State} {a : ℕ} {bs : List Byte} (h : s.Canonical) : (s.homePut a bs).Canonical :=
  h.homePutFor

theorem State.Canonical.homePutRun {s : State} {a : ℕ} {bs : List Byte} (h : s.Canonical) : (s.homePutRun a bs).Canonical :=
  .foldl h fun h₁ => h₁.homePut

theorem State.Canonical.stamp {s : State} {a die : ℕ} {e : DWord} (h : s.Canonical) : (s.stamp a die e).Canonical :=
  h

theorem State.Canonical.dropCopy {s : State} {cache sector : ℕ} (h : s.Canonical) : (s.dropCopy cache sector).Canonical :=
  h

theorem State.Canonical.updateCopy {s : State} {cache a : ℕ} {bs : List Byte} (h : s.Canonical) :
    (s.updateCopy cache a bs).Canonical :=
  h

theorem State.Canonical.cleanCopies {s : State} {core sector : ℕ} (h : s.Canonical) :
    (s.cleanCopies core sector).Canonical :=
  .ite h (.foldl h fun h₁ => h₁)

theorem State.Canonical.emptyCache {s : State} {cache : ℕ} (h : s.Canonical) : (s.emptyCache cache).Canonical :=
  h

theorem State.Canonical.dropLine {s : State} {cache line : ℕ} (h : s.Canonical) : (s.dropLine cache line).Canonical :=
  .foldl h fun h₁ => h₁

theorem State.Canonical.freshNow {s : State} (h : s.Canonical) : s.freshNow.Canonical := h

theorem State.Canonical.enterL1 {s : State} {core sector : ℕ} {first : Bool} {c : Copy} (h : s.Canonical) :
    (s.enterL1 core sector first c).Canonical := by
  unfold State.enterL1
  extract_lets +onlyGivenNames held lines s₁
  have h₁ : s₁.Canonical := by
    unfold s₁
    split
    · exact h
    · split
      · exact h.dropLine
      · exact h.dropLine.freshNow
  exact h₁

theorem State.Canonical.useL1 {s : State} {core sector : ℕ} {first : Bool} (h : s.Canonical) :
    (s.useL1 core sector first).Canonical :=
  .ite h h

theorem State.Canonical.enterRdc {s : State} {die svc sector : ℕ} {first : Bool} {c : Copy} (h : s.Canonical) :
    (s.enterRdc die svc sector first c).Canonical := by
  unfold State.enterRdc
  extract_lets +onlyGivenNames put lines
  split
  · exact h
  · split
    · exact h
    · exact h
    · exact .update (.dropLine h)

theorem State.Canonical.serveRead {s : State} {core svc : ℕ} {a : Access} (h : s.Canonical) :
    (s.serveRead core svc a).1.Canonical := by
  unfold State.serveRead
  extract_lets +onlyGivenNames die sec off part home bad ask
  split
  · exact .askFar h
  · extract_lets +onlyGivenNames first
    split
    · exact h.useL1
    · extract_lets +onlyGivenNames remote
      split
      · extract_lets +onlyGivenNames s₁
        have h₁ : s₁.Canonical := .ite h h
        exact .ite h₁ h₁.enterL1
      · extract_lets +onlyGivenNames s₂ dur
        have h₂ : s₂.Canonical := h.fillFor.askFar
        split
        · exact h₂
        · extract_lets +onlyGivenNames s₃ e c s₄ s₅
          have h₃ : s₃.Canonical := h₂.askFar
          have h₄ : s₄.Canonical := h₃
          have h₅ : s₅.Canonical := .ite h₄.enterRdc h₄
          exact .ite h₅ h₅.enterL1

theorem State.Canonical.storeSnoop {s : State} {core a : ℕ} {bs : List Byte} (h : s.Canonical) :
    (s.storeSnoop core a bs).Canonical := by
  unfold State.storeSnoop
  extract_lets +onlyGivenNames cl s₁
  have h₁ : s₁.Canonical := .foldl h fun h₁ => .ite h₁ h₁.dropCopy
  exact h₁.updateCopy.updateCopy

theorem State.Canonical.modBlock {s : State} {b : ℕ} {f : Block → Block} (h : s.Canonical) : (s.modBlock b f).Canonical :=
  h

theorem State.Canonical.keepSpad {s : State} {b a : ℕ} {bs : List Byte} {sees : ℕ → Bool} (h : s.Canonical) :
    (s.keepSpad b a bs sees).Canonical := by
  unfold State.keepSpad
  split <;> exact h

theorem State.Canonical.releaseSpad {s : State} {k : ℕ} (h : s.Canonical) : (s.releaseSpad k).Canonical := h

theorem State.Canonical.hideUnseen {s : State} {k op : ℕ} (h : s.Canonical) : (s.hideUnseen k op).Canonical := by
  unfold State.hideUnseen
  split
  · exact h
  · split <;> exact h

theorem State.Canonical.spadWriteFor {s : State} {k b a : ℕ} {bs : List Byte} {sees : ℕ → Bool} (h : s.Canonical) :
    (s.spadWriteFor k b a bs sees).Canonical :=
  h.keepSpad.modBlock

theorem State.Canonical.spadWrite {s : State} {k b a : ℕ} {bs : List Byte} (h : s.Canonical) :
    (s.spadWrite k b a bs).Canonical :=
  h.spadWriteFor

theorem State.Canonical.enterTlb {s : State} {place : ℕ} {t : Trans} (h : s.Canonical) : (s.enterTlb place t).Canonical :=
  .ite h (.ite h h)

theorem State.Canonical.addTrans {s : State} {core : ℕ} {t : Trans} (h : s.Canonical) : (s.addTrans core t).Canonical :=
  .foldl h fun h₁ => h₁.enterTlb

theorem State.Canonical.virtPut {s : State} {queue va : ℕ} {bs : List Byte} (h : s.Canonical) :
    (s.virtPut queue va bs).Canonical := by
  unfold State.virtPut
  refine .foldl h fun h₁ => ?_
  split
  · exact h₁.homePut
  · exact h₁

/-! ### Ops -/

theorem State.Canonical.modWarp {s : State} {k : ℕ} {f : Warp → Warp} (h : s.Canonical) : (s.modWarp k f).Canonical :=
  h

theorem State.Canonical.modMx {s : State} {k : ℕ} {f : MxUnit → MxUnit} (h : s.Canonical) : (s.modMx k f).Canonical :=
  h

theorem State.Canonical.modTap {s : State} {k : ℕ} {f : TapUnit → TapUnit} (h : s.Canonical) : (s.modTap k f).Canonical :=
  h

theorem State.Canonical.modLaunch {s : State} {k : ℕ} {f : Launch → Launch} (h : s.Canonical) :
    (s.modLaunch k f).Canonical :=
  h

theorem State.Canonical.modPart {s : State} {k : ℕ} {f : Partition → Partition} (h : s.Canonical) :
    (s.modPart k f).Canonical :=
  h

theorem State.Canonical.opVisible {s : State} {k op : ℕ} (h : s.Canonical) : (s.opVisible k op).Canonical := by
  unfold State.opVisible
  split
  · exact h
  · exact .ite h h

theorem State.Canonical.settleWarp {s : State} {k : ℕ} (h : s.Canonical) : (s.settleWarp k).Canonical :=
  .foldl h fun h₂ => h₂.opVisible

theorem State.Canonical.completeOp {s : State} {k op : ℕ} (h : s.Canonical) : (s.completeOp k op).Canonical := by
  unfold State.completeOp
  extract_lets +onlyGivenNames s₁
  have h₁ : s₁.Canonical := h
  exact .ite h₁ h₁.settleWarp

theorem State.Canonical.launchFlight {s : State} {f : Flight} (h : s.Canonical) : (s.launchFlight f).Canonical :=
  h

theorem State.Canonical.ras {s : State} {die : ℕ} {r : RasRec} (h : s.Canonical) : (s.ras die r).Canonical :=
  h

theorem State.Canonical.rasPacket {s : State} {queue pkt sub reason : ℕ} (h : s.Canonical) :
    (s.rasPacket queue pkt sub reason).Canonical :=
  h

theorem State.Canonical.graceStart {s : State} {p : ℕ} (h : s.Canonical) : (s.graceStart p).Canonical := by
  unfold State.graceStart
  split
  · exact h
  · exact .foldl h fun h₂ => h₂

theorem State.Canonical.quiescent {s : State} {k : ℕ} (h : s.Canonical) : (s.quiescent k).Canonical := by
  unfold State.quiescent
  extract_lets +onlyGivenNames W p
  split <;> exact h

theorem State.Canonical.quietCheck {s : State} {k : ℕ} (h : s.Canonical) : (s.quietCheck k).Canonical :=
  .ite h (.quiescent h)

theorem State.Canonical.quietPoint {s : State} {k : ℕ} (h : s.Canonical) : (s.quietPoint k).Canonical :=
  .quietCheck h

theorem State.Canonical.freshen {s : State} (h : s.Canonical) : s.freshen.Canonical := h

theorem State.Canonical.modNode {s : State} {g n : ℕ} {f : Node → Node} (h : s.Canonical) : (s.modNode g n f).Canonical :=
  h

theorem State.Canonical.freePlaces {s : State} {l : ℕ} (h : s.Canonical) : (s.freePlaces l).Canonical := by
  unfold State.freePlaces
  split
  · exact h
  · split
    · exact h
    · split
      · exact h
      · exact .freshen (.foldl h fun h₂ => h₂.homePut)

theorem State.Canonical.ndoneOver {s : State} {l : ℕ} (h : s.Canonical) : (s.ndoneOver l).Canonical :=
  .ite h.freePlaces h

theorem State.Canonical.endBlock {s : State} {b : ℕ} (h : s.Canonical) : (s.endBlock b).Canonical := by
  unfold State.endBlock
  split
  · exact h
  · split
    · exact .ite h h
    · exact h

theorem State.Canonical.endWarp {s : State} {k : ℕ} (h : s.Canonical) : (s.endWarp k).Canonical := by
  unfold State.endWarp
  extract_lets +onlyGivenNames W s₁ s₂ s₃ s₄ s₅ redund
  have h₁ : s₁.Canonical := h
  have h₂ : s₂.Canonical := h₁.quietPoint
  have h₃ : s₃.Canonical := h₂
  have h₄ : s₄.Canonical := .ite h₃ h₃
  have h₅ : s₅.Canonical := .ite h₄ h₄.ndoneOver
  exact .ite h₅ h₅.endBlock

theorem State.Canonical.killOne {s : State} {k : ℕ} (h : s.Canonical) : (s.killOne k).Canonical := .endWarp h

theorem State.Canonical.doom {s : State} {k : ℕ} (h : s.Canonical) : (s.doom k).Canonical :=
  .foldl h fun h₁ => h₁

theorem State.Canonical.kill {s : State} {k cause lane : ℕ} {va : DWord} {pa : Option ℕ} {info2 : optParam ℕ 0}
    (h : s.Canonical) : (s.kill k cause lane va pa info2).Canonical := by
  unfold State.kill
  split
  · exact h.doom
  · exact .ras (.endBlock (.foldl h fun h₁ => h₁.killOne))

theorem State.Canonical.killTrans {s : State} {k lane : ℕ} {va : DWord} {level : ℕ} (h : s.Canonical) :
    (s.killTrans k lane va level).Canonical :=
  .ite h h.kill

theorem State.Canonical.killPoison {s : State} {k lane : ℕ} {va : DWord} {pa : Option ℕ} (h : s.Canonical) :
    (s.killPoison k lane va pa).Canonical := by
  unfold State.killPoison
  extract_lets +onlyGivenNames W s₁
  have h₁ : s₁.Canonical := h.kill
  split <;> exact h₁

theorem State.Canonical.txAbort {s : State} {k lane cause code : ℕ} (h : s.Canonical) :
    (s.txAbort k lane cause code).Canonical := by
  unfold State.txAbort
  split
  · exact h
  · split
    · exact h
    · exact .ite h h

theorem State.Canonical.txAbortAll {s : State} {k cause : ℕ} (h : s.Canonical) : (s.txAbortAll k cause).Canonical := by
  unfold State.txAbortAll
  split
  · exact h
  · exact .foldl h fun h₁ => h₁.txAbort

theorem State.Canonical.endTests {s : State} {k : ℕ} (h : s.Canonical) : (s.endTests k).Canonical := by
  unfold State.endTests
  extract_lets +onlyGivenNames W
  split
  · exact h
  · extract_lets +onlyGivenNames core l s₁
    exact .foldl h fun h₁ => .foldl h₁ fun h₂ => h₂

theorem State.Canonical.trap {s : State} {k : ℕ} {rs : List TrapRec} (h : s.Canonical) : (s.trap k rs).Canonical := by
  unfold State.trap
  split
  · exact .ite h.killTrans h.kill
  · exact h
  · split
    · exact h
    · split
      · exact h.killPoison
      · exact h.txAbortAll.endTests.modWarp

theorem State.Canonical.eret {s : State} {k : ℕ} (h : s.Canonical) : (s.eret k).Canonical := .trap h

theorem State.Canonical.stop {c : Ctx} {s : State} {why : Cond} (h : s.Canonical) : (c.stop s why).Canonical :=
  h

theorem State.Canonical.retire {c : Ctx} {jumps : Bool} {s : State} (h : s.Canonical) : (c.retire jumps s).Canonical :=
  h

theorem State.Canonical.fault {c : Ctx} {s : State} {rs : List TrapRec} (h : s.Canonical) : (c.fault s rs).Canonical := by
  unfold Ctx.fault
  split
  · exact h
  · exact .trap h

theorem State.Canonical.poisoned {c : Ctx} {lane : ℕ} {va : DWord} {pa : Option ℕ} (h : c.s.Canonical) :
    (c.poisoned lane va pa).Canonical := by
  unfold Ctx.poisoned
  split
  · exact h
  · exact h.killPoison

theorem State.Canonical.startWalk {s : State} {core queue p : ℕ} (h : s.Canonical) : (s.startWalk core queue p).Canonical :=
  .ite h (.ite h h)

theorem State.Canonical.startWalks {s : State} {core queue : ℕ} {ps : List ℕ} (h : s.Canonical) :
    (s.startWalks core queue ps).Canonical :=
  .foldl h fun h₁ => h₁.startWalk

theorem State.Canonical.startWalksAt {s : State} {core queue : ℕ} {vas : List ℕ} (h : s.Canonical) :
    (s.startWalksAt core queue vas).Canonical :=
  h.startWalks

theorem State.Canonical.finish {c : Ctx} {K : Kit} {rs : List TrapRec} (hK : K.Keeps) (h : c.s.Canonical) :
    (c.finish K rs).Canonical := by
  unfold Ctx.finish
  extract_lets +onlyGivenNames fm good c₁ s₁
  have h₁ : s₁.Canonical := by
    unfold s₁
    exact .ite h (.retire (hK.eff h))
  exact .ite h₁ h₁.fault

theorem State.Canonical.perform {c : Ctx} {K : Kit} (hK : K.Keeps) (h : c.s.Canonical) : (c.perform K).Canonical := by
  unfold Ctx.perform
  extract_lets +onlyGivenNames pre c₁ lost on all c₂
  clear_value lost
  have hc₂ : c₂.s.Canonical := h
  split
  · exact h.fault
  · split
    · exact (hK.spoilt hc₂).poisoned
    · cases lost with
      | cons a as => exact h.startWalksAt.stop
      | nil =>
        have hw := hK.wait hc₂
        dsimp only
        split
        · next hs =>
          rw [hs] at hw
          exact .ite (.finish hK h) hw.stop
        · next hs =>
          rw [hs] at hw
          split
          · next hl =>
            split at hl
            · cases hl
            · exact (hK.late (c := { c₂ with s := _, W := _ }) hw hl).fault
          · exact .finish hK hw

theorem State.Canonical.txSkip {s : State} {k : ℕ} {m : BitVec 16} (h : s.Canonical) : (s.txSkip k m).1.Canonical := by
  unfold State.txSkip
  extract_lets +onlyGivenNames W
  split
  · exact h
  · extract_lets +onlyGivenNames out
    clear_value out
    split
    · exact h
    · split
      · exact h
      · split <;> exact h

theorem State.Canonical.skip {c : Ctx} (h : c.s.Canonical) : c.skip.s.Canonical := by
  unfold Ctx.skip
  split
  · exact h
  · exact h.txSkip

theorem State.Canonical.disallow {c : Ctx} {K : Kit} (h : c.s.Canonical) : (c.disallow K).s.Canonical := by
  unfold Ctx.disallow
  split
  · exact h
  · split
    · exact h
    · extract_lets +onlyGivenNames s₁
      have h₁ : s₁.Canonical := .foldl h fun h₁ => h₁.txAbort
      exact h₁.skip

theorem State.Canonical.issue {c : Ctx} {K : Kit} (hK : K.Keeps) (h : c.s.Canonical) : (c.issue K).Canonical := by
  unfold Ctx.issue
  extract_lets +onlyGivenNames c₁
  have h₁ : c₁.s.Canonical := h.skip
  split
  · exact h₁
  · split
    · exact h₁.stop
    · split
      · exact h₁.fault
      · split
        · exact h₁.fault
        · split
          · exact h₁.stop
          · split
            · exact h₁.stop
            · split
              · exact h₁.poisoned
              · exact .ite h₁.disallow (.perform hK h₁.disallow)

theorem Kept.run {o : Op} {len : Len} {w : Fields} {K : Kit} {s : State} (hK : K.Keeps) (h : s.Canonical) :
    Kept (run o len w K s) := by
  unfold Machine.run
  split
  · exact .fault
  · exact .next (.issue hK h)

theorem State.Canonical.put {c : Ctx} {s : State} {r : ℕ} {vals : List (ℕ × Word)} (h : s.Canonical) :
    (c.put s r vals).Canonical :=
  h

theorem State.Canonical.later {c : Ctx} {s : State} {cls : ℕ} {vals : List (ℕ × ℕ × Word)} {regs : List ℕ}
    (h : s.Canonical) : (c.later s cls vals regs).Canonical :=
  h

theorem State.Canonical.laterEach {c : Ctx} {s : State} {cls : ℕ} {f : ℕ → Word} (h : s.Canonical) :
    (c.laterEach s cls f).Canonical :=
  h

theorem State.Canonical.endQuantum {s : State} {k : ℕ} (h : s.Canonical) : (s.endQuantum k).Canonical := h

theorem State.Canonical.wake {s : State} {k : ℕ} {p : Cond → Bool} (h : s.Canonical) : (s.wake k p).Canonical :=
  h

theorem State.Canonical.progress {s : State} {k : ℕ} (h : s.Canonical) : (s.progress k).Canonical := h

/-! ### FloatOps -/

theorem kitMxscale_keeps : kitMxscale.Keeps where eff h := .ite h h

/-! ### Lanes -/

theorem kitVote_keeps : kitVote.Keeps where
  eff h := by
    dsimp -zeta only [kitVote]
    split <;> exact h

theorem kitMatch_keeps : kitMatch.Keeps where
  eff h := by
    dsimp -zeta only [kitMatch]
    split <;> exact h

theorem kitWred_keeps : kitWred.Keeps where eff h := .ite h h

theorem kitWscan_keeps : kitWscan.Keeps where eff h := .ite h h

/-! ### Place -/

theorem State.Canonical.addLaunch {s : State} {L : Launch} (h : s.Canonical) : (s.addLaunch L).Canonical := h

theorem State.Canonical.addBlock {s : State} {l : ℕ} {L : Launch} {c b core : ℕ} (h : s.Canonical) :
    (s.addBlock l L c b core).1.Canonical :=
  h

theorem State.Canonical.placeCluster {s : State} {l : ℕ} {L : Launch} {c cl : ℕ} (h : s.Canonical) {t : State × List ℕ}
    (ht : s.placeCluster l L c cl = some t) : t.1.Canonical := by
  refine List.foldlRecOn (motive := State.KeptFst) _ _ ?_ ?_ t ht
  · exact .some h
  · intro o ho _ _
    split
    · exact .none
    · split
      · exact .none
      · exact .some (ho _ rfl).addBlock

theorem State.Canonical.checkpoint {s : State} {b : ℕ} (h : s.Canonical) : (s.checkpoint b).Canonical := h

theorem State.Canonical.nextQuantum {s : State} {b : ℕ} (h : s.Canonical) : (s.nextQuantum b).Canonical := h

theorem State.Canonical.tieCopies {s : State} {ps ts : List ℕ} (h : s.Canonical) : (s.tieCopies ps ts).Canonical :=
  .foldl h fun h₁ => h₁.modBlock.modBlock.checkpoint.checkpoint

theorem State.Canonical.placeAll {s : State} {l : ℕ} {L : Launch} {c cl : ℕ} (h : s.Canonical) {t : State}
    (ht : s.placeAll l L c cl = some t) : t.Canonical := by
  unfold State.placeAll at ht
  split at ht
  · cases ht
  · next hp =>
    have h₁ := h.placeCluster hp
    split at ht
    · cases ht; exact h₁
    · obtain ⟨o, -, ho⟩ := List.exists_of_findSome?_eq_some ht
      obtain ⟨x, hx, rfl⟩ := Option.map_eq_some_iff.1 ho
      exact .ite (h₁.placeCluster hx).tieCopies (h₁.placeCluster hx).tieCopies

theorem State.Canonical.placeBeside {s : State} {l : ℕ} {L : Launch} (h : s.Canonical) {t : State}
    (ht : s.placeBeside l L = some t) : t.Canonical := by
  obtain ⟨cl, -, hcl⟩ := List.exists_of_findSome?_eq_some ht
  exact h.placeAll (Option.filter_eq_some_iff.1 hcl).1

/-! ### Fork -/

theorem State.Canonical.noteWrites {s : State} {k : ℕ} {secs : List ℕ} (h : s.Canonical) : (s.noteWrites k secs).Canonical :=
  h

theorem State.Canonical.bufFull {s : State} {k : ℕ} (h : s.Canonical) : (s.bufFull k).Canonical := .ite h h

theorem State.Canonical.raceRecord {s : State} {k writer ivn kind : ℕ} {va : DWord} {pa : Option ℕ} (h : s.Canonical) :
    (s.raceRecord k writer ivn kind va pa).Canonical := by
  unfold State.raceRecord
  extract_lets +onlyGivenNames W V r r r s₁
  have h₁ : s₁.Canonical := h
  exact .ite h₁.kill h₁

theorem State.Canonical.shadowPut {s : State} {die sec : ℕ} {e : ℕ × ℕ × ℕ} (h : s.Canonical) :
    (s.shadowPut die sec e).Canonical :=
  .ite h h

theorem State.Canonical.raceCheckAs {s : State} {k : ℕ} {rel : List ℕ} {store : Bool} {va : DWord} {pa : ℕ}
    (h : s.Canonical) : (s.raceCheckAs k rel store va pa).Canonical := by
  unfold State.raceCheckAs
  split
  · exact h
  · extract_lets +onlyGivenNames die sec s₁
    have h₁ : s₁.Canonical := by
      unfold s₁
      split
      · exact .ite h.raceRecord h
      · exact h
    exact .ite h₁.shadowPut h₁

theorem State.Canonical.raceCheck {s : State} {k : ℕ} {store : Bool} {va : DWord} {pa : ℕ} (h : s.Canonical) :
    (s.raceCheck k store va pa).Canonical :=
  h.raceCheckAs

theorem State.Canonical.raceSpadAs {s : State} {k : ℕ} {rel : List ℕ} {store : Bool} {a : ℕ} (h : s.Canonical) :
    (s.raceSpadAs k rel store a).Canonical := by
  unfold State.raceSpadAs
  split
  · exact h
  · extract_lets +onlyGivenNames b sec sh s₁
    have h₁ : s₁.Canonical := by
      unfold s₁
      split
      · exact .ite h.raceRecord h
      · exact h
    exact .ite h₁ h₁

theorem State.Canonical.raceSpad {s : State} {k : ℕ} {store : Bool} {a : ℕ} (h : s.Canonical) :
    (s.raceSpad k store a).Canonical :=
  h.raceSpadAs

theorem State.Canonical.streamStores {s : State} {k : ℕ} {place : Option ℕ} {accs : List Access} (h : s.Canonical) :
    (s.streamStores k place accs).Canonical :=
  .ite h h

theorem State.Canonical.streamSpad {s : State} {k : ℕ} {cells : List Host.Cell} (h : s.Canonical) :
    (s.streamSpad k cells).Canonical :=
  .ite h (.foldl h fun h₂ => h₂.spadWrite)

theorem State.Canonical.storeSpad {s : State} {k : ℕ} {cells : List Host.Cell} (h : s.Canonical) :
    (s.storeSpad k cells).Canonical := by
  unfold State.storeSpad
  extract_lets +onlyGivenNames s₁
  have h₁ : s₁.Canonical := .ite h (.foldl h fun h₁ => h₁.raceSpad)
  exact .ite h₁ h₁.streamSpad

theorem State.Canonical.forkCall {c : Ctx} {link callee : DWord} (h : c.s.Canonical) :
    (c.forkCall link callee).Canonical := by
  unfold Ctx.forkCall
  extract_lets +onlyGivenNames n vf lanes settled V site values twin tid f s₁ s₂ s₃ s₄ s₅
  have h₁ : s₁.Canonical := h
  have h₂ : s₂.Canonical := h₁
  have h₃ : s₃.Canonical := .foldl h₂ fun h₃ => h₃
  have h₄ : s₄.Canonical := h₃
  have h₅ : s₅.Canonical := h₄
  exact h₅

theorem State.Canonical.dropInner {s : State} {k : ℕ} {f : Fork} (h : s.Canonical) : (s.dropInner k f).Canonical :=
  .foldl h fun h₁ => .quiescent h₁

theorem State.Canonical.inherit {s : State} {twin k : ℕ} (h : s.Canonical) : (s.inherit twin k).Canonical :=
  .modWarp (.quiescent h)

theorem State.Canonical.handFlags {s : State} {k : ℕ} {f : Fork} {flags : Word} (h : s.Canonical) :
    (s.handFlags k f flags).Canonical := by
  unfold State.handFlags
  split
  · exact h
  · split <;> exact h

theorem State.Canonical.verdict {s : State} {twin : ℕ} (h : s.Canonical) : (s.verdict twin).Canonical := by
  unfold State.verdict
  extract_lets +onlyGivenNames T
  split
  · exact h
  · split
    · exact h
    · extract_lets +onlyGivenNames true_ lead entry ok s₁ s₂ s₃ s₄ others s₅ s₆ s₇ gone s₈ s₉ s₁₀ s₁₁ s₁₂
      have h₁ : s₁.Canonical := h
      have h₂ : s₂.Canonical := h₁.inherit
      have h₃ : s₃.Canonical := .ite h₂ h₂.dropInner
      have h₄ : s₄.Canonical := h₃
      have h₅ : s₅.Canonical := h₄.handFlags
      have h₆ : s₆.Canonical := h₅
      have h₇ : s₇.Canonical := .foldl h₆ fun h₇ => h₇.streamStores
      have h₈ : s₈.Canonical := h₄
      have h₉ : s₉.Canonical := .foldl h₈ fun h₉ => h₉.completeOp
      have h₁₀ : s₁₀.Canonical := h₉
      have h₁₁ : s₁₁.Canonical := .ite (.bufFull (.foldl h₇ fun h₁₁ => h₁₁.storeSpad)) (.foldl h₁₀ fun h₁₁ => h₁₁)
      have h₁₂ : s₁₂.Canonical := h₁₁
      split
      · exact h₁₂
      · split
        · exact h₁₂.killPoison
        · exact h₁₂.trap

/-! ### View -/

theorem State.Canonical.modBar {s : State} {b n : ℕ} {f : Barrier → Barrier} (h : s.Canonical) :
    (s.modBar b n f).Canonical :=
  h

theorem State.Canonical.releaseBar {s : State} {b n : ℕ} {there : ℕ → Bool} (h : s.Canonical) :
    (s.releaseBar b n there).Canonical :=
  .foldl h fun h₁ => h₁

theorem State.Canonical.completePhase {s : State} {b n : ℕ} (h : s.Canonical) : (s.completePhase b n).Canonical :=
  h.releaseBar.modBar

theorem State.Canonical.settleBar {s : State} {b n r : ℕ} (h : s.Canonical) : (s.settleBar b n r).Canonical := by
  unfold State.settleBar
  extract_lets +onlyGivenNames x
  split
  · exact h
  · extract_lets +onlyGivenNames W
    split
    · exact h
    · split
      · extract_lets +onlyGivenNames s₁
        exact .ite h h
      · exact h

theorem State.Canonical.arrive {s : State} {k n : ℕ} {m : BitVec 16} {expect : ℕ} (h : s.Canonical) :
    (s.arrive k n m expect).Canonical := by
  unfold State.arrive
  extract_lets +onlyGivenNames W r b s₁
  have h₁ : s₁.Canonical := .ite h.completePhase h
  exact .progress (.modWarp (.settleBar h₁))

theorem State.Canonical.settleBars {s : State} {k : ℕ} (h : s.Canonical) : (s.settleBars k).Canonical :=
  .foldl h fun h₁ => h₁.settleBar

/-! ### Control -/

theorem kitRet_keeps : kitRet.Keeps where
  eff h := by
    dsimp -zeta only [kitRet]
    extract_lets +onlyGivenNames out s₁
    have h₁ : s₁.Canonical := h
    exact .ite h₁.verdict h₁

theorem kitFcall_keeps : kitFcall.Keeps where eff h := .ite (.forkCall h) h

theorem kitRegang_keeps : kitRegang.Keeps where
  wait h := by
    dsimp -zeta only [kitRegang]
    split
    · exact h
    · split <;> exact h
  eff h := h

theorem State.Canonical.barWait {c : Ctx} {expect : ℕ} (h : c.s.Canonical) : (c.barWait expect).1.Canonical := by
  unfold Ctx.barWait
  split
  · exact h
  · split
    · exact h
    · split
      · exact h
      · split
        · exact h
        · exact h.arrive

theorem kitBar_keeps : kitBar.Keeps where
  wait h := h.barWait
  eff h := h

theorem kitBara_keeps : kitBara.Keeps where
  wait h := by
    dsimp -zeta only [kitBara]
    split
    · exact h
    · split
      · exact h
      · exact h.arrive
  eff h := h

theorem kitBarw_keeps : kitBarw.Keeps where
  wait h := h.barWait
  eff h := h

theorem kitPba_keeps : kitPba.Keeps where
  eff h := by
    dsimp -zeta only [kitPba]
    split
    · exact h
    · extract_lets +onlyGivenNames a n s₁ s₂
      have h₁ : s₁.Canonical := h
      have h₂ : s₂.Canonical := h₁
      exact .ite (.bufFull h₂) h₂.spadWrite.releaseSpad

theorem kitPbw_keeps : kitPbw.Keeps where
  wait h := by
    dsimp -zeta only [kitPbw]
    extract_lets +onlyGivenNames a last
    split
    · exact h
    · split
      · exact h
      · exact .ite h h
  eff h := .ite h h

theorem kitExit_keeps : kitExit.Keeps where
  eff h := by
    dsimp -zeta only [kitExit]
    extract_lets +onlyGivenNames out open_ s₁ s₂
    have h₁ : s₁.Canonical := .foldl h fun h₁ => h₁.txAbort
    have h₂ : s₂.Canonical := h₁
    split
    · exact .ite h₂ h₂.settleBars
    · split
      · exact h₂.kill
      · exact h₂.endWarp

/-! ### Access -/

theorem State.Canonical.takeSector {s : State} {k lane sec : ℕ} (h : s.Canonical) : (s.takeSector k lane sec).Canonical := by
  unfold State.takeSector
  split
  · exact h
  · split
    · exact h
    · split
      · exact h
      · split
        · exact h
        · exact .ite h.txAbort (.update (.txAbort h))

theorem State.Canonical.txTouch {s : State} {k lane sec : ℕ} (h : s.Canonical) : (s.txTouch k lane sec).Canonical := by
  unfold State.txTouch
  split
  · exact h
  · split
    · exact h
    · exact .ite h (.ite h (.ite h.txAbort (.takeSector h)))

theorem State.Canonical.txTouchAll {s : State} {k : ℕ} {accs : List Access} (h : s.Canonical) :
    (s.txTouchAll k accs).Canonical :=
  .ite h (.foldl h fun h₁ => .foldl h₁ fun h₂ => .ite h₂.txTouch h₂)

theorem State.Canonical.atHome {s : State} {core svc : ℕ} {a : Access} (h : s.Canonical) :
    (s.atHome core svc a).1.Canonical := by
  unfold State.atHome
  extract_lets +onlyGivenNames die s₁ times
  have h₁ : s₁.Canonical := by
    unfold s₁
    clear s₁ times
    cases a.op with
    | rmw =>  exact h.dropCopy.dropCopy.askFar
    | adpq => exact h.dropCopy.dropCopy.askFar
    | write => exact h.askFar
    | ste => exact h.askFar
    | discard => exact h.askFar
    | read => exact h.askFar
    | _ => exact h
  clear_value s₁
  cases a.op with
  | write => exact .pair h₁.homePutFor.clearPoison.storeSnoop
  | ste => exact .pair (State.Canonical.homePutFor h₁).storeSnoop
  | rmw => 
    exact .ite_fst h₁.pair (.pair h₁.homePutFor.storeSnoop)
  | discard => exact .pair (.dropLine (.foldl h₁.discardLine fun h₂ => h₂.dropLine))
  | _ => exact h₁

theorem State.Canonical.load {c : Ctx} {cls : ℕ} {accs : List Access} {land : Landing} {regs : ℕ}
    {elemHi : List (ℕ × Bool)} (h : c.s.Canonical) : (c.load cls accs land regs elemHi).Canonical := by
  unfold Ctx.load
  extract_lets +onlyGivenNames secs s₁ s₂ accs fl fl
  have h₁ : s₁.Canonical := h
  have h₂ : s₂.Canonical := h₁.txTouchAll
  split
  · extract_lets +onlyGivenNames s₃ s₄
    have h₃ : s₃.Canonical := .foldl h₂ fun h₃ => .ite h₃ h₃
    have h₄ : s₄.Canonical := .ite h₃ h₃
    exact h₄
  · exact h₂

theorem State.Canonical.txStore {s : State} {k : ℕ} {m : BitVec 16} {a : Access} (h : s.Canonical) :
    (s.txStore k m a).Canonical := by
  unfold State.txStore
  split <;> exact h

theorem State.Canonical.store {c : Ctx} {accs : List Access} (h : c.s.Canonical) : (c.store accs).Canonical := by
  unfold Ctx.store
  extract_lets +onlyGivenNames tx plain s₁ s₂
  have h₁ : s₁.Canonical := h.txTouchAll
  have h₂ : s₂.Canonical := .foldl h₁ fun h₂ => .ite h₂.txStore h₂
  split
  · exact h₂
  · split
    · exact h₂
    · exact h₂.streamStores.bufFull

theorem State.Canonical.storeNote {c : Ctx} {s : State} (h : s.Canonical) : (c.storeNote s).Canonical :=
  .ite h h

theorem State.Canonical.modFlight {s : State} {f : ℕ} {g : Flight → Flight} (h : s.Canonical) :
    (s.modFlight f g).Canonical :=
  h

theorem State.Canonical.setAccess {s : State} {f j : ℕ} {a : Access} (h : s.Canonical) : (s.setAccess f j a).Canonical :=
  h

theorem State.Canonical.poisonReturns {s : State} {k f : ℕ} {a : Access} (h : s.Canonical) :
    (s.poisonReturns k f a).Canonical := by
  unfold State.poisonReturns
  extract_lets +onlyGivenNames W
  split
  · exact h
  · split
    · exact h
    · exact h.killPoison

theorem State.Canonical.landFlight {s : State} {f : ℕ} (h : s.Canonical) : (s.landFlight f).Canonical := by
  unfold State.landFlight
  split
  · exact h
  · extract_lets +onlyGivenNames k s₁ s₂
    have h₁ : s₁.Canonical := h
    have h₂ : s₂.Canonical := by
      unfold s₂
      split
      · exact h₁.poisonReturns
      · exact h₁
    exact .quietCheck (.ite h₂.completeOp h₂)

/-! ### LoadStore -/

theorem State.Canonical.room {c : Ctx} {cls : ℕ} (h : c.s.Canonical) : (c.room cls).1.Canonical := by
  unfold Ctx.room
  split
  · exact .ite h h
  · exact h

theorem State.Canonical.thenWait {a : State × Option Cond} {b : Option Cond} (h : a.1.Canonical) :
    (thenWait a b).1.Canonical := by
  unfold Machine.thenWait
  split <;> exact h

theorem globalLoad_keeps {va : Ctx → ℕ → DWord} {n : Ctx → ℕ} {check : Ctx → List TrapRec} {eff : Ctx → State}
    (heff : ∀ {c : Ctx}, c.s.Canonical → (eff c).Canonical) : (globalLoad va n check eff).Keeps where
  eff h := .ite (heff h) h
  wait h := .thenWait (.thenWait h.room)

theorem globalStore_keeps {va : Ctx → ℕ → DWord} {n : Ctx → ℕ} {check : Ctx → List TrapRec} {eff : Ctx → State}
    (heff : ∀ {c : Ctx}, c.s.Canonical → (eff c).Canonical) : (globalStore va n check eff).Keeps where
  eff h := .ite (heff h) h
  wait h := .thenWait h.room

theorem kitLd_keeps : kitLd.Keeps := globalLoad_keeps fun h => h.load

theorem kitSt_keeps : kitSt.Keeps := globalStore_keeps fun h => h.store

theorem kitLds_keeps : kitLds.Keeps where
  wait h := h.room.thenWait
  eff h := by
    dsimp -zeta only [kitLds]
    split
    · exact h
    · exact .ite (.ite h h) (.foldl h fun h₂ => h₂.raceSpad)

theorem kitSts_keeps : kitSts.Keeps where
  wait h := h.room.thenWait
  eff h := by
    dsimp -zeta only [kitSts]
    split
    · exact h
    · split
      · exact h
      · extract_lets +onlyGivenNames s₁
        have h₁ : s₁.Canonical := h.storeSpad
        exact .ite h₁ (.bufFull h₁)

theorem kitLde_keeps : kitLde.Keeps := globalLoad_keeps fun h => h.load

theorem kitSte_keeps : kitSte.Keeps := globalStore_keeps fun h => h.store

theorem kitLdc_keeps : kitLdc.Keeps := globalLoad_keeps fun h => h.load

theorem kitPref_keeps : kitPref.Keeps where
  wait h := h.room
  eff h := .ite h h

theorem kitDiscard_keeps : kitDiscard.Keeps where
  eff h := .ite h.store h
  wait h := .thenWait h.room

/-! ### Atomic -/

theorem atomic_keeps {cls : ℕ} {eff : Ctx → State} (heff : ∀ {c : Ctx}, c.s.Canonical → (eff c).Canonical) :
    (atomic cls eff).Keeps where
  eff h := .ite (heff h) h
  wait h := by
    dsimp only [atomic]
    split
    · exact h.room
    · exact h

theorem State.Canonical.sendAtomic {c : Ctx} {fl : Flight} (h : c.s.Canonical) : (c.sendAtomic fl).Canonical :=
  .ite h h

theorem kitAmo_keeps : kitAmo.Keeps where
  eff h := .ite (.ite h.sendAtomic.endQuantum h.sendAtomic) h
  wait h := (atomic_keeps (cls := 7) (eff := fun c => c.s) fun h => h).wait h
  spoilt h := .ite h h.sendAtomic

theorem kitRed_keeps : kitRed.Keeps := atomic_keeps fun h => h.sendAtomic.bufFull

theorem State.Canonical.amosGo {s : State} {k b kind : ℕ} {wide : Bool} {lanes : List (ℕ × ℕ × DWord × DWord)}
    (h : s.Canonical) : (s.amosGo k b kind wide lanes).1.Canonical := by
  unfold State.amosGo
  extract_lets +onlyGivenNames n
  refine .foldl_fst h fun h₁ => ?_
  split
  · next t x1 x2 x3 =>
      split
      · exact h₁
      · exact h₁.spadWrite

theorem kitAmos_keeps : kitAmos.Keeps where
  eff h := by
    dsimp -zeta only [kitAmos]
    split
    · exact h
    · extract_lets +onlyGivenNames s₁
      have h₁ : s₁.Canonical := h
      split
      · exact h₁
      · extract_lets +onlyGivenNames r₂
        have h₂ : r₂.1.Canonical := h₁.amosGo
        split
        · exact h₂.killPoison
        · exact h₂

theorem kitTxopen_keeps : kitTxopen.Keeps where
  eff h := by
    dsimp -zeta only [kitTxopen]
    split
    · exact .foldl h fun h₁ => h₁.txAbort
    · exact .ite h h

theorem State.Canonical.txAbortMany {s : State} {k cause : ℕ} {l : List ℕ} (h : s.Canonical) :
    (s.txAbortMany k cause l).Canonical :=
  .foldl h fun h₁ => h₁.txAbort

theorem State.Canonical.txLanes {s : State} {k : ℕ} (h : s.Canonical) : (s.txLanes k).Canonical :=
  h.txAbortMany

theorem State.Canonical.txValidate {s : State} {k : ℕ} (h : s.Canonical) : (s.txValidate k).Canonical := by
  unfold State.txValidate
  extract_lets +onlyGivenNames stale s₁
  have h₁ : s₁.Canonical := .foldl h fun h₁ => .foldl h₁ fun h₂ => h₂.askFar
  exact h₁.txAbortMany

theorem State.Canonical.txApply {s : State} {k : ℕ} {l : TxLane} (h : s.Canonical) : (s.txApply k l).Canonical := by
  unfold State.txApply
  extract_lets +onlyGivenNames W one s₁ s₂
  have h₂ : s₂.Canonical := .foldl h fun h₂ => h₂.atHome.modWarp
  exact .foldl h₂ fun h₃ => h₃.atHome.modWarp

theorem State.Canonical.txSeal {s : State} {k d : ℕ} {late : Bool} (h : s.Canonical) : (s.txSeal k d late).Canonical := by
  unfold State.txSeal
  extract_lets +onlyGivenNames s₁ live s₂ s₃
  have h₁ : s₁.Canonical := h.txLanes.txValidate
  have h₂ : s₂.Canonical := .foldl h₁ fun h₂ => h₂.txApply
  have h₃ : s₃.Canonical := h₂.noteWrites
  split
  · exact h₃
  · exact .launchFlight (.modWarp (.update h₃))

theorem State.Canonical.sealWait {c : Ctx} (h : c.s.Canonical) : c.sealWait.1.Canonical := by
  unfold Ctx.sealWait
  split
  · exact h
  · split
    · exact h
    · split
      · exact h
      · split
        · exact h
        · split <;> exact h

theorem kitTxseal_keeps : kitTxseal.Keeps where
  wait h := h.sealWait
  eff h := .ite h h.txSeal.wake

theorem kitTxdrop_keeps : kitTxdrop.Keeps where eff h := .foldl h fun h₁ => h₁.txAbort

/-! ### Sync -/

theorem kitFence_keeps : kitFence.Keeps where
  wait h := by
    unfold kitFence
    extract_lets +onlyGivenNames scope rel acq
    dsimp only
    split
    · exact h
    · split
      · exact h
      · split <;> exact h
  eff h := .ite h.modWarp h

theorem kitWaitc_keeps : kitWaitc.Keeps where
  wait h := by
    dsimp -zeta only [kitWaitc]
    split
    · exact h
    · exact .ite h h
  eff h := h

theorem kitTrywait_keeps : kitTrywait.Keeps where
  wait h := by
    dsimp -zeta only [kitTrywait]
    extract_lets +onlyGivenNames l
    split
    · exact h
    · split
      · exact h
      · split
        · exact h
        · split
          · exact h
          · split <;> exact h
  eff h := by
    dsimp -zeta only [kitTrywait]
    split
    · exact h
    · exact .foldl h fun h₁ => h₁

theorem kitQsp_keeps : kitQsp.Keeps where eff h := .ite h (.ite h h.quietPoint)

theorem State.Canonical.gpRequest {s : State} {p : ℕ} (h : s.Canonical) : (s.gpRequest p).1.Canonical := by
  unfold State.gpRequest
  split
  · exact h
  · split
    · exact h.graceStart.modPart
    · exact h

theorem kitGpreq_keeps : kitGpreq.Keeps where eff h := .ite h (.ite h h.gpRequest.later)

theorem kitGpwait_keeps : kitGpwait.Keeps where
  wait h := by
    dsimp -zeta only [kitGpwait]
    extract_lets +onlyGivenNames p
    split
    · exact h
    · split
      · exact h
      · split
        · exact h
        · split
          · exact h
          · extract_lets +onlyGivenNames s₁
            have h₁ : s₁.Canonical := h.quiescent
            split <;> exact h₁
  eff h := h

theorem State.Canonical.poolPush {s : State} {svc die pool : ℕ} {va : DWord} {pa : ℕ} (h : s.Canonical) :
    (s.poolPush svc die pool va pa).Canonical :=
  h.homePutFor.modDie

theorem State.Canonical.poolPop {s : State} {core svc queue pool : ℕ} (h : s.Canonical) :
    (s.poolPop core svc queue pool).1.Canonical := by
  unfold State.poolPop
  extract_lets +onlyGivenNames die head
  split
  · exact h
  · extract_lets +onlyGivenNames t link s₁
    have h₁ : s₁.Canonical := h
    clear_value t
    split
    · exact .ite h₁ h₁.homePutFor.freshen
    · exact h₁

theorem State.Canonical.dfreeGo {s : State} {die p svc : ℕ} {l : List (ℕ × DWord × ℕ)} (h : s.Canonical) :
    (s.dfreeGo die p svc l).1.Canonical := by
  unfold State.dfreeGo
  refine .foldl_fst h fun h₁ => ?_
  split <;> exact h₁

theorem State.Canonical.dfreeStart {s : State} {die p : ℕ} (h : s.Canonical) : (s.dfreeStart die p).Canonical :=
  .ite h.graceStart h

theorem kitDfree_keeps : kitDfree.Keeps where eff h := .ite h (.ite h h.dfreeGo.dfreeStart.later)

theorem State.Canonical.pallocGo {s : State} {W : Warp} {l : List (ℕ × ℕ)} (h : s.Canonical) :
    (s.pallocGo W l).1.Canonical :=
  .foldl_fst h fun h₁ => h₁.poolPop

theorem kitPalloc_keeps : kitPalloc.Keeps where
  wait h := by
    dsimp -zeta only [kitPalloc]
    extract_lets +onlyGivenNames D
    split
    · exact h
    · split
      · exact h
      · split <;> exact h
  eff h := by
    dsimp -zeta only [kitPalloc]
    extract_lets +onlyGivenNames d
    exact .ite h (.ite h h.pallocGo.later)

theorem kitPfree_keeps : kitPfree.Keeps where
  wait h := h.room
  eff h := by
    dsimp -zeta only [kitPfree]
    split
    · exact h
    · exact .ite (.bufFull h) h

/-! ### EngineOps -/

theorem State.Canonical.rdcRead {s : State} {die svc pa n lc : ℕ} {uc : Bool} (h : s.Canonical) :
    (s.rdcRead die svc pa n lc uc).1.Canonical := by
  unfold State.rdcRead
  extract_lets +onlyGivenNames sec past
  split
  · exact h
  · extract_lets +onlyGivenNames s₁ home dur
    have h₁ : s₁.Canonical := .askFar (.ite h h.fillFor)
    split
    · exact h₁
    · exact h₁.askFar.stamp.enterRdc

theorem State.Canonical.homeRead {s : State} {svc pa n : ℕ} {uc : Bool} (h : s.Canonical) :
    (s.homeRead svc pa n uc).1.Canonical :=
  .askFar (.ite h h.fillFor)

theorem State.Canonical.engRead {s : State} {op : ℕ} {e : Engine} {own : List Host.Cell × List Host.Cell} {m : Move}
    (h : s.Canonical) : (s.engRead op e own m).1.Canonical := by
  unfold State.engRead
  extract_lets +onlyGivenNames core
  split
  · split
    · exact h
    · extract_lets +onlyGivenNames pa gather r₁
      have h₁ : r₁.1.Canonical := by
        unfold r₁
        split
        · exact h.rdcRead
        · exact h.homeRead
      exact h₁.raceCheckAs
  · exact h.raceSpadAs

theorem State.Canonical.engStore {s : State} {e : Engine} {va : DWord} {pa : ℕ} {bs : List Byte} {bad : Bool}
    (h : s.Canonical) : (s.engStore e va pa bs bad).1.Canonical := by
  unfold State.engStore
  extract_lets +onlyGivenNames was s₁
  have h₁ : s₁.Canonical := h.raceCheckAs
  split
  · exact h₁
  · extract_lets +onlyGivenNames r₂
    have h₂ : r₂.1.Canonical := h₁.atHome
    exact .ite h₂.addPoison h₂

theorem State.Canonical.spadPutAt {s : State} {k b : ℕ} {l : List ℕ} {bs : List Byte} (h : s.Canonical) :
    (s.spadPutAt k b l bs).Canonical :=
  .ite h.spadWrite (.foldl h fun h₁ => h₁.spadWrite)

theorem State.Canonical.engSpad {s : State} {e : Engine} {a : ℕ} {put : State → State} (h : s.Canonical)
    (hput : ∀ {s : State}, s.Canonical → (put s).Canonical) : (s.engSpad e a put).Canonical :=
  .ite h.raceSpadAs (hput h.raceSpadAs)

theorem State.Canonical.engMove {s : State} {op : ℕ} {late : Bool} {own : List Host.Cell × List Host.Cell} {e : Engine}
    {stop : Bool} {m : Move} (h : s.Canonical) : (s.engMove op late own e stop m).1.Canonical := by
  unfold State.engMove
  split
  · exact h
  · split
    · split
      · exact h
      · split
        · exact h.modWarp
        · split
          · next t x1 x2 ht =>
              have h₁ := h.engRead.of_fst ht
              split
              · exact h₁
              · exact h₁.engStore
    · split
      · next t x1 x2 ht =>
          have h₁ := h.engRead.of_fst ht
          split
          · exact .ite h₁ h₁.killPoison
          · split
            · exact h₁
            · exact h₁.engSpad fun h₂ => h₂.spadPutAt

theorem State.Canonical.engRun {s : State} {op : ℕ} {late : Bool} (h : s.Canonical) : (s.engRun op late).Canonical := by
  unfold State.engRun
  split
  · exact h
  · extract_lets +onlyGivenNames ms n made s₁ own
    have h₁ : s₁.Canonical := .ite h h.coverPoison
    split
    · next t x1 x2 ht =>
        have h₂ := State.Canonical.of_fst (.foldl_fst h₁ fun h₂ => h₂.engMove) ht
        exact .ite h₂ h₂

theorem State.Canonical.mirrorDone {s : State} {op : ℕ} (h : s.Canonical) : (s.mirrorDone op).Canonical := by
  unfold State.mirrorDone
  split
  · exact h
  · split
    · exact h
    · exact .completeOp h

theorem State.Canonical.engApply {s : State} {op : ℕ} (h : s.Canonical) : (s.engApply op).Canonical := by
  unfold State.engApply
  split
  · exact h
  · extract_lets +onlyGivenNames sees s₁
    have h₁ : s₁.Canonical := h.coverPoison
    split
    · next t x1 ht =>
        have h₂ := State.Canonical.of_fst (.foldl_fst h₁ fun h₂ => h₂.engStore) ht
        extract_lets +onlyGivenNames s₃ s₄ s₅ e s₆
        have h₄ : s₄.Canonical := .foldl (.foldl h₂ fun h₃ => h₃.keepNone) fun h₄ => h₄.engSpad fun h₅ => h₅.spadWriteFor
        have h₅ : s₅.Canonical := by
          unfold s₅
          split
          · exact .foldl h₄ fun h₅ => h₅.spadWrite
          · exact h₄
        have h₆ : s₆.Canonical := by
          unfold s₆
          split
          · exact .update h₅
          · exact h₅
        exact .update h₆

theorem State.Canonical.engReach {s : State} {op : ℕ} (h : s.Canonical) : (s.engReach op).Canonical := by
  unfold State.engReach
  split
  · exact h
  · extract_lets +onlyGivenNames s₁
    have h₁ : s₁.Canonical := h
    exact .ite h₁ h₁.engRun

theorem State.Canonical.engFinish {s : State} {op cls : ℕ} (h : s.Canonical) : (s.engFinish op cls).Canonical := by
  unfold State.engFinish
  split
  · exact h
  · split
    · exact h
    · extract_lets +onlyGivenNames late done
      split
      · exact .mirrorDone (.completeOp h)
      · split
        · exact h.startWalksAt
        · split
          · exact h
          · extract_lets +onlyGivenNames t₁
            have h₁ : t₁.Canonical := h.engRun
            exact .ite (.mirrorDone (.completeOp h₁)) h₁

theorem execCpComplete_kept {op : ℕ} {s : State} (h : s.Canonical) : Kept (execCpComplete op s) :=
  .next h.engFinish

theorem execGsComplete_kept {op : ℕ} {s : State} (h : s.Canonical) : Kept (execGsComplete op s) :=
  .next h.engFinish

theorem execEngineWprot_kept {op : ℕ} {s : State} (h : s.Canonical) : Kept (execEngineWprot op s) := by
  unfold execEngineWprot
  refine .next ?_
  split
  · exact h
  · split
    · exact h
    · exact .ite h h.engRun

theorem State.Canonical.roomAll {c : Ctx} {cls : ℕ} (h : c.s.Canonical) : (c.roomAll cls).1.Canonical := by
  unfold Ctx.roomAll
  split
  · exact .ite h h
  · exact h

theorem State.Canonical.noteEngine {c : Ctx} {op : EngOp} (h : c.s.Canonical) : (c.noteEngine op).Canonical :=
  .ite h h

theorem State.Canonical.sendEngine {c : Ctx} {cls : ℕ} {op : EngOp} (h : c.s.Canonical) :
    (c.sendEngine cls op).Canonical := by
  unfold Ctx.sendEngine
  extract_lets +onlyGivenNames s₁ id late e s₂
  have h₁ : s₁.Canonical := h.noteEngine
  have h₂ : s₂.Canonical := h₁
  exact .ite h₂ h₂.hideUnseen

theorem gatherKit_keeps {op : DWord → ℕ → ℕ → List (ℕ × DWord) → EngOp} : (gatherKit op).Keeps where
  wait h := h.roomAll
  eff h := h.sendEngine

theorem kitGather_keeps : kitGather.Keeps := gatherKit_keeps

theorem kitScatter_keeps : kitScatter.Keeps := gatherKit_keeps

theorem kitCopy_keeps : kitCopy.Keeps where
  wait h := h.room
  eff h := .ite h h.sendEngine

theorem kitCopyr_keeps : kitCopyr.Keeps where
  wait h := h.room
  eff h := .ite h.sendEngine h

/-! ### MatrixUnit -/

theorem State.Canonical.askUnit {s : State} {core : ℕ} {vas : List ℕ} (h : s.Canonical) :
    (s.askUnit core vas).Canonical := by
  unfold State.askUnit
  split
  · exact h
  · exact h.startWalksAt.modMx

theorem State.Canonical.killRead {s : State} {k lane : ℕ} {at_ : Option (ℕ × ℕ)} (h : s.Canonical) :
    (s.killRead k lane at_).Canonical :=
  .ite h h.killPoison

theorem State.Canonical.fetchFill {s : State} {k va n : ℕ} (h : s.Canonical) : (s.fetchFill k va n).Canonical := by
  unfold State.fetchFill
  refine .foldl h fun h₁ => ?_
  split
  · exact h₁
  · exact .ite h₁.rdcRead h₁.homeRead

theorem State.Canonical.raceSpadList {s : State} {k : ℕ} {rel : List ℕ} {store : Bool} {l : List ℕ} (h : s.Canonical) :
    (s.raceSpadList k rel store l).Canonical :=
  .ite h (.foldl h fun h₁ => h₁.raceSpadAs)

theorem State.Canonical.unitWrite {s : State} {op : ℕ} {late : Bool} {writes : List (ℕ × List Byte)} (h : s.Canonical) :
    (s.unitWrite op late writes).Canonical := by
  unfold State.unitWrite
  split
  · exact h
  · split
    · exact h
    · extract_lets +onlyGivenNames s₁
      have h₁ : s₁.Canonical := .foldl h fun h₁ => h₁.spadWriteFor
      exact h₁.raceSpadList

theorem State.Canonical.unitFlags {s : State} {op : ℕ} {f : FlagSet} (h : s.Canonical) : (s.unitFlags op f).Canonical :=
  h

theorem State.Canonical.withhold {s : State} {core rows : ℕ} (h : s.Canonical) : (s.withhold core rows).Canonical :=
  .ite h h

theorem State.Canonical.runLoop {s : State} {core : ℕ} {e : MxEntry} {late : Bool} (h : s.Canonical) :
    (s.runLoop core e late).1.Canonical := by
  unfold State.runLoop
  split
  · exact h
  · extract_lets +onlyGivenNames U sparse pact planes sides held runs adOf odd factor tile cells used bad
    split
    · exact h
    · extract_lets +onlyGivenNames seqs step
      split
      · extract_lets +onlyGivenNames cache last s₁ s₂ s₃ s₄ s₅ out vals
        have h₁ : s₁.Canonical := .foldl h fun h₁ => h₁.fetchFill
        have h₄ : s₄.Canonical := .withhold h₁
        have h₅ : s₅.Canonical := by
          unfold s₅
          split
          · exact h₄.raceSpadList
          · exact h₄
        exact h₅

theorem State.Canonical.runMx {s : State} {core : ℕ} {e : MxEntry} {late : Bool} (h : s.Canonical) :
    (s.runMx core e late).1.Canonical := by
  unfold State.runMx
  extract_lets +onlyGivenNames U width
  split
  · extract_lets +onlyGivenNames b
    split
    · exact h
    · exact h.fetchFill.modMx
  · extract_lets +onlyGivenNames b
    split
    · exact h
    · exact h.fetchFill.modMx
  · split
    · exact h
    · extract_lets +onlyGivenNames x
      split
      · exact h
      · extract_lets +onlyGivenNames s₁
        exact .foldl h fun h₁ => h₁.fetchFill
  · exact h
  · exact h
  · exact h.runLoop
  · extract_lets +onlyGivenNames sp addrs cells
    split
    · exact h
    · extract_lets +onlyGivenNames r s₂
      have h₂ : s₂.Canonical := .withhold h
      split
      · exact h₂.raceSpadList
      · exact h₂
  · extract_lets +onlyGivenNames cells
    split
    · exact h
    · extract_lets +onlyGivenNames r s₃ s₄
      have h₃ : s₃.Canonical := h.unitWrite.unitFlags
      have h₄ : s₄.Canonical := .ite h₃ h₃
      exact .ite h₄ h₄
  · split <;> exact h
  · exact h
  · exact h

theorem State.Canonical.mirrorUnit {s : State} {op : ℕ} (h : s.Canonical) : (s.mirrorUnit op).Canonical := by
  unfold State.mirrorUnit
  split
  · exact h
  · split <;> exact h

theorem State.Canonical.leaveUnit {s : State} {core : ℕ} {e : MxEntry} {late : Bool} (h : s.Canonical) :
    (s.leaveUnit core e late).Canonical := by
  unfold State.leaveUnit
  extract_lets +onlyGivenNames s₁ s₂
  have h₂ : s₂.Canonical := .mirrorUnit h
  split <;> exact h₂

theorem execMatrixOpExecute_kept {core : ℕ} {s : State} (h : s.Canonical) : Kept (execMatrixOpExecute core s) := by
  unfold execMatrixOpExecute
  refine .next ?_
  split
  · exact h
  · split
    · exact h
    · exact h
    · extract_lets +onlyGivenNames late
      split
      · exact h.leaveUnit
      · extract_lets +onlyGivenNames rs
        split
        · exact h.askUnit
        · split
          · exact h
          · extract_lets +onlyGivenNames bad r₁ s₂
            have h₁ : r₁.1.Canonical := h.runMx
            have h₂ : s₂.Canonical := h₁.leaveUnit
            exact .ite h₂.killRead h₂

theorem execMxBatchComplete_kept {k : ℕ} {s : State} (h : s.Canonical) : Kept (execMxBatchComplete k s) := by
  unfold execMxBatchComplete
  refine .next ?_
  split
  · exact h
  · exact .ite h (.completeOp h)

/-! ### Matrix -/

theorem State.Canonical.sendMx {c : Ctx} {s : State} {op : MxOp} {flight : ℕ} {counts : Bool} (h : s.Canonical) :
    (c.sendMx s op flight counts).Canonical := by
  unfold Ctx.sendMx
  extract_lets +onlyGivenNames id e g s₁ s₂
  have h₂ : s₂.Canonical := .ite h h
  exact .ite h₂ h₂.hideUnseen.modMx

theorem mxKit_keeps {check : Ctx → List TrapRec} {eff : Ctx → State} (heff : ∀ {c : Ctx}, c.s.Canonical → (eff c).Canonical) :
    (mxKit check eff).Keeps where
  eff h := .ite (heff h) h

theorem kitMcfg_keeps : kitMcfg.Keeps where eff h := .ite h (.sendMx (.ite h (.update h)))

theorem kitMlds_keeps : kitMlds.Keeps := mxKit_keeps fun h => h.sendMx

theorem kitMswap_keeps : kitMswap.Keeps := mxKit_keeps fun h => h.sendMx

theorem kitMloop_keeps : kitMloop.Keeps := mxKit_keeps fun h => h.launchFlight.sendMx

theorem kitMzero_keeps : kitMzero.Keeps := mxKit_keeps fun h => h.sendMx

theorem kitMrd_keeps : kitMrd.Keeps where
  eff {c} h := by
    refine .ite (.ite ?_ h.launchFlight.sendMx) h
    extract_lets +onlyGivenNames vals s₁
    have h₁ : s₁.Canonical := h.later
    split
    · exact h₁.killPoison
    · exact h₁
  wait h := by
    unfold kitMrd
    dsimp only
    split
    · exact h
    · split
      · exact h
      · exact .ite_fst h h.endQuantum

theorem kitMst_keeps : kitMst.Keeps := mxKit_keeps fun h => h.sendMx

theorem kitMacc_keeps : kitMacc.Keeps := mxKit_keeps fun h => h.sendMx

theorem kitMfence_keeps : kitMfence.Keeps where
  eff h := .ite (.put (.modWarp (.update h))) h
  wait h := h.room

theorem kitMwait_keeps : kitMwait.Keeps where
  eff h := .ite h h
  wait {c} h := by
    unfold kitMwait
    dsimp only
    split
    · exact h
    · exact .ite_fst h (.ite h.endQuantum h)

theorem kitMmeta_keeps : kitMmeta.Keeps := mxKit_keeps fun h => h.sendMx

/-! ### Graph -/

theorem State.Canonical.walkerPut {s : State} {queue svc core va : ℕ} {bs : List Byte} (h : s.Canonical) :
    (s.walkerPut queue svc core va bs).1.Canonical := by
  unfold State.walkerPut
  refine .foldl_fst h fun h₁ => ?_
  split
  · exact h₁
  · exact h₁.atHome

theorem State.Canonical.appendRecord {s : State} {node : Option (ℕ × ℕ)} {svc core f : ℕ} {rec_ : List Byte}
    (h : s.Canonical) : (s.appendRecord node svc core f rec_).1.Canonical := by
  unfold State.appendRecord
  split
  · exact h
  · split
    · exact h
    · split
      · exact h
      · split
        · exact h.walkerPut.modNode
        · split
          · exact h.walkerPut.modNode
          · exact h

theorem State.Canonical.emitGo {s : State} {k f : ℕ} {m : BitVec 16} {node : ℕ} {recs : List (ℕ × ℕ)} (h : s.Canonical) :
    (s.emitGo k f m node recs).1.Canonical :=
  .foldl_fst h fun h₁ => h₁.appendRecord

theorem kitEmit_keeps : kitEmit.Keeps where
  wait h := h.room.thenWait
  eff h := .ite h (.ite h h.emitGo.launchFlight)

theorem State.Canonical.childOffer {s : State} {k : ℕ} {record signal : DWord} (h : s.Canonical) :
    (s.childOffer k record signal).1.Canonical := by
  unfold State.childOffer
  extract_lets +onlyGivenNames W p
  split
  · exact h
  · split <;> exact h

theorem kitLaunch_keeps : kitLaunch.Keeps where
  eff h := by
    dsimp -zeta only [kitLaunch]
    extract_lets +onlyGivenNames d f
    split
    · exact h
    · extract_lets +onlyGivenNames s₁
      have h₁ : s₁.Canonical := h
      exact .ite h₁ h₁.childOffer.later

theorem kitSigadd_keeps : kitSigadd.Keeps where
  wait h := h.room.thenWait
  eff h := by
    dsimp -zeta only [kitSigadd]
    split
    · exact h
    · exact .ite (.bufFull h) h

theorem State.Canonical.ndone {s : State} {k : ℕ} (h : s.Canonical) : (s.ndone k).Canonical := .ndoneOver h

theorem kitNdone_keeps : kitNdone.Keeps where eff h := .ite h (.ite h h.ndone)

/-! ### TapUnit -/

theorem State.Canonical.ringPut {s : State} {core queue svc : ℕ} {ring : DWord} {words : List Word} (h : s.Canonical) :
    (s.ringPut core queue svc ring words).1.Canonical := by
  unfold State.ringPut
  split
  · exact h
  · extract_lets +onlyGivenNames h' ahead n size
    split
    · exact h.walkerPut
    · exact h.walkerPut.modTap

theorem State.Canonical.tracePut {s : State} {core op queue svc : ℕ} {T : TapRecord} {data : List Byte} {w0 w1 : Word}
    (h : s.Canonical) : (s.tracePut core op queue svc T data w0 w1).1.Canonical := by
  unfold State.tracePut
  extract_lets +onlyGivenNames n
  split
  · exact h
  · split
    · exact h
    · extract_lets +onlyGivenNames full
      split
      · exact h
      · exact h.walkerPut.appendRecord.modTap

theorem State.Canonical.tapSend {s : State} {core op : ℕ} {b : Binding} {l : List TapOut} (h : s.Canonical) :
    (s.tapSend core op b l).1.Canonical := by
  unfold State.tapSend
  refine .foldl_fst h fun h₁ => ?_
  extract_lets +onlyGivenNames r₂
  have h₂ : r₂.1.Canonical := by
    unfold r₂
    split
    · exact h₁.ringPut
    · exact h₁.tracePut
    · exact h₁
  exact h₂

theorem State.Canonical.rewriteRow {s : State} {core : ℕ} {via : Reader} {b : Binding} {beta : Word} {row feature : ℕ}
    (h : s.Canonical) {t : State × FlagSet} (ht : s.rewriteRow core via b beta row feature = .ok t) : t.1.Canonical := by
  unfold State.rewriteRow at ht
  split at ht
  · cases ht; exact h
  · split at ht
    · cases ht
    · cases ht
      exact .foldl h fun h₁ => h₁.spadWriteFor

theorem State.Canonical.rowOp {s : State} {core : ℕ} {e : TapEntry} {home : Bool} (h : s.Canonical) {t : State}
    (ht : s.rowOp core e home = .ok t) : t.Canonical := by
  unfold State.rowOp at ht
  split at ht
  · split at ht
    · cases ht
    · next hr =>
      cases ht
      exact (h.rewriteRow hr).modWarp
  · cases ht; exact h.modTap
  · cases ht; exact h

theorem State.Canonical.walkRows {s : State} {l : List (ℕ × ℕ)} (h : s.Canonical) : (s.walkRows l).Canonical :=
  .foldl h fun h₁ => h₁.startWalksAt

theorem State.Canonical.tapAccept {s : State} {core : ℕ} {e : TapEntry} (h : s.Canonical) :
    (s.tapAccept core e).Canonical := by
  unfold State.tapAccept
  split
  · exact h
  · exact h
  · exact h
  · split
    · split
      · exact h.startWalksAt
      · exact .update (.modTap (.killRead h))
    · next t ht =>
        have h₁ := h.rowOp ht
        exact h₁
  · split
    · split
      · exact h.startWalksAt
      · exact .update (.modTap (.killRead h))
    · next t ht =>
        have h₁ := h.rowOp ht
        exact h₁

theorem State.Canonical.dropBinding {s : State} {core : ℕ} (h : s.Canonical) : (s.dropBinding core).Canonical := by
  unfold State.dropBinding
  extract_lets +onlyGivenNames T
  split
  · exact h
  · exact .ite h h

theorem State.Canonical.tapBegin {s : State} {core : ℕ} (h : s.Canonical) : (s.tapBegin core).Canonical := by
  unfold State.tapBegin
  extract_lets +onlyGivenNames s₁
  have h₁ : s₁.Canonical := h.dropBinding
  split
  · exact h₁
  · exact h₁.tapAccept

theorem State.Canonical.tapBeginAll {s : State} {core : ℕ} (h : s.Canonical) {n : ℕ} : (s.tapBeginAll core n).Canonical := by
  induction n generalizing s with
  | zero => exact h
  | succ n ih => exact ih h.tapBegin

theorem State.Canonical.tapQueue {s : State} {core : ℕ} {e : TapEntry} (h : s.Canonical) : (s.tapQueue core e).Canonical :=
  h.modTap.tapBeginAll

theorem execTapbindBegin_kept {core : ℕ} {s : State} (h : s.Canonical) : Kept (execTapbindBegin core s) :=
  .next h.tapBegin

theorem State.Canonical.tapDone {s : State} {core : ℕ} {e : MxEntry} {f : FlagSet} {g : DWord} {late : Bool}
    (h : s.Canonical) : (s.tapDone core e f g late).Canonical :=
  .mirrorDone (.completeOp (.leaveUnit h))

theorem execFgathComplete_kept {core : ℕ} {s : State} (h : s.Canonical) : Kept (execFgathComplete core s) := by
  unfold execFgathComplete
  refine .next ?_
  split
  · split
    · exact h
    · split
      · split
        · exact h.askUnit
        · exact h.killRead.tapDone
      · exact .tapDone h
  · exact .ite h.tapDone h
  · exact h

theorem State.Canonical.tapShow {s : State} {core block warp : ℕ} {o : TileOut} (h : s.Canonical) :
    (s.tapShow core block warp o).Canonical := by
  unfold State.tapShow
  split
  · exact h
  · exact .ite h h

theorem State.Canonical.tapShowBoth {s : State} {core : ℕ} {o : TileOut} (h : s.Canonical) :
    (s.tapShowBoth core o).Canonical := by
  unfold State.tapShowBoth
  extract_lets +onlyGivenNames s₁
  have h₁ : s₁.Canonical := h.tapShow
  split
  · exact h₁
  · exact h₁.tapShow

theorem execTapgoComplete_kept {core : ℕ} {s : State} (h : s.Canonical) : Kept (execTapgoComplete core s) := by
  unfold execTapgoComplete
  refine .next ?_
  split
  · split
    · exact h
    · extract_lets +onlyGivenNames late
      split
      · split
        · exact h.askUnit
        · exact h.killRead.modTap.tapDone
      · split
        · exact h
        · extract_lets +onlyGivenNames o s₁ s₂ r₃ s₄ s₅ s₆ s₇
          have h₁ : s₁.Canonical := h.unitWrite
          have h₂ : s₂.Canonical := .ite h₁ h₁.tapShow
          have h₃ : r₃.1.Canonical := by
            unfold r₃
            split
            · exact h₂
            · exact h₂.tapSend
          have h₄ : s₄.Canonical := h₃
          have h₅ : s₅.Canonical := h₄
          have h₆ : s₆.Canonical := h₅
          have h₇ : s₇.Canonical := h₆.withhold
          exact h₇.tapDone
  · exact .ite h.tapDone h
  · exact h

theorem State.Canonical.tapApply {s : State} {core op : ℕ} (h : s.Canonical) : (s.tapApply core op).Canonical := by
  unfold State.tapApply
  split
  · exact h
  · exact .modWarp (.tapSend (.tapShowBoth h))

theorem execEventRingAdvance_kept {core : ℕ} {s : State} (h : s.Canonical) : Kept (execEventRingAdvance core s) := by
  unfold execEventRingAdvance
  refine .next ?_
  split
  · exact h
  · exact .ite h (.update (.modTap (.atHome h)))

/-! ### Tap -/

theorem State.Canonical.sendTap {c : Ctx} {s : State} {op : TapOp} {count : Bool} (h : s.Canonical) :
    (c.sendTap s op count).Canonical := by
  unfold Ctx.sendTap
  extract_lets +onlyGivenNames id e g s₁ s₂ s₃
  have h₁ : s₁.Canonical := .ite h h
  have h₃ : s₃.Canonical := .ite h₁ h₁
  exact .ite h₃ h₃.tapQueue

theorem kitTapbind_keeps : kitTapbind.Keeps where eff h := .ite h (.sendTap h)

theorem kitFgath_keeps : kitFgath.Keeps where
  wait h := h.room
  eff h := .ite h (.sendTap h)

theorem kitTapgo_keeps : kitTapgo.Keeps where
  wait h := h.room
  eff h := .ite h (.sendTap h)

theorem State.Canonical.tapTrap {c : Ctx} (h : c.s.Canonical) {t : State × List TrapRec} (ht : c.tapTrap = some t) :
    t.1.Canonical := by
  unfold Ctx.tapTrap at ht
  split at ht
  · cases ht
  · split at ht
    · cases ht; exact h.modBlock
    · cases ht; exact h.modTap
    · cases ht

theorem kitTapwait_keeps : kitTapwait.Keeps where
  eff h := h.laterEach
  wait h := by
    dsimp -zeta only [kitTapwait]
    split
    · exact h
    · split
      · split
        · exact h
        · exact h.endQuantum
      · exact h
  late h ht := h.tapTrap ht

theorem kitFev_keeps : kitFev.Keeps where
  eff h := by
    dsimp -zeta only [kitFev]
    split <;> exact h

theorem kitFrewr_keeps : kitFrewr.Keeps where
  eff h := by
    dsimp -zeta only [kitFrewr]
    split
    · exact h
    · exact h.sendTap

theorem kitFrel_keeps : kitFrel.Keeps where
  eff h := by
    dsimp -zeta only [kitFrel]
    split
    · exact h
    · exact .sendTap h

theorem State.Canonical.adpPut {s : State} {core svc pa v : ℕ} (h : s.Canonical) : (s.adpPut core svc pa v).1.Canonical :=
  h.atHome

theorem State.Canonical.adpqServe {s : State} {k f : ℕ} {a : Access} {id : Word} {first : Bool} (h : s.Canonical) :
    (s.adpqServe k f a id first).1.Canonical := by
  unfold State.adpqServe
  extract_lets +onlyGivenNames W die ok h0₁ h1₂ s₃
  have h₃ : s₃.Canonical := State.Canonical.serveRead (State.Canonical.serveRead h)
  have hok : ∀ {s : State} {v g d}, s.Canonical → (ok s v g d).1.Canonical := fun h => h
  clear_value s₃ ok
  refine .ite_fst h₃ (.ite_fst (hok h₃) ?_)
  extract_lets +onlyGivenNames va
  split
  · exact h₃.startWalks
  · next t _ =>
    extract_lets +onlyGivenNames pa r₄ s₅ e loadn
    have h₅ : s₅.Canonical := h₃.serveRead
    clear_value s₅
    refine .ite_fst h₅ (.ite_fst (hok h₅) (.ite_fst (hok h₅) (.ite_fst (hok h₅) ?_)))
    extract_lets +onlyGivenNames s₆ places
    have h₆ : s₆.Canonical := h₅.dropCopy.dropCopy
    clear_value s₆
    refine .ite_fst (hok h₆) (.ite_fst h₆ (.ite_fst h₆.startWalks ?_))
    extract_lets +onlyGivenNames w₇ node rec_ x₈ g d
    have h₈ : x₈.1.Canonical := State.Canonical.appendRecord (State.Canonical.adpPut h₆)
    clear_value x₈
    exact .ite_fst (hok h₈) (hok h₈.adpPut)

theorem State.Canonical.adpqLost {c : Ctx} {named : Bool} {x : State × Option Cond} (h : x.1.Canonical) :
    (c.adpqLost named x).1.Canonical := by
  obtain ⟨s, why⟩ := x
  cases why with
  | some why => exact h
  | none =>
    unfold Ctx.adpqLost
    dsimp only
    split
    · exact h.startWalksAt
    · exact h

theorem kitAdpq_keeps : kitAdpq.Keeps where
  wait h := h.room.adpqLost
  eff h := by
    dsimp -zeta only [kitAdpq]
    split
    · exact h
    · exact .ite h h

/-! ### Coll -/

theorem State.Canonical.modEngine {s : State} {op : ℕ} {f : Engine → Engine} (h : s.Canonical) :
    (s.modEngine op f).Canonical :=
  h

theorem State.Canonical.modZinc {s : State} {f : Zinc → Zinc} (h : s.Canonical) : (s.modZinc f).Canonical := h

theorem State.Canonical.collEnd {s : State} {op : ℕ} {status : Word} (h : s.Canonical) :
    (s.collEnd op status).Canonical := by
  unfold State.collEnd
  split
  · exact h
  · exact .mirrorDone (.completeOp h)

theorem State.Canonical.collUndefine {s : State} {e : Engine} (h : s.Canonical) : (s.collUndefine e).Canonical := by
  unfold State.collUndefine
  split
  · split
    · exact h
    · extract_lets +onlyGivenNames len
      refine .freshen ?_
      refine .foldl h fun h₁ => ?_
      extract_lets +onlyGivenNames va
      split
      · exact .ite h₁ h₁.homePut
      · exact h₁
  · exact h

theorem State.Canonical.collAbandon {s : State} {op : ℕ} {e : Engine} {view : ℕ} (h : s.Canonical) :
    (s.collAbandon op e view).Canonical :=
  h.collUndefine.collEnd

theorem State.Canonical.collSettleOne {s : State} {op : ℕ} (h : s.Canonical) : (s.collSettleOne op).Canonical := by
  unfold State.collSettleOne
  split
  · exact h
  · split
    · exact .ite h (.ite h h.collAbandon)
    · exact h

theorem State.Canonical.collSettle {s : State} (h : s.Canonical) : s.collSettle.Canonical :=
  .foldl h fun h₁ => h₁.collSettleOne

theorem State.Canonical.collArrive {s : State} {op : ℕ} (h : s.Canonical) : (s.collArrive op).Canonical := by
  unfold State.collArrive
  split
  · exact h
  · split
    · exact .ite h (.ite h (.modEngine (.collSettleOne h)))
    · exact h

theorem State.Canonical.collRenew {s : State} {view : ℕ} {mask : List ℕ} {op : ℕ} (h : s.Canonical) :
    (s.collRenew view mask op).Canonical := by
  unfold State.collRenew
  split
  · exact h
  · split
    · extract_lets +onlyGivenNames z ms
      split
      · exact h.collAbandon
      · exact h
    · exact h

theorem State.Canonical.vackGo {s : State} {cid view : ℕ} {mask : List ℕ} (h : s.Canonical) :
    (s.vackGo cid view mask).Canonical := by
  unfold State.vackGo
  split
  · exact h
  · exact .foldl h fun h₃ => h₃.collRenew

theorem State.Canonical.vjoinGo {s : State} (h : s.Canonical) : s.vjoinGo.Canonical := .ite h (.sendAll h)

theorem State.Canonical.collSend {c : Ctx} {kind : ℕ} (h : c.s.Canonical) : (c.collSend kind).Canonical := by
  unfold Ctx.collSend
  split
  · exact h
  · extract_lets +onlyGivenNames z ms t s₁ id op e s₂ s₃
    have h₁ : s₁.Canonical := .ite h h
    have h₂ : s₂.Canonical := h₁
    have h₃ : s₃.Canonical := .ite h₂ h₂.collArrive
    exact h₃

theorem collKit_keeps {kind : ℕ} : (collKit kind).Keeps where
  wait h := h.room
  eff h := .ite h.collSend h

theorem kitCred_keeps : kitCred.Keeps := collKit_keeps

theorem kitCgath_keeps : kitCgath.Keeps := collKit_keeps

theorem kitCbcst_keeps : kitCbcst.Keeps := collKit_keeps

theorem kitCa2a_keeps : kitCa2a.Keeps := collKit_keeps

theorem kitCwait_keeps : kitCwait.Keeps where
  wait h := by
    dsimp -zeta only [kitCwait]
    split
    · exact h
    · split
      · exact h
      · exact .ite h h
  eff h := by
    dsimp -zeta only [kitCwait]
    split <;> exact h

theorem kitVjoin_keeps : kitVjoin.Keeps where
  wait h := h.room
  eff h := by
    dsimp -zeta only [kitVjoin]
    split
    · exact h
    · extract_lets +onlyGivenNames v s₁
      have h₁ : s₁.Canonical := .ite h h.vjoinGo
      exact h₁.storeNote.laterEach

theorem kitVack_keeps : kitVack.Keeps where
  wait h := h.room
  eff h := by
    dsimp -zeta only [kitVack]
    split
    · extract_lets +onlyGivenNames view a s₁
      have h₁ : s₁.Canonical := h.streamStores
      exact .ite (.bufFull h₁) h₁.vackGo
    · exact h

theorem execCollMessageReceive_kept {m : CollMsg} {s : State} (h : s.Canonical) : Kept (execCollMessageReceive m s) := by
  unfold execCollMessageReceive
  refine .next ?_
  extract_lets +onlyGivenNames z
  split
  · exact h
  · split
    · exact h
    · extract_lets +onlyGivenNames s₁
      exact .ite h h

theorem State.Canonical.collContribute {s : State} {op : ℕ} {e : Engine} {kind : ℕ} {mods : BitVec 6} {src : DWord}
    {count root cid num rank n view : ℕ} {members : List ℕ} (h : s.Canonical) :
    (s.collContribute op e kind mods src count root cid num rank n view members).Canonical :=
  .modEngine (.modZinc (.sendAll h))

theorem State.Canonical.collWrite {s : State} {op : ℕ} {e : Engine} {dst : DWord} {z : ℕ} {data : List Byte} {bad : List ℕ}
    {late : Bool} (h : s.Canonical) : (s.collWrite op e dst z data bad late).1.Canonical := by
  unfold State.collWrite
  extract_lets +onlyGivenNames units made s₁ r₂
  have h₁ : s₁.Canonical := .ite h h.coverPoison
  have h₂ : r₂.1.Canonical := by
    unfold r₂
    refine .foldl_fst h₁ fun h₂ => ?_
    split
    · exact h₂
    · split
      · exact h₂
      · split
        · exact h₂
        · split
          · exact h₂
          · exact h₂.engStore
  exact h₂

theorem State.Canonical.askEngine {s : State} {op : ℕ} {e : Engine} {vas : List ℕ} (h : s.Canonical) :
    (s.askEngine op e vas).Canonical :=
  h.startWalksAt.modEngine

theorem execCollOpComplete_kept {op : ℕ} {s : State} (h : s.Canonical) : Kept (execCollOpComplete op s) := by
  unfold execCollOpComplete
  refine .next ?_
  split
  · exact h
  · split
    · extract_lets +onlyGivenNames z late
      split
      · exact h
      · split
        · extract_lets +onlyGivenNames len
          split
          · exact h.askEngine
          · exact .ite h h.collContribute
        · extract_lets +onlyGivenNames needs got
          split
          · exact h
          · extract_lets +onlyGivenNames parms odd res data
            split
            · exact h.askEngine
            · exact .ite h (.collEnd (.modZinc (.update (.collWrite h))))
    · exact h

/-! ### Context -/

theorem State.Canonical.stopBlock {s : State} {b : ℕ} (h : s.Canonical) : (s.stopBlock b).Canonical :=
  .foldl h fun h₁ => .ite h₁ h₁

theorem State.Canonical.resumeBlock {s : State} {b : ℕ} (h : s.Canonical) : (s.resumeBlock b).Canonical :=
  .foldl h fun h₁ => h₁

theorem State.Canonical.abortTxs {s : State} {b : ℕ} (h : s.Canonical) : (s.abortTxs b).Canonical :=
  .ite (.foldl h fun h₁ => h₁.txAbortAll) h

theorem State.Canonical.abortBlock {s : State} {b : ℕ} (h : s.Canonical) : (s.abortBlock b).Canonical := by
  unfold State.abortBlock
  extract_lets +onlyGivenNames fs s₁
  have h₁ : s₁.Canonical := .foldl h fun h₁ => h₁.landFlight
  refine .foldl h₁ fun h₂ => ?_
  extract_lets +onlyGivenNames s₃
  have h₃ : s₃.Canonical := h₂.txAbortAll
  split
  · exact h₃.killPoison
  · exact h₃.endTests

theorem State.Canonical.putThrough {s : State} {find : ℕ → Option Trans} {va : ℕ} {bs : List Byte} (h : s.Canonical) {t : State}
    (ht : s.putThrough find va bs = some t) : t.Canonical := by
  refine List.foldlRecOn (motive := State.KeptSome) _ _ ?_ ?_ t ht
  · exact .some h
  · intro o ho _ _
    split
    · split
      · exact .none
      · exact .some (ho _ rfl).homePut.clearPoison
    · exact .none

theorem State.Canonical.spoilThrough {s : State} {find : ℕ → Option Trans} {va : ℕ} {offs : List ℕ} (h : s.Canonical) :
    (s.spoilThrough find va offs).Canonical := by
  unfold State.spoilThrough
  refine .foldl h fun h₁ => ?_
  split
  · exact h₁.addPoison
  · exact h₁

theorem State.Canonical.saveBlock {s : State} {find : ℕ → Option Trans} {b va : ℕ} (h : s.Canonical) {t : State}
    (ht : s.saveBlock find b va = some t) : t.Canonical := by
  unfold State.saveBlock at ht
  split at ht
  · split at ht
    · cases ht
    · next hp =>
      cases ht
      exact .modBlock (.modTap (.modMx (.update (h.putThrough hp).spoilThrough)))
  · cases ht

theorem State.Canonical.loadHeader {s : State} {B : Block} {b : ℕ} {bs : List Byte} (h : s.Canonical) :
    (s.loadHeader B b bs).Canonical :=
  .foldl h fun h₂ => h₂

theorem State.Canonical.loadWarps {s : State} {core : ℕ} {ks : List (ℕ × Warp)} {b : List Byte} {off : ℕ} (h : s.Canonical) :
    (s.loadWarps core ks b off).Canonical :=
  .foldl_fst h fun h₁ => h₁

theorem State.Canonical.restoreBlock {s : State} {find : ℕ → Option Trans} {core va : ℕ} (h : s.Canonical) {t : State}
    (ht : s.restoreBlock find core va = some t) : t.Canonical := by
  unfold State.restoreBlock at ht
  split at ht
  · cases ht
  · next key x B _ =>
    extract_lets +onlyGivenNames p at ht
    split at ht
    · cases ht
    · extract_lets +onlyGivenNames slot s₁ s₂ s₃ s₄ s₅ s₆ at ht
      have h₃ : s₃.Canonical := .loadWarps (.loadHeader (.modBlock h))
      have h₅ : s₅.Canonical := .ite h₃.emptyCache h₃.emptyCache.emptyCache
      have h₆ : s₆.Canonical := by
        unfold s₆
        split
        · exact h₅.modMx
        · exact h₅
      split at ht
      · rw [← Option.some.inj ht]; exact h₆.modTap
      · rw [← Option.some.inj ht]; exact h₆

theorem State.Canonical.loadBlock {s : State} {find : ℕ → Option Trans} {core va : ℕ} (h : s.Canonical) {t : State}
    (ht : s.loadBlock find core va = some t) : t.Canonical :=
  h.restoreBlock (Option.filter_eq_some_iff.1 ht).1

/-! ### Queue -/

theorem State.Canonical.setSignal {s : State} {q va : ℕ} {v : DWord} (h : s.Canonical) : (s.setSignal q va v).Canonical :=
  h.virtPut

theorem State.Canonical.decSignal {s : State} {q va : ℕ} (h : s.Canonical) : (s.decSignal q va).Canonical := by
  unfold State.decSignal
  split
  · exact h
  · split
    · exact h
    · extract_lets +onlyGivenNames s₁
      have h₁ : s₁.Canonical := h.setSignal
      exact .ite h₁.send h₁

theorem State.Canonical.packetDone {s : State} {q idx outcome : ℕ} (h : s.Canonical) :
    (s.packetDone q idx outcome).Canonical := by
  unfold State.packetDone
  split
  · exact h
  · split
    · exact h
    · extract_lets +onlyGivenNames s₁ r s₂ s₃
      have h₁ : s₁.Canonical := h.decSignal
      have h₂ : s₂.Canonical := h₁
      have h₃ : s₃.Canonical := .ite h₂ h₂.virtPut
      exact .ite h₃ h₃

theorem State.Canonical.testWait {s : State} {q : ℕ} (h : s.Canonical) : (s.testWait q).Canonical := by
  unfold State.testWait
  split
  · exact h
  · exact .ite h (.packetDone h)

theorem State.Canonical.testWaits {s : State} {pa : ℕ} (h : s.Canonical) : (s.testWaits pa).Canonical :=
  .foldl h fun h₁ => h₁.testWait

theorem State.Canonical.qendGo {s : State} {q : ℕ} {idx : Word} (h : s.Canonical) : (s.qendGo q idx).Canonical := by
  unfold State.qendGo
  split
  · exact h
  · exact h.packetDone

/-! ### System -/

theorem kitTrap_keeps : kitTrap.Keeps where
  eff h := h
  late h ht := by
    dsimp -zeta only [kitTrap] at ht
    split at ht <;> cases ht
    exact h

theorem kitEret_keeps : kitEret.Keeps where eff h := .ite h.eret h

theorem kitCtlr_keeps : kitCtlr.Keeps where eff h := .ite h h

theorem kitCtlw_keeps : kitCtlw.Keeps where eff h := .ite h h

theorem kitHalt_keeps : kitHalt.Keeps where eff h := .ite h.kill h

theorem kitTlbinv_keeps : kitTlbinv.Keeps where
  wait h := by
    dsimp -zeta only [kitTlbinv]
    split
    · exact h
    · exact .thenWait h
  eff h := .ite h (.update h)

theorem State.Canonical.cacheLine {c : Ctx} {s : State} {pa : ℕ} (h : s.Canonical) : (c.cacheLine s pa).Canonical := by
  unfold Ctx.cacheLine
  split
  · exact .foldl h fun h₁ => .ite h₁ h₁
  · exact h.dropLine.dropLine
  · exact h.cleanLine
  · exact h.evictLine

theorem kitCacheop_keeps : kitCacheop.Keeps where
  eff h := by
    dsimp -zeta only [kitCacheop]
    refine .foldl h fun h₁ => ?_
    split
    · exact h₁.cacheLine
    · exact h₁

theorem kitCtxsv_keeps : kitCtxsv.Keeps where
  wait h := by
    dsimp -zeta only [kitCtxsv]
    split
    · exact h
    · exact h.stopBlock.abortTxs
  eff h := by
    dsimp -zeta only [kitCtxsv]
    split
    · exact h
    · split
      · exact h
      · extract_lets +onlyGivenNames s₁
        have h₁ : s₁.Canonical := h.abortBlock
        split
        · exact h₁
        · split
          · exact h₁.resumeBlock.laterEach
          · next t ht =>
              have h₂ := h₁.saveBlock ht
              exact h₂

theorem kitCtxld_keeps : kitCtxld.Keeps where
  eff h := by
    dsimp -zeta only [kitCtxld]
    split
    · exact h
    · extract_lets +onlyGivenNames core
      split
      · exact h
      · next t ht =>
          have h₁ := h.loadBlock ht
          exact h₁

theorem kitQend_keeps : kitQend.Keeps where
  wait h := h.room
  eff h := .ite h (.ite (.endQuantum (.storeNote h)) h.qendGo.storeNote)

theorem State.Canonical.sigRead {c : Ctx} (h : c.s.Canonical) : c.sigRead.Canonical := h.load

theorem kitSigr_keeps : kitSigr.Keeps where
  wait h := by
    dsimp -zeta only [kitSigr]
    split
    · exact h
    · split
      · exact h.room
      · split
        · exact h
        · split
          · next t x1 ht =>
              have h₁ := h.room.thenWait.of_fst ht
              exact h₁
          · next t ht =>
              have h₁ := h.room.thenWait.of_fst ht
              exact h.sigRead
  eff h := .ite h h

theorem kitRasw_keeps : kitRasw.Keeps where
  wait h := h.room
  eff h := by
    dsimp -zeta only [kitRasw]
    split
    · exact h
    · split
      · exact .endQuantum (.storeNote h)
      · refine .storeNote ?_
        split <;> exact h

/-! ### Issue -/

theorem State.Canonical.fetchBlock {s : State} {core pa : ℕ} (h : s.Canonical) : (s.fetchBlock core pa).1.Canonical := by
  unfold State.fetchBlock
  split
  · exact h
  · exact .ite h h

theorem State.Canonical.select {s : State} {slot : ℕ} (h : s.Canonical) : (s.select slot).Canonical := by
  unfold State.select
  extract_lets +onlyGivenNames es rest
  split
  · exact h
  · split
    · exact h
    · extract_lets +onlyGivenNames s₁ s₂
      exact .foldl h fun h₂ => h₂

theorem execIssueCycle_kept {slot dt : ℕ} {s : State} (h : s.Canonical) : Kept (execIssueCycle slot dt s) := by
  unfold execIssueCycle
  refine .next ?_
  extract_lets +onlyGivenNames s₁
  have h₁ : s₁.Canonical := h
  exact .ite h₁ h₁.select

theorem State.Canonical.hop {c : Ctx} (h : c.s.Canonical) : c.hop.s.Canonical := h

theorem State.Canonical.fetch {c : Ctx} (h : c.s.Canonical) {fuel : ℕ} : (c.fetch fuel).1.Canonical := by
  induction fuel generalizing c with
  | zero => exact h
  | succ n ih =>
    unfold Ctx.fetch
    split
    · exact h.startWalksAt.stop
    · split
      · exact h.fault
      · extract_lets +onlyGivenNames b bytes c₁
        have h₁ : c₁.s.Canonical := h.fetchBlock
        split
        · exact ih h₁.hop
        · split
          · exact h₁
          · exact h₁.fault

theorem State.Canonical.fetch' {s : State} (h : s.Canonical) : s.fetch.1.Canonical := by
  unfold State.fetch
  split
  · exact h
  · extract_lets +onlyGivenNames c₁
    have h₁ : c₁.s.Canonical := .skip h
    split
    · exact h₁
    · exact h₁.fetch

theorem execWarpStart_kept {b i : ℕ} {s : State} (h : s.Canonical) : Kept (execWarpStart b i s) := by
  unfold execWarpStart
  refine .next ?_
  split
  · exact h
  · split
    · exact h
    · exact .ite h h

theorem execRegangRelease_kept {k : ℕ} {addr : DWord} {s : State} (h : s.Canonical) : Kept (execRegangRelease k addr s) := by
  unfold execRegangRelease
  refine .next ?_
  exact .ite h h

theorem execBarrierPhaseComplete_kept {b n : ℕ} {s : State} (h : s.Canonical) : Kept (execBarrierPhaseComplete b n s) :=
  .next (.ite h.completePhase h)

theorem State.Canonical.makeRoom {s : State} {slot k need : ℕ} (h : s.Canonical) {n : ℕ} :
    (s.makeRoom slot k need n).Canonical := by
  induction n generalizing s with
  | zero => exact h
  | succ n ih =>
    unfold State.makeRoom
    extract_lets +onlyGivenNames held
    split
    · exact h
    · split
      · exact h
      · exact ih h.modWarp

theorem execIntervalPrefetchDone_kept {k : ℕ} {s : State} (h : s.Canonical) : Kept (execIntervalPrefetchDone k s) := by
  unfold execIntervalPrefetchDone
  refine .next ?_
  extract_lets +onlyGivenNames W
  split
  · exact h
  · extract_lets +onlyGivenNames t₁ held
    have h₁ : t₁.Canonical := h.makeRoom
    exact .ite h₁ h

theorem execFenceReleaseDone_kept {k : ℕ} {s : State} (h : s.Canonical) : Kept (execFenceReleaseDone k s) :=
  .next h

theorem execTrywaitWake_kept {k : ℕ} {s : State} (h : s.Canonical) : Kept (execTrywaitWake k s) :=
  .next (.ite h h)

theorem execTrywaitHintExpiry_kept {k : ℕ} {s : State} (h : s.Canonical) : Kept (execTrywaitHintExpiry k s) :=
  .next h

theorem State.Canonical.deferredPush {s : State} {die : ℕ} {e : DWord × ℕ × ℕ × ℕ × ℕ} (h : s.Canonical) :
    (s.deferredPush die e).1.Canonical := by
  unfold State.deferredPush
  extract_lets +onlyGivenNames q gone
  split
  · exact h
  · split
    · exact .poolPush h
    · exact h

theorem State.Canonical.coveredPushes {s : State} {p g die : ℕ} (h : s.Canonical) : (s.coveredPushes p g die).Canonical := by
  unfold State.coveredPushes
  refine .foldl_fst h fun h₁ => ?_
  split
  · exact h₁
  · exact h₁.deferredPush

theorem State.Canonical.graceDone {s : State} {p g : ℕ} (h : s.Canonical) : (s.graceDone p g).Canonical := by
  unfold State.graceDone
  extract_lets +onlyGivenNames s₁
  have h₁ : s₁.Canonical := h
  split
  · exact h₁
  · extract_lets +onlyGivenNames left
    exact .ite h₁.graceStart h₁

theorem execGracePeriodComplete_kept {p : ℕ} {s : State} (h : s.Canonical) : Kept (execGracePeriodComplete p s) := by
  unfold execGracePeriodComplete
  refine .next ?_
  split
  · exact h
  · split
    · exact h
    · split
      · exact h
      · extract_lets +onlyGivenNames s₁
        have h₁ : s₁.Canonical := .foldl h fun h₁ => h₁.coveredPushes
        exact .ite h₁ h₁.graceDone

theorem execWatchdog_kept {k : ℕ} {s : State} (h : s.Canonical) : Kept (execWatchdog k s) := by
  unfold execWatchdog
  refine .next ?_
  exact .ite h h.trap

/-! ### Arrive -/

theorem execLoadReturn_kept {f : ℕ} {s : State} (h : s.Canonical) : Kept (execLoadReturn f s) := by
  unfold execLoadReturn
  refine .next ?_
  split
  · exact h
  · exact .ite h.landFlight h

theorem execStoreAck_kept {f : ℕ} {s : State} (h : s.Canonical) : Kept (execStoreAck f s) := by
  unfold execStoreAck
  refine .next ?_
  split
  · exact h
  · exact .ite h.landFlight h

theorem State.Canonical.arriveAt {s : State} {k : ℕ} {a : Access} (h : s.Canonical) : (s.arriveAt k a).1.Canonical := by
  unfold State.arriveAt
  extract_lets +onlyGivenNames core was s₁
  have h₁ : s₁.Canonical := by
    unfold s₁
    split
    · exact h.raceCheck
    · exact h.raceCheck
    · exact h
  split
  · exact h₁
  · split
    · exact h₁.poolPush.storeSnoop
    · exact h₁.atHome

theorem State.Canonical.signalled {s : State} {F : Flight} {a : Access} (h : s.Canonical) : (s.signalled F a).Canonical := by
  unfold State.signalled
  split
  · exact .ite h.testWaits h
  · exact h

theorem State.Canonical.farArrive {s : State} {x : FarAccess} (h : s.Canonical) : (s.farArrive x).Canonical := by
  unfold State.farArrive
  split
  · exact h.homePutRun.clearPoison.send
  · exact .ite h h.homePut

theorem State.Canonical.farFill {s : State} {x : FarAccess} (h : s.Canonical) : (s.farFill x).Canonical := by
  unfold State.farFill
  extract_lets +onlyGivenNames s₁
  have h₁ : s₁.Canonical := h.fillFor
  exact .ite h₁ h₁

theorem State.Canonical.coverStores {s : State} {f : ℕ} (h : s.Canonical) : (s.coverStores f).Canonical := by
  unfold State.coverStores
  split
  · exact h
  · split
    · exact h
    · exact .foldl h.coverPoison fun h₁ => h₁.cleanCopies

theorem execHomeWriteArrival_kept {o : Origin} {j : ℕ} {s : State} (h : s.Canonical) :
    Kept (execHomeWriteArrival o j s) := by
  unfold execHomeWriteArrival
  refine .next ?_
  split
  · exact .ite h h.farArrive
  · split
    · exact h
    · split
      · exact h
      · exact .ite h h.arriveAt.setAccess.coverStores.signalled

theorem State.Canonical.fillOne {s : State} {f j : ℕ} (h : s.Canonical) : (s.fillOne f j).Canonical := by
  unfold State.fillOne
  split
  · exact h
  · split
    · exact h
    · extract_lets +onlyGivenNames W hit s₁ r₂
      have h₁ : s₁.Canonical := .ite h h.raceCheck
      have h₂ : r₂.1.Canonical := h₁.serveRead
      exact .ite h₂ h₂

theorem State.Canonical.adpqFill {s : State} {f : ℕ} (h : s.Canonical) : (s.adpqFill f).Canonical := by
  unfold State.adpqFill
  split
  · exact h
  · refine .foldl_fst h fun h₁ => ?_
    split
    · exact h₁
    · split
      · extract_lets +onlyGivenNames first
        split
        · next t x1 ht =>
            have h₂ := h₁.adpqServe.of_fst ht
            exact h₂
        · next t ht =>
            have h₂ := h₁.adpqServe.of_fst ht
            exact h₂
      · exact h₁

theorem execLineFill_kept {f j : ℕ} {far : Option FarAccess} {s : State} (h : s.Canonical) :
    Kept (execLineFill f j far s) := by
  unfold execLineFill
  refine .next ?_
  split
  · split
    · exact h
    · exact h.farFill
  · exact h
  · split
    · exact h
    · next _ F _ _ a _ =>
      by_cases hc : (a.done || F.held || s.fillWaits f j F a) = true
      · rw [if_pos hc]; exact h
      · rw [if_neg hc]
        cases a.op with
        | adpq _ => exact h.adpqFill
        | read =>  exact .foldl h fun h₁ => h₁.fillOne
        | _ => exact h

theorem execLeaseExpiry_kept {n : ℕ} {s : State} (h : s.Canonical) : Kept (execLeaseExpiry n s) := by
  unfold execLeaseExpiry
  refine .next ?_
  split
  · exact h
  · exact .ite h h

theorem execTlbWalkComplete_kept {n : ℕ} {s : State} (h : s.Canonical) : Kept (execTlbWalkComplete n s) := by
  unfold execTlbWalkComplete
  refine .next ?_
  split
  · exact h
  · extract_lets +onlyGivenNames s₁
    split
    · exact .foldl h fun h₂ => h₂.addTrans
    · exact h

theorem State.Canonical.pageKill {s : State} {vpn level k : ℕ} (h : s.Canonical) : (s.pageKill vpn level k).Canonical := by
  unfold State.pageKill
  split
  · exact h
  · split
    · exact h
    · exact h.killTrans

theorem State.Canonical.pageEngine {s : State} {queue vpn level op : ℕ} (h : s.Canonical) :
    (s.pageEngine queue vpn level op).Canonical := by
  unfold State.pageEngine
  split
  · exact h
  · split
    · exact h
    · split
      · exact .ite h.killTrans.collEnd h
      · split
        · exact h
        · refine .modEngine ?_
          split
          · exact h
          · exact h.killTrans

theorem State.Canonical.pageUnit {s : State} {queue vpn level core : ℕ} (h : s.Canonical) :
    (s.pageUnit queue vpn level core).Canonical := by
  unfold State.pageUnit
  split
  · exact h
  · split
    · split
      · exact h
      · exact .ite h (.tapDone (.ite h.killTrans.modTap h.killTrans))
    · split
      · exact h
      · exact .ite h (.tapDone (.ite h.killTrans.modTap h.killTrans))
    · exact .ite h h.killTrans.leaveUnit

theorem State.Canonical.pageRows {s : State} {queue vpn level core : ℕ} (h : s.Canonical) :
    (s.pageRows queue vpn level core).Canonical := by
  unfold State.pageRows
  refine .foldl h fun h₁ => ?_
  split
  · exact .ite h₁ h₁.killTrans.modTap
  · exact h₁

theorem State.Canonical.pageCommit {s : State} {queue vpn level : ℕ} (h : s.Canonical) :
    (s.pageCommit queue vpn level).Canonical := by
  unfold State.pageCommit
  refine .foldl h fun h₁ => ?_
  split
  · exact h₁.killTrans
  · exact h₁

theorem State.Canonical.pageAdpq {s : State} {queue vpn level f : ℕ} (h : s.Canonical) :
    (s.pageAdpq queue vpn level f).Canonical := by
  unfold State.pageAdpq
  split
  · exact h
  · extract_lets +onlyGivenNames hits
    split
    · exact h
    · exact .ite h (.quietCheck (.completeOp (.update (.killTrans h))))

theorem State.Canonical.pageLost {s : State} {queue vpn level : ℕ} (h : s.Canonical) :
    (s.pageLost queue vpn level).Canonical := by
  unfold State.pageLost
  extract_lets +onlyGivenNames s₁ s₂ s₃ s₄
  have h₁ : s₁.Canonical := .foldl h fun h₁ => h₁.pageKill
  have h₂ : s₂.Canonical := .foldl h₁ fun h₂ => h₂.pageEngine
  have h₃ : s₃.Canonical := .foldl h₂ fun h₃ => h₃.pageUnit.pageRows
  have h₄ : s₄.Canonical := h₃.pageCommit
  exact .foldl h₄ fun h₅ => h₅.pageAdpq

theorem execPageFaultResolved_kept {n : ℕ} {resolved : Bool} {s : State} (h : s.Canonical) :
    Kept (execPageFaultResolved n resolved s) := by
  unfold execPageFaultResolved
  refine .next ?_
  split
  · exact h
  · split
    · exact h
    · split
      · split
        · split <;> exact h
        · exact h
      · split
        · split
          · exact .foldl h fun h₁ => h₁.addTrans
          · exact h
        · exact .pageLost h

theorem execEccUncorrectable_kept {p : PoisonAt} {s : State} (h : s.Canonical) : Kept (execEccUncorrectable p s) := by
  unfold execEccUncorrectable
  refine .next ?_
  split
  · extract_lets +onlyGivenNames s₁
    have h₁ : s₁.Canonical := h.addPoison
    exact .ite h₁ h₁
  · exact h
  · exact h
  · exact h

/-! ### Rounds -/

theorem State.Canonical.commitFlight {s : State} {f : ℕ} (h : s.Canonical) : (s.commitFlight f).Canonical := by
  unfold State.commitFlight
  split
  · exact h
  · extract_lets +onlyGivenNames s₁
    have h₁ : s₁.Canonical := h
    exact .ite h₁.adpqFill (.coverStores (.foldl h₁ fun h₂ => .ite h₂ h₂.arriveAt.setAccess.signalled))

theorem State.Canonical.commitRow {s : State} {core : ℕ} {e : TapEntry} (h : s.Canonical) :
    (s.commitRow core e).Canonical := by
  unfold State.commitRow
  split
  · next t ht =>
      have h₁ := h.rowOp ht
      exact h₁
  · exact h.killRead
  · exact h.tapQueue

theorem State.Canonical.supply {s : State} {f : ℕ} {vals : List (ℕ × ℕ × Word)} {accs : List Access} (h : s.Canonical) :
    (s.supply f vals accs).Canonical :=
  h

theorem State.Canonical.commitStore {s : State} {k : ℕ} {d : Deferred} (h : s.Canonical) :
    (s.commitStore k d).Canonical := by
  unfold State.commitStore
  split
  · exact .ite h.commitFlight h
  · refine .foldl h fun h₁ => ?_
    extract_lets +onlyGivenNames s₂
    have h₂ : s₂.Canonical := h₁.raceSpad
    exact .ite h₂ h₂.spadWrite
  · exact h.spadWrite
  · exact .foldl h fun h₁ => h₁.raceSpad
  · exact .foldl h fun h₁ => h₁.raceCheck
  · exact .ite h.commitRow h
  · exact h

theorem State.Canonical.commitAtomic {s : State} {k : ℕ} {d : Deferred} (h : s.Canonical) :
    (s.commitAtomic k d).Canonical := by
  unfold State.commitAtomic
  extract_lets +onlyGivenNames W die dstOf
  split
  · exact .ite h h.commitFlight
  · extract_lets +onlyGivenNames r₁
    have h₁ : r₁.1.Canonical := h.amosGo
    split
    · exact .killPoison h₁
    · exact h₁
  · exact h.dfreeGo.dfreeStart.supply
  · exact h.pallocGo.supply
  · exact h.emitGo.supply
  · exact h.childOffer.supply
  · exact h.gpRequest.supply
  · exact .ite h h.quietPoint
  · exact h.ndone
  · exact h.vackGo
  · exact h.vjoinGo
  · exact h.qendGo
  · exact h
  · exact h

theorem State.Canonical.mirrorSeal {s : State} {k f : ℕ} (h : s.Canonical) : (s.mirrorSeal k f).Canonical := by
  unfold State.mirrorSeal
  split <;> exact h

theorem State.Canonical.commitSeal {s : State} {copies : List (ℕ × ℕ)} {d : Deferred} (h : s.Canonical) :
    (s.commitSeal copies d).Canonical := by
  unfold State.commitSeal
  split
  · split
    · exact h
    · extract_lets +onlyGivenNames f s₁
      have h₁ : s₁.Canonical := h.txSeal.wake
      split
      · exact h₁.mirrorSeal
      · exact h₁
  · exact h

theorem State.Canonical.applyOp {s : State} {core op : ℕ} (h : s.Canonical) : (s.applyOp core op).Canonical :=
  h.engApply.tapApply

theorem State.Canonical.batchTimes {s : State} {op : ℕ} (h : s.Canonical) : (s.batchTimes op).Canonical := by
  unfold State.batchTimes
  split
  · exact h
  · split <;> exact h

theorem State.Canonical.commitEngines {s : State} {k : ℕ} (h : s.Canonical) : (s.commitEngines k).Canonical := by
  unfold State.commitEngines
  refine .settleWarp ?_
  refine .foldl h fun h₁ => ?_
  extract_lets +onlyGivenNames units s₂
  have h₂ : s₂.Canonical := .batchTimes (.foldl h₁ fun h₂ => h₂.applyOp)
  exact .applyOp h₂

theorem State.Canonical.commitWarp {s : State} {k : ℕ} {copy buf : List Deferred} (h : s.Canonical) :
    (s.commitWarp k copy buf).Canonical := by
  unfold State.commitWarp
  extract_lets +onlyGivenNames live t₁ t₂ t₃
  have h₁ : t₁.Canonical := .foldl h fun h₁ => .ite h₁ h₁.commitStore
  have h₂ : t₂.Canonical := .foldl h₁ fun h₂ => .ite h₂ h₂.commitAtomic
  have h₃ : t₃.Canonical := .foldl h₂ fun h₃ => .ite h₃ h₃.commitSeal
  exact h₃.commitEngines

theorem State.Canonical.mirrorBatches {s : State} {k k' : ℕ} (h : s.Canonical) : (s.mirrorBatches k k').Canonical :=
  .foldl h fun h₁ => .completeOp h₁

theorem State.Canonical.dropMirrored {s : State} {k' : ℕ} (h : s.Canonical) : (s.dropMirrored k').Canonical :=
  h

theorem State.Canonical.takeFlight {s : State} {f f' : ℕ} (h : s.Canonical) :
    Canonical (match mfind s.flights f with
      | none => s
      | some F => s.modFlight f' (fun G => { G with vals := F.vals, accs := F.accs, ready := F.ready, held := false })) := by
  split
  · exact h
  · exact h.modFlight

theorem State.Canonical.mirrorEntry {s : State} {k : ℕ} {x : Deferred × Deferred} (h : s.Canonical) :
    (s.mirrorEntry k x).Canonical := by
  unfold State.mirrorEntry
  extract_lets +onlyGivenNames take
  have ht : ∀ f f', (take f f').Canonical := fun _ _ => h.takeFlight
  split
  · exact ht _ _
  · exact ht _ _
  · exact ht _ _
  · exact ht _ _
  · exact ht _ _
  · exact ht _ _
  · exact h
  · exact h
  · exact .ite h.commitStore h
  · exact h.commitStore
  · exact h.commitStore
  · exact h.commitAtomic
  · exact h.commitAtomic
  · exact h.modWarp
  · exact h

theorem State.Canonical.sendDeferred {s : State} {k : ℕ} {shadow : Bool} {d : Deferred} (h : s.Canonical) :
    (s.sendDeferred k shadow d).Canonical := by
  unfold State.sendDeferred
  split
  · split
    · exact h
    · split
      · exact h.collArrive
      · exact h.engReach
  · exact .ite h h
  · exact .ite h h.tapQueue
  · exact h

theorem State.Canonical.commitAll {s : State} {ks : List ℕ} {pairs : Bool} (h : s.Canonical) :
    (s.commitAll ks pairs).Canonical := by
  unfold State.commitAll
  extract_lets +onlyGivenNames pair bufs copyBuf one s₁ send
  have hone : ∀ {s x}, s.Canonical → (one s x).Canonical := by
    intro s x h
    unfold one
    extract_lets +onlyGivenNames t₁ t₂
    have h₁ : t₁.Canonical := by
      unfold t₁
      split
      · exact h.mirrorBatches
      · exact h
    have h₂ : t₂.Canonical := h₁.commitWarp
    split
    · exact h₂
    · exact State.Canonical.dropMirrored (.commitEngines (.foldl h₂ fun h₃ => h₃.mirrorEntry))
  have hsend : ∀ {s x}, s.Canonical → (send s x).Canonical := by
    intro s x h
    unfold send
    extract_lets +onlyGivenNames t₁
    have h₁ : t₁.Canonical := .foldl h fun h₂ => h₂.sendDeferred
    split
    · exact h₁
    · exact .foldl h₁ fun h₂ => h₂.sendDeferred
  refine .foldl (.foldl (.foldl h hone) hsend) fun h₁ => ?_
  extract_lets +onlyGivenNames t₁
  have h₂ : t₁.Canonical := h₁.modWarp
  split
  · exact h₂
  · exact h₂.modWarp

theorem State.Canonical.startWarp {s : State} {k : ℕ} (h : s.Canonical) : (s.startWarp k).Canonical := by
  unfold State.startWarp
  extract_lets +onlyGivenNames fs s₁
  have h₁ : s₁.Canonical := .foldl h fun h₁ => h₁.landFlight
  exact .foldl h₁ fun h₂ => h₂

theorem State.Canonical.startCounted {s : State} {b n : ℕ} (h : s.Canonical) {fuel : ℕ} :
    (s.startCounted b n fuel).Canonical := by
  induction fuel generalizing s with
  | zero => exact h
  | succ fuel ih =>
    unfold State.startCounted
    extract_lets +onlyGivenNames x
    split
    · exact h
    · extract_lets +onlyGivenNames ks s₁ left s₂
      have h₂ : s₂.Canonical := h.releaseBar.modBar
      exact .ite h₂ (ih h₂)

theorem State.Canonical.startBars {s : State} {b : ℕ} (h : s.Canonical) : (s.startBars b).Canonical := by
  unfold State.startBars
  split
  · exact h
  · exact .foldl h fun h₁ => .ite (.ite h₁.completePhase h₁) h₁.startCounted

theorem State.Canonical.revertCopy {s : State} {b : ℕ} (h : s.Canonical) : (s.revertCopy b).Canonical := by
  unfold State.revertCopy
  split
  · exact h
  · split <;> exact h

theorem State.Canonical.redundRecord {s : State} {b sub : ℕ} {x y : DWord} (h : s.Canonical) :
    (s.redundRecord b sub x y).Canonical := by
  unfold State.redundRecord
  split <;> exact h

theorem State.Canonical.killBlock {s : State} {b : ℕ} (h : s.Canonical) : (s.killBlock b).Canonical :=
  .foldl h fun h₁ => h₁.killOne

theorem State.Canonical.startCopies {s : State} {b t : ℕ} (h : s.Canonical) : (s.startCopies b t).Canonical := by
  unfold State.startCopies
  extract_lets +onlyGivenNames ks s₁ s₂ clear
  have h₂ : s₂.Canonical := .foldl h.startBars.startBars fun h₂ => h₂.startWarp
  have hclear : ∀ {s x}, s.Canonical → (clear s x).Canonical := by
    intro s x h
    unfold clear
    split
    · exact h.modMx
    · exact h
  exact .nextQuantum (.nextQuantum (hclear (hclear h₂)))

theorem State.Canonical.endCopies {s : State} {b t : ℕ} (h : s.Canonical) : (s.endCopies b t).Canonical :=
  h.endBlock.endBlock

theorem State.Canonical.compareCopies {s : State} {b : ℕ} (h : s.Canonical) : (s.compareCopies b).Canonical := by
  unfold State.compareCopies
  split
  · exact h
  · split
    · exact h
    · split
      · exact h
      · extract_lets +onlyGivenNames x y alone ks
        split
        · exact h
        · split
          · exact h.walkRows
          · split
            · extract_lets +onlyGivenNames s₁
              have h₁ : s₁.Canonical := h
              exact .ite h₁.commitAll.ndoneOver.startCopies.endCopies h₁
            · split
              · exact h.redundRecord.modBlock.revertCopy.revertCopy
              · extract_lets +onlyGivenNames s₂ s₃
                have h₂ : s₂.Canonical := h.redundRecord
                have h₃ : s₃.Canonical := h₂
                exact h₃.killBlock.killBlock.modBlock.endCopies

theorem execQuantumEnd_kept {k : ℕ} {s : State} (h : s.Canonical) : Kept (execQuantumEnd k s) := by
  unfold execQuantumEnd
  refine .next ?_
  extract_lets +onlyGivenNames s₁
  have h₁ : s₁.Canonical := .ite h h
  split
  · exact h₁.compareCopies
  · exact h₁

theorem execRoundCommit_kept {l : ℕ} {s : State} (h : s.Canonical) : Kept (execRoundCommit l s) := by
  unfold execRoundCommit
  refine .next ?_
  split
  · exact h
  · split
    · exact h
    · extract_lets +onlyGivenNames ks
      split
      · exact h.walkRows
      · extract_lets +onlyGivenNames s₁ s₂
        have h₁ : s₁.Canonical := h.commitAll.ndoneOver
        refine .foldl h₁ fun h₃ => ?_
        split
        · exact .ite h₃.endCopies h₃
        · exact h₃

theorem execRoundStart_kept {l : ℕ} {s : State} (h : s.Canonical) : Kept (execRoundStart l s) := by
  unfold execRoundStart
  refine .next ?_
  split
  · exact h
  · split
    · exact h
    · extract_lets +onlyGivenNames bs s₁ s₂ ks s₃
      have h₂ : s₂.Canonical := .foldl h fun h₂ => h₂.startBars
      have h₃ : s₃.Canonical := .foldl h₂ fun h₃ => h₃.startWarp
      refine .foldl h₃ fun h₄ => ?_
      exact .ite h₄ h₄

theorem execRoundStuckTimeout_kept {l : ℕ} {s : State} (h : s.Canonical) : Kept (execRoundStuckTimeout l s) := by
  unfold execRoundStuckTimeout
  refine .next ?_
  split
  · exact h
  · exact .ite h h

/-! ### Launch -/

theorem execClusterStart_kept {l cl : ℕ} {s : State} (h : s.Canonical) : Kept (execClusterStart l cl s) := by
  unfold execClusterStart
  refine .next ?_
  split
  · exact h
  · extract_lets +onlyGivenNames held
    split
    · exact h
    · split
      · exact h
      · next t ht =>
          have h₁ := h.placeAll ht
          exact .ite h h₁

theorem execClusterRetire_kept {l : ℕ} {s : State} (h : s.Canonical) : Kept (execClusterRetire l s) := by
  unfold execClusterRetire
  refine .next ?_
  split
  · exact h
  · split
    · exact h
    · exact .ite h (.freePlaces h)

theorem State.Canonical.endLaunch {s : State} {l : ℕ} (h : s.Canonical) : (s.endLaunch l).Canonical := by
  unfold State.endLaunch
  split
  · exact h
  · split
    · exact h
    · extract_lets +onlyGivenNames s₁
      have h₁ : s₁.Canonical := h
      split
      · exact h₁
      · exact h₁.decSignal.modLaunch

theorem State.Canonical.endLaunches {s : State} {q pkt : ℕ} (h : s.Canonical) : (s.endLaunches q pkt).Canonical :=
  .foldl h fun h₁ => h₁.endLaunch

theorem execChildLaunchStart_kept {p : ℕ} {s : State} (h : s.Canonical) : Kept (execChildLaunchStart p s) := by
  unfold execChildLaunchStart
  refine .next ?_
  split
  · exact h
  · extract_lets +onlyGivenNames W round s₁
    have h₁ : s₁.Canonical := h
    split
    · exact h₁.decSignal.rasPacket.modLaunch
    · exact h₁

/-! ### Packets -/

theorem State.Canonical.stopQueue {s : State} {q reason : ℕ} (h : s.Canonical) : (s.stopQueue q reason).Canonical := by
  unfold State.stopQueue
  split <;> exact h

theorem State.Canonical.readWptr {s : State} {q : ℕ} (h : s.Canonical) : (s.readWptr q).Canonical := by
  unfold State.readWptr
  split
  · exact h
  · split
    · exact h
    · extract_lets +onlyGivenNames s₁
      have h₁ : s₁.Canonical := h
      exact .ite h₁.stopQueue h₁

theorem execQueueRegister_kept {r : QueueReg} {s : State} (h : s.Canonical) : Kept (execQueueRegister r s) := by
  unfold execQueueRegister
  refine .next ?_
  split
  · split
    · exact h
    · exact .ite h (.readWptr h)
  · exact h

theorem execQdb_kept {func q : ℕ} {s : State} (h : s.Canonical) : Kept (execQdb func q s) :=
  .next (.ite h (.readWptr h))

theorem execWptrPoll_kept {s : State} (h : s.Canonical) : Kept (execWptrPoll s) :=
  .next (.foldl h fun h₁ => .ite h₁.readWptr h₁)

theorem State.Canonical.startLaunch {s : State} {q idx : ℕ} {b : List Byte} (h : s.Canonical) :
    (s.startLaunch q idx b).Canonical := by
  unfold State.startLaunch
  split <;> exact h

theorem State.Canonical.packetCopy {s : State} {q idx : ℕ} {b : List Byte} (h : s.Canonical) :
    (s.packetCopy q idx b).Canonical :=
  h

theorem State.Canonical.applySignal {s : State} {q : ℕ} {b : List Byte} (h : s.Canonical) : (s.applySignal q b).Canonical :=
  h.setSignal

theorem State.Canonical.startPacket {s : State} {q type : ℕ} {fw : Bool} (h : s.Canonical) :
    (s.startPacket q type fw).Canonical := by
  unfold State.startPacket
  split
  · exact h
  · split
    · exact h
    · split
      · exact .ite h.stopQueue h
      · extract_lets +onlyGivenNames bad idx mine
        split
        · exact h
        · split
          · exact h.stopQueue
          · split
            · exact h
            · split
              · exact h.startLaunch
              · exact h
              · exact .packetDone (.applySignal h)
              · exact h
              · exact h
              · split <;> exact h

theorem execLaunchPacket_kept {q : ℕ} {s : State} (h : s.Canonical) : Kept (execLaunchPacket q s) :=
  .next h.startPacket

theorem execCopyPacket_kept {q : ℕ} {s : State} (h : s.Canonical) : Kept (execCopyPacket q s) :=
  .next h.startPacket

theorem execSignalPacket_kept {q : ℕ} {s : State} (h : s.Canonical) : Kept (execSignalPacket q s) :=
  .next h.startPacket

theorem execWaitsigPacket_kept {q : ℕ} {s : State} (h : s.Canonical) : Kept (execWaitsigPacket q s) :=
  .next h.startPacket

theorem execGangPacket_kept {q : ℕ} {s : State} (h : s.Canonical) : Kept (execGangPacket q s) :=
  .next h.startPacket

theorem execGraphPacket_kept {q : ℕ} {s : State} (h : s.Canonical) : Kept (execGraphPacket q s) :=
  .next h.startPacket

theorem execWaitsigComplete_kept {q : ℕ} {s : State} (h : s.Canonical) : Kept (execWaitsigComplete q s) :=
  .next h.testWait

theorem State.Canonical.startPart {s : State} {L : Launch} (h : s.Canonical) : (s.startPart L).Canonical := by
  unfold State.startPart
  extract_lets +onlyGivenNames l s₁
  have h₁ : s₁.Canonical := h
  split
  · next t ht =>
      have h₂ := h₁.placeBeside ht
      exact h₂
  · exact h₁

theorem execGangCommit_kept {q : ℕ} {s : State} (h : s.Canonical) : Kept (execGangCommit q s) := by
  unfold execGangCommit
  refine .next ?_
  split
  · exact h
  · split
    · exact .stopQueue h
    · split
      · exact h
      · split
        · exact h
        · split
          · exact h
          · exact .foldl h fun h₂ => h₂.startPart

theorem execGangReserveTimeout_kept {q : ℕ} {s : State} (h : s.Canonical) : Kept (execGangReserveTimeout q s) := by
  unfold execGangReserveTimeout
  refine .next ?_
  split
  · exact h
  · split
    · exact h
    · split
      · exact h
      · exact .ite h h

theorem execPacketComplete_kept {q idx : ℕ} {s : State} (h : s.Canonical) : Kept (execPacketComplete q idx s) := by
  unfold execPacketComplete
  refine .next ?_
  split
  · exact h
  · extract_lets +onlyGivenNames s₁
    have h₁ : s₁.Canonical := h.endLaunches
    exact .ite h₁ (.update (.packetDone h₁))

theorem State.Canonical.dropChildren {s : State} {q : ℕ} (h : s.Canonical) : (s.dropChildren q).Canonical := by
  unfold State.dropChildren
  refine .foldl h fun h₁ => ?_
  exact .foldl h₁ fun h₃ => h₃.decSignal.modLaunch

theorem State.Canonical.abortQueue {s : State} {q : ℕ} (h : s.Canonical) : (s.abortQueue q).Canonical := by
  unfold State.abortQueue
  extract_lets +onlyGivenNames ks s₁ s₂ s₃
  have h₁ : s₁.Canonical := .foldl h fun h₁ => .ite h₁ h₁.kill
  have h₂ : s₂.Canonical := h₁.dropChildren
  have h₃ : s₃.Canonical := h₂
  split
  · exact h₃
  · extract_lets +onlyGivenNames s₄
    have h₄ : s₄.Canonical := h₃
    exact .ite h₄.packetDone h₄

theorem execQkill_kept {func q : ℕ} {s : State} (h : s.Canonical) : Kept (execQkill func q s) :=
  .next (.ite h.abortQueue h)

/-! ### Walker -/

theorem State.Canonical.runNode {s : State} {G : Graph} {x : Node} (h : s.Canonical) {t : State × List ℕ}
    (ht : s.runNode G x = some t) : t.1.Canonical := by
  unfold State.runNode at ht
  extract_lets +onlyGivenNames id at ht
  split at ht
  · split at ht
    · cases ht
    · cases ht; exact .pair h.addLaunch
  · obtain ⟨b, -, rfl⟩ := Option.map_eq_some_iff.1 ht
    exact .pair h.packetCopy
  · obtain ⟨b, -, rfl⟩ := Option.map_eq_some_iff.1 ht
    exact .pair h.applySignal

theorem execGraphNodeStart_kept {g n : ℕ} {s : State} (h : s.Canonical) : Kept (execGraphNodeStart g n s) := by
  unfold execGraphNodeStart
  refine .next ?_
  split
  · split
    · exact h
    · split
      · exact h
      · next t x1 ht =>
          have h₁ := h.runNode ht
          exact h₁
  · exact h

theorem execStreamClusterLaunch_kept {g n : ℕ} {s : State} (h : s.Canonical) : Kept (execStreamClusterLaunch g n s) := by
  unfold execStreamClusterLaunch
  refine .next ?_
  split
  · split
    · exact h
    · split
      · exact h
      · split <;> exact h
  · exact h

theorem State.Canonical.nodeSignal {s : State} {q : ℕ} {x : Node} (h : s.Canonical) : (s.nodeSignal q x).Canonical := by
  unfold State.nodeSignal
  split
  · exact h
  · split
    · exact h.decSignal
    · exact h

theorem execGraphNodeComplete_kept {g n : ℕ} {s : State} (h : s.Canonical) : Kept (execGraphNodeComplete g n s) := by
  unfold execGraphNodeComplete
  refine .next ?_
  split
  · exact h
  · extract_lets +onlyGivenNames s₁
    have h₁ : s₁.Canonical := h.endLaunches
    split
    · exact h₁
    · split
      · exact h₁
      · extract_lets +onlyGivenNames s₂
        have h₂ : s₂.Canonical := .ite h₁ h₁.nodeSignal
        exact .foldl h₂ fun h₄ => h₄

/-! ### Preempt -/

theorem State.Canonical.stopQueueBlocks {s : State} {q : ℕ} (h : s.Canonical) : (s.stopQueueBlocks q).Canonical :=
  .foldl h fun h₁ => h₁.stopBlock

theorem State.Canonical.abortQueueTxs {s : State} {q : ℕ} (h : s.Canonical) : (s.abortQueueTxs q).Canonical :=
  .foldl h fun h₁ => h₁.abortTxs

theorem State.Canonical.abortQueueBlocks {s : State} {q : ℕ} (h : s.Canonical) : (s.abortQueueBlocks q).Canonical :=
  .foldl h fun h₁ => h₁.abortBlock

theorem State.Canonical.saveQueue {s : State} {q : ℕ} (h : s.Canonical) {t : State} (ht : s.saveQueue q = some t) :
    t.Canonical := by
  unfold State.saveQueue at ht
  split at ht
  · cases ht
  · obtain ⟨x, hx, rfl⟩ := Option.map_eq_some_iff.1 ht
    refine List.foldlRecOn (motive := State.KeptFst) _ _ ?_ ?_ x hx
    · exact .some h
    · intro o ho b _
      split
      · exact .none
      · intro p hp
        obtain ⟨u, hu, rfl⟩ := Option.map_eq_some_iff.1 hp
        exact (ho _ rfl).saveBlock hu

theorem State.Canonical.abandonPreempt {s : State} {q sub : ℕ} (h : s.Canonical) : (s.abandonPreempt q sub).Canonical := by
  unfold State.abandonPreempt
  extract_lets +onlyGivenNames bs asked s₁
  have h₁ : s₁.Canonical := .foldl h fun h₁ => h₁.resumeBlock
  split <;> exact h₁

theorem State.Canonical.restoreQueue {s : State} {q : ℕ} (h : s.Canonical) {t : State} (ht : s.restoreQueue q = some t) :
    t.Canonical := by
  unfold State.restoreQueue at ht
  extract_lets +onlyGivenNames save at ht
  refine List.foldlRecOn (motive := State.KeptSome) _ _ ?_ ?_ t ht
  · exact .some h
  · intro o ho x _
    split
    · exact .none
    · intro u hu
      obtain ⟨c, -, hc⟩ := List.exists_of_findSome?_eq_some hu
      exact (ho _ rfl).loadBlock hc

theorem execPreemption_kept {q : ℕ} {s : State} (h : s.Canonical) : Kept (execPreemption q s) := by
  unfold execPreemption
  refine .next ?_
  split
  · exact h
  · split
    · exact h
    · split
      · split
        · exact h
        · split
          · next t ht =>
              have h₁ := h.restoreQueue ht
              exact h₁
          · exact h
      · split
        · extract_lets +onlyGivenNames before s₁ s₂ s₃
          have h₁ : s₁.Canonical := h.stopQueueBlocks
          have h₂ : s₂.Canonical := .ite h₁ h₁
          have h₃ : s₃.Canonical := h₂.abortQueueTxs
          split
          · exact h₃
          · extract_lets +onlyGivenNames s₄
            have h₄ : s₄.Canonical := h₃.abortQueueBlocks
            split
            · next t ht =>
                have h₅ := h₄.saveQueue ht
                exact h₅
            · exact h₄.abandonPreempt
        · exact .ite (.stopQueueBlocks h) h

theorem execPreemptDrainTimeout_kept {q : ℕ} {s : State} (h : s.Canonical) : Kept (execPreemptDrainTimeout q s) := by
  unfold execPreemptDrainTimeout
  refine .next ?_
  split
  · exact h
  · exact .ite h h.abandonPreempt

/-! ### Devices -/

theorem execPoolEnable_kept {die n : ℕ} {v : DWord} {s : State} (h : s.Canonical) : Kept (execPoolEnable die n v s) :=
  .next (.ite h h)

theorem execPoolDisable_kept {die n : ℕ} {s : State} (h : s.Canonical) : Kept (execPoolDisable die n s) :=
  .next (.ite h h)

theorem State.Canonical.poolLink {s : State} {die n : ℕ} (h : s.Canonical) : (s.poolLink die n).Canonical :=
  .foldl h fun h₁ => h₁.virtPut

theorem execPoolLinkDone_kept {die n : ℕ} {s : State} (h : s.Canonical) : Kept (execPoolLinkDone die n s) := by
  unfold execPoolLinkDone
  refine .next ?_
  extract_lets +onlyGivenNames D
  split
  · exact h
  · extract_lets +onlyGivenNames off idle
    exact .ite h.poolLink.modDie h

theorem execFmtWinEnable_kept {die n : ℕ} {v : Word} {s : State} (h : s.Canonical) : Kept (execFmtWinEnable die n v s) :=
  .next (.ite h h)

theorem execFmtWinDisable_kept {die n : ℕ} {s : State} (h : s.Canonical) : Kept (execFmtWinDisable die n s) :=
  .next (.ite h h)

theorem execFmtWinDisableDone_kept {die n : ℕ} {s : State} (h : s.Canonical) : Kept (execFmtWinDisableDone die n s) :=
  .next (.ite h (.modDie (.foldl h fun h₁ => h₁.evictLine)))

theorem execFmtWinFlagClear_kept {die n : ℕ} {sat nan : Bool} {s : State} (h : s.Canonical) :
    Kept (execFmtWinFlagClear die n sat nan s) := by
  unfold execFmtWinFlagClear
  refine .next ?_
  exact .ite h h

theorem execRasOvfClear_kept {die : ℕ} {s : State} (h : s.Canonical) : Kept (execRasOvfClear die s) :=
  .next (.ite h h)

theorem execRasAppend_kept {die : ℕ} {s : State} (h : s.Canonical) : Kept (execRasAppend die s) := by
  unfold execRasAppend
  refine .next ?_
  extract_lets +onlyGivenNames D
  split
  · exact h
  · split
    · exact h
    · extract_lets +onlyGivenNames s₁
      have h₁ : s₁.Canonical := h
      exact .ite h₁ h₁.homePut.clearPoison.modDie

theorem execRasHeadAdvance_kept {die : ℕ} {s : State} (h : s.Canonical) : Kept (execRasHeadAdvance die s) := by
  unfold execRasHeadAdvance
  refine .next ?_
  extract_lets +onlyGivenNames D
  split
  · exact h
  · split
    · exact h
    · extract_lets +onlyGivenNames s₁
      exact .ite h h

theorem execRegisterWrite_kept {r : Reg} {v : DWord} {s : State} (h : s.Canonical) : Kept (execRegisterWrite r v s) := by
  unfold execRegisterWrite
  refine .next ?_
  extract_lets +onlyGivenNames p
  split
  · exact h
  · split
    · exact .ite h h
    · exact .ite h h
    · exact h
    · exact h

theorem execHostBar2Access_kept {func addr : ℕ} {data : Option (List Byte)} {len : ℕ} {s : State} (h : s.Canonical) :
    Kept (execHostBar2Access func addr data len s) := by
  unfold execHostBar2Access
  refine .next ?_
  extract_lets +onlyGivenNames n a
  split
  · exact h
  · split
    · exact h.homePutRun.clearPoison
    · exact h

/-! ### Fabric -/

theorem execLinkBringup_kept {port peer lo hi : ℕ} {s : State} (h : s.Canonical) :
    Kept (execLinkBringup port peer lo hi s) := by
  unfold execLinkBringup
  refine .next ?_
  split
  · exact h
  · split <;> exact h

theorem execLinkDown_kept {port : ℕ} {s : State} (h : s.Canonical) : Kept (execLinkDown port s) :=
  .next (.ite h h)

theorem State.Canonical.install {s : State} {m : ViewMsg} (h : s.Canonical) : (s.install m).Canonical := by
  unfold State.install
  extract_lets +onlyGivenNames z news key joins s₁
  have h₁ : s₁.Canonical := .ite h h.sendAll
  exact .collSettle h₁

theorem State.Canonical.leaveView {s : State} (h : s.Canonical) : s.leaveView.Canonical :=
  .ite h (.collSettle h)

theorem State.Canonical.commitView {s : State} {m : ViewMsg} (h : s.Canonical) : (s.commitView m).Canonical :=
  .install h

theorem State.Canonical.proposeView {s : State} {bits : List ℕ} (h : s.Canonical) : (s.proposeView bits).Canonical := by
  unfold State.proposeView
  extract_lets +onlyGivenNames m s₁
  have h₁ : s₁.Canonical := h
  exact .ite h₁.commitView h₁

theorem State.Canonical.tryForm {s : State} (h : s.Canonical) : s.tryForm.Canonical := .ite h.proposeView h

theorem State.Canonical.weighQuorum {s : State} {had : Bool} {p : ℕ} (h : s.Canonical) :
    (s.weighQuorum had p).Canonical := by
  unfold State.weighQuorum
  extract_lets +onlyGivenNames z s₁
  have h₁ : s₁.Canonical := .ite h (.ite h h)
  exact h₁.tryForm

theorem execBeatSend_kept {die : ℕ} {s : State} (h : s.Canonical) : Kept (execBeatSend die s) := by
  unfold execBeatSend
  refine .next ?_
  split
  · exact h
  · exact .ite h h

theorem execBeatWindowEnd_kept {p : ℕ} {beat live : Bool} {s : State} (h : s.Canonical) :
    Kept (execBeatWindowEnd p beat live s) := by
  unfold execBeatWindowEnd
  refine .next ?_
  extract_lets +onlyGivenNames z others
  split
  · exact h
  · split
    · extract_lets +onlyGivenNames mine s₁ s₂
      have h₁ : s₁.Canonical := h
      have h₂ : s₂.Canonical := .ite h₁.sendAll h₁
      exact h₂.weighQuorum
    · extract_lets +onlyGivenNames n s₃
      have h₃ : s₃.Canonical := h
      exact .ite h₃ (.weighQuorum (.sendAll h₃))

theorem execSuspect_kept {src p : ℕ} {holds : Bool} {s : State} (h : s.Canonical) : Kept (execSuspect src p holds s) :=
  .next (.weighQuorum h)

theorem State.Canonical.resetFirmware {s : State} (h : s.Canonical) : s.resetFirmware.Canonical := by
  unfold State.resetFirmware
  extract_lets +onlyGivenNames s₁
  have h₁ : s₁.Canonical := by
    unfold s₁
    refine .foldl h fun h₁ => ?_
    extract_lets +onlyGivenNames t _ s₂
    have h₂ : s₂.Canonical := .ite (.update h₁) h₁
    exact h₂.modDie
  exact .update h₁

theorem execReset_kept {m : ResetMsg} {s : State} (h : s.Canonical) : Kept (execReset m s) := by
  unfold execReset
  refine .next ?_
  extract_lets +onlyGivenNames level view
  split
  · exact .ite h h
  · extract_lets +onlyGivenNames seen s₁
    have h₁ : s₁.Canonical := h
    split
    · exact h₁
    · extract_lets +onlyGivenNames s₂ s₃
      have h₂ : s₂.Canonical := h₁.leaveView
      have h₃ : s₃.Canonical := .ite h₂.resetFirmware (.ite h₂.resetPackage h₂)
      exact h₃

theorem execResetEscalateTimeout_kept {p : ℕ} {s : State} (h : s.Canonical) : Kept (execResetEscalateTimeout p s) := by
  unfold execResetEscalateTimeout
  refine .next ?_
  extract_lets +onlyGivenNames z
  split
  · exact h
  · exact .ite h h

theorem execPropose_kept {m : ViewMsg} {s : State} (h : s.Canonical) : Kept (execPropose m s) := by
  unfold execPropose
  refine .next ?_
  extract_lets +onlyGivenNames z due lower mine
  split
  · exact h
  · extract_lets +onlyGivenNames s₁
    exact .ite h h

theorem execAck_kept {src view : ℕ} {s : State} (h : s.Canonical) : Kept (execAck src view s) := by
  unfold execAck
  refine .next ?_
  split
  · exact h
  · split
    · exact h
    · extract_lets +onlyGivenNames acks s₁
      have h₁ : s₁.Canonical := h
      exact .ite h₁.commitView.tryForm h₁

theorem execAckTimeout_kept {s : State} (h : s.Canonical) : Kept (execAckTimeout s) := by
  unfold execAckTimeout
  refine .next ?_
  split
  · exact h
  · exact .ite h h.proposeView

theorem execCommit_kept {m : ViewMsg} {s : State} (h : s.Canonical) : Kept (execCommit m s) := by
  unfold execCommit
  refine .next ?_
  exact .ite h (.ite h.install.tryForm h.leaveView)

theorem execJoin_kept {src jview : ℕ} {s : State} (h : s.Canonical) : Kept (execJoin src jview s) := by
  unfold execJoin
  refine .next ?_
  exact .ite h (.ite h (.tryForm h))

theorem execVackArrival_kept {src cid view : ℕ} {s : State} (h : s.Canonical) : Kept (execVackArrival src cid view s) :=
  .next h

/-! ### Boot -/

theorem State.Canonical.modIsland {s : State} {f : Island → Island} (h : s.Canonical) : (s.modIsland f).Canonical :=
  h

theorem execMregExtend_kept {j : ℕ} {v : List Byte} {s : State} (h : s.Canonical) : Kept (execMregExtend j v s) :=
  .next (.ite h h)

theorem execIslandHeartbeat_kept {arrives : Bool} {s : State} (h : s.Canonical) : Kept (execIslandHeartbeat arrives s) :=
  .next (.ite h (.ite h h))

theorem execIslandTakeover_kept {s : State} (h : s.Canonical) : Kept (execIslandTakeover s) :=
  .next (.ite h h)

theorem State.Canonical.bootFails {s : State} {err : BitVec 4} (h : s.Canonical) : (s.bootFails err).Canonical :=
  h

theorem State.Canonical.keepStages {s : State} (h : s.Canonical) : State.Canonical { State.reset with
    agenda := s.agenda
    fresh := s.fresh
    nextId := s.nextId
    time := s.time
    epoch := s.epoch + 1
    mem := s.mem.filter (fun c => !(packageOf c.1 == s.zinc.self && !inHostWindow c.1) && c.2 != unwritten (s.epoch + 1) c.1)
    host := s.host
    island := { flashCount := s.island.flashCount, fuses := s.island.fuses }
    sent := s.sent } := by
  unfold State.Canonical at h ⊢
  rw [wf_iff, cellsWf_iff] at h ⊢
  obtain ⟨hmem, hhost⟩ := h
  refine ⟨⟨msorted_filter _ hmem.1, fun c hc => ?_⟩, hhost⟩
  have hc := (List.mem_filter.1 hc).2
  simp only [Bool.and_eq_true, bne_iff_ne] at hc
  exact hc.2

theorem State.Canonical.powerOn {s : State} {flashLost : Bool} (h : s.Canonical) : (s.powerOn flashLost).Canonical := by
  unfold State.powerOn
  extract_lets +onlyGivenNames used _ s₁
  have h₁ : s₁.Canonical := by
    unfold s₁
    split
    · exact h
    · exact h.keepStages
  exact .ite h₁.modIsland h₁

theorem execBoot_kept {a b : BootCopy} {flashLost : Bool} {s : State} (h : s.Canonical) :
    Kept (execBoot a b flashLost s) := by
  unfold execBoot
  refine .next ?_
  extract_lets +onlyGivenNames s₁ s₂
  have h₁ : s₁.Canonical := h.powerOn
  have h₂ : s₂.Canonical := h₁
  exact .ite h₂ (.ite h₂ h₂)

theorem execBootFetchRetry_kept {s : State} (h : s.Canonical) : Kept (execBootFetchRetry s) :=
  .next (.ite h h)

theorem execFirmwareFetchDone_kept {m : FirmwareImage} {s : State} (h : s.Canonical) : Kept (execFirmwareFetchDone m s) := by
  unfold execFirmwareFetchDone
  refine .next ?_
  split
  · exact h
  · extract_lets +onlyGivenNames s₁
    have h₁ : s₁.Canonical := h.modIsland
    split
    · exact h₁.bootFails
    · extract_lets +onlyGivenNames s₂
      have h₂ : s₂.Canonical := h₁.modIsland
      split
      · exact h₂.bootFails
      · extract_lets +onlyGivenNames s₃ _ s₄
        have h₃ : s₃.Canonical := h₂.modIsland
        have h₄ : s₄.Canonical := .update h₃
        exact .foldl h₄ fun h₅ => h₅.modDie

theorem execGetVersion_kept {s : State} (h : s.Canonical) : Kept (execGetVersion s) := .next h

theorem execGetCapabilities_kept {s : State} (h : s.Canonical) : Kept (execGetCapabilities s) :=
  .next (.ite h h)

theorem execNegotiateAlgorithms_kept {s : State} (h : s.Canonical) : Kept (execNegotiateAlgorithms s) :=
  .next (.ite h h)

theorem execGetDigests_kept {s : State} (h : s.Canonical) : Kept (execGetDigests s) := .next (.ite h h)

theorem execGetCertificate_kept {slot off len : ℕ} {s : State} (h : s.Canonical) :
    Kept (execGetCertificate slot off len s) :=
  .next (.ite h (.ite h h))

theorem execGetMeasurements_kept {index : ℕ} {sign : Bool} {nonce : List Byte} {s : State} (h : s.Canonical) :
    Kept (execGetMeasurements index sign nonce s) := by
  unfold execGetMeasurements
  refine .next ?_
  extract_lets +onlyGivenNames I
  split
  · exact h
  · split
    · exact h
    · split
      · exact h
      · extract_lets +onlyGivenNames context request body said
        exact .ite h h

theorem execHealthUpdate_kept {h : Health} {s : State} (hs : s.Canonical) : Kept (execHealthUpdate h s) :=
  .next (.ite hs hs)

theorem execPowerBudgetAdjust_kept {die : ℕ} {budget : BitVec 6} {s : State} (h : s.Canonical) :
    Kept (execPowerBudgetAdjust die budget s) :=
  .next (.ite h h)

theorem execTinPoll_kept {die : ℕ} {s : State} (h : s.Canonical) : Kept (execTinPoll die s) := by
  unfold execTinPoll
  refine .next ?_
  split
  · exact h
  · extract_lets +onlyGivenNames qs s₁ after
    have h₁ : s₁.Canonical := .foldl h fun h₁ => h₁.readWptr
    split
    · exact h₁
    · exact h₁.startPacket.modDie

theorem execFirmwareReturn_kept {die : ℕ} {s : State} (h : s.Canonical) : Kept (execFirmwareReturn die s) :=
  .next (.ite h h)

/-! ### The step -/

/-- Every instruction word's behaviour keeps the canonical form of memory; those that only write registers do so at once. -/
theorem kitOf_keeps (o : Op) : (kitOf o).Keeps :=
  match o with
  | .iadd | .isub | .iadd3 | .imul | .imulh | .imad | .imadw | .iabs | .imin | .imax | .icmp | .sel | .shl | .shr
  | .sar | .shf | .and_ | .or_ | .xor_ | .bfn3 | .bfx | .bfi | .popc | .clz | .brev | .prmb | .mov | .movi | .lea
  | .add64 | .cmp64 | .movx | .movxw | .fadd | .fsub | .fmul | .ffma | .fmin | .fmax | .fcmp | .fclass | .frcp
  | .frsq | .fsqrt | .fexp2 | .flog2 | .fsin | .fcos | .ftanh | .fsigm | .fdot2 | .fdot4 | .fscale | .frnd | .cvtf
  | .cvtfi | .cvtif | .pack16 | .qnt | .dqnt | .shfl | .flane | .cmpx | .rebal | .compact | .bra | .brx | .call
  | .fsync | .if_ | .else_ | .endif | .loop | .break_ | .cont_ | .endloop | .ivl | .yield | .nop | .viewrd => { eff := fun h => h }
  | .mxscale => kitMxscale_keeps
  | .vote => kitVote_keeps
  | .matchL => kitMatch_keeps
  | .wred => kitWred_keeps
  | .wscan => kitWscan_keeps
  | .ret => kitRet_keeps
  | .fcall => kitFcall_keeps
  | .regang => kitRegang_keeps
  | .bar => kitBar_keeps
  | .bara => kitBara_keeps
  | .barw => kitBarw_keeps
  | .pba => kitPba_keeps
  | .pbw => kitPbw_keeps
  | .exit_ => kitExit_keeps
  | .ld => kitLd_keeps
  | .st => kitSt_keeps
  | .lds => kitLds_keeps
  | .sts => kitSts_keeps
  | .lde => kitLde_keeps
  | .ste => kitSte_keeps
  | .ldc => kitLdc_keeps
  | .pref => kitPref_keeps
  | .discard => kitDiscard_keeps
  | .amo => kitAmo_keeps
  | .red => kitRed_keeps
  | .amos => kitAmos_keeps
  | .txopen => kitTxopen_keeps
  | .txseal => kitTxseal_keeps
  | .txdrop => kitTxdrop_keeps
  | .fence => kitFence_keeps
  | .waitc => kitWaitc_keeps
  | .trywait => kitTrywait_keeps
  | .qsp => kitQsp_keeps
  | .gpreq => kitGpreq_keeps
  | .gpwait => kitGpwait_keeps
  | .dfree => kitDfree_keeps
  | .palloc => kitPalloc_keeps
  | .pfree => kitPfree_keeps
  | .gather => kitGather_keeps
  | .scatter => kitScatter_keeps
  | .copy => kitCopy_keeps
  | .copyr => kitCopyr_keeps
  | .mcfg => kitMcfg_keeps
  | .mlds => kitMlds_keeps
  | .mswap => kitMswap_keeps
  | .mloop => kitMloop_keeps
  | .mzero => kitMzero_keeps
  | .mrd => kitMrd_keeps
  | .mst => kitMst_keeps
  | .macc => kitMacc_keeps
  | .mfence => kitMfence_keeps
  | .mwait => kitMwait_keeps
  | .mmeta => kitMmeta_keeps
  | .tapbind => kitTapbind_keeps
  | .fgath => kitFgath_keeps
  | .tapgo => kitTapgo_keeps
  | .tapwait => kitTapwait_keeps
  | .fev => kitFev_keeps
  | .frewr => kitFrewr_keeps
  | .frel => kitFrel_keeps
  | .adpq => kitAdpq_keeps
  | .emit => kitEmit_keeps
  | .launch => kitLaunch_keeps
  | .sigadd => kitSigadd_keeps
  | .ndone => kitNdone_keeps
  | .cred => kitCred_keeps
  | .cgath => kitCgath_keeps
  | .cbcst => kitCbcst_keeps
  | .ca2a => kitCa2a_keeps
  | .cwait => kitCwait_keeps
  | .vjoin => kitVjoin_keeps
  | .vack => kitVack_keeps
  | .trap => kitTrap_keeps
  | .eret => kitEret_keeps
  | .ctlr => kitCtlr_keeps
  | .ctlw => kitCtlw_keeps
  | .halt => kitHalt_keeps
  | .tlbinv => kitTlbinv_keeps
  | .cacheop => kitCacheop_keeps
  | .ctxsv => kitCtxsv_keeps
  | .ctxld => kitCtxld_keeps
  | .qend => kitQend_keeps
  | .sigr => kitSigr_keeps
  | .rasw => kitRasw_keeps

/-- An instruction word keeps the canonical form of memory. -/
theorem exec_word_kept {i : Instr} {o : Op} {len : Len} {w : Fields} {s : State} (hi : i.word = some (o, len, w))
    (h : s.Canonical) : Kept (exec i s) := by
  rw [exec_word hi]
  exact .run (kitOf_keeps o) h

/-- An event keeps the canonical form of memory. -/
theorem exec_event_kept {i : Instr} {s : State} (hi : i.word = none) (h : s.Canonical) : Kept (exec i s) := by
  cases i with
  | regangRelease _ _ => exact execRegangRelease_kept h
  | barrierPhaseComplete _ _ => exact execBarrierPhaseComplete_kept h
  | intervalPrefetchDone _ => exact execIntervalPrefetchDone_kept h
  | fenceReleaseDone _ => exact execFenceReleaseDone_kept h
  | trywaitWake _ => exact execTrywaitWake_kept h
  | trywaitHintExpiry _ => exact execTrywaitHintExpiry_kept h
  | gracePeriodComplete _ => exact execGracePeriodComplete_kept h
  | cpComplete _ => exact execCpComplete_kept h
  | gsComplete _ => exact execGsComplete_kept h
  | engineWprot _ => exact execEngineWprot_kept h
  | matrixOpExecute _ => exact execMatrixOpExecute_kept h
  | mxBatchComplete _ => exact execMxBatchComplete_kept h
  | tapbindBegin _ => exact execTapbindBegin_kept h
  | fgathComplete _ => exact execFgathComplete_kept h
  | tapgoComplete _ => exact execTapgoComplete_kept h
  | eventRingAdvance _ => exact execEventRingAdvance_kept h
  | collMessageReceive _ => exact execCollMessageReceive_kept h
  | collOpComplete _ => exact execCollOpComplete_kept h
  | issueCycle _ _ => exact execIssueCycle_kept h
  | warpStart _ _ => exact execWarpStart_kept h
  | loadReturn _ => exact execLoadReturn_kept h
  | homeWriteArrival _ _ => exact execHomeWriteArrival_kept h
  | storeAck _ => exact execStoreAck_kept h
  | lineFill _ _ _ => exact execLineFill_kept h
  | leaseExpiry _ => exact execLeaseExpiry_kept h
  | tlbWalkComplete _ => exact execTlbWalkComplete_kept h
  | pageFaultResolved _ _ => exact execPageFaultResolved_kept h
  | eccUncorrectable _ => exact execEccUncorrectable_kept h
  | watchdog _ => exact execWatchdog_kept h
  | quantumEnd _ => exact execQuantumEnd_kept h
  | roundCommit _ => exact execRoundCommit_kept h
  | roundStart _ => exact execRoundStart_kept h
  | roundStuckTimeout _ => exact execRoundStuckTimeout_kept h
  | queueRegister r =>
    change Kept (execQueueRegister r s)
    exact execQueueRegister_kept h
  | qdb _ _ => exact execQdb_kept h
  | qkill _ _ => exact execQkill_kept h
  | wptrPoll => exact execWptrPoll_kept h
  | launchPacket _ => exact execLaunchPacket_kept h
  | copyPacket _ => exact execCopyPacket_kept h
  | signalPacket _ => exact execSignalPacket_kept h
  | waitsigPacket _ => exact execWaitsigPacket_kept h
  | waitsigComplete _ => exact execWaitsigComplete_kept h
  | gangPacket _ => exact execGangPacket_kept h
  | gangCommit _ => exact execGangCommit_kept h
  | gangReserveTimeout _ => exact execGangReserveTimeout_kept h
  | graphPacket _ => exact execGraphPacket_kept h
  | graphNodeStart _ _ => exact execGraphNodeStart_kept h
  | graphNodeComplete _ _ => exact execGraphNodeComplete_kept h
  | streamClusterLaunch _ _ => exact execStreamClusterLaunch_kept h
  | childLaunchStart _ => exact execChildLaunchStart_kept h
  | clusterStart _ _ => exact execClusterStart_kept h
  | clusterRetire _ => exact execClusterRetire_kept h
  | packetComplete _ _ => exact execPacketComplete_kept h
  | preemption _ => exact execPreemption_kept h
  | preemptDrainTimeout _ => exact execPreemptDrainTimeout_kept h
  | poolEnable _ _ _ => exact execPoolEnable_kept h
  | poolLinkDone _ _ => exact execPoolLinkDone_kept h
  | poolDisable _ _ => exact execPoolDisable_kept h
  | fmtWinEnable _ _ _ => exact execFmtWinEnable_kept h
  | fmtWinDisable _ _ => exact execFmtWinDisable_kept h
  | fmtWinDisableDone _ _ => exact execFmtWinDisableDone_kept h
  | fmtWinFlagClear _ _ _ _ => exact execFmtWinFlagClear_kept h
  | rasOvfClear _ => exact execRasOvfClear_kept h
  | registerWrite _ _ => exact execRegisterWrite_kept h
  | rasAppend _ => exact execRasAppend_kept h
  | rasHeadAdvance _ => exact execRasHeadAdvance_kept h
  | tinPoll _ => exact execTinPoll_kept h
  | hostBar2Access _ _ _ _ => exact execHostBar2Access_kept h
  | linkBringup _ _ _ _ => exact execLinkBringup_kept h
  | beatSend _ => exact execBeatSend_kept h
  | beatWindowEnd _ _ _ => exact execBeatWindowEnd_kept h
  | suspect _ _ _ => exact execSuspect_kept h
  | reset _ => exact execReset_kept h
  | resetEscalateTimeout _ => exact execResetEscalateTimeout_kept h
  | propose _ => exact execPropose_kept h
  | ack _ _ => exact execAck_kept h
  | ackTimeout => exact execAckTimeout_kept h
  | commit _ => exact execCommit_kept h
  | join _ _ => exact execJoin_kept h
  | islandHeartbeat _ => exact execIslandHeartbeat_kept h
  | islandTakeover => exact execIslandTakeover_kept h
  | boot _ _ _ => exact execBoot_kept h
  | bootFetchRetry => exact execBootFetchRetry_kept h
  | firmwareFetchDone _ => exact execFirmwareFetchDone_kept h
  | mregExtend _ _ => exact execMregExtend_kept h
  | getVersion => exact execGetVersion_kept h
  | getCapabilities => exact execGetCapabilities_kept h
  | negotiateAlgorithms => exact execNegotiateAlgorithms_kept h
  | getDigests => exact execGetDigests_kept h
  | getCertificate _ _ _ => exact execGetCertificate_kept h
  | getMeasurements _ _ _ => exact execGetMeasurements_kept h
  | healthUpdate _ => exact execHealthUpdate_kept h
  | powerBudgetAdjust _ _ => exact execPowerBudgetAdjust_kept h
  | firmwareReturn _ => exact execFirmwareReturn_kept h
  | linkDown _ => exact execLinkDown_kept h
  | vackArrival _ _ _ => exact execVackArrival_kept h
  | _ => cases hi

/-- What is executed, word or event, keeps the canonical form of memory. -/
theorem exec_kept (i : Instr) {s : State} (h : s.Canonical) : Kept (exec i s) := by
  cases hi : i.word with
  | none => exact exec_event_kept hi h
  | some x => exact exec_word_kept hi h

theorem State.Canonical.happen {s : State} (i : Instr) (h : s.Canonical) : Kept (s.happen i) := by
  unfold State.happen
  split
  · exact exec_kept i h
  · exact .next h

/-- A step keeps the canonical form of memory. -/
theorem step_kept {s : State} (h : s.Canonical) : Kept (step s) := by
  unfold step
  split
  · have hf : s.fetch.1.Canonical := h.fetch'
    split
    · next t i ht => exact exec_kept i (hf.of_fst ht)
    · next t ht => exact .next (hf.of_fst ht)
  · split
    · exact State.Canonical.happen _ (.update h)
    · exact State.Canonical.happen _ (.update h)

/-- Settles O60: one lemma for each function of the model that yields a state says that it keeps the canonical form of memory;
a step is made of these. -/
theorem memoryCanonical : Obligations.MemoryCanonical :=
  fun _ t h ht => step_kept h t ht

end Sys2Proof.Machine

/-! The scratchpad's stores and atomics (R66, R67, R234, R241 to R243): what a byte reads as after a write, the bytes that the lanes of an
STS write, and the lanes of an AMOS one after another. -/

namespace Sys2Proof.Machine

/-! ### Scratchpad bytes (R66, R67) -/

theorem spadByte_spadPut (m : List Host.Cell) (a : Nat) (bs : List Byte) (x : Nat) : spadByte (spadPut m a bs) x =
    if a ≤ x ∧ x < a + bs.length then bs.getD (x - a) 0 else spadByte m x := by
  unfold spadByte spadPut
  split
  · next h =>
    have hj : x - a < bs.length := by omega
    have := cellGet_cellsPut_in (d := fun _ => (0 : Byte)) m (a := a) bs hj
    rw [show a + (x - a) = x by omega] at this
    rw [this]
  · next h => exact cellGet_cellsPut_out m bs (by omega)

theorem spadBytes_eq (m : List Host.Cell) (a n : Nat) : spadBytes m a n = (List.range n).map (fun j => spadByte m (a + j)) := rfl

theorem spadBytes_one (m : List Host.Cell) (a : Nat) : spadBytes m a 1 = [spadByte m a] := rfl

/-- Cells written one by one. -/
def putCells (m : List Host.Cell) (l : List Host.Cell) : List Host.Cell := l.foldl (fun m c => spadPut m c.1 [c.2]) m

/-- Runs are the cells they are made of. -/
theorem foldl_runsOf (l m : List Host.Cell) : (runsOf l).foldl (fun m r => spadPut m r.1 r.2) m = putCells m l := by
  induction l generalizing m with
  | nil => rfl
  | cons c l ih =>
    have hcons : (runsOf (c :: l)).foldl (fun m r => spadPut m r.1 r.2) m =
        (runsOf l).foldl (fun m r => spadPut m r.1 r.2) (spadPut m c.1 [c.2]) := by
      show (match runsOf l with
        | (a, bs) :: r => if c.1 + 1 = a && a % 32 != 0 then (c.1, c.2 :: bs) :: r else (c.1, [c.2]) :: runsOf l
        | [] => [(c.1, [c.2])]).foldl _ m = _
      cases runsOf l with
      | nil => rfl
      | cons e r =>
        dsimp only
        split
        · next h =>
          have ha : c.1 + 1 = e.1 := by
            rw [Bool.and_eq_true, decide_eq_true_eq] at h
            exact h.1
          simp only [List.foldl_cons, ← ha]
          rfl
        · rfl
    rw [hcons, ih]
    rfl

theorem spadByte_putCells {l : List Host.Cell} (hl : msorted l = true) (m : List Host.Cell) (x : Nat) :
    spadByte (putCells m l) x = (mfind l x).getD (spadByte m x) := by
  induction l generalizing m with
  | nil => rfl
  | cons c l ih =>
    obtain ⟨a, v⟩ := c
    obtain ⟨hbelow, hl⟩ := msorted_cons.1 hl
    show spadByte (putCells (spadPut m a [v]) l) x = _
    rw [ih hl, spadByte_spadPut, mfind]
    by_cases hx : x = a
    · subst hx
      simp [mfind_below hbelow]
    · rw [if_neg (by simp; omega), if_neg hx]

theorem leBytes_getElem? (n x j : Nat) (h : j < n) : (leBytes n x)[j]? = some (BitVec.ofNat 8 (x / 256 ^ j)) := by
  induction n generalizing x j with
  | zero => omega
  | succ n ih =>
    cases j with
    | zero => simp [leBytes]
    | succ j => rw [leBytes, List.getElem?_cons_succ, ih _ _ (by omega), Nat.div_div_eq_div_mul, Nat.pow_succ']


theorem foldl_range_four (g : Nat → Nat) : (List.range 4).foldl (fun acc q => acc + g q) 0 = g 0 + g 1 + g 2 + g 3 := by
  simp [List.range_succ]
/-- A byte of a number made of 32-bit words is a byte of one of the words. -/
theorem byte_of_words {f : Nat → Nat} (hf : ∀ q, f q < 2 ^ 32) {j : Nat} (hj : j < 16) :
    ((List.range 4).foldl (fun acc q => acc + f q * 2 ^ (32 * q)) 0) / 256 ^ j % 256 = f (j / 4) / 2 ^ (8 * (j % 4)) % 256 := by
  rw [foldl_range_four (fun q => f q * 2 ^ (32 * q))]
  have h0 := hf 0
  have h1 := hf 1
  have h2 := hf 2
  have h3 := hf 3
  interval_cases j <;> norm_num <;> omega

theorem length_dataBytes {c : Ctx} {n : Nat} (hn : n ≤ 16) (i : Nat) : (c.dataBytes n i).length = n := by
  rw [Ctx.dataBytes, List.length_take, length_leBytes]
  omega

/-- Byte j of the low n bytes of D's registers is byte j % 4 of register j / 4. -/
theorem dataBytes_getElem? {c : Ctx} {n i j : Nat} (hn : n ≤ 16) (hj : j < n) :
    (c.dataBytes n i)[j]? = some ((c.W.reg (c.w.d.toNat + j / 4) i).extractLsb' (8 * (j % 4)) 8) := by
  rw [Ctx.dataBytes, List.getElem?_take_of_lt hj, leBytes_getElem? _ _ _ (by omega)]
  congr 1
  refine BitVec.eq_of_toNat_eq ?_
  let f (q : Nat) : Nat := if 4 * q < n then (c.W.dReg c.w i q).toNat else 0
  have hf (q : Nat) : f q < 2 ^ 32 := by
    unfold f
    split
    · exact BitVec.isLt _
    · norm_num
  have hterm (q : Nat) : (if 4 * q < n then (c.W.dReg c.w i q).toNat * 2 ^ (32 * q) else 0) = f q * 2 ^ (32 * q) := by
    unfold f
    split <;> simp
  have hat : f (j / 4) = (c.W.reg (c.w.d.toNat + j / 4) i).toNat := if_pos (by omega)
  simp only [hterm]
  rw [BitVec.extractLsb'_toNat, ← hat, Nat.shiftRight_eq_div_pow, BitVec.toNat_ofNat, ← byte_of_words hf (by omega)]


/-! ### The cells of a store -/

/-- The bytes from an address on, over some cells. -/
theorem mfind_foldl_zipIdx (a : Nat) (bs : List Byte) (m : List Host.Cell) (x : Nat) :
    mfind (bs.zipIdx.foldl (fun acc b => minsert acc (a + b.2) b.1) m) x =
      if a ≤ x ∧ x < a + bs.length then bs[x - a]? else mfind m x := by
  induction bs using List.reverseRecOn with
  | nil =>
    rw [if_neg (by simp)]
    rfl
  | append_singleton bs b ih =>
    rw [List.zipIdx_append, List.foldl_append]
    simp only [List.zipIdx_cons, List.zipIdx_nil, List.foldl_cons, List.foldl_nil, Nat.zero_add]
    by_cases hx : x = a + bs.length
    · subst hx
      rw [mfind_minsert_self, if_pos (by simp)]
      simp
    · rw [mfind_minsert_ne _ _ hx, ih]
      by_cases hin : a ≤ x ∧ x < a + bs.length
      · rw [if_pos hin, if_pos (by simp; omega), List.getElem?_append_left (by omega)]
      · rw [if_neg hin, if_neg (by simp; omega)]

theorem msorted_foldl_zipIdx (a : Nat) (l : List (Byte × Nat)) {m : List Host.Cell} (h : msorted m = true) :
    msorted (l.foldl (fun acc b => minsert acc (a + b.2) b.1) m) = true :=
  List.foldlRecOn (motive := fun m => msorted m = true) l _ h fun _ hm _ _ => msorted_minsert hm _ _

theorem msorted_spadCells (c : Ctx) : msorted c.spadCells = true :=
  List.foldlRecOn (motive := fun m => msorted m = true) c.lanes _ rfl fun _ hm _ _ => msorted_foldl_zipIdx _ _ hm

/-- The cells that lanes write, over some cells: the last lane's where several name one byte. -/
theorem mfind_foldl_lanes (addr : Nat → Nat) (data : Nat → List Byte) (lanes : List Nat) (x : Nat) :
    mfind (lanes.foldl (fun acc i => (data i).zipIdx.foldl (fun acc b => minsert acc (addr i + b.2) b.1) acc) []) x =
      (lanes.reverse.find? (fun i => decide (addr i ≤ x ∧ x < addr i + (data i).length))).bind (fun i => (data i)[x - addr i]?) := by
  induction lanes using List.reverseRecOn with
  | nil => rfl
  | append_singleton lanes i ih =>
    rw [List.foldl_append, List.foldl_cons, List.foldl_nil, mfind_foldl_zipIdx, ih, List.reverse_append, List.reverse_singleton,
      List.singleton_append, List.find?_cons]
    by_cases hx : addr i ≤ x ∧ x < addr i + (data i).length
    · rw [if_pos hx, decide_eq_true hx]
      rfl
    · rw [if_neg hx, decide_eq_false hx]

/-! ### The scratchpad of a block after writes of its warp -/

/-- A state that differs from another in blocks and kept bytes alone, and in the scratchpad of one block. -/
structure SpadOnly (s t : State) (b : Nat) (m : List Host.Cell) : Prop where
  rest  : t = { s with blocks := t.blocks, kept := t.kept }
  other : ∀ b', b' ≠ b → mfind t.blocks b' = mfind s.blocks b'
  block : ∃ B, mfind t.blocks b = some B ∧ B.spad = m

theorem SpadOnly.refl {s : State} {b : Nat} {B : Block} (h : mfind s.blocks b = some B) : SpadOnly s s b B.spad :=
  ⟨rfl, fun _ _ => rfl, B, h, rfl⟩

theorem SpadOnly.write {s t : State} {b : Nat} {m : List Host.Cell} (h : SpadOnly s t b m) (k a : Nat) (bs : List Byte) :
    SpadOnly s (t.spadWrite k b a bs) b (spadPut m a bs) := by
  obtain ⟨hrest, hother, B, hB, rfl⟩ := h
  refine ⟨?_, fun b' hb => ?_, ?_⟩
  · rw [spadWrite_rest, hrest]
  · rw [State.spadWrite, State.spadWriteFor, keepSpad_rest]
    exact (mfind_mupdate_ne _ _ hb).trans (hother b' hb)
  · rw [State.spadWrite, State.spadWriteFor, keepSpad_rest]
    exact ⟨_, (mfind_mupdate_self _ _ _).trans (congrArg _ hB), rfl⟩

theorem SpadOnly.warp {s t : State} {b : Nat} {m : List Host.Cell} (h : SpadOnly s t b m) (k : Nat) : t.warp k = s.warp k := by
  rw [h.rest]; rfl

theorem SpadOnly.spad {s t : State} {b : Nat} {m : List Host.Cell} (h : SpadOnly s t b m) : t.spad b = m := by
  obtain ⟨B, hB, rfl⟩ := h.block
  simp [State.spad, hB]

/-- The runs of some cells, written by a warp. -/
theorem SpadOnly.runs {s t : State} {k b : Nat} {m : List Host.Cell} (hk : (s.warp k).block = b) (h : SpadOnly s t b m)
    (l : List (Nat × List Byte)) : SpadOnly s (l.foldl (fun s r => s.spadWrite k (s.warp k).block r.1 r.2) t) b
      (l.foldl (fun m r => spadPut m r.1 r.2) m) := by
  induction l generalizing t m with
  | nil => exact h
  | cons r l ih =>
    rw [List.foldl_cons, List.foldl_cons, h.warp, hk]
    exact ih (h.write k r.1 r.2)

/-! ### What an operation on the scratchpad leaves -/

/-- The state in which a plain warp notes the sectors that it writes: its own. -/
theorem noteWrites_single {s : State} {k : Nat} {W : Warp} (h : mfind s.warps k = some W) (hW : W.twinOf = none) (secs : List Nat) :
    s.noteWrites k secs = s.modWarp k (fun _ => W) := by
  rw [State.noteWrites, modWarp_const h, hW]
  rfl

/-- A flight of a warp is on its way: it has the next number, and the warp is `V`. -/
structure Launched (t u : State) (k : Nat) (f : Flight) (V : Warp) : Prop where
  rest   : u = { t with warps := u.warps, flights := u.flights, nextId := t.nextId + 1 }
  flight : mfind u.flights t.nextId = some f
  older  : ∀ n, n ≠ t.nextId → mfind u.flights n = mfind t.flights n
  warp   : mfind u.warps k = some V
  others : ∀ j, j ≠ k → mfind u.warps j = mfind t.warps j

theorem launchFlight_launched {t : State} {f : Flight} {W : Warp} (h : mfind t.warps f.warp = some W) :
    Launched t (t.launchFlight f) f.warp f (W.count1 f.cls t.nextId) where
  rest := rfl
  flight := mfind_minsert_self _ _ _
  older _ hn := mfind_minsert_ne _ _ hn
  warp := find_modWarp (s := State.bump { t with flights := minsert t.flights t.nextId f }) h _
  others _ hj := find_modWarp_ne _ _ hj

theorem Launched.modWarp {t u : State} {k : Nat} {f : Flight} {V : Warp} (h : Launched t u k f V) (g : Warp → Warp) :
    Launched t (u.modWarp k g) k f (g V) where
  rest := by
    have hrest := h.rest
    show { u with warps := mupdate u.warps k g } = _
    rw [hrest]
    rfl
  flight := h.flight
  older := h.older
  warp := find_modWarp h.warp g
  others j hj := (find_modWarp_ne u g hj).trans (h.others j hj)

/-- Nothing a plain warp has buffered fills its buffer. -/
theorem bufFull_plain {u : State} {k : Nat} {V : Warp} (h : mfind u.warps k = some V) (htwin : V.twinOf = none) (hbuf : V.buf = []) :
    u.bufFull k = u := by
  have hroot : u.rootOf 4 k = k := by simp [State.rootOf, warp_of_find h, htwin]
  exact if_neg (by simp [State.bufSectors, State.bufOf, hroot, warp_of_find h, hbuf])

/-- What an operation that has changed a block's scratchpad leaves of everything else. -/
theorem Launched.butBlocks_eq {s t u : State} {k b : Nat} {f : Flight} {V W : Warp} {m : List Host.Cell} (h : Launched t u k f V)
    (ht : SpadOnly (s.modWarp k (fun _ => W)) t b m) :
    butBlocks u = butBlocks { s with warps := u.warps, flights := u.flights, nextId := s.nextId + 1 } := by
  rw [h.rest, ht.rest]
  rfl

/-! ### Where a plain warp's scratchpad instructions go through -/

theorem txLive_plain {c : Ctx} (h : c.W.tx = none) : c.lanes.filter c.W.txLive = [] := by
  rw [List.filter_eq_nil_iff]
  intro i _
  simp [Warp.txLive, h]

theorem spadFaults_nil {c : Ctx} {n : Nat} {a : Nat → Nat} (h : ∀ i ∈ c.lanes, a i % n = 0 ∧ a i + n ≤ c.s.spadSize c.W.block) :
    c.spadFaults n a = [] := by
  rw [Ctx.spadFaults, List.filterMap_eq_nil_iff]
  intro i hi
  obtain ⟨halign, hin⟩ := h i hi
  rw [Ctx.spadFault, if_neg (not_not.2 halign), if_neg (Nat.not_lt.2 hin)]

theorem room_plain {c : Ctx} {cls : Nat} (h : c.W.counter cls < classLimit cls) : c.room cls = (c.s, none) := by
  rw [Ctx.room, if_neg]
  simp
  omega

/-- A block that gives bytes to a lane exists. -/
theorem block_of_spadSize {s : State} {b n : Nat} (h : n < s.spadSize b) : ∃ B, mfind s.blocks b = some B := by
  cases hB : mfind s.blocks b with
  | none => simp [State.spadSize, hB] at h
  | some B => exact ⟨B, rfl⟩

theorem bytes_eq {c : Ctx} (h : c.mod ≤ 4) : [1, 2, 4, 8, 16].getD (c.mod % 8) 16 = c.bytes := by
  unfold Ctx.bytes Ctx.size
  generalize c.mod = n at h
  interval_cases n <;> rfl

theorem bytes_pos (c : Ctx) : 0 < c.bytes := by
  unfold Ctx.bytes sizeBytes
  split <;> decide

theorem bytes_le (c : Ctx) : c.bytes ≤ 16 := by
  unfold Ctx.bytes sizeBytes
  split <;> decide

theorem lets_sts {c : Ctx} (hp : c.Plain) (hroom : c.W.counter 1 < 255)
    (h : ∀ i ∈ c.lanes, c.spadAddr i % c.bytes = 0 ∧ c.spadAddr i + c.bytes ≤ c.s.spadSize c.W.block) : kitSts.Lets c c.s :=
  lets_checked rfl (.inl rfl) rfl (.inr (txLive_plain hp.noTx)) (spadFaults_nil h) rfl rfl rfl rfl (by
    show thenWait (c.room 1) (c.writeRoom _) = _
    rw [room_plain (cls := 1) hroom, Ctx.writeRoom, hp.noFork]
    rfl) rfl

theorem lets_amos {c : Ctx} (hp : c.Plain)
    (h : ∀ i ∈ c.lanes, (c.a i).toNat % c.amoBytes = 0 ∧ (c.a i).toNat + c.amoBytes ≤ c.s.spadSize c.W.block) : kitAmos.Lets c c.s :=
  lets_checked rfl (.inr (.inl hp.noFork)) rfl (.inr (txLive_plain hp.noTx)) (spadFaults_nil h) rfl rfl rfl rfl rfl rfl

/-! ### STS (R67, R234) -/

theorem storeSpad_plain {c : Ctx} (hc : c.Clear) (hp : c.Plain) (hk : (c.s.warp c.k).killed = false) (cells : List Host.Cell) :
    c.s.storeSpad c.k cells = (runsOf cells).foldl (fun s r => s.spadWrite c.k (s.warp c.k).block r.1 r.2)
      (c.s.modWarp c.k (fun _ => c.W)) := by
  have hW : c.s.warp c.k = c.W := warp_of_find hc.listed
  have hrace : ∀ l : List Nat, l.foldl (fun s a => s.raceSpad c.k true a) c.s = c.s := by
    intro l
    induction l with
    | nil => rfl
    | cons a l ih => rw [List.foldl_cons, raceSpad_unwatched hp.unseen, ih]
  have hdirect : (c.s.modWarp c.k (fun _ => c.W)).buffered ((c.s.modWarp c.k (fun _ => c.W)).warp c.k) = false := by
    rw [warp_modWarp hc.listed]
    exact hp.direct
  rw [State.storeSpad, hrace, ite_self, hk, if_neg Bool.false_ne_true, State.streamSpad, noteWrites_single hc.listed hp.single, hdirect]
  rfl

theorem sts_launched {c : Ctx} (hc : c.Clear) (hp : c.Plain) (hlanes : c.lanes ≠ []) (hk : (c.s.warp c.k).killed = false) {B : Block}
    (hB : mfind c.s.blocks c.W.block = some B) :
    ∃ t, SpadOnly (c.s.modWarp c.k (fun _ => c.W)) t c.W.block (putCells B.spad c.spadCells) ∧
      Launched t (kitSts.eff c) c.k { warp := c.k, cls := 1, accs := [] } (c.W.count1 1 c.s.nextId) := by
  have hnoted : (c.s.modWarp c.k (fun _ => c.W)).warp c.k = c.W := warp_modWarp hc.listed _
  have ht : SpadOnly (c.s.modWarp c.k (fun _ => c.W)) (c.s.storeSpad c.k c.spadCells) c.W.block (putCells B.spad c.spadCells) := by
    rw [storeSpad_plain hc hp hk, ← foldl_runsOf]
    exact (SpadOnly.refl (s := c.s.modWarp c.k (fun _ => c.W)) hB).runs (congrArg Warp.block hnoted) _
  refine ⟨_, ht, ?_⟩
  have hacts : c.acts = true := by simp [Ctx.acts, hlanes]
  have hlive : ((c.s.storeSpad c.k c.spadCells).warp c.k).killed = false := by
    rw [ht.warp, hnoted, ← warp_of_find hc.listed, hk]
  have heff : kitSts.eff c = ((c.s.storeSpad c.k c.spadCells).launchFlight { warp := c.k, cls := 1, accs := [] }).bufFull c.k := by
    simp [kitSts, hacts, hp.noFork, hlive, hp.direct]
  have hid : (c.s.storeSpad c.k c.spadCells).nextId = c.s.nextId := by rw [ht.rest]; rfl
  have hfind : mfind (c.s.storeSpad c.k c.spadCells).warps c.k = some c.W := by rw [ht.rest]; exact find_modWarp hc.listed _
  have hl := launchFlight_launched (f := { warp := c.k, cls := 1, accs := [] }) hfind
  rw [hid] at hl
  rw [heff, bufFull_plain hl.warp hp.single hp.noBuf]
  exact hl

theorem spadRead_one {s : State} {b : Nat} {B : Block} (h : mfind s.blocks b = some B) (x : Nat) :
    s.spadRead b x 1 = [spadByte B.spad x] := by
  rw [State.spadRead, spadBytes_one]
  simp [State.spad, h]

/-- A byte of the scratchpad after the lanes of an STS have written. -/
theorem spadByte_spadCells (c : Ctx) (m : List Host.Cell) (x : Nat) : [spadByte (putCells m c.spadCells) x] =
    match c.lanes.reverse.find? (fun i => decide (c.spadAddr i ≤ x ∧ x < c.spadAddr i + c.bytes)) with
    | some i => [(c.W.reg (c.w.d.toNat + (x - c.spadAddr i) / 4) i).extractLsb' (8 * ((x - c.spadAddr i) % 4)) 8]
    | none => [spadByte m x] := by
  rw [spadByte_putCells (msorted_spadCells c), Ctx.spadCells, mfind_foldl_lanes]
  simp only [length_dataBytes (bytes_le c)]
  cases hfind : c.lanes.reverse.find? (fun i => decide (c.spadAddr i ≤ x ∧ x < c.spadAddr i + c.bytes)) with
  | none => rfl
  | some i =>
    have hx := List.find?_some hfind
    rw [decide_eq_true_eq] at hx
    rw [Option.bind_some, dataBytes_getElem? (bytes_le c) (by omega)]
    rfl

/-- An STS goes on its way, and the bytes of its lanes are in the scratchpad. -/
theorem sts_sends {c : Ctx} (hc : c.Clear) (hp : c.Plain) (hlanes : c.lanes ≠ []) (hk : (c.s.warp c.k).killed = false) {B : Block}
    (hB : mfind c.s.blocks c.W.block = some B) : let t := c.retire false (kitSts.eff c)
    c.Sends t { warp := c.k, cls := 1, accs := [] } butBlocks ∧ (∀ b, b ≠ c.W.block → mfind t.blocks b = mfind c.s.blocks b) ∧
      ∀ x, t.spadRead c.W.block x 1 = [spadByte (putCells B.spad c.spadCells) x] := by
  obtain ⟨t, ht, hl⟩ := sts_launched hc hp hlanes hk hB
  have hl := hl.modWarp c.onward
  have hnext : t.nextId = c.s.nextId := by rw [ht.rest]; rfl
  have hflights : t.flights = c.s.flights := by rw [ht.rest]; rfl
  have hwarps : ∀ j, j ≠ c.k → mfind t.warps j = mfind c.s.warps j := fun j hj => by
    rw [ht.rest]; exact find_modWarp_ne _ _ hj
  have hblocks : (c.retire false (kitSts.eff c)).blocks = t.blocks := by rw [retire_false, hl.rest]
  obtain ⟨B', hB', hspad⟩ := ht.block
  refine ⟨⟨hl.butBlocks_eq ht, hnext ▸ hl.flight, fun n hn => ?_, hl.warp, fun j hj => (hl.others j hj).trans (hwarps j hj)⟩,
    fun b hb => by rw [hblocks]; exact ht.other b hb, fun x => ?_⟩
  · exact (hl.older n (hnext ▸ hn)).trans (by rw [hflights])
  · rw [spadRead_one (hblocks ▸ hB'), hspad]

/-! ### Lanes that act one after another -/

/-- What each lane brings, the lanes acting in order from a state of theirs on. -/
def along {M β : Type} (act : M → Nat → M) (out : M → Nat → β) : List Nat → M → List β
  | [], _ => []
  | i :: l, m => out m i :: along act out l (act m i)

/-- What a lane brings is what it finds after the lanes before it. -/
theorem along_eq_map {M β : Type} (act : M → Nat → M) (out : M → Nat → β) {l : List Nat} (h : l.Nodup) (m : M) :
    along act out l m = l.map (fun i => out ((l.takeWhile (fun j => decide (j ≠ i))).foldl act m) i) := by
  induction l generalizing m with
  | nil => rfl
  | cons i l ih =>
    obtain ⟨hi, hl⟩ := List.nodup_cons.1 h
    rw [along, ih hl, List.map_cons, List.takeWhile_cons_of_neg (by simp)]
    congr 1
    refine List.map_congr_left fun j hj => ?_
    have hne : i ≠ j := fun h => hi (h ▸ hj)
    rw [List.takeWhile_cons_of_pos (p := fun k => decide (k ≠ j)) (decide_eq_true hne), List.foldl_cons]

theorem lanes_nodup (c : Ctx) : c.lanes.Nodup := (List.nodup_range.filter _).filter _

/-! ### AMOS (R241 to R243) -/

/-- The word that a lane of an AMOS finds in a scratchpad. -/
def Ctx.amosFound (c : Ctx) (m : Nat → Byte) (i : Nat) : DWord :=
  BitVec.ofNat 64 (leNat ((List.range c.amoBytes).map (fun j => m ((c.a i).toNat + j))))

/-- The word that it leaves, and its flags. -/
def Ctx.amosNew (c : Ctx) (m : Nat → Byte) (i : Nat) : DWord × FlagSet :=
  amoNew c.amoKind c.amoWide (c.amosFound m i) (c.amoVal i) (c.amoCmp i)

/-- The scratchpad as it leaves it. -/
def Ctx.amosAct (c : Ctx) (m : Nat → Byte) (i : Nat) : Nat → Byte := fun x =>
  if (c.a i).toNat ≤ x ∧ x < (c.a i).toNat + c.amoBytes then (leBytes c.amoBytes (c.amosNew m i).1.toNat).getD (x - (c.a i).toNat) 0
  else m x

theorem spadBad_spadWrite {s : State} {b a n : Nat} (h : s.spadBad b a n = false) (k a' : Nat) (bs : List Byte) :
    (s.spadWrite k b a' bs).spadBad b a n = false := by
  rw [State.spadWrite, State.spadWriteFor, keepSpad_rest]
  unfold State.spadBad at h ⊢
  simp only [modBlock_blocks, mfind_mupdate_self]
  cases hB : mfind s.blocks b with
  | none => rfl
  | some B =>
    simp only [hB, List.any_eq_false] at h
    simp only [Option.map_some, List.any_eq_false]
    intro x hx
    split at hx
    · cases hx
    · exact h x (List.mem_of_mem_filter hx)

theorem SpadOnly.find {s t : State} {b : Nat} {m : List Host.Cell} (h : SpadOnly s t b m) (a n : Nat) :
    t.spadRead b a n = (List.range n).map (fun j => spadByte m (a + j)) := by
  rw [State.spadRead, h.spad, spadBytes_eq]

/-- One lane's turn of `State.amosGo`. -/
def Ctx.amosTurn (c : Ctx) (acc : State × List (Nat × DWord) × FlagSet × List Nat) (i : Nat) :
    State × List (Nat × DWord) × FlagSet × List Nat :=
  if acc.1.spadBad c.W.block (c.a i).toNat c.amoBytes then (acc.1, acc.2.1, acc.2.2.1, acc.2.2.2 ++ [i])
  else
    let old : DWord := BitVec.ofNat 64 (leNat (acc.1.spadRead c.W.block (c.a i).toNat c.amoBytes))
    let r := amoNew c.amoKind c.amoWide old (c.amoVal i) (c.amoCmp i)
    (acc.1.spadWrite c.k c.W.block (c.a i).toNat (leBytes c.amoBytes r.1.toNat), acc.2.1 ++ [(i, old)], acc.2.2.1.or r.2, acc.2.2.2)

theorem amosGo_eq (c : Ctx) (s : State) : s.amosGo c.k c.W.block c.amoKind c.amoWide c.amosLanes =
    c.lanes.foldl c.amosTurn (s, [], FlagSet.none, []) := by
  rw [State.amosGo, Ctx.amosLanes, List.foldl_map]
  rfl

/-- The lanes of an AMOS act in order. -/
theorem foldl_amosTurn {c : Ctx} {s : State} (l : List Nat) {t : State} {m : List Host.Cell} (ht : SpadOnly s t c.W.block m)
    (hbad : ∀ i ∈ l, t.spadBad c.W.block (c.a i).toNat c.amoBytes = false) (olds : List (Nat × DWord)) (fl : FlagSet) :
    ∃ t' m', SpadOnly s t' c.W.block m' ∧ spadByte m' = l.foldl c.amosAct (spadByte m) ∧
      l.foldl c.amosTurn (t, olds, fl, []) =
        (t', olds ++ along c.amosAct (fun m i => (i, c.amosFound m i)) l (spadByte m),
          (along c.amosAct (fun m i => (c.amosNew m i).2) l (spadByte m)).foldl FlagSet.or fl, ([] : List Nat)) := by
  induction l generalizing t m olds fl with
  | nil => exact ⟨t, m, ht, rfl, by simp [along]⟩
  | cons i l ih =>
    have hfound : BitVec.ofNat 64 (leNat (t.spadRead c.W.block (c.a i).toNat c.amoBytes)) = c.amosFound (spadByte m) i := by
      rw [ht.find]; rfl
    have hact : spadByte (spadPut m (c.a i).toNat (leBytes c.amoBytes (c.amosNew (spadByte m) i).1.toNat)) = c.amosAct (spadByte m) i := by
      funext x
      rw [spadByte_spadPut, length_leBytes]
      rfl
    obtain ⟨t', m', ht', hm', hfold⟩ := ih (ht.write c.k (c.a i).toNat (leBytes c.amoBytes (c.amosNew (spadByte m) i).1.toNat))
      (fun j hj => spadBad_spadWrite (hbad j (List.mem_cons_of_mem _ hj)) _ _ _) (olds ++ [(i, c.amosFound (spadByte m) i)])
      (fl.or (c.amosNew (spadByte m) i).2)
    rw [hact] at hm' hfold
    refine ⟨t', m', ht', hm', ?_⟩
    have hturn : c.amosTurn (t, olds, fl, []) i = (t.spadWrite c.k c.W.block (c.a i).toNat
        (leBytes c.amoBytes (c.amosNew (spadByte m) i).1.toNat), olds ++ [(i, c.amosFound (spadByte m) i)],
        fl.or (c.amosNew (spadByte m) i).2, []) := by
      rw [Ctx.amosTurn, if_neg (by simp [hbad i List.mem_cons_self]), hfound]
      rfl
    rw [List.foldl_cons, hturn, hfold]
    simp [along]

/-- The byte of a block's scratchpad. -/
def State.spadAt (s : State) (b : Nat) (x : Nat) : Byte := (s.spadRead b x 1).headD 0

/-- The scratchpad as a lane of an AMOS finds it. -/
def Ctx.amosBefore (c : Ctx) (i : Nat) : Nat → Byte :=
  (c.lanes.takeWhile (fun j => decide (j ≠ i))).foldl c.amosAct (c.s.spadAt c.W.block)

theorem spadAt_eq {s : State} {b : Nat} {B : Block} (h : mfind s.blocks b = some B) : s.spadAt b = spadByte B.spad := by
  funext x
  rw [State.spadAt, spadRead_one h]
  rfl

/-- The flight that brings what the lanes of an AMOS have found. -/
def Ctx.amosFlight (c : Ctx) : Flight :=
  { warp := c.k, cls := 7, accs := [], reads := true, regs := c.amoRegs
    vals := amoVals c.w.d.toNat c.amoWide (c.lanes.map (fun i => (i, c.amosFound (c.amosBefore i) i))) }

theorem amos_launched {c : Ctx} (hc : c.Clear) (hp : c.Plain) (hlanes : c.lanes ≠ []) {B : Block}
    (hB : mfind c.s.blocks c.W.block = some B) (hbad : ∀ i ∈ c.lanes, c.s.spadBad c.W.block (c.a i).toNat c.amoBytes = false) :
    ∃ t m, SpadOnly (c.s.modWarp c.k (fun _ => c.W)) t c.W.block m ∧ spadByte m = c.lanes.foldl c.amosAct (spadByte B.spad) ∧
      Launched t (kitAmos.eff c) c.k c.amosFlight
        (c.W.raise (laneFlags (c.lanes.map (fun i => (c.amosNew (c.amosBefore i) i).2)))) := by
  have hat := spadAt_eq hB
  have hacts : c.acts = true := by simp [Ctx.acts, hlanes]
  obtain ⟨t, m, ht, hm, hfold⟩ := foldl_amosTurn c.lanes (SpadOnly.refl (s := c.s.modWarp c.k (fun _ => c.W)) hB)
    (fun i hi => hbad i hi) [] FlagSet.none
  rw [along_eq_map _ _ (lanes_nodup c), along_eq_map _ _ (lanes_nodup c), ← hat] at hfold
  refine ⟨t, m, ht, hm, ?_⟩
  have heff : kitAmos.eff c = (t.launchFlight c.amosFlight).modWarp c.k
      (fun W => W.raise (laneFlags (c.lanes.map (fun i => (c.amosNew (c.amosBefore i) i).2)))) := by
    have hdirect : (c.s.modWarp c.k (fun _ => c.W)).buffered c.W = false := hp.direct
    simp only [kitAmos, hacts, noteWrites_single hc.listed hp.single, hdirect, amosGo_eq, hfold, Bool.not_true, Bool.false_eq_true,
      if_false, List.nil_append]
    rfl
  have hfind : mfind t.warps c.k = some c.W := by rw [ht.rest]; exact find_modWarp hc.listed _
  rw [heff]
  exact (launchFlight_launched (f := c.amosFlight) hfind).modWarp _

theorem mem_pairVals {r r' i : Nat} {v : Word} {l : List (Nat × DWord)} : (r', i, v) ∈ pairVals r l ↔
    ∃ x, (i, x) ∈ l ∧ ((r' = r ∧ v = loHalf x) ∨ (r' = r + 1 ∧ v = hiHalf x)) := by
  induction l with
  | nil => simp [pairVals]
  | cons e l ih =>
    obtain ⟨j, y⟩ := e
    have hcons : pairVals r ((j, y) :: l) = (r, j, loHalf y) :: (r + 1, j, hiHalf y) :: pairVals r l := rfl
    rw [hcons, List.mem_cons, List.mem_cons, ih]
    constructor
    · rintro (h | h | ⟨x, hx, h⟩)
      · cases h
        exact ⟨y, List.mem_cons_self, .inl ⟨rfl, rfl⟩⟩
      · cases h
        exact ⟨y, List.mem_cons_self, .inr ⟨rfl, rfl⟩⟩
      · exact ⟨x, List.mem_cons_of_mem _ hx, h⟩
    · rintro ⟨x, hx, h⟩
      rcases List.mem_cons.1 hx with hx | hx
      · cases hx
        rcases h with ⟨rfl, rfl⟩ | ⟨rfl, rfl⟩
        · exact .inl rfl
        · exact .inr (.inl rfl)
      · exact .inr (.inr ⟨x, hx, h⟩)

/-- The values of an atomic result: the low half in D, and of a 64-bit one the high half in the register after it. -/
theorem mem_amoVals {d r i : Nat} {wide : Bool} {v : Word} {lanes : List Nat} {f : Nat → DWord} :
    (r, i, v) ∈ amoVals d wide (lanes.map (fun i => (i, f i))) ↔
      i ∈ lanes ∧ ((r = d ∧ v = loHalf (f i)) ∨ (wide = true ∧ r = d + 1 ∧ v = hiHalf (f i))) := by
  cases wide with
  | true =>
    rw [amoVals, if_pos rfl, mem_pairVals]
    constructor
    · rintro ⟨x, hx, h⟩
      obtain ⟨j, hj, he⟩ := List.mem_map.1 hx
      cases he
      exact ⟨hj, h.imp_right fun h => ⟨rfl, h⟩⟩
    · rintro ⟨hi, h⟩
      exact ⟨f i, List.mem_map_of_mem hi, h.imp_right fun h => h.2⟩
  | false =>
    rw [amoVals, if_neg Bool.false_ne_true, List.map_map, List.mem_map]
    constructor
    · rintro ⟨j, hj, he⟩
      cases he
      exact ⟨hj, .inl ⟨rfl, rfl⟩⟩
    · rintro ⟨hi, ⟨rfl, rfl⟩ | h⟩
      · exact ⟨i, hi, rfl⟩
      · exact absurd h.1 Bool.false_ne_true

theorem amoVal_eq (c : Ctx) (i : Nat) : (if 10 ≤ c.mod % 16 ∧ c.mod % 16 ≤ 12 then (c.W.opF32 c.w.b i).setWidth 64
    else if c.w.mod.getLsbD 4 = true then c.b64 i else (c.b i).setWidth 64) = c.amoVal i := by
  unfold Ctx.amoVal Ctx.amoKind
  simp only [Bool.and_eq_true, decide_eq_true_eq]
  rfl

/-- Settles O29: the runs of an STS are the bytes of its lanes, the last lane's first; an AMOS is its lanes' turns in order. -/
theorem scratchpad : Obligations.Scratchpad := by
  unfold Obligations.Scratchpad
  refine ⟨?_, ?_⟩
  · refine runs_of (fun _ => rfl) fun c _ _ hc ⟨hp, hlanes, hroom, hmod, hk, hfits⟩ => ?_
    dsimp only at hfits ⊢
    simp only [bytes_eq hmod] at hfits ⊢
    obtain ⟨i, hi⟩ := List.exists_mem_of_ne_nil _ hlanes
    obtain ⟨B, hB⟩ := block_of_spadSize (Nat.lt_of_lt_of_le (Nat.lt_add_of_pos_right (bytes_pos c)) (hfits i hi).2)
    obtain ⟨hsends, hother, hbyte⟩ := sts_sends hc hp hlanes hk hB
    refine ⟨lets_sts hp hroom hfits, hsends, hother, fun x => ?_⟩
    refine (hbyte x).trans ?_
    rw [spadByte_spadCells, ← spadRead_one hB]
    rfl
  · refine runs_of (fun _ => rfl) fun c _ _ hc ⟨hp, hlanes, hfits, hbad⟩ => ?_
    obtain ⟨i, hi⟩ := List.exists_mem_of_ne_nil _ hlanes
    have hpos : 0 < c.amoBytes := by unfold Ctx.amoBytes; split <;> decide
    obtain ⟨B, hB⟩ := block_of_spadSize (Nat.lt_of_lt_of_le (Nat.lt_add_of_pos_right hpos) (hfits i hi).2)
    obtain ⟨t, m, ht, hm, hl⟩ := amos_launched hc hp hlanes hB hbad
    have hl := hl.modWarp c.onward
    have hblocks : (c.retire false (kitAmos.eff c)).blocks = t.blocks := by rw [retire_false, hl.rest]
    have hnext : t.nextId = c.s.nextId := by rw [ht.rest]; rfl
    have hflights : t.flights = c.s.flights := by rw [ht.rest]; rfl
    obtain ⟨B', hB', rfl⟩ := ht.block
    refine ⟨lets_amos hp hfits, ?_⟩
    dsimp only
    simp only [amoVal_eq]
    refine ⟨⟨_, fun r i v => mem_amoVals (f := fun i => c.amosFound (c.amosBefore i) i), hnext ▸ hl.flight⟩, hl.butBlocks_eq ht,
      fun n hn => (hl.older n (hnext ▸ hn)).trans (by rw [hflights]), fun j hj => (hl.others j hj).trans ?_, hl.warp,
      fun b hb => (congrArg (mfind · b) hblocks).trans (ht.other b hb), fun x => ?_⟩
    · rw [ht.rest]; exact find_modWarp_ne _ _ hj
    · refine (spadRead_one (hblocks ▸ hB') x).trans ?_
      rw [hm, ← spadAt_eq hB]
      rfl

end Sys2Proof.Machine

/-! Issues that stop in every slice of their gang: the address and write-protection faults of vector accesses, and the faults of the
matrix, tap and privileged instructions (R66, R161, R233, R261, R278, R318). -/

namespace Sys2Proof.Machine

/-! ### The course of an issue whose slices all fault -/

/-- In no slice at all, an instruction consumes no poison and waits for nothing. -/
def Kit.Idle (K : Kit) : Prop := ∀ c : Ctx, K.bad { c with m := 0 } = none ∧ K.wait { c with m := 0 } = (c.s, none)

/-- Every slice of the gang stops with the faults `rs`: those of the value checks, or, where these find none, those after translation. -/
structure Kit.Halts (K : Kit) (c : Ctx) (rs : List TrapRec) : Prop where
  word  : K.word c = []
  fork  : c.fork? = none
  hold  : K.hold c = none
  tx    : c.lanes.filter c.W.txLive = []
  some  : rs ≠ []
  all   : faultMask c rs = c.m
  again : latch rs = rs
  found : (latch (K.check c) = rs ∧ c.missing (K.first c) = []) ∨
    (K.check c = [] ∧ c.missing (K.first c ++ K.pages c) = [] ∧ latch (K.wprot c) = rs)
  idle  : K.Idle

/-- Neither an open FCALL nor a transaction keeps an issue from its instruction's own checks. -/
theorem issue_performs {c : Ctx} {K : Kit} (hc : c.Clear) (hword : K.word c = []) (hfork : c.fork? = none) (hhold : K.hold c = none)
    (htx : c.lanes.filter c.W.txLive = []) : c.issue K = c.perform K := by
  have hd : c.disallow K = c := by
    rw [Ctx.disallow, htx]
    exact ite_self c
  simp only [Ctx.issue, hc.noSkip, hc.slices, if_false, hc.landed, hc.early, hword, hfork, Option.isSome_none, Bool.and_false, Bool.false_and,
    hhold, hc.clean, hd, Bool.false_eq_true]

theorem finish_halts {c : Ctx} {K : Kit} {rs : List TrapRec} (hall : faultMask c rs = c.m) (hrs : rs ≠ []) : c.finish K rs = c.fault c.s rs := by
  simp only [Ctx.finish, hall, BitVec.and_not_self, if_true, hrs, if_false]

theorem perform_halts {c : Ctx} {K : Kit} {rs : List TrapRec} (hc : c.Clear) (hK : K.Halts c rs) : c.perform K = c.fault c.s rs := by
  obtain ⟨hbad, hwait⟩ := hK.idle c
  have hself : ({ c with W := c.s.warp c.k } : Ctx) = c := by rw [warp_of_find hc.listed]
  have hfin : c.finish K rs = c.fault c.s rs := finish_halts hK.all hK.some
  rcases hK.found with ⟨hcheck, hfirst⟩ | ⟨hcheck, hpages, hwprot⟩
  · simp only [Ctx.perform, hc.uniFaults, List.nil_append, hcheck, hK.all, BitVec.and_not_self, hfirst, if_true, List.append_nil, hK.again,
      hbad, hwait, hself, hfin, ite_self]
  · have hfull : c.m &&& ~~~(faultMask c []) = c.m := by rw [faultMask, BitVec.ofNat_eq_ofNat, BitVec.not_zero, BitVec.and_allOnes]
    have hnil : latch [] = [] := rfl
    simp only [Ctx.perform, hc.uniFaults, List.nil_append, hcheck, hnil, hfull, hc.slices, if_false, hpages, if_true, hwprot,
      hK.all, BitVec.and_not_self, hbad, hwait, hself, hfin, ite_self]

theorem faults_halts {bad : Ctx → Prop} {I : Fields → Instr} {o : Op} {len : Len} {rs : Ctx → List TrapRec}
    (hI : ∀ w, (I w).word = some (o, len, w)) (h : ∀ c : Ctx, c.op = o → c.Clear → bad c → (kitOf o).Halts c (rs c)) :
    Faults bad I o len rs := by
  intro s g w hs hc hbad
  have hK := h _ rfl hc hbad
  rw [exec_word (hI w), run_issued hs, issue_performs hc hK.word hK.fork hK.hold hK.tx, perform_halts hc hK]

/-! ### Faults of single lanes -/

/-- A fault that names its lane, in the lane's slice. -/
def LaneRec (r : Nat → TrapRec) : Prop := ∀ i, (r i).slice = i / 4 ∧ (r i).whole = false

/-- Where every lane that acts has a fault and every slice has such a lane, the lowest lane of each slice is latched. -/
theorem latch_lanes {c : Ctx} {r : Nat → TrapRec} (hm : c.m ≠ 0) (hr : LaneRec r) (hs : ∀ j ∈ maskSlices c.m, ∃ i ∈ c.lanes, i / 4 = j) :
    ∃ q, PerSlice c.m q ∧ latch (c.lanes.map r) = (maskSlices c.m).map q := by
  have hlow : ∀ j ∈ maskSlices c.m, ∃ i, c.lanes.find? (fun i => i / 4 == j) = some i := fun j hj => by
    obtain ⟨i, hi, hij⟩ := hs j hj
    exact Option.isSome_iff_exists.1 (List.find?_isSome.2 ⟨i, hi, beq_iff_eq.2 hij⟩)
  refine ⟨fun j => r ((c.lanes.find? (fun i => i / 4 == j)).getD 0), ⟨hm, fun j hj => ?_, fun j _ => (hr _).2⟩,
    latch_slices hm (fun x hx => ?_) fun j hj => ?_⟩
  · obtain ⟨i, hi⟩ := hlow j hj
    rw [hi, Option.getD_some, (hr i).1]
    exact beq_iff_eq.1 (List.find?_some (p := fun i => i / 4 == j) hi)
  · obtain ⟨i, hi, rfl⟩ := List.mem_map.1 hx
    exact ⟨(hr i).2, by rw [(hr i).1]; exact (mem_lanesIn.1 (List.mem_filter.1 hi).1).2⟩
  · obtain ⟨i, hi⟩ := hlow j hj
    have hfun : ((fun x : TrapRec => x.slice == j) ∘ r) = fun i => i / 4 == j := funext fun i => by simp [(hr i).1]
    rw [List.find?_map, hfun, hi]
    rfl

/-- A vector access of global memory or of the scratchpad: each lane is checked by itself. -/
structure Kit.Vector (K : Kit) (check : Ctx → Nat → Option TrapRec) : Prop where
  word  : ∀ c, K.word c = []
  hold  : ∀ c, K.hold c = none
  check : ∀ c : Ctx, K.check c = c.lanes.filterMap (check c)
  idle  : K.Idle

/-- What an instruction's lanes have in common where all of them fault. -/
def Ctx.AllFault (c : Ctx) (p : Nat → Prop) : Prop :=
  c.fork? = none ∧ c.lanes.filter c.W.txLive = [] ∧ (∀ j ∈ maskSlices c.m, ∃ i ∈ c.lanes, i / 4 = j) ∧ ∀ i ∈ c.lanes, p i

theorem faults_lanes {p : Ctx → Nat → Prop} {I : Fields → Instr} {o : Op} {len : Len} {check : Ctx → Nat → Option TrapRec}
    {r : Ctx → Nat → TrapRec} (hI : ∀ w, (I w).word = some (o, len, w)) (hK : (kitOf o).Vector check) (hr : ∀ c, LaneRec (r c))
    (hfound : ∀ c : Ctx, c.lanes.filter c.W.txLive = [] → (∀ i ∈ c.lanes, p c i) →
      ((∀ i ∈ c.lanes, check c i = some (r c i)) ∧ c.missing ((kitOf o).first c) = []) ∨
      ((∀ i ∈ c.lanes, check c i = none) ∧ c.missing ((kitOf o).first c ++ (kitOf o).pages c) = [] ∧ (kitOf o).wprot c = c.lanes.map (r c))) :
    Faults (fun c => c.AllFault (p c)) I o len (fun c => latch (c.lanes.map (r c))) :=
  faults_halts hI fun c _ hc hbad => by
    obtain ⟨hfork, htx, hslices, hp⟩ := hbad
    obtain ⟨f, hf, hlatch⟩ := latch_lanes hc.slices (hr c) hslices
    refine ⟨hK.word c, hfork, hK.hold c, htx, ?_, by rw [hlatch, hf.stops], by rw [hlatch, hf.latches], ?_, hK.idle⟩
    · rw [hlatch]
      exact fun hnil => maskSlices_ne_nil hf.gang (List.map_eq_nil_iff.1 hnil)
    · rw [hK.check]
      rcases hfound c htx hp with ⟨hsome, hfirst⟩ | ⟨hnone, hpages, hwprot⟩
      · exact .inl ⟨by rw [List.filterMap_eq_map_iff_forall_eq_some.2 hsome], hfirst⟩
      · exact .inr ⟨List.filterMap_eq_nil_iff.2 hnone, hpages, by rw [hwprot]⟩

/-! ### Global addresses -/

theorem missing_cached {c : Ctx} {vas : List Nat} (h : ∀ a ∈ vas, ∃ t, c.trans a = some t) : c.missing vas = [] := by
  by_cases hfw : c.W.mode = .firmware
  · rw [Ctx.missing, if_pos hfw]
  · have hnone : vas.filter (fun a => a < 2 ^ 48 && (c.s.cached c.W.core c.W.queue a).isNone) = [] :=
      List.filter_eq_nil_iff.2 fun a ha => by
        obtain ⟨t, ht⟩ := h a ha
        rw [Ctx.trans, if_neg hfw] at ht
        simp [ht]
    rw [Ctx.missing, if_neg hfw, hnone]
    rfl

theorem mem_viewAddrs {c : Ctx} {strict : Bool} {n align a : Nat} {va : Nat → DWord} (h : a ∈ c.viewAddrs strict n align va) :
    ∃ i ∈ c.lanes, a = (va i).toNat ∧ (strict = true ∨ c.W.txLive i = true) ∧ (va i).toNat % align = 0 ∧ (va i).toNat < 2 ^ 48 := by
  rw [Ctx.viewAddrs] at h
  split at h
  · cases h
  · obtain ⟨i, hi, rfl⟩ := List.mem_map.1 h
    simp only [List.mem_filter, Bool.and_eq_true, Bool.or_eq_true, decide_eq_true_eq] at hi
    obtain ⟨hl, ⟨⟨hstrict, halign⟩, hcanon⟩, -⟩ := hi
    exact ⟨i, hl, rfl, hstrict, halign, hcanon⟩

theorem txLive_of_none {c : Ctx} (h : c.lanes.filter c.W.txLive = []) {i : Nat} (hi : i ∈ c.lanes) : c.W.txLive i = false := by
  simpa using List.filter_eq_nil_iff.1 h i hi

section
variable {c : Ctx} {strict : Bool} {n i : Nat} {a : DWord}

theorem globalFault_unsound (h : a.toNat % n ≠ 0 ∨ ¬ a.toNat < 2 ^ 48) :
    c.globalFault strict n n i a = some (c.addrFault i a (if a.toNat % n ≠ 0 then 1 else 5) n) := by
  by_cases h1 : a.toNat % n ≠ 0
  · rw [Ctx.globalFault, if_pos h1, if_pos h1]
  · rw [Ctx.globalFault, if_neg h1, if_neg h1, if_pos (Nat.not_lt.1 (h.resolve_left h1))]

variable (halign : a.toNat % n = 0) (hcanon : a.toNat < 2 ^ 48)
include halign hcanon

theorem globalFault_sound (h : (strict || c.W.txLive i) = true → ∀ t, c.trans a.toNat = some t → c.s.decodedView (t.phys a.toNat) = none) :
    c.globalFault strict n n i a = none := by
  rw [Ctx.globalFault, if_neg (not_not.2 halign), if_neg (Nat.not_le.2 hcanon)]
  split
  · next hstrict =>
    cases ht : c.trans a.toNat with
    | none => rfl
    | some t => simp [h hstrict t ht]
  · rfl

theorem globalFault_view {t : Trans} (ht : c.trans a.toNat = some t) (hview : c.s.decodedView (t.phys a.toNat) ≠ none) :
    c.globalFault true n n i a = some (c.addrFault i a 6 n) := by
  rw [Ctx.globalFault, if_neg (not_not.2 halign), if_neg (Nat.not_le.2 hcanon), Bool.true_or, if_pos rfl, ht]
  simp only [Option.isSome_iff_ne_none.2 hview, if_true]

end

theorem wprotFaults_all {c : Ctx} {n : Nat} {va : Nat → DWord} (h : ∀ i ∈ c.lanes, ∃ t, c.trans (va i).toNat = some t ∧ t.rdo = true) :
    c.wprotFaults n va = c.lanes.map (fun i => { c.flt i 0x11 with taddr := va i, info1 := BitVec.ofNat 32 n }) :=
  List.filterMap_eq_map_iff_forall_eq_some.2 fun i hi => by
    obtain ⟨t, ht, hrdo⟩ := h i hi
    simp only [ht, hrdo, if_true]

/-! ### The kits of vector accesses -/

section
variable {d : Ctx} (h : d.m = 0)
include h

theorem lanes_nowhere : d.lanes = [] := by simp [Ctx.lanes, Warp.actLanes, lanesIn, h]

theorem room_nowhere (cls : Nat) : d.room cls = (d.s, none) := by simp [Ctx.room, Ctx.acts, lanes_nowhere h]

theorem readRoom_nowhere (secs : List Nat) : d.readRoom secs = none := by simp [Ctx.readRoom, Fork.meets, h]

theorem writeRoom_nowhere (secs : List Nat) : d.writeRoom secs = none := by
  have hfork : d.fork? = none := by simp [Ctx.fork?, h]
  rw [Ctx.writeRoom, hfork]

theorem heldLoad_nowhere (va : Nat → DWord) : d.heldLoad va = none := by
  rw [Ctx.heldLoad, lanes_nowhere h]
  exact ite_self none

theorem earlyPoison_nowhere (atHome : Bool) (n : Nat) (va : Nat → DWord) : d.earlyPoison atHome n va = none := by
  rw [Ctx.earlyPoison, lanes_nowhere h]
  exact ite_self none

theorem spadPoison_nowhere (n : Nat) (a : Nat → Nat) : d.spadPoison n a = none := by
  rw [Ctx.spadPoison, lanes_nowhere h]
  rfl

end

theorem kitLd_vector : kitLd.Vector (fun c i => c.globalFault false c.bytes c.bytes i (c.globalB i)) :=
  ⟨fun _ => rfl, fun _ => rfl, fun _ => rfl, fun c => ⟨earlyPoison_nowhere rfl _ _ _, by
    show thenWait (thenWait _ _) _ = _
    rw [room_nowhere rfl, readRoom_nowhere rfl, heldLoad_nowhere rfl]
    rfl⟩⟩

theorem kitSt_vector : kitSt.Vector (fun c i => c.globalFault false c.bytes c.bytes i (c.globalB i)) :=
  ⟨fun _ => rfl, fun _ => rfl, fun _ => rfl, fun c => ⟨rfl, by
    show thenWait _ _ = _
    rw [room_nowhere rfl, writeRoom_nowhere rfl]
    rfl⟩⟩

theorem kitAmo_vector : kitAmo.Vector (fun c i => c.globalFault true c.amoBytes c.amoBytes i (c.a64 i)) :=
  ⟨fun _ => rfl, fun _ => rfl, fun _ => rfl, fun _ => ⟨earlyPoison_nowhere rfl _ _ _, rfl⟩⟩

theorem kitRed_vector : kitRed.Vector (fun c i => c.globalFault true c.amoBytes c.amoBytes i (c.a64 i)) :=
  ⟨fun _ => rfl, fun _ => rfl, fun _ => rfl, fun _ => ⟨rfl, room_nowhere rfl 1⟩⟩

theorem kitLds_vector : kitLds.Vector (fun c i => c.spadFault i (c.spadAddr i) c.bytes c.bytes) :=
  ⟨fun _ => rfl, fun _ => rfl, fun _ => rfl, fun c => ⟨spadPoison_nowhere rfl _ _, by
    show thenWait _ _ = _
    rw [room_nowhere rfl, readRoom_nowhere rfl]
    rfl⟩⟩

theorem kitSts_vector : kitSts.Vector (fun c i => c.spadFault i (c.spadAddr i) c.bytes c.bytes) :=
  ⟨fun _ => rfl, fun _ => rfl, fun _ => rfl, fun c => ⟨rfl, by
    show thenWait _ _ = _
    rw [room_nowhere rfl, writeRoom_nowhere rfl]
    rfl⟩⟩

/-! ### Address and write-protection faults (R66, R233, R323) -/

theorem laneRec_addr (c : Ctx) (va : Nat → DWord) (kind : Nat → Nat) (n : Nat) : LaneRec (fun i => c.addrFault i (va i) (kind i) n) :=
  fun _ => ⟨rfl, rfl⟩

section
variable {I : Fields → Instr} {o : Op} {len : Len} {strict : Bool} {n : Ctx → Nat} {va : Ctx → Nat → DWord}
  (hI : ∀ w, (I w).word = some (o, len, w)) (hK : (kitOf o).Vector (fun c i => c.globalFault strict (n c) (n c) i (va c i)))
  (hfirst : ∀ c, (kitOf o).first c = c.viewAddrs strict (n c) (n c) (va c))
include hI hK hfirst

/-- A misaligned address, or one that is not canonical. -/
theorem faults_unsound : Faults (fun c => c.AllFault (fun i => (va c i).toNat % n c ≠ 0 ∨ ¬ (va c i).toNat < 2 ^ 48)) I o len
    (fun c => latch (c.lanes.map (fun i => c.addrFault i (va c i) (if (va c i).toNat % n c ≠ 0 then 1 else 5) (n c)))) :=
  faults_lanes hI hK (fun c => laneRec_addr c (va c) _ (n c)) fun c _ hp => by
    refine .inl ⟨fun i hi => globalFault_unsound (hp i hi), ?_⟩
    rw [hfirst]
    refine missing_cached fun a ha => ?_
    obtain ⟨i, hi, -, -, halign, hcanon⟩ := mem_viewAddrs ha
    exact absurd (hp i hi) fun h => h.elim (fun h => h halign) fun h => h hcanon

/-- An atomic's address in the view of a decoded window. -/
theorem faults_view (hstrict : strict = true) : Faults (fun c => c.AllFault (fun i => (va c i).toNat % n c = 0 ∧ (va c i).toNat < 2 ^ 48 ∧
      ∃ t, c.trans (va c i).toNat = some t ∧ c.s.decodedView (t.phys (va c i).toNat) ≠ none)) I o len
    (fun c => latch (c.lanes.map (fun i => c.addrFault i (va c i) 6 (n c)))) :=
  faults_lanes hI hK (fun c => laneRec_addr c (va c) _ (n c)) fun c _ hp => by
    refine .inl ⟨fun i hi => ?_, ?_⟩
    · obtain ⟨halign, hcanon, t, ht, hview⟩ := hp i hi
      rw [hstrict]
      exact globalFault_view halign hcanon ht hview
    · rw [hfirst]
      refine missing_cached fun a ha => ?_
      obtain ⟨i, hi, rfl, -⟩ := mem_viewAddrs ha
      obtain ⟨-, -, t, ht, -⟩ := hp i hi
      exact ⟨t, ht⟩

/-- A store to a page that may not be written. -/
theorem faults_barred (hpages : ∀ c, (kitOf o).pages c = c.pageAddrs (va c)) (hwprot : ∀ c, (kitOf o).wprot c = c.wprotFaults (n c) (va c)) :
    Faults (fun c => c.AllFault (fun i => ((va c i).toNat % n c = 0 ∧ (va c i).toNat < 2 ^ 48 ∧
      ∃ t, c.trans (va c i).toNat = some t ∧ t.rdo = true) ∧
      (strict = true → ∀ t, c.trans (va c i).toNat = some t → c.s.decodedView (t.phys (va c i).toNat) = none))) I o len
    (fun c => latch (c.lanes.map (fun i => { c.flt i 0x11 with taddr := va c i, info1 := BitVec.ofNat 32 (n c) }))) :=
  faults_lanes hI hK (fun _ _ => ⟨rfl, rfl⟩) fun c htx hp => by
    refine .inr ⟨fun i hi => ?_, ?_, ?_⟩
    · obtain ⟨⟨halign, hcanon, -⟩, hview⟩ := hp i hi
      exact globalFault_sound halign hcanon fun hs => hview (by simpa [txLive_of_none htx hi] using hs)
    · rw [hfirst, hpages]
      refine missing_cached fun a ha => ?_
      obtain ⟨i, hi, rfl⟩ : ∃ i ∈ c.lanes, (va c i).toNat = a := by
        rcases List.mem_append.1 ha with hv | hp
        · obtain ⟨i, hi, rfl, -⟩ := mem_viewAddrs hv
          exact ⟨i, hi, rfl⟩
        · exact List.mem_map.1 hp
      obtain ⟨⟨-, -, t, ht, -⟩, -⟩ := hp i hi
      exact ⟨t, ht⟩
    · rw [hwprot]
      exact wprotFaults_all fun i hi => (hp i hi).1.2.2

end

theorem Faults.of_imp {bad bad' : Ctx → Prop} {I : Fields → Instr} {o : Op} {len : Len} {rs : Ctx → List TrapRec} (h : Faults bad' I o len rs)
    (himp : ∀ c, bad c → bad' c) : Faults bad I o len rs :=
  fun s g w hs hc hbad => h s g w hs hc (himp _ hbad)

/-- A misaligned scratchpad address, or one with a byte beyond the block's allocation. -/
theorem faults_spad {I : Fields → Instr} {o : Op} {len : Len} (hI : ∀ w, (I w).word = some (o, len, w))
    (hK : (kitOf o).Vector (fun c i => c.spadFault i (c.spadAddr i) c.bytes c.bytes)) (hfirst : ∀ c, (kitOf o).first c = []) :
    Faults (fun c => c.AllFault (fun i => c.spadAddr i % c.bytes ≠ 0 ∨ c.s.spadSize c.W.block < c.spadAddr i + c.bytes)) I o len
      (fun c => latch (c.lanes.map (fun i => c.addrFault i (BitVec.ofNat 64 (c.spadAddr i)) (if c.spadAddr i % c.bytes ≠ 0 then 1 else 2) c.bytes))) :=
  faults_lanes hI hK (fun c => laneRec_addr c _ _ c.bytes) fun c _ hp => by
    refine .inl ⟨fun i hi => ?_, by rw [hfirst]; exact missing_nil c⟩
    by_cases h1 : c.spadAddr i % c.bytes ≠ 0
    · rw [Ctx.spadFault, if_pos h1, if_pos h1]
      rfl
    · rw [Ctx.spadFault, if_neg h1, if_neg h1, if_pos ((hp i hi).resolve_left h1)]
      rfl

theorem size_eq (c : Ctx) : [1, 2, 4, 8, 16, 1, 2, 16].getD (c.mod % 8) 16 = c.bytes := by
  rw [Ctx.bytes, Ctx.size]
  have h : c.mod % 8 < 8 := Nat.mod_lt _ (by decide)
  interval_cases c.mod % 8 <;> rfl

theorem setWidth_spadAddr (c : Ctx) (i : Nat) : (c.a i + c.b i).setWidth 64 = BitVec.ofNat 64 (c.spadAddr i) := by
  rw [Ctx.spadAddr]
  bv_omega

theorem toNat_spadAddr (c : Ctx) (i : Nat) : (BitVec.ofNat 64 (c.spadAddr i)).toNat = c.spadAddr i := by
  have h : c.spadAddr i < 2 ^ 32 := (c.a i + c.b i).isLt
  rw [BitVec.toNat_ofNat]
  omega

/-! ### Faults of the instruction as a whole -/

/-- The checks of a warp-level instruction find a fault of their own first. -/
theorem faults_whole {bad : Ctx → Prop} {I : Fields → Instr} {o : Op} {len : Len} {r : Ctx → TrapRec} (hI : ∀ w, (I w).word = some (o, len, w))
    (hhold : ∀ c, (kitOf o).hold c = none) (hidle : (kitOf o).Idle) (hr : ∀ c, (r c).whole = true)
    (h : ∀ c, bad c → (c.fork? = none ∧ c.lanes ≠ [] ∧ c.lanes.filter c.W.txLive = []) ∧ (kitOf o).word c = [] ∧
      (∃ l, (kitOf o).check c = r c :: l) ∧ c.missing ((kitOf o).first c) = []) :
    Faults bad I o len (fun c => [r c]) :=
  faults_halts hI fun c _ _ hbad => by
    obtain ⟨⟨hfork, -, htx⟩, hword, ⟨l, hcheck⟩, hfirst⟩ := h c hbad
    have hone (l : List TrapRec) : latch (r c :: l) = [r c] := by rw [latch, hr, if_pos rfl]
    exact ⟨hword, hfork, hhold c, htx, List.cons_ne_nil _ _, by rw [faultMask, hr, if_pos rfl], hone [], .inl ⟨by rw [hcheck, hone], hfirst⟩, hidle⟩

theorem acts_of_lanes {c : Ctx} (h : c.lanes ≠ []) : c.acts = true := by simpa [Ctx.acts] using h

/-! ### The matrix unit (R161, R326) -/

/-- A matrix instruction whose own checks come after the ownership rule. -/
structure Kit.Matrix (K : Kit) (check : Ctx → List TrapRec) : Prop where
  word  : ∀ c, K.word c = []
  hold  : ∀ c, K.hold c = none
  check : ∀ c : Ctx, K.check c = if !c.acts then [] else c.mxOwn ++ check c
  first : ∀ c : Ctx, K.first c = if c.acts && c.mxOwn == [] then c.mxRecords else []
  idle  : K.Idle

theorem mxKit_matrix (check : Ctx → List TrapRec) (eff : Ctx → State) : (mxKit check eff).Matrix check :=
  ⟨fun _ => rfl, fun _ => rfl, fun _ => rfl, fun _ => rfl, fun _ => ⟨rfl, rfl⟩⟩

theorem matrix_mrd : (kitOf .mrd).Matrix (fun c => firstOf [
      (!tileOk c.tileWidth (mrdTile c.al) && c.mxv.record.isSome, c.mxOpnd 1 (BitVec.ofNat 32 (mrdTile c.al))),
      (c.al &&& 0xFFFFF880 ≠ 0, c.mxOpnd 4 c.al)] ++ c.mxError) :=
  ⟨fun _ => rfl, fun _ => rfl, fun _ => rfl, fun _ => rfl, fun c => ⟨rfl, by
    show (if _ then _ else _) = _
    rw [acts_nowhere]
    rfl⟩⟩

theorem matrix_mwait : (kitOf .mwait).Matrix (fun c => firstOf [(c.batchOf.isNone, c.mxOpnd 6 (c.al &&& 0xFFFF))] ++ c.mxError) :=
  ⟨fun _ => rfl, fun _ => rfl, fun _ => rfl, fun _ => rfl, fun c => ⟨rfl, by
    simp only [kitOf, kitMwait, acts_nowhere, Bool.false_eq_true, if_false]⟩⟩

theorem matrix_mzero : (kitOf .mzero).Matrix (fun c => firstOf [
      (!tileOk c.tileWidth (c.al.toNat % 8) && c.mxv.record.isSome, c.mxOpnd 1 (BitVec.ofNat 32 (c.al.toNat % 8))),
      (c.al >>> 3 ≠ 0, c.mxOpnd 4 c.al)]) :=
  mxKit_matrix _ _

theorem matrix_mfence : (kitOf .mfence).Matrix (fun _ => []) :=
  ⟨fun _ => rfl, fun _ => rfl, fun _ => rfl, fun _ => rfl, fun _ => ⟨rfl, room_nowhere rfl 3⟩⟩

/-- An instruction acts somewhere, in no continuation and no transaction. -/
def Ctx.Here (c : Ctx) : Prop := c.fork? = none ∧ c.lanes ≠ [] ∧ c.lanes.filter c.W.txLive = []

section
variable {I : Fields → Instr} {o : Op} {len : Len} {check : Ctx → List TrapRec} (hI : ∀ w, (I w).word = some (o, len, w))
  (hK : (kitOf o).Matrix check)
include hI hK

/-- In a block that does not own the unit. -/
theorem faults_ownership : Faults (fun c => c.Here ∧ c.mx.owner ≠ some c.W.block) I o len
    (fun c => [{ c.recLead 0x20 with info0 := c.s.bidOf c.mx.owner }]) :=
  faults_whole hI hK.hold hK.idle (fun _ => rfl) fun c ⟨hhere, howner⟩ => by
    have hacts := acts_of_lanes hhere.2.1
    have hown : c.mxOwn = [{ c.recLead 0x20 with info0 := c.s.bidOf c.mx.owner }] := by
      rw [Ctx.mxOwn, hacts, if_neg (by simpa using howner)]
    refine ⟨hhere, hK.word c, ⟨check c, ?_⟩, ?_⟩
    · rw [hK.check, hacts, hown]
      rfl
    · rw [hK.first, hacts, hown]
      exact missing_nil c

/-- In the owning block, whose records that the operations ahead will read are translated. -/
theorem faults_owned {bad : Ctx → Prop} {r : Ctx → TrapRec} (hr : ∀ c, (r c).whole = true)
    (h : ∀ c, bad c → c.Here ∧ c.mx.owner = some c.W.block ∧ c.missing c.mxRecords = [] ∧ ∃ l, check c = r c :: l) :
    Faults bad I o len (fun c => [r c]) :=
  faults_whole hI hK.hold hK.idle hr fun c hbad => by
    obtain ⟨hhere, howner, hrecords, l, hcheck⟩ := h c hbad
    have hacts := acts_of_lanes hhere.2.1
    have hown : c.mxOwn = [] := by rw [Ctx.mxOwn, if_pos (by simp [howner])]
    refine ⟨hhere, hK.word c, ⟨l, ?_⟩, ?_⟩
    · rw [hK.check, hacts, hown, hcheck]
      rfl
    · rw [hK.first, hacts, hown]
      exact hrecords

end

theorem firstOf_cons_false {r : TrapRec} {l : List (Bool × TrapRec)} : firstOf ((false, r) :: l) = firstOf l := rfl

theorem firstOf_cons_true {r : TrapRec} {l : List (Bool × TrapRec)} : firstOf ((true, r) :: l) = [r] := rfl

theorem tileUnfit {c : Ctx} {t : Nat} (h : c.mxv.record = none ∨ tileOk c.tileWidth t = true) :
    (!tileOk c.tileWidth t && c.mxv.record.isSome) = false := by
  rcases h with h | h <;> simp [h]

theorem faults_mzero : Faults (fun c => c.Here ∧ c.mx.owner = some c.W.block ∧ c.missing c.mxRecords = [] ∧
      (c.mxv.record = none ∨ tileOk c.tileWidth ((c.a c.lead).toNat % 8) = true) ∧ c.a c.lead >>> 3 ≠ 0) .mzero .mzero .l64
    (fun c => [{ c.recLead 0x21 with info0 := 4, info1 := c.a c.lead }]) :=
  faults_owned (fun _ => rfl) matrix_mzero (fun _ => rfl) fun c ⟨hhere, howner, hrecords, htile, hbits⟩ =>
    ⟨hhere, howner, hrecords, [], by
      have hbits' : decide (c.al >>> 3 ≠ 0) = true := decide_eq_true hbits
      rw [Ctx.al, tileUnfit htile, ← Ctx.al, hbits', firstOf_cons_false, firstOf_cons_true]
      rfl⟩

theorem batchOf_none {c : Ctx} (h : ∀ b ∈ c.W.batches, c.W.batchNo ≥ b.1 + 16 ∨ b.1 % 2 ^ 16 ≠ (c.a c.lead).toNat % 2 ^ 16) : c.batchOf = none := by
  refine List.find?_eq_none.2 fun b hb hfound => ?_
  simp only [Bool.and_eq_true, decide_eq_true_eq, beq_iff_eq] at hfound
  obtain ⟨⟨-, hnear⟩, hno⟩ := hfound
  rcases h b hb with hfar | hother
  · omega
  · exact hother hno

theorem faults_mwait_number : Faults (fun c => c.Here ∧ c.mx.owner = some c.W.block ∧ c.missing c.mxRecords = [] ∧
      ∀ b ∈ c.W.batches, c.W.batchNo ≥ b.1 + 16 ∨ b.1 % 2 ^ 16 ≠ (c.a c.lead).toNat % 2 ^ 16) .mwait .mwait .l64
    (fun c => [{ c.recLead 0x21 with info0 := 6, info1 := c.a c.lead &&& 0xFFFF }]) :=
  faults_owned (fun _ => rfl) matrix_mwait (fun _ => rfl) fun c ⟨hhere, howner, hrecords, hbatches⟩ =>
    ⟨hhere, howner, hrecords, c.mxError, by
      rw [batchOf_none hbatches, Option.isNone_none, firstOf_cons_true]
      rfl⟩

/-- The owning block's view of the unit's error state at D0. -/
theorem mxError_owner {c : Ctx} (howner : c.mx.owner = some c.W.block) (hshadow : c.s.shadow c.W.block = false)
    (hdirect : c.s.buffered c.W = false) {reason : Nat} {addr : DWord} (herr : c.mx.err = some (reason, addr)) :
    c.mxError = [{ c.recLead 0x21 with taddr := addr, info0 := BitVec.ofNat 32 reason }] := by
  have hcore : c.s.mxCore c.W = c.W.core := by simp [State.mxCore, hshadow]
  have hblock : c.s.mxBlock c.W.block = c.W.block := by simp [State.mxBlock, hshadow]
  rw [Ctx.mx] at howner herr
  simp only [Ctx.mxError, hcore, hblock, hdirect, Bool.false_eq_true, if_false, herr, howner, if_true]

/-- The owning block's warp acts at D0 while the unit is in error. -/
def Ctx.InError (c : Ctx) (reason : Nat) (addr : DWord) : Prop :=
  c.Here ∧ c.mx.owner = some c.W.block ∧ c.s.shadow c.W.block = false ∧ c.s.buffered c.W = false ∧ c.missing c.mxRecords = [] ∧
    c.mx.err = some (reason, addr)

theorem faults_error {I : Fields → Instr} {o : Op} {len : Len} {check : Ctx → List TrapRec} {p : Ctx → Prop} (hI : ∀ w, (I w).word = some (o, len, w))
    (hK : (kitOf o).Matrix (fun c => check c ++ c.mxError)) (hp : ∀ c, p c → check c = []) (reason : Nat) (addr : DWord) :
    Faults (fun c => c.InError reason addr ∧ p c) I o len
      (fun c => [{ c.recLead 0x21 with taddr := addr, info0 := BitVec.ofNat 32 reason }]) :=
  faults_owned hI hK (fun _ => rfl) fun c ⟨⟨hhere, howner, hshadow, hdirect, hrecords, herr⟩, hpc⟩ =>
    ⟨hhere, howner, hrecords, [], by rw [hp c hpc, mxError_owner howner hshadow hdirect herr, List.nil_append]⟩

theorem faults_mwait_error (reason : Nat) (addr : DWord) : Faults (fun c => c.InError reason addr ∧ c.batchOf.isSome = true) .mwait .mwait .l64
    (fun c => [{ c.recLead 0x21 with taddr := addr, info0 := BitVec.ofNat 32 reason }]) :=
  faults_error (fun _ => rfl) matrix_mwait (fun c hbatch => by
    obtain ⟨b, hb⟩ := Option.isSome_iff_exists.1 hbatch
    rw [hb, Option.isNone_some]
    rfl) reason addr

theorem faults_mrd_error (reason : Nat) (addr : DWord) : Faults (fun c => c.InError reason addr ∧ c.a c.lead &&& 0xFFFFF880 = 0 ∧
      (c.mxv.record = none ∨ tileOk c.tileWidth ((c.a c.lead).extractLsb' 8 3).toNat = true)) .mrd .mrd .l64
    (fun c => [{ c.recLead 0x21 with taddr := addr, info0 := BitVec.ofNat 32 reason }]) :=
  faults_error (fun _ => rfl) matrix_mrd (fun c ⟨hbits, htile⟩ => by
    have hbits' : decide (c.al &&& 0xFFFFF880 ≠ 0) = false := decide_eq_false (not_not.2 hbits)
    have htile' := tileUnfit (t := mrdTile c.al) htile
    rw [htile', hbits', firstOf_cons_false, firstOf_cons_false]
    rfl) reason addr

/-! ### The tap unit (R151, R152, R261, R327) -/

section
variable {I : Fields → Instr} {o : Op} {len : Len} (hI : ∀ w, (I w).word = some (o, len, w)) (hhold : ∀ c, (kitOf o).hold c = none)
  (hfirst : ∀ c, (kitOf o).first c = []) (hidle : (kitOf o).Idle)
include hI hhold hfirst hidle

/-- A tap instruction out of its order or without an event: its check's own fault. -/
theorem faults_tap {bad : Ctx → Prop} {cause info : Nat} (hbad : ∀ c, bad c → c.Here ∧ (kitOf o).word c = [] ∧
      ∃ l, (kitOf o).check c = { c.recLead cause with info0 := BitVec.ofNat 32 info } :: l) :
    Faults bad I o len (fun c => [{ c.recLead cause with info0 := BitVec.ofNat 32 info }]) :=
  faults_whole hI hhold hidle (fun _ => rfl) fun c h => by
    obtain ⟨hhere, hword, hcheck⟩ := hbad c h
    exact ⟨hhere, hword, hcheck, by rw [hfirst]; exact missing_nil c⟩

end

theorem seqFault_of_ne {c : Ctx} {want info : Nat} (h : c.tapSeq ≠ want) : c.seqFault want info = [{ c.recLead 0x30 with info0 := BitVec.ofNat 32 info }] :=
  if_neg h

theorem faults_tapbind : Faults (fun c => c.Here ∧ (c.tapSeq = 1 ∨ c.tapSeq = 2)) .tapbind .tapbind .l96
    (fun c => [{ c.recLead 0x30 with info0 := BitVec.ofNat 32 3 }]) :=
  faults_tap (fun _ => rfl) (fun _ => rfl) (fun _ => rfl) (fun _ => ⟨rfl, rfl⟩) fun c ⟨hhere, hseq⟩ => by
    have hbound : (c.tapSeq = 1 || c.tapSeq = 2) = true := by simpa using hseq
    refine ⟨hhere, rfl, ?_⟩
    show ∃ l, c.bindFaults = _ :: l
    simp only [Ctx.bindFaults, acts_of_lanes hhere.2.1, Bool.not_true, Bool.false_eq_true, if_false, hbound, if_true]
    rw [seqFault_of_ne (by omega), List.singleton_append]
    exact ⟨_, rfl⟩

theorem faults_fgath : Faults (fun c => c.Here ∧ c.tapSeq ≠ 1) .fgath .fgath .l64 (fun c => [{ c.recLead 0x30 with info0 := BitVec.ofNat 32 1 }]) :=
  faults_tap (o := .fgath) (fun _ => rfl) (fun _ => rfl) (fun _ => rfl) (fun _ => ⟨rfl, room_nowhere rfl 6⟩) fun _ ⟨hhere, hseq⟩ =>
    ⟨hhere, rfl, [], (if_pos (acts_of_lanes hhere.2.1)).trans (seqFault_of_ne hseq)⟩

theorem faults_tapgo : Faults (fun c => c.Here ∧ c.tapSeq ≠ 2) .tapgo .tapgo .l64 (fun c => [{ c.recLead 0x30 with info0 := BitVec.ofNat 32 2 }]) :=
  faults_tap (o := .tapgo) (fun _ => rfl) (fun _ => rfl) (fun _ => rfl) (fun _ => ⟨rfl, room_nowhere rfl 6⟩) fun _ ⟨hhere, hseq⟩ =>
    ⟨hhere, rfl, [], (if_pos (acts_of_lanes hhere.2.1)).trans (seqFault_of_ne hseq)⟩

/-- The warp is its block's tap-handler warp. -/
def Ctx.Handler (c : Ctx) : Prop := (c.s.block? c.W.block).any (fun B => B.handler == some c.k) = true

theorem roleFault_handler {c : Ctx} (h : c.Handler) : c.roleFault = [] := if_pos h

theorem faults_role {I : Fields → Instr} {o : Op} {len : Len} (hI : ∀ w, (I w).word = some (o, len, w)) (hK : (kitOf o).word = Ctx.roleFault) :
    Faults (fun c => ¬ c.Handler) I o len (fun c => [{ c.recWord 0x31 with info0 := BitVec.ofNat 32 c.op.code.toNat }]) :=
  faults_of_word hI fun c hrole => by
    rw [hK]
    exact if_neg hrole

/-- No event of the block's binding is current. -/
def Ctx.NoEvent (c : Ctx) : Prop := ∀ b, c.tap.binding = some b → b.block = c.W.block → b.current = none

theorem event_none {c : Ctx} (h : c.NoEvent) : c.event = none := by
  rw [Ctx.event, Ctx.binding]
  cases hb : c.tap.binding with
  | none => rfl
  | some b =>
    by_cases hblock : b.block = c.W.block
    · simp [Option.filter, hblock, h b hb hblock]
    · simp [Option.filter, hblock]

theorem faults_event {I : Fields → Instr} {o : Op} {len : Len} {info : Nat} (hI : ∀ w, (I w).word = some (o, len, w))
    (hK : kitOf o = { word := Ctx.roleFault, check := fun c => c.eventFault info, eff := (kitOf o).eff, tx := false, fork := false }) :
    Faults (fun c => c.Here ∧ c.Handler ∧ c.NoEvent) I o len (fun c => [{ c.recLead 0x32 with info0 := BitVec.ofNat 32 info }]) := by
  have hidle : (kitOf o).Idle := by rw [hK]; exact fun _ => ⟨rfl, rfl⟩
  refine faults_tap hI (fun _ => by rw [hK]) (fun _ => by rw [hK]) hidle fun c ⟨hhere, hrole, hevent⟩ =>
    ⟨hhere, by rw [hK]; exact roleFault_handler hrole, [], ?_⟩
  rw [hK]
  refine if_neg ?_
  rw [acts_of_lanes hhere.2.1, event_none hevent]
  decide

/-! ### A TAPWAIT that delivers (R151, R152, R327) -/

/-- The trap that an instruction raises in place of its effect, once it waits for nothing. -/
theorem issue_late {c : Ctx} {K : Kit} {t : State} {rs : List TrapRec} (hc : c.Clear) (hword : K.word c = []) (hfork : c.fork? = none)
    (hhold : K.hold c = none) (htx : c.lanes.filter c.W.txLive = []) (hcheck : K.check c = []) (hpages : c.missing (K.first c ++ K.pages c) = [])
    (hwprot : K.wprot c = []) (hbad : K.bad c = none) (hwait : K.wait c = (c.s, none)) (hlate : K.late c = some (t, rs)) :
    c.issue K = c.fault t rs := by
  have hself : ({ c with W := c.s.warp c.k } : Ctx) = c := by rw [warp_of_find hc.listed]
  have hfull : c.m &&& ~~~(faultMask c []) = c.m := by rw [faultMask, BitVec.ofNat_eq_ofNat, BitVec.not_zero, BitVec.and_allOnes]
  have hnil : latch [] = [] := rfl
  rw [issue_performs hc hword hfork hhold htx]
  simp only [Ctx.perform, hc.uniFaults, List.nil_append, hcheck, hnil, hfull, hc.slices, if_false, hpages, if_true, hwprot, deadly_nil,
    Option.isSome_none, Bool.false_eq_true, hbad, hwait, hself, hlate]

theorem wait_tapwait {c : Ctx} (hacts : c.acts = true) (hdirect : c.s.buffered c.W = false) (hready : c.tapReady = true) :
    (kitOf .tapwait).wait c = (c.s, none) := by
  simp only [kitOf, kitTapwait, hacts, hdirect, hready, Bool.not_true, Bool.false_eq_true, if_false, if_true]

theorem tapwait_traps {s t : State} {g : Issue} {w : Fields} {rs : List TrapRec} (hs : s.issue = some g) (hc : (s.issued g .tapwait .l64 w).Clear)
    (hhere : (s.issued g .tapwait .l64 w).Here) (hrole : (s.issued g .tapwait .l64 w).Handler)
    (hdirect : (s.issued g .tapwait .l64 w).s.buffered (s.issued g .tapwait .l64 w).W = false)
    (hready : (s.issued g .tapwait .l64 w).tapReady = true) (hlate : (s.issued g .tapwait .l64 w).tapTrap = some (t, rs)) :
    exec (.tapwait w) s = .next ((s.issued g .tapwait .l64 w).fault t rs) := by
  obtain ⟨hfork, hlanes, htx⟩ := hhere
  rw [exec_word (o := .tapwait) (len := .l64) (w := w) rfl, run_issued hs, issue_late hc (roleFault_handler hrole) hfork rfl htx rfl (missing_nil _) rfl rfl
    (wait_tapwait (acts_of_lanes hlanes) hdirect hready) hlate]

section
variable {c : Ctx}

theorem tapReady_reports (hquiet : c.W.counter 6 = 0) (hreports : c.reports ≠ []) : c.tapReady = true := by
  simp [Ctx.tapReady, Ctx.tapQuiet, hquiet, hreports]

theorem modBlock_reports {b : Nat} {r : DWord × Nat × Nat × Nat} {rest : List (DWord × Nat × Nat × Nat)}
    (h : ((c.s.block? b).map (·.tapReports)).getD [] = r :: rest) :
    c.s.modBlock b (fun B => { B with tapReports := B.tapReports.drop 1 }) = c.s.modBlock b (fun B => { B with tapReports := rest }) := by
  obtain ⟨B, hB, hB'⟩ : ∃ B, mfind c.s.blocks b = some B ∧ B.tapReports = r :: rest := by
    rw [State.block?] at h
    cases hB : mfind c.s.blocks b with
    | none => rw [hB] at h; cases h
    | some B => exact ⟨B, rfl, by rw [hB] at h; exact h⟩
  simp only [State.modBlock, mupdate, hB, hB', List.drop_one, List.tail_cons]

theorem tapTrap_report (hacts : c.acts = true) (hquiet : c.W.counter 6 = 0) {r : DWord × Nat × Nat × Nat} {rest : List (DWord × Nat × Nat × Nat)}
    (hreports : c.reports = r :: rest) :
    c.tapTrap = some (c.s.modBlock c.W.block (fun B => { B with tapReports := rest }), [c.reportTrap r]) := by
  have hq : c.tapQuiet = true := by simp [Ctx.tapQuiet, hquiet]
  simp only [Ctx.tapTrap, hacts, Bool.not_true, Bool.false_eq_true, if_false, hq, if_true, hreports, modBlock_reports hreports]

variable {b : Binding} {e : Nat × List Word} {rest : List (Nat × List Word)} (hreports : c.reports = []) (hbinding : c.tap.binding = some b)
  (hundelivered : b.undelivered = e :: rest)
include hreports hbinding hundelivered

theorem nextEvent_head (hblock : b.block = c.W.block) : c.nextEvent = some e := by
  have hmine : c.binding = some b := by simp [Ctx.binding, hbinding, hblock]
  rw [Ctx.nextEvent, hmine, Option.bind_some, hreports, hundelivered]
  simp

theorem tapTrap_event (hacts : c.acts = true) (hblock : b.block = c.W.block) :
    c.tapTrap = some (c.s.modTap c.W.core TapUnit.deliver, [c.featureTrap e]) := by
  simp only [Ctx.tapTrap, hacts, Bool.not_true, Bool.false_eq_true, if_false, hreports, ite_self, nextEvent_head hreports hbinding hundelivered hblock]

omit hreports in
theorem deliver_head : c.tap.deliver = { c.tap with
    binding := some { b with undelivered := rest, current := some e }
    hold := mupdate c.tap.hold e.1 Hold.deliver } := by
  simp [TapUnit.deliver, TapUnit.modBinding, hbinding, hundelivered]

end

/-! ### Privileged instructions (R278) -/

theorem privFault_user {c : Ctx} (h : c.W.mode = .user) : c.privFault = [{ c.recWord 0x58 with info0 := BitVec.ofNat 32 c.op.code.toNat }] := by
  rw [Ctx.privFault, h]
  rfl

theorem faults_priv {I : Fields → Instr} {o : Op} {len : Len} (hI : ∀ w, (I w).word = some (o, len, w)) (hK : (kitOf o).word = Ctx.privFault) :
    Faults (fun c => c.W.mode = .user) I o len (fun c => [{ c.recWord 0x58 with info0 := BitVec.ofNat 32 c.op.code.toNat }]) :=
  faults_of_word hI fun c huser => by rw [hK, privFault_user huser]

/-- An eviction is the firmware's; CACHEOP's other operations are not. -/
theorem faults_evict : Faults (fun c => c.W.mode = .user ∧ c.mod % 4 = 3) .cacheop .cacheop .l96
    (fun c => [{ c.recWord 0x58 with info0 := BitVec.ofNat 32 c.op.code.toNat }]) :=
  faults_of_word (fun _ => rfl) fun _ ⟨huser, hmod⟩ => (if_pos hmod).trans (privFault_user huser)

/-- Settles O42: in each case the first check that fails is named, the checks before it are seen to pass, and an issue whose slices all
fault does nothing else (`perform_halts`). -/
theorem unitFaults : Obligations.UnitFaults := by
  unfold Obligations.UnitFaults
  refine ⟨⟨?_, ?_, ?_, ?_, ?_, ?_, ?_, ?_, ?_, ?_⟩, ⟨?_, ?_, ?_, ?_⟩, ⟨?_, ?_, ?_, ?_, ?_, ?_, ?_, ?_⟩, ?_, ?_, ?_, ?_, ?_⟩
  · simp only [size_eq]
    exact faults_unsound (fun _ => rfl) kitLd_vector fun _ => rfl
  · simp only [size_eq]
    exact faults_unsound (fun _ => rfl) kitSt_vector fun _ => rfl
  · exact faults_unsound (fun _ => rfl) kitAmo_vector fun _ => rfl
  · exact faults_unsound (fun _ => rfl) kitRed_vector fun _ => rfl
  · simp only [size_eq, setWidth_spadAddr, toNat_spadAddr]
    exact faults_spad (o := .lds) (fun _ => rfl) kitLds_vector fun _ => rfl
  · simp only [size_eq, setWidth_spadAddr, toNat_spadAddr]
    exact faults_spad (o := .sts) (fun _ => rfl) kitSts_vector fun _ => rfl
  · exact faults_view (fun _ => rfl) kitAmo_vector (fun _ => rfl) rfl
  · exact faults_view (fun _ => rfl) kitRed_vector (fun _ => rfl) rfl
  · simp only [size_eq]
    refine (faults_barred (o := .st) (fun _ => rfl) kitSt_vector (fun _ => rfl) (fun _ => rfl) fun _ => rfl).of_imp fun c hbad => ?_
    obtain ⟨hfork, htx, hslices, hp⟩ := hbad
    exact ⟨hfork, htx, hslices, fun i hi => ⟨hp i hi, nofun⟩⟩
  · refine (faults_barred (o := .red) (fun _ => rfl) kitRed_vector (fun _ => rfl) (fun _ => rfl) fun _ => rfl).of_imp fun c hbad => ?_
    obtain ⟨⟨hfork, htx, hslices, hp⟩, hview⟩ := hbad
    refine ⟨hfork, htx, hslices, fun i hi => ⟨hp i hi, fun _ t ht => ?_⟩⟩
    have hnone := hview i hi i hi
    rwa [Ctx.tr, ht] at hnone
  · intro o I len h
    simp only [List.mem_cons, List.not_mem_nil, or_false, Prod.mk.injEq] at h
    rcases h with ⟨rfl, rfl, rfl⟩ | ⟨rfl, rfl, rfl⟩ | ⟨rfl, rfl, rfl⟩ | ⟨rfl, rfl, rfl⟩ | ⟨rfl, rfl, rfl⟩ | ⟨rfl, rfl, rfl⟩ | ⟨rfl, rfl, rfl⟩ |
      ⟨rfl, rfl, rfl⟩ | ⟨rfl, rfl, rfl⟩ | ⟨rfl, rfl, rfl⟩
    · exact faults_ownership (o := .mlds) (fun _ => rfl) (mxKit_matrix _ _)
    · exact faults_ownership (o := .mswap) (fun _ => rfl) (mxKit_matrix _ _)
    · exact faults_ownership (o := .mzero) (fun _ => rfl) matrix_mzero
    · exact faults_ownership (o := .mloop) (fun _ => rfl) (mxKit_matrix _ _)
    · exact faults_ownership (o := .mrd) (fun _ => rfl) matrix_mrd
    · exact faults_ownership (o := .mst) (fun _ => rfl) (mxKit_matrix _ _)
    · exact faults_ownership (o := .macc) (fun _ => rfl) (mxKit_matrix _ _)
    · exact faults_ownership (o := .mfence) (fun _ => rfl) matrix_mfence
    · exact faults_ownership (o := .mwait) (fun _ => rfl) matrix_mwait
    · exact faults_ownership (o := .mmeta) (fun _ => rfl) (mxKit_matrix _ _)
  · exact faults_mzero
  · exact faults_mwait_number
  · intro reason addr o I h
    simp only [List.mem_cons, List.not_mem_nil, or_false, Prod.mk.injEq] at h
    rcases h with ⟨rfl, rfl⟩ | ⟨rfl, rfl⟩
    · exact (faults_mwait_error reason addr).of_imp fun c ⟨hhere, howner, hshadow, hdirect, hrecords, herr, hbatch, _⟩ =>
        ⟨⟨hhere, howner, hshadow, hdirect, hrecords, herr⟩, hbatch rfl⟩
    · exact (faults_mrd_error reason addr).of_imp fun c ⟨hhere, howner, hshadow, hdirect, hrecords, herr, _, hword⟩ =>
        ⟨⟨hhere, howner, hshadow, hdirect, hrecords, herr⟩, hword rfl⟩
  · exact faults_tapbind
  · exact faults_fgath
  · exact faults_tapgo
  · intro o I h
    simp only [List.mem_cons, List.not_mem_nil, or_false, Prod.mk.injEq] at h
    rcases h with ⟨rfl, rfl⟩ | ⟨rfl, rfl⟩ | ⟨rfl, rfl⟩ | ⟨rfl, rfl⟩
    · exact faults_role (o := .tapwait) (fun _ => rfl) rfl
    · exact faults_role (o := .fev) (fun _ => rfl) rfl
    · exact faults_role (o := .frewr) (fun _ => rfl) rfl
    · exact faults_role (o := .frel) (fun _ => rfl) rfl
  · exact faults_event (o := .frewr) (fun _ => rfl) rfl
  · exact faults_event (o := .frel) (fun _ => rfl) rfl
  · intro s g w tap reason req n rest hs c hc hhere hrole hdirect hquiet hreports
    have hready : c.tapReady = true := tapReady_reports hquiet (by rw [hreports]; exact List.cons_ne_nil _ _)
    exact tapwait_traps hs hc hhere hrole hdirect hready (tapTrap_report (acts_of_lanes hhere.2.1) hquiet hreports)
  · intro s g w b row words rest hs c hc hhere hrole hdirect hreports hbinding hblock hundelivered
    have hready : c.tapReady = true := by
      rw [Ctx.tapReady, nextEvent_head hreports hbinding hundelivered hblock]
      rfl
    refine ⟨c.s.modTap c.W.core TapUnit.deliver, ?_, rfl, rfl,
      tapwait_traps hs hc hhere hrole hdirect hready (tapTrap_event hreports hbinding hundelivered (acts_of_lanes hhere.2.1) hblock)⟩
    refine Eq.trans ?_ (deliver_head hbinding hundelivered)
    simp [State.modTap, State.modCore, State.core, Ctx.tap]
  · exact faults_priv (o := .tlbinv) (fun _ => rfl) rfl
  · exact faults_priv (o := .ctxsv) (fun _ => rfl) rfl
  · exact faults_priv (o := .ctxld) (fun _ => rfl) rfl
  · exact faults_priv (o := .qend) (fun _ => rfl) rfl
  · exact faults_evict

end Sys2Proof.Machine

/-! A COPYR that overwrites the page table through which it finds its own source (R86, R254, R346). -/

namespace Sys2Proof.Machine

/-- A COPYR of 16 bytes from 0x3000 to 0x2000 that has asked for the walks of both pages. -/
def tableCopy : Engine :=
  { op := .copyr 0x2000 0x3000 16, warp := 1, block := 2, cls := 2, stage := 1, asked := [2, 3] }

/-- Its warp's queue has no translation cached. The page table at 0x1000 leads to a table at 0x2000, whose first entry maps the lowest
16 GiB to themselves. Of the 16 bytes at 0x3000 the ninth is 1 and the others are 0. -/
def overTable : State :=
  { State.reset.withBareGang.modWarp 1 (fun W => { W with outs := [(2, 9, false)] }) with
    tlbs := []
    queues := [(0, { bareQueue with root := 0x1000 })]
    engines := [(9, tableCopy)]
    mem := [(0x1000, 0x01), (0x1001, 0x20), (0x2000, 0x02), (0x2001, 0x0E), (0x3008, 0x01)] }

theorem overTable_noWindow (a : Nat) : overTable.decodedView a = none := by
  have hwin : overTable.windowAt a = none := by
    rw [State.windowAt]
    split
    · rfl
    · refine Option.map_eq_none_iff.2 (List.find?_eq_none.2 fun n _ => ?_)
      have hword : mget 0 (overTable.die (overTable.homeDie a)).winCtl n = 0 := rfl
      have hoff : winEn 0 = false := by decide
      simp only [hword, hoff, Bool.false_and, Bool.false_eq_true, not_false_eq_true]
  rw [State.decodedView, hwin]

theorem overTable_plainMem : PlainMem overTable where
  ranges _ := rfl
  views := overTable_noWindow
  home _ _ h := nomatch h
  whole _ _ h := nomatch h
  raw _ _ h := nomatch h
  clean _ _ h := nomatch h

/-- Both pages translate while the table stands, and what is written has a home. -/
theorem overTable_phys : ∀ j < 16, overTable.engPhys tableCopy (.glob (0x2000 + BitVec.ofNat 64 j)) = some (0x2000 + j) ∧
    overTable.engPhys tableCopy (.glob (0x3000 + BitVec.ofNat 64 j)) = some (0x3000 + j) ∧ overTable.homeless (0x2000 + j) = false := by
  decide +kernel

/-- The ninth byte of the source, and of the destination once the operation has completed: its first unit has cleared the table's entry, so
that its second one translates no more. -/
theorem overTable_ninth : overTable.byteAt 0x3008 = 1 ∧ (overTable.engFinish 9 2).byteAt 0x2008 = 0 := by
  decide +kernel

/-- Refutes O37: the clause of COPYR asks that the addresses translate when the event begins, but an operation that has asked for the walks of
its pages looks each unit up in the page table as that stands (R346), and the copy may write to the table. In `overTable` its first unit
clears the entry that maps its pages, the second has no translation any more, and the operation completes without it. -/
theorem not_engineCopies : ¬ Obligations.EngineCopies := by
  unfold Obligations.EngineCopies
  rintro ⟨-, hevents⟩
  obtain ⟨hcopyr, -⟩ := hevents overTable 9 tableCopy (overTable.warp 1) rfl rfl rfl rfl rfl rfl (by decide) (by decide) rfl rfl rfl rfl nofun
    overTable_plainMem
  obtain ⟨t, hexec, hcopied, -⟩ := hcopyr 0x2000 0x3000 16 0x2000 0x3000 rfl rfl rfl (by decide +kernel) overTable_phys (.inr (by decide))
  have ht : overTable.engFinish 9 2 = t := by injection hexec
  obtain ⟨hsource, hninth⟩ := overTable_ninth
  have hcopy : t.byteAt 0x2008 = overTable.byteAt 0x3008 := hcopied 8 (by decide)
  rw [← ht, hninth, hsource] at hcopy
  exact absurd hcopy (by decide)

end Sys2Proof.Machine

/-! An issue that has passed its checks (R318): it goes on, or stops at its own wait. -/

namespace Sys2Proof.Machine

/-- Nothing but its own wait keeps an instruction from its effect. -/
structure Kit.Ready (K : Kit) (c : Ctx) : Prop where
  word  : K.word c = []
  fork  : K.fork = true ∨ c.fork? = none
  hold  : K.hold c = none
  tx    : K.tx = true ∨ c.lanes.filter c.W.txLive = []
  check : K.check c = []
  bad   : K.bad c = none
  pages : c.missing (K.first c ++ K.pages c) = []
  wprot : K.wprot c = []

theorem Kit.Ready.lets {K : Kit} {c : Ctx} {t : State} (h : K.Ready c) (hwait : K.wait c = (t, none)) (hlate : K.late (c.moved t) = none) :
    K.Lets c t :=
  ⟨h.word, h.fork.imp_right .inl, h.hold, h.tx, h.check, h.bad, h.pages, h.wprot, hwait, hlate⟩

theorem Kit.Ready.performs {K : Kit} {c : Ctx} (h : K.Ready c) (hc : c.Clear) : c.issue K = c.perform K := by
  have hd : c.disallow K = c := by
    rw [Ctx.disallow]
    rcases h.tx with htx | htx
    · rw [if_pos htx]
    · rw [htx]
      exact ite_self c
  have hv : (!K.fork && c.fork?.isSome && c.acts) = false := by
    rcases h.fork with hfork | hfork <;> simp [hfork]
  simp only [Ctx.issue, hc.noSkip, hc.slices, if_false, hc.landed, hc.early, h.word, hv, h.hold, hc.clean, hd, Bool.false_eq_true]

/-- The gang of an instruction that is ready stops where its wait says so. -/
theorem Kit.Ready.stops {K : Kit} {c : Ctx} {t : State} {why : Cond} (h : K.Ready c) (hc : c.Clear) (hwait : K.wait c = (t, some why)) :
    c.issue K = c.stop t why := by
  rw [h.performs hc]
  simp only [Ctx.perform, hc.uniFaults, h.check, List.append_nil, latch_nil, faultMask_nil, keep_mask, h.bad, h.pages, if_true, hc.slices, if_false,
    h.wprot, hwait, deadly_nil, Option.isSome_none, Bool.false_eq_true]

section
variable {ok : Ctx → Prop} {I : Fields → Instr} {o : Op} {len : Len} {post : Ctx → State → Prop}
  (hI : ∀ w, (I w).word = some (o, len, w))
include hI

/-- A word goes on from the state that its wait leaves. -/
theorem runs_moved (h : ∀ c : Ctx, c.op = o → c.Clear → ok c →
      ∃ u, (kitOf o).Lets c u ∧ post c ((c.moved u).retire (kitOf o).jumps ((kitOf o).eff (c.moved u)))) : Runs ok I o len post := by
  intro s g w hs hc hok
  obtain ⟨u, hlets, hpost⟩ := h (s.issued g o len w) rfl hc hok
  exact ⟨_, by rw [exec_word (hI w), run_moved hs hc hlets], hpost⟩

/-- A word stops at its own wait. -/
theorem runs_stops (h : ∀ c : Ctx, c.op = o → c.Clear → ok c →
      ∃ u why, (kitOf o).Ready c ∧ (kitOf o).wait c = (u, some why) ∧ post c (c.stop u why)) : Runs ok I o len post := by
  intro s g w hs hc hok
  obtain ⟨u, why, hready, hwait, hpost⟩ := h (s.issued g o len w) rfl hc hok
  exact ⟨_, by rw [exec_word (hI w), run_issued hs, hready.stops hc hwait], hpost⟩

end

theorem stop_stopped {c : Ctx} (h : mfind c.s.warps c.k = some c.W) (why : Cond) :
    c.OnlyWarp (c.stop c.s why) ∧ mfind (c.stop c.s why).warps c.k = some (c.stopped c.W why) :=
  ⟨⟨rfl, fun _ hj => find_modWarp_ne _ _ hj⟩, find_modWarp h _⟩

/-- An instruction that no continuation or transaction lane may run, at D0. -/
theorem Ctx.Plain.ready {K : Kit} {c : Ctx} (h : c.Plain) (hword : K.word c = []) (hhold : K.hold c = none) (hcheck : K.check c = [])
    (hbad : K.bad c = none) (hpages : c.missing (K.first c ++ K.pages c) = []) (hwprot : K.wprot c = []) : K.Ready c :=
  ⟨hword, .inr h.noFork, hhold, .inr (txLive_plain h.noTx), hcheck, hbad, hpages, hwprot⟩

theorem Ctx.Plain.detlvl {c : Ctx} (h : c.Plain) : c.W.detlvl = 0 := by
  have hdirect := h.direct
  simp only [State.buffered, Bool.or_eq_false_iff, decide_eq_false_iff_not] at hdirect
  omega

/-! ### Addresses that an access reaches -/

theorem Ctx.Reach.trans {c : Ctx} {va : Nat → DWord} {align : Nat} {write : Bool} (h : c.Reach va align write) {i : Nat} (hi : i ∈ c.lanes) :
    c.trans (va i).toNat = some (c.tr (va i)) := by
  obtain ⟨-, -, t, ht, -⟩ := h i hi
  rw [Ctx.tr, ht, Option.getD_some]

theorem Ctx.Reach.pages {c : Ctx} {va : Nat → DWord} {align : Nat} {write : Bool} (h : c.Reach va align write) :
    c.missing (c.pageAddrs va) = [] :=
  missing_cached fun a ha => by
    obtain ⟨i, hi, rfl⟩ := List.mem_map.1 ha
    exact ⟨_, h.trans hi⟩

theorem Ctx.Reach.views {c : Ctx} {va : Nat → DWord} {align n : Nat} {write strict : Bool} (h : c.Reach va align write) :
    c.missing (c.viewAddrs strict n n va ++ c.pageAddrs va) = [] :=
  missing_cached fun a ha => by
    rcases List.mem_append.1 ha with ha | ha
    · obtain ⟨i, hi, rfl, -⟩ := mem_viewAddrs ha
      exact ⟨_, h.trans hi⟩
    · obtain ⟨i, hi, rfl⟩ := List.mem_map.1 ha
      exact ⟨_, h.trans hi⟩

theorem Ctx.Reach.wprot {c : Ctx} {va : Nat → DWord} {align : Nat} (h : c.Reach va align true) (n : Nat) : c.wprotFaults n va = [] :=
  List.filterMap_eq_nil_iff.2 fun i hi => by
    obtain ⟨-, -, t, ht, hrdo⟩ := h i hi
    simp only [ht, hrdo rfl, Bool.false_eq_true, if_false]

theorem Ctx.Reach.checks {c : Ctx} {va : Nat → DWord} {n : Nat} {write strict : Bool} (h : c.Reach va n write)
    (hview : strict = true → c.NoView va) (htx : c.W.tx = none) : c.globalFaults strict n n va = [] :=
  List.filterMap_eq_nil_iff.2 fun i hi => by
    obtain ⟨halign, hcanon, -⟩ := h i hi
    refine globalFault_sound halign hcanon fun hstrict t ht => ?_
    rw [txLive_of_none (txLive_plain htx) hi, Bool.or_false] at hstrict
    rw [h.trans hi] at ht
    cases ht
    exact hview hstrict i hi

/-- Each acting lane has its access. -/
theorem Ctx.Reach.accesses {c : Ctx} {va : Nat → DWord} {align : Nat} {write : Bool} (h : c.Reach va align write) (n keep : Nat) (op : Nat → AccOp) :
    c.accesses n keep va op = c.lanes.map (c.access n keep va op) :=
  List.filterMap_eq_map_iff_forall_eq_some.2 fun i hi => by
    simp only [h.trans hi]
    rfl

/-! ### Operations on their way -/

/-- An operation is on its way from a state in which nothing of the warp has changed. -/
theorem sends_launch {c : Ctx} {t : State} {f : Flight} {touched : State → State} (hf : f.warp = c.k)
    (hwarp : mfind t.warps c.k = some c.W) (hothers : ∀ j, j ≠ c.k → mfind t.warps j = mfind c.s.warps j) (hflights : t.flights = c.s.flights)
    (hid : t.nextId = c.s.nextId) (hrest : ∀ (ws : NMap Warp) (fs : NMap Flight) (n : Nat),
      touched { t with warps := ws, flights := fs, nextId := n } = touched { c.s with warps := ws, flights := fs, nextId := n }) :
    c.Sends (c.retire false (t.launchFlight f)) f touched := by
  have hl : Launched t (c.retire false (t.launchFlight f)) c.k f (c.onward (c.W.count1 f.cls t.nextId)) := by
    have hl := launchFlight_launched (t := t) (f := f) (by rw [hf]; exact hwarp)
    rw [hf] at hl
    exact hl.modWarp c.onward
  refine ⟨?_, hid ▸ hl.flight, fun n hn => (hl.older n (hid ▸ hn)).trans (by rw [hflights]), hl.warp.trans ?_,
    fun j hj => (hl.others j hj).trans (hothers j hj)⟩
  · rw [hl.rest, hid]
    exact hrest _ _ _
  · rw [hid, Warp.count1]
    split <;> rfl

end Sys2Proof.Machine

/-! Fences and waits (R95, R98, R100, R245 to R247): what each waits for. -/

namespace Sys2Proof.Machine

/-! ### FENCE (R95) -/

/-- What a release at a scope waits for (R95 Table 3). -/
theorem released_iff {c : Ctx} (h : mfind c.s.warps c.k = some c.W) (upto scope : Nat) : c.s.released c.k upto scope = true ↔
    c.s.storesOut c.k upto = false ∧ (scope = 3 → c.W.gwctd.toNat ≤ (c.s.dieTime (c.W.core / 192)).toNat) ∧
      (4 ≤ scope → c.W.gwct.toNat ≤ (c.s.dieTime (c.W.core / 192)).toNat) := by
  rw [State.released, warp_of_find h, Bool.and_eq_true, Bool.not_eq_true']
  refine and_congr_right fun _ => ?_
  split
  · next hnear => exact iff_of_true rfl ⟨by omega, by omega⟩
  · next hfar =>
    split
    · next hdie => simp [State.past, hdie]
    · next hwide => simp [State.past, hwide, show 4 ≤ scope by omega]

theorem fenceDone_iff {c : Ctx} (h : mfind c.s.warps c.k = some c.W) (rel acq : Bool) (upto scope : Nat) :
    c.s.fenceDone c.k (if rel then some scope else none) acq upto = true ↔
      (rel = true → c.s.storesOut c.k upto = false ∧ (scope = 3 → c.W.gwctd.toNat ≤ (c.s.dieTime (c.W.core / 192)).toNat) ∧
        (4 ≤ scope → c.W.gwct.toNat ≤ (c.s.dieTime (c.W.core / 192)).toNat)) ∧
      (acq = true → c.s.readsOut c.k upto = false) := by
  unfold State.fenceDone
  rw [Bool.and_eq_true]
  refine and_congr ?_ ?_
  · cases rel
    · simp
    · simpa using released_iff h upto scope
  · cases acq <;> simp

/-- The scope of a FENCE, where it releases (R245). -/
def Ctx.fenceRel (c : Ctx) : Option Nat := if c.w.mod.getLsbD 1 then some (c.w.mod.extractLsb' 2 3).toNat else none

/-- A FENCE at D0 that has not waited yet waits unless what it names has come. -/
theorem wait_fence {c : Ctx} (hp : c.Plain) (hlanes : c.lanes ≠ []) (hwake : c.wake = none) : kitFence.wait c =
    if c.s.fenceDone c.k c.fenceRel (c.w.mod.getLsbD 0) c.s.nextId then (c.s, none)
    else (c.s, some (.fence c.fenceRel (c.w.mod.getLsbD 0) c.s.nextId)) := by
  simp only [kitFence, acts_of_lanes hlanes, hp.detlvl, hwake]
  rfl

theorem ready_fence {c : Ctx} (hp : c.Plain) : kitFence.Ready c := hp.ready rfl rfl rfl rfl (missing_nil c) rfl

/-- A FENCE counts its release, and nothing else (R352). -/
theorem went_fence {c : Ctx} (h : mfind c.s.warps c.k = some c.W) :
    ∃ r, c.Went (c.retire false (kitFence.eff c)) (fun _ => c.next) (fun W => { W with release := r }) := by
  by_cases hrel : (c.acts && c.fenceRel.isSome) = true
  · rw [show kitFence.eff c = c.s.modWarp c.k (fun W => W.countRelease _) from if_pos hrel]
    exact ⟨_, went_next h (modWarp_const h _) rfl⟩
  · rw [show kitFence.eff c = c.s from if_neg hrel]
    exact ⟨c.W.release, (went_same h).congr (fun _ _ => rfl) rfl⟩

/-! ### WAITC (R98, R246) -/

theorem classLimit_eq {cls : Nat} (h : cls ≤ 6) : classLimit cls = [255, 255, 63, 15, 63, 15, 15].getD cls 15 := by
  interval_cases cls <;> rfl

/-- No fault of its class holds up a WAITC (R326, R347). -/
theorem check_waitc {c : Ctx} (hp : c.Plain) (hheld : c.W.held.find? (fun r => r.slice == c.mod && r.whole) = none)
    (herr : c.mod = 3 → (c.s.core (c.s.mxCore c.W)).mx.err = none) : kitWaitc.check c = [] := by
  have hmx : (c.mod = 3 && c.mxError != []) = false := by
    by_cases h3 : c.mod = 3
    · simp [Ctx.mxError, hp.direct, herr h3]
    · simp [h3]
  have hfault : c.heldFault c.mod = none := by rw [Ctx.heldFault, hheld, ite_self]
  simp only [kitWaitc, hmx, hfault, Bool.false_eq_true, if_false, ite_self]

theorem waitOver_iff {c : Ctx} (hlanes : c.lanes ≠ []) (hmod : c.mod ≤ 6) : c.waitOver = true ↔
    c.W.counter c.mod ≤ c.waitCount ∨ [255, 255, 63, 15, 63, 15, 15].getD c.mod 15 ≤ c.waitCount := by
  simp [Ctx.waitOver, acts_of_lanes hlanes, classLimit_eq hmod]

theorem ready_waitc {c : Ctx} (hp : c.Plain) (hheld : c.W.held.find? (fun r => r.slice == c.mod && r.whole) = none)
    (herr : c.mod = 3 → (c.s.core (c.s.mxCore c.W)).mx.err = none) : kitWaitc.Ready c :=
  hp.ready rfl rfl (check_waitc hp hheld herr) rfl (missing_nil c) rfl

/-! ### TRYWAIT (R100, R247) -/

/-- What a TRYWAIT asks of its lanes' words to test them (R247). -/
structure Ctx.Testable (c : Ctx) : Prop where
  plain  : c.Plain
  lanes  : c.lanes ≠ []
  reach  : c.Reach c.a64 4 false
  noView : c.NoView c.a64
  clean  : ∀ i ∈ c.lanes, c.s.poisonedAt ((c.tr (c.a64 i)).phys (c.a64 i).toNat) 4 = false

/-- The words that the lanes of a TRYWAIT test. -/
theorem testWords_eq {c : Ctx} (h : c.Reach c.a64 4 false) :
    c.testWords = c.lanes.map (fun i => (i, c.a64 i, (c.tr (c.a64 i)).phys (c.a64 i).toNat, c.b i)) :=
  List.filterMap_eq_map_iff_forall_eq_some.2 fun i hi => by simp only [h.trans hi, Option.map_some]

theorem Ctx.Testable.ready {c : Ctx} (h : c.Testable) : kitTrywait.Ready c := by
  refine h.plain.ready ?_ rfl (h.reach.checks (fun _ => h.noView) h.plain.noTx) ?_ h.reach.views rfl
  · simp [kitTrywait, h.plain.detlvl]
  · have hfind : c.testWords.find? (fun x => c.s.poisonedAt x.2.2.1 4) = none := by
      rw [testWords_eq h.reach, List.find?_eq_none]
      intro x hx
      obtain ⟨i, hi, rfl⟩ := List.mem_map.1 hx
      simp [h.clean i hi]
    show Option.map _ (c.testWords.find? _) = none
    rw [hfind]
    rfl

/-- The word at the home of a lane's address. -/
def Ctx.homeWord (c : Ctx) (i : Nat) : Word := c.s.wordAt ((c.tr (c.a64 i)).phys (c.a64 i).toNat)

theorem wordsDiffer_iff {c : Ctx} (h : c.Reach c.a64 4 false) : c.s.wordsDiffer c.testWords = true ↔ ∃ i ∈ c.lanes, c.homeWord i ≠ c.b i := by
  simp [State.wordsDiffer, testWords_eq h, Ctx.homeWord]

theorem Ctx.Testable.wait {c : Ctx} (h : c.Testable) (hwake : c.wake = none)
    (hway : c.s.onWay c.k (c.lanes.map (fun i => ((c.tr (c.a64 i)).phys (c.a64 i).toNat, 4))) = false) : kitTrywait.wait c =
      if c.s.wordsDiffer c.testWords then (c.s, none)
      else (c.s, some (.words c.testWords (if c.hint = 0 then none else some (c.s.dieTime (c.W.core / 192) + c.hint.setWidth 64))
        c.s.nextId c.w.d.toNat c.next)) := by
  have hranges : c.testWords.map (fun x => (x.2.2.1, 4)) = c.lanes.map (fun i => ((c.tr (c.a64 i)).phys (c.a64 i).toNat, 4)) := by
    rw [testWords_eq h.reach, List.map_map]
    rfl
  simp only [kitTrywait, hwake, acts_of_lanes h.lanes, h.plain.direct, hranges, hway, Bool.not_true, Bool.false_eq_true, if_false]

/-- Reading words at their homes drops the reader's copies, and changes nothing else. -/
theorem foldl_dropCopies_only (core : Nat) (l : List (Nat × DWord × Nat × Word)) (s : State) :
    ∃ copies, l.foldl (fun s x => (s.dropCopy core (x.2.2.1 / 32)).dropCopy (768 + core / 192) (x.2.2.1 / 32)) s = { s with copies := copies } := by
  induction l generalizing s with
  | nil => exact ⟨s.copies, rfl⟩
  | cons x l ih =>
    obtain ⟨copies, h⟩ := ih ((s.dropCopy core (x.2.2.1 / 32)).dropCopy (768 + core / 192) (x.2.2.1 / 32))
    exact ⟨copies, h⟩

/-- A TRYWAIT that goes on brings the outcome of its lanes' tests. -/
theorem Ctx.Testable.sends {c : Ctx} (hc : c.Clear) (h : c.Testable) : c.Sends (c.retire false (kitTrywait.eff c))
    { c.result 7 (c.lanes.map (fun i => (c.w.d.toNat, i, if c.homeWord i = c.b i then 0 else 0xFFFFFFFF))) [c.w.d.toNat] with reads := true }
    (fun s => { s with copies := [] }) := by
  obtain ⟨copies, hdrop⟩ := foldl_dropCopies_only c.W.core c.testWords c.s
  have hvals : c.testWords.map (fun x => (c.w.d.toNat, x.1, boolWord (State.wordAt { c.s with copies := copies } x.2.2.1 != x.2.2.2))) =
      c.lanes.map (fun i => (c.w.d.toNat, i, if c.homeWord i = c.b i then 0 else 0xFFFFFFFF)) := by
    rw [testWords_eq h.reach, List.map_map]
    refine List.map_congr_left fun i _ => ?_
    show (c.w.d.toNat, i, boolWord (c.homeWord i != c.b i)) = _
    by_cases hword : c.homeWord i = c.b i
    · rw [if_pos hword, hword, bne_self_eq_false]
      rfl
    · rw [if_neg hword, bne_iff_ne.2 hword]
      rfl
  have heff : kitTrywait.eff c = State.launchFlight { c.s with copies := copies }
      { c.result 7 (c.lanes.map (fun i => (c.w.d.toNat, i, if c.homeWord i = c.b i then 0 else 0xFFFFFFFF))) [c.w.d.toNat] with reads := true } := by
    simp only [kitTrywait, acts_of_lanes h.lanes, Bool.not_true, Bool.false_eq_true, if_false, hdrop, hvals, Ctx.result]
  rw [heff]
  exact sends_launch rfl hc.listed (fun _ _ => rfl) rfl rfl fun _ _ _ => rfl

/-! ### The statement -/

/-- Settles O32: a FENCE's wait is `fenceDone`, a WAITC's is `waitOver`, and a TRYWAIT waits where no word differs. -/
theorem fencesAndWaits : Obligations.FencesAndWaits := by
  unfold Obligations.FencesAndWaits
  refine ⟨⟨?_, ?_, ?_, ?_⟩, ?_, ?_⟩
  · refine runs_of (fun _ => rfl) fun c _ _ hc ⟨⟨hp, hlanes, hwake⟩, hcome⟩ => ?_
    have hdone : c.s.fenceDone c.k c.fenceRel (c.w.mod.getLsbD 0) c.s.nextId = true := (fenceDone_iff hc.listed _ _ _ _).2 hcome
    exact ⟨(ready_fence hp).lets (by rw [wait_fence hp hlanes hwake, if_pos hdone]) rfl, went_fence hc.listed⟩
  · refine runs_stops (fun _ => rfl) fun c _ hc ⟨⟨hp, hlanes, hwake⟩, hcome⟩ => ?_
    have hdone : ¬ c.s.fenceDone c.k c.fenceRel (c.w.mod.getLsbD 0) c.s.nextId = true := fun h => hcome ((fenceDone_iff hc.listed _ _ _ _).1 h)
    exact ⟨_, _, ready_fence hp, (wait_fence hp hlanes hwake).trans (if_neg hdone), stop_stopped hc.listed _⟩
  · refine runs_of (fun _ => rfl) fun c _ _ hc ⟨⟨hp, hlanes, _⟩, hmod, ⟨hheld, herr⟩, hcount⟩ => ?_
    have hover : c.waitOver = true := (waitOver_iff hlanes hmod).2 hcount
    exact ⟨(ready_waitc hp hheld herr).lets (if_pos hover) rfl, went_same hc.listed⟩
  · refine runs_stops (fun _ => rfl) fun c _ hc ⟨⟨hp, hlanes, _⟩, hmod, ⟨hheld, herr⟩, hcount, hlimit⟩ => ?_
    have hover : ¬ c.waitOver = true := fun h => by
      rcases (waitOver_iff hlanes hmod).1 h with h | h
      · exact Nat.not_le.2 hcount h
      · exact Nat.not_le.2 hlimit h
    refine ⟨c.s, _, ready_waitc hp hheld herr, (if_neg hover).trans ?_, stop_stopped hc.listed _⟩
    rw [hp.direct]
    rfl
  · refine runs_of (fun _ => rfl) fun c _ _ hc ⟨⟨hp, _, hlanes, hreach, hview, hclean, hway⟩, hgo⟩ => ?_
    have htest : c.Testable := ⟨hp, hlanes, hreach, hview, hclean⟩
    refine ⟨htest.ready.lets ?_ rfl, htest.sends hc⟩
    rcases hgo with ⟨l, u, n, d, p, hwake⟩ | ⟨hwake, hdiffer⟩
    · simp [kitTrywait, hwake]
    · exact (htest.wait hwake hway).trans (if_pos ((wordsDiffer_iff hreach).2 hdiffer))
  · refine runs_stops (fun _ => rfl) fun c _ hc ⟨⟨hp, _, hlanes, hreach, hview, hclean, hway⟩, hwake, hsame⟩ => ?_
    have htest : c.Testable := ⟨hp, hlanes, hreach, hview, hclean⟩
    have hdiffer : ¬ c.s.wordsDiffer c.testWords = true := fun h => by
      obtain ⟨i, hi, hne⟩ := (wordsDiffer_iff hreach).1 h
      exact hne (hsame i hi)
    refine ⟨_, _, htest.ready, (htest.wait hwake hway).trans (if_neg hdiffer), ?_⟩
    rw [testWords_eq hreach]
    exact stop_stopped hc.listed _

end Sys2Proof.Machine

/-! Grace periods (R105 to R108, R248, R292): the quiescent points that a warp passes, and the grace numbers that are handed out. -/

namespace Sys2Proof.Machine

/-! ### Quiescent points (R105) -/

/-- A partition whose grace period waits for a warp no longer. -/
def Partition.passedBy (P : Partition) (k : Nat) : Partition := { P with gpWait := P.gpWait.filter (fun j => j ≠ k) }

/-- The warp has passed a quiescent point, and nothing else has changed. -/
structure Ctx.Passed (c : Ctx) (P : Partition) (t : State) : Prop where
  rest : t = { c.s with warps := t.warps, parts := t.parts }
  part : mfind t.parts (c.s.partOfWarp c.W) = some (P.passedBy c.k)
  warp : ∃ V, mfind t.warps c.k = some V ∧ Warp.Quieter c.W V

theorem Warp.Quieter.same {W V : Warp} (h : Warp.Quieter W V) :
    V = { W with quietDue := V.quietDue, watchdog := V.watchdog, quiet := V.quiet } := h

theorem Warp.Quieter.slices {W V : Warp} (h : Warp.Quieter W V) : V.slices = W.slices := by rw [h.same]

theorem Warp.Quieter.regs {W V : Warp} (h : Warp.Quieter W V) : V.regs = W.regs := by rw [h.same]

theorem Warp.Quieter.launch {W V : Warp} (h : Warp.Quieter W V) : V.launch = W.launch := by rw [h.same]

theorem Warp.Quieter.queue {W V : Warp} (h : Warp.Quieter W V) : V.queue = W.queue := by rw [h.same]

/-- A quiescent point of a warp that notes, at most, which of its earlier ones are due. -/
theorem quiescent_passed {c : Ctx} {s : State} {P : Partition} {V : Warp} (hP : mfind c.s.parts (c.s.partOfWarp c.W) = some P)
    (hs : s = { c.s with warps := s.warps }) (hV : mfind s.warps c.k = some V) (hquiet : Warp.Quieter c.W V) : c.Passed P (s.quiescent c.k) := by
  have hpart : s.partOfWarp (s.warp c.k) = c.s.partOfWarp c.W := by
    rw [warp_of_find hV, hs, State.partOfWarp, hquiet.launch, hquiet.queue]
    rfl
  have hparts : s.parts = c.s.parts := by rw [hs]
  have hfilter : P.gpWait.filter (· != c.k) = P.gpWait.filter (fun j => j ≠ c.k) := List.filter_congr fun _ _ => decide_not.symm
  have hstep : s.quiescent c.k = (s.modPart (c.s.partOfWarp c.W) (fun P => { P with gpWait := P.gpWait.filter (· != c.k) })).modWarp c.k
      (fun W => { W with watchdog := 0, quiet := P.gpNow.getD P.gpDone }) := by
    simp only [State.quiescent, hpart, hparts, hP]
  refine ⟨?_, ?_, ?_⟩
  · rw [hstep, hs]
    rfl
  · rw [hstep, modWarp_parts, State.modPart, mfind_mupdate_self, hparts, hP, Option.map_some, hfilter]
    rfl
  · rw [hstep]
    refine ⟨_, find_modWarp (s := s.modPart _ _) hV _, ?_⟩
    rw [hquiet.same]
    rfl

theorem readsOut_quietDue (s : State) (k n : Nat) (due : Warp → List Nat) :
    (s.modWarp k (fun W => { W with quietDue := due W })).readsOut k n = s.readsOut k n := by
  simp only [State.readsOut, modWarp_flights, modWarp_warps, mfind_mupdate_self, Option.map_map]
  rfl

/-- With no read outstanding the point of a QSP is passed at once (R292). -/
theorem quietPoint_passed {c : Ctx} {P : Partition} (h : mfind c.s.warps c.k = some c.W) (hreads : c.s.readsOut c.k c.s.nextId = false)
    (hP : mfind c.s.parts (c.s.partOfWarp c.W) = some P) : c.Passed P (c.s.quietPoint c.k) := by
  let s₁ := c.s.modWarp c.k (fun W => { W with quietDue := c.s.nextId :: W.quietDue })
  have hwarp : s₁.warp c.k = { c.W with quietDue := c.s.nextId :: c.W.quietDue } := warp_modWarp h _
  have hdue : (c.s.nextId :: c.W.quietDue).filter (fun n => s₁.readsOut c.k n) ≠ c.s.nextId :: c.W.quietDue := fun heq => by
    have hmem : c.s.nextId ∈ (c.s.nextId :: c.W.quietDue).filter (fun n => s₁.readsOut c.k n) := by
      rw [heq]
      exact List.mem_cons_self
    have hout := (List.mem_filter.1 hmem).2
    rw [show s₁.readsOut c.k c.s.nextId = _ from readsOut_quietDue _ _ _ _, hreads] at hout
    cases hout
  have hpoint : c.s.quietPoint c.k = (s₁.modWarp c.k (fun W => { W with
      quietDue := (c.s.nextId :: c.W.quietDue).filter (fun n => s₁.readsOut c.k n) })).quiescent c.k := by
    show s₁.quietCheck c.k = _
    rw [State.quietCheck]
    simp only [hwarp, hdue, if_false]
  rw [hpoint]
  exact quiescent_passed hP rfl (find_modWarp (find_modWarp h _) _) rfl

/-! ### Where the gang goes on -/

theorem onward_pc {c : Ctx} {W : Warp} {i : Nat} (hi : i ∈ maskSlices c.m) (hlt : i < W.slices.length) : ((c.onward W).slice i).pc = c.next := by
  rw [slice_onward, slice_onSlices W _ _ hlt, if_pos (mem_maskSlices.1 hi)]

section
variable {c : Ctx} {P : Partition} {t : State} (h : c.Passed P t)
include h

/-- What a quiescent point leaves of a warp that goes on, from whichever state its context now stands in. -/
theorem Ctx.Passed.goes {d : Ctx} (hk : d.k = c.k) (hm : d.m = c.m) (hnext : d.next = c.next) : let u := d.retire false t
    mfind u.parts (c.s.partOfWarp c.W) = some (P.passedBy c.k) ∧
      (∀ i ∈ maskSlices c.m, i < c.W.slices.length → ((u.warp c.k).slice i).pc = c.next) ∧
      (u.warp c.k).regs = c.W.regs ∧ u.mem = c.s.mem ∧ u.flights = c.s.flights := by
  obtain ⟨V, hV, hquiet⟩ := h.warp
  have hwarp : (d.retire false t).warp c.k = d.onward V := by
    rw [retire_false, hk]
    exact warp_modWarp hV _
  refine ⟨h.part, fun i hi hlt => ?_, ?_, ?_, ?_⟩
  · rw [hwarp, ← hnext]
    exact onward_pc (hm ▸ hi) (by rwa [hquiet.slices])
  · rw [hwarp]
    exact hquiet.regs
  · show t.mem = c.s.mem
    rw [h.rest]
  · show t.flights = c.s.flights
    rw [h.rest]

/-- What it leaves of a warp that stops. -/
theorem Ctx.Passed.waits (why : Cond) :
    mfind (c.stop t why).parts (c.s.partOfWarp c.W) = some (P.passedBy c.k) ∧
      ∀ i ∈ maskSlices c.m, i < c.W.slices.length → ((c.stop t why).warp c.k).slice i = { c.W.slice i with wait := some why, woken := false } := by
  obtain ⟨V, hV, hquiet⟩ := h.warp
  refine ⟨h.part, fun i hi hlt => ?_⟩
  have hslices := hquiet.slices
  have hslice : V.slice i = c.W.slice i := by rw [Warp.slice, hslices, Warp.slice]
  have hwarp : (c.stop t why).warp c.k = { (V.onSlices c.m (fun x => { x with wait := some why, woken := false })) with
    fresh := V.fresh && why.early } := warp_modWarp hV _
  rw [hwarp, ← hslice]
  show (V.onSlices c.m (fun x => { x with wait := some why, woken := false })).slice i = _
  rw [slice_onSlices V c.m _ (by rwa [hslices]), if_pos (mem_maskSlices.1 hi)]

end

/-! ### QSP and GPWAIT (R248) -/

theorem quietWait_none {c : Ctx} (hwake : c.wake = none) (hreads : c.s.readsOut c.k c.s.nextId = false) : c.quietWait = none := by
  simp [Ctx.quietWait, hwake, Ctx.acquireWait, hreads]

theorem ready_qsp {c : Ctx} (hp : c.Plain) : kitQsp.Ready c := hp.ready rfl rfl rfl rfl (missing_nil c) rfl

theorem ready_gpreq {c : Ctx} (hp : c.Plain) : kitGpreq.Ready c := hp.ready rfl rfl rfl rfl (missing_nil c) rfl

theorem lets_qsp {c : Ctx} (hp : c.Plain) (hwake : c.wake = none) (hreads : c.s.readsOut c.k c.s.nextId = false) : kitQsp.Lets c c.s :=
  (ready_qsp hp).lets (by simp [kitQsp, quietWait_none hwake hreads]) rfl

theorem ready_gpwait {c : Ctx} (hp : c.Plain) : kitGpwait.Ready c := hp.ready rfl rfl rfl rfl (missing_nil c) rfl

/-- A GPWAIT with no read outstanding passes a quiescent point, and then waits for its number (R248). -/
theorem wait_gpwait {c : Ctx} {P : Partition} (hc : c.Clear) (hp : c.Plain) (hlanes : c.lanes ≠ []) (hwake : c.wake = none)
    (hreads : c.s.readsOut c.k c.s.nextId = false) (hP : mfind c.s.parts (c.s.partOfWarp c.W) = some P) :
    kitGpwait.wait c = (c.s.quiescent c.k,
      if min (c.a64 c.lead).toNat P.gpMax ≤ P.gpDone then none else some (.grace (min (c.a64 c.lead).toNat P.gpMax))) := by
  have hnumber : c.graceNumber = min (c.a64 c.lead).toNat P.gpMax := by rw [Ctx.graceNumber, hP, Option.map_some, Option.getD_some]
  have hdone : (c.s.quiescent c.k).gpDone (c.s.partOfWarp c.W) = P.gpDone := by
    rw [State.gpDone, (quiescent_passed hP rfl hc.listed rfl).part]
    rfl
  simp only [kitGpwait, acts_of_lanes hlanes, hwake, quietWait_none hwake hreads, hp.direct, hdone, hnumber, Bool.not_true, Bool.false_eq_true, if_false]
  split <;> rfl

/-! ### GPREQ (R107, R248) -/

theorem foldl_modDie_only {α : Type} (f : α → Nat) (g : α → Die → Die) (l : List α) (s : State) :
    ∃ ds, l.foldl (fun s x => s.modDie (f x) (g x)) s = { s with dies := ds } := by
  induction l generalizing s with
  | nil => exact ⟨s.dies, rfl⟩
  | cons x l ih =>
    obtain ⟨ds, h⟩ := ih (s.modDie (f x) (g x))
    exact ⟨ds, h⟩

/-- The start of a grace period (R107). -/
theorem graceStart_some {s : State} {p : Nat} {P : Partition} (hP : mfind s.parts p = some P) : ∃ ds, s.graceStart p =
    { s.modPart p (fun P' => { P' with gpNow := some (P.gpDone + 1), gpWait := s.graceWarps p, gpNext := false }) with dies := ds } := by
  obtain ⟨ds, h⟩ := foldl_modDie_only (fun d : Nat => d) (fun _ D => { D with dfree := D.dfree.map (fun e =>
    if e.2.2.1 = 0 && e.2.2.2.1 == p then (e.1, e.2.1, P.gpDone + 1, e.2.2.2) else e) }) P.dies
    (s.modPart p (fun P' => { P' with gpNow := some (P.gpDone + 1), gpWait := s.graceWarps p, gpNext := false }))
  refine ⟨ds, ?_⟩
  rw [← h]
  simp only [State.graceStart, hP]

/-- The number that a GPREQ hands out (R107). -/
def Partition.nextGrace (P : Partition) : Nat := if P.gpNow = none then P.gpDone + 1 else P.gpDone + 2

/-- A partition after a GPREQ (R107). -/
structure Partition.Requested (P Q : Partition) : Prop where
  done    : Q.gpDone = P.gpDone
  max     : Q.gpMax = max P.gpMax P.nextGrace
  starts  : P.gpNow = none → Q.gpNow = some (P.gpDone + 1)
  follows : ∀ x, P.gpNow = some x → Q.gpNow = some x ∧ Q.gpNext = true

theorem gpRequest_requested {s : State} {p : Nat} {P : Partition} (hP : mfind s.parts p = some P) :
    ∃ u, s.gpRequest p = (u, BitVec.ofNat 64 P.nextGrace) ∧ u = { s with parts := u.parts, dies := u.dies } ∧
      ∃ Q, mfind u.parts p = some Q ∧ P.Requested Q := by
  cases hnow : P.gpNow with
  | none =>
    have hno : P.nextGrace = P.gpDone + 1 := if_pos hnow
    obtain ⟨ds, hstart⟩ := graceStart_some hP
    refine ⟨(s.graceStart p).modPart p (fun P => { P with gpMax := max P.gpMax (P.gpDone + 1) }), ?_, ?_,
      { P with gpNow := some (P.gpDone + 1), gpWait := s.graceWarps p, gpNext := false, gpMax := max P.gpMax (P.gpDone + 1) }, ?_, ?_⟩
    · simp only [State.gpRequest, hP, hnow, hno]
    · rw [hstart]
      rfl
    · rw [hstart]
      simp only [State.modPart, mfind_mupdate_self, hP, Option.map_some]
    · exact ⟨rfl, by rw [hno], fun _ => rfl, fun x hx => (Option.some_ne_none x (hx.symm.trans hnow)).elim⟩
  | some g =>
    have hno : P.nextGrace = P.gpDone + 2 := if_neg (by rw [hnow]; exact nofun)
    refine ⟨s.modPart p (fun P => { P with gpNext := true, gpMax := max P.gpMax (P.gpDone + 2) }), ?_, rfl,
      { P with gpNext := true, gpMax := max P.gpMax (P.gpDone + 2) }, ?_, ?_⟩
    · simp only [State.gpRequest, hP, hnow, hno]
    · simp only [State.modPart, mfind_mupdate_self, hP, Option.map_some]
    · exact ⟨rfl, by rw [hno], fun h => (Option.some_ne_none g (hnow.symm.trans h)).elim, fun x hx => ⟨hx, rfl⟩⟩

/-! ### The statement -/

/-- Settles O33: QSP and GPWAIT pass a quiescent point by `quiescent_passed`, GPREQ's number is `nextGrace`. -/
theorem gracePeriods : Obligations.GracePeriods := by
  unfold Obligations.GracePeriods
  refine ⟨fun P => ?_, fun P => ?_, fun P => ?_, fun P => ?_⟩
  · refine runs_of (fun _ => rfl) fun c _ _ hc ⟨⟨hp, hlanes, hwake, hreads⟩, hP⟩ => ⟨lets_qsp hp hwake hreads, ?_⟩
    have heff : kitQsp.eff c = c.s.quietPoint c.k := by simp [kitQsp, acts_of_lanes hlanes, hp.direct]
    have hgoes := (quietPoint_passed hc.listed hreads hP).goes (d := c) rfl rfl rfl
    rw [← heff] at hgoes
    exact hgoes
  · refine runs_of (fun _ => rfl) fun c _ _ hc ⟨hp, hlanes, hP⟩ => ⟨(ready_gpreq hp).lets rfl rfl, ?_⟩
    obtain ⟨u, hreq, hu, Q, hQ, hdone, hmax, hstarts, hfollows⟩ := gpRequest_requested hP
    let d := c.w.d.toNat
    let no := BitVec.ofNat 64 P.nextGrace
    have heff : kitGpreq.eff c = u.launchFlight (c.result 7 (pairVals d (c.lanes.map (fun i => (i, no)))) [d, d + 1]) := by
      simp only [kitGpreq, acts_of_lanes hlanes, hp.direct, hreq, Bool.not_true, Bool.false_eq_true, if_false]
      rfl
    have hsends : c.Sends (c.retire false (kitGpreq.eff c)) (c.result 7 (pairVals d (c.lanes.map (fun i => (i, no)))) [d, d + 1]) butPools := by
      rw [heff]
      refine sends_launch rfl ?_ ?_ ?_ ?_ fun ws fs n => ?_
      all_goals rw [hu]
      · exact hc.listed
      · exact fun _ _ => rfl
      · rfl
    refine ⟨⟨_, fun r i v => ?_, hsends⟩, Q, ?_, hdone, hmax, hstarts, hfollows⟩
    · rw [mem_pairVals]
      constructor
      · rintro ⟨x, hx, h⟩
        obtain ⟨j, hj, he⟩ := List.mem_map.1 hx
        cases he
        exact ⟨hj, h⟩
      · rintro ⟨hi, h⟩
        exact ⟨no, List.mem_map_of_mem hi, h⟩
    · show mfind (c.retire false (kitGpreq.eff c)).parts _ = _
      rw [heff]
      exact hQ
  · refine runs_moved (fun _ => rfl) fun c _ hc ⟨⟨hp, hlanes, hwake, hreads⟩, hP, hpast⟩ => ?_
    have hwait := wait_gpwait hc hp hlanes hwake hreads hP
    rw [if_pos hpast] at hwait
    obtain ⟨hpart, hpc, hregs, hmem, -⟩ := (quiescent_passed hP rfl hc.listed rfl).goes (d := c.moved (c.s.quiescent c.k)) rfl rfl rfl
    exact ⟨_, (ready_gpwait hp).lets hwait rfl, hpart, hpc, hregs, hmem⟩
  · refine runs_stops (fun _ => rfl) fun c _ hc ⟨⟨hp, hlanes, hwake, hreads⟩, hP, hfuture⟩ => ?_
    have hwait := wait_gpwait hc hp hlanes hwake hreads hP
    rw [if_neg (Nat.not_le.2 hfuture)] at hwait
    exact ⟨_, _, ready_gpwait hp, hwait, (quiescent_passed hP rfl hc.listed rfl).waits _⟩

end Sys2Proof.Machine

/-! Pools (R108 to R110, R249, R250): deferred frees, pops and pushes. -/

namespace Sys2Proof.Machine

/-! ### The queue of deferred frees (R108) -/

/-- A die's deferred frees: their addresses and pools. -/
def Die.frees (D : Die) : List (DWord × Nat) := D.dfree.map (fun e => (e.1, e.2.1))

/-- What the lanes of a DFREE are answered where `room` entries have room. -/
def dfreeAnswers (room : Nat) (l : List (Nat × DWord × Nat)) : List (Nat × Word) :=
  (l.take room).map (fun x => (x.1, 0xFFFFFFFF)) ++ (l.drop room).map (fun x => (x.1, 0))

theorem dfreeAnswers_zipIdx (room d : Nat) (lanes : List Nat) (va : Nat → DWord) (pool : Nat → Nat) :
    (dfreeAnswers room (lanes.map (fun i => (i, va i, pool i)))).map (fun x => (d, x.1, x.2)) =
      lanes.zipIdx.map (fun x => (d, x.1, if x.2 < room then 0xFFFFFFFF else 0)) := by
  refine List.ext_getElem (by simp [dfreeAnswers]; omega) fun n h _ => ?_
  simp only [dfreeAnswers, List.length_map, List.length_append, List.length_take, List.length_drop] at h
  simp only [dfreeAnswers, List.getElem_map, List.getElem_append, List.getElem_take, List.getElem_drop, List.getElem_zipIdx, List.length_map,
    List.length_take, Nat.zero_add]
  by_cases hn : n < room
  · rw [dif_pos (by omega), if_pos hn]
  · simp only [dif_neg (show ¬ n < min room lanes.length by omega), if_neg hn, show room + (n - min room lanes.length) = n by omega]

/-- Blocks enter the queue in turn while it has room. -/
theorem dfreeGo_queues (die p svc : Nat) (l : List (Nat × DWord × Nat)) (s : State) {room : Nat} (hroom : room = 4096 - (s.die die).dfree.length) :
    ∃ t, s.dfreeGo die p svc l = (t, dfreeAnswers room l) ∧ t = { s with dies := t.dies } ∧
      (t.die die).frees = (s.die die).frees ++ (l.take room).map (fun x => (x.2.1, x.2.2)) := by
  suffices H : ∀ (acc : List (Nat × Word)), ∃ t, l.foldl (fun acc x =>
      if dfreeLimit ≤ (acc.1.die die).dfree.length then (acc.1, acc.2 ++ [(x.1, 0)])
      else (acc.1.modDie die (fun D => { D with dfree := D.dfree ++ [(x.2.1, x.2.2, 0, p, svc)] }), acc.2 ++ [(x.1, 0xFFFFFFFF)])) (s, acc) =
        (t, acc ++ dfreeAnswers room l) ∧ t = { s with dies := t.dies } ∧
      (t.die die).frees = (s.die die).frees ++ (l.take room).map (fun x => (x.2.1, x.2.2)) from H []
  induction l generalizing s room with
  | nil => exact fun acc => ⟨s, by simp [dfreeAnswers], rfl, by simp⟩
  | cons x l ih =>
    intro acc
    cases room with
    | zero =>
      obtain ⟨t, hgo, hrest, hfrees⟩ := ih s hroom (acc ++ [(x.1, 0)])
      refine ⟨t, ?_, hrest, hfrees⟩
      rw [List.foldl_cons, if_pos (show dfreeLimit ≤ (s.die die).dfree.length by rw [dfreeLimit]; omega), hgo, List.append_assoc]
      rfl
    | succ room =>
      let u := s.modDie die (fun D => { D with dfree := D.dfree ++ [(x.2.1, x.2.2, 0, p, svc)] })
      have hdie : u.die die = { s.die die with dfree := (s.die die).dfree ++ [(x.2.1, x.2.2, 0, p, svc)] } := die_modDie_self _ _ _
      obtain ⟨t, hgo, hrest, hfrees⟩ := ih u (room := room) (by rw [hdie, List.length_append, List.length_singleton]; omega) (acc ++ [(x.1, 0xFFFFFFFF)])
      refine ⟨t, ?_, hrest.trans rfl, ?_⟩
      · rw [List.foldl_cons, if_neg (show ¬ dfreeLimit ≤ (s.die die).dfree.length by rw [dfreeLimit]; omega), hgo, List.append_assoc]
        rfl
      · rw [hfrees, hdie, Die.frees, Die.frees, List.map_append, List.append_assoc]
        rfl

/-- The start of a grace period gives waiting entries their number, and changes no entry's block (R108). -/
theorem graceStart_frees (s : State) (p d : Nat) : ((s.graceStart p).die d).frees = (s.die d).frees := by
  have hfold (g : Nat) (ds : List Nat) (s : State) : ((ds.foldl (fun s d => s.modDie d (fun D => { D with dfree := D.dfree.map (fun e =>
      if e.2.2.1 = 0 && e.2.2.2.1 == p then (e.1, e.2.1, g, e.2.2.2) else e) })) s).die d).frees = (s.die d).frees := by
    induction ds generalizing s with
    | nil => rfl
    | cons x ds ih =>
      refine (ih _).trans ?_
      by_cases hd : d = x
      · subst hd
        rw [die_modDie_self, Die.frees, Die.frees, List.map_map]
        refine List.map_congr_left fun e _ => ?_
        rw [Function.comp_apply]
        split <;> rfl
      · rw [die_modDie_ne _ _ hd]
  unfold State.graceStart
  split
  · rfl
  · exact hfold _ _ _

theorem dfreeStart_rest (s : State) (die p : Nat) : s.dfreeStart die p = { s with parts := (s.dfreeStart die p).parts, dies := (s.dfreeStart die p).dies } := by
  unfold State.dfreeStart
  dsimp only
  split
  · cases hP : mfind s.parts p with
    | none =>
      rw [State.graceStart, hP]
    | some P =>
      obtain ⟨ds, h⟩ := graceStart_some hP
      rw [h]
      rfl
  · rfl

theorem dfreeStart_frees (s : State) (die p d : Nat) : ((s.dfreeStart die p).die d).frees = (s.die d).frees := by
  unfold State.dfreeStart
  dsimp only
  split
  · exact graceStart_frees s p d
  · rfl

/-- The effect of a DFREE (R108): its blocks are queued, and the answers are on their way. -/
theorem eff_dfree {c : Ctx} (hp : c.Plain) (hlanes : c.lanes ≠ []) : let room := 4096 - (c.s.die (c.W.core / 192)).dfree.length
    ∃ u : State, kitDfree.eff c = u.launchFlight
        (c.result 7 (c.lanes.zipIdx.map (fun x => (c.w.d.toNat, x.1, if x.2 < room then 0xFFFFFFFF else 0))) [c.w.d.toNat]) ∧
      u = { c.s with parts := u.parts, dies := u.dies } ∧ (u.die (c.W.core / 192)).frees =
        (c.s.die (c.W.core / 192)).frees ++ (c.lanes.take room).map (fun i => (c.a64 i, poolNo (c.b i))) := by
  obtain ⟨t, hgo, hrest, hfrees⟩ := dfreeGo_queues (c.W.core / 192) (c.s.partOfWarp c.W) c.W.svc c.dfreeEntries c.s rfl
  obtain ⟨ds, rfl⟩ : ∃ ds, t = { c.s with dies := ds } := ⟨_, hrest⟩
  refine ⟨State.dfreeStart { c.s with dies := ds } (c.W.core / 192) (c.s.partOfWarp c.W), ?_, dfreeStart_rest _ _ _, ?_⟩
  · rw [← dfreeAnswers_zipIdx _ _ _ c.a64 (fun i => poolNo (c.b i))]
    simp only [kitDfree, acts_of_lanes hlanes, hp.direct, hgo, Bool.not_true, Bool.false_eq_true, if_false]
    rfl
  · refine (dfreeStart_frees _ _ _ _).trans (hfrees.trans ?_)
    rw [Ctx.dfreeEntries, ← List.map_take, List.map_map]
    rfl

/-! ### Checks -/

theorem poolFaults_nil {c : Ctx} {pool : Nat → Nat} {va : Nat → Option DWord} (h : ∀ i ∈ c.lanes, c.poolFault i (pool i) (va i) = none) :
    c.lanes.filterMap (fun i => c.poolFault i (pool i) (va i)) = [] := List.filterMap_eq_nil_iff.2 h

/-! ### Pops (R109) -/

/-- No push of the warp is on its way. -/
def Ctx.NoPush (c : Ctx) : Prop := ∀ f ∈ c.s.flights, f.2.warp = c.k → ∀ a ∈ f.2.accs, ∀ p d, a.op ≠ .push p d

theorem wait_palloc {c : Ctx} {i : Nat} (hp : c.Plain) (hlanes : c.lanes = [i]) (hbusy : (c.s.die (c.W.core / 192)).poolBusy (poolNo (c.a i)) = false)
    (hpush : c.NoPush) : kitPalloc.wait c = (c.s, none) := by
  have hfind : (c.pallocLanes.map (·.2)).find? (c.s.die (c.W.core / 192)).poolBusy = none := by simp [Ctx.pallocLanes, hlanes, hbusy]
  simp only [kitPalloc, hfind, hp.direct, acts_of_lanes (c := c) (by simp [hlanes]), Bool.not_true, Bool.or_self, Bool.false_eq_true, if_false]
  refine if_neg fun h => ?_
  rw [List.any_eq_true] at h
  obtain ⟨f, hf, h⟩ := h
  rw [Bool.and_eq_true, beq_iff_eq, List.any_eq_true] at h
  obtain ⟨hk, a, ha, hop⟩ := h
  split at hop
  · next p d heq => exact hpush f hf hk a ha p d heq
  · cases hop

/-- The blocks that the one lane of a PALLOC would pop. -/
theorem poolChain_single (s : State) (core queue die n : Nat) : s.poolChain core queue die [n] =
    if mget 0 (s.die die).poolHead n = 0 then [] else [(mget 0 (s.die die).poolHead n).toNat] := by
  have hempty : (mfind (([], []) : NMap DWord × List Nat).1 n).getD (mget 0 (s.die die).poolHead n) = mget 0 (s.die die).poolHead n := rfl
  simp only [State.poolChain, List.foldl_cons, List.foldl_nil]
  by_cases h : mget 0 (s.die die).poolHead n = 0
  · rw [if_pos (hempty.trans h), if_pos h]
  · rw [if_neg (fun h' => h (hempty.symm.trans h')), if_neg h]
    split <;> rfl

theorem ready_palloc {c : Ctx} {i : Nat} (hp : c.Plain) (hlanes : c.lanes = [i])
    (hmay : ∀ i ∈ c.lanes, c.poolFault i (poolNo (c.a i)) none = none)
    (hpage : mget 0 (c.s.die (c.W.core / 192)).poolHead (poolNo (c.a i)) ≠ 0 →
      ∃ t, c.trans (mget 0 (c.s.die (c.W.core / 192)).poolHead (poolNo (c.a i))).toNat = some t) : kitPalloc.Ready c := by
  refine hp.ready rfl rfl (poolFaults_nil hmay) rfl (missing_cached fun a ha => ?_) rfl
  have ha' : a ∈ c.s.poolChain c.W.core c.W.queue (c.W.core / 192) [poolNo (c.a i)] := by
    simpa [kitPalloc, hp.direct, Ctx.pallocLanes, hlanes] using ha
  rw [poolChain_single] at ha'
  split at ha'
  · cases ha'
  · next hne =>
    rw [List.mem_singleton.1 ha']
    exact hpage hne

/-- The effect of a PALLOC of one lane. -/
theorem eff_palloc {c : Ctx} {i : Nat} (hp : c.Plain) (hlanes : c.lanes = [i]) {t : State} {head : DWord}
    (hpop : c.s.poolPop c.W.core c.W.svc c.W.queue (poolNo (c.a i)) = (t, head)) : kitPalloc.eff c =
      t.launchFlight (c.result 7 [(c.w.d.toNat, i, loHalf head), (c.w.d.toNat + 1, i, hiHalf head)] [c.w.d.toNat, c.w.d.toNat + 1]) := by
  have hgo : c.s.pallocGo c.W c.pallocLanes = (t, [(i, head)]) := by
    simp only [State.pallocGo, Ctx.pallocLanes, hlanes, List.map_cons, List.map_nil, List.foldl_cons, List.foldl_nil, hpop, List.nil_append]
  simp only [kitPalloc, acts_of_lanes (c := c) (by simp [hlanes]), hp.direct, hgo, Bool.not_true, Bool.false_eq_true, if_false]
  rfl

theorem poolPop_empty {s : State} {core svc queue pool : Nat} (h : mget 0 (s.die (core / 192)).poolHead pool = 0) :
    s.poolPop core svc queue pool = (s, 0) := by
  simp only [State.poolPop, h, if_true]

/-- A die whose pool has given its head: the list starts at `link` (R109). -/
def Die.popped (D : Die) (pool : Nat) (link : DWord) : Die := { D with poolHead := mput 0 D.poolHead pool link }.setFree pool (· - 1)

theorem poolHead_popped (D : Die) (pool : Nat) (link : DWord) : mget 0 (D.popped pool link).poolHead pool = link := mget_mput_self D.poolHead pool link

/-- What popping a block leaves (R109). -/
structure Popped (s t : State) (die pool : Nat) (tr : Trans) (va : DWord) : Prop where
  rest  : t = { s with dies := t.dies, mem := t.mem, host := t.host, l2 := t.l2, uses := t.uses, badSectors := t.badSectors,
                       badHbm := t.badHbm, kept := t.kept, fresh := s.fresh + 1 }
  bytes : ∀ x, (x < tr.phys va.toNat ∨ tr.phys va.toNat + 8 ≤ x) → t.byteAt x = s.byteAt x
  link  : mget 0 (t.die die).poolHead pool = BitVec.ofNat 64 (leNat (s.bytesAt (tr.phys va.toNat) 8))

theorem poolPop_popped {s : State} {core svc queue pool : Nat} {head : DWord} {tr : Trans} (hplain : PlainMem s)
    (hhead : mget 0 (s.die (core / 192)).poolHead pool = head) (hne : head ≠ 0) (htr : s.cached core queue head.toNat = some tr) (hrdo : tr.rdo = false)
    (hhome : ∀ j < 8, s.homeless (tr.phys head.toNat + j) = false) :
    ∃ t, s.poolPop core svc queue pool = (t, head) ∧ Popped s t (core / 192) pool tr head := by
  let link := BitVec.ofNat 64 (leNat (s.bytesAt (tr.phys head.toNat) 8))
  let u := s.modDie (core / 192) (fun D => D.popped pool link)
  let free := (List.range 8).map (Config.freeByte u.fresh)
  have hlook : s.lookFor core queue head.toNat = some tr := by rw [State.lookFor, htr]
  have hstep : MemoryStep s u := step_modDie _ _ (fun _ => rfl) (fun _ => rfl)
  have hsame := leaves_same hplain hstep rfl rfl rfl
  have hlen : free.length = 8 := by simp [free]
  have hput := homePutFor_leaves hsame.plain svc (a := tr.phys head.toNat) (bs := free) (by omega)
    fun j hj => (hstep.homeless _).trans (hhome j (hlen ▸ hj))
  have honly := homePutFor_onlyMemory u svc (tr.phys head.toNat) free
  have hpop : s.poolPop core svc queue pool = ((u.homePutFor svc (tr.phys head.toNat) free).freshen, head) := by
    simp only [State.poolPop, hhead, hne, if_false, hlook, hrdo, Bool.false_eq_true]
    rfl
  generalize u.homePutFor svc (tr.phys head.toNat) free = v at hput honly hpop
  refine ⟨v.freshen, hpop, ?_, fun x hx => ?_, ?_⟩
  · exact congrArg State.freshen (hstep.trans hput.step).rest
  · exact (hput.bytes x).trans ((overlay_out (by rwa [hlen])).trans (hsame.bytes x))
  · show mget 0 (v.die (core / 192)).poolHead pool = link
    rw [honly.die]
    show mget 0 (u.die (core / 192)).poolHead pool = link
    rw [die_modDie_self, poolHead_popped]

/-! ### Pushes -/

/-- The effect of a PFREE sends its blocks' pushes (R250). -/
theorem eff_pfree {c : Ctx} (hc : c.Clear) (hp : c.Plain) (hlanes : c.lanes ≠ []) (hreach : c.Reach c.a64 1 true) : kitPfree.eff c =
    (c.s.modWarp c.k (fun _ => c.W)).launchFlight
      { warp := c.k, cls := 1, inOrder := true, accs := c.lanes.map (c.access 8 0 c.a64 (fun i => .push (poolNo (c.b i)) (c.W.core / 192))) } := by
  have hdirect : (c.s.modWarp c.k (fun _ => c.W)).buffered c.W = false := hp.direct
  simp only [kitPfree, acts_of_lanes hlanes, hreach.accesses, noteWrites_single hc.listed hp.single, hdirect, Bool.not_true, Bool.false_eq_true, if_false]
  rfl

/-! ### The statement -/

/-- Settles O34: DFREE by the queue's `dfreeGo_queues`, PALLOC by `poolPop_popped`, and PFREE by its flight. -/
theorem pools : Obligations.Pools := by
  unfold Obligations.Pools
  refine ⟨?_, fun i => ?_, fun i head tr => ?_, ?_⟩
  · refine runs_of (fun _ => rfl) fun c _ _ hc ⟨hp, hlanes, hreach, hmay⟩ => ⟨?_, ?_⟩
    · exact (hp.ready (K := kitDfree) rfl rfl (poolFaults_nil hmay) rfl hreach.pages (hreach.wprot 8)).lets rfl rfl
    · obtain ⟨u, heff, hu, hfrees⟩ := eff_dfree hp hlanes
      refine ⟨?_, ?_⟩
      · show c.Sends (c.retire false (kitDfree.eff c)) _ butPools
        rw [heff]
        refine sends_launch rfl ?_ ?_ ?_ ?_ fun ws fs n => ?_
        all_goals rw [hu]
        · exact hc.listed
        · exact fun _ _ => rfl
        · rfl
      · show ((c.retire false (kitDfree.eff c)).die (c.W.core / 192)).frees = _
        rw [heff]
        exact hfrees
  · refine runs_of (fun _ => rfl) fun c _ _ hc ⟨hp, hlanes, hmay, hbusy, hempty, hpush⟩ => ⟨?_, ?_⟩
    · exact (ready_palloc hp hlanes hmay fun h => absurd hempty h).lets (wait_palloc hp hlanes hbusy hpush) rfl
    · show c.Sends (c.retire false (kitPalloc.eff c)) _
      rw [eff_palloc hp hlanes (poolPop_empty hempty)]
      exact sends_launch rfl hc.listed (fun _ _ => rfl) rfl rfl fun _ _ _ => rfl
  · refine runs_of (fun _ => rfl) fun c _ _ hc ⟨hp, hlanes, hmay, hbusy, hhead, hne, _, _, hmode, htr, hrdo, hplain, hhome, hpush⟩ => ⟨?_, ?_⟩
    · refine (ready_palloc hp hlanes hmay fun _ => ⟨tr, ?_⟩).lets (wait_palloc hp hlanes hbusy hpush) rfl
      have hhead' : mget 0 (c.s.die (c.W.core / 192)).poolHead (poolNo (c.a i)) = head := hhead
      rw [hhead', Ctx.trans, hmode]
      exact htr
    · obtain ⟨t, hpop, hpopped⟩ := poolPop_popped (svc := c.W.svc) hplain hhead hne htr hrdo hhome
      have heff := eff_palloc hp hlanes hpop
      refine ⟨?_, fun x hx => ?_, ?_⟩
      · show c.Sends (c.retire false (kitPalloc.eff c)) _ butBlock
        rw [heff]
        refine sends_launch rfl ?_ ?_ ?_ ?_ fun ws fs n => ?_
        all_goals rw [hpopped.rest]
        · exact hc.listed
        · exact fun _ _ => rfl
        · rfl
      · show (c.retire false (kitPalloc.eff c)).byteAt x = _
        rw [heff]
        exact hpopped.bytes x hx
      · show mget 0 ((c.retire false (kitPalloc.eff c)).die _).poolHead _ = _
        rw [heff]
        exact hpopped.link
  · refine runs_of (fun _ => rfl) fun c _ _ hc ⟨hp, hlanes, hroom, hreach, hmay⟩ => ⟨?_, ?_⟩
    · exact (hp.ready (K := kitPfree) rfl rfl (poolFaults_nil hmay) rfl hreach.pages (hreach.wprot 8)).lets (room_plain hroom) rfl
    · show c.Sends (c.retire false (kitPfree.eff c)) _
      rw [eff_pfree hc hp hlanes hreach]
      exact sends_launch rfl (find_modWarp hc.listed _) (fun _ hj => find_modWarp_ne _ _ hj) rfl rfl fun _ _ _ => rfl

end Sys2Proof.Machine

/-! Stores at their homes on behalf of a warp (R79, R92): what a run of them leaves of memory. -/

namespace Sys2Proof.Machine

theorem byteAt_modWarp (s : State) (k : Nat) (f : Warp → Warp) (a : Nat) : (s.modWarp k f).byteAt a = s.byteAt a := rfl

theorem byteAt_launchFlight (s : State) (f : Flight) (a : Nat) : (s.launchFlight f).byteAt a = s.byteAt a := rfl

theorem byteAt_modNode (s : State) (g n : Nat) (f : Node → Node) (a : Nat) : (s.modNode g n f).byteAt a = s.byteAt a := rfl

theorem byteAt_retire (c : Ctx) (s : State) (a : Nat) : (c.retire false s).byteAt a = s.byteAt a := by rw [retire_false, byteAt_modWarp]

theorem bytesAt_congr {s t : State} (h : ∀ a, t.byteAt a = s.byteAt a) (a n : Nat) : t.bytesAt a n = s.bytesAt a n :=
  List.map_congr_left fun _ _ => h _

/-- Stores at their homes have made memory's bytes `f`; caches, messages to other packages and the memory itself apart, nothing has changed. -/
structure Wrote (s t : State) (f : Nat → Byte) : Prop where
  rest  : t = { s with dies := t.dies, mem := t.mem, host := t.host, l2 := t.l2, uses := t.uses, badSectors := t.badSectors,
                       badHbm := t.badHbm, copies := t.copies, kept := t.kept, sent := t.sent }
  plain : PlainMem t
  bytes : ∀ x, t.byteAt x = f x

theorem Wrote.refl {s : State} (h : PlainMem s) : Wrote s s s.byteAt := ⟨rfl, h, fun _ => rfl⟩

theorem Wrote.trans {s t u : State} {f g : Nat → Byte} (h : Wrote s t f) (h' : Wrote t u g) : Wrote s u g :=
  ⟨h'.rest.trans (by rw [h.rest]), h'.plain, h'.bytes⟩

theorem Wrote.homeless {s t : State} {f : Nat → Byte} (h : Wrote s t f) (a : Nat) : t.homeless a = s.homeless a := by
  rw [h.rest]
  rfl

/-- The bytes that were written read back. -/
theorem Wrote.read {s t : State} {f : Nat → Byte} {pa : Nat} {bs : List Byte} (h : Wrote s t (overlay f pa bs)) : t.bytesAt pa bs.length = bs := by
  refine List.ext_getElem (by simp [State.bytesAt]) fun j _ hj => ?_
  simp only [State.bytesAt, List.getElem_map, List.getElem_range, h.bytes, overlay_in _ _ hj]
  simp [hj]

/-- Which warps there are does not matter to memory. -/
theorem Wrote.withWarps {s t : State} {f : Nat → Byte} (h : Wrote s t f) (ws : NMap Warp) : Wrote { s with warps := ws } { t with warps := ws } f where
  rest := congrArg (fun u : State => { u with warps := ws }) h.rest
  plain := ⟨h.plain.ranges, h.plain.views, h.plain.home, h.plain.whole, h.plain.raw, h.plain.clean⟩
  bytes := h.bytes

/-- An address whose translation is cached lies where it lay. -/
theorem Wrote.physOf {s t : State} {f : Nat → Byte} (h : Wrote s t f) {queue va pa : Nat}
    (hva : (s.cached (s.queueCore queue) queue va).map (fun t => t.phys va) = some pa) : t.physOf queue va = some pa := by
  have hcached : t.cached (t.queueCore queue) queue va = s.cached (s.queueCore queue) queue va := by
    rw [h.rest]
    rfl
  obtain ⟨tr, htr, hpa⟩ := Option.map_eq_some_iff.1 hva
  rw [State.physOf, State.look, State.lookFor, hcached, htr, Option.map_some, hpa]

/-- A store's access at its home. -/
theorem atHome_wrote {s : State} (hp : PlainMem s) (core svc : Nat) {a : Access} {bs : List Byte} (hop : a.op = .write bs) (hlen : bs.length ≤ 128)
    (hhome : ∀ j < bs.length, s.homeless (a.pa + j) = false) : Wrote s (s.atHome core svc a).1 (overlay s.byteAt a.pa bs) := by
  obtain ⟨g, hhomed, -⟩ := atHome_write s core svc hop
  obtain ⟨sent, hask⟩ : ∃ l, s.askFar a.pa g = { s with sent := l } := ⟨_, askFar_rest _ _ _⟩
  have hput := homePutFor_leaves (hp.aside s.flights sent) svc (a := a.pa) hlen hhome
  rw [hhomed, hask]
  generalize State.homePutFor { s with sent := sent } svc a.pa bs = u at hput
  obtain ⟨bad, hclear⟩ : ∃ l, u.clearPoison a.pa bs.length = { u with badSectors := l } := by
    unfold State.clearPoison
    split
    · exact ⟨u.badSectors, rfl⟩
    · exact ⟨_, rfl⟩
  obtain ⟨copies, hsnoop⟩ : ∃ l, State.storeSnoop { u with badSectors := bad } core a.pa bs = { u with badSectors := bad, copies := l } :=
    ⟨_, storeSnoop_rest _ _ _ _⟩
  rw [hclear, hsnoop]
  refine ⟨?_, ?_, hput.bytes⟩
  · exact congrArg (fun v : State => { v with badSectors := bad, copies := copies, sent := u.sent }) hput.step.rest
  · exact ⟨hput.plain.ranges, hput.plain.views, hput.plain.home, hput.plain.whole, hput.plain.raw, hput.plain.clean⟩

/-! ### A run of bytes at virtual addresses (R131) -/

/-- The part of a run of bytes that lies in the j-th sector it touches. -/
def sectorPart (va n j : Nat) : Nat × Nat :=
  let lo := max va (va / 32 * 32 + 32 * j)
  (lo, min (va + n) (va / 32 * 32 + 32 * (j + 1)) - lo)

theorem cutSectors_eq (va : Nat) {n : Nat} (h : n ≠ 0) : cutSectors va n = (List.range ((va % 32 + n + 31) / 32)).map (sectorPart va n) := if_neg h

/-- One sector's part of a walker's write, with the completion times so far. -/
def putSector (queue svc core va : Nat) (bs : List Byte) (acc : State × DWord × DWord) (r : Nat × Nat) : State × DWord × DWord :=
  match acc.1.physOf queue r.1 with
  | none => acc
  | some pa =>
    let x := acc.1.atHome core svc { lane := 0, va := BitVec.ofNat 64 r.1, pa := pa, n := r.2, op := .write ((bs.drop (r.1 - va)).take r.2) }
    (x.1, gwctMax acc.2.1 x.2.gwct, gwctMax acc.2.2 x.2.gwctd)

theorem walkerPut_eq (s : State) (queue svc core va : Nat) (bs : List Byte) :
    s.walkerPut queue svc core va bs = (cutSectors va bs.length).foldl (putSector queue svc core va bs) (s, 0, 0) := rfl

section
variable {s : State} {queue svc core va pa : Nat} {bs : List Byte}
  (hphys : ∀ j < bs.length, (s.cached (s.queueCore queue) queue (va + j)).map (fun t => t.phys (va + j)) = some (pa + j))
  (hhome : ∀ j < bs.length, s.homeless (pa + j) = false)
include hphys hhome

/-- A sector's part goes on where the part before it ended. -/
theorem putSector_wrote {acc : State × DWord × DWord} {done n : Nat} (h : Wrote s acc.1 (overlay s.byteAt pa (bs.take done)))
    (hdone : done < bs.length) (hn : n ≤ 32) :
    Wrote s (putSector queue svc core va bs acc (va + done, n)).1 (overlay s.byteAt pa (bs.take (done + n))) := by
  have hput := atHome_wrote h.plain core svc (bs := (bs.drop done).take n)
    (a := { lane := 0, va := BitVec.ofNat 64 (va + done), pa := pa + done, n := n, op := .write ((bs.drop done).take n) }) rfl
    (by rw [List.length_take]; omega) fun j hj => by
      rw [List.length_take, List.length_drop] at hj
      rw [h.homeless, Nat.add_assoc]
      exact hhome _ (by omega)
  have hbytes : overlay acc.1.byteAt (pa + done) ((bs.drop done).take n) = overlay s.byteAt pa (bs.take (done + n)) := by
    have hlen : (bs.take done).length = done := by rw [List.length_take]; omega
    rw [List.take_add, ← overlay_append, hlen, funext h.bytes]
  simp only [putSector, h.physOf (hphys done hdone), Nat.add_sub_cancel_left]
  exact h.trans (hbytes ▸ hput)

/-- A walker's write puts its bytes at their homes. -/
theorem walkerPut_wrote (hp : PlainMem s) : Wrote s (s.walkerPut queue svc core va bs).1 (overlay s.byteAt pa bs) := by
  rw [walkerPut_eq]
  by_cases hnil : bs = []
  · subst hnil
    rw [overlay_nil]
    exact .refl hp
  · have hne : bs.length ≠ 0 := mt List.eq_nil_of_length_eq_zero hnil
    rw [cutSectors_eq va hne]
    have hprefix (k : Nat) (hk : k ≤ (va % 32 + bs.length + 31) / 32) :
        Wrote s (((List.range k).map (sectorPart va bs.length)).foldl (putSector queue svc core va bs) (s, 0, 0)).1
          (overlay s.byteAt pa (bs.take (va / 32 * 32 + 32 * k - va))) := by
      induction k with
      | zero =>
        rw [show va / 32 * 32 + 32 * 0 - va = 0 by omega, List.take_zero, overlay_nil]
        exact .refl hp
      | succ k ih =>
        have hstep := putSector_wrote hphys hhome (svc := svc) (core := core) (ih (by omega)) (by omega)
          (n := min (va + bs.length) (va / 32 * 32 + 32 * (k + 1)) - max va (va / 32 * 32 + 32 * k)) (by omega)
        rw [show va + (va / 32 * 32 + 32 * k - va) = max va (va / 32 * 32 + 32 * k) by omega] at hstep
        rw [List.range_succ, List.map_append, List.foldl_append]
        have htake : bs.take (va / 32 * 32 + 32 * k - va + (min (va + bs.length) (va / 32 * 32 + 32 * (k + 1)) - max va (va / 32 * 32 + 32 * k))) =
            bs.take (va / 32 * 32 + 32 * (k + 1) - va) := List.take_eq_take_iff.2 (by omega)
        rw [← htake]
        exact hstep
    have hall := hprefix _ (Nat.le_refl _)
    rwa [List.take_of_length_le (by omega)] at hall

end

end Sys2Proof.Machine

/-! Graph and launch instructions (R131, R263 to R268). -/

namespace Sys2Proof.Machine

/-! ### Pages -/

theorem onePerPage_nil_iff {l : List Nat} : onePerPage l = [] ↔ l = [] := by
  have hgrows (l acc : List Nat) (h : acc ≠ []) :
      l.foldl (fun acc a => if acc.any (fun b => b / 4096 == a / 4096) then acc else acc ++ [a]) acc ≠ [] := by
    induction l generalizing acc with
    | nil => exact h
    | cons a l ih =>
      refine ih _ ?_
      dsimp only
      split
      · exact h
      · simp
  cases l with
  | nil => exact iff_of_true rfl rfl
  | cons a l => exact iff_of_false (hgrows l [a] (by simp)) (by simp)

theorem missing_append_nil {c : Ctx} {l m : List Nat} (hl : c.missing l = []) (hm : c.missing m = []) : c.missing (l ++ m) = [] := by
  unfold Ctx.missing at *
  split
  · rfl
  · next hmode =>
    rw [if_neg hmode, onePerPage_nil_iff] at hl hm
    rw [onePerPage_nil_iff, List.filter_append, hl, hm, List.append_nil]

/-! ### Nodes -/

theorem node_modNode {s : State} {g n : Nat} {x : Node} (h : s.node? g n = some x) (f : Node → Node) : (s.modNode g n f).node? g n = some (f x) := by
  obtain ⟨G, hG, hx⟩ := Option.bind_eq_some_iff.1 h
  simp [State.node?, State.modNode, State.modGraph, hG, hx]

/-! ### EMIT (R263, R264) -/

/-- An EMIT of one lane that its checks let through, to a node whose records have `rsz` bytes. -/
structure Ctx.Emits (c : Ctx) (i : Nat) (tr : Trans) (rsz : Nat) : Prop where
  plain : c.Plain
  lanes : c.lanes = [i]
  room  : c.W.counter 1 < 255
  align : (c.a64 c.lead).toNat % 64 = 0
  canon : (c.a64 c.lead).toNat < 2 ^ 48
  trans : c.trans (c.a64 c.lead).toNat = some tr
  spad  : (c.b i).toNat % 16 = 0
  fits  : (c.b i).toNat + rsz ≤ c.s.spadSize c.W.block
  clean : c.s.spadBad c.W.block (c.b i).toNat rsz = false

/-- A plain warp sees the block's scratchpad as it is. -/
theorem spadView_plain {c : Ctx} (h : mfind c.s.warps c.k = some c.W) (hp : c.Plain) : c.s.spadView c.k c.m = c.s.spad c.W.block := by
  have hforks : c.W.forks.filter (fun f => f.meets c.m) = [] := by
    rw [List.filter_eq_nil_iff]
    intro f hf
    exact List.find?_eq_none.1 hp.noFork f (List.mem_reverse.2 hf)
  have hbuf : c.s.bufOf c.k = [] := by
    rw [State.bufOf, rootOf_self (by rw [warp_of_find h, hp.single]), warp_of_find h, hp.noBuf]
  rw [State.spadView, hbuf, warp_of_find h, Warp.forkSpad, hforks]
  rfl

namespace Ctx.Emits

variable {c : Ctx} {i rsz : Nat} {tr : Trans} (h : c.Emits i tr rsz)
include h

theorem acts : c.acts = true := acts_of_lanes (by simp [h.lanes])

theorem emitNode : c.emitNode = c.s.nodeAt (c.s.partOfWarp c.W) (tr.phys (c.a64 c.lead).toNat) := by
  rw [Ctx.emitNode, h.trans]
  rfl

/-- An EMIT that knows the size of its records and whose places are translated goes through. -/
theorem ready (hrsz : c.emitRsz = some rsz) (hpages : c.missing (c.emitRanges.map (·.1)) = []) : kitEmit.Ready c := by
  have hnode (l : List Nat) (hl : ∀ a ∈ l, a = (c.a64 c.lead).toNat) : c.missing l = [] :=
    missing_cached fun a ha => ⟨tr, by rw [hl a ha, h.trans]⟩
  refine h.plain.ready rfl rfl ?_ ?_ ?_ rfl
  · have hlead : firstOf [(decide ((c.a64 c.lead).toNat % 64 ≠ 0), c.addrLead (c.a64 c.lead) 1 64),
        (decide (2 ^ 48 ≤ (c.a64 c.lead).toNat), c.addrLead (c.a64 c.lead) 5 64)] = [] := by
      rw [decide_eq_false (not_not.2 h.align), decide_eq_false (Nat.not_le.2 h.canon)]
      rfl
    show c.emitFaults = []
    simp only [Ctx.emitFaults, h.acts, hlead, hrsz, h.lanes]
    simp [h.spad, h.fits]
  · have hfind : c.lanes.find? (fun i => c.s.spadBad c.W.block (c.b i).toNat rsz) = none := by simp [h.lanes, h.clean]
    show c.spadPoison (c.emitRsz.getD 0) _ = none
    rw [hrsz, Option.getD_some, Ctx.spadPoison, hfind]
    rfl
  · refine missing_append_nil (hnode _ fun a ha => ?_) ?_
    · have ha' : a ∈ c.emitFirst := ha
      rw [Ctx.emitFirst] at ha'
      split at ha'
      · cases ha'
      · exact List.mem_singleton.1 ha'
    · rw [show kitEmit.pages c = [(c.a64 c.lead).toNat] ++ c.emitRanges.map (·.1) from if_pos h.acts]
      exact missing_append_nil (hnode _ fun a ha => List.mem_singleton.1 ha) hpages

theorem wait (hheld : c.emitHeld = []) : kitEmit.wait c = (c.s, none) := by
  have hroom : c.room 1 = (c.s, none) := room_plain h.room
  simp only [kitEmit, hroom, hheld, ite_self]
  rfl

/-- What an EMIT names as its record goes to its node. -/
theorem eff (hlisted : mfind c.s.warps c.k = some c.W) {at_ : Option (Nat × Nat)} {t : State} {r : Nat} {g gd : DWord}
    (hat : c.s.nodeAt (c.s.partOfWarp c.W) (tr.phys (c.a64 c.lead).toNat) = at_)
    (happend : c.s.appendRecord at_ c.W.svc c.W.core c.s.nextId
      (c.s.spadRead c.W.block (c.b i).toNat (((at_.bind (fun x => c.s.node? x.1 x.2)).map (·.rsz)).getD 0)) = (t, r, g, gd)) :
    ∃ accs, (r = 0 → accs = []) ∧ kitEmit.eff c =
      t.launchFlight { warp := c.k, cls := 1, accs := accs, vals := [(c.w.d.toNat, i, BitVec.ofNat 32 r)], regs := [c.w.d.toNat] } := by
  refine ⟨if r = 0 then [] else [{ lane := i, va := 0, pa := 0, n := 0, op := .note, done := true, gwct := g, gwctd := gd }], fun hr => if_pos hr, ?_⟩
  have hgo : c.s.emitGo c.k c.s.nextId c.m (tr.phys (c.a64 c.lead).toNat) [(i, (c.b i).toNat)] = (t, [(i, r)],
      if r = 0 then [] else [{ lane := i, va := 0, pa := 0, n := 0, op := .note, done := true, gwct := g, gwctd := gd }]) := by
    rw [State.spadRead] at happend
    simp only [State.emitGo, warp_of_find hlisted, hat, spadView_plain hlisted h.plain, List.foldl_cons, List.foldl_nil, happend, List.nil_append]
  simp only [kitEmit, h.acts, h.plain.direct, h.trans, h.lanes, Option.map_some, Option.getD_some, List.map_cons, List.map_nil, hgo, Bool.not_true,
    Bool.false_eq_true, if_false]

end Ctx.Emits

/-- An EMIT at an address where no accepting node lies brings 0. -/
theorem emits_nowhere {c : Ctx} {i : Nat} {tr : Trans} (hc : c.Clear)
    (h : c.Emits i tr (leNat (c.s.bytesAt (tr.phys (c.a64 c.lead).toNat + 0x20) 2)))
    (hat : c.s.nodeAt (c.s.partOfWarp c.W) (tr.phys (c.a64 c.lead).toNat) = none) : kitEmit.Lets c c.s ∧
      c.Sends (c.retire false (kitEmit.eff c)) { warp := c.k, cls := 1, accs := [], vals := [(c.w.d.toNat, i, 0)], regs := [c.w.d.toNat] } := by
  have hranges : c.emitRanges = [] := by rw [Ctx.emitRanges, if_pos h.acts, h.emitNode, hat, State.recordRanges, Option.bind_none]
  have hrsz : c.emitRsz = some (leNat (c.s.bytesAt (tr.phys (c.a64 c.lead).toNat + 0x20) 2)) := by
    simp only [Ctx.emitRsz, h.trans, Option.map_some, hat, Option.bind_none]
  have hheld : c.emitHeld = [] := by rw [Ctx.emitHeld, hranges]; rfl
  refine ⟨(h.ready hrsz (by rw [hranges]; exact missing_nil c)).lets (h.wait hheld) rfl, ?_⟩
  obtain ⟨accs, hnone, heff⟩ := h.eff hc.listed hat rfl
  rw [heff, hnone rfl]
  exact sends_launch rfl hc.listed (fun _ _ => rfl) rfl rfl fun _ _ _ => rfl

/-- A node whose queue has taken a record, which its write's completion time and its flight make present (R131, R265). -/
def Node.queued (x : Node) (time : DWord) (f : Nat) : Node :=
  { x with nq := x.nq + 1, useQ := x.useQ + 1, recs := x.recs ++ [(false, x.nq, time, f)] }

theorem appendRecord_queue {s : State} {g n queue : Nat} {x : Node} (hx : s.node? g n = some x) (hqueue : (mfind s.graphs g).map (·.queue) = some queue)
    (haccepts : x.accepts = true) (hroom : x.useQ < x.cap) (svc core f : Nat) (bs : List Byte) : s.appendRecord (some (g, n)) svc core f bs =
      let w := s.walkerPut queue svc core (x.inq.toNat + x.rsz * (x.nq % x.cap)) bs
      (w.1.modNode g n (fun x => x.queued w.2.1 f), 1, w.2) := by
  simp only [State.appendRecord, hx, hqueue, haccepts, hroom, Option.getD_some, Bool.not_true, Bool.false_eq_true, if_false, if_true]
  rfl

/-- What an EMIT into a node's queue leaves (R264). -/
structure Ctx.Emitted (c : Ctx) (t : State) (i g n pa : Nat) (x : Node) : Prop where
  record : t.bytesAt pa x.rsz = c.s.spadRead c.W.block (c.b i).toNat x.rsz
  beside : ∀ a, a < pa ∨ pa + x.rsz ≤ a → t.byteAt a = c.s.byteAt a
  node   : ∃ r, t.node? g n = some { x with nq := x.nq + 1, useQ := x.useQ + 1, recs := x.recs ++ [r] }
  flight : ∃ f, mfind t.flights c.s.nextId = some f ∧ f.warp = c.k ∧ f.cls = 1 ∧ f.regs = [c.w.d.toNat] ∧ f.vals = [(c.w.d.toNat, i, 1)]
  warp   : mfind t.warps c.k = some { c.onward c.W with outs := c.W.outs ++ [(1, c.s.nextId, false)] }

/-- An EMIT to an accepting node with room in its queue. -/
theorem emits_node {c : Ctx} {i g n queue pa : Nat} {x : Node} {tr : Trans} (hc : c.Clear) (h : c.Emits i tr x.rsz)
    (hat : c.s.nodeAt (c.s.partOfWarp c.W) (tr.phys (c.a64 c.lead).toNat) = some (g, n)) (hx : c.s.node? g n = some x) (haccepts : x.accepts = true)
    (hqueue : (mfind c.s.graphs g).map (·.queue) = some queue) (hroom : x.useQ < x.cap) (hplain : PlainMem c.s)
    (hpages : c.missing (c.emitRanges.map (·.1)) = []) (hheld : c.emitHeld = [])
    (hplace : ∀ j < x.rsz, (c.s.cached (c.s.queueCore queue) queue (x.inq.toNat + x.rsz * (x.nq % x.cap) + j)).map
      (fun t => t.phys (x.inq.toNat + x.rsz * (x.nq % x.cap) + j)) = some (pa + j) ∧ c.s.homeless (pa + j) = false) :
    kitEmit.Lets c c.s ∧ c.Emitted (c.retire false (kitEmit.eff c)) i g n pa x := by
  have hrsz : c.emitRsz = some x.rsz := by simp only [Ctx.emitRsz, h.trans, Option.map_some, hat, Option.bind_some, hx]
  refine ⟨(h.ready hrsz hpages).lets (h.wait hheld) rfl, ?_⟩
  have hread : (((some (g, n)).bind (fun x => c.s.node? x.1 x.2)).map (·.rsz)).getD 0 = x.rsz := by
    rw [Option.bind_some, hx, Option.map_some, Option.getD_some]
  let bs := c.s.spadRead c.W.block (c.b i).toNat x.rsz
  have hlen : bs.length = x.rsz := by simp [bs, State.spadRead, spadBytes, cellsGet]
  have hwrote := walkerPut_wrote (svc := c.W.svc) (core := c.W.core) (bs := bs) (fun j hj => (hplace j (hlen ▸ hj)).1)
    (fun j hj => (hplace j (hlen ▸ hj)).2) hplain
  have happend := appendRecord_queue hx hqueue haccepts hroom c.W.svc c.W.core c.s.nextId bs
  generalize c.s.walkerPut queue c.W.svc c.W.core (x.inq.toNat + x.rsz * (x.nq % x.cap)) bs = w at hwrote happend
  obtain ⟨u, g', gd⟩ := w
  replace hwrote : Wrote c.s u (overlay c.s.byteAt pa bs) := hwrote
  obtain ⟨accs, -, heff⟩ := h.eff (r := 1) (g := g') (gd := gd) hc.listed hat (by rw [hread]; exact happend)
  rw [heff]
  have hid : u.nextId = c.s.nextId := by rw [hwrote.rest]
  have hwarp : mfind u.warps c.k = some c.W := by rw [hwrote.rest]; exact hc.listed
  have hnode : u.node? g n = some x := by rw [hwrote.rest]; exact hx
  have hl := (launchFlight_launched (t := u.modNode g n (fun x => x.queued g' c.s.nextId))
    (f := { warp := c.k, cls := 1, accs := accs, vals := [(c.w.d.toNat, i, BitVec.ofNat 32 1)], regs := [c.w.d.toNat] }) hwarp).modWarp c.onward
  have hbytes (a : Nat) : (c.retire false ((u.modNode g n (fun x => x.queued g' c.s.nextId)).launchFlight
      { warp := c.k, cls := 1, accs := accs, vals := [(c.w.d.toNat, i, BitVec.ofNat 32 1)], regs := [c.w.d.toNat] })).byteAt a = u.byteAt a := by
    rw [byteAt_retire, byteAt_launchFlight, byteAt_modNode]
  refine ⟨?_, fun a ha => ?_, ⟨_, node_modNode hnode (fun x => x.queued g' c.s.nextId)⟩, ⟨_, hid ▸ hl.flight, rfl, rfl, rfl, rfl⟩, ?_⟩
  · have hread := hwrote.read
    rw [hlen] at hread
    exact (bytesAt_congr hbytes _ _).trans hread
  · have houtside : u.byteAt a = c.s.byteAt a := (hwrote.bytes a).trans (overlay_out (by rwa [hlen]))
    exact (hbytes a).trans houtside
  · refine hl.warp.trans ?_
    rw [show (u.modNode g n (fun x => x.queued g' c.s.nextId)).nextId = c.s.nextId from hid]
    rfl

/-! ### Releases (R95) -/

/-- A release that has come, or that a fence has waited for. -/
theorem releaseAt_none {c : Ctx} {scope : Nat} (h : c.s.released c.k c.s.nextId scope = true) : c.releaseAt scope = none := by
  unfold Ctx.releaseAt
  split
  · rfl
  · rw [h, Bool.or_true]
    rfl

/-! ### LAUNCH (R266) -/

theorem launchFaults_nil {c : Ctx} (hrec : (c.a64 c.lead).toNat % 256 = 0) (hsig : (c.b64 c.lead).toNat % 8 = 0)
    (hrec' : (c.a64 c.lead).toNat < 2 ^ 48) (hsig' : (c.b64 c.lead).toNat < 2 ^ 48) : c.launchFaults = [] := by
  simp only [Ctx.launchFaults, decide_eq_false (not_not.2 hrec), decide_eq_false (not_not.2 hsig), decide_eq_false (Nat.not_le.2 hrec'),
    decide_eq_false (Nat.not_le.2 hsig'), firstOf_cons_false]
  exact ite_self _

theorem lets_launch {c : Ctx} (hp : c.Plain) (hreleased : c.s.released c.k c.s.nextId 4 = true) (hrec : (c.a64 c.lead).toNat % 256 = 0)
    (hsig : (c.b64 c.lead).toNat % 8 = 0) (hrec' : (c.a64 c.lead).toNat < 2 ^ 48) (hsig' : (c.b64 c.lead).toNat < 2 ^ 48) : kitLaunch.Lets c c.s :=
  (hp.ready (K := kitLaunch) rfl rfl (launchFaults_nil hrec hsig hrec' hsig') rfl (missing_nil c) rfl).lets
    (congrArg (Prod.mk c.s) (releaseAt_none hreleased)) rfl

/-- The flight that answers a LAUNCH. -/
theorem eff_launch {c : Ctx} (hp : c.Plain) (hlanes : c.lanes ≠ []) {t : State} {ok : Bool}
    (hoffer : (c.s.modWarp c.k (fun W => W.countRelease 4)).childOffer c.k (c.a64 c.lead) (c.b64 c.lead) = (t, ok)) : kitLaunch.eff c =
      t.launchFlight (c.result 7 (c.lanes.map (fun i => (c.w.d.toNat, i, boolWord ok))) [c.w.d.toNat]) := by
  have hdirect : (c.s.modWarp c.k (fun W => W.countRelease 4)).buffered c.W = false := hp.direct
  simp only [kitLaunch, acts_of_lanes hlanes, hdirect, hoffer, Bool.not_true, Bool.false_eq_true, if_false]
  rfl

/-- A child enters a queue that has room. -/
theorem childOffer_room {c : Ctx} (h : mfind c.s.warps c.k = some c.W) {P : Partition} (hP : mfind c.s.parts (c.s.partOfWarp c.W) = some P)
    (hroom : P.children.length < 64) (record signal : DWord) :
    (c.s.modWarp c.k (fun W => W.countRelease 4)).childOffer c.k record signal =
      (((c.s.modWarp c.k (fun W => W.countRelease 4)).modPart (c.s.partOfWarp c.W) (fun P => { P with
        children := P.children ++ [(c.k, record, signal, c.s.nextId)] })).modLaunch c.W.launch (fun L => { L with children := L.children + 1 }), true) := by
  have hpart : mfind (c.s.modWarp c.k (fun W => W.countRelease 4)).parts
      ((c.s.modWarp c.k (fun W => W.countRelease 4)).partOfWarp (c.W.countRelease 4)) = some P := hP
  rw [State.childOffer, warp_modWarp h]
  simp only [hpart, childLimit, Nat.not_le.2 hroom, if_false]
  rfl

theorem childOffer_full {c : Ctx} (h : mfind c.s.warps c.k = some c.W) {P : Partition} (hP : mfind c.s.parts (c.s.partOfWarp c.W) = some P)
    (hfull : 64 ≤ P.children.length) (record signal : DWord) :
    (c.s.modWarp c.k (fun W => W.countRelease 4)).childOffer c.k record signal = (c.s.modWarp c.k (fun W => W.countRelease 4), false) := by
  have hpart : mfind (c.s.modWarp c.k (fun W => W.countRelease 4)).parts
      ((c.s.modWarp c.k (fun W => W.countRelease 4)).partOfWarp (c.W.countRelease 4)) = some P := hP
  rw [State.childOffer, warp_modWarp h]
  simp only [hpart, childLimit, hfull, if_true]

/-- What a LAUNCH leaves of its warp and of memory. -/
theorem launch_answers {c : Ctx} (hc : c.Clear) (hp : c.Plain) (hlanes : c.lanes ≠ []) {t : State} {ok : Bool}
    (hoffer : (c.s.modWarp c.k (fun W => W.countRelease 4)).childOffer c.k (c.a64 c.lead) (c.b64 c.lead) = (t, ok))
    (hrest : t = { c.s.modWarp c.k (fun W => W.countRelease 4) with parts := t.parts, launches := t.launches }) :
    let u := c.retire false (kitLaunch.eff c)
    (mfind u.flights c.s.nextId = some (c.result 7 (c.lanes.map (fun i => (c.w.d.toNat, i, boolWord ok))) [c.w.d.toNat]) ∧
      mfind u.warps c.k = some { c.onward c.W with release := (c.W.countRelease 4).release } ∧ u.mem = c.s.mem) ∧
    u.parts = t.parts ∧ u.launches = t.launches := by
  have hwarp : mfind t.warps c.k = some (c.W.countRelease 4) := by rw [hrest]; exact find_modWarp hc.listed _
  have hid : t.nextId = c.s.nextId := by rw [hrest]; rfl
  have hmem : t.mem = c.s.mem := by rw [hrest]; rfl
  have hl := (launchFlight_launched (f := c.result 7 (c.lanes.map (fun i => (c.w.d.toNat, i, boolWord ok))) [c.w.d.toNat]) hwarp).modWarp c.onward
  rw [eff_launch hp hlanes hoffer]
  exact ⟨⟨hid ▸ hl.flight, hl.warp, hmem⟩, rfl, rfl⟩

/-! ### SIGADD (R267) -/

/-- SIGADD sends one atomic addition for each lane. -/
theorem eff_sigadd {c : Ctx} (hc : c.Clear) (hp : c.Plain) (hlanes : c.lanes ≠ []) (hreach : c.Reach c.a64 8 true) : kitSigadd.eff c =
    (c.s.modWarp c.k (fun _ => c.W.countRelease 6)).launchFlight
      { warp := c.k, cls := 1, inOrder := true, accs := c.lanes.map (c.access 8 0 c.a64 (fun i => .rmw 0 true (c.b64 i) 0)) } := by
  have hnote (secs : List Nat) : (c.s.modWarp c.k (fun W => W.countRelease 6)).noteWrites c.k secs =
      c.s.modWarp c.k (fun _ => c.W.countRelease 6) := by
    rw [noteWrites_single (find_modWarp hc.listed _) hp.single, modWarp_modWarp]
  have hdirect : (c.s.modWarp c.k (fun _ => c.W.countRelease 6)).buffered c.W = false := hp.direct
  simp only [kitSigadd, acts_of_lanes hlanes, hreach.accesses, hnote, hdirect, Bool.not_true, Bool.false_eq_true, if_false]

/-! ### NDONE (R268) -/

/-- Bytes that become free elsewhere leave a byte as it is. -/
theorem freeBytes_outside {s : State} (hp : PlainMem s) {a : Nat} {l : List (Nat × Nat)} (h : ∀ x ∈ l, x.1 ≠ a) :
    (l.foldl (fun s x => s.homePut x.1 [Config.freeByte s.fresh x.2]) s).byteAt a = s.byteAt a := by
  induction l generalizing s with
  | nil => rfl
  | cons x l ih =>
    have hput := homePutFor_leaves_homed hp noClass (a := x.1) (bs := [Config.freeByte s.fresh x.2]) (by simp)
    have hne : x.1 ≠ a := h x List.mem_cons_self
    refine (ih hput.plain fun y hy => h y (List.mem_cons_of_mem _ hy)).trans ((hput.bytes a).trans ?_)
    rw [State.overlayHomed, overlay_out (by simp; omega), ite_self]

/-! ### Where addresses lie (R86) -/

section
variable (s : State) (ws : NMap Warp) (gs : NMap Graph) (ls : NMap Launch)

/-- The state with other warps, graphs and launches. -/
def State.reworked : State := { s with warps := ws, graphs := gs, launches := ls }

theorem byteAt_reworked (a : Nat) : (s.reworked ws gs ls).byteAt a = s.byteAt a := rfl

theorem pte_reworked (va table level : Nat) : (s.reworked ws gs ls).pte va table level = s.pte va table level := by
  simp only [State.pte, State.bytesAt, byteAt_reworked]

theorem leafEntry_reworked (q va level : Nat) (e : DWord) : (s.reworked ws gs ls).leafEntry q va level e = s.leafEntry q va level e := rfl

theorem walkFrom_reworked (q va level table : Nat) : (s.reworked ws gs ls).walkFrom q va level table = s.walkFrom q va level table := by
  induction level generalizing table with
  | zero => simp only [State.walkFrom, pte_reworked, leafEntry_reworked]
  | succ k ih =>
    simp only [State.walkFrom, pte_reworked, leafEntry_reworked, ih]
    rfl

theorem walk_reworked (q va : Nat) : (s.reworked ws gs ls).walk q va = s.walk q va := by
  simp only [State.walk, walkFrom_reworked]
  rfl

/-- Where an address lies depends on no warp, graph or launch. -/
theorem physOf_reworked (q va : Nat) : (s.reworked ws gs ls).physOf q va = s.physOf q va := by
  have hcached : (s.reworked ws gs ls).cached ((s.reworked ws gs ls).queueCore q) q va = s.cached (s.queueCore q) q va := rfl
  simp only [State.physOf, State.look, State.lookFor, hcached, walk_reworked]

end

theorem physOf_givesBack (s : State) (l g n q o queue va : Nat) : (s.givesBack l g n q o).physOf queue va = s.physOf queue va :=
  physOf_reworked s s.warps (s.givesBack l g n q o).graphs (s.givesBack l g n q o).launches queue va

theorem physOf_modWarp (s : State) (k : Nat) (f : Warp → Warp) (queue va : Nat) : (s.modWarp k f).physOf queue va = s.physOf queue va :=
  physOf_reworked s (s.modWarp k f).warps s.graphs s.launches queue va

/-! ### NDONE's places (R268) -/

/-- What freeing a cluster's places leaves (R268). -/
structure FreedPlaces (s t : State) (l g n q o : Nat) (L : Launch) (queue rsz : Nat) : Prop where
  graphs   : t.graphs = (s.givesBack l g n q o).graphs
  launches : t.launches = (s.givesBack l g n q o).launches
  flights  : t.flights = s.flights
  bytes    : ∀ a, (∀ p ∈ L.places, ∀ j < rsz, s.physOf queue (p.toNat + j) ≠ some a) → t.byteAt a = s.byteAt a

theorem freePlaces_freed {s : State} {l g n q o queue : Nat} {L : Launch} {x : Node} (hp : PlainMem s) (hL : mfind s.launches l = some L)
    (hstream : L.stream = some (g, n, q, o)) (hx : s.node? g n = some x) (hqueue : (mfind s.graphs g).map (·.queue) = some queue) :
    FreedPlaces s (s.freePlaces l) l g n q o L queue x.rsz := by
  have hplain : PlainMem (s.givesBack l g n q o) := ⟨hp.ranges, hp.views, hp.home, hp.whole, hp.raw, hp.clean⟩
  by_cases hheld : q + o = 0
  · have hnone : s.freePlaces l = s.givesBack l g n q o := by
      simp only [State.freePlaces, State.givesBack, hL, hstream, hheld, if_true]
    rw [hnone]
    exact ⟨rfl, rfl, rfl, fun _ _ => rfl⟩
  · rw [freePlaces_of_some hL hstream hheld, hx, hqueue, Option.map_some, Option.getD_some, Option.getD_some]
    let bytes := L.places.flatMap (fun p => (List.range x.rsz).filterMap (fun j => (s.givesBack l g n q o).physOf queue (p.toNat + j)))
    have houtside (a : Nat) (ha : ∀ p ∈ L.places, ∀ j < x.rsz, s.physOf queue (p.toNat + j) ≠ some a) :
        (bytes.zipIdx.foldl (fun s x => s.homePut x.1 [Config.freeByte s.fresh x.2]) (s.givesBack l g n q o)).byteAt a = s.byteAt a := by
      refine freeBytes_outside hplain fun y hy => ?_
      have hbyte : y.1 ∈ bytes := List.fst_mem_of_mem_zipIdx hy
      obtain ⟨p, hplace, hj⟩ := List.mem_flatMap.1 hbyte
      obtain ⟨j, hj, hphys⟩ := List.mem_filterMap.1 hj
      rintro rfl
      exact ha p hplace j (List.mem_range.1 hj) ((physOf_givesBack s l g n q o queue _).symm.trans hphys)
    have honly := freeBytes_onlyMemory bytes.zipIdx (s.givesBack l g n q o)
    show FreedPlaces s (bytes.zipIdx.foldl (fun s x => s.homePut x.1 [Config.freeByte s.fresh x.2]) (s.givesBack l g n q o)).freshen _ _ _ _ _ _ _ _
    generalize bytes.zipIdx.foldl (fun s x => s.homePut x.1 [Config.freeByte s.fresh x.2]) (s.givesBack l g n q o) = u at honly houtside
    refine ⟨?_, ?_, ?_, houtside⟩
    · show u.graphs = _
      rw [honly.rest]
    · show u.launches = _
      rw [honly.rest]
    · show u.flights = _
      rw [honly.rest]
      rfl

theorem msorted_mupdate {α : Type} {m : NMap α} (h : msorted m = true) (q : Nat) (f : α → α) : msorted (mupdate m q f) = true := by
  unfold mupdate
  split
  · exact msorted_minsert h _ _
  · exact h

/-- Each other warp of the cluster has ended or executed NDONE. -/
def Ctx.LastOfCluster (c : Ctx) : Prop :=
  msorted c.s.warps = true ∧ ∀ x ∈ c.s.warps, x.1 = c.k ∨ x.2.launch ≠ c.W.launch ∨ x.2.ended = true ∨ x.2.ndone = true

theorem ndone_last {c : Ctx} (h : mfind c.s.warps c.k = some c.W) (hlast : c.LastOfCluster) :
    c.s.ndone c.k = (c.s.modWarp c.k (fun _ => { c.W with ndone := true })).freePlaces c.W.launch := by
  obtain ⟨hsorted, hothers⟩ := hlast
  rw [State.ndone, modWarp_const h, warp_of_find h, State.ndoneOver, if_pos]
  rw [List.all_eq_true]
  intro y hy
  by_cases hk : y.1 = c.k
  · have hself : mfind (mupdate c.s.warps c.k (fun _ => { c.W with ndone := true })) c.k = some y.2 :=
      mfind_of_mem (msorted_mupdate hsorted _ _) (hk ▸ hy)
    rw [mfind_mupdate_self, h, Option.map_some, Option.some_inj] at hself
    simp [← hself]
  · rcases mem_mupdate hy with hy | ⟨v, -, rfl⟩
    · rcases hothers y hy with hself | hlaunch | hended | hdone
      · exact absurd hself hk
      · simp [hlaunch]
      · simp [hended]
      · simp [hdone]
    · exact absurd rfl hk

theorem ready_ndone {c : Ctx} (hp : c.Plain) : kitNdone.Ready c := hp.ready rfl rfl rfl rfl (missing_nil c) rfl

/-- The effect of the last NDONE of a stream cluster. -/
theorem eff_ndone {c : Ctx} (h : mfind c.s.warps c.k = some c.W) (hp : c.Plain) (hlanes : c.lanes ≠ []) (hstream : c.W.stream.isSome = true)
    (hlast : c.LastOfCluster) : kitNdone.eff c = (c.s.modWarp c.k (fun _ => { c.W with ndone := true })).freePlaces c.W.launch := by
  have hnone : c.W.stream.isNone = false := by simpa using hstream
  rw [← ndone_last h hlast]
  simp only [kitNdone, acts_of_lanes hlanes, hnone, hp.direct, Bool.not_true, Bool.or_self, Bool.false_eq_true, if_false]

/-! ### The statement -/

/-- Settles O43: EMIT by what a walker's write leaves, LAUNCH by the child queue, SIGADD by its flight, NDONE by the places it frees. -/
theorem graphInstructions : Obligations.GraphInstructions := by
  unfold Obligations.GraphInstructions
  refine ⟨fun i tr => ?_, fun i tr g n x Q pm => ?_, fun P => ?_, fun P => ?_, ?_, ?_, fun L g n q o x Q => ?_⟩
  · refine runs_of (fun _ => rfl) fun c _ _ hc ⟨⟨hp, hlanes, hroom, halign, hcanon, htr, hspad, hfits, hclean⟩, hat⟩ => ?_
    exact emits_nowhere hc ⟨hp, hlanes, hroom, halign, hcanon, htr, hspad, hfits, hclean⟩ hat
  · refine runs_of (fun _ => rfl) fun c _ _ hc ⟨⟨hp, hlanes, hroom, halign, hcanon, htr, hspad, hfits, hclean⟩, hat, hx, haccepts, hqueue, hcap, hplain,
      hpages, hheld, hplace⟩ => ?_
    obtain ⟨hlets, hrecord, hbeside, hnode, hflight, hwarp⟩ :=
      emits_node hc ⟨hp, hlanes, hroom, halign, hcanon, htr, hspad, hfits, hclean⟩ hat hx haccepts hqueue hcap hplain hpages hheld hplace
    exact ⟨hlets, hrecord, hbeside, hnode, hflight, hwarp⟩
  · refine runs_of (fun _ => rfl) fun c _ _ hc ⟨⟨⟨hp, hlanes⟩, hreleased, hrec, hsig, hrec', hsig'⟩, hP, hroom⟩ => ⟨?_, ?_⟩
    · exact lets_launch hp hreleased hrec hsig hrec' hsig'
    · obtain ⟨hchild, hparts, hlaunches⟩ := launch_answers hc hp hlanes (childOffer_room hc.listed hP hroom _ _) rfl
      refine ⟨hchild, ?_, fun L hL => ?_⟩
      · refine (congrArg (fun m => mfind m (c.s.partOfWarp c.W)) hparts).trans ?_
        exact (mfind_mupdate_self _ _ _).trans (congrArg _ hP)
      · refine (congrArg (fun m => mfind m c.W.launch) hlaunches).trans ?_
        exact (mfind_mupdate_self _ _ _).trans (congrArg _ hL)
  · refine runs_of (fun _ => rfl) fun c _ _ hc ⟨⟨⟨hp, hlanes⟩, hreleased, hrec, hsig, hrec', hsig'⟩, hP, hfull⟩ => ⟨?_, ?_⟩
    · exact lets_launch hp hreleased hrec hsig hrec' hsig'
    · exact launch_answers hc hp hlanes (childOffer_full hc.listed hP hfull _ _) rfl
  · refine runs_of (fun _ => rfl) fun c _ _ hc ⟨⟨hp, hlanes⟩, hroom, hreleased, hreach⟩ => ⟨?_, ?_⟩
    · have hwait : kitSigadd.wait c = (c.s, none) := by
        simp only [kitSigadd, room_plain hroom, releaseAt_none hreleased]
        rfl
      exact (hp.ready (K := kitSigadd) rfl rfl (hreach.checks nofun hp.noTx) rfl hreach.pages (hreach.wprot 8)).lets hwait rfl
    · have hl := (launchFlight_launched
        (f := { warp := c.k, cls := 1, inOrder := true, accs := c.lanes.map (c.access 8 0 c.a64 (fun i => .rmw 0 true (c.b64 i) 0)) })
        (find_modWarp hc.listed (fun _ => c.W.countRelease 6))).modWarp c.onward
      have heff := eff_sigadd hc hp hlanes hreach
      show mfind (c.retire false (kitSigadd.eff c)).flights _ = _ ∧ (∀ n, n ≠ _ → mfind (c.retire false (kitSigadd.eff c)).flights n = _) ∧
        mfind (c.retire false (kitSigadd.eff c)).warps _ = _ ∧ (c.retire false (kitSigadd.eff c)).mem = _ ∧ (c.retire false (kitSigadd.eff c)).l2 = _
      rw [heff]
      exact ⟨hl.flight, hl.older, hl.warp, rfl, rfl⟩
  · refine runs_of (fun _ => rfl) fun c _ _ hc ⟨⟨hp, hlanes⟩, hstream⟩ => ⟨(ready_ndone hp).lets rfl rfl, ?_⟩
    have heff : kitNdone.eff c = c.s := if_pos (by simp [hstream])
    show c.Went (c.retire false (kitNdone.eff c)) _ _
    rw [heff]
    exact went_same hc.listed
  · refine runs_of (fun _ => rfl) fun c _ _ hc ⟨⟨hp, hlanes⟩, hstream, hlast, hL, hplaces, hx, hqueue, hplain⟩ => ?_
    refine ⟨(ready_ndone hp).lets rfl rfl, ?_⟩
    have heff := eff_ndone hc.listed hp hlanes hstream hlast
    have hplain' : PlainMem (c.s.modWarp c.k (fun _ => { c.W with ndone := true })) :=
      ⟨hplain.ranges, hplain.views, hplain.home, hplain.whole, hplain.raw, hplain.clean⟩
    have hfreed := freePlaces_freed (s := c.s.modWarp c.k (fun _ => { c.W with ndone := true })) hplain' hL hplaces hx hqueue
    have hwarp : mfind ((c.s.modWarp c.k (fun _ => { c.W with ndone := true })).freePlaces c.W.launch).warps c.k = some { c.W with ndone := true } := by
      rw [freePlaces_warps]
      exact find_modWarp hc.listed _
    show (∀ a, _ → (c.retire false (kitNdone.eff c)).byteAt a = _) ∧ mfind (c.retire false (kitNdone.eff c)).warps _ = _ ∧
      (c.retire false (kitNdone.eff c)).node? _ _ = _ ∧ mfind (c.retire false (kitNdone.eff c)).launches _ = _ ∧
      (c.retire false (kitNdone.eff c)).flights = _
    rw [heff]
    generalize (c.s.modWarp c.k (fun _ => { c.W with ndone := true })).freePlaces c.W.launch = u at hfreed hwarp
    refine ⟨fun a ha => ?_, find_modWarp hwarp c.onward, ?_, ?_, hfreed.flights⟩
    · rw [byteAt_retire, hfreed.bytes a fun p hp j hj => by rw [physOf_modWarp]; exact ha p hp j hj, byteAt_modWarp]
    · show (mfind u.graphs g).bind _ = _
      rw [hfreed.graphs]
      exact node_modNode hx (fun x => { x with useQ := x.useQ - q, useO := x.useO - o })
    · show mfind u.launches _ = _
      rw [hfreed.launches]
      exact find_modLaunch hL _

end Sys2Proof.Machine

/-! Transactions (R101 to R104, R244): the aborts of lanes, and the writes of a commit. -/

namespace Sys2Proof.Machine

/-! ### Aborts (R102, R104) -/

/-- A lane of a warp's transaction. -/
def Warp.txLane (W : Warp) (i : Nat) : Option TxLane := W.tx.bind (fun x => mfind x.lanes i)

/-- What an abort leaves of a lane: one that has aborted before stays as it is. -/
def TxLane.aborted (l : TxLane) (cause code : Nat) : TxLane :=
  if l.cause = 0 then { l with cause := cause, code := code, reads := [], writes := [] } else l

theorem aborted_aborted (l : TxLane) {cause : Nat} (h : cause ≠ 0) (code : Nat) : (l.aborted cause code).aborted cause code = l.aborted cause code := by
  by_cases hl : l.cause = 0
  · simp [TxLane.aborted, hl, h]
  · simp [TxLane.aborted, hl]

theorem txAbort_none {s : State} {k i : Nat} {W : Warp} (h : mfind s.warps k = some W) (hl : W.txLane i = none) (cause code : Nat) :
    s.txAbort k i cause code = s := by
  unfold State.txAbort
  rw [warp_of_find h]
  cases htx : W.tx with
  | none => rfl
  | some x =>
    have hfind : mfind x.lanes i = none := by rwa [Warp.txLane, htx] at hl
    simp only [hfind]

theorem txAbort_dead {s : State} {k i : Nat} {W : Warp} {l : TxLane} (h : mfind s.warps k = some W) (hl : W.txLane i = some l) (hcause : l.cause ≠ 0)
    (cause code : Nat) : s.txAbort k i cause code = s := by
  obtain ⟨x, htx, hfind⟩ := Option.bind_eq_some_iff.1 hl
  simp only [State.txAbort, warp_of_find h, htx, hfind, hcause, ne_eq, not_false_eq_true, if_true]

/-- A warp whose transaction's lane has been aborted. -/
def Warp.abortLane (W : Warp) (x : Tx) (i : Nat) (l : TxLane) (cause code : Nat) : Warp :=
  { W with
    tx := some { x with lanes := minsert x.lanes i (l.aborted cause code) }
    txAddr := minsert W.txAddr i x.addr
    txTries := minsert W.txTries i (min 8 (l.tries + 1)) }

theorem txAbort_live {s : State} {k i : Nat} {W : Warp} {x : Tx} {l : TxLane} (h : mfind s.warps k = some W) (htx : W.tx = some x)
    (hl : mfind x.lanes i = some l) (hcause : l.cause = 0) (cause code : Nat) : s.txAbort k i cause code =
      ({ s with holds := s.holds.filter (fun h => h.2.1 != k || h.2.2.1 != i) } : State).modWarp k (fun W => W.abortLane x i l cause code) := by
  simp only [State.txAbort, warp_of_find h, htx, hl, hcause, ne_eq, not_true_eq_false, if_false, Warp.abortLane, TxLane.aborted, if_true]

/-- A warp has aborted some of its transaction's lanes, for a cause and with a code each; nothing else has changed. -/
structure Aborts (s t : State) (k : Nat) (W : Warp) (lanes : List Nat) (cause : Nat) (code : Nat → Nat) : Prop where
  rest : t = { s with warps := t.warps, holds := t.holds }
  warp : ∃ V, mfind t.warps k = some V ∧ V.regs = W.regs ∧ V.pend = W.pend ∧
    ∀ i, V.txLane i = if i ∈ lanes then (W.txLane i).map (fun l => l.aborted cause (code i)) else W.txLane i

theorem abortLane_txLane {W : Warp} {x : Tx} {i : Nat} {l : TxLane} (htx : W.tx = some x) (hl : mfind x.lanes i = some l) (cause code j : Nat) :
    (W.abortLane x i l cause code).txLane j = if j = i then (W.txLane i).map (fun l => l.aborted cause code) else W.txLane j := by
  have hW (j : Nat) : W.txLane j = mfind x.lanes j := by rw [Warp.txLane, htx, Option.bind_some]
  show mfind (minsert x.lanes i (l.aborted cause code)) j = _
  split
  · next hj => rw [hj, mfind_minsert_self, hW, hl, Option.map_some]
  · next hj => rw [mfind_minsert_ne _ _ hj, hW]

/-- One abort. -/
theorem txAbort_aborts {s : State} {k i : Nat} {W : Warp} (h : mfind s.warps k = some W) (cause : Nat) (code : Nat → Nat) :
    Aborts s (s.txAbort k i cause (code i)) k W [i] cause code := by
  have hsame (hl : (W.txLane i).map (fun l => l.aborted cause (code i)) = W.txLane i) : Aborts s s k W [i] cause code := by
    refine ⟨rfl, W, h, rfl, rfl, fun j => ?_⟩
    split
    · next hj => rw [List.mem_singleton.1 hj, hl]
    · rfl
  cases hl : W.txLane i with
  | none =>
    rw [txAbort_none h hl]
    exact hsame (by rw [hl, Option.map_none])
  | some l =>
    by_cases hcause : l.cause = 0
    · obtain ⟨x, htx, hfind⟩ := Option.bind_eq_some_iff.1 hl
      rw [txAbort_live h htx hfind hcause]
      refine ⟨rfl, _, find_modWarp (s := { s with holds := _ }) h _, rfl, rfl, fun j => ?_⟩
      rw [abortLane_txLane htx hfind]
      simp only [List.mem_singleton]
      split
      · next hj => rw [hj]
      · rfl
    · rw [txAbort_dead h hl hcause]
      exact hsame (by rw [hl, Option.map_some, TxLane.aborted, if_neg hcause])

/-- Aborts one after another. -/
theorem foldl_txAbort {s : State} {k : Nat} {W : Warp} (h : mfind s.warps k = some W) {cause : Nat} (hcause : cause ≠ 0) (code : Nat → Nat) (lanes : List Nat) :
    Aborts s (lanes.foldl (fun s i => s.txAbort k i cause (code i)) s) k W lanes cause code := by
  induction lanes generalizing s W with
  | nil => exact ⟨rfl, W, h, rfl, rfl, fun i => (if_neg List.not_mem_nil).symm⟩
  | cons i lanes ih =>
    obtain ⟨hrest, V, hV, hregs, hpend, hlanes⟩ := txAbort_aborts (i := i) h cause code
    rw [List.foldl_cons]
    generalize s.txAbort k i cause (code i) = u at hrest hV
    obtain ⟨hrest', V', hV', hregs', hpend', hlanes'⟩ := ih hV
    refine ⟨hrest'.trans (by rw [hrest]), V', hV', hregs'.trans hregs, hpend'.trans hpend, fun j => ?_⟩
    rw [hlanes', hlanes]
    by_cases hj : j = i
    · subst hj
      rw [if_pos List.mem_cons_self, if_pos List.mem_cons_self, Option.map_map]
      split
      · exact congrArg (fun f => Option.map f (W.txLane j)) (funext fun l => aborted_aborted l hcause (code j))
      · rfl
    · simp only [List.mem_cons, List.not_mem_nil, hj, false_or, if_false]

/-- Aborts leave the registers, what is on its way there, and memory. -/
theorem Aborts.retired {c : Ctx} {t : State} {lanes : List Nat} {cause : Nat} {code : Nat → Nat} (h : Aborts c.s t c.k c.W lanes cause code) :
    (∀ i, ((c.retire false t).warp c.k).txLane i = if i ∈ lanes then (c.W.txLane i).map (fun l => l.aborted cause (code i)) else c.W.txLane i) ∧
      (∀ q p, ((c.retire false t).warp c.k).settled q p = c.W.settled q p) ∧ (c.retire false t).mem = c.s.mem := by
  obtain ⟨hrest, V, hV, hregs, hpend, hlanes⟩ := h
  have hwarp : (c.retire false t).warp c.k = c.onward V := warp_modWarp hV _
  rw [hwarp]
  refine ⟨hlanes, settled_congr hregs hpend, ?_⟩
  show t.mem = c.s.mem
  rw [hrest]

/-! ### The bytes of a commit (R103) -/

/-- A byte joins the run that begins after it, or begins one. -/
theorem runsOf_cons (c : Host.Cell) (l : List Host.Cell) : runsOf (c :: l) = (c.1, [c.2]) :: runsOf l ∨
    ∃ bs r, runsOf l = (c.1 + 1, bs) :: r ∧ (c.1 + 1) % 32 ≠ 0 ∧ runsOf (c :: l) = (c.1, c.2 :: bs) :: r := by
  show (match runsOf l with
    | (a, bs) :: r => if c.1 + 1 = a && a % 32 != 0 then (c.1, c.2 :: bs) :: r else (c.1, [c.2]) :: runsOf l
    | [] => [(c.1, [c.2])]) = _ ∨ ∃ bs r, _ ∧ _ ∧ (match runsOf l with
    | (a, bs) :: r => if c.1 + 1 = a && a % 32 != 0 then (c.1, c.2 :: bs) :: r else (c.1, [c.2]) :: runsOf l
    | [] => [(c.1, [c.2])]) = _
  cases runsOf l with
  | nil => exact .inl rfl
  | cons e r =>
    obtain ⟨a, bs⟩ := e
    dsimp only
    by_cases h : (c.1 + 1 = a && a % 32 != 0) = true
    · rw [if_pos h]
      rw [Bool.and_eq_true, decide_eq_true_eq, bne_iff_ne] at h
      obtain ⟨rfl, hcut⟩ := h
      exact .inr ⟨bs, r, rfl, hcut, rfl⟩
    · exact .inl (if_neg h)

/-- A run lies in one sector, and each of its bytes is a cell's. -/
theorem runsOf_bounds {l : List Host.Cell} {r : Nat × List Byte} (h : r ∈ runsOf l) :
    r.1 % 32 + r.2.length ≤ 32 ∧ ∀ j < r.2.length, ∃ e ∈ l, e.1 = r.1 + j := by
  induction l generalizing r with
  | nil => cases h
  | cons c l ih =>
    rcases runsOf_cons c l with hruns | ⟨bs, rs, hold, hcut, hruns⟩
    · rw [hruns] at h
      rcases List.mem_cons.1 h with rfl | h
      · exact ⟨by simp only [List.length_singleton]; omega, fun j hj => ⟨c, List.mem_cons_self, by simp only [List.length_singleton] at hj; omega⟩⟩
      · obtain ⟨hin, hcells⟩ := ih h
        exact ⟨hin, fun j hj => (hcells j hj).imp fun e he => ⟨List.mem_cons_of_mem _ he.1, he.2⟩⟩
    · rw [hruns] at h
      rcases List.mem_cons.1 h with rfl | h
      · obtain ⟨hin, hcells⟩ := ih (r := (c.1 + 1, bs)) (by rw [hold]; exact List.mem_cons_self)
        refine ⟨by simp only [List.length_cons] at hin ⊢; omega, fun j hj => ?_⟩
        cases j with
        | zero => exact ⟨c, List.mem_cons_self, rfl⟩
        | succ j =>
          obtain ⟨e, he, hat⟩ := hcells j (by simpa using hj)
          exact ⟨e, List.mem_cons_of_mem _ he, by rw [hat]; omega⟩
      · obtain ⟨hin, hcells⟩ := ih (r := r) (by rw [hold]; exact List.mem_cons_of_mem _ h)
        exact ⟨hin, fun j hj => (hcells j hj).imp fun e he => ⟨List.mem_cons_of_mem _ he.1, he.2⟩⟩

/-- Bytes written over others, in runs. -/
def overRuns (f : Nat → Byte) (l : List (Nat × List Byte)) : Nat → Byte := l.foldl (fun f r => overlay f r.1 r.2) f

/-- The runs of cells in order of address write each cell. -/
theorem overRuns_runsOf {l : List Host.Cell} (hl : msorted l = true) (f : Nat → Byte) (a : Nat) :
    overRuns f (runsOf l) a = (mfind l a).getD (f a) := by
  induction l generalizing f with
  | nil => rfl
  | cons c l ih =>
    obtain ⟨q, v⟩ := c
    obtain ⟨hbelow, hl⟩ := msorted_cons.1 hl
    have hcons : overRuns f (runsOf ((q, v) :: l)) = overRuns (overlay f q [v]) (runsOf l) := by
      rcases runsOf_cons (q, v) l with hruns | ⟨bs, rs, hold, -, hruns⟩
      · rw [hruns]
        rfl
      · rw [hruns, hold, overRuns, overRuns, List.foldl_cons, List.foldl_cons, overlay_cons]
    rw [hcons, ih hl]
    by_cases ha : a = q
    · subst ha
      have hover : overlay f a [v] a = v := overlay_in f a (bs := [v]) (j := 0) (by simp)
      rw [mfind_below hbelow, hover]
      simp [mfind]
    · rw [overlay_out (by simp only [List.length_singleton]; omega)]
      simp [mfind, ha]

end Sys2Proof.Machine

/-! Transactions (R101 to R104, R244): TXOPEN, TXDROP and TXSEAL. -/

namespace Sys2Proof.Machine

/-! ### TXOPEN (R101) -/

/-- The lane of a transaction that a TXOPEN opens. -/
def Ctx.openLane (c : Ctx) (i : Nat) : TxLane :=
  { tries := c.W.triesAt i c.pc
    esc := c.W.triesAt i c.pc == 8
    since := if c.W.triesAt i c.pc = 8 then BitVec.ofNat 64 (mget (c.s.dieTime (c.W.core / 192)).toNat c.W.txSince i) else 0 }

/-- A warp that has opened a transaction, its results apart. -/
def Ctx.opened (c : Ctx) (W : Warp) : Warp :=
  { W with
    tx := some { addr := c.pc, since := c.s.nextId, lanes := c.lanes.map (fun i => (i, c.openLane i)), cnt := W.cnt }
    txAddr := c.lanes.foldl (fun m i => minsert m i c.pc) W.txAddr
    txTries := c.lanes.foldl (fun m i => mput 0 m i (c.W.triesAt i c.pc)) W.txTries
    txSince := c.lanes.foldl (fun m i => if c.W.triesAt i c.pc = 8 then (match mfind m i with
      | some _ => m
      | none => minsert m i (c.s.dieTime (c.W.core / 192)).toNat) else merase m i) W.txSince }

/-- What a TXOPEN writes to its destination. -/
def Ctx.openVals (c : Ctx) : List (Nat × Word) := c.lanes.map (fun i => (i, BitVec.ofNat 32 (c.W.triesAt i c.pc)))

theorem eff_txopen {c : Ctx} (hop : c.op = .txopen) (h : mfind c.s.warps c.k = some c.W) (htx : c.W.tx = none) (hlanes : c.lanes ≠ []) :
    kitTxopen.eff c = c.s.modWarp c.k (fun _ => (c.opened c.W).result 4 c.w.d.toNat c.openVals) := by
  have hlat : c.op.latency.getD 0 = 4 := by rw [hop]; rfl
  simp only [kitTxopen, htx, acts_of_lanes hlanes, Bool.not_true, Bool.false_eq_true, if_false, Ctx.put, hlat]
  rw [modWarp_const h, modWarp_modWarp]
  rfl

theorem mfind_map_key {α : Type} {l : List Nat} (f : Nat → α) {i : Nat} (h : i ∈ l) : mfind (l.map (fun i => (i, f i))) i = some (f i) := by
  induction l with
  | nil => cases h
  | cons j l ih =>
    rw [List.map_cons, mfind]
    split
    · next hj => rw [hj]
    · next hj => exact ih ((List.mem_cons.1 h).resolve_left hj)

theorem ready_txopen {c : Ctx} (hfork : c.fork? = none) : kitTxopen.Ready c := ⟨rfl, .inr hfork, rfl, .inl rfl, rfl, rfl, missing_nil c, rfl⟩

theorem result_tx (W : Warp) (lat r : Nat) (v : List (Nat × Word)) : (W.result lat r v).tx = W.tx := by
  rw [result_eq]

/-- What a TXOPEN leaves of its warp. -/
theorem warp_txopen {c : Ctx} (hop : c.op = .txopen) (h : mfind c.s.warps c.k = some c.W) (htx : c.W.tx = none) (hlanes : c.lanes ≠ []) :
    c.OnlyWarp (c.retire false (kitTxopen.eff c)) ∧
      (c.retire false (kitTxopen.eff c)).warp c.k = c.onward ((c.opened c.W).result 4 c.w.d.toNat c.openVals) := by
  rw [eff_txopen hop h htx hlanes, retire_false, modWarp_modWarp]
  exact ⟨⟨rfl, fun _ hj => find_modWarp_ne _ _ hj⟩, warp_modWarp h _⟩

theorem openVals_due {c : Ctx} {i : Nat} (hi : i ∈ c.lanes) :
    ((c.onward ((c.opened c.W).result 4 c.w.d.toNat c.openVals)).landDue (c.W.clk + 4)).reg c.w.d.toNat i = BitVec.ofNat 32 (c.W.triesAt i c.pc) := by
  rw [landDue_congr (onward_regs c _) (onward_pend c _)]
  exact (result_due (c.opened c.W) 4 c.w.d.toNat c.openVals c.w.d.toNat i).trans (placeAfter_lane _ hi _)

theorem openVals_settled {c : Ctx} (hsmall : ∀ i ∈ c.lanes, i < 64) {q p : Nat} (hq : q ≠ c.w.d.toNat) (hp : p < 64) :
    (c.onward ((c.opened c.W).result 4 c.w.d.toNat c.openVals)).settled q p = c.W.settled q p := by
  rw [settled_congr (onward_regs c _) (onward_pend c _), result_settled _ _ _ _ _ _ fun x hx => ?_]
  · exact settled_congr (V := c.opened c.W) (W := c.W) rfl rfl q p
  · obtain ⟨i, hi, rfl⟩ := List.mem_map.1 hx
    have hi64 := hsmall i hi
    dsimp only
    omega

/-! ### TXSEAL: the commit's writes (R103) -/

/-- A lane's writes have made memory's bytes `f`; of the warp, its transaction, its width and its family are as they were. -/
structure Applied (s t : State) (k : Nat) (W : Warp) (f : Nat → Byte) : Prop where
  wrote : Wrote { s with warps := t.warps } t f
  warp  : ∃ V, mfind t.warps k = some V ∧ V.tx = W.tx ∧ V.width = W.width ∧ V.twinOf = W.twinOf

theorem Applied.modWarp {s t : State} {k : Nat} {W : Warp} {f : Nat → Byte} (h : Applied s t k W f) {g : Warp → Warp}
    (hg : ∀ V, (g V).tx = V.tx ∧ (g V).width = V.width ∧ (g V).twinOf = V.twinOf) : Applied s (t.modWarp k g) k W f := by
  obtain ⟨hwrote, V, hV, htx, hwidth, htwin⟩ := h
  obtain ⟨gtx, gwidth, gtwin⟩ := hg V
  exact ⟨hwrote.withWarps (t.modWarp k g).warps, g V, find_modWarp hV g, gtx.trans htx, gwidth.trans hwidth, gtwin.trans htwin⟩

/-- One run of a commit's bytes goes to its home. -/
def commitRun (core svc k : Nat) (s : State) (r : Nat × List Byte) : State :=
  let x := s.atHome core svc { lane := 0, va := 0, pa := r.1, n := r.2.length, op := .write r.2, committing := true }
  x.1.modWarp k (fun W => W.completion x.2.gwct x.2.gwctd)

theorem txApply_eq {s : State} {k : Nat} {W : Warp} {l : TxLane} (h : mfind s.warps k = some W) (hdrops : l.drops = []) :
    s.txApply k l = (runsOf l.writes).foldl (commitRun W.core W.svc k) (s.modWarp k (fun W => W.raise l.flags)) := by
  simp only [State.txApply, hdrops, List.foldl_nil, warp_of_find h]
  rfl

theorem commitRun_applied {s t : State} {k : Nat} {W : Warp} {f : Nat → Byte} (h : Applied s t k W f) (core svc : Nat) {r : Nat × List Byte}
    (hlen : r.2.length ≤ 128) (hhome : ∀ j < r.2.length, s.homeless (r.1 + j) = false) :
    Applied s (commitRun core svc k t r) k W (overlay f r.1 r.2) := by
  have hput := atHome_wrote h.wrote.plain core svc (bs := r.2) (a := { lane := 0, va := 0, pa := r.1, n := r.2.length, op := .write r.2, committing := true })
    rfl hlen fun j hj => (h.wrote.homeless _).trans (hhome j hj)
  rw [funext h.wrote.bytes] at hput
  unfold commitRun
  dsimp only
  generalize t.atHome core svc _ = x at hput ⊢
  have hwarps : x.1.warps = t.warps := by rw [hput.rest]
  refine Applied.modWarp ⟨?_, ?_⟩ fun _ => ⟨rfl, rfl, rfl⟩
  · rw [hwarps]
    exact h.wrote.trans hput
  · rw [hwarps]
    exact h.warp

theorem commitRuns_applied {s t : State} {k : Nat} {W : Warp} {f : Nat → Byte} (h : Applied s t k W f) (core svc : Nat) {l : List (Nat × List Byte)}
    (hl : ∀ r ∈ l, r.2.length ≤ 128 ∧ ∀ j < r.2.length, s.homeless (r.1 + j) = false) :
    Applied s (l.foldl (commitRun core svc k) t) k W (overRuns f l) := by
  induction l generalizing t f with
  | nil => exact h
  | cons r l ih =>
    obtain ⟨hlen, hhome⟩ := hl r List.mem_cons_self
    exact ih (commitRun_applied h core svc hlen hhome) fun r' hr' => hl r' (List.mem_cons_of_mem _ hr')

/-- A lane's writes are in memory at once (R103). -/
theorem txApply_applied {s : State} {k : Nat} {W : Warp} {l : TxLane} (h : mfind s.warps k = some W) (hp : PlainMem s) (hdrops : l.drops = [])
    (hhome : ∀ e ∈ l.writes, s.homeless e.1 = false) : Applied s (s.txApply k l) k W (overRuns s.byteAt (runsOf l.writes)) := by
  rw [txApply_eq h hdrops]
  have hstart : Applied s s k W s.byteAt := ⟨.refl hp, W, h, rfl, rfl, rfl⟩
  refine commitRuns_applied (hstart.modWarp (g := fun W => W.raise l.flags) fun _ => ⟨rfl, rfl, rfl⟩) _ _ fun r hr => ?_
  obtain ⟨hin, hcells⟩ := runsOf_bounds hr
  refine ⟨by omega, fun j hj => ?_⟩
  obtain ⟨e, he, hat⟩ := hcells j hj
  rw [← hat]
  exact hhome e he

/-! ### TXSEAL: validation (R103) -/

section
variable {s : State} {k i : Nat} {W : Warp} {x : Tx} {l : TxLane} (h : mfind s.warps k = some W) (htx : W.tx = some x) (hlanes : x.lanes = [(i, l)])
include h htx hlanes

theorem txAlive_single : s.txAlive k = if l.cause = 0 then [(i, l)] else [] := by
  simp only [State.txAlive, warp_of_find h, htx, hlanes]
  by_cases hcause : l.cause = 0 <;> simp [hcause]

/-- A lane on its own loses to no other. -/
theorem txLanes_single : s.txLanes k = s := by
  have hnone : (s.txAlive k).filter (fun l => (s.txAlive k).any (fun x => x.1 < l.1 && x.2.clash l.2)) = [] := by
    rw [txAlive_single h htx hlanes]
    split <;> simp
  show s.txAbortMany k 1 (((s.txAlive k).filter (fun l => (s.txAlive k).any (fun x => x.1 < l.1 && x.2.clash l.2))).map (·.1)) = s
  rw [hnone]
  rfl

/-- Each sector that a live lane read is asked for; the lane aborts where one holds another value. -/
theorem txValidate_single (hcause : l.cause = 0) : ∃ sent, s.txValidate k =
    if l.reads.all (fun r => s.bytesAt (r.1 * 32) 32 == r.2) then { s with sent := sent } else ({ s with sent := sent } : State).txAbort k i 2 0 := by
  have hask (rs : List (Nat × List Byte)) (t : State) :
      ∃ sent, rs.foldl (fun s r => s.askFar (r.1 * 32) (fun p => .atom p (r.1 * 32))) t = { t with sent := sent } := by
    induction rs generalizing t with
    | nil => exact ⟨t.sent, rfl⟩
    | cons r rs ih =>
      obtain ⟨sent, hrs⟩ := ih (t.askFar (r.1 * 32) (fun p => .atom p (r.1 * 32)))
      refine ⟨sent, hrs.trans ?_⟩
      rw [askFar_rest]
  obtain ⟨sent, hsent⟩ := hask l.reads s
  refine ⟨sent, ?_⟩
  have halive : s.txAlive k = [(i, l)] := (txAlive_single h htx hlanes).trans (if_pos hcause)
  have halive' : ({ s with sent := sent } : State).txAlive k = [(i, l)] := halive
  have hstale : l.reads.any (fun r => s.bytesAt (r.1 * 32) 32 != r.2) = !l.reads.all (fun r => s.bytesAt (r.1 * 32) 32 == r.2) := by
    rw [List.not_all_eq_any_not]
    rfl
  simp only [State.txValidate, halive, List.foldl_cons, List.foldl_nil, hsent, halive', List.filter_cons, List.filter_nil, hstale]
  cases l.reads.all (fun r => s.bytesAt (r.1 * 32) 32 == r.2) <;> rfl

end

/-! ### TXSEAL: the end of the transaction (R103, R104) -/

/-- A warp whose transaction is over, the lanes `ok` committed: the saved counters return in the slices that hold its lanes. -/
def Warp.sealed (W : Warp) (x : Tx) (ok : List Nat) : Warp :=
  { W with
    tx := none
    txAddr := ok.foldl (fun m i => merase m i) W.txAddr
    txTries := ok.foldl (fun m i => merase m i) W.txTries
    txSince := ok.foldl (fun m i => merase m i) W.txSince
    cnt := (lanesIn (maskOf (x.lanes.map (fun l => l.1 / 4))) W.width).foldl (fun m i => mput 0 m i (mget 0 x.cnt i)) W.cnt }

/-- The end of a warp's transaction. -/
def State.txClose (s : State) (k d : Nat) (ok : List Nat) (late : Bool) : State :=
  match (s.warp k).tx with
  | none => s
  | some x => (({ s with holds := s.holds.filter (fun h => h.2.1 != k) } : State).modWarp k (fun W => W.sealed x ok)).launchFlight
      { warp := k, cls := 7, accs := [], vals := x.lanes.map (fun l => (d, l.1, l.2.status)), regs := [d], round := late }

/-- The last step of a seal (R103): what the surviving lanes have written takes effect, and the transaction is over. -/
def State.txCommit (s : State) (k d : Nat) (late : Bool) : State :=
  let live := s.txAlive k
  ((live.foldl (fun s l => s.txApply k l.2) s).noteWrites k ((live.foldr (fun l acc => l.2.written ++ acc) []).dedup)).txClose k d (live.map (·.1)) late

theorem txSeal_eq (s : State) (k d : Nat) (late : Bool) : s.txSeal k d late = ((s.txLanes k).txValidate k).txCommit k d late := by
  unfold State.txSeal State.txCommit
  dsimp only
  generalize State.noteWrites _ k _ = u
  unfold State.txClose
  cases (u.warp k).tx <;> rfl

/-- What the end of a transaction of one lane leaves. -/
structure Closed (s t : State) (f : Nat → Byte) (k d i : Nat) (cnt : NMap Nat) (width : Nat) (status : Word) : Prop where
  bytes  : ∀ a, t.byteAt a = f a
  warp   : ∃ V, mfind t.warps k = some V ∧ V.tx = none ∧ ∀ j < width, j / 4 = i / 4 → V.count j = mget 0 cnt j
  flight : mfind t.flights s.nextId = some { warp := k, cls := 7, accs := [], vals := [(d, i, status)], regs := [d] }

theorem Closed.from {s u t : State} {f : Nat → Byte} {k d i width : Nat} {cnt : NMap Nat} {status : Word}
    (h : Closed u t u.byteAt k d i cnt width status) (hid : u.nextId = s.nextId) (hbytes : ∀ a, u.byteAt a = f a) : Closed s t f k d i cnt width status :=
  ⟨fun a => (h.bytes a).trans (hbytes a), h.warp, hid ▸ h.flight⟩

theorem sealed_count {W : Warp} {x : Tx} {i j : Nat} {l : TxLane} (hlanes : x.lanes = [(i, l)]) (hi : i < 64) (hj : j < W.width)
    (hslice : j / 4 = i / 4) (ok : List Nat) : (W.sealed x ok).count j = mget 0 x.cnt j := by
  have hmem : j ∈ lanesIn (maskOf (x.lanes.map (fun l => l.1 / 4))) W.width := by
    rw [hlanes]
    exact mem_lanesIn.2 ⟨hj, (inMask_maskOf _ _).2 ⟨List.mem_singleton.2 hslice, by omega⟩⟩
  exact (mget_foldl_mput _ _ _ j).trans (if_pos hmem)

theorem txClose_closed {s : State} {k i : Nat} {V : Warp} {x : Tx} {l : TxLane} (h : mfind s.warps k = some V) (htx : V.tx = some x)
    (hlanes : x.lanes = [(i, l)]) (hi : i < 64) (d : Nat) (ok : List Nat) :
    Closed s (s.txClose k d ok false) s.byteAt k d i x.cnt V.width l.status := by
  let u := ({ s with holds := s.holds.filter (fun h => h.2.1 != k) } : State).modWarp k (fun W => W.sealed x ok)
  have hclose : s.txClose k d ok false = u.launchFlight { warp := k, cls := 7, accs := [], vals := [(d, i, l.status)], regs := [d] } := by
    simp only [State.txClose, warp_of_find h, htx, hlanes, List.map_cons, List.map_nil]
    rfl
  have hu : mfind u.warps k = some (V.sealed x ok) := find_modWarp (s := { s with holds := _ }) h _
  have hl := launchFlight_launched (f := { warp := k, cls := 7, accs := [], vals := [(d, i, l.status)], regs := [d] }) hu
  rw [hclose]
  refine ⟨fun a => ?_, ⟨V.sealed x ok, hl.warp, rfl, fun j hj hslice => sealed_count hlanes hi hj hslice ok⟩, hl.flight⟩
  rw [byteAt_launchFlight, byteAt_modWarp]
  rfl

section
variable {s : State} {k d i : Nat} {W : Warp} {x : Tx} {l : TxLane} (h : mfind s.warps k = some W) (htx : W.tx = some x) (hlanes : x.lanes = [(i, l)])
  (hi : i < 64) (htwin : W.twinOf = none)
include h htx hlanes hi htwin

/-- A surviving lane's writes are in memory with the commit. -/
theorem txCommit_live (hp : PlainMem s) (hcause : l.cause = 0) (hdrops : l.drops = []) (hsorted : msorted l.writes = true)
    (hhome : ∀ e ∈ l.writes, s.homeless e.1 = false) :
    Closed s (s.txCommit k d false) (fun a => (mfind l.writes a).getD (s.byteAt a)) k d i x.cnt W.width l.status := by
  have halive : s.txAlive k = [(i, l)] := (txAlive_single h htx hlanes).trans (if_pos hcause)
  obtain ⟨hwrote, V, hV, hVtx, hwidth, hVtwin⟩ := txApply_applied h hp hdrops hhome
  have hcommit : s.txCommit k d false = ((s.txApply k l).modWarp k (fun _ => V)).txClose k d [i] false := by
    rw [← noteWrites_single hV (hVtwin.trans htwin) ((l.written ++ []).dedup), State.txCommit, halive]
    rfl
  rw [hcommit, ← hwidth]
  refine (txClose_closed (find_modWarp hV _) (hVtx.trans htx) hlanes hi d _).from ?_ fun a => ?_
  · show (s.txApply k l).nextId = s.nextId
    rw [hwrote.rest]
  · rw [byteAt_modWarp, hwrote.bytes, overRuns_runsOf hsorted]

/-- With no lane left, a commit changes no memory. -/
theorem txCommit_dead (hcause : l.cause ≠ 0) : Closed s (s.txCommit k d false) s.byteAt k d i x.cnt W.width l.status := by
  have halive : s.txAlive k = [] := (txAlive_single h htx hlanes).trans (if_neg hcause)
  have hcommit : s.txCommit k d false = (s.modWarp k (fun _ => W)).txClose k d [] false := by
    rw [← noteWrites_single h htwin [], State.txCommit, halive]
    rfl
  rw [hcommit]
  exact (txClose_closed (find_modWarp h _) htx hlanes hi d _).from rfl fun a => byteAt_modWarp _ _ _ a

/-- A TXSEAL of a transaction of one live lane (R103): what it read still holds, or it has lost. -/
theorem txSeal_single (hp : PlainMem s) (hcause : l.cause = 0) (hdrops : l.drops = []) (hsorted : msorted l.writes = true)
    (hhome : ∀ e ∈ l.writes, s.homeless e.1 = false) : let held := l.reads.all (fun r => s.bytesAt (r.1 * 32) 32 == r.2)
    Closed s (s.txSeal k d false) (fun a => if held then (mfind l.writes a).getD (s.byteAt a) else s.byteAt a) k d i x.cnt W.width
      (if held then l.status else (l.aborted 2 0).status) := by
  obtain ⟨sent, hvalid⟩ := txValidate_single h htx hlanes hcause
  let v : State := { s with sent := sent }
  have hv : mfind v.warps k = some W := h
  dsimp only
  rw [txSeal_eq, txLanes_single h htx hlanes, hvalid]
  cases l.reads.all (fun r => s.bytesAt (r.1 * 32) 32 == r.2) with
  | true =>
    have hclosed := txCommit_live (d := d) hv htx hlanes hi htwin (hp.aside s.flights sent) hcause hdrops hsorted hhome
    exact ⟨hclosed.bytes, hclosed.warp, hclosed.flight⟩
  | false =>
    let x' : Tx := { x with lanes := minsert x.lanes i (l.aborted 2 0) }
    let w : State := { v with holds := v.holds.filter (fun h => h.2.1 != k || h.2.2.1 != i) }
    have hlanes' : x'.lanes = [(i, l.aborted 2 0)] := by simp [x', hlanes, minsert]
    have hlost : (l.aborted 2 0).cause ≠ 0 := by simp [TxLane.aborted, hcause]
    have habort : v.txAbort k i 2 0 = w.modWarp k (fun W => W.abortLane x i l 2 0) := txAbort_live hv htx (by simp [hlanes, mfind]) hcause 2 0
    have hV : mfind (w.modWarp k (fun W => W.abortLane x i l 2 0)).warps k = some (W.abortLane x i l 2 0) := find_modWarp (s := w) h _
    have hclosed := (txCommit_dead (d := d) hV (x := x') rfl hlanes' hi htwin hlost).from (s := s) rfl fun a => byteAt_modWarp w k _ a
    rw [← habort] at hclosed
    exact ⟨hclosed.bytes, hclosed.warp, hclosed.flight⟩

end

/-! ### The statement -/

/-- The status of a lane that committed, or lost its reads (R103 Table 5). -/
theorem status_sealed {l : TxLane} (hcause : l.cause = 0) (held : Bool) : (if held then l.status else (l.aborted 2 0).status) =
    BitVec.ofNat 32 (l.tries * 2 ^ 24 + (if l.esc then 2 ^ 16 else 0) + (if held then l.code % 256 * 256 else 0) + (if held then 0 else 2)) := by
  cases held
  · simp [TxLane.status, TxLane.aborted, hcause]
  · simp [TxLane.status, hcause]

theorem eff_txseal {c : Ctx} {x : Tx} (htx : c.W.tx = some x) :
    kitTxseal.eff c = (c.s.txSeal c.k c.w.d.toNat false).wake c.k (fun x => x == .txseal) := by
  simp only [kitTxseal, htx, Option.isNone_some, Bool.false_eq_true, if_false]

theorem ready_txseal {c : Ctx} (hfork : c.fork? = none) : kitTxseal.Ready c := ⟨rfl, .inr hfork, rfl, .inl rfl, rfl, rfl, missing_nil c, rfl⟩

theorem txLive_of_lane {W : Warp} {i : Nat} {l : TxLane} (h : W.txLane i = some l) (hcause : l.cause = 0) : W.txLive i = true := by
  obtain ⟨x, htx, hfind⟩ := Option.bind_eq_some_iff.1 h
  simp [Warp.txLive, htx, hfind, hcause]

theorem ready_txdrop (c : Ctx) : kitTxdrop.Ready c := ⟨rfl, .inl rfl, rfl, .inl rfl, rfl, rfl, missing_nil c, rfl⟩

theorem wait_txseal {c : Ctx} (hdirect : c.s.buffered c.W = false) (hreads : c.s.readsOut c.k c.s.nextId = false)
    (hway : c.s.onWay c.k (c.s.txRanges c.k) = false) (hslices : c.W.txSlices &&& ~~~(c.W.atSeal ||| c.m) = 0) (hheld : c.s.txHeld c.k = []) :
    kitTxseal.wait c = (c.s, none) := by
  show c.sealWait = (c.s, none)
  simp only [Ctx.sealWait, hdirect, hreads, hway, hslices, hheld, Bool.or_self, Bool.and_false, Bool.false_eq_true, if_false, ne_eq, not_true_eq_false, ite_self]

/-- Settles O35: TXOPEN by the lanes it opens, its aborts and TXDROP's by `foldl_txAbort`, TXSEAL by `txSeal_single`. -/
theorem transactions : Obligations.Transactions := by
  unfold Obligations.Transactions
  refine ⟨⟨?_, ?_, ?_⟩, fun i l x hi hlanes hcause hdrops hsorted => ?_⟩
  · refine runs_of (fun _ => rfl) fun c hop _ hc ⟨hfork, htx, hlanes⟩ => ⟨(ready_txopen hfork).lets rfl rfl, ?_⟩
    obtain ⟨honly, hwarp⟩ := warp_txopen hop hc.listed htx hlanes
    have htxs : ((c.retire false (kitTxopen.eff c)).warp c.k).tx =
        some { addr := c.pc, since := c.s.nextId, lanes := c.lanes.map (fun i => (i, c.openLane i)), cnt := c.W.cnt } := by
      rw [hwarp]
      exact result_tx _ _ _ _
    refine ⟨honly, ⟨_, htxs, rfl, rfl, ?_⟩, fun i hi => ⟨c.openLane i, ?_, rfl, rfl, Bool.beq_eq_decide_eq _ _, rfl, rfl, rfl⟩,
      fun i hi _ => ?_, fun q p hq hp hsmall => ?_⟩
    · rw [List.map_map]
      exact List.map_id _
    · exact (congrArg (fun x : Option Tx => x.bind (fun x => mfind x.lanes i)) htxs).trans (mfind_map_key c.openLane hi)
    · exact (congrArg (fun V : Warp => (V.landDue (c.W.clk + 4)).reg c.w.d.toNat i) hwarp).trans (openVals_due hi)
    · exact (congrArg (fun V : Warp => V.settled q p) hwarp).trans (openVals_settled hsmall hq hp)
  · refine runs_of (fun _ => rfl) fun c _ _ hc ⟨hfork, htx⟩ => ⟨(ready_txopen hfork).lets rfl rfl, ?_⟩
    obtain ⟨x, htx⟩ := Option.isSome_iff_exists.1 htx
    have heff : kitTxopen.eff c = (x.lanes.map (·.1)).foldl (fun s i => s.txAbort c.k i 5 0) c.s := by simp only [kitTxopen, htx]
    obtain ⟨hlanes, hsettled, hmem⟩ := (foldl_txAbort hc.listed (cause := 5) (by omega) (fun _ => 0) (x.lanes.map (·.1))).retired
    rw [← heff] at hlanes hsettled hmem
    refine ⟨fun i l hl hcause => ?_, hsettled, hmem⟩
    have hfind : mfind x.lanes i = some l := by
      have hl' : c.W.txLane i = some l := hl
      rwa [Warp.txLane, htx] at hl'
    refine ⟨l.aborted 5 0, ?_, ?_, ?_⟩
    · refine (hlanes i).trans ?_
      rw [if_pos (List.mem_map.2 ⟨(i, l), mem_of_find hfind, rfl⟩), show c.W.txLane i = some l from hl, Option.map_some]
    · rw [TxLane.aborted, if_pos hcause]
    · rw [TxLane.aborted, if_pos hcause]
  · refine runs_of (fun _ => rfl) fun c _ _ hc _ => ⟨(ready_txdrop c).lets rfl rfl, ?_⟩
    obtain ⟨hlanes, hsettled, hmem⟩ := (foldl_txAbort hc.listed (cause := 4) (by omega) (fun i => ((c.a i).extractLsb' 0 8).toNat)
      (c.lanes.filter c.W.txLive)).retired
    refine ⟨fun i hi l hl hcause => ?_, fun i hi => ?_, hsettled, hmem⟩
    · refine ⟨l.aborted 4 ((c.a i).extractLsb' 0 8).toNat, ?_, ?_⟩
      · refine (hlanes i).trans ?_
        rw [if_pos (List.mem_filter.2 ⟨hi, txLive_of_lane hl hcause⟩), show c.W.txLane i = some l from hl, Option.map_some]
      · rw [TxLane.aborted, if_pos hcause]
        exact ⟨rfl, rfl, rfl⟩
    · exact (hlanes i).trans (if_neg fun hmem => hi (List.mem_of_mem_filter hmem))
  · refine runs_of (fun _ => rfl) fun c _ _ hc ⟨hhome, hway, htx, hdirect, htwin, hfork, hreads, hslices, hheld, hp⟩ => ⟨?_, ?_⟩
    · exact (ready_txseal hfork).lets (wait_txseal hdirect hreads hway hslices hheld) rfl
    · have hclosed := txSeal_single (d := c.w.d.toNat) hc.listed htx hlanes hi htwin hp hcause hdrops hsorted hhome
      obtain ⟨hbytes, ⟨V, hV, hVtx, hVcount⟩, hflight⟩ := hclosed
      have heff := eff_txseal htx
      obtain ⟨V', hV', htx', hcount'⟩ : ∃ V', (c.retire false (kitTxseal.eff c)).warp c.k = V' ∧ V'.tx = V.tx ∧ V'.cnt = V.cnt := by
        rw [heff]
        exact ⟨_, warp_modWarp (find_modWarp hV _) _, rfl, rfl⟩
      rw [status_sealed hcause] at hflight
      have hsent : (c.retire false (kitTxseal.eff c)).flights = (c.s.txSeal c.k c.w.d.toNat false).flights := by
        rw [heff, retire_false, modWarp_flights, State.wake, modWarp_flights]
      refine ⟨?_, fun a => ?_, fun j hj hslice => ?_, _, (congrArg (fun m => mfind m c.s.nextId) hsent).trans hflight, rfl, rfl⟩
      · exact (congrArg Warp.tx hV').trans (htx'.trans hVtx)
      · show (c.retire false (kitTxseal.eff c)).byteAt a = _
        rw [heff, byteAt_retire, State.wake, byteAt_modWarp]
        exact hbytes a
      · refine (congrArg (fun V : Warp => V.count j) hV').trans ?_
        rw [Warp.count, hcount']
        exact hVcount j hj hslice

end Sys2Proof.Machine
